-- ==== Sys2Proof/Word.lean ====
section
/-! DEFINITION. The machine's words (R1 to R3): 64-bit words, bytes. -/
namespace Sys2Proof

/-- A 64-bit word, the width of every `g` and `v` register (R25, R26). -/
abbrev Word := BitVec 64

/-- A byte. -/
abbrev Byte := BitVec 8

end Sys2Proof
end

