-- ==== Sys2Proof/Config.lean ====
section
/-! DEFINITION. What the spec leaves open: free values, which nothing in Lean can evaluate (log 9, log 13). Each is a constant
with no body; the model applies the first of them to a counter of the state, so that each use has a value of its own. -/
namespace Sys2Proof

/-- A value the spec leaves open, one for each use. -/
opaque Config.freeValue : Nat → Word

/-- How the 32 banks of a scratchpad (Table 0.3) share its addresses: the run of bytes of one bank is 8 times a power of two (log 75). -/
opaque Config.bankGrain : Nat

/-- The cluster, by die and number, whose copy engine serves the paged addresses of requests that arrive on a Hinge port (R269, log 16). -/
opaque Config.hingeCluster : Nat → Nat × Nat

/-- SM3 (R483): the digest of a list of bytes, 32 bytes, named by its standard only. -/
opaque Config.sm3 : List Byte → List Byte

/-- Verification of an SM2 signature over a digest with a key (R448). -/
opaque Config.sm2Verify : List Byte → List Byte → List Byte → Bool

/-- An SM2 signature of a digest with the identity key (R484), 64 bytes. -/
opaque Config.sm2Sign : List Byte → List Byte

/-- The fused seed (R482). -/
opaque Config.seed : List Byte

/-- The translation key that a seed and a measurement give (R482). -/
opaque Config.translationKey : List Byte → List Byte → List Byte

/-- The signature of a translation with a translation key (R459). -/
opaque Config.translationSign : List Byte → List Byte → List Byte

/-- Translations that the cache holds beside the last one (R460). -/
opaque Config.translations : Nat

/-- The public identity key, which the fused seed alone gives (R464, R482), 64 bytes. -/
opaque Config.idKey : List Byte

/-- The version of the translator (R459). -/
opaque Config.translator : BitVec 32

/-- Slot 3's system vector, a line address that firmware writes at start (R476). -/
opaque Config.slot3Vector : BitVec 48

/-- The silicon stepping (Table 19.3). -/
opaque Config.stepping : BitVec 16

end Sys2Proof
end

