-- ==== Sys2Proof/Syntax.lean ====
section
/-! DEFINITION. The instructions of the Voxium set as syntax (chapters 02 to 22 of the spec): one operand record per tail
shape, and Instr, one constructor per row of the opcode table. Register fields are the raw 6-bit codes of R47; which
codes an instruction accepts is WellFormed's matter. -/
namespace Sys2Proof

/-- A 6-bit register field (R47). -/
abbrev Reg := BitVec 6

/-- A register of the host's BAR 0, of a core's debug module or of a die's histogram engine that has no behaviour of
its own beyond R5 (Tables 19.3, 19.10, 22.3, 22.5); `other` is any other offset, which is reserved or read only. -/
inductive PlainReg where
  | modId
  | gvec
  | hingeEn (port : BitVec 3)
  | msix (vec : BitVec 11) (word : BitVec 2)
  | dctl
  | dacc
  | ddata
  | ibp (n : BitVec 2)
  | wp (m : BitVec 1)
  | wpm (m : BitVec 1)
  | hctl (die : BitVec 4)
  | hbase (die : BitVec 4)
  | obs (die : BitVec 4)
  | other (off : BitVec 24)
deriving DecidableEq, Repr

/-- What a request from another module asks (chapter 10 at system scope, R446). -/
inductive HingeOp where
  | message (srcX srcY coreX coreY : BitVec 10) (cls : BitVec 2) (words : List (BitVec 64))
  | read (addr : BitVec 48) (len : Nat)
  | write (addr : BitVec 48) (bytes : List (BitVec 8))
deriving DecidableEq, Repr

/-- A request that arrives on a Hinge port: the module and context it comes from, the context it names here (R446). -/
structure HingeReq where
  fromMod : BitVec 16
  fromCtx : BitVec 4
  ctx : BitVec 4
  op : HingeOp
deriving DecidableEq, Repr

/-- The port kinds of R387, in that order. -/
inductive LinkKind where
  | nearMesh | memoryTree | bridge | modulePort | hostLink
deriving DecidableEq, Repr

/-- One link: its kind, the die it belongs to and its index there (R469, R494). -/
structure LinkId where
  kind : LinkKind
  die : BitVec 4
  index : Nat
deriving DecidableEq, Repr

/-- What the power manager measures in one window (R478): module power in milliwatts, junction temperature of each die
in tenths of a degree. -/
structure PowerSense where
  milliwatts : Nat
  tempTenths : List Nat
deriving DecidableEq, Repr

/-- An entry of the repair map (R474): a core, and the core of a spare cluster of its die that stands for it; a cluster, and the spare
cluster; an SRAM word that failed the self-test (Table 21.9, step 2); a retired frame. -/
inductive Repair where
  | core (die clu core spareClu spareCore : Nat)
  | cluster (die clu spare : Nat)
  | word (loc : Nat)
  | frame (n : Nat)
deriving DecidableEq, Repr

/-- What a start finds (Table 21.9): whether every step of it ends (R480), SRAM words that fail the self-test, whether HBM and the
links train, and whether they do when the recovery image boots (R481), the firmware images in load order and the recovery image, each
an object with its signature block (log 86), the key slots in the management store, and the fuses: security versions, digests of the
key slots (R482), manufacturing repairs (R474). -/
structure StartInput where
  ends : Bool
  failedWords : List Nat
  hbmTrains : Bool
  linksTrain : Bool
  recoveryTrains : Bool
  images : List (List (BitVec 8))
  recovery : List (List (BitVec 8))
  keys : List (List (BitVec 8))
  fuses : List (BitVec 8)
  keyDigests : List (List (BitVec 8))
  made : List Repair
deriving DecidableEq, Repr

/-- How a training ends (R445, Table 19.1): up with so many lanes and the remote module's MODID, or not up; whether the partner has FLIT mode. -/
structure Training where
  up : Bool
  lanes : BitVec 5
  rid : BitVec 16
  flit : Bool
deriving DecidableEq, Repr

/-- K tail of 16 bits (R48). -/
structure K16 where
  k : BitVec 16
deriving DecidableEq, Repr

/-- K tail of 32 bits (R48). -/
structure K32 where
  k : BitVec 32
deriving DecidableEq, Repr

/-- K tail of 64 bits (R48). -/
structure K64 where
  k : BitVec 64
deriving DecidableEq, Repr

/-- RR: G destination, G sources A and B (R99). -/
structure GGG where
  d : Reg
  a : Reg
  b : Reg
deriving DecidableEq, Repr

/-- RR: G destination, G source A. -/
structure GG where
  d : Reg
  a : Reg
deriving DecidableEq, Repr

/-- RRX: G destination, G sources A, B and C (R101). -/
structure GGGG where
  d : Reg
  a : Reg
  b : Reg
  c : Reg
deriving DecidableEq, Repr

/-- I tail (R102). -/
structure GGI10 where
  d : Reg
  a : Reg
  imm : BitVec 10
deriving DecidableEq, Repr

/-- IX tail (R102). -/
structure GGI26 where
  d : Reg
  a : Reg
  imm : BitVec 26
deriving DecidableEq, Repr

/-- SH tail (R103). -/
structure ShiftI where
  d : Reg
  a : Reg
  amt : BitVec 6
deriving DecidableEq, Repr

/-- G destination, K tail of 16 bits (R105). -/
structure GK16 where
  d : Reg
  k : BitVec 16
deriving DecidableEq, Repr

/-- F destination, K tail of 16 bits (R191). -/
structure FK16 where
  d : Reg
  k : BitVec 16
deriving DecidableEq, Repr

/-- G destination, K tail of 32 bits (R105). -/
structure GK32 where
  d : Reg
  k : BitVec 32
deriving DecidableEq, Repr

/-- F destination, K tail of 32 bits (R191). -/
structure FK32 where
  d : Reg
  k : BitVec 32
deriving DecidableEq, Repr

/-- G destination, K tail of 64 bits (R105). -/
structure GK64 where
  d : Reg
  k : BitVec 64
deriving DecidableEq, Repr

/-- F destination, K tail of 64 bits (R191). -/
structure FK64 where
  d : Reg
  k : BitVec 64
deriving DecidableEq, Repr

/-- lea with an M tail (R107). -/
structure LeaM where
  d : Reg
  base : Reg
  sz : BitVec 2
  off : BitVec 7
deriving DecidableEq, Repr

/-- lea with an MX tail (R107). -/
structure LeaX where
  d : Reg
  base : Reg
  ix : BitVec 1
  body : BitVec 17
deriving DecidableEq, Repr

/-- BF tail (R110). -/
structure BitF where
  d : Reg
  a : Reg
  pos : BitVec 6
  lenm1 : BitVec 6
deriving DecidableEq, Repr

/-- CI tail, IMM8 (R104). -/
structure GGI8 where
  d : Reg
  a : Reg
  imm : BitVec 8
deriving DecidableEq, Repr

/-- CI tail, IMM24 (R104). -/
structure GGI24 where
  d : Reg
  a : Reg
  imm : BitVec 24
deriving DecidableEq, Repr

/-- B tail (R114). -/
structure BrB where
  a : Reg
  b : Reg
  off : BitVec 20
deriving DecidableEq, Repr

/-- B tail with the B field reserved (R115). -/
structure BrZ where
  a : Reg
  off : BitVec 20
deriving DecidableEq, Repr

/-- J tail (R116). -/
structure Jmp where
  off : BitVec 20
deriving DecidableEq, Repr

/-- J tail with a G register in D (R116, R117). -/
structure GJmp where
  d : Reg
  off : BitVec 20
deriving DecidableEq, Repr

/-- a G register in D. -/
structure GD where
  d : Reg
deriving DecidableEq, Repr

/-- rep: BL - 1, COUNT register, S - 1, W - 1, MASK (Table 4.7). -/
structure RepO where
  bl : BitVec 4
  a : Reg
  st : BitVec 3
  wr : BitVec 4
  mask : BitVec 4
deriving DecidableEq, Repr

/-- ld with an M tail. -/
structure LdM where
  d : Reg
  base : Reg
  sz : BitVec 2
  zx : BitVec 1
  off : BitVec 7
deriving DecidableEq, Repr

/-- ld with an MX tail. -/
structure LdX where
  d : Reg
  base : Reg
  sz : BitVec 2
  zx : BitVec 1
  ix : BitVec 1
  body : BitVec 17
deriving DecidableEq, Repr

/-- lda (Table 5.1). -/
structure LdaX where
  d : Reg
  base : Reg
  sz : BitVec 2
  zx : BitVec 1
  sc : BitVec 3
  gm : BitVec 2
  ix : BitVec 1
  body : BitVec 17
deriving DecidableEq, Repr

/-- ldfe and stef (Table 5.1). -/
structure FeX where
  d : Reg
  base : Reg
  sc : BitVec 3
  gm : BitVec 2
  ix : BitVec 1
  body : BitVec 17
deriving DecidableEq, Repr

/-- ldff with an M tail (SZ 3). -/
structure LdffM where
  d : Reg
  base : Reg
  off : BitVec 7
deriving DecidableEq, Repr

/-- ldff with an MX tail. -/
structure LdffX where
  d : Reg
  base : Reg
  sc : BitVec 3
  gm : BitVec 2
  ix : BitVec 1
  body : BitVec 17
deriving DecidableEq, Repr

/-- st with an M tail. -/
structure StM where
  d : Reg
  base : Reg
  sz : BitVec 2
  off : BitVec 7
deriving DecidableEq, Repr

/-- st with an MX tail. -/
structure StX where
  d : Reg
  base : Reg
  sz : BitVec 2
  ix : BitVec 1
  body : BitVec 17
deriving DecidableEq, Repr

/-- stl (Table 5.1). -/
structure StlX where
  d : Reg
  base : Reg
  sz : BitVec 2
  sc : BitVec 3
  gm : BitVec 2
  ix : BitVec 1
  body : BitVec 17
deriving DecidableEq, Repr

/-- feset with an M tail. -/
structure FesetM where
  val : BitVec 1
  base : Reg
  off : BitVec 7
deriving DecidableEq, Repr

/-- feset with an MX tail. -/
structure FesetX where
  val : BitVec 1
  base : Reg
  ix : BitVec 1
  body : BitVec 17
deriving DecidableEq, Repr

/-- fld, fst with an M tail. -/
structure FMemM where
  d : Reg
  base : Reg
  sz : BitVec 2
  off : BitVec 7
deriving DecidableEq, Repr

/-- fld, fst with an MX tail. -/
structure FMemX where
  d : Reg
  base : Reg
  sz : BitVec 2
  ix : BitVec 1
  body : BitVec 17
deriving DecidableEq, Repr

/-- ldp, stp with an M tail (R47). -/
structure PairM where
  d : Reg
  base : Reg
  off : BitVec 7
deriving DecidableEq, Repr

/-- ldp, stp with an MX tail. -/
structure PairX where
  d : Reg
  base : Reg
  ix : BitVec 1
  body : BitVec 17
deriving DecidableEq, Repr

/-- fence (Table 5.1). -/
structure FenceO where
  sc : BitVec 3
  gm : BitVec 2
deriving DecidableEq, Repr

/-- waita (Table 5.1). -/
structure WaitaX where
  d : Reg
  base : Reg
  sz : BitVec 2
  zx : BitVec 1
  sc : BitVec 3
  gm : BitVec 2
  ix : BitVec 1
  body : BitVec 17
deriving DecidableEq, Repr

/-- pref with an M tail. -/
structure PrefM where
  pg : BitVec 1
  base : Reg
  sz : BitVec 2
  off : BitVec 7
deriving DecidableEq, Repr

/-- pref with an MX tail. -/
structure PrefX where
  pg : BitVec 1
  base : Reg
  sz : BitVec 2
  ix : BitVec 1
  body : BitVec 17
deriving DecidableEq, Repr

/-- AT tail (R131). -/
structure AtO where
  d : Reg
  base : Reg
  src : Reg
  sz : BitVec 2
  sc : BitVec 3
  gm : BitVec 2
  acq : BitVec 1
  rel : BitVec 1
deriving DecidableEq, Repr

/-- casp (R131, R150). -/
structure CaspO where
  d : Reg
  base : Reg
  src : Reg
  sc : BitVec 3
  gm : BitVec 2
  acq : BitVec 1
  rel : BitVec 1
deriving DecidableEq, Repr

/-- sbind (Table 6.3, R167). -/
structure SbindO where
  u : BitVec 2
  a : Reg
  kind : BitVec 2
  dir : BitVec 1
  esz : BitVec 2
  dims : BitVec 2
deriving DecidableEq, Repr

/-- sdim, RRX (Table 6.3). -/
structure SdimR where
  u : BitVec 2
  a : Reg
  b : Reg
  k : BitVec 2
deriving DecidableEq, Repr

/-- sdim, W (Table 6.3). -/
structure SdimW where
  u : BitVec 2
  k : BitVec 2
  cnt : BitVec 16
  stride : BitVec 24
deriving DecidableEq, Repr

/-- sidx, RRX. -/
structure SidxR where
  u : BitVec 2
  a : Reg
  ish : BitVec 3
  isz : BitVec 1
deriving DecidableEq, Repr

/-- sidx, W. -/
structure SidxW where
  u : BitVec 2
  a : Reg
  ish : BitVec 3
  isz : BitVec 1
  imm : BitVec 40
deriving DecidableEq, Repr

/-- sdir (Table 6.3). -/
structure SdirO where
  u : BitVec 2
  dir : BitVec 1
  rpt : BitVec 2
deriving DecidableEq, Repr

/-- sgo, sstop: a mask of units. -/
structure Units where
  m : BitVec 3
deriving DecidableEq, Repr

/-- sskip, spos, sstat: unit and G register. -/
structure UnitG where
  u : BitVec 2
  a : Reg
deriving DecidableEq, Repr

/-- ssave, sload with an M tail. -/
structure UnitM where
  u : BitVec 2
  base : Reg
  off : BitVec 7
deriving DecidableEq, Repr

/-- ssave, sload with an MX tail. -/
structure UnitX where
  u : BitVec 2
  base : Reg
  ix : BitVec 1
  body : BitVec 17
deriving DecidableEq, Repr

/-- sisect, sunion (Table 6.3). -/
structure SetO where
  u : BitVec 2
  la : BitVec 2
  lb : BitVec 2
  cnt : BitVec 1
deriving DecidableEq, Repr

/-- scoord (Table 6.3). -/
structure ScoordO where
  u : BitVec 2
  a : Reg
  b : Reg
  cs : BitVec 2
  dir : BitVec 1
deriving DecidableEq, Repr

/-- F, RR: D, A, B and PR. -/
structure FP3 where
  d : Reg
  a : Reg
  b : Reg
  pr : BitVec 2
deriving DecidableEq, Repr

/-- F, RRX: D, A, B, holds HA HB, PR and RND. -/
structure FP3R where
  d : Reg
  a : Reg
  b : Reg
  h : BitVec 2
  pr : BitVec 2
  rnd : BitVec 3
deriving DecidableEq, Repr

/-- F, RRX: D, A, B, holds and PR. -/
structure FP3H where
  d : Reg
  a : Reg
  b : Reg
  h : BitVec 2
  pr : BitVec 2
deriving DecidableEq, Repr

/-- fma forms: D, A, B, C, holds, PR and RND. -/
structure FP4R where
  d : Reg
  a : Reg
  b : Reg
  c : Reg
  h : BitVec 3
  pr : BitVec 2
  rnd : BitVec 3
deriving DecidableEq, Repr

/-- F, RR: D, A and PR. -/
structure FP2 where
  d : Reg
  a : Reg
  pr : BitVec 2
deriving DecidableEq, Repr

/-- F, RRX: D, A, hold HA and PR. -/
structure FP2H where
  d : Reg
  a : Reg
  h : BitVec 1
  pr : BitVec 2
deriving DecidableEq, Repr

/-- special function without FP64, RR (R185). -/
structure FS2 where
  d : Reg
  a : Reg
  pr : BitVec 2
deriving DecidableEq, Repr

/-- special function without FP64, RRX (R185). -/
structure FS2H where
  d : Reg
  a : Reg
  h : BitVec 1
  pr : BitVec 2
deriving DecidableEq, Repr

/-- fcmp, RR. -/
structure FC3 where
  d : Reg
  a : Reg
  b : Reg
  pr : BitVec 2
deriving DecidableEq, Repr

/-- fcmp, RRX. -/
structure FC3H where
  d : Reg
  a : Reg
  b : Reg
  h : BitVec 2
  pr : BitVec 2
deriving DecidableEq, Repr

/-- fclass. -/
structure FC2 where
  d : Reg
  a : Reg
  pr : BitVec 2
deriving DecidableEq, Repr

/-- fcvt, RR. -/
structure CvtR where
  d : Reg
  a : Reg
  sf : BitVec 2
  df : BitVec 2
deriving DecidableEq, Repr

/-- fcvt, RRX. -/
structure CvtX where
  d : Reg
  a : Reg
  h : BitVec 1
  sf : BitVec 2
  df : BitVec 2
  rnd : BitVec 3
deriving DecidableEq, Repr

/-- fcvti, RR. -/
structure CviR where
  d : Reg
  a : Reg
  sf : BitVec 2
  un : BitVec 1
deriving DecidableEq, Repr

/-- fcvti, RRX. -/
structure CviX where
  d : Reg
  a : Reg
  h : BitVec 1
  sf : BitVec 2
  un : BitVec 1
  rnd : BitVec 3
deriving DecidableEq, Repr

/-- icvtf, RR. -/
structure IcvR where
  d : Reg
  a : Reg
  df : BitVec 2
  un : BitVec 1
deriving DecidableEq, Repr

/-- icvtf, RRX. -/
structure IcvX where
  d : Reg
  a : Reg
  h : BitVec 1
  df : BitVec 2
  un : BitVec 1
  rnd : BitVec 3
deriving DecidableEq, Repr

/-- fmvg. -/
structure GF where
  d : Reg
  a : Reg
deriving DecidableEq, Repr

/-- gmvf. -/
structure FG where
  d : Reg
  a : Reg
deriving DecidableEq, Repr

/-- fsel. -/
structure F4H where
  d : Reg
  a : Reg
  b : Reg
  c : Reg
  h : BitVec 3
deriving DecidableEq, Repr

/-- packed, RR: D, A, B and E. -/
structure PE3 where
  d : Reg
  a : Reg
  b : Reg
  e : BitVec 2
deriving DecidableEq, Repr

/-- packed, RRX: D, A, B, holds and E. -/
structure PE3H where
  d : Reg
  a : Reg
  b : Reg
  h : BitVec 2
  e : BitVec 2
deriving DecidableEq, Repr

/-- pfma, pdot. -/
structure PE4H where
  d : Reg
  a : Reg
  b : Reg
  c : Reg
  h : BitVec 3
  e : BitVec 2
deriving DecidableEq, Repr

/-- pbcast, RR. -/
structure PBc where
  d : Reg
  a : Reg
  lane : BitVec 4
  e : BitVec 2
deriving DecidableEq, Repr

/-- pbcast, RRX. -/
structure PBcH where
  d : Reg
  a : Reg
  lane : BitVec 4
  h : BitVec 1
  e : BitVec 2
deriving DecidableEq, Repr

/-- ppack and pq, RR. -/
structure PW3 where
  d : Reg
  a : Reg
  b : Reg
  e : BitVec 2
  wf : BitVec 2
deriving DecidableEq, Repr

/-- ppack, RRX. -/
structure PW3H where
  d : Reg
  a : Reg
  b : Reg
  h : BitVec 2
  e : BitVec 2
  wf : BitVec 2
  part : BitVec 4
deriving DecidableEq, Repr

/-- pq, RRX. -/
structure PW4H where
  d : Reg
  a : Reg
  b : Reg
  c : Reg
  h : BitVec 3
  e : BitVec 2
  wf : BitVec 2
  part : BitVec 4
deriving DecidableEq, Repr

/-- punpack and pdq, RR. -/
structure PW2 where
  d : Reg
  a : Reg
  e : BitVec 2
  wf : BitVec 2
deriving DecidableEq, Repr

/-- punpack, RRX. -/
structure PW2H where
  d : Reg
  a : Reg
  h : BitVec 1
  e : BitVec 2
  wf : BitVec 2
  part : BitVec 4
deriving DecidableEq, Repr

/-- pdq, RRX. -/
structure PWcH where
  d : Reg
  a : Reg
  c : Reg
  ha : BitVec 1
  hc : BitVec 1
  e : BitVec 2
  wf : BitVec 2
  part : BitVec 4
deriving DecidableEq, Repr

/-- pbit, RR. -/
structure F3 where
  d : Reg
  a : Reg
  b : Reg
deriving DecidableEq, Repr

/-- pbit, RRX. -/
structure F3H where
  d : Reg
  a : Reg
  b : Reg
  h : BitVec 2
deriving DecidableEq, Repr

/-- pmov, RR. -/
structure F2 where
  d : Reg
  a : Reg
deriving DecidableEq, Repr

/-- pmov, RRX. -/
structure F2H where
  d : Reg
  a : Reg
  h : BitVec 1
deriving DecidableEq, Repr

/-- send (Table 10.1). -/
structure SendO where
  d : Reg
  a : Reg
  cls : BitVec 2
  nm1 : BitVec 2
  sc : BitVec 3
  gm : BitVec 2
deriving DecidableEq, Repr

/-- sendn (Table 10.1). -/
structure SendnO where
  d : Reg
  cls : BitVec 2
  nm1 : BitVec 2
  dx : BitVec 10
  dy : BitVec 10
  sc : BitVec 3
  gm : BitVec 2
deriving DecidableEq, Repr

/-- recv, RR (R257). -/
structure RecvR where
  d : Reg
  a : Reg
  cls : BitVec 2
  sc : BitVec 3
  gm : BitVec 1
deriving DecidableEq, Repr

/-- recv, RRX (R257). -/
structure RecvX where
  d : Reg
  a : Reg
  cls : BitVec 2
  sc : BitVec 3
  gm : BitVec 2
deriving DecidableEq, Repr

/-- mstat. -/
structure GCls where
  d : Reg
  cls : BitVec 2
deriving DecidableEq, Repr

/-- qend: a port and a G payload. -/
structure QendO where
  port : BitVec 2
  a : Reg
deriving DecidableEq, Repr

/-- qctl. -/
structure QctlO where
  d : Reg
  a : Reg
  pc : BitVec 2
deriving DecidableEq, Repr

/-- get, put. -/
structure XferO where
  d : Reg
  a : Reg
  b : Reg
  ctr : BitVec 4
  rmod : BitVec 8
deriving DecidableEq, Repr

/-- getx, putx. -/
structure XferI where
  d : Reg
  a : Reg
  b : Reg
  c : Reg
  ctr : BitVec 4
  esz : BitVec 2
  rmod : BitVec 8
  ish : BitVec 3
  isz : BitVec 1
deriving DecidableEq, Repr

/-- cwait, cop. -/
structure CtrO where
  d : Reg
  a : Reg
  ctr : BitVec 4
deriving DecidableEq, Repr

/-- mbind. -/
structure MbindO where
  mi : BitVec 2
  a : Reg
  b : Reg
  slot : BitVec 2
  trig : BitVec 2
  cls : BitVec 2
deriving DecidableEq, Repr

/-- gbar.arr. -/
structure GbarA where
  gm : BitVec 2
deriving DecidableEq, Repr

/-- gbar.wait, gbar. -/
structure GbarG where
  gm : BitVec 2
  a : Reg
deriving DecidableEq, Repr

/-- gred, RR. -/
structure GredR where
  d : BitVec 6
  a : BitVec 6
  gm : BitVec 2
  file : BitVec 1
  ty : BitVec 1
deriving DecidableEq, Repr

/-- gred, RRX. -/
structure GredX where
  d : BitVec 6
  a : BitVec 6
  gm : BitVec 2
  file : BitVec 1
  ty : BitVec 1
deriving DecidableEq, Repr

/-- gcast, RR. -/
structure GcastR where
  d : BitVec 6
  a : BitVec 6
  gm : BitVec 2
  file : BitVec 1
deriving DecidableEq, Repr

/-- gcast, RRX. -/
structure GcastX where
  d : BitVec 6
  a : BitVec 6
  c : Reg
  gm : BitVec 2
  file : BitVec 1
deriving DecidableEq, Repr

/-- gsum. -/
structure GsumO where
  d : Reg
  a : Reg
  gm : BitVec 2
deriving DecidableEq, Repr

/-- semsig, semwait, RR. -/
structure SemR where
  d : Reg
  a : Reg
  b : Reg
  sc : BitVec 3
  gm : BitVec 1
deriving DecidableEq, Repr

/-- semsig, semwait, RRX. -/
structure SemX where
  d : Reg
  a : Reg
  b : Reg
  sc : BitVec 3
  gm : BitVec 2
deriving DecidableEq, Repr

/-- evc.rd, evc.rc. -/
structure EvcN where
  d : Reg
  n : BitVec 4
deriving DecidableEq, Repr

/-- evc.set. -/
structure EvcA where
  d : Reg
  a : Reg
  n : BitVec 4
deriving DecidableEq, Repr

/-- vbind with an M tail. -/
structure VbM where
  cs : BitVec 2
  base : Reg
  off : BitVec 7
deriving DecidableEq, Repr

/-- vbind with an MX tail. -/
structure VbX where
  cs : BitVec 2
  base : Reg
  ix : BitVec 1
  body : BitVec 17
deriving DecidableEq, Repr

/-- vbind.off. -/
structure VbOff where
  cs : BitVec 2
deriving DecidableEq, Repr

/-- cld. -/
structure CldO where
  d : Reg
  a : Reg
  cs : BitVec 2
  sx : BitVec 1
deriving DecidableEq, Repr

/-- cst, cprobe, cnbr, calloc.get, calloc.cut. -/
structure CvO where
  d : Reg
  a : Reg
  cs : BitVec 2
deriving DecidableEq, Repr

/-- camo. -/
structure CamoO where
  d : Reg
  a : Reg
  c : Reg
  cs : BitVec 2
  acq : BitVec 1
  rel : BitVec 1
deriving DecidableEq, Repr

/-- cinv. -/
structure CinvO where
  sc : BitVec 3
  gm : BitVec 2
  a : Reg
  cs : BitVec 2
deriving DecidableEq, Repr

/-- cinv.all. -/
structure CinvA where
  sc : BitVec 3
  gm : BitVec 2
  cs : BitVec 2
deriving DecidableEq, Repr

/-- calloc.free. -/
structure CfreeO where
  d : Reg
  cs : BitVec 2
deriving DecidableEq, Repr

/-- calloc.node. -/
structure CnodeO where
  d : Reg
  a : Reg
  cs : BitVec 2
  lvl : BitVec 2
deriving DecidableEq, Repr

/-- csrr (R221). -/
structure CsrR where
  d : Reg
  num : BitVec 10
deriving DecidableEq, Repr

/-- csrw, csrs, csrc (R221). -/
structure CsrA where
  d : Reg
  a : Reg
  num : BitVec 10
deriving DecidableEq, Repr

/-- tlbi.page. -/
structure TlbP where
  sc : BitVec 3
  gm : BitVec 2
  a : Reg
  ctx : BitVec 4
deriving DecidableEq, Repr

/-- tlbi.ctx. -/
structure TlbC where
  sc : BitVec 3
  gm : BitVec 2
  ctx : BitVec 4
deriving DecidableEq, Repr

/-- tlbi.all. -/
structure TlbA where
  sc : BitVec 3
  gm : BitVec 2
deriving DecidableEq, Repr

/-- tlbi.range. -/
structure TlbR where
  sc : BitVec 3
  gm : BitVec 2
  a : Reg
  c : Reg
  ctx : BitVec 4
deriving DecidableEq, Repr

/-- One constructor per row of the opcode table: first the words, in opcode order, each with its operand fields;
then the steps of the machine that no word encodes, each with what reaches it from outside. -/
inductive Instr where
  /-- Does nothing and occupies one I-pipe issue cycle (R56). -/
  | nop
  /-- nop with a 16-bit filler tail whose contents have no effect (R56). -/
  | nopL1 (o : K16)
  /-- nop with a 32-bit filler tail (R56). -/
  | nopL2 (o : K32)
  /-- nop with a 64-bit filler tail (R56). -/
  | nopL3 (o : K64)
  /-- Writes the 64-bit sum of two g registers (R99). -/
  | add (o : GGG)
  /-- Writes the 64-bit difference of two g registers (R99). -/
  | sub (o : GGG)
  /-- Writes the bitwise and of two g registers (R99). -/
  | and (o : GGG)
  /-- Writes the bitwise or of two g registers (R99). -/
  | or (o : GGG)
  /-- Writes the bitwise xor of two g registers (R99). -/
  | xor (o : GGG)
  /-- Writes a and not b (R99). -/
  | andn (o : GGG)
  /-- Shifts a left by b[5:0] (R99). -/
  | shl (o : GGG)
  /-- Shifts a right logically by b[5:0] (R99). -/
  | shr (o : GGG)
  /-- Shifts a right arithmetically by b[5:0] (R99). -/
  | sra (o : GGG)
  /-- Rotates a left by b[5:0] (R99). -/
  | rotl (o : GGG)
  /-- Writes the low 64 bits of the product (R99). -/
  | mul (o : GGG)
  /-- Writes the high 64 bits of the signed product (R99). -/
  | mulh (o : GGG)
  /-- Writes the high 64 bits of the unsigned product (R99). -/
  | mulhz (o : GGG)
  /-- Signed division truncated toward zero, with the fixed results of Table 4.2 (R100). -/
  | div (o : GGG)
  /-- Unsigned division (R100). -/
  | divz (o : GGG)
  /-- Signed remainder (R100). -/
  | rem (o : GGG)
  /-- Unsigned remainder (R100). -/
  | remz (o : GGG)
  /-- Writes the signed minimum (R99). -/
  | min (o : GGG)
  /-- Writes the signed maximum (R99). -/
  | max (o : GGG)
  /-- Writes the unsigned minimum (R99). -/
  | minz (o : GGG)
  /-- Writes the unsigned maximum (R99). -/
  | maxz (o : GGG)
  /-- Writes 1 if a is signed-less than b (R99). -/
  | slt (o : GGG)
  /-- Writes 1 if a is unsigned-less than b (R99). -/
  | sltz (o : GGG)
  /-- Writes 1 if a equals b (R99). -/
  | seq (o : GGG)
  /-- Selects a or b by whether c is nonzero (R101). -/
  | sel (o : GGGG)
  /-- Adds a sign-extended 10-bit immediate (R102). -/
  | addi (o : GGI10)
  /-- Adds a sign-extended 26-bit immediate (R102). -/
  | addiL2 (o : GGI26)
  /-- Ands a 10-bit immediate (R102). -/
  | andi (o : GGI10)
  /-- Ands a 26-bit immediate (R102). -/
  | andiL2 (o : GGI26)
  /-- Ors a 10-bit immediate (R102). -/
  | ori (o : GGI10)
  /-- Ors a 26-bit immediate (R102). -/
  | oriL2 (o : GGI26)
  /-- Xors a 10-bit immediate (R102). -/
  | xori (o : GGI10)
  /-- Xors a 26-bit immediate (R102). -/
  | xoriL2 (o : GGI26)
  /-- Shifts left by an immediate amount (R103). -/
  | shli (o : ShiftI)
  /-- Shifts right logically by an immediate amount (R103). -/
  | shri (o : ShiftI)
  /-- Shifts right arithmetically by an immediate amount (R103). -/
  | srai (o : ShiftI)
  /-- Rotates left by an immediate amount (R103). -/
  | rotli (o : ShiftI)
  /-- Writes a sign-extended 16-bit immediate (R105). -/
  | li (o : GK16)
  /-- Writes a sign-extended 32-bit immediate (R105). -/
  | liL2 (o : GK32)
  /-- Writes a 64-bit immediate (R105). -/
  | liL3 (o : GK64)
  /-- Writes the line address of the instruction plus a signed 32-bit offset (R106). -/
  | addpc (o : GK32)
  /-- Writes the effective address of an M operand without access (R107). -/
  | lea (o : LeaM)
  /-- Writes the effective address of an MX operand (R107). -/
  | leaL2 (o : LeaX)
  /-- Counts leading zero bits (R108). -/
  | clz (o : GG)
  /-- Counts trailing zero bits (R108). -/
  | ctz (o : GG)
  /-- Counts one bits (R108). -/
  | popc (o : GG)
  /-- Reverses the eight bytes (R108). -/
  | bswap (o : GG)
  /-- Sign-extends the low 8 bits (R109). -/
  | sextB (o : GG)
  /-- Sign-extends the low 16 bits (R109). -/
  | sextH (o : GG)
  /-- Sign-extends the low 32 bits (R109). -/
  | sextW (o : GG)
  /-- Extracts a bit field, zero-extended (R110). -/
  | bext (o : BitF)
  /-- Inserts a bit field into the destination (R110). -/
  | bins (o : BitF)
  /-- Signed compare with an 8-bit immediate (R104). -/
  | slti (o : GGI8)
  /-- Signed compare with a 24-bit immediate (R104). -/
  | sltiL2 (o : GGI24)
  /-- Unsigned compare with an 8-bit immediate (R104). -/
  | sltzi (o : GGI8)
  /-- Unsigned compare with a 24-bit immediate (R104). -/
  | sltziL2 (o : GGI24)
  /-- Equality with an 8-bit immediate (R104). -/
  | seqi (o : GGI8)
  /-- Equality with a 24-bit immediate (R104). -/
  | seqiL2 (o : GGI24)
  /-- Branches when two registers are equal (R114). -/
  | beq (o : BrB)
  /-- Branches when two registers differ (R114). -/
  | bne (o : BrB)
  /-- Branches when a is signed-less than b (R114). -/
  | blt (o : BrB)
  /-- Branches when a is signed-greater or equal (R114). -/
  | bge (o : BrB)
  /-- Branches when a is unsigned-less than b (R114). -/
  | bltz (o : BrB)
  /-- Branches when a is unsigned-greater or equal (R114). -/
  | bgez (o : BrB)
  /-- Branches when a is zero (R115). -/
  | bzEqz (o : BrZ)
  /-- Branches when a is nonzero (R115). -/
  | bzNez (o : BrZ)
  /-- Branches when a is negative (R115). -/
  | bzLtz (o : BrZ)
  /-- Branches when a is non-negative (R115). -/
  | bzGez (o : BrZ)
  /-- Branches when a is positive (R115). -/
  | bzGtz (o : BrZ)
  /-- Branches when a is at most zero (R115). -/
  | bzLez (o : BrZ)
  /-- Transfers to a direct target (R116). -/
  | jmp (o : Jmp)
  /-- Transfers to a direct target and writes the link (R116). -/
  | call (o : GJmp)
  /-- Transfers to the PC in a g register (R116). -/
  | jr (o : GD)
  /-- Decrements a counter and branches while it is nonzero (R117). -/
  | decb (o : GJmp)
  /-- Captures a body of F instructions for staggered replay COUNT times (R126). -/
  | rep (o : RepO)
  /-- Puts the slot in Pausing for n cycles (R120). -/
  | pause (o : K16)
  /-- Leaves the I rotation until each other ready slot has issued once (R121). -/
  | yield
  /-- Drains F work, streams, transfers and stores, releases at system scope and empties the slot (R122). -/
  | exit
  /-- Loads 2^SZ bytes with an M tail, extended (R135). -/
  | ld (o : LdM)
  /-- Loads with an MX tail (R135). -/
  | ldL2 (o : LdX)
  /-- Load that is an acquire at scope SC (R139). -/
  | lda (o : LdaX)
  /-- Parks until the word is full, reads it and sets it empty, acquiring (R142). -/
  | ldfe (o : FeX)
  /-- Parks until the word is full and reads it, leaving it full (M tail) (R142). -/
  | ldff (o : LdffM)
  /-- ldff with an MX tail and optional scope (R142). -/
  | ldffL2 (o : LdffX)
  /-- Stores the low 2^SZ bytes through the store buffer (M tail) (R135). -/
  | st (o : StM)
  /-- Store with an MX tail (R135). -/
  | stL2 (o : StX)
  /-- Store that is a release at scope SC (R139). -/
  | stl (o : StlX)
  /-- Parks until the word is empty, writes it and sets it full, releasing (R142). -/
  | stef (o : FeX)
  /-- Sets a word's full/empty bit (M tail) (R142). -/
  | feset (o : FesetM)
  /-- feset with an MX tail (R142). -/
  | fesetL2 (o : FesetX)
  /-- Reads memory at I issue; the F pipe writes a v register (M tail) (R137). -/
  | fld (o : FMemM)
  /-- fld with an MX tail (R137). -/
  | fldL2 (o : FMemX)
  /-- Allocates a store entry at I issue; F pipe fills its data (M tail) (R137). -/
  | fst (o : FMemM)
  /-- fst with an MX tail (R137). -/
  | fstL2 (o : FMemX)
  /-- Loads 16 bytes into an even register pair (M tail) (R136). -/
  | ldp (o : PairM)
  /-- ldp with an MX tail (R136). -/
  | ldpL2 (o : PairX)
  /-- Stores an even register pair (M tail) (R136). -/
  | stp (o : PairM)
  /-- stp with an MX tail (R136). -/
  | stpL2 (o : PairX)
  /-- Orders earlier against later accesses at scope SC, draining the store buffer (R140). -/
  | fence (o : FenceO)
  /-- Parks until a word differs from the comparand, then returns it (R147). -/
  | waita (o : WaitaX)
  /-- Starts a translation and optionally a page-in (M tail) (R141). -/
  | pref (o : PrefM)
  /-- pref with an MX tail (R141). -/
  | prefL2 (o : PrefX)
  /-- Atomic add at the location (R149). -/
  | amoadd (o : AtO)
  /-- Atomic and (R149). -/
  | amoand (o : AtO)
  /-- Atomic or (R149). -/
  | amoor (o : AtO)
  /-- Atomic xor (R149). -/
  | amoxor (o : AtO)
  /-- Atomic signed minimum (R149). -/
  | amomin (o : AtO)
  /-- Atomic signed maximum (R149). -/
  | amomax (o : AtO)
  /-- Atomic unsigned minimum (R149). -/
  | amominz (o : AtO)
  /-- Atomic unsigned maximum (R149). -/
  | amomaxz (o : AtO)
  /-- Atomic swap (R149). -/
  | amoswap (o : AtO)
  /-- Compare and swap of 4 or 8 bytes (R150). -/
  | cas (o : AtO)
  /-- Atomic floating-point add rounded to nearest-even (R151). -/
  | fadda (o : AtO)
  /-- 16-byte compare and swap of register pairs (R150). -/
  | casp (o : CaspO)
  /-- Configures a stopped stream unit's base, kind, direction, size and dimensions (R167). -/
  | sbind (o : SbindO)
  /-- Sets a dimension's count and stride from registers (R168). -/
  | sdim (o : SdimR)
  /-- Sets a dimension's count and stride from immediates (R168). -/
  | sdimL3 (o : SdimW)
  /-- Sets the data base, index shift and size of an indirect unit (R169). -/
  | sidx (o : SidxR)
  /-- sidx with a 40-bit offset (R169). -/
  | sidxL3 (o : SidxW)
  /-- Sets direction and repeat count of a unit (R169). -/
  | sdir (o : SdirO)
  /-- Starts the units of a mask, binding them and beginning fetch (R173). -/
  | sgo (o : Units)
  /-- Stops the units of a mask after their pops commit, discarding fetched elements (R173). -/
  | sstop (o : Units)
  /-- Skips n elements of a read unit (R173). -/
  | sskip (o : UnitG)
  /-- Sets a unit's position and restarts fetch (R173). -/
  | spos (o : UnitG)
  /-- Stores the 40-byte stream record (M tail) (R173). -/
  | ssave (o : UnitM)
  /-- ssave with an MX tail (R173). -/
  | ssaveL2 (o : UnitX)
  /-- Loads and checks a stream record (M tail) (R173). -/
  | sload (o : UnitM)
  /-- sload with an MX tail (R173). -/
  | sloadL2 (o : UnitX)
  /-- Configures an intersection of two sorted legs (R170). -/
  | sisect (o : SetO)
  /-- Configures a union of two sorted legs (R170). -/
  | sunion (o : SetO)
  /-- Returns a unit's position (R173). -/
  | sstatPos (o : UnitG)
  /-- Returns record bits [63:48] (R173). -/
  | sstatSt (o : UnitG)
  /-- Configures a coordinate stream over a box of a volume (R171). -/
  | scoord (o : ScoordO)
  /-- Floating add at precision PR (RR form) (R192). -/
  | fadd (o : FP3)
  /-- Floating add, RRX form with rounding and holds (R192). -/
  | faddL2 (o : FP3R)
  /-- Floating subtract (RR) (R192). -/
  | fsub (o : FP3)
  /-- Floating subtract (RRX) (R192). -/
  | fsubL2 (o : FP3R)
  /-- Floating multiply (RR) (R192). -/
  | fmul (o : FP3)
  /-- Floating multiply (RRX) (R192). -/
  | fmulL2 (o : FP3R)
  /-- Fused a×b+c rounded once (R193). -/
  | fma (o : FP4R)
  /-- Fused a×b−c (R193). -/
  | fms (o : FP4R)
  /-- Fused −(a×b)−c (R193). -/
  | fnma (o : FP4R)
  /-- Fused −(a×b)+c (R193). -/
  | fnms (o : FP4R)
  /-- Floating minimum (RR) (R194). -/
  | fmin (o : FP3)
  /-- Floating minimum (RRX) (R194). -/
  | fminL2 (o : FP3H)
  /-- Floating maximum (RR) (R194). -/
  | fmax (o : FP3)
  /-- Floating maximum (RRX) (R194). -/
  | fmaxL2 (o : FP3H)
  /-- Inverts the sign (RR) (R195). -/
  | fneg (o : FP2)
  /-- Inverts the sign (RRX) (R195). -/
  | fnegL2 (o : FP2H)
  /-- Clears the sign (R195). -/
  | fabs (o : FP2H)
  /-- Copies the sign of b onto a (R195). -/
  | fcpsgn (o : FP3H)
  /-- Floating equal compare into a g register (RR) (R196). -/
  | feq (o : FC3)
  /-- feq, RRX form (R196). -/
  | feqL2 (o : FC3H)
  /-- Floating less-than compare (RR) (R196). -/
  | flt (o : FC3)
  /-- flt, RRX form (R196). -/
  | fltL2 (o : FC3H)
  /-- Floating less-or-equal compare (RR) (R196). -/
  | fle (o : FC3)
  /-- fle, RRX form (R196). -/
  | fleL2 (o : FC3H)
  /-- Floating unordered compare (RR) (R196). -/
  | funo (o : FC3)
  /-- funo, RRX form (R196). -/
  | funoL2 (o : FC3H)
  /-- Writes a one-hot class mask per lane to a g register (R197). -/
  | fclass (o : FC2)
  /-- Converts between scalar float formats (RR) (R199). -/
  | fcvt (o : CvtR)
  /-- fcvt, RRX form with rounding (R199). -/
  | fcvtL2 (o : CvtX)
  /-- Converts a float to INT64 or UINT64 in a g register (RR) (R200). -/
  | fcvti (o : CviR)
  /-- fcvti, RRX form (R200). -/
  | fcvtiL2 (o : CviX)
  /-- Converts a captured integer to a float (RR) (R200). -/
  | icvtf (o : IcvR)
  /-- icvtf, RRX form (R200). -/
  | icvtfL2 (o : IcvX)
  /-- Copies a v register's bits to a g register (R198). -/
  | fmvg (o : GF)
  /-- Copies a captured g value to a v register (R198). -/
  | gmvf (o : FG)
  /-- Writes K16 × 2^48 to a v register (R191). -/
  | fli (o : FK16)
  /-- Writes an FP32 pattern to both lanes (R191). -/
  | fliL2 (o : FK32)
  /-- Writes a 64-bit pattern (R191). -/
  | fliL3 (o : FK64)
  /-- Bitwise select by mask c (R198). -/
  | fsel (o : F4H)
  /-- Packed add under the effective descriptor (RR) (R202). -/
  | padd (o : PE3)
  /-- padd, RRX form (R202). -/
  | paddL2 (o : PE3H)
  /-- Packed subtract (RR) (R202). -/
  | psub (o : PE3)
  /-- psub, RRX form (R202). -/
  | psubL2 (o : PE3H)
  /-- Packed multiply (RR) (R202). -/
  | pmul (o : PE3)
  /-- pmul, RRX form (R202). -/
  | pmulL2 (o : PE3H)
  /-- Packed fused multiply-add (R202). -/
  | pfma (o : PE4H)
  /-- Packed minimum (RR) (R202). -/
  | pmin (o : PE3)
  /-- pmin, RRX form (R202). -/
  | pminL2 (o : PE3H)
  /-- Packed maximum (RR) (R202). -/
  | pmax (o : PE3)
  /-- pmax, RRX form (R202). -/
  | pmaxL2 (o : PE3H)
  /-- Scaled dot product of lanes into an FP32 accumulator, rounded once (R204). -/
  | pdot (o : PE4H)
  /-- Sums the lanes of a into an FP32 addend (RR) (R204). -/
  | psum (o : PE3)
  /-- psum, RRX form (R204). -/
  | psumL2 (o : PE3H)
  /-- Permutes lanes by indices in b (RR) (R205). -/
  | pshuf (o : PE3)
  /-- pshuf, RRX form (R205). -/
  | pshufL2 (o : PE3H)
  /-- Broadcasts one lane (RR) (R205). -/
  | pbcast (o : PBc)
  /-- pbcast, RRX form (R205). -/
  | pbcastL2 (o : PBcH)
  /-- Narrows wide values into a block of lanes (RR) (R206). -/
  | ppack (o : PW3)
  /-- ppack, RRX form with PART (R206). -/
  | ppackL2 (o : PW3H)
  /-- Widens a block of lanes (RR) (R206). -/
  | punpack (o : PW2)
  /-- punpack, RRX form (R206). -/
  | punpackL2 (o : PW2H)
  /-- Quantises wide values with a scale code (RR) (R206). -/
  | pq (o : PW3)
  /-- pq, RRX form (R206). -/
  | pqL2 (o : PW4H)
  /-- Dequantises lanes with a scale code (RR) (R206). -/
  | pdq (o : PW2)
  /-- pdq, RRX form (R206). -/
  | pdqL2 (o : PWcH)
  /-- Packed equal compare mask (RR) (R203). -/
  | peq (o : PE3)
  /-- peq, RRX form (R203). -/
  | peqL2 (o : PE3H)
  /-- Packed less-than mask (RR) (R203). -/
  | plt (o : PE3)
  /-- plt, RRX form (R203). -/
  | pltL2 (o : PE3H)
  /-- Packed less-or-equal mask (RR) (R203). -/
  | ple (o : PE3)
  /-- ple, RRX form (R203). -/
  | pleL2 (o : PE3H)
  /-- Packed unordered mask (RR) (R203). -/
  | puno (o : PE3)
  /-- puno, RRX form (R203). -/
  | punoL2 (o : PE3H)
  /-- Bitwise and of v registers (RR) (R198). -/
  | pand (o : F3)
  /-- pand, RRX form (R198). -/
  | pandL2 (o : F3H)
  /-- Bitwise or of v registers (RR) (R198). -/
  | por (o : F3)
  /-- por, RRX form (R198). -/
  | porL2 (o : F3H)
  /-- Bitwise xor of v registers (RR) (R198). -/
  | pxor (o : F3)
  /-- pxor, RRX form (R198). -/
  | pxorL2 (o : F3H)
  /-- Bitwise and-not of v registers (RR) (R198). -/
  | pandn (o : F3)
  /-- pandn, RRX form (R198). -/
  | pandnL2 (o : F3H)
  /-- Copies a v register (RR) (R198). -/
  | pmov (o : F2)
  /-- pmov, RRX form (R198). -/
  | pmovL2 (o : F2H)
  /-- Sets PREFIX to a descriptor governing the next packed instruction (R208). -/
  | fmt (o : K32)
  /-- Special-function reciprocal (RR) (R209). -/
  | frcp (o : FP2)
  /-- frcp, RRX form (R209). -/
  | frcpL2 (o : FP2H)
  /-- Reciprocal square root (RR) (R209). -/
  | frsqrt (o : FP2)
  /-- frsqrt, RRX form (R209). -/
  | frsqrtL2 (o : FP2H)
  /-- Square root (RR) (R209). -/
  | fsqrt (o : FP2)
  /-- fsqrt, RRX form (R209). -/
  | fsqrtL2 (o : FP2H)
  /-- Division (RR) (R209). -/
  | fdiv (o : FP3)
  /-- fdiv, RRX form (R209). -/
  | fdivL2 (o : FP3H)
  /-- Power of two (RR) (R209). -/
  | fexp2 (o : FS2)
  /-- fexp2, RRX form (R209). -/
  | fexp2L2 (o : FS2H)
  /-- Base-2 logarithm (RR) (R209). -/
  | flog2 (o : FS2)
  /-- flog2, RRX form (R209). -/
  | flog2L2 (o : FS2H)
  /-- Hyperbolic tangent (RR) (R209). -/
  | ftanh (o : FS2)
  /-- ftanh, RRX form (R209). -/
  | ftanhL2 (o : FS2H)
  /-- Logistic sigmoid (RR) (R209). -/
  | fsigm (o : FS2)
  /-- fsigm, RRX form (R209). -/
  | fsigmL2 (o : FS2H)
  /-- Captures a message to a target position into the retry buffer (R254). -/
  | send (o : SendO)
  /-- Sends a message to a torus displacement (R254). -/
  | sendn (o : SendnO)
  /-- Takes the oldest message of a class, parking if empty (RR) (R257). -/
  | recv (o : RecvR)
  /-- recv, RRX form (R257). -/
  | recvL2 (o : RecvX)
  /-- Takes a message or returns an empty header (RR) (R257). -/
  | recvTry (o : RecvR)
  /-- recv.try, RRX form (R257). -/
  | recvTryL2 (o : RecvX)
  /-- Returns inbox and retry status of a class (RR) (R259). -/
  | mstat (o : GCls)
  /-- mstat, RRX form (R259). -/
  | mstatL2 (o : GCls)
  /-- Returns status and clears the slot's DROP count (RR) (R259). -/
  | mstatClr (o : GCls)
  /-- mstat.clr, RRX form (R259). -/
  | mstatClrL2 (o : GCls)
  /-- Enqueues a control value on a neighbour port (R262). -/
  | qend (o : QendO)
  /-- Returns a port's queue status (RR) (R266). -/
  | qctlSt (o : QctlO)
  /-- qctl.st, RRX form (R266). -/
  | qctlStL2 (o : QctlO)
  /-- Discards a port's incoming words (RR) (R266). -/
  | qctlClr (o : QctlO)
  /-- qctl.clr, RRX form (R266). -/
  | qctlClrL2 (o : QctlO)
  /-- Binds a message class to a slot (RR) (R266). -/
  | qctlBind (o : QctlO)
  /-- qctl.bind, RRX form (R266). -/
  | qctlBindL2 (o : QctlO)
  /-- Returns from a light handler (R264). -/
  | qret
  /-- One-sided copy from a remote address (R267). -/
  | get (o : XferO)
  /-- One-sided copy to a remote address (R267). -/
  | put (o : XferO)
  /-- Indexed one-sided gather (R268). -/
  | getx (o : XferI)
  /-- Indexed one-sided scatter (R268). -/
  | putx (o : XferI)
  /-- Parks until a completion counter reaches a threshold (RR) (R273). -/
  | cwait (o : CtrO)
  /-- cwait, RRX form (R273). -/
  | cwaitL2 (o : CtrO)
  /-- Reads and adds to a completion counter (RR) (R272). -/
  | cop (o : CtrO)
  /-- cop, RRX form (R272). -/
  | copL2 (o : CtrO)
  /-- Writes a mailbox binding (R282). -/
  | mbind (o : MbindO)
  /-- Arrives at the group barrier (R277). -/
  | gbarArr (o : GbarA)
  /-- Waits for release of the barrier and collects (R277). -/
  | gbarWait (o : GbarG)
  /-- Arrives and waits (R277). -/
  | gbar (o : GbarG)
  /-- Group sum collective (RR) (R279). -/
  | gredSum (o : GredR)
  /-- gred.sum, RRX form (R279). -/
  | gredSumL2 (o : GredX)
  /-- Group minimum (RR) (R279). -/
  | gredMin (o : GredR)
  /-- gred.min, RRX form (R279). -/
  | gredMinL2 (o : GredX)
  /-- Group maximum (RR) (R279). -/
  | gredMax (o : GredR)
  /-- gred.max, RRX form (R279). -/
  | gredMaxL2 (o : GredX)
  /-- Group bitwise and (RR) (R279). -/
  | gredAnd (o : GredR)
  /-- gred.and, RRX form (R279). -/
  | gredAndL2 (o : GredX)
  /-- Group bitwise or (RR) (R279). -/
  | gredOr (o : GredR)
  /-- gred.or, RRX form (R279). -/
  | gredOrL2 (o : GredX)
  /-- Broadcasts the root member's operand (RR, root index g0) (R280). -/
  | gcast (o : GcastR)
  /-- gcast, RRX form with root register (R280). -/
  | gcastL2 (o : GcastX)
  /-- Sums members' event counters into a record (R281). -/
  | gsum (o : GsumO)
  /-- Signals a cluster semaphore (RR) (R323). -/
  | semsig (o : SemR)
  /-- semsig, RRX form (R323). -/
  | semsigL2 (o : SemX)
  /-- Parks until a semaphore meets a threshold (RR) (R323). -/
  | semwait (o : SemR)
  /-- semwait, RRX form (R323). -/
  | semwaitL2 (o : SemX)
  /-- Reads a semaphore (RR) (R323). -/
  | semread (o : GG)
  /-- semread, RRX form (R323). -/
  | semreadL2 (o : GG)
  /-- Returns a command-ring entry's status (RR) (R324). -/
  | estatSt (o : GG)
  /-- estat.st, RRX form (R324). -/
  | estatStL2 (o : GG)
  /-- Returns a word of a ring entry's record (RR) (R324). -/
  | estatRec (o : GG)
  /-- estat.rec, RRX form (R324). -/
  | estatRecL2 (o : GG)
  /-- Returns a failed job to Waiting (RR) (R324). -/
  | estatRes (o : GG)
  /-- estat.res, RRX form (R324). -/
  | estatResL2 (o : GG)
  /-- Discards a failed or rejected job (RR) (R324). -/
  | estatDel (o : GG)
  /-- estat.del, RRX form (R324). -/
  | estatDelL2 (o : GG)
  /-- Returns the Tumbler window status (RR) (R324). -/
  | estatWin (o : GD)
  /-- estat.win, RRX form (R324). -/
  | estatWinL2 (o : GD)
  /-- Returns the core's queue status (RR) (R324). -/
  | estatQ (o : GD)
  /-- estat.q, RRX form (R324). -/
  | estatQL2 (o : GD)
  /-- Reads an event counter (RR) (R485). -/
  | evcRd (o : EvcN)
  /-- evc.rd, RRX form (R485). -/
  | evcRdL2 (o : EvcN)
  /-- Reads and reconfigures an event counter, clearing its count (RR) (R485). -/
  | evcSet (o : EvcA)
  /-- evc.set, RRX form (R485). -/
  | evcSetL2 (o : EvcA)
  /-- Reads and clears an event counter (RR) (R485). -/
  | evcRc (o : EvcN)
  /-- evc.rc, RRX form (R485). -/
  | evcRcL2 (o : EvcN)
  /-- Reads and checks a volume descriptor into a coordinate slot (M tail) (R354). -/
  | vbind (o : VbM)
  /-- vbind with an MX tail (R354). -/
  | vbindL2 (o : VbX)
  /-- Clears a coordinate slot (R354). -/
  | vbindOff (o : VbOff)
  /-- Loads a volume element or the background value (R355). -/
  | cld (o : CldO)
  /-- Stores a volume element, allocating the tile (R356). -/
  | cst (o : CvO)
  /-- Returns a tile's address or zero (R357). -/
  | cprobe (o : CvO)
  /-- Atomic add on a volume element (R356). -/
  | camoadd (o : CamoO)
  /-- Atomic and on a volume element (R356). -/
  | camoand (o : CamoO)
  /-- Atomic or on a volume element (R356). -/
  | camoor (o : CamoO)
  /-- Atomic xor on a volume element (R356). -/
  | camoxor (o : CamoO)
  /-- Atomic signed minimum on a volume element (R356). -/
  | camomin (o : CamoO)
  /-- Atomic signed maximum on a volume element (R356). -/
  | camomax (o : CamoO)
  /-- Atomic unsigned minimum on a volume element (R356). -/
  | camominz (o : CamoO)
  /-- Atomic unsigned maximum on a volume element (R356). -/
  | camomaxz (o : CamoO)
  /-- Atomic swap on a volume element (R356). -/
  | camoswap (o : CamoO)
  /-- Compare and swap on a volume element (R356). -/
  | ccas (o : CamoO)
  /-- Removes look-aside entries of one tile in a scope (R360). -/
  | cinv (o : CinvO)
  /-- Removes all look-aside entries of a volume in a scope (R360). -/
  | cinvAll (o : CinvA)
  /-- Allocates a tile and returns its address (R359). -/
  | callocGet (o : CvO)
  /-- Unlinks a tile by cas on its level-1 entry (R359). -/
  | callocCut (o : CvO)
  /-- Returns a block to the pool (R359). -/
  | callocFree (o : CfreeO)
  /-- Links a zeroed node at a level by cas (R359). -/
  | callocNode (o : CnodeO)
  /-- Returns the presence mask of 27 neighbouring tiles (R358). -/
  | cnbr (o : CvO)
  /-- Reads a CSR (R221). -/
  | csrr (o : CsrR)
  /-- Reads and writes a CSR (R221). -/
  | csrw (o : CsrA)
  /-- Reads and sets bits of a CSR (R221). -/
  | csrs (o : CsrA)
  /-- Reads and clears bits of a CSR (R221). -/
  | csrc (o : CsrA)
  /-- Raises the trap-instruction cause (R223). -/
  | trap (o : K16)
  /-- Returns from a trap handler, restoring held state (R222). -/
  | tret
  /-- Raises a breakpoint trap with code 0 (R223). -/
  | brk
  /-- Raises a breakpoint trap with a 16-bit code (R223). -/
  | brkL1 (o : K16)
  /-- Invalidates translations of one page in a scope (R409). -/
  | tlbiPage (o : TlbP)
  /-- Invalidates all translations of a context in a scope (R409). -/
  | tlbiCtx (o : TlbC)
  /-- Invalidates all translations in a scope (R409). -/
  | tlbiAll (o : TlbA)
  /-- Invalidates translations of a page range (R409). -/
  | tlbiRange (o : TlbR)
  /-- Invalidates the line cache and fetch-ahead buffers (R224). -/
  | ifence
  /-- Sleeps until a wake event unless one is pending (R225). -/
  | wfi
  /-- Performs the requested switch-out, swap or abort (R416). -/
  | ctxswReq
  /-- Writes back dirty thread-context cache entries (R420). -/
  | ctxswFlush
  /-- Waits for and holds an own-scratchpad bank (R226). -/
  | syscHold (o : GG)
  /-- Ends the slot's bank hold (R226). -/
  | syscRel (o : GD)
  /-- Wakes a sleeping slot of the core (R226). -/
  | syscWake (o : GG)
  /-- Empties a slot halted by a double trap (R226). -/
  | syscStop (o : GG)
  /-- The F pipe issues a ready queue head, popping and pushing streams and ports (R22). -/
  | fIssue (slot : BitVec 2)
  /-- An F instruction commits in order once it and all older ones have completed (R215). -/
  | fCommit (slot : BitVec 2)
  /-- The special-function unit starts the next queued request (R30). -/
  | sfuServiceStart
  /-- A special-function result is written after service ends (R210). -/
  | sfuResultWrite
  /-- The divider writes its destination 34 cycles after issue (R112). -/
  | divideComplete
  /-- Data of an off-cluster load or atomic returns and the slot leaves miss wait (R23). -/
  | loadDataReturn (slot : BitVec 2)
  /-- A missed instruction line arrives and the slot leaves miss wait (R118). -/
  | lineFetchReturn (slot : BitVec 2)
  /-- The oldest store-buffer entry is performed at its location (R153). -/
  | storeDrain (slot : BitVec 2)
  /-- The repetition buffer dispatches the next renamed instance into the F queue (R126). -/
  | repReplayDispatch (slot : BitVec 2)
  /-- A pause count elapses and the slot becomes ready (R120). -/
  | pauseExpiry (slot : BitVec 2)
  /-- The slot enters a trap handler, holding its F state, once outstanding loads return (R218). -/
  | trapEntry (slot : BitVec 2)
  /-- A control value at a port head enters the light handler (R263). -/
  | lightHandlerEntry (slot : BitVec 2)
  /-- A stream unit reads the next element ahead of its pop (R178). -/
  | streamRead (slot : BitVec 2) (unit : BitVec 2)
  /-- A read ring fetches a full word as a cluster-scope acquire (R161). -/
  | ringFetch (slot : BitVec 2) (unit : BitVec 2)
  /-- An intersection or union unit makes one pass of next_out (R364). -/
  | setOpPass (slot : BitVec 2) (unit : BitVec 2)
  /-- A refused remote full/empty request retries after 64 cycles (R144). -/
  | feRemoteRetry (slot : BitVec 2)
  /-- A waita on paged memory re-reads every 256 cycles (R147). -/
  | waitaPoll (slot : BitVec 2)
  /-- A bank hold ends 64 cycles after it was granted (R226). -/
  | syscHoldExpiry (slot : BitVec 2)
  /-- The network interface injects a ready retry-buffer entry, resolving its target (R255). -/
  | messageInject
  /-- A message arrives and is accepted, discarded as dead or NACKed (R256). -/
  | messageArrival (k : Nat)
  /-- An acknowledgement frees the retry-buffer entry (R256). -/
  | messageAck (k : Nat)
  /-- A NACK reaches the sender and schedules a retry (R256). -/
  | messageNack (k : Nat)
  /-- The back-off after a NACK elapses and the entry becomes ready (R256). -/
  | messageRetryReady (entry : Nat)
  /-- A neighbour-queue word arrives in the incoming queue (R261). -/
  | queueWordArrival (k : Nat)
  /-- A one-sided transfer completes and increments its counter as a release (R270). -/
  | transferComplete (ring : BitVec 4)
  /-- A far-end failure stops a transfer with a late engine trap (R271). -/
  | transferFailure (ring : BitVec 4) (acause : BitVec 8)
  /-- A pending handler launch starts in its slot when the slot is Empty (R283). -/
  | mailboxLaunch (slot : BitVec 2)
  /-- A submitted command takes a free ring entry (R286). -/
  | commandAccept
  /-- An accepted command enters the window and is checked and given edges (R296). -/
  | tumblerAdmit
  /-- Copy engine copies LEN bytes (R309). -/
  | copy1d (job : Nat)
  /-- Copy engine copies ROWS strided rows (R309). -/
  | copy2d (job : Nat)
  /-- Copy engine gathers indexed elements (R309). -/
  | gather (job : Nat)
  /-- Copy engine scatters elements to indexed addresses (R309). -/
  | scatter (job : Nat)
  /-- Copy engine writes a repeating pattern (R309). -/
  | fill (job : Nat)
  /-- Copy engine writes a word, optionally setting it full (R309). -/
  | notify (job : Nat)
  /-- Matrix engine zeroes all accumulators (R318). -/
  | zacc (job : Nat)
  /-- Matrix engine loads accumulators from FP32 memory (R318). -/
  | lacc (job : Nat)
  /-- Matrix engine stores accumulators in a format, optionally with scale codes (R318). -/
  | sacc (job : Nat)
  /-- Matrix engine accumulates A×B in 32-deep chunks (R315). -/
  | mma (job : Nat)
  /-- mma with a step-tagged reuse test that may replay a stored tile (R331). -/
  | mmar (job : Nat)
  /-- Matrix engine quantises a tile into blocks with scale codes (R319). -/
  | qtile (job : Nat)
  /-- A job writes its completion record, signals and leaves the window (R303). -/
  | jobComplete (job : Nat)
  /-- An access fails; the job writes STATUS 4 and raises a late engine trap (R305). -/
  | jobFail (job : Nat)
  /-- After 65,536 cycles with no start in a full window, STUCK is set (R298). -/
  | tumblerStuck
  /-- A new 4,096-cycle period restarts flit counts and energy meters (R386). -/
  | periodStart (die : BitVec 4)
  /-- A cluster's meter reaches its budget and its issue stops until the period ends (R388). -/
  | energyBudgetSpent
  /-- A waiting team is placed and its threads start (R374). -/
  | teamPlace (team : Nat)
  /-- The last thread ends; bindings are removed and completion reported (R377). -/
  | teamComplete (team : Nat)
  /-- A team waiting 2^20 cycles becomes aged and blocks later equal-priority teams (R383). -/
  | teamAged (team : Nat)
  /-- A thread image is checked and loaded into a slot (R418). -/
  | switchIn (slot : BitVec 2) (thread : Nat)
  /-- The copy engine writes a cluster's state to its save block during eviction (R423). -/
  | clusterSave (team : Nat) (lcn : BitVec 17)
  /-- The head miss request is presented in the mailbox, waking slot 3 (R394). -/
  | missPresent
  /-- A store to RESULT completes the head request and installs the translation (R396). -/
  | missResult
  /-- A page-in request reaches a combining-tree node and merges or is forwarded (R402). -/
  | pageinRequestArrival (k : Nat)
  /-- Service firmware makes the page present or refuses and sends a wake (R403). -/
  | pageinResolve (k : Nat) (refused : Bool) (tables : List (BitVec 50)) (leaf : BitVec 64)
  /-- A wake reaches a node or core, crediting waiters and page-wait words (R404). -/
  | pageinWake (k : Nat)
  /-- A TAIL write sets a queue's doorbell shadow (R434). -/
  | doorbellTail (q : BitVec 10) (tail : BitVec 32)
  /-- Switches a queue into a hardware slot, taking SHADOW as tail (R437). -/
  | qswSwitchIn (q : BitVec 10) (hslot : BitVec 6)
  /-- Switches a queue out after its taken commands complete (R437). -/
  | qswSwitchOut (q : BitVec 10)
  /-- Resumes a halted queue, rechecking its head (R440). -/
  | qctlContinue (q : BitVec 10)
  /-- Advances past a refused command and resumes the queue (R440). -/
  | qctlSkip (q : BitVec 10)
  /-- Sets a Keyway queue semaphore as a signal (R429). -/
  | semvWrite (sem : BitVec 8) (val : BitVec 32)
  /-- Adds to a Keyway queue semaphore as a signal (R429). -/
  | semaddWrite (sem : BitVec 8) (val : BitVec 32)
  /-- Writes RW fields of a queue record, discarded while resident or switching (R433). -/
  | queueRecordWrite (q : BitVec 10) (word : BitVec 3) (val : BitVec 64)
  /-- A write to a register with no behaviour of its own sets its RW fields (R5). -/
  | registerWrite (reg : PlainReg) (val : BitVec 64)
  /-- Keyway reads pending commands ahead from a ring (R435). -/
  | keywayCommandRead (q : BitVec 10) (bad : Bool)
  /-- A ready queue unserved for 2^16 cycles becomes aging (R382). -/
  | queueAging (q : BitVec 10)
  /-- A command that completes when taken (R439). -/
  | knop (q : BitVec 10)
  /-- Reads and checks a team record, installs groups and waits for placement (R441). -/
  | klaunch (q : BitVec 10)
  /-- Runs a copy1d on a context cluster's copy engine (R441). -/
  | kcopy (q : BitVec 10)
  /-- Runs a fill on a context cluster's copy engine (R441). -/
  | kfill (q : BitVec 10)
  /-- Writes 8 bytes at a physical address as a system-scope release (R441). -/
  | kwrite (q : BitVec 10)
  /-- Sends an MSI-X vector (R441). -/
  | kintr (q : BitVec 10)
  /-- Installs a context record (R365). -/
  | kctx (q : BitVec 10)
  /-- Writes a cluster configuration word, clearing the cluster on a change of owner (R366). -/
  | kclu (q : BitVec 10)
  /-- Sets a class budget for a port kind from the next period (R387). -/
  | kbudget (q : BitVec 10)
  /-- Gives a context its save pool (R441). -/
  | kpool (q : BitVec 10)
  /-- Sends a pre-emption interrupt to one team slot (R441). -/
  | kpreempt (q : BitVec 10)
  /-- Evicts a team and saves its clusters (R423). -/
  | kevict (q : BitVec 10)
  /-- Sends team-abort interrupts to every thread of a team (R441). -/
  | kabort (q : BitVec 10)
  /-- Unmasking a vector sends its pending message once (R432). -/
  | msixUnmask (vec : BitVec 11)
  /-- A host read of HBM through BAR 2, an acquire at system scope (R431). -/
  | bar2Read (addr : BitVec 40) (len : BitVec 4)
  /-- A host write to HBM through BAR 2, a release at system scope (R431). -/
  | bar2Write (addr : BitVec 40) (data : List (BitVec 8))
  /-- A host AtomicOp to a BAR completes with Unsupported Request (R426). -/
  | barAtomicop (bar : BitVec 1) (off : BitVec 40)
  /-- Writing RETRAIN restarts a Hinge port's training (R445). -/
  | hingeRetrain (port : BitVec 3)
  /-- Reading REPLAY or DOWNS returns and clears the count (R445). -/
  | hingeCounterRead (port : BitVec 3) (downs : Bool)
  /-- A request from another module is accepted or refused (R446). -/
  | hingeRequestArrival (port : BitVec 3) (req : HingeReq)
  /-- Load-mailbox OP 1 checks, places and relocates a Voxium object (R453). -/
  | loadObject
  /-- Load-mailbox OP 2 translates a Tiruc object via the cache and loads it (R459). -/
  | translateAndLoad
  /-- Load-mailbox OP 3 checks a revocation record and burns fuses (R461). -/
  | raiseFuseCounter
  /-- Writes a signed attestation report and its status (R484). -/
  | attestationReport
  /-- The scrubber reads and corrects SRAM words and HBM blocks (R467). -/
  | scrubPass (loc : Nat) (bad : Bool)
  /-- Firmware migrates pages off a frame with an uncorrectable block (R468). -/
  | pageRetire (frame : BitVec 38) (fresh : BitVec 38)
  /-- A flit with a bad CRC is replayed from the sender's buffer (R469). -/
  | linkCrcReplay (link : LinkId) (again : Bool)
  /-- A link goes down and retrains after too many replays (R469). -/
  | linkRetrain (link : LinkId) (ok : Bool)
  /-- A failing core is fenced and its teams aborted (R470). -/
  | coreFence (die : BitVec 4) (clu : BitVec 14) (core : BitVec 3)
  /-- A failing cluster is fenced, its jobs discarded and route entries invalidated (R470). -/
  | clusterFence (die : BitVec 4) (clu : BitVec 14)
  /-- A failing die is fenced with all its clusters (R470). -/
  | dieFence (die : BitVec 4)
  /-- Firmware remaps a fenced core to a spare in the core tables (R471). -/
  | coreRepair (die : BitVec 4) (clu : BitVec 14) (core : BitVec 3)
  /-- Firmware gives a spare cluster the fenced cluster's configuration (R472). -/
  | clusterRepair (die : BitVec 4) (clu : BitVec 14) (spare : BitVec 14)
  /-- At each 2^20-cycle window the power manager adjusts energy limits (R478). -/
  | powerWindow (sense : PowerSense)
  /-- Excess temperature, inlet heat or low flow stops every die's clock (R478). -/
  | thermalTrip
  /-- Power-on runs a cold start (R479). -/
  | powerOn (inp : StartInput)
  /-- A management request runs a cold start (R479). -/
  | coldStartRequest (inp : StartInput)
  /-- A management request runs a warm start (R479). -/
  | warmStartRequest (inp : StartInput)
  /-- A start not published within 2^34 cycles fails (R480). -/
  | startTimeout
  /-- DCTL.STOP halts the core (R489). -/
  | debugStop
  /-- DCTL.RUN resumes every slot (R489). -/
  | debugRun
  /-- DCTL.STEP lets one slot issue one instruction or trap entry (R490). -/
  | debugStep
  /-- A step ends and the core halts with REASON 2 (R490). -/
  | stepDone
  /-- A step with no issue in 2^16 cycles ends (R490). -/
  | stepTimeout
  /-- Reads a halted slot's register into DDATA (R488). -/
  | daccRead
  /-- Writes DDATA into a halted slot's register (R488). -/
  | daccWrite
  /-- Reading DSTAT returns and clears ERR (R488). -/
  | dstatRead
  /-- Every 1,024 cycles the histogram engine bins each sampled slot (R493). -/
  | histSample (die : BitVec 4)
  /-- At each 2^20-cycle interval the die snapshots and dumps the link grid and bins (R495). -/
  | intervalDump (die : BitVec 4)
  /-- Control arrives at an encoding that is not an instruction, such as a reserved opcode, a disallowed length or an illegal line, and an illegal-instruction trap is raised at it (R54). -/
  | illegalInstruction (sub : BitVec 8) (head : BitVec 16)
  /-- A Hinge port or the host link finishes training, setting UP, LANES and RID or failing, some time after training began (R445). -/
  | linkTrainingComplete (link : LinkId) (res : Training)
  /-- Correctable SRAM or HBM errors are written as one record of KIND 1 or 4 per die per 2^24 cycles, with the count (R475). -/
  | correctableErrorRecord (die : BitVec 4) (hbm : Bool) (count : BitVec 32)
deriving DecidableEq, Repr

end Sys2Proof
end

