-- ==== Sys2Proof/Machine/OperandChecks.lean ====
section
/-! DEFINITION. Which register codes and field values each operand record accepts (Tables 2.4, 2.6, 2.9, 1.5 and the
entries of the instructions). -/
namespace Sys2Proof

/-- A G field holds 0 to 31 (Table 2.4). -/
def gOk (r : Reg) : Bool := decide (r.toNat < 32)

/-- An F field holds 0 to 51: a `v` register or a queue port (Table 2.4). -/
def fOk (r : Reg) : Bool := decide (r.toNat < 52)

/-- The even register of a pair (R47). -/
def evenReg (r : Reg) : Bool := decide (r.toNat % 2 = 0)

/-- INDEX of an MX tail with IX = 1 is a G field (R47); the body holds bits 31:15. -/
def ixRegOk (ix : BitVec 1) (body : BitVec 17) : Bool := decide (ix.toNat = 0) || decide (body.toNat % 64 < 32)

/-- Bits 31:24 of an MX tail with IX = 1 are reserved (Table 2.5). -/
def ixFieldOk (ix : BitVec 1) (body : BitVec 17) : Bool := decide (ix.toNat = 0) || decide (body.toNat / 512 = 0)

/-- A scope of Table 2.6 is named, and GM is used only by SC = 3 (R50). -/
def scopeOk (sc : BitVec 3) (gm : BitVec 2) : Bool :=
  decide (1 ≤ sc.toNat) && decide (sc.toNat ≤ 6) && (decide (sc.toNat = 3) || decide (gm.toNat = 0))

/-- A scope, or none (Table 2.6), and GM used only by SC = 3 (R50). -/
def scope0Ok (sc : BitVec 3) (gm : BitVec 2) : Bool :=
  decide (sc.toNat ≤ 6) && (decide (sc.toNat = 3) || decide (gm.toNat = 0))

/-- ACQ or REL needs a scope (R131). -/
def orderOk (acq rel : BitVec 1) (sc : BitVec 3) : Bool :=
  (decide (acq.toNat = 0) && decide (rel.toNat = 0)) || decide (sc.toNat ≠ 0)

/-- Stream units are 0 to 2 (R166). -/
def unitOk (u : BitVec 2) : Bool := decide (u.toNat ≠ 3)

/-- KIND, ESZ and DIMS that `sbind` accepts (R167). -/
def sbindOk (kind : BitVec 2) (esz : BitVec 2) (dims : BitVec 2) : Bool :=
  decide (kind.toNat ≠ 0) && (decide (kind.toNat ≠ 3) || (decide (esz.toNat = 3) && decide (dims.toNat = 0)))
    && (decide (kind.toNat ≠ 2) || decide (dims.toNat ≤ 1))

/-- `recv` writes `g`d to `g`(d + 3); A names none of them (R257). -/
def recvRegsOk (d a : Reg) : Bool :=
  decide (d.toNat + 3 ≤ 31) && (decide (a.toNat = 0) || decide (a.toNat < d.toNat) || decide (d.toNat + 3 < a.toNat))

/-- A register of the file a collective names: `g` or `v` (R279, R280). -/
def fileRegOk (file : BitVec 1) (r : Reg) : Bool :=
  if file.toNat = 0 then decide (r.toNat < 32) else decide (r.toNat < 48)

/-- The numbers of Table 1.5. -/
def csrKnown (num : BitVec 10) : Bool :=
  let n := num.toNat
  decide (n ≤ 5) || (decide (8 ≤ n) && decide (n ≤ 0xB)) || (decide (0x10 ≤ n) && decide (n ≤ 0x18))
    || (decide (0x20 ≤ n) && decide (n ≤ 0x22)) || (decide (0x24 ≤ n) && decide (n ≤ 0x27)) || decide (n = 0x30)
    || (decide (0x100 ≤ n) && decide (n ≤ 0x110))


/-- Register codes of K16 (R47). -/
def K16.regsOk (_ : K16) : Bool := true
/-- Field values of K16 that its entry accepts. -/
def K16.fieldsOk (_ : K16) : Bool := true

/-- Register codes of K32 (R47). -/
def K32.regsOk (_ : K32) : Bool := true
/-- Field values of K32 that its entry accepts. -/
def K32.fieldsOk (_ : K32) : Bool := true

/-- Register codes of K64 (R47). -/
def K64.regsOk (_ : K64) : Bool := true
/-- Field values of K64 that its entry accepts. -/
def K64.fieldsOk (_ : K64) : Bool := true

/-- Register codes of GGG (R47). -/
def GGG.regsOk (o : GGG) : Bool := gOk o.d && gOk o.a && gOk o.b
/-- Field values of GGG that its entry accepts. -/
def GGG.fieldsOk (_ : GGG) : Bool := true

/-- Register codes of GG (R47). -/
def GG.regsOk (o : GG) : Bool := gOk o.d && gOk o.a
/-- Field values of GG that its entry accepts. -/
def GG.fieldsOk (_ : GG) : Bool := true

/-- Register codes of GGGG (R47). -/
def GGGG.regsOk (o : GGGG) : Bool := gOk o.d && gOk o.a && gOk o.b && gOk o.c
/-- Field values of GGGG that its entry accepts. -/
def GGGG.fieldsOk (_ : GGGG) : Bool := true

/-- Register codes of GGI10 (R47). -/
def GGI10.regsOk (o : GGI10) : Bool := gOk o.d && gOk o.a
/-- Field values of GGI10 that its entry accepts. -/
def GGI10.fieldsOk (_ : GGI10) : Bool := true

/-- Register codes of GGI26 (R47). -/
def GGI26.regsOk (o : GGI26) : Bool := gOk o.d && gOk o.a
/-- Field values of GGI26 that its entry accepts. -/
def GGI26.fieldsOk (_ : GGI26) : Bool := true

/-- Register codes of ShiftI (R47). -/
def ShiftI.regsOk (o : ShiftI) : Bool := gOk o.d && gOk o.a
/-- Field values of ShiftI that its entry accepts. -/
def ShiftI.fieldsOk (_ : ShiftI) : Bool := true

/-- Register codes of GK16 (R47). -/
def GK16.regsOk (o : GK16) : Bool := gOk o.d
/-- Field values of GK16 that its entry accepts. -/
def GK16.fieldsOk (_ : GK16) : Bool := true

/-- Register codes of FK16 (R47). -/
def FK16.regsOk (o : FK16) : Bool := fOk o.d
/-- Field values of FK16 that its entry accepts. -/
def FK16.fieldsOk (_ : FK16) : Bool := true

/-- Register codes of GK32 (R47). -/
def GK32.regsOk (o : GK32) : Bool := gOk o.d
/-- Field values of GK32 that its entry accepts. -/
def GK32.fieldsOk (_ : GK32) : Bool := true

/-- Register codes of FK32 (R47). -/
def FK32.regsOk (o : FK32) : Bool := fOk o.d
/-- Field values of FK32 that its entry accepts. -/
def FK32.fieldsOk (_ : FK32) : Bool := true

/-- Register codes of GK64 (R47). -/
def GK64.regsOk (o : GK64) : Bool := gOk o.d
/-- Field values of GK64 that its entry accepts. -/
def GK64.fieldsOk (_ : GK64) : Bool := true

/-- Register codes of FK64 (R47). -/
def FK64.regsOk (o : FK64) : Bool := fOk o.d
/-- Field values of FK64 that its entry accepts. -/
def FK64.fieldsOk (_ : FK64) : Bool := true

/-- Register codes of LeaM (R47). -/
def LeaM.regsOk (o : LeaM) : Bool := gOk o.d && gOk o.base
/-- Field values of LeaM that its entry accepts. -/
def LeaM.fieldsOk (_ : LeaM) : Bool := true

/-- Register codes of LeaX (R47). -/
def LeaX.regsOk (o : LeaX) : Bool := gOk o.d && gOk o.base && ixRegOk o.ix o.body
/-- Field values of LeaX that its entry accepts. -/
def LeaX.fieldsOk (o : LeaX) : Bool := ixFieldOk o.ix o.body

/-- Register codes of BitF (R47). -/
def BitF.regsOk (o : BitF) : Bool := gOk o.d && gOk o.a
/-- Field values of BitF that its entry accepts. -/
def BitF.fieldsOk (o : BitF) : Bool := decide (o.pos.toNat + o.lenm1.toNat ≤ 63)

/-- Register codes of GGI8 (R47). -/
def GGI8.regsOk (o : GGI8) : Bool := gOk o.d && gOk o.a
/-- Field values of GGI8 that its entry accepts. -/
def GGI8.fieldsOk (_ : GGI8) : Bool := true

/-- Register codes of GGI24 (R47). -/
def GGI24.regsOk (o : GGI24) : Bool := gOk o.d && gOk o.a
/-- Field values of GGI24 that its entry accepts. -/
def GGI24.fieldsOk (_ : GGI24) : Bool := true

/-- Register codes of BrB (R47). -/
def BrB.regsOk (o : BrB) : Bool := gOk o.a && gOk o.b
/-- Field values of BrB that its entry accepts. -/
def BrB.fieldsOk (_ : BrB) : Bool := true

/-- Register codes of BrZ (R47). -/
def BrZ.regsOk (o : BrZ) : Bool := gOk o.a
/-- Field values of BrZ that its entry accepts. -/
def BrZ.fieldsOk (_ : BrZ) : Bool := true

/-- Register codes of Jmp (R47). -/
def Jmp.regsOk (_ : Jmp) : Bool := true
/-- Field values of Jmp that its entry accepts. -/
def Jmp.fieldsOk (_ : Jmp) : Bool := true

/-- Register codes of GJmp (R47). -/
def GJmp.regsOk (o : GJmp) : Bool := gOk o.d
/-- Field values of GJmp that its entry accepts. -/
def GJmp.fieldsOk (_ : GJmp) : Bool := true

/-- Register codes of GD (R47). -/
def GD.regsOk (o : GD) : Bool := gOk o.d
/-- Field values of GD that its entry accepts. -/
def GD.fieldsOk (_ : GD) : Bool := true

/-- Register codes of RepO (R47). -/
def RepO.regsOk (o : RepO) : Bool := gOk o.a
/-- Field values of RepO that its entry accepts. -/
def RepO.fieldsOk (_ : RepO) : Bool := true

/-- Register codes of LdM (R47). -/
def LdM.regsOk (o : LdM) : Bool := gOk o.d && gOk o.base
/-- Field values of LdM that its entry accepts. -/
def LdM.fieldsOk (_ : LdM) : Bool := true

/-- Register codes of LdX (R47). -/
def LdX.regsOk (o : LdX) : Bool := gOk o.d && gOk o.base && ixRegOk o.ix o.body
/-- Field values of LdX that its entry accepts. -/
def LdX.fieldsOk (o : LdX) : Bool := ixFieldOk o.ix o.body

/-- Register codes of LdaX (R47). -/
def LdaX.regsOk (o : LdaX) : Bool := gOk o.d && gOk o.base && ixRegOk o.ix o.body
/-- Field values of LdaX that its entry accepts. -/
def LdaX.fieldsOk (o : LdaX) : Bool := ixFieldOk o.ix o.body && scopeOk o.sc o.gm

/-- Register codes of FeX (R47). -/
def FeX.regsOk (o : FeX) : Bool := gOk o.d && gOk o.base && ixRegOk o.ix o.body
/-- Field values of FeX that its entry accepts. -/
def FeX.fieldsOk (o : FeX) : Bool := ixFieldOk o.ix o.body && scopeOk o.sc o.gm

/-- Register codes of LdffM (R47). -/
def LdffM.regsOk (o : LdffM) : Bool := gOk o.d && gOk o.base
/-- Field values of LdffM that its entry accepts. -/
def LdffM.fieldsOk (_ : LdffM) : Bool := true

/-- Register codes of LdffX (R47). -/
def LdffX.regsOk (o : LdffX) : Bool := gOk o.d && gOk o.base && ixRegOk o.ix o.body
/-- Field values of LdffX that its entry accepts. -/
def LdffX.fieldsOk (o : LdffX) : Bool := ixFieldOk o.ix o.body && scope0Ok o.sc o.gm

/-- Register codes of StM (R47). -/
def StM.regsOk (o : StM) : Bool := gOk o.d && gOk o.base
/-- Field values of StM that its entry accepts. -/
def StM.fieldsOk (_ : StM) : Bool := true

/-- Register codes of StX (R47). -/
def StX.regsOk (o : StX) : Bool := gOk o.d && gOk o.base && ixRegOk o.ix o.body
/-- Field values of StX that its entry accepts. -/
def StX.fieldsOk (o : StX) : Bool := ixFieldOk o.ix o.body

/-- Register codes of StlX (R47). -/
def StlX.regsOk (o : StlX) : Bool := gOk o.d && gOk o.base && ixRegOk o.ix o.body
/-- Field values of StlX that its entry accepts. -/
def StlX.fieldsOk (o : StlX) : Bool := ixFieldOk o.ix o.body && scopeOk o.sc o.gm

/-- Register codes of FesetM (R47). -/
def FesetM.regsOk (o : FesetM) : Bool := gOk o.base
/-- Field values of FesetM that its entry accepts. -/
def FesetM.fieldsOk (_ : FesetM) : Bool := true

/-- Register codes of FesetX (R47). -/
def FesetX.regsOk (o : FesetX) : Bool := gOk o.base && ixRegOk o.ix o.body
/-- Field values of FesetX that its entry accepts. -/
def FesetX.fieldsOk (o : FesetX) : Bool := ixFieldOk o.ix o.body

/-- Register codes of FMemM (R47). -/
def FMemM.regsOk (o : FMemM) : Bool := fOk o.d && gOk o.base
/-- Field values of FMemM that its entry accepts. -/
def FMemM.fieldsOk (_ : FMemM) : Bool := true

/-- Register codes of FMemX (R47). -/
def FMemX.regsOk (o : FMemX) : Bool := fOk o.d && gOk o.base && ixRegOk o.ix o.body
/-- Field values of FMemX that its entry accepts. -/
def FMemX.fieldsOk (o : FMemX) : Bool := ixFieldOk o.ix o.body

/-- Register codes of PairM (R47). -/
def PairM.regsOk (o : PairM) : Bool := gOk o.d && gOk o.base && evenReg o.d
/-- Field values of PairM that its entry accepts. -/
def PairM.fieldsOk (_ : PairM) : Bool := true

/-- Register codes of PairX (R47). -/
def PairX.regsOk (o : PairX) : Bool := gOk o.d && gOk o.base && evenReg o.d && ixRegOk o.ix o.body
/-- Field values of PairX that its entry accepts. -/
def PairX.fieldsOk (o : PairX) : Bool := ixFieldOk o.ix o.body

/-- Register codes of FenceO (R47). -/
def FenceO.regsOk (_ : FenceO) : Bool := true
/-- Field values of FenceO that its entry accepts. -/
def FenceO.fieldsOk (o : FenceO) : Bool := scopeOk o.sc o.gm

/-- Register codes of WaitaX (R47). -/
def WaitaX.regsOk (o : WaitaX) : Bool := gOk o.d && gOk o.base && ixRegOk o.ix o.body
/-- Field values of WaitaX that its entry accepts. -/
def WaitaX.fieldsOk (o : WaitaX) : Bool := ixFieldOk o.ix o.body && decide (2 ≤ o.sz.toNat) && scope0Ok o.sc o.gm

/-- Register codes of PrefM (R47). -/
def PrefM.regsOk (o : PrefM) : Bool := gOk o.base
/-- Field values of PrefM that its entry accepts. -/
def PrefM.fieldsOk (_ : PrefM) : Bool := true

/-- Register codes of PrefX (R47). -/
def PrefX.regsOk (o : PrefX) : Bool := gOk o.base && ixRegOk o.ix o.body
/-- Field values of PrefX that its entry accepts. -/
def PrefX.fieldsOk (o : PrefX) : Bool := ixFieldOk o.ix o.body

/-- Register codes of AtO (R47). -/
def AtO.regsOk (o : AtO) : Bool := gOk o.d && gOk o.base && gOk o.src
/-- Field values of AtO that its entry accepts. -/
def AtO.fieldsOk (o : AtO) : Bool := decide (2 ≤ o.sz.toNat) && scope0Ok o.sc o.gm && orderOk o.acq o.rel o.sc

/-- Register codes of CaspO (R47). -/
def CaspO.regsOk (o : CaspO) : Bool := gOk o.d && gOk o.base && gOk o.src && evenReg o.d && evenReg o.src
/-- Field values of CaspO that its entry accepts. -/
def CaspO.fieldsOk (o : CaspO) : Bool := scope0Ok o.sc o.gm && orderOk o.acq o.rel o.sc

/-- Register codes of SbindO (R47). -/
def SbindO.regsOk (o : SbindO) : Bool := gOk o.a
/-- Field values of SbindO that its entry accepts. -/
def SbindO.fieldsOk (o : SbindO) : Bool := unitOk o.u && sbindOk o.kind o.esz o.dims

/-- Register codes of SdimR (R47). -/
def SdimR.regsOk (o : SdimR) : Bool := gOk o.a && gOk o.b
/-- Field values of SdimR that its entry accepts. -/
def SdimR.fieldsOk (o : SdimR) : Bool := unitOk o.u

/-- Register codes of SdimW (R47). -/
def SdimW.regsOk (_ : SdimW) : Bool := true
/-- Field values of SdimW that its entry accepts. -/
def SdimW.fieldsOk (o : SdimW) : Bool := unitOk o.u

/-- Register codes of SidxR (R47). -/
def SidxR.regsOk (o : SidxR) : Bool := gOk o.a
/-- Field values of SidxR that its entry accepts. -/
def SidxR.fieldsOk (o : SidxR) : Bool := unitOk o.u

/-- Register codes of SidxW (R47). -/
def SidxW.regsOk (o : SidxW) : Bool := gOk o.a
/-- Field values of SidxW that its entry accepts. -/
def SidxW.fieldsOk (o : SidxW) : Bool := unitOk o.u

/-- Register codes of SdirO (R47). -/
def SdirO.regsOk (_ : SdirO) : Bool := true
/-- Field values of SdirO that its entry accepts. -/
def SdirO.fieldsOk (o : SdirO) : Bool := unitOk o.u && (decide (o.rpt = 0) || decide (o.dir = 0))

/-- Register codes of Units (R47). -/
def Units.regsOk (_ : Units) : Bool := true
/-- Field values of Units that its entry accepts. -/
def Units.fieldsOk (o : Units) : Bool := decide (o.m ≠ 0)

/-- Register codes of UnitG (R47). -/
def UnitG.regsOk (o : UnitG) : Bool := gOk o.a
/-- Field values of UnitG that its entry accepts. -/
def UnitG.fieldsOk (o : UnitG) : Bool := unitOk o.u

/-- Register codes of UnitM (R47). -/
def UnitM.regsOk (o : UnitM) : Bool := gOk o.base
/-- Field values of UnitM that its entry accepts. -/
def UnitM.fieldsOk (o : UnitM) : Bool := unitOk o.u

/-- Register codes of UnitX (R47). -/
def UnitX.regsOk (o : UnitX) : Bool := gOk o.base && ixRegOk o.ix o.body
/-- Field values of UnitX that its entry accepts. -/
def UnitX.fieldsOk (o : UnitX) : Bool := unitOk o.u && ixFieldOk o.ix o.body

/-- Register codes of SetO (R47). -/
def SetO.regsOk (_ : SetO) : Bool := true
/-- Field values of SetO that its entry accepts. -/
def SetO.fieldsOk (o : SetO) : Bool := unitOk o.u && unitOk o.la && unitOk o.lb && decide (o.u ≠ o.la) && decide (o.u ≠ o.lb) && decide (o.la ≠ o.lb)

/-- Register codes of ScoordO (R47). -/
def ScoordO.regsOk (o : ScoordO) : Bool := gOk o.a && gOk o.b
/-- Field values of ScoordO that its entry accepts. -/
def ScoordO.fieldsOk (o : ScoordO) : Bool := unitOk o.u

/-- Register codes of FP3 (R47). -/
def FP3.regsOk (o : FP3) : Bool := fOk o.d && fOk o.a && fOk o.b
/-- Field values of FP3 that its entry accepts. -/
def FP3.fieldsOk (o : FP3) : Bool := decide (o.pr ≠ 3)

/-- Register codes of FP3R (R47). -/
def FP3R.regsOk (o : FP3R) : Bool := fOk o.d && fOk o.a && fOk o.b
/-- Field values of FP3R that its entry accepts. -/
def FP3R.fieldsOk (o : FP3R) : Bool := decide (o.pr ≠ 3) && decide (o.rnd ≠ 7)

/-- Register codes of FP3H (R47). -/
def FP3H.regsOk (o : FP3H) : Bool := fOk o.d && fOk o.a && fOk o.b
/-- Field values of FP3H that its entry accepts. -/
def FP3H.fieldsOk (o : FP3H) : Bool := decide (o.pr ≠ 3)

/-- Register codes of FP4R (R47). -/
def FP4R.regsOk (o : FP4R) : Bool := fOk o.d && fOk o.a && fOk o.b && fOk o.c
/-- Field values of FP4R that its entry accepts. -/
def FP4R.fieldsOk (o : FP4R) : Bool := decide (o.pr ≠ 3) && decide (o.rnd ≠ 7)

/-- Register codes of FP2 (R47). -/
def FP2.regsOk (o : FP2) : Bool := fOk o.d && fOk o.a
/-- Field values of FP2 that its entry accepts. -/
def FP2.fieldsOk (o : FP2) : Bool := decide (o.pr ≠ 3)

/-- Register codes of FP2H (R47). -/
def FP2H.regsOk (o : FP2H) : Bool := fOk o.d && fOk o.a
/-- Field values of FP2H that its entry accepts. -/
def FP2H.fieldsOk (o : FP2H) : Bool := decide (o.pr ≠ 3)

/-- Register codes of FS2 (R47). -/
def FS2.regsOk (o : FS2) : Bool := fOk o.d && fOk o.a
/-- Field values of FS2 that its entry accepts. -/
def FS2.fieldsOk (o : FS2) : Bool := decide (o.pr ≠ 3) && decide (o.pr ≠ 0)

/-- Register codes of FS2H (R47). -/
def FS2H.regsOk (o : FS2H) : Bool := fOk o.d && fOk o.a
/-- Field values of FS2H that its entry accepts. -/
def FS2H.fieldsOk (o : FS2H) : Bool := decide (o.pr ≠ 3) && decide (o.pr ≠ 0)

/-- Register codes of FC3 (R47). -/
def FC3.regsOk (o : FC3) : Bool := gOk o.d && fOk o.a && fOk o.b
/-- Field values of FC3 that its entry accepts. -/
def FC3.fieldsOk (o : FC3) : Bool := decide (o.pr ≠ 3)

/-- Register codes of FC3H (R47). -/
def FC3H.regsOk (o : FC3H) : Bool := gOk o.d && fOk o.a && fOk o.b
/-- Field values of FC3H that its entry accepts. -/
def FC3H.fieldsOk (o : FC3H) : Bool := decide (o.pr ≠ 3)

/-- Register codes of FC2 (R47). -/
def FC2.regsOk (o : FC2) : Bool := gOk o.d && fOk o.a
/-- Field values of FC2 that its entry accepts. -/
def FC2.fieldsOk (o : FC2) : Bool := decide (o.pr ≠ 3)

/-- Register codes of CvtR (R47). -/
def CvtR.regsOk (o : CvtR) : Bool := fOk o.d && fOk o.a
/-- Field values of CvtR that its entry accepts. -/
def CvtR.fieldsOk (_ : CvtR) : Bool := true

/-- Register codes of CvtX (R47). -/
def CvtX.regsOk (o : CvtX) : Bool := fOk o.d && fOk o.a
/-- Field values of CvtX that its entry accepts. -/
def CvtX.fieldsOk (o : CvtX) : Bool := decide (o.rnd ≠ 7)

/-- Register codes of CviR (R47). -/
def CviR.regsOk (o : CviR) : Bool := gOk o.d && fOk o.a
/-- Field values of CviR that its entry accepts. -/
def CviR.fieldsOk (_ : CviR) : Bool := true

/-- Register codes of CviX (R47). -/
def CviX.regsOk (o : CviX) : Bool := gOk o.d && fOk o.a
/-- Field values of CviX that its entry accepts. -/
def CviX.fieldsOk (o : CviX) : Bool := decide (o.rnd ≠ 7)

/-- Register codes of IcvR (R47). -/
def IcvR.regsOk (o : IcvR) : Bool := fOk o.d && gOk o.a
/-- Field values of IcvR that its entry accepts. -/
def IcvR.fieldsOk (_ : IcvR) : Bool := true

/-- Register codes of IcvX (R47). -/
def IcvX.regsOk (o : IcvX) : Bool := fOk o.d && gOk o.a
/-- Field values of IcvX that its entry accepts. -/
def IcvX.fieldsOk (o : IcvX) : Bool := decide (o.rnd ≠ 7)

/-- Register codes of GF (R47). -/
def GF.regsOk (o : GF) : Bool := gOk o.d && fOk o.a
/-- Field values of GF that its entry accepts. -/
def GF.fieldsOk (_ : GF) : Bool := true

/-- Register codes of FG (R47). -/
def FG.regsOk (o : FG) : Bool := fOk o.d && gOk o.a
/-- Field values of FG that its entry accepts. -/
def FG.fieldsOk (_ : FG) : Bool := true

/-- Register codes of F4H (R47). -/
def F4H.regsOk (o : F4H) : Bool := fOk o.d && fOk o.a && fOk o.b && fOk o.c
/-- Field values of F4H that its entry accepts. -/
def F4H.fieldsOk (_ : F4H) : Bool := true

/-- Register codes of PE3 (R47). -/
def PE3.regsOk (o : PE3) : Bool := fOk o.d && fOk o.a && fOk o.b
/-- Field values of PE3 that its entry accepts. -/
def PE3.fieldsOk (_ : PE3) : Bool := true

/-- Register codes of PE3H (R47). -/
def PE3H.regsOk (o : PE3H) : Bool := fOk o.d && fOk o.a && fOk o.b
/-- Field values of PE3H that its entry accepts. -/
def PE3H.fieldsOk (_ : PE3H) : Bool := true

/-- Register codes of PE4H (R47). -/
def PE4H.regsOk (o : PE4H) : Bool := fOk o.d && fOk o.a && fOk o.b && fOk o.c
/-- Field values of PE4H that its entry accepts. -/
def PE4H.fieldsOk (_ : PE4H) : Bool := true

/-- Register codes of PBc (R47). -/
def PBc.regsOk (o : PBc) : Bool := fOk o.d && fOk o.a
/-- Field values of PBc that its entry accepts. -/
def PBc.fieldsOk (_ : PBc) : Bool := true

/-- Register codes of PBcH (R47). -/
def PBcH.regsOk (o : PBcH) : Bool := fOk o.d && fOk o.a
/-- Field values of PBcH that its entry accepts. -/
def PBcH.fieldsOk (_ : PBcH) : Bool := true

/-- Register codes of PW3 (R47). -/
def PW3.regsOk (o : PW3) : Bool := fOk o.d && fOk o.a && fOk o.b
/-- Field values of PW3 that its entry accepts. -/
def PW3.fieldsOk (_ : PW3) : Bool := true

/-- Register codes of PW3H (R47). -/
def PW3H.regsOk (o : PW3H) : Bool := fOk o.d && fOk o.a && fOk o.b
/-- Field values of PW3H that its entry accepts. -/
def PW3H.fieldsOk (_ : PW3H) : Bool := true

/-- Register codes of PW4H (R47). -/
def PW4H.regsOk (o : PW4H) : Bool := fOk o.d && fOk o.a && fOk o.b && fOk o.c
/-- Field values of PW4H that its entry accepts. -/
def PW4H.fieldsOk (_ : PW4H) : Bool := true

/-- Register codes of PW2 (R47). -/
def PW2.regsOk (o : PW2) : Bool := fOk o.d && fOk o.a
/-- Field values of PW2 that its entry accepts. -/
def PW2.fieldsOk (_ : PW2) : Bool := true

/-- Register codes of PW2H (R47). -/
def PW2H.regsOk (o : PW2H) : Bool := fOk o.d && fOk o.a
/-- Field values of PW2H that its entry accepts. -/
def PW2H.fieldsOk (_ : PW2H) : Bool := true

/-- Register codes of PWcH (R47). -/
def PWcH.regsOk (o : PWcH) : Bool := fOk o.d && fOk o.a && fOk o.c
/-- Field values of PWcH that its entry accepts. -/
def PWcH.fieldsOk (_ : PWcH) : Bool := true

/-- Register codes of F3 (R47). -/
def F3.regsOk (o : F3) : Bool := fOk o.d && fOk o.a && fOk o.b
/-- Field values of F3 that its entry accepts. -/
def F3.fieldsOk (_ : F3) : Bool := true

/-- Register codes of F3H (R47). -/
def F3H.regsOk (o : F3H) : Bool := fOk o.d && fOk o.a && fOk o.b
/-- Field values of F3H that its entry accepts. -/
def F3H.fieldsOk (_ : F3H) : Bool := true

/-- Register codes of F2 (R47). -/
def F2.regsOk (o : F2) : Bool := fOk o.d && fOk o.a
/-- Field values of F2 that its entry accepts. -/
def F2.fieldsOk (_ : F2) : Bool := true

/-- Register codes of F2H (R47). -/
def F2H.regsOk (o : F2H) : Bool := fOk o.d && fOk o.a
/-- Field values of F2H that its entry accepts. -/
def F2H.fieldsOk (_ : F2H) : Bool := true

/-- Register codes of SendO (R47). -/
def SendO.regsOk (o : SendO) : Bool := gOk o.d && gOk o.a
/-- Field values of SendO that its entry accepts. -/
def SendO.fieldsOk (o : SendO) : Bool := scope0Ok o.sc o.gm

/-- Register codes of SendnO (R47). -/
def SendnO.regsOk (o : SendnO) : Bool := gOk o.d
/-- Field values of SendnO that its entry accepts. -/
def SendnO.fieldsOk (o : SendnO) : Bool := scope0Ok o.sc o.gm

/-- Register codes of RecvR (R47). -/
def RecvR.regsOk (o : RecvR) : Bool := gOk o.d && gOk o.a && recvRegsOk o.d o.a
/-- Field values of RecvR that its entry accepts. -/
def RecvR.fieldsOk (o : RecvR) : Bool := scope0Ok o.sc (o.gm.setWidth 2)

/-- Register codes of RecvX (R47). -/
def RecvX.regsOk (o : RecvX) : Bool := gOk o.d && gOk o.a && recvRegsOk o.d o.a
/-- Field values of RecvX that its entry accepts. -/
def RecvX.fieldsOk (o : RecvX) : Bool := scope0Ok o.sc o.gm

/-- Register codes of GCls (R47). -/
def GCls.regsOk (o : GCls) : Bool := gOk o.d
/-- Field values of GCls that its entry accepts. -/
def GCls.fieldsOk (_ : GCls) : Bool := true

/-- Register codes of QendO (R47). -/
def QendO.regsOk (o : QendO) : Bool := gOk o.a
/-- Field values of QendO that its entry accepts. -/
def QendO.fieldsOk (_ : QendO) : Bool := true

/-- Register codes of QctlO (R47). -/
def QctlO.regsOk (o : QctlO) : Bool := gOk o.d && gOk o.a
/-- Field values of QctlO that its entry accepts. -/
def QctlO.fieldsOk (_ : QctlO) : Bool := true

/-- Register codes of XferO (R47). -/
def XferO.regsOk (o : XferO) : Bool := gOk o.d && gOk o.a && gOk o.b
/-- Field values of XferO that its entry accepts. -/
def XferO.fieldsOk (_ : XferO) : Bool := true

/-- Register codes of XferI (R47). -/
def XferI.regsOk (o : XferI) : Bool := gOk o.d && gOk o.a && gOk o.b && gOk o.c
/-- Field values of XferI that its entry accepts. -/
def XferI.fieldsOk (_ : XferI) : Bool := true

/-- Register codes of CtrO (R47). -/
def CtrO.regsOk (o : CtrO) : Bool := gOk o.d && gOk o.a
/-- Field values of CtrO that its entry accepts. -/
def CtrO.fieldsOk (_ : CtrO) : Bool := true

/-- Register codes of MbindO (R47). -/
def MbindO.regsOk (o : MbindO) : Bool := gOk o.a && gOk o.b
/-- Field values of MbindO that its entry accepts. -/
def MbindO.fieldsOk (o : MbindO) : Bool := decide (o.slot ≠ 3) && decide (o.trig ≠ 3)

/-- Register codes of GbarA (R47). -/
def GbarA.regsOk (_ : GbarA) : Bool := true
/-- Field values of GbarA that its entry accepts. -/
def GbarA.fieldsOk (_ : GbarA) : Bool := true

/-- Register codes of GbarG (R47). -/
def GbarG.regsOk (o : GbarG) : Bool := gOk o.a
/-- Field values of GbarG that its entry accepts. -/
def GbarG.fieldsOk (_ : GbarG) : Bool := true

/-- Register codes of GredR (R47). -/
def GredR.regsOk (o : GredR) : Bool := fileRegOk o.file o.d && fileRegOk o.file o.a
/-- Field values of GredR that its entry accepts. -/
def GredR.fieldsOk (_ : GredR) : Bool := true

/-- Register codes of GredX (R47). -/
def GredX.regsOk (o : GredX) : Bool := fileRegOk o.file o.d && fileRegOk o.file o.a
/-- Field values of GredX that its entry accepts. -/
def GredX.fieldsOk (_ : GredX) : Bool := true

/-- Register codes of GcastR (R47). -/
def GcastR.regsOk (o : GcastR) : Bool := fileRegOk o.file o.d && fileRegOk o.file o.a
/-- Field values of GcastR that its entry accepts. -/
def GcastR.fieldsOk (_ : GcastR) : Bool := true

/-- Register codes of GcastX (R47). -/
def GcastX.regsOk (o : GcastX) : Bool := gOk o.c && fileRegOk o.file o.d && fileRegOk o.file o.a
/-- Field values of GcastX that its entry accepts. -/
def GcastX.fieldsOk (_ : GcastX) : Bool := true

/-- Register codes of GsumO (R47). -/
def GsumO.regsOk (o : GsumO) : Bool := gOk o.d && gOk o.a
/-- Field values of GsumO that its entry accepts. -/
def GsumO.fieldsOk (_ : GsumO) : Bool := true

/-- Register codes of SemR (R47). -/
def SemR.regsOk (o : SemR) : Bool := gOk o.d && gOk o.a && gOk o.b
/-- Field values of SemR that its entry accepts. -/
def SemR.fieldsOk (o : SemR) : Bool := scope0Ok o.sc (o.gm.setWidth 2)

/-- Register codes of SemX (R47). -/
def SemX.regsOk (o : SemX) : Bool := gOk o.d && gOk o.a && gOk o.b
/-- Field values of SemX that its entry accepts. -/
def SemX.fieldsOk (o : SemX) : Bool := scope0Ok o.sc o.gm

/-- Register codes of EvcN (R47). -/
def EvcN.regsOk (o : EvcN) : Bool := gOk o.d
/-- Field values of EvcN that its entry accepts. -/
def EvcN.fieldsOk (_ : EvcN) : Bool := true

/-- Register codes of EvcA (R47). -/
def EvcA.regsOk (o : EvcA) : Bool := gOk o.d && gOk o.a
/-- Field values of EvcA that its entry accepts. -/
def EvcA.fieldsOk (_ : EvcA) : Bool := true

/-- Register codes of VbM (R47). -/
def VbM.regsOk (o : VbM) : Bool := gOk o.base
/-- Field values of VbM that its entry accepts. -/
def VbM.fieldsOk (_ : VbM) : Bool := true

/-- Register codes of VbX (R47). -/
def VbX.regsOk (o : VbX) : Bool := gOk o.base && ixRegOk o.ix o.body
/-- Field values of VbX that its entry accepts. -/
def VbX.fieldsOk (o : VbX) : Bool := ixFieldOk o.ix o.body

/-- Register codes of VbOff (R47). -/
def VbOff.regsOk (_ : VbOff) : Bool := true
/-- Field values of VbOff that its entry accepts. -/
def VbOff.fieldsOk (_ : VbOff) : Bool := true

/-- Register codes of CldO (R47). -/
def CldO.regsOk (o : CldO) : Bool := gOk o.d && gOk o.a
/-- Field values of CldO that its entry accepts. -/
def CldO.fieldsOk (_ : CldO) : Bool := true

/-- Register codes of CvO (R47). -/
def CvO.regsOk (o : CvO) : Bool := gOk o.d && gOk o.a
/-- Field values of CvO that its entry accepts. -/
def CvO.fieldsOk (_ : CvO) : Bool := true

/-- Register codes of CamoO (R47). -/
def CamoO.regsOk (o : CamoO) : Bool := gOk o.d && gOk o.a && gOk o.c
/-- Field values of CamoO that its entry accepts. -/
def CamoO.fieldsOk (_ : CamoO) : Bool := true

/-- Register codes of CinvO (R47). -/
def CinvO.regsOk (o : CinvO) : Bool := gOk o.a
/-- Field values of CinvO that its entry accepts. -/
def CinvO.fieldsOk (o : CinvO) : Bool := scopeOk o.sc o.gm

/-- Register codes of CinvA (R47). -/
def CinvA.regsOk (_ : CinvA) : Bool := true
/-- Field values of CinvA that its entry accepts. -/
def CinvA.fieldsOk (o : CinvA) : Bool := scopeOk o.sc o.gm

/-- Register codes of CfreeO (R47). -/
def CfreeO.regsOk (o : CfreeO) : Bool := gOk o.d
/-- Field values of CfreeO that its entry accepts. -/
def CfreeO.fieldsOk (_ : CfreeO) : Bool := true

/-- Register codes of CnodeO (R47). -/
def CnodeO.regsOk (o : CnodeO) : Bool := gOk o.d && gOk o.a
/-- Field values of CnodeO that its entry accepts. -/
def CnodeO.fieldsOk (o : CnodeO) : Bool := decide (o.lvl ≠ 0)

/-- Register codes of CsrR (R47). -/
def CsrR.regsOk (o : CsrR) : Bool := gOk o.d
/-- Field values of CsrR that its entry accepts. -/
def CsrR.fieldsOk (o : CsrR) : Bool := csrKnown o.num

/-- Register codes of CsrA (R47). -/
def CsrA.regsOk (o : CsrA) : Bool := gOk o.d && gOk o.a
/-- Field values of CsrA that its entry accepts. -/
def CsrA.fieldsOk (o : CsrA) : Bool := csrKnown o.num

/-- Register codes of TlbP (R47). -/
def TlbP.regsOk (o : TlbP) : Bool := gOk o.a
/-- Field values of TlbP that its entry accepts. -/
def TlbP.fieldsOk (o : TlbP) : Bool := scopeOk o.sc o.gm

/-- Register codes of TlbC (R47). -/
def TlbC.regsOk (_ : TlbC) : Bool := true
/-- Field values of TlbC that its entry accepts. -/
def TlbC.fieldsOk (o : TlbC) : Bool := scopeOk o.sc o.gm

/-- Register codes of TlbA (R47). -/
def TlbA.regsOk (_ : TlbA) : Bool := true
/-- Field values of TlbA that its entry accepts. -/
def TlbA.fieldsOk (o : TlbA) : Bool := scopeOk o.sc o.gm

/-- Register codes of TlbR (R47). -/
def TlbR.regsOk (o : TlbR) : Bool := gOk o.a && gOk o.c
/-- Field values of TlbR that its entry accepts. -/
def TlbR.fieldsOk (o : TlbR) : Bool := scopeOk o.sc o.gm

end Sys2Proof
end

