-- ==== Sys2Proof/WellFormed.lean ====
section
/-! DEFINITION. Well-formed instructions: every operand field holds a code that the instruction accepts (R47, R49, R53,
R54). A step that no word encodes takes its arguments from outside and is always well formed. -/
namespace Sys2Proof

/-- Every register code and field value of the instruction is one its entry accepts. -/
def Instr.wf : Instr → Bool
  | .nop => true
  | .nopL1 o => K16.regsOk o && K16.fieldsOk o
  | .nopL2 o => K32.regsOk o && K32.fieldsOk o
  | .nopL3 o => K64.regsOk o && K64.fieldsOk o
  | .add o => GGG.regsOk o && GGG.fieldsOk o
  | .sub o => GGG.regsOk o && GGG.fieldsOk o
  | .and o => GGG.regsOk o && GGG.fieldsOk o
  | .or o => GGG.regsOk o && GGG.fieldsOk o
  | .xor o => GGG.regsOk o && GGG.fieldsOk o
  | .andn o => GGG.regsOk o && GGG.fieldsOk o
  | .shl o => GGG.regsOk o && GGG.fieldsOk o
  | .shr o => GGG.regsOk o && GGG.fieldsOk o
  | .sra o => GGG.regsOk o && GGG.fieldsOk o
  | .rotl o => GGG.regsOk o && GGG.fieldsOk o
  | .mul o => GGG.regsOk o && GGG.fieldsOk o
  | .mulh o => GGG.regsOk o && GGG.fieldsOk o
  | .mulhz o => GGG.regsOk o && GGG.fieldsOk o
  | .div o => GGG.regsOk o && GGG.fieldsOk o
  | .divz o => GGG.regsOk o && GGG.fieldsOk o
  | .rem o => GGG.regsOk o && GGG.fieldsOk o
  | .remz o => GGG.regsOk o && GGG.fieldsOk o
  | .min o => GGG.regsOk o && GGG.fieldsOk o
  | .max o => GGG.regsOk o && GGG.fieldsOk o
  | .minz o => GGG.regsOk o && GGG.fieldsOk o
  | .maxz o => GGG.regsOk o && GGG.fieldsOk o
  | .slt o => GGG.regsOk o && GGG.fieldsOk o
  | .sltz o => GGG.regsOk o && GGG.fieldsOk o
  | .seq o => GGG.regsOk o && GGG.fieldsOk o
  | .sel o => GGGG.regsOk o && GGGG.fieldsOk o
  | .addi o => GGI10.regsOk o && GGI10.fieldsOk o
  | .addiL2 o => GGI26.regsOk o && GGI26.fieldsOk o
  | .andi o => GGI10.regsOk o && GGI10.fieldsOk o
  | .andiL2 o => GGI26.regsOk o && GGI26.fieldsOk o
  | .ori o => GGI10.regsOk o && GGI10.fieldsOk o
  | .oriL2 o => GGI26.regsOk o && GGI26.fieldsOk o
  | .xori o => GGI10.regsOk o && GGI10.fieldsOk o
  | .xoriL2 o => GGI26.regsOk o && GGI26.fieldsOk o
  | .shli o => ShiftI.regsOk o && ShiftI.fieldsOk o
  | .shri o => ShiftI.regsOk o && ShiftI.fieldsOk o
  | .srai o => ShiftI.regsOk o && ShiftI.fieldsOk o
  | .rotli o => ShiftI.regsOk o && ShiftI.fieldsOk o
  | .li o => GK16.regsOk o && GK16.fieldsOk o
  | .liL2 o => GK32.regsOk o && GK32.fieldsOk o
  | .liL3 o => GK64.regsOk o && GK64.fieldsOk o
  | .addpc o => GK32.regsOk o && GK32.fieldsOk o
  | .lea o => LeaM.regsOk o && LeaM.fieldsOk o
  | .leaL2 o => LeaX.regsOk o && LeaX.fieldsOk o
  | .clz o => GG.regsOk o && GG.fieldsOk o
  | .ctz o => GG.regsOk o && GG.fieldsOk o
  | .popc o => GG.regsOk o && GG.fieldsOk o
  | .bswap o => GG.regsOk o && GG.fieldsOk o
  | .sextB o => GG.regsOk o && GG.fieldsOk o
  | .sextH o => GG.regsOk o && GG.fieldsOk o
  | .sextW o => GG.regsOk o && GG.fieldsOk o
  | .bext o => BitF.regsOk o && BitF.fieldsOk o
  | .bins o => BitF.regsOk o && BitF.fieldsOk o
  | .slti o => GGI8.regsOk o && GGI8.fieldsOk o
  | .sltiL2 o => GGI24.regsOk o && GGI24.fieldsOk o
  | .sltzi o => GGI8.regsOk o && GGI8.fieldsOk o
  | .sltziL2 o => GGI24.regsOk o && GGI24.fieldsOk o
  | .seqi o => GGI8.regsOk o && GGI8.fieldsOk o
  | .seqiL2 o => GGI24.regsOk o && GGI24.fieldsOk o
  | .beq o => BrB.regsOk o && BrB.fieldsOk o
  | .bne o => BrB.regsOk o && BrB.fieldsOk o
  | .blt o => BrB.regsOk o && BrB.fieldsOk o
  | .bge o => BrB.regsOk o && BrB.fieldsOk o
  | .bltz o => BrB.regsOk o && BrB.fieldsOk o
  | .bgez o => BrB.regsOk o && BrB.fieldsOk o
  | .bzEqz o => BrZ.regsOk o && BrZ.fieldsOk o
  | .bzNez o => BrZ.regsOk o && BrZ.fieldsOk o
  | .bzLtz o => BrZ.regsOk o && BrZ.fieldsOk o
  | .bzGez o => BrZ.regsOk o && BrZ.fieldsOk o
  | .bzGtz o => BrZ.regsOk o && BrZ.fieldsOk o
  | .bzLez o => BrZ.regsOk o && BrZ.fieldsOk o
  | .jmp o => Jmp.regsOk o && Jmp.fieldsOk o
  | .call o => GJmp.regsOk o && GJmp.fieldsOk o
  | .jr o => GD.regsOk o && GD.fieldsOk o
  | .decb o => GJmp.regsOk o && GJmp.fieldsOk o
  | .rep o => RepO.regsOk o && RepO.fieldsOk o
  | .pause o => K16.regsOk o && K16.fieldsOk o
  | .yield => true
  | .exit => true
  | .ld o => LdM.regsOk o && LdM.fieldsOk o
  | .ldL2 o => LdX.regsOk o && LdX.fieldsOk o
  | .lda o => LdaX.regsOk o && LdaX.fieldsOk o
  | .ldfe o => FeX.regsOk o && FeX.fieldsOk o
  | .ldff o => LdffM.regsOk o && LdffM.fieldsOk o
  | .ldffL2 o => LdffX.regsOk o && LdffX.fieldsOk o
  | .st o => StM.regsOk o && StM.fieldsOk o
  | .stL2 o => StX.regsOk o && StX.fieldsOk o
  | .stl o => StlX.regsOk o && StlX.fieldsOk o
  | .stef o => FeX.regsOk o && FeX.fieldsOk o
  | .feset o => FesetM.regsOk o && FesetM.fieldsOk o
  | .fesetL2 o => FesetX.regsOk o && FesetX.fieldsOk o
  | .fld o => FMemM.regsOk o && FMemM.fieldsOk o
  | .fldL2 o => FMemX.regsOk o && FMemX.fieldsOk o
  | .fst o => FMemM.regsOk o && FMemM.fieldsOk o
  | .fstL2 o => FMemX.regsOk o && FMemX.fieldsOk o
  | .ldp o => PairM.regsOk o && PairM.fieldsOk o
  | .ldpL2 o => PairX.regsOk o && PairX.fieldsOk o
  | .stp o => PairM.regsOk o && PairM.fieldsOk o
  | .stpL2 o => PairX.regsOk o && PairX.fieldsOk o
  | .fence o => FenceO.regsOk o && FenceO.fieldsOk o
  | .waita o => WaitaX.regsOk o && WaitaX.fieldsOk o
  | .pref o => PrefM.regsOk o && PrefM.fieldsOk o
  | .prefL2 o => PrefX.regsOk o && PrefX.fieldsOk o
  | .amoadd o => AtO.regsOk o && AtO.fieldsOk o
  | .amoand o => AtO.regsOk o && AtO.fieldsOk o
  | .amoor o => AtO.regsOk o && AtO.fieldsOk o
  | .amoxor o => AtO.regsOk o && AtO.fieldsOk o
  | .amomin o => AtO.regsOk o && AtO.fieldsOk o
  | .amomax o => AtO.regsOk o && AtO.fieldsOk o
  | .amominz o => AtO.regsOk o && AtO.fieldsOk o
  | .amomaxz o => AtO.regsOk o && AtO.fieldsOk o
  | .amoswap o => AtO.regsOk o && AtO.fieldsOk o
  | .cas o => AtO.regsOk o && AtO.fieldsOk o
  | .fadda o => AtO.regsOk o && AtO.fieldsOk o
  | .casp o => CaspO.regsOk o && CaspO.fieldsOk o
  | .sbind o => SbindO.regsOk o && SbindO.fieldsOk o
  | .sdim o => SdimR.regsOk o && SdimR.fieldsOk o
  | .sdimL3 o => SdimW.regsOk o && SdimW.fieldsOk o
  | .sidx o => SidxR.regsOk o && SidxR.fieldsOk o
  | .sidxL3 o => SidxW.regsOk o && SidxW.fieldsOk o
  | .sdir o => SdirO.regsOk o && SdirO.fieldsOk o
  | .sgo o => Units.regsOk o && Units.fieldsOk o
  | .sstop o => Units.regsOk o && Units.fieldsOk o
  | .sskip o => UnitG.regsOk o && UnitG.fieldsOk o
  | .spos o => UnitG.regsOk o && UnitG.fieldsOk o
  | .ssave o => UnitM.regsOk o && UnitM.fieldsOk o
  | .ssaveL2 o => UnitX.regsOk o && UnitX.fieldsOk o
  | .sload o => UnitM.regsOk o && UnitM.fieldsOk o
  | .sloadL2 o => UnitX.regsOk o && UnitX.fieldsOk o
  | .sisect o => SetO.regsOk o && SetO.fieldsOk o
  | .sunion o => SetO.regsOk o && SetO.fieldsOk o
  | .sstatPos o => UnitG.regsOk o && UnitG.fieldsOk o
  | .sstatSt o => UnitG.regsOk o && UnitG.fieldsOk o
  | .scoord o => ScoordO.regsOk o && ScoordO.fieldsOk o
  | .fadd o => FP3.regsOk o && FP3.fieldsOk o
  | .faddL2 o => FP3R.regsOk o && FP3R.fieldsOk o
  | .fsub o => FP3.regsOk o && FP3.fieldsOk o
  | .fsubL2 o => FP3R.regsOk o && FP3R.fieldsOk o
  | .fmul o => FP3.regsOk o && FP3.fieldsOk o
  | .fmulL2 o => FP3R.regsOk o && FP3R.fieldsOk o
  | .fma o => FP4R.regsOk o && FP4R.fieldsOk o
  | .fms o => FP4R.regsOk o && FP4R.fieldsOk o
  | .fnma o => FP4R.regsOk o && FP4R.fieldsOk o
  | .fnms o => FP4R.regsOk o && FP4R.fieldsOk o
  | .fmin o => FP3.regsOk o && FP3.fieldsOk o
  | .fminL2 o => FP3H.regsOk o && FP3H.fieldsOk o
  | .fmax o => FP3.regsOk o && FP3.fieldsOk o
  | .fmaxL2 o => FP3H.regsOk o && FP3H.fieldsOk o
  | .fneg o => FP2.regsOk o && FP2.fieldsOk o
  | .fnegL2 o => FP2H.regsOk o && FP2H.fieldsOk o
  | .fabs o => FP2H.regsOk o && FP2H.fieldsOk o
  | .fcpsgn o => FP3H.regsOk o && FP3H.fieldsOk o
  | .feq o => FC3.regsOk o && FC3.fieldsOk o
  | .feqL2 o => FC3H.regsOk o && FC3H.fieldsOk o
  | .flt o => FC3.regsOk o && FC3.fieldsOk o
  | .fltL2 o => FC3H.regsOk o && FC3H.fieldsOk o
  | .fle o => FC3.regsOk o && FC3.fieldsOk o
  | .fleL2 o => FC3H.regsOk o && FC3H.fieldsOk o
  | .funo o => FC3.regsOk o && FC3.fieldsOk o
  | .funoL2 o => FC3H.regsOk o && FC3H.fieldsOk o
  | .fclass o => FC2.regsOk o && FC2.fieldsOk o
  | .fcvt o => CvtR.regsOk o && CvtR.fieldsOk o
  | .fcvtL2 o => CvtX.regsOk o && CvtX.fieldsOk o
  | .fcvti o => CviR.regsOk o && CviR.fieldsOk o
  | .fcvtiL2 o => CviX.regsOk o && CviX.fieldsOk o
  | .icvtf o => IcvR.regsOk o && IcvR.fieldsOk o
  | .icvtfL2 o => IcvX.regsOk o && IcvX.fieldsOk o
  | .fmvg o => GF.regsOk o && GF.fieldsOk o
  | .gmvf o => FG.regsOk o && FG.fieldsOk o
  | .fli o => FK16.regsOk o && FK16.fieldsOk o
  | .fliL2 o => FK32.regsOk o && FK32.fieldsOk o
  | .fliL3 o => FK64.regsOk o && FK64.fieldsOk o
  | .fsel o => F4H.regsOk o && F4H.fieldsOk o
  | .padd o => PE3.regsOk o && PE3.fieldsOk o
  | .paddL2 o => PE3H.regsOk o && PE3H.fieldsOk o
  | .psub o => PE3.regsOk o && PE3.fieldsOk o
  | .psubL2 o => PE3H.regsOk o && PE3H.fieldsOk o
  | .pmul o => PE3.regsOk o && PE3.fieldsOk o
  | .pmulL2 o => PE3H.regsOk o && PE3H.fieldsOk o
  | .pfma o => PE4H.regsOk o && PE4H.fieldsOk o
  | .pmin o => PE3.regsOk o && PE3.fieldsOk o
  | .pminL2 o => PE3H.regsOk o && PE3H.fieldsOk o
  | .pmax o => PE3.regsOk o && PE3.fieldsOk o
  | .pmaxL2 o => PE3H.regsOk o && PE3H.fieldsOk o
  | .pdot o => PE4H.regsOk o && PE4H.fieldsOk o
  | .psum o => PE3.regsOk o && PE3.fieldsOk o
  | .psumL2 o => PE3H.regsOk o && PE3H.fieldsOk o
  | .pshuf o => PE3.regsOk o && PE3.fieldsOk o
  | .pshufL2 o => PE3H.regsOk o && PE3H.fieldsOk o
  | .pbcast o => PBc.regsOk o && PBc.fieldsOk o
  | .pbcastL2 o => PBcH.regsOk o && PBcH.fieldsOk o
  | .ppack o => PW3.regsOk o && PW3.fieldsOk o
  | .ppackL2 o => PW3H.regsOk o && PW3H.fieldsOk o
  | .punpack o => PW2.regsOk o && PW2.fieldsOk o
  | .punpackL2 o => PW2H.regsOk o && PW2H.fieldsOk o
  | .pq o => PW3.regsOk o && PW3.fieldsOk o
  | .pqL2 o => PW4H.regsOk o && PW4H.fieldsOk o
  | .pdq o => PW2.regsOk o && PW2.fieldsOk o
  | .pdqL2 o => PWcH.regsOk o && PWcH.fieldsOk o
  | .peq o => PE3.regsOk o && PE3.fieldsOk o
  | .peqL2 o => PE3H.regsOk o && PE3H.fieldsOk o
  | .plt o => PE3.regsOk o && PE3.fieldsOk o
  | .pltL2 o => PE3H.regsOk o && PE3H.fieldsOk o
  | .ple o => PE3.regsOk o && PE3.fieldsOk o
  | .pleL2 o => PE3H.regsOk o && PE3H.fieldsOk o
  | .puno o => PE3.regsOk o && PE3.fieldsOk o
  | .punoL2 o => PE3H.regsOk o && PE3H.fieldsOk o
  | .pand o => F3.regsOk o && F3.fieldsOk o
  | .pandL2 o => F3H.regsOk o && F3H.fieldsOk o
  | .por o => F3.regsOk o && F3.fieldsOk o
  | .porL2 o => F3H.regsOk o && F3H.fieldsOk o
  | .pxor o => F3.regsOk o && F3.fieldsOk o
  | .pxorL2 o => F3H.regsOk o && F3H.fieldsOk o
  | .pandn o => F3.regsOk o && F3.fieldsOk o
  | .pandnL2 o => F3H.regsOk o && F3H.fieldsOk o
  | .pmov o => F2.regsOk o && F2.fieldsOk o
  | .pmovL2 o => F2H.regsOk o && F2H.fieldsOk o
  | .fmt o => K32.regsOk o && K32.fieldsOk o
  | .frcp o => FP2.regsOk o && FP2.fieldsOk o
  | .frcpL2 o => FP2H.regsOk o && FP2H.fieldsOk o
  | .frsqrt o => FP2.regsOk o && FP2.fieldsOk o
  | .frsqrtL2 o => FP2H.regsOk o && FP2H.fieldsOk o
  | .fsqrt o => FP2.regsOk o && FP2.fieldsOk o
  | .fsqrtL2 o => FP2H.regsOk o && FP2H.fieldsOk o
  | .fdiv o => FP3.regsOk o && FP3.fieldsOk o
  | .fdivL2 o => FP3H.regsOk o && FP3H.fieldsOk o
  | .fexp2 o => FS2.regsOk o && FS2.fieldsOk o
  | .fexp2L2 o => FS2H.regsOk o && FS2H.fieldsOk o
  | .flog2 o => FS2.regsOk o && FS2.fieldsOk o
  | .flog2L2 o => FS2H.regsOk o && FS2H.fieldsOk o
  | .ftanh o => FS2.regsOk o && FS2.fieldsOk o
  | .ftanhL2 o => FS2H.regsOk o && FS2H.fieldsOk o
  | .fsigm o => FS2.regsOk o && FS2.fieldsOk o
  | .fsigmL2 o => FS2H.regsOk o && FS2H.fieldsOk o
  | .send o => SendO.regsOk o && SendO.fieldsOk o
  | .sendn o => SendnO.regsOk o && SendnO.fieldsOk o
  | .recv o => RecvR.regsOk o && RecvR.fieldsOk o
  | .recvL2 o => RecvX.regsOk o && RecvX.fieldsOk o
  | .recvTry o => RecvR.regsOk o && RecvR.fieldsOk o
  | .recvTryL2 o => RecvX.regsOk o && RecvX.fieldsOk o
  | .mstat o => GCls.regsOk o && GCls.fieldsOk o
  | .mstatL2 o => GCls.regsOk o && GCls.fieldsOk o
  | .mstatClr o => GCls.regsOk o && GCls.fieldsOk o
  | .mstatClrL2 o => GCls.regsOk o && GCls.fieldsOk o
  | .qend o => QendO.regsOk o && QendO.fieldsOk o
  | .qctlSt o => QctlO.regsOk o && QctlO.fieldsOk o
  | .qctlStL2 o => QctlO.regsOk o && QctlO.fieldsOk o
  | .qctlClr o => QctlO.regsOk o && QctlO.fieldsOk o
  | .qctlClrL2 o => QctlO.regsOk o && QctlO.fieldsOk o
  | .qctlBind o => QctlO.regsOk o && QctlO.fieldsOk o
  | .qctlBindL2 o => QctlO.regsOk o && QctlO.fieldsOk o
  | .qret => true
  | .get o => XferO.regsOk o && XferO.fieldsOk o
  | .put o => XferO.regsOk o && XferO.fieldsOk o
  | .getx o => XferI.regsOk o && XferI.fieldsOk o
  | .putx o => XferI.regsOk o && XferI.fieldsOk o
  | .cwait o => CtrO.regsOk o && CtrO.fieldsOk o
  | .cwaitL2 o => CtrO.regsOk o && CtrO.fieldsOk o
  | .cop o => CtrO.regsOk o && CtrO.fieldsOk o
  | .copL2 o => CtrO.regsOk o && CtrO.fieldsOk o
  | .mbind o => MbindO.regsOk o && MbindO.fieldsOk o
  | .gbarArr o => GbarA.regsOk o && GbarA.fieldsOk o
  | .gbarWait o => GbarG.regsOk o && GbarG.fieldsOk o
  | .gbar o => GbarG.regsOk o && GbarG.fieldsOk o
  | .gredSum o => GredR.regsOk o && GredR.fieldsOk o
  | .gredSumL2 o => GredX.regsOk o && GredX.fieldsOk o
  | .gredMin o => GredR.regsOk o && GredR.fieldsOk o
  | .gredMinL2 o => GredX.regsOk o && GredX.fieldsOk o
  | .gredMax o => GredR.regsOk o && GredR.fieldsOk o
  | .gredMaxL2 o => GredX.regsOk o && GredX.fieldsOk o
  | .gredAnd o => GredR.regsOk o && GredR.fieldsOk o
  | .gredAndL2 o => GredX.regsOk o && GredX.fieldsOk o
  | .gredOr o => GredR.regsOk o && GredR.fieldsOk o
  | .gredOrL2 o => GredX.regsOk o && GredX.fieldsOk o
  | .gcast o => GcastR.regsOk o && GcastR.fieldsOk o
  | .gcastL2 o => GcastX.regsOk o && GcastX.fieldsOk o
  | .gsum o => GsumO.regsOk o && GsumO.fieldsOk o
  | .semsig o => SemR.regsOk o && SemR.fieldsOk o
  | .semsigL2 o => SemX.regsOk o && SemX.fieldsOk o
  | .semwait o => SemR.regsOk o && SemR.fieldsOk o
  | .semwaitL2 o => SemX.regsOk o && SemX.fieldsOk o
  | .semread o => GG.regsOk o && GG.fieldsOk o
  | .semreadL2 o => GG.regsOk o && GG.fieldsOk o
  | .estatSt o => GG.regsOk o && GG.fieldsOk o
  | .estatStL2 o => GG.regsOk o && GG.fieldsOk o
  | .estatRec o => GG.regsOk o && GG.fieldsOk o
  | .estatRecL2 o => GG.regsOk o && GG.fieldsOk o
  | .estatRes o => GG.regsOk o && GG.fieldsOk o
  | .estatResL2 o => GG.regsOk o && GG.fieldsOk o
  | .estatDel o => GG.regsOk o && GG.fieldsOk o
  | .estatDelL2 o => GG.regsOk o && GG.fieldsOk o
  | .estatWin o => GD.regsOk o && GD.fieldsOk o
  | .estatWinL2 o => GD.regsOk o && GD.fieldsOk o
  | .estatQ o => GD.regsOk o && GD.fieldsOk o
  | .estatQL2 o => GD.regsOk o && GD.fieldsOk o
  | .evcRd o => EvcN.regsOk o && EvcN.fieldsOk o
  | .evcRdL2 o => EvcN.regsOk o && EvcN.fieldsOk o
  | .evcSet o => EvcA.regsOk o && EvcA.fieldsOk o
  | .evcSetL2 o => EvcA.regsOk o && EvcA.fieldsOk o
  | .evcRc o => EvcN.regsOk o && EvcN.fieldsOk o
  | .evcRcL2 o => EvcN.regsOk o && EvcN.fieldsOk o
  | .vbind o => VbM.regsOk o && VbM.fieldsOk o
  | .vbindL2 o => VbX.regsOk o && VbX.fieldsOk o
  | .vbindOff o => VbOff.regsOk o && VbOff.fieldsOk o
  | .cld o => CldO.regsOk o && CldO.fieldsOk o
  | .cst o => CvO.regsOk o && CvO.fieldsOk o
  | .cprobe o => CvO.regsOk o && CvO.fieldsOk o
  | .camoadd o => CamoO.regsOk o && CamoO.fieldsOk o
  | .camoand o => CamoO.regsOk o && CamoO.fieldsOk o
  | .camoor o => CamoO.regsOk o && CamoO.fieldsOk o
  | .camoxor o => CamoO.regsOk o && CamoO.fieldsOk o
  | .camomin o => CamoO.regsOk o && CamoO.fieldsOk o
  | .camomax o => CamoO.regsOk o && CamoO.fieldsOk o
  | .camominz o => CamoO.regsOk o && CamoO.fieldsOk o
  | .camomaxz o => CamoO.regsOk o && CamoO.fieldsOk o
  | .camoswap o => CamoO.regsOk o && CamoO.fieldsOk o
  | .ccas o => CamoO.regsOk o && CamoO.fieldsOk o
  | .cinv o => CinvO.regsOk o && CinvO.fieldsOk o
  | .cinvAll o => CinvA.regsOk o && CinvA.fieldsOk o
  | .callocGet o => CvO.regsOk o && CvO.fieldsOk o
  | .callocCut o => CvO.regsOk o && CvO.fieldsOk o
  | .callocFree o => CfreeO.regsOk o && CfreeO.fieldsOk o
  | .callocNode o => CnodeO.regsOk o && CnodeO.fieldsOk o
  | .cnbr o => CvO.regsOk o && CvO.fieldsOk o
  | .csrr o => CsrR.regsOk o && CsrR.fieldsOk o
  | .csrw o => CsrA.regsOk o && CsrA.fieldsOk o
  | .csrs o => CsrA.regsOk o && CsrA.fieldsOk o
  | .csrc o => CsrA.regsOk o && CsrA.fieldsOk o
  | .trap o => K16.regsOk o && K16.fieldsOk o
  | .tret => true
  | .brk => true
  | .brkL1 o => K16.regsOk o && K16.fieldsOk o
  | .tlbiPage o => TlbP.regsOk o && TlbP.fieldsOk o
  | .tlbiCtx o => TlbC.regsOk o && TlbC.fieldsOk o
  | .tlbiAll o => TlbA.regsOk o && TlbA.fieldsOk o
  | .tlbiRange o => TlbR.regsOk o && TlbR.fieldsOk o
  | .ifence => true
  | .wfi => true
  | .ctxswReq => true
  | .ctxswFlush => true
  | .syscHold o => GG.regsOk o && GG.fieldsOk o
  | .syscRel o => GD.regsOk o && GD.fieldsOk o
  | .syscWake o => GG.regsOk o && GG.fieldsOk o
  | .syscStop o => GG.regsOk o && GG.fieldsOk o
  | .fIssue _ => true
  | .fCommit _ => true
  | .sfuServiceStart => true
  | .sfuResultWrite => true
  | .divideComplete => true
  | .loadDataReturn _ => true
  | .lineFetchReturn _ => true
  | .storeDrain _ => true
  | .repReplayDispatch _ => true
  | .pauseExpiry _ => true
  | .trapEntry _ => true
  | .lightHandlerEntry _ => true
  | .streamRead _ _ => true
  | .ringFetch _ _ => true
  | .setOpPass _ _ => true
  | .feRemoteRetry _ => true
  | .waitaPoll _ => true
  | .syscHoldExpiry _ => true
  | .messageInject => true
  | .messageArrival _ => true
  | .messageAck _ => true
  | .messageNack _ => true
  | .messageRetryReady _ => true
  | .queueWordArrival _ => true
  | .transferComplete _ => true
  | .transferFailure _ _ => true
  | .mailboxLaunch _ => true
  | .commandAccept => true
  | .tumblerAdmit => true
  | .copy1d _ => true
  | .copy2d _ => true
  | .gather _ => true
  | .scatter _ => true
  | .fill _ => true
  | .notify _ => true
  | .zacc _ => true
  | .lacc _ => true
  | .sacc _ => true
  | .mma _ => true
  | .mmar _ => true
  | .qtile _ => true
  | .jobComplete _ => true
  | .jobFail _ => true
  | .tumblerStuck => true
  | .periodStart _ => true
  | .energyBudgetSpent => true
  | .teamPlace _ => true
  | .teamComplete _ => true
  | .teamAged _ => true
  | .switchIn _ _ => true
  | .clusterSave _ _ => true
  | .missPresent => true
  | .missResult => true
  | .pageinRequestArrival _ => true
  | .pageinResolve _ _ _ _ => true
  | .pageinWake _ => true
  | .doorbellTail _ _ => true
  | .qswSwitchIn _ _ => true
  | .qswSwitchOut _ => true
  | .qctlContinue _ => true
  | .qctlSkip _ => true
  | .semvWrite _ _ => true
  | .semaddWrite _ _ => true
  | .queueRecordWrite _ _ _ => true
  | .registerWrite _ _ => true
  | .keywayCommandRead _ _ => true
  | .queueAging _ => true
  | .knop _ => true
  | .klaunch _ => true
  | .kcopy _ => true
  | .kfill _ => true
  | .kwrite _ => true
  | .kintr _ => true
  | .kctx _ => true
  | .kclu _ => true
  | .kbudget _ => true
  | .kpool _ => true
  | .kpreempt _ => true
  | .kevict _ => true
  | .kabort _ => true
  | .msixUnmask _ => true
  | .bar2Read _ _ => true
  | .bar2Write _ _ => true
  | .barAtomicop _ _ => true
  | .hingeRetrain _ => true
  | .hingeCounterRead _ _ => true
  | .hingeRequestArrival _ _ => true
  | .loadObject => true
  | .translateAndLoad => true
  | .raiseFuseCounter => true
  | .attestationReport => true
  | .scrubPass _ _ => true
  | .pageRetire _ _ => true
  | .linkCrcReplay _ _ => true
  | .linkRetrain _ _ => true
  | .coreFence _ _ _ => true
  | .clusterFence _ _ => true
  | .dieFence _ => true
  | .coreRepair _ _ _ => true
  | .clusterRepair _ _ _ => true
  | .powerWindow _ => true
  | .thermalTrip => true
  | .powerOn _ => true
  | .coldStartRequest _ => true
  | .warmStartRequest _ => true
  | .startTimeout => true
  | .debugStop => true
  | .debugRun => true
  | .debugStep => true
  | .stepDone => true
  | .stepTimeout => true
  | .daccRead => true
  | .daccWrite => true
  | .dstatRead => true
  | .histSample _ => true
  | .intervalDump _ => true
  | .illegalInstruction _ _ => true
  | .linkTrainingComplete _ _ => true
  | .correctableErrorRecord _ _ _ => true

end Sys2Proof
end

