-- ==== Sys2Proof/Decode.lean ====
section
/-! DEFINITION. From bits to instructions and back (chapter 02): the fields of a head and its tail, the opcode map, the
codes of the sub-operations, Table 2.10, and the encoder. A field that the entry gives no use is reserved and must be
zero (R49). -/
namespace Sys2Proof

/-- The w bits of x from bit lo upwards, as a number. -/
def bits (x lo w : Nat) : Nat := x / 2 ^ lo % 2 ^ w

/-- The same bits as a field. -/
def fld (x lo w : Nat) : BitVec w := BitVec.ofNat w (bits x lo w)

/-- A reserved field holds zero. -/
def zero (x lo w : Nat) : Bool := bits x lo w == 0

/-- Why an encoding is no instruction (Table 2.10). -/
inductive DecodeError where
  | line
  | opcode
  | length
  | register
  | field
deriving DecidableEq, Repr

/-- The subcode of the illegal-instruction trap (Table 2.10). -/
def DecodeError.sub : DecodeError → BitVec 8
  | .opcode => 0x01
  | .length => 0x02
  | .field => 0x03
  | .register => 0x04
  | .line => 0x05

/-- A head and its tail: OP, L, D and the tail's value, read little-endian (R40, R41). -/
structure Enc where
  op : Nat
  l : Nat
  d : Nat
  tail : Nat
deriving DecidableEq, Repr

/-- One row of the map: the register codes are checked before the reserved fields (Table 2.10). -/
def row {α β : Type} (regs fields : α → Bool) (reserved : Bool) (o : α) (mk : α → β) : Except DecodeError β :=
  if regs o then (if reserved && fields o then .ok (mk o) else .error .field) else .error .register

/-- A row without operands. -/
def row0 {β : Type} (reserved : Bool) (i : β) : Except DecodeError β := if reserved then .ok i else .error .field

/-- A sub-operation code that is not listed: the registers all forms share are checked first (R53, Table 2.10). -/
def reservedSub {β : Type} (regs : Bool) : Except DecodeError β := if regs then .error .field else .error .register


/-- Fields of K16, from D and the tail. -/
def K16.parse (_ t : Nat) : K16 where
  k := fld t 0 16

/-- Fields of K32, from D and the tail. -/
def K32.parse (_ t : Nat) : K32 where
  k := fld t 0 32

/-- Fields of K64, from D and the tail. -/
def K64.parse (_ t : Nat) : K64 where
  k := fld t 0 64

/-- Fields of GGG, from D and the tail. -/
def GGG.parse (d t : Nat) : GGG where
  d := fld d 0 6
  a := fld t 0 6
  b := fld t 6 6

/-- Fields of GG, from D and the tail. -/
def GG.parse (d t : Nat) : GG where
  d := fld d 0 6
  a := fld t 0 6

/-- Fields of GGGG, from D and the tail. -/
def GGGG.parse (d t : Nat) : GGGG where
  d := fld d 0 6
  a := fld t 0 6
  b := fld t 6 6
  c := fld t 12 6

/-- Fields of GGI10, from D and the tail. -/
def GGI10.parse (d t : Nat) : GGI10 where
  d := fld d 0 6
  a := fld t 0 6
  imm := fld t 6 10

/-- Fields of GGI26, from D and the tail. -/
def GGI26.parse (d t : Nat) : GGI26 where
  d := fld d 0 6
  a := fld t 0 6
  imm := fld t 6 26

/-- Fields of ShiftI, from D and the tail. -/
def ShiftI.parse (d t : Nat) : ShiftI where
  d := fld d 0 6
  a := fld t 0 6
  amt := fld t 6 6

/-- Fields of GK16, from D and the tail. -/
def GK16.parse (d t : Nat) : GK16 where
  d := fld d 0 6
  k := fld t 0 16

/-- Fields of FK16, from D and the tail. -/
def FK16.parse (d t : Nat) : FK16 where
  d := fld d 0 6
  k := fld t 0 16

/-- Fields of GK32, from D and the tail. -/
def GK32.parse (d t : Nat) : GK32 where
  d := fld d 0 6
  k := fld t 0 32

/-- Fields of FK32, from D and the tail. -/
def FK32.parse (d t : Nat) : FK32 where
  d := fld d 0 6
  k := fld t 0 32

/-- Fields of GK64, from D and the tail. -/
def GK64.parse (d t : Nat) : GK64 where
  d := fld d 0 6
  k := fld t 0 64

/-- Fields of FK64, from D and the tail. -/
def FK64.parse (d t : Nat) : FK64 where
  d := fld d 0 6
  k := fld t 0 64

/-- Fields of LeaM, from D and the tail. -/
def LeaM.parse (d t : Nat) : LeaM where
  d := fld d 0 6
  base := fld t 0 6
  sz := fld t 6 2
  off := fld t 9 7

/-- Fields of LeaX, from D and the tail. -/
def LeaX.parse (d t : Nat) : LeaX where
  d := fld d 0 6
  base := fld t 0 6
  ix := fld t 14 1
  body := fld t 15 17

/-- Fields of BitF, from D and the tail. -/
def BitF.parse (d t : Nat) : BitF where
  d := fld d 0 6
  a := fld t 0 6
  pos := fld t 6 6
  lenm1 := fld t 12 6

/-- Fields of GGI8, from D and the tail. -/
def GGI8.parse (d t : Nat) : GGI8 where
  d := fld d 0 6
  a := fld t 0 6
  imm := fld t 8 8

/-- Fields of GGI24, from D and the tail. -/
def GGI24.parse (d t : Nat) : GGI24 where
  d := fld d 0 6
  a := fld t 0 6
  imm := fld t 8 24

/-- Fields of BrB, from D and the tail. -/
def BrB.parse (_ t : Nat) : BrB where
  a := fld t 0 6
  b := fld t 6 6
  off := fld t 12 20

/-- Fields of BrZ, from D and the tail. -/
def BrZ.parse (_ t : Nat) : BrZ where
  a := fld t 0 6
  off := fld t 12 20

/-- Fields of Jmp, from D and the tail. -/
def Jmp.parse (_ t : Nat) : Jmp where
  off := fld t 0 20

/-- Fields of GJmp, from D and the tail. -/
def GJmp.parse (d t : Nat) : GJmp where
  d := fld d 0 6
  off := fld t 0 20

/-- Fields of GD, from D and the tail. -/
def GD.parse (d _ : Nat) : GD where
  d := fld d 0 6

/-- Fields of RepO, from D and the tail. -/
def RepO.parse (d t : Nat) : RepO where
  bl := fld d 0 4
  a := fld t 0 6
  st := fld t 6 3
  wr := fld t 12 4
  mask := fld t 24 4

/-- Fields of LdM, from D and the tail. -/
def LdM.parse (d t : Nat) : LdM where
  d := fld d 0 6
  base := fld t 0 6
  sz := fld t 6 2
  zx := fld t 8 1
  off := fld t 9 7

/-- Fields of LdX, from D and the tail. -/
def LdX.parse (d t : Nat) : LdX where
  d := fld d 0 6
  base := fld t 0 6
  sz := fld t 6 2
  zx := fld t 8 1
  ix := fld t 14 1
  body := fld t 15 17

/-- Fields of LdaX, from D and the tail. -/
def LdaX.parse (d t : Nat) : LdaX where
  d := fld d 0 6
  base := fld t 0 6
  sz := fld t 6 2
  zx := fld t 8 1
  sc := fld t 9 3
  gm := fld t 12 2
  ix := fld t 14 1
  body := fld t 15 17

/-- Fields of FeX, from D and the tail. -/
def FeX.parse (d t : Nat) : FeX where
  d := fld d 0 6
  base := fld t 0 6
  sc := fld t 9 3
  gm := fld t 12 2
  ix := fld t 14 1
  body := fld t 15 17

/-- Fields of LdffM, from D and the tail. -/
def LdffM.parse (d t : Nat) : LdffM where
  d := fld d 0 6
  base := fld t 0 6
  off := fld t 9 7

/-- Fields of LdffX, from D and the tail. -/
def LdffX.parse (d t : Nat) : LdffX where
  d := fld d 0 6
  base := fld t 0 6
  sc := fld t 9 3
  gm := fld t 12 2
  ix := fld t 14 1
  body := fld t 15 17

/-- Fields of StM, from D and the tail. -/
def StM.parse (d t : Nat) : StM where
  d := fld d 0 6
  base := fld t 0 6
  sz := fld t 6 2
  off := fld t 9 7

/-- Fields of StX, from D and the tail. -/
def StX.parse (d t : Nat) : StX where
  d := fld d 0 6
  base := fld t 0 6
  sz := fld t 6 2
  ix := fld t 14 1
  body := fld t 15 17

/-- Fields of StlX, from D and the tail. -/
def StlX.parse (d t : Nat) : StlX where
  d := fld d 0 6
  base := fld t 0 6
  sz := fld t 6 2
  sc := fld t 9 3
  gm := fld t 12 2
  ix := fld t 14 1
  body := fld t 15 17

/-- Fields of FesetM, from D and the tail. -/
def FesetM.parse (d t : Nat) : FesetM where
  val := fld d 0 1
  base := fld t 0 6
  off := fld t 9 7

/-- Fields of FesetX, from D and the tail. -/
def FesetX.parse (d t : Nat) : FesetX where
  val := fld d 0 1
  base := fld t 0 6
  ix := fld t 14 1
  body := fld t 15 17

/-- Fields of FMemM, from D and the tail. -/
def FMemM.parse (d t : Nat) : FMemM where
  d := fld d 0 6
  base := fld t 0 6
  sz := fld t 6 2
  off := fld t 9 7

/-- Fields of FMemX, from D and the tail. -/
def FMemX.parse (d t : Nat) : FMemX where
  d := fld d 0 6
  base := fld t 0 6
  sz := fld t 6 2
  ix := fld t 14 1
  body := fld t 15 17

/-- Fields of PairM, from D and the tail. -/
def PairM.parse (d t : Nat) : PairM where
  d := fld d 0 6
  base := fld t 0 6
  off := fld t 9 7

/-- Fields of PairX, from D and the tail. -/
def PairX.parse (d t : Nat) : PairX where
  d := fld d 0 6
  base := fld t 0 6
  ix := fld t 14 1
  body := fld t 15 17

/-- Fields of FenceO, from D and the tail. -/
def FenceO.parse (d _ : Nat) : FenceO where
  sc := fld d 0 3
  gm := fld d 3 2

/-- Fields of WaitaX, from D and the tail. -/
def WaitaX.parse (d t : Nat) : WaitaX where
  d := fld d 0 6
  base := fld t 0 6
  sz := fld t 6 2
  zx := fld t 8 1
  sc := fld t 9 3
  gm := fld t 12 2
  ix := fld t 14 1
  body := fld t 15 17

/-- Fields of PrefM, from D and the tail. -/
def PrefM.parse (d t : Nat) : PrefM where
  pg := fld d 0 1
  base := fld t 0 6
  sz := fld t 6 2
  off := fld t 9 7

/-- Fields of PrefX, from D and the tail. -/
def PrefX.parse (d t : Nat) : PrefX where
  pg := fld d 0 1
  base := fld t 0 6
  sz := fld t 6 2
  ix := fld t 14 1
  body := fld t 15 17

/-- Fields of AtO, from D and the tail. -/
def AtO.parse (d t : Nat) : AtO where
  d := fld d 0 6
  base := fld t 0 6
  src := fld t 6 6
  sz := fld t 12 2
  sc := fld t 14 3
  gm := fld t 17 2
  acq := fld t 23 1
  rel := fld t 24 1

/-- Fields of CaspO, from D and the tail. -/
def CaspO.parse (d t : Nat) : CaspO where
  d := fld d 0 6
  base := fld t 0 6
  src := fld t 6 6
  sc := fld t 14 3
  gm := fld t 17 2
  acq := fld t 23 1
  rel := fld t 24 1

/-- Fields of SbindO, from D and the tail. -/
def SbindO.parse (d t : Nat) : SbindO where
  u := fld d 0 2
  a := fld t 0 6
  kind := fld t 6 2
  dir := fld t 8 1
  esz := fld t 9 2
  dims := fld t 12 2

/-- Fields of SdimR, from D and the tail. -/
def SdimR.parse (d t : Nat) : SdimR where
  u := fld d 0 2
  a := fld t 0 6
  b := fld t 6 6
  k := fld t 12 2

/-- Fields of SdimW, from D and the tail. -/
def SdimW.parse (d t : Nat) : SdimW where
  u := fld d 0 2
  k := fld t 18 2
  cnt := fld t 24 16
  stride := fld t 40 24

/-- Fields of SidxR, from D and the tail. -/
def SidxR.parse (d t : Nat) : SidxR where
  u := fld d 0 2
  a := fld t 0 6
  ish := fld t 6 3
  isz := fld t 9 1

/-- Fields of SidxW, from D and the tail. -/
def SidxW.parse (d t : Nat) : SidxW where
  u := fld d 0 2
  a := fld t 0 6
  ish := fld t 6 3
  isz := fld t 9 1
  imm := fld t 24 40

/-- Fields of SdirO, from D and the tail. -/
def SdirO.parse (d t : Nat) : SdirO where
  u := fld d 0 2
  dir := fld t 0 1
  rpt := fld t 6 2

/-- Fields of Units, from D and the tail. -/
def Units.parse (d _ : Nat) : Units where
  m := fld d 0 3

/-- Fields of UnitG, from D and the tail. -/
def UnitG.parse (d t : Nat) : UnitG where
  u := fld d 0 2
  a := fld t 0 6

/-- Fields of UnitM, from D and the tail. -/
def UnitM.parse (d t : Nat) : UnitM where
  u := fld d 0 2
  base := fld t 0 6
  off := fld t 9 7

/-- Fields of UnitX, from D and the tail. -/
def UnitX.parse (d t : Nat) : UnitX where
  u := fld d 0 2
  base := fld t 0 6
  ix := fld t 14 1
  body := fld t 15 17

/-- Fields of SetO, from D and the tail. -/
def SetO.parse (d t : Nat) : SetO where
  u := fld d 0 2
  la := fld t 0 2
  lb := fld t 6 2
  cnt := fld t 12 1

/-- Fields of ScoordO, from D and the tail. -/
def ScoordO.parse (d t : Nat) : ScoordO where
  u := fld d 0 2
  a := fld t 0 6
  b := fld t 6 6
  cs := fld t 12 2
  dir := fld t 14 1

/-- Fields of FP3, from D and the tail. -/
def FP3.parse (d t : Nat) : FP3 where
  d := fld d 0 6
  a := fld t 0 6
  b := fld t 6 6
  pr := fld t 12 2

/-- Fields of FP3R, from D and the tail. -/
def FP3R.parse (d t : Nat) : FP3R where
  d := fld d 0 6
  a := fld t 0 6
  b := fld t 6 6
  h := fld t 18 2
  pr := fld t 24 2
  rnd := fld t 28 3

/-- Fields of FP3H, from D and the tail. -/
def FP3H.parse (d t : Nat) : FP3H where
  d := fld d 0 6
  a := fld t 0 6
  b := fld t 6 6
  h := fld t 18 2
  pr := fld t 24 2

/-- Fields of FP4R, from D and the tail. -/
def FP4R.parse (d t : Nat) : FP4R where
  d := fld d 0 6
  a := fld t 0 6
  b := fld t 6 6
  c := fld t 12 6
  h := fld t 18 3
  pr := fld t 24 2
  rnd := fld t 28 3

/-- Fields of FP2, from D and the tail. -/
def FP2.parse (d t : Nat) : FP2 where
  d := fld d 0 6
  a := fld t 0 6
  pr := fld t 12 2

/-- Fields of FP2H, from D and the tail. -/
def FP2H.parse (d t : Nat) : FP2H where
  d := fld d 0 6
  a := fld t 0 6
  h := fld t 18 1
  pr := fld t 24 2

/-- Fields of FS2, from D and the tail. -/
def FS2.parse (d t : Nat) : FS2 where
  d := fld d 0 6
  a := fld t 0 6
  pr := fld t 12 2

/-- Fields of FS2H, from D and the tail. -/
def FS2H.parse (d t : Nat) : FS2H where
  d := fld d 0 6
  a := fld t 0 6
  h := fld t 18 1
  pr := fld t 24 2

/-- Fields of FC3, from D and the tail. -/
def FC3.parse (d t : Nat) : FC3 where
  d := fld d 0 6
  a := fld t 0 6
  b := fld t 6 6
  pr := fld t 12 2

/-- Fields of FC3H, from D and the tail. -/
def FC3H.parse (d t : Nat) : FC3H where
  d := fld d 0 6
  a := fld t 0 6
  b := fld t 6 6
  h := fld t 18 2
  pr := fld t 24 2

/-- Fields of FC2, from D and the tail. -/
def FC2.parse (d t : Nat) : FC2 where
  d := fld d 0 6
  a := fld t 0 6
  pr := fld t 12 2

/-- Fields of CvtR, from D and the tail. -/
def CvtR.parse (d t : Nat) : CvtR where
  d := fld d 0 6
  a := fld t 0 6
  sf := fld t 12 2
  df := fld t 14 2

/-- Fields of CvtX, from D and the tail. -/
def CvtX.parse (d t : Nat) : CvtX where
  d := fld d 0 6
  a := fld t 0 6
  h := fld t 18 1
  sf := fld t 24 2
  df := fld t 26 2
  rnd := fld t 28 3

/-- Fields of CviR, from D and the tail. -/
def CviR.parse (d t : Nat) : CviR where
  d := fld d 0 6
  a := fld t 0 6
  sf := fld t 12 2
  un := fld t 14 1

/-- Fields of CviX, from D and the tail. -/
def CviX.parse (d t : Nat) : CviX where
  d := fld d 0 6
  a := fld t 0 6
  h := fld t 18 1
  sf := fld t 24 2
  un := fld t 26 1
  rnd := fld t 28 3

/-- Fields of IcvR, from D and the tail. -/
def IcvR.parse (d t : Nat) : IcvR where
  d := fld d 0 6
  a := fld t 0 6
  df := fld t 12 2
  un := fld t 14 1

/-- Fields of IcvX, from D and the tail. -/
def IcvX.parse (d t : Nat) : IcvX where
  d := fld d 0 6
  a := fld t 0 6
  h := fld t 18 1
  df := fld t 24 2
  un := fld t 26 1
  rnd := fld t 28 3

/-- Fields of GF, from D and the tail. -/
def GF.parse (d t : Nat) : GF where
  d := fld d 0 6
  a := fld t 0 6

/-- Fields of FG, from D and the tail. -/
def FG.parse (d t : Nat) : FG where
  d := fld d 0 6
  a := fld t 0 6

/-- Fields of F4H, from D and the tail. -/
def F4H.parse (d t : Nat) : F4H where
  d := fld d 0 6
  a := fld t 0 6
  b := fld t 6 6
  c := fld t 12 6
  h := fld t 18 3

/-- Fields of PE3, from D and the tail. -/
def PE3.parse (d t : Nat) : PE3 where
  d := fld d 0 6
  a := fld t 0 6
  b := fld t 6 6
  e := fld t 12 2

/-- Fields of PE3H, from D and the tail. -/
def PE3H.parse (d t : Nat) : PE3H where
  d := fld d 0 6
  a := fld t 0 6
  b := fld t 6 6
  h := fld t 18 2
  e := fld t 24 2

/-- Fields of PE4H, from D and the tail. -/
def PE4H.parse (d t : Nat) : PE4H where
  d := fld d 0 6
  a := fld t 0 6
  b := fld t 6 6
  c := fld t 12 6
  h := fld t 18 3
  e := fld t 24 2

/-- Fields of PBc, from D and the tail. -/
def PBc.parse (d t : Nat) : PBc where
  d := fld d 0 6
  a := fld t 0 6
  lane := fld t 6 4
  e := fld t 12 2

/-- Fields of PBcH, from D and the tail. -/
def PBcH.parse (d t : Nat) : PBcH where
  d := fld d 0 6
  a := fld t 0 6
  lane := fld t 6 4
  h := fld t 18 1
  e := fld t 24 2

/-- Fields of PW3, from D and the tail. -/
def PW3.parse (d t : Nat) : PW3 where
  d := fld d 0 6
  a := fld t 0 6
  b := fld t 6 6
  e := fld t 12 2
  wf := fld t 14 2

/-- Fields of PW3H, from D and the tail. -/
def PW3H.parse (d t : Nat) : PW3H where
  d := fld d 0 6
  a := fld t 0 6
  b := fld t 6 6
  h := fld t 18 2
  e := fld t 24 2
  wf := fld t 26 2
  part := fld t 28 4

/-- Fields of PW4H, from D and the tail. -/
def PW4H.parse (d t : Nat) : PW4H where
  d := fld d 0 6
  a := fld t 0 6
  b := fld t 6 6
  c := fld t 12 6
  h := fld t 18 3
  e := fld t 24 2
  wf := fld t 26 2
  part := fld t 28 4

/-- Fields of PW2, from D and the tail. -/
def PW2.parse (d t : Nat) : PW2 where
  d := fld d 0 6
  a := fld t 0 6
  e := fld t 12 2
  wf := fld t 14 2

/-- Fields of PW2H, from D and the tail. -/
def PW2H.parse (d t : Nat) : PW2H where
  d := fld d 0 6
  a := fld t 0 6
  h := fld t 18 1
  e := fld t 24 2
  wf := fld t 26 2
  part := fld t 28 4

/-- Fields of PWcH, from D and the tail. -/
def PWcH.parse (d t : Nat) : PWcH where
  d := fld d 0 6
  a := fld t 0 6
  c := fld t 12 6
  ha := fld t 18 1
  hc := fld t 20 1
  e := fld t 24 2
  wf := fld t 26 2
  part := fld t 28 4

/-- Fields of F3, from D and the tail. -/
def F3.parse (d t : Nat) : F3 where
  d := fld d 0 6
  a := fld t 0 6
  b := fld t 6 6

/-- Fields of F3H, from D and the tail. -/
def F3H.parse (d t : Nat) : F3H where
  d := fld d 0 6
  a := fld t 0 6
  b := fld t 6 6
  h := fld t 18 2

/-- Fields of F2, from D and the tail. -/
def F2.parse (d t : Nat) : F2 where
  d := fld d 0 6
  a := fld t 0 6

/-- Fields of F2H, from D and the tail. -/
def F2H.parse (d t : Nat) : F2H where
  d := fld d 0 6
  a := fld t 0 6
  h := fld t 18 1

/-- Fields of SendO, from D and the tail. -/
def SendO.parse (d t : Nat) : SendO where
  d := fld d 0 6
  a := fld t 0 6
  cls := fld t 6 2
  nm1 := fld t 8 2
  sc := fld t 24 3
  gm := fld t 27 2

/-- Fields of SendnO, from D and the tail. -/
def SendnO.parse (d t : Nat) : SendnO where
  d := fld d 0 6
  cls := fld t 18 2
  nm1 := fld t 20 2
  dx := fld t 24 10
  dy := fld t 34 10
  sc := fld t 44 3
  gm := fld t 47 2

/-- Fields of RecvR, from D and the tail. -/
def RecvR.parse (d t : Nat) : RecvR where
  d := fld d 0 6
  a := fld t 0 6
  cls := fld t 6 2
  sc := fld t 12 3
  gm := fld t 15 1

/-- Fields of RecvX, from D and the tail. -/
def RecvX.parse (d t : Nat) : RecvX where
  d := fld d 0 6
  a := fld t 0 6
  cls := fld t 6 2
  sc := fld t 24 3
  gm := fld t 27 2

/-- Fields of GCls, from D and the tail. -/
def GCls.parse (d t : Nat) : GCls where
  d := fld d 0 6
  cls := fld t 6 2

/-- Fields of QendO, from D and the tail. -/
def QendO.parse (d t : Nat) : QendO where
  port := fld d 0 2
  a := fld t 0 6

/-- Fields of QctlO, from D and the tail. -/
def QctlO.parse (d t : Nat) : QctlO where
  d := fld d 0 6
  a := fld t 0 6
  pc := fld t 6 2

/-- Fields of XferO, from D and the tail. -/
def XferO.parse (d t : Nat) : XferO where
  d := fld d 0 6
  a := fld t 0 6
  b := fld t 6 6
  ctr := fld t 18 4
  rmod := fld t 24 8

/-- Fields of XferI, from D and the tail. -/
def XferI.parse (d t : Nat) : XferI where
  d := fld d 0 6
  a := fld t 0 6
  b := fld t 6 6
  c := fld t 12 6
  ctr := fld t 18 4
  esz := fld t 22 2
  rmod := fld t 24 8
  ish := fld t 32 3
  isz := fld t 35 1

/-- Fields of CtrO, from D and the tail. -/
def CtrO.parse (d t : Nat) : CtrO where
  d := fld d 0 6
  a := fld t 0 6
  ctr := fld t 6 4

/-- Fields of MbindO, from D and the tail. -/
def MbindO.parse (d t : Nat) : MbindO where
  mi := fld d 0 2
  a := fld t 0 6
  b := fld t 6 6
  slot := fld t 18 2
  trig := fld t 20 2
  cls := fld t 24 2

/-- Fields of GbarA, from D and the tail. -/
def GbarA.parse (d _ : Nat) : GbarA where
  gm := fld d 0 2

/-- Fields of GbarG, from D and the tail. -/
def GbarG.parse (d t : Nat) : GbarG where
  gm := fld d 0 2
  a := fld t 0 6

/-- Fields of GredR, from D and the tail. -/
def GredR.parse (d t : Nat) : GredR where
  d := fld d 0 6
  a := fld t 0 6
  gm := fld t 6 2
  file := fld t 8 1
  ty := fld t 15 1

/-- Fields of GredX, from D and the tail. -/
def GredX.parse (d t : Nat) : GredX where
  d := fld d 0 6
  a := fld t 0 6
  gm := fld t 6 2
  file := fld t 8 1
  ty := fld t 27 1

/-- Fields of GcastR, from D and the tail. -/
def GcastR.parse (d t : Nat) : GcastR where
  d := fld d 0 6
  a := fld t 0 6
  gm := fld t 6 2
  file := fld t 8 1

/-- Fields of GcastX, from D and the tail. -/
def GcastX.parse (d t : Nat) : GcastX where
  d := fld d 0 6
  a := fld t 0 6
  c := fld t 12 6
  gm := fld t 6 2
  file := fld t 8 1

/-- Fields of GsumO, from D and the tail. -/
def GsumO.parse (d t : Nat) : GsumO where
  d := fld d 0 6
  a := fld t 0 6
  gm := fld t 6 2

/-- Fields of SemR, from D and the tail. -/
def SemR.parse (d t : Nat) : SemR where
  d := fld d 0 6
  a := fld t 0 6
  b := fld t 6 6
  sc := fld t 12 3
  gm := fld t 15 1

/-- Fields of SemX, from D and the tail. -/
def SemX.parse (d t : Nat) : SemX where
  d := fld d 0 6
  a := fld t 0 6
  b := fld t 6 6
  sc := fld t 24 3
  gm := fld t 27 2

/-- Fields of EvcN, from D and the tail. -/
def EvcN.parse (d t : Nat) : EvcN where
  d := fld d 0 6
  n := fld t 6 4

/-- Fields of EvcA, from D and the tail. -/
def EvcA.parse (d t : Nat) : EvcA where
  d := fld d 0 6
  a := fld t 0 6
  n := fld t 6 4

/-- Fields of VbM, from D and the tail. -/
def VbM.parse (d t : Nat) : VbM where
  cs := fld d 0 2
  base := fld t 0 6
  off := fld t 9 7

/-- Fields of VbX, from D and the tail. -/
def VbX.parse (d t : Nat) : VbX where
  cs := fld d 0 2
  base := fld t 0 6
  ix := fld t 14 1
  body := fld t 15 17

/-- Fields of VbOff, from D and the tail. -/
def VbOff.parse (d _ : Nat) : VbOff where
  cs := fld d 0 2

/-- Fields of CldO, from D and the tail. -/
def CldO.parse (d t : Nat) : CldO where
  d := fld d 0 6
  a := fld t 0 6
  cs := fld t 6 2
  sx := fld t 24 1

/-- Fields of CvO, from D and the tail. -/
def CvO.parse (d t : Nat) : CvO where
  d := fld d 0 6
  a := fld t 0 6
  cs := fld t 6 2

/-- Fields of CamoO, from D and the tail. -/
def CamoO.parse (d t : Nat) : CamoO where
  d := fld d 0 6
  a := fld t 0 6
  c := fld t 12 6
  cs := fld t 6 2
  acq := fld t 28 1
  rel := fld t 29 1

/-- Fields of CinvO, from D and the tail. -/
def CinvO.parse (d t : Nat) : CinvO where
  sc := fld d 0 3
  gm := fld d 3 2
  a := fld t 0 6
  cs := fld t 6 2

/-- Fields of CinvA, from D and the tail. -/
def CinvA.parse (d t : Nat) : CinvA where
  sc := fld d 0 3
  gm := fld d 3 2
  cs := fld t 6 2

/-- Fields of CfreeO, from D and the tail. -/
def CfreeO.parse (d t : Nat) : CfreeO where
  d := fld d 0 6
  cs := fld t 6 2

/-- Fields of CnodeO, from D and the tail. -/
def CnodeO.parse (d t : Nat) : CnodeO where
  d := fld d 0 6
  a := fld t 0 6
  cs := fld t 6 2
  lvl := fld t 12 2

/-- Fields of CsrR, from D and the tail. -/
def CsrR.parse (d t : Nat) : CsrR where
  d := fld d 0 6
  num := fld t 6 10

/-- Fields of CsrA, from D and the tail. -/
def CsrA.parse (d t : Nat) : CsrA where
  d := fld d 0 6
  a := fld t 0 6
  num := fld t 6 10

/-- Fields of TlbP, from D and the tail. -/
def TlbP.parse (d t : Nat) : TlbP where
  sc := fld d 0 3
  gm := fld d 3 2
  a := fld t 0 6
  ctx := fld t 8 4

/-- Fields of TlbC, from D and the tail. -/
def TlbC.parse (d t : Nat) : TlbC where
  sc := fld d 0 3
  gm := fld d 3 2
  ctx := fld t 8 4

/-- Fields of TlbA, from D and the tail. -/
def TlbA.parse (d _ : Nat) : TlbA where
  sc := fld d 0 3
  gm := fld d 3 2

/-- Fields of TlbR, from D and the tail. -/
def TlbR.parse (d t : Nat) : TlbR where
  sc := fld d 0 3
  gm := fld d 3 2
  a := fld t 0 6
  c := fld t 12 6
  ctx := fld t 8 4

/-- The instructions of opcodes 0xB0 and above once more. Lean's run-time system numbers no more than 245 constructors of a type that
carry fields; the decoder reads these as a type of their own so that a step of the machine can be run, and `UpperInstr.instr` says
which instruction each is. -/
inductive UpperInstr where
  | send (o : SendO)
  | sendn (o : SendnO)
  | recv (o : RecvR)
  | recvL2 (o : RecvX)
  | recvTry (o : RecvR)
  | recvTryL2 (o : RecvX)
  | mstat (o : GCls)
  | mstatL2 (o : GCls)
  | mstatClr (o : GCls)
  | mstatClrL2 (o : GCls)
  | qend (o : QendO)
  | qctlSt (o : QctlO)
  | qctlStL2 (o : QctlO)
  | qctlClr (o : QctlO)
  | qctlClrL2 (o : QctlO)
  | qctlBind (o : QctlO)
  | qctlBindL2 (o : QctlO)
  | qret
  | get (o : XferO)
  | put (o : XferO)
  | getx (o : XferI)
  | putx (o : XferI)
  | cwait (o : CtrO)
  | cwaitL2 (o : CtrO)
  | cop (o : CtrO)
  | copL2 (o : CtrO)
  | mbind (o : MbindO)
  | gbarArr (o : GbarA)
  | gbarWait (o : GbarG)
  | gbar (o : GbarG)
  | gredSum (o : GredR)
  | gredSumL2 (o : GredX)
  | gredMin (o : GredR)
  | gredMinL2 (o : GredX)
  | gredMax (o : GredR)
  | gredMaxL2 (o : GredX)
  | gredAnd (o : GredR)
  | gredAndL2 (o : GredX)
  | gredOr (o : GredR)
  | gredOrL2 (o : GredX)
  | gcast (o : GcastR)
  | gcastL2 (o : GcastX)
  | gsum (o : GsumO)
  | semsig (o : SemR)
  | semsigL2 (o : SemX)
  | semwait (o : SemR)
  | semwaitL2 (o : SemX)
  | semread (o : GG)
  | semreadL2 (o : GG)
  | estatSt (o : GG)
  | estatStL2 (o : GG)
  | estatRec (o : GG)
  | estatRecL2 (o : GG)
  | estatRes (o : GG)
  | estatResL2 (o : GG)
  | estatDel (o : GG)
  | estatDelL2 (o : GG)
  | estatWin (o : GD)
  | estatWinL2 (o : GD)
  | estatQ (o : GD)
  | estatQL2 (o : GD)
  | evcRd (o : EvcN)
  | evcRdL2 (o : EvcN)
  | evcSet (o : EvcA)
  | evcSetL2 (o : EvcA)
  | evcRc (o : EvcN)
  | evcRcL2 (o : EvcN)
  | vbind (o : VbM)
  | vbindL2 (o : VbX)
  | vbindOff (o : VbOff)
  | cld (o : CldO)
  | cst (o : CvO)
  | cprobe (o : CvO)
  | camoadd (o : CamoO)
  | camoand (o : CamoO)
  | camoor (o : CamoO)
  | camoxor (o : CamoO)
  | camomin (o : CamoO)
  | camomax (o : CamoO)
  | camominz (o : CamoO)
  | camomaxz (o : CamoO)
  | camoswap (o : CamoO)
  | ccas (o : CamoO)
  | cinv (o : CinvO)
  | cinvAll (o : CinvA)
  | callocGet (o : CvO)
  | callocCut (o : CvO)
  | callocFree (o : CfreeO)
  | callocNode (o : CnodeO)
  | cnbr (o : CvO)
  | csrr (o : CsrR)
  | csrw (o : CsrA)
  | csrs (o : CsrA)
  | csrc (o : CsrA)
  | trap (o : K16)
  | tret
  | brk
  | brkL1 (o : K16)
  | tlbiPage (o : TlbP)
  | tlbiCtx (o : TlbC)
  | tlbiAll (o : TlbA)
  | tlbiRange (o : TlbR)
  | ifence
  | wfi
  | ctxswReq
  | ctxswFlush
  | syscHold (o : GG)
  | syscRel (o : GD)
  | syscWake (o : GG)
  | syscStop (o : GG)
deriving DecidableEq, Repr

/-- The instruction. -/
noncomputable def UpperInstr.instr : UpperInstr → Instr
  | .send o => .send o
  | .sendn o => .sendn o
  | .recv o => .recv o
  | .recvL2 o => .recvL2 o
  | .recvTry o => .recvTry o
  | .recvTryL2 o => .recvTryL2 o
  | .mstat o => .mstat o
  | .mstatL2 o => .mstatL2 o
  | .mstatClr o => .mstatClr o
  | .mstatClrL2 o => .mstatClrL2 o
  | .qend o => .qend o
  | .qctlSt o => .qctlSt o
  | .qctlStL2 o => .qctlStL2 o
  | .qctlClr o => .qctlClr o
  | .qctlClrL2 o => .qctlClrL2 o
  | .qctlBind o => .qctlBind o
  | .qctlBindL2 o => .qctlBindL2 o
  | .qret => .qret
  | .get o => .get o
  | .put o => .put o
  | .getx o => .getx o
  | .putx o => .putx o
  | .cwait o => .cwait o
  | .cwaitL2 o => .cwaitL2 o
  | .cop o => .cop o
  | .copL2 o => .copL2 o
  | .mbind o => .mbind o
  | .gbarArr o => .gbarArr o
  | .gbarWait o => .gbarWait o
  | .gbar o => .gbar o
  | .gredSum o => .gredSum o
  | .gredSumL2 o => .gredSumL2 o
  | .gredMin o => .gredMin o
  | .gredMinL2 o => .gredMinL2 o
  | .gredMax o => .gredMax o
  | .gredMaxL2 o => .gredMaxL2 o
  | .gredAnd o => .gredAnd o
  | .gredAndL2 o => .gredAndL2 o
  | .gredOr o => .gredOr o
  | .gredOrL2 o => .gredOrL2 o
  | .gcast o => .gcast o
  | .gcastL2 o => .gcastL2 o
  | .gsum o => .gsum o
  | .semsig o => .semsig o
  | .semsigL2 o => .semsigL2 o
  | .semwait o => .semwait o
  | .semwaitL2 o => .semwaitL2 o
  | .semread o => .semread o
  | .semreadL2 o => .semreadL2 o
  | .estatSt o => .estatSt o
  | .estatStL2 o => .estatStL2 o
  | .estatRec o => .estatRec o
  | .estatRecL2 o => .estatRecL2 o
  | .estatRes o => .estatRes o
  | .estatResL2 o => .estatResL2 o
  | .estatDel o => .estatDel o
  | .estatDelL2 o => .estatDelL2 o
  | .estatWin o => .estatWin o
  | .estatWinL2 o => .estatWinL2 o
  | .estatQ o => .estatQ o
  | .estatQL2 o => .estatQL2 o
  | .evcRd o => .evcRd o
  | .evcRdL2 o => .evcRdL2 o
  | .evcSet o => .evcSet o
  | .evcSetL2 o => .evcSetL2 o
  | .evcRc o => .evcRc o
  | .evcRcL2 o => .evcRcL2 o
  | .vbind o => .vbind o
  | .vbindL2 o => .vbindL2 o
  | .vbindOff o => .vbindOff o
  | .cld o => .cld o
  | .cst o => .cst o
  | .cprobe o => .cprobe o
  | .camoadd o => .camoadd o
  | .camoand o => .camoand o
  | .camoor o => .camoor o
  | .camoxor o => .camoxor o
  | .camomin o => .camomin o
  | .camomax o => .camomax o
  | .camominz o => .camominz o
  | .camomaxz o => .camomaxz o
  | .camoswap o => .camoswap o
  | .ccas o => .ccas o
  | .cinv o => .cinv o
  | .cinvAll o => .cinvAll o
  | .callocGet o => .callocGet o
  | .callocCut o => .callocCut o
  | .callocFree o => .callocFree o
  | .callocNode o => .callocNode o
  | .cnbr o => .cnbr o
  | .csrr o => .csrr o
  | .csrw o => .csrw o
  | .csrs o => .csrs o
  | .csrc o => .csrc o
  | .trap o => .trap o
  | .tret => .tret
  | .brk => .brk
  | .brkL1 o => .brkL1 o
  | .tlbiPage o => .tlbiPage o
  | .tlbiCtx o => .tlbiCtx o
  | .tlbiAll o => .tlbiAll o
  | .tlbiRange o => .tlbiRange o
  | .ifence => .ifence
  | .wfi => .wfi
  | .ctxswReq => .ctxswReq
  | .ctxswFlush => .ctxswFlush
  | .syscHold o => .syscHold o
  | .syscRel o => .syscRel o
  | .syscWake o => .syscWake o
  | .syscStop o => .syscStop o

/-- What the decoder reads. -/
inductive Parsed where
  | lower (i : Instr)
  | upper (u : UpperInstr)
deriving DecidableEq, Repr

/-- The instruction that was read. -/
noncomputable def Parsed.instr : Parsed → Instr
  | .lower i => i
  | .upper u => u.instr

/-- Opcodes 0x00 to 0x0F of Table 2.7, with the lengths of Table 2.8. -/
def decode0x (op l d t : Nat) : Except DecodeError Instr :=
  if op = 0x00 then
    if l = 0 then row0 (zero d 0 6) .nop
    else
    if l = 1 then row K16.regsOk K16.fieldsOk (zero d 0 6) (K16.parse d t) .nopL1
    else
    if l = 2 then row K32.regsOk K32.fieldsOk (zero d 0 6) (K32.parse d t) .nopL2
    else
    if l = 3 then row K64.regsOk K64.fieldsOk (zero d 0 6) (K64.parse d t) .nopL3
    else
    .error .length
  else
  if op = 0x01 then
    if l = 1 then row GGG.regsOk GGG.fieldsOk (zero t 12 4) (GGG.parse d t) .add
    else
    .error .length
  else
  if op = 0x02 then
    if l = 1 then row GGG.regsOk GGG.fieldsOk (zero t 12 4) (GGG.parse d t) .sub
    else
    .error .length
  else
  if op = 0x03 then
    if l = 1 then row GGG.regsOk GGG.fieldsOk (zero t 12 4) (GGG.parse d t) .and
    else
    .error .length
  else
  if op = 0x04 then
    if l = 1 then row GGG.regsOk GGG.fieldsOk (zero t 12 4) (GGG.parse d t) .or
    else
    .error .length
  else
  if op = 0x05 then
    if l = 1 then row GGG.regsOk GGG.fieldsOk (zero t 12 4) (GGG.parse d t) .xor
    else
    .error .length
  else
  if op = 0x06 then
    if l = 1 then row GGG.regsOk GGG.fieldsOk (zero t 12 4) (GGG.parse d t) .andn
    else
    .error .length
  else
  if op = 0x07 then
    if l = 1 then row GGG.regsOk GGG.fieldsOk (zero t 12 4) (GGG.parse d t) .shl
    else
    .error .length
  else
  if op = 0x08 then
    if l = 1 then row GGG.regsOk GGG.fieldsOk (zero t 12 4) (GGG.parse d t) .shr
    else
    .error .length
  else
  if op = 0x09 then
    if l = 1 then row GGG.regsOk GGG.fieldsOk (zero t 12 4) (GGG.parse d t) .sra
    else
    .error .length
  else
  if op = 0x0A then
    if l = 1 then row GGG.regsOk GGG.fieldsOk (zero t 12 4) (GGG.parse d t) .rotl
    else
    .error .length
  else
  if op = 0x0B then
    if l = 1 then row GGG.regsOk GGG.fieldsOk (zero t 12 4) (GGG.parse d t) .mul
    else
    .error .length
  else
  if op = 0x0C then
    if l = 1 then row GGG.regsOk GGG.fieldsOk (zero t 12 4) (GGG.parse d t) .mulh
    else
    .error .length
  else
  if op = 0x0D then
    if l = 1 then row GGG.regsOk GGG.fieldsOk (zero t 12 4) (GGG.parse d t) .mulhz
    else
    .error .length
  else
  if op = 0x0E then
    if l = 1 then row GGG.regsOk GGG.fieldsOk (zero t 12 4) (GGG.parse d t) .div
    else
    .error .length
  else
  if op = 0x0F then
    if l = 1 then row GGG.regsOk GGG.fieldsOk (zero t 12 4) (GGG.parse d t) .divz
    else
    .error .length
  else
  .error .opcode

/-- Opcodes 0x10 to 0x1F of Table 2.7, with the lengths of Table 2.8. -/
def decode1x (op l d t : Nat) : Except DecodeError Instr :=
  if op = 0x10 then
    if l = 1 then row GGG.regsOk GGG.fieldsOk (zero t 12 4) (GGG.parse d t) .rem
    else
    .error .length
  else
  if op = 0x11 then
    if l = 1 then row GGG.regsOk GGG.fieldsOk (zero t 12 4) (GGG.parse d t) .remz
    else
    .error .length
  else
  if op = 0x12 then
    if l = 1 then row GGG.regsOk GGG.fieldsOk (zero t 12 4) (GGG.parse d t) .min
    else
    .error .length
  else
  if op = 0x13 then
    if l = 1 then row GGG.regsOk GGG.fieldsOk (zero t 12 4) (GGG.parse d t) .max
    else
    .error .length
  else
  if op = 0x14 then
    if l = 1 then row GGG.regsOk GGG.fieldsOk (zero t 12 4) (GGG.parse d t) .minz
    else
    .error .length
  else
  if op = 0x15 then
    if l = 1 then row GGG.regsOk GGG.fieldsOk (zero t 12 4) (GGG.parse d t) .maxz
    else
    .error .length
  else
  if op = 0x16 then
    if l = 1 then row GGG.regsOk GGG.fieldsOk (zero t 12 4) (GGG.parse d t) .slt
    else
    .error .length
  else
  if op = 0x17 then
    if l = 1 then row GGG.regsOk GGG.fieldsOk (zero t 12 4) (GGG.parse d t) .sltz
    else
    .error .length
  else
  if op = 0x18 then
    if l = 1 then row GGG.regsOk GGG.fieldsOk (zero t 12 4) (GGG.parse d t) .seq
    else
    .error .length
  else
  if op = 0x19 then
    if l = 2 then row GGGG.regsOk GGGG.fieldsOk (zero t 18 14) (GGGG.parse d t) .sel
    else
    .error .length
  else
  if op = 0x1A then
    if l = 1 then row GGI10.regsOk GGI10.fieldsOk (true) (GGI10.parse d t) .addi
    else
    if l = 2 then row GGI26.regsOk GGI26.fieldsOk (true) (GGI26.parse d t) .addiL2
    else
    .error .length
  else
  if op = 0x1B then
    if l = 1 then row GGI10.regsOk GGI10.fieldsOk (true) (GGI10.parse d t) .andi
    else
    if l = 2 then row GGI26.regsOk GGI26.fieldsOk (true) (GGI26.parse d t) .andiL2
    else
    .error .length
  else
  if op = 0x1C then
    if l = 1 then row GGI10.regsOk GGI10.fieldsOk (true) (GGI10.parse d t) .ori
    else
    if l = 2 then row GGI26.regsOk GGI26.fieldsOk (true) (GGI26.parse d t) .oriL2
    else
    .error .length
  else
  if op = 0x1D then
    if l = 1 then row GGI10.regsOk GGI10.fieldsOk (true) (GGI10.parse d t) .xori
    else
    if l = 2 then row GGI26.regsOk GGI26.fieldsOk (true) (GGI26.parse d t) .xoriL2
    else
    .error .length
  else
  if op = 0x1E then
    if l = 1 then if bits t 12 2 = 0 then row ShiftI.regsOk ShiftI.fieldsOk (zero t 14 2) (ShiftI.parse d t) .shli
      else if bits t 12 2 = 1 then row ShiftI.regsOk ShiftI.fieldsOk (zero t 14 2) (ShiftI.parse d t) .shri
      else if bits t 12 2 = 2 then row ShiftI.regsOk ShiftI.fieldsOk (zero t 14 2) (ShiftI.parse d t) .srai
      else if bits t 12 2 = 3 then row ShiftI.regsOk ShiftI.fieldsOk (zero t 14 2) (ShiftI.parse d t) .rotli
      else reservedSub (gOk (fld d 0 6) && gOk (fld t 0 6))
    else
    .error .length
  else
  if op = 0x1F then
    if l = 1 then row GK16.regsOk GK16.fieldsOk (true) (GK16.parse d t) .li
    else
    if l = 2 then row GK32.regsOk GK32.fieldsOk (true) (GK32.parse d t) .liL2
    else
    if l = 3 then row GK64.regsOk GK64.fieldsOk (true) (GK64.parse d t) .liL3
    else
    .error .length
  else
  .error .opcode

/-- Opcodes 0x20 to 0x2F of Table 2.7, with the lengths of Table 2.8. -/
def decode2x (op l d t : Nat) : Except DecodeError Instr :=
  if op = 0x20 then
    if l = 2 then row GK32.regsOk GK32.fieldsOk (true) (GK32.parse d t) .addpc
    else
    .error .length
  else
  if op = 0x21 then
    if l = 1 then row LeaM.regsOk LeaM.fieldsOk (zero t 8 1) (LeaM.parse d t) .lea
    else
    if l = 2 then row LeaX.regsOk LeaX.fieldsOk (zero t 6 8) (LeaX.parse d t) .leaL2
    else
    .error .length
  else
  if op = 0x22 then
    if l = 1 then row GG.regsOk GG.fieldsOk (zero t 6 10) (GG.parse d t) .clz
    else
    .error .length
  else
  if op = 0x23 then
    if l = 1 then row GG.regsOk GG.fieldsOk (zero t 6 10) (GG.parse d t) .ctz
    else
    .error .length
  else
  if op = 0x24 then
    if l = 1 then row GG.regsOk GG.fieldsOk (zero t 6 10) (GG.parse d t) .popc
    else
    .error .length
  else
  if op = 0x25 then
    if l = 2 then row BitF.regsOk BitF.fieldsOk (zero t 18 14) (BitF.parse d t) .bext
    else
    .error .length
  else
  if op = 0x26 then
    if l = 2 then row BitF.regsOk BitF.fieldsOk (zero t 18 14) (BitF.parse d t) .bins
    else
    .error .length
  else
  if op = 0x27 then
    if l = 1 then if bits t 12 4 = 0 then row GG.regsOk GG.fieldsOk (zero t 6 6) (GG.parse d t) .sextB
      else if bits t 12 4 = 1 then row GG.regsOk GG.fieldsOk (zero t 6 6) (GG.parse d t) .sextH
      else if bits t 12 4 = 2 then row GG.regsOk GG.fieldsOk (zero t 6 6) (GG.parse d t) .sextW
      else reservedSub (gOk (fld d 0 6) && gOk (fld t 0 6))
    else
    .error .length
  else
  if op = 0x28 then
    if l = 1 then row GG.regsOk GG.fieldsOk (zero t 6 10) (GG.parse d t) .bswap
    else
    .error .length
  else
  if op = 0x29 then
    if l = 1 then if bits t 6 2 = 0 then row GGI8.regsOk GGI8.fieldsOk (true) (GGI8.parse d t) .slti
      else if bits t 6 2 = 1 then row GGI8.regsOk GGI8.fieldsOk (true) (GGI8.parse d t) .sltzi
      else if bits t 6 2 = 2 then row GGI8.regsOk GGI8.fieldsOk (true) (GGI8.parse d t) .seqi
      else reservedSub (gOk (fld d 0 6) && gOk (fld t 0 6))
    else
    if l = 2 then if bits t 6 2 = 0 then row GGI24.regsOk GGI24.fieldsOk (true) (GGI24.parse d t) .sltiL2
      else if bits t 6 2 = 1 then row GGI24.regsOk GGI24.fieldsOk (true) (GGI24.parse d t) .sltziL2
      else if bits t 6 2 = 2 then row GGI24.regsOk GGI24.fieldsOk (true) (GGI24.parse d t) .seqiL2
      else reservedSub (gOk (fld d 0 6) && gOk (fld t 0 6))
    else
    .error .length
  else
  .error .opcode

/-- Opcodes 0x30 to 0x3F of Table 2.7, with the lengths of Table 2.8. -/
def decode3x (op l d t : Nat) : Except DecodeError Instr :=
  if op = 0x30 then
    if l = 2 then if bits d 0 6 = 0 then row BrB.regsOk BrB.fieldsOk (true) (BrB.parse d t) .beq
      else if bits d 0 6 = 1 then row BrB.regsOk BrB.fieldsOk (true) (BrB.parse d t) .bne
      else if bits d 0 6 = 2 then row BrB.regsOk BrB.fieldsOk (true) (BrB.parse d t) .blt
      else if bits d 0 6 = 3 then row BrB.regsOk BrB.fieldsOk (true) (BrB.parse d t) .bge
      else if bits d 0 6 = 4 then row BrB.regsOk BrB.fieldsOk (true) (BrB.parse d t) .bltz
      else if bits d 0 6 = 5 then row BrB.regsOk BrB.fieldsOk (true) (BrB.parse d t) .bgez
      else reservedSub (gOk (fld t 0 6) && gOk (fld t 6 6))
    else
    .error .length
  else
  if op = 0x31 then
    if l = 2 then if bits d 0 6 = 0 then row BrZ.regsOk BrZ.fieldsOk (zero t 6 6) (BrZ.parse d t) .bzEqz
      else if bits d 0 6 = 1 then row BrZ.regsOk BrZ.fieldsOk (zero t 6 6) (BrZ.parse d t) .bzNez
      else if bits d 0 6 = 2 then row BrZ.regsOk BrZ.fieldsOk (zero t 6 6) (BrZ.parse d t) .bzLtz
      else if bits d 0 6 = 3 then row BrZ.regsOk BrZ.fieldsOk (zero t 6 6) (BrZ.parse d t) .bzGez
      else if bits d 0 6 = 4 then row BrZ.regsOk BrZ.fieldsOk (zero t 6 6) (BrZ.parse d t) .bzGtz
      else if bits d 0 6 = 5 then row BrZ.regsOk BrZ.fieldsOk (zero t 6 6) (BrZ.parse d t) .bzLez
      else reservedSub (gOk (fld t 0 6))
    else
    .error .length
  else
  if op = 0x32 then
    if l = 2 then row Jmp.regsOk Jmp.fieldsOk (zero d 0 6 && zero t 20 12) (Jmp.parse d t) .jmp
    else
    .error .length
  else
  if op = 0x33 then
    if l = 2 then row GJmp.regsOk GJmp.fieldsOk (zero t 20 12) (GJmp.parse d t) .call
    else
    .error .length
  else
  if op = 0x34 then
    if l = 0 then row GD.regsOk GD.fieldsOk (true) (GD.parse d t) .jr
    else
    .error .length
  else
  if op = 0x35 then
    if l = 2 then row GJmp.regsOk GJmp.fieldsOk (zero t 20 12) (GJmp.parse d t) .decb
    else
    .error .length
  else
  if op = 0x36 then
    if l = 2 then row RepO.regsOk RepO.fieldsOk (zero d 4 2 && zero t 9 3 && zero t 16 8 && zero t 28 4) (RepO.parse d t) .rep
    else
    .error .length
  else
  if op = 0x37 then
    if l = 1 then row K16.regsOk K16.fieldsOk (zero d 0 6) (K16.parse d t) .pause
    else
    .error .length
  else
  if op = 0x38 then
    if l = 0 then row0 (zero d 0 6) .yield
    else
    .error .length
  else
  if op = 0x39 then
    if l = 0 then row0 (zero d 0 6) .exit
    else
    .error .length
  else
  .error .opcode

/-- Opcodes 0x40 to 0x4F of Table 2.7, with the lengths of Table 2.8. -/
def decode4x (op l d t : Nat) : Except DecodeError Instr :=
  if op = 0x40 then
    if l = 1 then row LdM.regsOk LdM.fieldsOk (true) (LdM.parse d t) .ld
    else
    if l = 2 then row LdX.regsOk LdX.fieldsOk (zero t 9 5) (LdX.parse d t) .ldL2
    else
    .error .length
  else
  if op = 0x41 then
    if l = 2 then row LdaX.regsOk LdaX.fieldsOk (true) (LdaX.parse d t) .lda
    else
    .error .length
  else
  if op = 0x42 then
    if l = 2 then row FeX.regsOk FeX.fieldsOk (zero t 8 1 && bits t 6 2 == 3) (FeX.parse d t) .ldfe
    else
    .error .length
  else
  if op = 0x43 then
    if l = 1 then row LdffM.regsOk LdffM.fieldsOk (zero t 8 1 && bits t 6 2 == 3) (LdffM.parse d t) .ldff
    else
    if l = 2 then row LdffX.regsOk LdffX.fieldsOk (zero t 8 1 && bits t 6 2 == 3) (LdffX.parse d t) .ldffL2
    else
    .error .length
  else
  if op = 0x44 then
    if l = 1 then row StM.regsOk StM.fieldsOk (zero t 8 1) (StM.parse d t) .st
    else
    if l = 2 then row StX.regsOk StX.fieldsOk (zero t 8 6) (StX.parse d t) .stL2
    else
    .error .length
  else
  if op = 0x45 then
    if l = 2 then row StlX.regsOk StlX.fieldsOk (zero t 8 1) (StlX.parse d t) .stl
    else
    .error .length
  else
  if op = 0x46 then
    if l = 2 then row FeX.regsOk FeX.fieldsOk (zero t 8 1 && bits t 6 2 == 3) (FeX.parse d t) .stef
    else
    .error .length
  else
  if op = 0x47 then
    if l = 1 then row FesetM.regsOk FesetM.fieldsOk (zero d 1 5 && zero t 8 1 && bits t 6 2 == 3) (FesetM.parse d t) .feset
    else
    if l = 2 then row FesetX.regsOk FesetX.fieldsOk (zero d 1 5 && zero t 8 6 && bits t 6 2 == 3) (FesetX.parse d t) .fesetL2
    else
    .error .length
  else
  if op = 0x48 then
    if l = 1 then row FMemM.regsOk FMemM.fieldsOk (zero t 8 1) (FMemM.parse d t) .fld
    else
    if l = 2 then row FMemX.regsOk FMemX.fieldsOk (zero t 8 6) (FMemX.parse d t) .fldL2
    else
    .error .length
  else
  if op = 0x49 then
    if l = 1 then row FMemM.regsOk FMemM.fieldsOk (zero t 8 1) (FMemM.parse d t) .fst
    else
    if l = 2 then row FMemX.regsOk FMemX.fieldsOk (zero t 8 6) (FMemX.parse d t) .fstL2
    else
    .error .length
  else
  if op = 0x4A then
    if l = 1 then row PairM.regsOk PairM.fieldsOk (zero t 8 1 && bits t 6 2 == 3) (PairM.parse d t) .ldp
    else
    if l = 2 then row PairX.regsOk PairX.fieldsOk (zero t 8 6 && bits t 6 2 == 3) (PairX.parse d t) .ldpL2
    else
    .error .length
  else
  if op = 0x4B then
    if l = 1 then row PairM.regsOk PairM.fieldsOk (zero t 8 1 && bits t 6 2 == 3) (PairM.parse d t) .stp
    else
    if l = 2 then row PairX.regsOk PairX.fieldsOk (zero t 8 6 && bits t 6 2 == 3) (PairX.parse d t) .stpL2
    else
    .error .length
  else
  if op = 0x4C then
    if l = 0 then row FenceO.regsOk FenceO.fieldsOk (zero d 5 1) (FenceO.parse d t) .fence
    else
    .error .length
  else
  if op = 0x4D then
    if l = 2 then row WaitaX.regsOk WaitaX.fieldsOk (true) (WaitaX.parse d t) .waita
    else
    .error .length
  else
  if op = 0x4E then
    if l = 1 then row PrefM.regsOk PrefM.fieldsOk (zero d 1 5 && zero t 8 1) (PrefM.parse d t) .pref
    else
    if l = 2 then row PrefX.regsOk PrefX.fieldsOk (zero d 1 5 && zero t 8 6) (PrefX.parse d t) .prefL2
    else
    .error .length
  else
  .error .opcode

/-- Opcodes 0x50 to 0x5F of Table 2.7, with the lengths of Table 2.8. -/
def decode5x (op l d t : Nat) : Except DecodeError Instr :=
  if op = 0x50 then
    if l = 2 then if bits t 19 4 = 0 then row AtO.regsOk AtO.fieldsOk (zero t 25 7) (AtO.parse d t) .amoadd
      else if bits t 19 4 = 1 then row AtO.regsOk AtO.fieldsOk (zero t 25 7) (AtO.parse d t) .amoand
      else if bits t 19 4 = 2 then row AtO.regsOk AtO.fieldsOk (zero t 25 7) (AtO.parse d t) .amoor
      else if bits t 19 4 = 3 then row AtO.regsOk AtO.fieldsOk (zero t 25 7) (AtO.parse d t) .amoxor
      else if bits t 19 4 = 4 then row AtO.regsOk AtO.fieldsOk (zero t 25 7) (AtO.parse d t) .amomin
      else if bits t 19 4 = 5 then row AtO.regsOk AtO.fieldsOk (zero t 25 7) (AtO.parse d t) .amomax
      else if bits t 19 4 = 6 then row AtO.regsOk AtO.fieldsOk (zero t 25 7) (AtO.parse d t) .amominz
      else if bits t 19 4 = 7 then row AtO.regsOk AtO.fieldsOk (zero t 25 7) (AtO.parse d t) .amomaxz
      else if bits t 19 4 = 8 then row AtO.regsOk AtO.fieldsOk (zero t 25 7) (AtO.parse d t) .amoswap
      else reservedSub (gOk (fld d 0 6) && gOk (fld t 0 6) && gOk (fld t 6 6))
    else
    .error .length
  else
  if op = 0x51 then
    if l = 2 then row AtO.regsOk AtO.fieldsOk (zero t 25 7 && bits t 19 4 == 0) (AtO.parse d t) .cas
    else
    .error .length
  else
  if op = 0x52 then
    if l = 2 then row AtO.regsOk AtO.fieldsOk (zero t 25 7 && bits t 19 4 == 0) (AtO.parse d t) .fadda
    else
    .error .length
  else
  if op = 0x53 then
    if l = 2 then row CaspO.regsOk CaspO.fieldsOk (zero t 25 7 && bits t 12 2 == 3 && bits t 19 4 == 0) (CaspO.parse d t) .casp
    else
    .error .length
  else
  if op = 0x58 then
    if l = 2 then row SbindO.regsOk SbindO.fieldsOk (zero d 2 4 && zero t 11 1 && zero t 14 18) (SbindO.parse d t) .sbind
    else
    .error .length
  else
  if op = 0x59 then
    if l = 2 then row SdimR.regsOk SdimR.fieldsOk (zero d 2 4 && zero t 14 18) (SdimR.parse d t) .sdim
    else
    if l = 3 then row SdimW.regsOk SdimW.fieldsOk (zero d 2 4 && zero t 0 18 && zero t 20 4) (SdimW.parse d t) .sdimL3
    else
    .error .length
  else
  if op = 0x5A then
    if l = 2 then row SidxR.regsOk SidxR.fieldsOk (zero d 2 4 && zero t 10 22) (SidxR.parse d t) .sidx
    else
    if l = 3 then row SidxW.regsOk SidxW.fieldsOk (zero d 2 4 && zero t 10 14) (SidxW.parse d t) .sidxL3
    else
    .error .length
  else
  if op = 0x5B then
    if l = 1 then row SdirO.regsOk SdirO.fieldsOk (zero d 2 4 && zero t 1 5 && zero t 8 8) (SdirO.parse d t) .sdir
    else
    .error .length
  else
  if op = 0x5C then
    if l = 0 then row Units.regsOk Units.fieldsOk (zero d 3 3) (Units.parse d t) .sgo
    else
    .error .length
  else
  if op = 0x5D then
    if l = 0 then row Units.regsOk Units.fieldsOk (zero d 3 3) (Units.parse d t) .sstop
    else
    .error .length
  else
  if op = 0x5E then
    if l = 1 then row UnitG.regsOk UnitG.fieldsOk (zero d 2 4 && zero t 6 10) (UnitG.parse d t) .sskip
    else
    .error .length
  else
  if op = 0x5F then
    if l = 1 then row UnitG.regsOk UnitG.fieldsOk (zero d 2 4 && zero t 6 10) (UnitG.parse d t) .spos
    else
    .error .length
  else
  .error .opcode

/-- Opcodes 0x60 to 0x6F of Table 2.7, with the lengths of Table 2.8. -/
def decode6x (op l d t : Nat) : Except DecodeError Instr :=
  if op = 0x60 then
    if l = 1 then row UnitM.regsOk UnitM.fieldsOk (zero d 2 4 && zero t 8 1 && bits t 6 2 == 3) (UnitM.parse d t) .ssave
    else
    if l = 2 then row UnitX.regsOk UnitX.fieldsOk (zero d 2 4 && zero t 8 6 && bits t 6 2 == 3) (UnitX.parse d t) .ssaveL2
    else
    .error .length
  else
  if op = 0x61 then
    if l = 1 then row UnitM.regsOk UnitM.fieldsOk (zero d 2 4 && zero t 8 1 && bits t 6 2 == 3) (UnitM.parse d t) .sload
    else
    if l = 2 then row UnitX.regsOk UnitX.fieldsOk (zero d 2 4 && zero t 8 6 && bits t 6 2 == 3) (UnitX.parse d t) .sloadL2
    else
    .error .length
  else
  if op = 0x62 then
    if l = 1 then row SetO.regsOk SetO.fieldsOk (zero d 2 4 && zero t 2 4 && zero t 8 4 && zero t 13 3) (SetO.parse d t) .sisect
    else
    .error .length
  else
  if op = 0x63 then
    if l = 1 then row SetO.regsOk SetO.fieldsOk (zero d 2 4 && zero t 2 4 && zero t 8 4 && zero t 13 3) (SetO.parse d t) .sunion
    else
    .error .length
  else
  if op = 0x64 then
    if l = 1 then if bits t 6 2 = 0 then row UnitG.regsOk UnitG.fieldsOk (zero d 2 4 && zero t 8 8) (UnitG.parse d t) .sstatPos
      else if bits t 6 2 = 1 then row UnitG.regsOk UnitG.fieldsOk (zero d 2 4 && zero t 8 8) (UnitG.parse d t) .sstatSt
      else reservedSub (gOk (fld t 0 6))
    else
    .error .length
  else
  if op = 0x65 then
    if l = 2 then row ScoordO.regsOk ScoordO.fieldsOk (zero d 2 4 && zero t 15 17) (ScoordO.parse d t) .scoord
    else
    .error .length
  else
  .error .opcode

/-- Opcodes 0x70 to 0x7F of Table 2.7, with the lengths of Table 2.8. -/
def decode7x (op l d t : Nat) : Except DecodeError Instr :=
  if op = 0x70 then
    if l = 1 then row FP3.regsOk FP3.fieldsOk (zero t 14 2) (FP3.parse d t) .fadd
    else
    if l = 2 then row FP3R.regsOk FP3R.fieldsOk (zero t 12 6 && zero t 20 4 && zero t 26 2 && zero t 31 1) (FP3R.parse d t) .faddL2
    else
    .error .length
  else
  if op = 0x71 then
    if l = 1 then row FP3.regsOk FP3.fieldsOk (zero t 14 2) (FP3.parse d t) .fsub
    else
    if l = 2 then row FP3R.regsOk FP3R.fieldsOk (zero t 12 6 && zero t 20 4 && zero t 26 2 && zero t 31 1) (FP3R.parse d t) .fsubL2
    else
    .error .length
  else
  if op = 0x72 then
    if l = 1 then row FP3.regsOk FP3.fieldsOk (zero t 14 2) (FP3.parse d t) .fmul
    else
    if l = 2 then row FP3R.regsOk FP3R.fieldsOk (zero t 12 6 && zero t 20 4 && zero t 26 2 && zero t 31 1) (FP3R.parse d t) .fmulL2
    else
    .error .length
  else
  if op = 0x73 then
    if l = 2 then if bits t 21 3 = 0 then row FP4R.regsOk FP4R.fieldsOk (zero t 26 2 && zero t 31 1) (FP4R.parse d t) .fma
      else if bits t 21 3 = 1 then row FP4R.regsOk FP4R.fieldsOk (zero t 26 2 && zero t 31 1) (FP4R.parse d t) .fms
      else if bits t 21 3 = 2 then row FP4R.regsOk FP4R.fieldsOk (zero t 26 2 && zero t 31 1) (FP4R.parse d t) .fnma
      else if bits t 21 3 = 3 then row FP4R.regsOk FP4R.fieldsOk (zero t 26 2 && zero t 31 1) (FP4R.parse d t) .fnms
      else reservedSub (fOk (fld d 0 6) && fOk (fld t 0 6) && fOk (fld t 6 6) && fOk (fld t 12 6))
    else
    .error .length
  else
  if op = 0x74 then
    if l = 1 then row FP3.regsOk FP3.fieldsOk (zero t 14 2) (FP3.parse d t) .fmin
    else
    if l = 2 then row FP3H.regsOk FP3H.fieldsOk (zero t 12 6 && zero t 20 4 && zero t 26 6) (FP3H.parse d t) .fminL2
    else
    .error .length
  else
  if op = 0x75 then
    if l = 1 then row FP3.regsOk FP3.fieldsOk (zero t 14 2) (FP3.parse d t) .fmax
    else
    if l = 2 then row FP3H.regsOk FP3H.fieldsOk (zero t 12 6 && zero t 20 4 && zero t 26 6) (FP3H.parse d t) .fmaxL2
    else
    .error .length
  else
  if op = 0x76 then
    if l = 1 then row FP2.regsOk FP2.fieldsOk (zero t 6 6 && zero t 14 2) (FP2.parse d t) .fneg
    else
    if l = 2 then if bits t 21 3 = 0 then row FP2H.regsOk FP2H.fieldsOk (zero t 6 12 && zero t 19 2 && zero t 26 6) (FP2H.parse d t) .fnegL2
      else if bits t 21 3 = 1 then row FP2H.regsOk FP2H.fieldsOk (zero t 6 12 && zero t 19 2 && zero t 26 6) (FP2H.parse d t) .fabs
      else if bits t 21 3 = 2 then row FP3H.regsOk FP3H.fieldsOk (zero t 12 6 && zero t 20 1 && zero t 26 6) (FP3H.parse d t) .fcpsgn
      else reservedSub (fOk (fld d 0 6) && fOk (fld t 0 6))
    else
    .error .length
  else
  if op = 0x77 then
    if l = 1 then if bits t 14 2 = 0 then row FC3.regsOk FC3.fieldsOk (true) (FC3.parse d t) .feq
      else if bits t 14 2 = 1 then row FC3.regsOk FC3.fieldsOk (true) (FC3.parse d t) .flt
      else if bits t 14 2 = 2 then row FC3.regsOk FC3.fieldsOk (true) (FC3.parse d t) .fle
      else if bits t 14 2 = 3 then row FC3.regsOk FC3.fieldsOk (true) (FC3.parse d t) .funo
      else reservedSub (gOk (fld d 0 6) && fOk (fld t 0 6) && fOk (fld t 6 6))
    else
    if l = 2 then if bits t 26 2 = 0 then row FC3H.regsOk FC3H.fieldsOk (zero t 12 6 && zero t 20 4 && zero t 28 4) (FC3H.parse d t) .feqL2
      else if bits t 26 2 = 1 then row FC3H.regsOk FC3H.fieldsOk (zero t 12 6 && zero t 20 4 && zero t 28 4) (FC3H.parse d t) .fltL2
      else if bits t 26 2 = 2 then row FC3H.regsOk FC3H.fieldsOk (zero t 12 6 && zero t 20 4 && zero t 28 4) (FC3H.parse d t) .fleL2
      else if bits t 26 2 = 3 then row FC3H.regsOk FC3H.fieldsOk (zero t 12 6 && zero t 20 4 && zero t 28 4) (FC3H.parse d t) .funoL2
      else reservedSub (gOk (fld d 0 6) && fOk (fld t 0 6) && fOk (fld t 6 6))
    else
    .error .length
  else
  if op = 0x78 then
    if l = 1 then row FC2.regsOk FC2.fieldsOk (zero t 6 6 && zero t 14 2) (FC2.parse d t) .fclass
    else
    .error .length
  else
  if op = 0x79 then
    if l = 1 then row CvtR.regsOk CvtR.fieldsOk (zero t 6 6) (CvtR.parse d t) .fcvt
    else
    if l = 2 then row CvtX.regsOk CvtX.fieldsOk (zero t 6 12 && zero t 19 5 && zero t 31 1) (CvtX.parse d t) .fcvtL2
    else
    .error .length
  else
  if op = 0x7A then
    if l = 1 then row CviR.regsOk CviR.fieldsOk (zero t 6 6 && zero t 15 1) (CviR.parse d t) .fcvti
    else
    if l = 2 then row CviX.regsOk CviX.fieldsOk (zero t 6 12 && zero t 19 5 && zero t 27 1 && zero t 31 1) (CviX.parse d t) .fcvtiL2
    else
    .error .length
  else
  if op = 0x7B then
    if l = 1 then row IcvR.regsOk IcvR.fieldsOk (zero t 6 6 && zero t 15 1) (IcvR.parse d t) .icvtf
    else
    if l = 2 then row IcvX.regsOk IcvX.fieldsOk (zero t 6 12 && zero t 19 5 && zero t 27 1 && zero t 31 1) (IcvX.parse d t) .icvtfL2
    else
    .error .length
  else
  if op = 0x7C then
    if l = 1 then row GF.regsOk GF.fieldsOk (zero t 6 10) (GF.parse d t) .fmvg
    else
    .error .length
  else
  if op = 0x7D then
    if l = 1 then row FG.regsOk FG.fieldsOk (zero t 6 10) (FG.parse d t) .gmvf
    else
    .error .length
  else
  if op = 0x7E then
    if l = 1 then row FK16.regsOk FK16.fieldsOk (true) (FK16.parse d t) .fli
    else
    if l = 2 then row FK32.regsOk FK32.fieldsOk (true) (FK32.parse d t) .fliL2
    else
    if l = 3 then row FK64.regsOk FK64.fieldsOk (true) (FK64.parse d t) .fliL3
    else
    .error .length
  else
  if op = 0x7F then
    if l = 2 then row F4H.regsOk F4H.fieldsOk (zero t 21 11) (F4H.parse d t) .fsel
    else
    .error .length
  else
  .error .opcode

/-- Opcodes 0x80 to 0x8F of Table 2.7, with the lengths of Table 2.8. -/
def decode8x (op l d t : Nat) : Except DecodeError Instr :=
  if op = 0x80 then
    if l = 1 then row PE3.regsOk PE3.fieldsOk (zero t 14 2) (PE3.parse d t) .padd
    else
    if l = 2 then row PE3H.regsOk PE3H.fieldsOk (zero t 12 6 && zero t 20 4 && zero t 26 6) (PE3H.parse d t) .paddL2
    else
    .error .length
  else
  if op = 0x81 then
    if l = 1 then row PE3.regsOk PE3.fieldsOk (zero t 14 2) (PE3.parse d t) .psub
    else
    if l = 2 then row PE3H.regsOk PE3H.fieldsOk (zero t 12 6 && zero t 20 4 && zero t 26 6) (PE3H.parse d t) .psubL2
    else
    .error .length
  else
  if op = 0x82 then
    if l = 1 then row PE3.regsOk PE3.fieldsOk (zero t 14 2) (PE3.parse d t) .pmul
    else
    if l = 2 then row PE3H.regsOk PE3H.fieldsOk (zero t 12 6 && zero t 20 4 && zero t 26 6) (PE3H.parse d t) .pmulL2
    else
    .error .length
  else
  if op = 0x83 then
    if l = 2 then row PE4H.regsOk PE4H.fieldsOk (zero t 21 3 && zero t 26 6) (PE4H.parse d t) .pfma
    else
    .error .length
  else
  if op = 0x84 then
    if l = 1 then row PE3.regsOk PE3.fieldsOk (zero t 14 2) (PE3.parse d t) .pmin
    else
    if l = 2 then row PE3H.regsOk PE3H.fieldsOk (zero t 12 6 && zero t 20 4 && zero t 26 6) (PE3H.parse d t) .pminL2
    else
    .error .length
  else
  if op = 0x85 then
    if l = 1 then row PE3.regsOk PE3.fieldsOk (zero t 14 2) (PE3.parse d t) .pmax
    else
    if l = 2 then row PE3H.regsOk PE3H.fieldsOk (zero t 12 6 && zero t 20 4 && zero t 26 6) (PE3H.parse d t) .pmaxL2
    else
    .error .length
  else
  if op = 0x86 then
    if l = 2 then row PE4H.regsOk PE4H.fieldsOk (zero t 21 3 && zero t 26 6) (PE4H.parse d t) .pdot
    else
    .error .length
  else
  if op = 0x87 then
    if l = 1 then row PE3.regsOk PE3.fieldsOk (zero t 14 2) (PE3.parse d t) .psum
    else
    if l = 2 then row PE3H.regsOk PE3H.fieldsOk (zero t 12 6 && zero t 20 4 && zero t 26 6) (PE3H.parse d t) .psumL2
    else
    .error .length
  else
  if op = 0x88 then
    if l = 1 then row PE3.regsOk PE3.fieldsOk (zero t 14 2) (PE3.parse d t) .pshuf
    else
    if l = 2 then row PE3H.regsOk PE3H.fieldsOk (zero t 12 6 && zero t 20 4 && zero t 26 6) (PE3H.parse d t) .pshufL2
    else
    .error .length
  else
  if op = 0x89 then
    if l = 1 then row PBc.regsOk PBc.fieldsOk (zero t 10 2 && zero t 14 2) (PBc.parse d t) .pbcast
    else
    if l = 2 then row PBcH.regsOk PBcH.fieldsOk (zero t 10 8 && zero t 19 5 && zero t 26 6) (PBcH.parse d t) .pbcastL2
    else
    .error .length
  else
  if op = 0x8A then
    if l = 1 then row PW3.regsOk PW3.fieldsOk (true) (PW3.parse d t) .ppack
    else
    if l = 2 then row PW3H.regsOk PW3H.fieldsOk (zero t 12 6 && zero t 20 4) (PW3H.parse d t) .ppackL2
    else
    .error .length
  else
  if op = 0x8B then
    if l = 1 then row PW2.regsOk PW2.fieldsOk (zero t 6 6) (PW2.parse d t) .punpack
    else
    if l = 2 then row PW2H.regsOk PW2H.fieldsOk (zero t 6 12 && zero t 19 5) (PW2H.parse d t) .punpackL2
    else
    .error .length
  else
  if op = 0x8C then
    if l = 1 then row PW3.regsOk PW3.fieldsOk (true) (PW3.parse d t) .pq
    else
    if l = 2 then row PW4H.regsOk PW4H.fieldsOk (zero t 21 3) (PW4H.parse d t) .pqL2
    else
    .error .length
  else
  if op = 0x8D then
    if l = 1 then row PW2.regsOk PW2.fieldsOk (zero t 6 6) (PW2.parse d t) .pdq
    else
    if l = 2 then row PWcH.regsOk PWcH.fieldsOk (zero t 6 6 && zero t 19 1 && zero t 21 3) (PWcH.parse d t) .pdqL2
    else
    .error .length
  else
  if op = 0x8E then
    if l = 1 then if bits t 14 2 = 0 then row PE3.regsOk PE3.fieldsOk (true) (PE3.parse d t) .peq
      else if bits t 14 2 = 1 then row PE3.regsOk PE3.fieldsOk (true) (PE3.parse d t) .plt
      else if bits t 14 2 = 2 then row PE3.regsOk PE3.fieldsOk (true) (PE3.parse d t) .ple
      else if bits t 14 2 = 3 then row PE3.regsOk PE3.fieldsOk (true) (PE3.parse d t) .puno
      else reservedSub (fOk (fld d 0 6) && fOk (fld t 0 6) && fOk (fld t 6 6))
    else
    if l = 2 then if bits t 26 2 = 0 then row PE3H.regsOk PE3H.fieldsOk (zero t 12 6 && zero t 20 4 && zero t 28 4) (PE3H.parse d t) .peqL2
      else if bits t 26 2 = 1 then row PE3H.regsOk PE3H.fieldsOk (zero t 12 6 && zero t 20 4 && zero t 28 4) (PE3H.parse d t) .pltL2
      else if bits t 26 2 = 2 then row PE3H.regsOk PE3H.fieldsOk (zero t 12 6 && zero t 20 4 && zero t 28 4) (PE3H.parse d t) .pleL2
      else if bits t 26 2 = 3 then row PE3H.regsOk PE3H.fieldsOk (zero t 12 6 && zero t 20 4 && zero t 28 4) (PE3H.parse d t) .punoL2
      else reservedSub (fOk (fld d 0 6) && fOk (fld t 0 6) && fOk (fld t 6 6))
    else
    .error .length
  else
  if op = 0x8F then
    if l = 1 then if bits t 12 2 = 0 then row F3.regsOk F3.fieldsOk (zero t 14 2) (F3.parse d t) .pand
      else if bits t 12 2 = 1 then row F3.regsOk F3.fieldsOk (zero t 14 2) (F3.parse d t) .por
      else if bits t 12 2 = 2 then row F3.regsOk F3.fieldsOk (zero t 14 2) (F3.parse d t) .pxor
      else if bits t 12 2 = 3 then row F3.regsOk F3.fieldsOk (zero t 14 2) (F3.parse d t) .pandn
      else reservedSub (fOk (fld d 0 6) && fOk (fld t 0 6) && fOk (fld t 6 6))
    else
    if l = 2 then if bits t 24 2 = 0 then row F3H.regsOk F3H.fieldsOk (zero t 12 6 && zero t 20 4 && zero t 26 6) (F3H.parse d t) .pandL2
      else if bits t 24 2 = 1 then row F3H.regsOk F3H.fieldsOk (zero t 12 6 && zero t 20 4 && zero t 26 6) (F3H.parse d t) .porL2
      else if bits t 24 2 = 2 then row F3H.regsOk F3H.fieldsOk (zero t 12 6 && zero t 20 4 && zero t 26 6) (F3H.parse d t) .pxorL2
      else if bits t 24 2 = 3 then row F3H.regsOk F3H.fieldsOk (zero t 12 6 && zero t 20 4 && zero t 26 6) (F3H.parse d t) .pandnL2
      else reservedSub (fOk (fld d 0 6) && fOk (fld t 0 6) && fOk (fld t 6 6))
    else
    .error .length
  else
  .error .opcode

/-- Opcodes 0x90 to 0x9F of Table 2.7, with the lengths of Table 2.8. -/
def decode9x (op l d t : Nat) : Except DecodeError Instr :=
  if op = 0x90 then
    if l = 1 then row F2.regsOk F2.fieldsOk (zero t 6 10) (F2.parse d t) .pmov
    else
    if l = 2 then row F2H.regsOk F2H.fieldsOk (zero t 6 12 && zero t 19 13) (F2H.parse d t) .pmovL2
    else
    .error .length
  else
  if op = 0x91 then
    if l = 2 then row K32.regsOk K32.fieldsOk (zero d 0 6) (K32.parse d t) .fmt
    else
    .error .length
  else
  .error .opcode

/-- Opcodes 0xA0 to 0xAF of Table 2.7, with the lengths of Table 2.8. -/
def decodeAx (op l d t : Nat) : Except DecodeError Instr :=
  if op = 0xA0 then
    if l = 1 then row FP2.regsOk FP2.fieldsOk (zero t 6 6 && zero t 14 2) (FP2.parse d t) .frcp
    else
    if l = 2 then row FP2H.regsOk FP2H.fieldsOk (zero t 6 12 && zero t 19 5 && zero t 26 6) (FP2H.parse d t) .frcpL2
    else
    .error .length
  else
  if op = 0xA1 then
    if l = 1 then row FP2.regsOk FP2.fieldsOk (zero t 6 6 && zero t 14 2) (FP2.parse d t) .frsqrt
    else
    if l = 2 then row FP2H.regsOk FP2H.fieldsOk (zero t 6 12 && zero t 19 5 && zero t 26 6) (FP2H.parse d t) .frsqrtL2
    else
    .error .length
  else
  if op = 0xA2 then
    if l = 1 then row FP2.regsOk FP2.fieldsOk (zero t 6 6 && zero t 14 2) (FP2.parse d t) .fsqrt
    else
    if l = 2 then row FP2H.regsOk FP2H.fieldsOk (zero t 6 12 && zero t 19 5 && zero t 26 6) (FP2H.parse d t) .fsqrtL2
    else
    .error .length
  else
  if op = 0xA3 then
    if l = 1 then row FP3.regsOk FP3.fieldsOk (zero t 14 2) (FP3.parse d t) .fdiv
    else
    if l = 2 then row FP3H.regsOk FP3H.fieldsOk (zero t 12 6 && zero t 20 4 && zero t 26 6) (FP3H.parse d t) .fdivL2
    else
    .error .length
  else
  if op = 0xA4 then
    if l = 1 then row FS2.regsOk FS2.fieldsOk (zero t 6 6 && zero t 14 2) (FS2.parse d t) .fexp2
    else
    if l = 2 then row FS2H.regsOk FS2H.fieldsOk (zero t 6 12 && zero t 19 5 && zero t 26 6) (FS2H.parse d t) .fexp2L2
    else
    .error .length
  else
  if op = 0xA5 then
    if l = 1 then row FS2.regsOk FS2.fieldsOk (zero t 6 6 && zero t 14 2) (FS2.parse d t) .flog2
    else
    if l = 2 then row FS2H.regsOk FS2H.fieldsOk (zero t 6 12 && zero t 19 5 && zero t 26 6) (FS2H.parse d t) .flog2L2
    else
    .error .length
  else
  if op = 0xA6 then
    if l = 1 then row FS2.regsOk FS2.fieldsOk (zero t 6 6 && zero t 14 2) (FS2.parse d t) .ftanh
    else
    if l = 2 then row FS2H.regsOk FS2H.fieldsOk (zero t 6 12 && zero t 19 5 && zero t 26 6) (FS2H.parse d t) .ftanhL2
    else
    .error .length
  else
  if op = 0xA7 then
    if l = 1 then row FS2.regsOk FS2.fieldsOk (zero t 6 6 && zero t 14 2) (FS2.parse d t) .fsigm
    else
    if l = 2 then row FS2H.regsOk FS2H.fieldsOk (zero t 6 12 && zero t 19 5 && zero t 26 6) (FS2H.parse d t) .fsigmL2
    else
    .error .length
  else
  .error .opcode

/-- Opcodes 0xB0 to 0xBF of Table 2.7, with the lengths of Table 2.8. -/
def decodeBx (op l d t : Nat) : Except DecodeError UpperInstr :=
  if op = 0xB0 then
    if l = 2 then row SendO.regsOk SendO.fieldsOk (zero t 10 14 && zero t 29 3) (SendO.parse d t) .send
    else
    if l = 3 then row SendnO.regsOk SendnO.fieldsOk (zero t 0 18 && zero t 22 2 && zero t 49 15) (SendnO.parse d t) .sendn
    else
    .error .length
  else
  if op = 0xB1 then
    if l = 1 then if bits t 8 1 = 0 then row RecvR.regsOk RecvR.fieldsOk (zero t 9 3) (RecvR.parse d t) .recv
      else if bits t 8 1 = 1 then row RecvR.regsOk RecvR.fieldsOk (zero t 9 3) (RecvR.parse d t) .recvTry
      else reservedSub (gOk (fld d 0 6) && gOk (fld t 0 6))
    else
    if l = 2 then if bits t 8 1 = 0 then row RecvX.regsOk RecvX.fieldsOk (zero t 9 15 && zero t 29 3) (RecvX.parse d t) .recvL2
      else if bits t 8 1 = 1 then row RecvX.regsOk RecvX.fieldsOk (zero t 9 15 && zero t 29 3) (RecvX.parse d t) .recvTryL2
      else reservedSub (gOk (fld d 0 6) && gOk (fld t 0 6))
    else
    .error .length
  else
  if op = 0xB2 then
    if l = 1 then if bits t 12 1 = 0 then row GCls.regsOk GCls.fieldsOk (zero t 0 6 && zero t 8 4 && zero t 13 3) (GCls.parse d t) .mstat
      else if bits t 12 1 = 1 then row GCls.regsOk GCls.fieldsOk (zero t 0 6 && zero t 8 4 && zero t 13 3) (GCls.parse d t) .mstatClr
      else reservedSub (gOk (fld d 0 6))
    else
    if l = 2 then if bits t 24 1 = 0 then row GCls.regsOk GCls.fieldsOk (zero t 0 6 && zero t 8 16 && zero t 25 7) (GCls.parse d t) .mstatL2
      else if bits t 24 1 = 1 then row GCls.regsOk GCls.fieldsOk (zero t 0 6 && zero t 8 16 && zero t 25 7) (GCls.parse d t) .mstatClrL2
      else reservedSub (gOk (fld d 0 6))
    else
    .error .length
  else
  if op = 0xB3 then
    if l = 1 then if 52 ≤ d then .error .register else row QendO.regsOk QendO.fieldsOk (zero t 6 10 && bits d 2 4 == 12) (QendO.parse d t) .qend
    else
    .error .length
  else
  if op = 0xB4 then
    if l = 1 then if bits t 8 3 = 0 then row QctlO.regsOk QctlO.fieldsOk (zero t 11 5) (QctlO.parse d t) .qctlSt
      else if bits t 8 3 = 1 then row QctlO.regsOk QctlO.fieldsOk (zero t 11 5) (QctlO.parse d t) .qctlClr
      else if bits t 8 3 = 2 then row QctlO.regsOk QctlO.fieldsOk (zero t 11 5) (QctlO.parse d t) .qctlBind
      else reservedSub (gOk (fld d 0 6) && gOk (fld t 0 6))
    else
    if l = 2 then if bits t 8 3 = 0 then row QctlO.regsOk QctlO.fieldsOk (zero t 11 21) (QctlO.parse d t) .qctlStL2
      else if bits t 8 3 = 1 then row QctlO.regsOk QctlO.fieldsOk (zero t 11 21) (QctlO.parse d t) .qctlClrL2
      else if bits t 8 3 = 2 then row QctlO.regsOk QctlO.fieldsOk (zero t 11 21) (QctlO.parse d t) .qctlBindL2
      else reservedSub (gOk (fld d 0 6) && gOk (fld t 0 6))
    else
    .error .length
  else
  if op = 0xB5 then
    if l = 0 then row0 (zero d 0 6) .qret
    else
    .error .length
  else
  if op = 0xB6 then
    if l = 3 then row XferO.regsOk XferO.fieldsOk (zero t 12 6 && zero t 22 2 && zero t 32 32) (XferO.parse d t) .get
    else
    .error .length
  else
  if op = 0xB7 then
    if l = 3 then row XferO.regsOk XferO.fieldsOk (zero t 12 6 && zero t 22 2 && zero t 32 32) (XferO.parse d t) .put
    else
    .error .length
  else
  if op = 0xB8 then
    if l = 3 then row XferI.regsOk XferI.fieldsOk (zero t 36 28) (XferI.parse d t) .getx
    else
    .error .length
  else
  if op = 0xB9 then
    if l = 3 then row XferI.regsOk XferI.fieldsOk (zero t 36 28) (XferI.parse d t) .putx
    else
    .error .length
  else
  if op = 0xBA then
    if l = 1 then row CtrO.regsOk CtrO.fieldsOk (zero t 10 6) (CtrO.parse d t) .cwait
    else
    if l = 2 then row CtrO.regsOk CtrO.fieldsOk (zero t 10 22) (CtrO.parse d t) .cwaitL2
    else
    .error .length
  else
  if op = 0xBB then
    if l = 1 then row CtrO.regsOk CtrO.fieldsOk (zero t 10 6) (CtrO.parse d t) .cop
    else
    if l = 2 then row CtrO.regsOk CtrO.fieldsOk (zero t 10 22) (CtrO.parse d t) .copL2
    else
    .error .length
  else
  if op = 0xBC then
    if l = 3 then row MbindO.regsOk MbindO.fieldsOk (zero d 2 4 && zero t 12 6 && zero t 22 2 && zero t 26 38) (MbindO.parse d t) .mbind
    else
    .error .length
  else
  .error .opcode

/-- Opcodes 0xC0 to 0xCF of Table 2.7, with the lengths of Table 2.8. -/
def decodeCx (op l d t : Nat) : Except DecodeError UpperInstr :=
  if op = 0xC0 then
    if l = 1 then if bits d 2 2 = 0 then row GbarA.regsOk GbarA.fieldsOk (zero d 4 2 && zero t 0 16) (GbarA.parse d t) .gbarArr
      else if bits d 2 2 = 1 then row GbarG.regsOk GbarG.fieldsOk (zero d 4 2 && zero t 6 10) (GbarG.parse d t) .gbarWait
      else if bits d 2 2 = 2 then row GbarG.regsOk GbarG.fieldsOk (zero d 4 2 && zero t 6 10) (GbarG.parse d t) .gbar
      else reservedSub (true)
    else
    .error .length
  else
  if op = 0xC1 then
    if l = 1 then if bits t 12 3 = 0 then row GredR.regsOk GredR.fieldsOk (zero t 9 3) (GredR.parse d t) .gredSum
      else if bits t 12 3 = 1 then row GredR.regsOk GredR.fieldsOk (zero t 9 3) (GredR.parse d t) .gredMin
      else if bits t 12 3 = 2 then row GredR.regsOk GredR.fieldsOk (zero t 9 3) (GredR.parse d t) .gredMax
      else if bits t 12 3 = 3 then row GredR.regsOk GredR.fieldsOk (zero t 9 3) (GredR.parse d t) .gredAnd
      else if bits t 12 3 = 4 then row GredR.regsOk GredR.fieldsOk (zero t 9 3) (GredR.parse d t) .gredOr
      else reservedSub (GredR.regsOk (GredR.parse d t))
    else
    if l = 2 then if bits t 24 3 = 0 then row GredX.regsOk GredX.fieldsOk (zero t 9 15 && zero t 28 4) (GredX.parse d t) .gredSumL2
      else if bits t 24 3 = 1 then row GredX.regsOk GredX.fieldsOk (zero t 9 15 && zero t 28 4) (GredX.parse d t) .gredMinL2
      else if bits t 24 3 = 2 then row GredX.regsOk GredX.fieldsOk (zero t 9 15 && zero t 28 4) (GredX.parse d t) .gredMaxL2
      else if bits t 24 3 = 3 then row GredX.regsOk GredX.fieldsOk (zero t 9 15 && zero t 28 4) (GredX.parse d t) .gredAndL2
      else if bits t 24 3 = 4 then row GredX.regsOk GredX.fieldsOk (zero t 9 15 && zero t 28 4) (GredX.parse d t) .gredOrL2
      else reservedSub (GredX.regsOk (GredX.parse d t))
    else
    .error .length
  else
  if op = 0xC2 then
    if l = 1 then row GcastR.regsOk GcastR.fieldsOk (zero t 9 7) (GcastR.parse d t) .gcast
    else
    if l = 2 then row GcastX.regsOk GcastX.fieldsOk (zero t 9 3 && zero t 18 14) (GcastX.parse d t) .gcastL2
    else
    .error .length
  else
  if op = 0xC3 then
    if l = 2 then row GsumO.regsOk GsumO.fieldsOk (zero t 8 24) (GsumO.parse d t) .gsum
    else
    .error .length
  else
  if op = 0xC4 then
    if l = 1 then row SemR.regsOk SemR.fieldsOk (true) (SemR.parse d t) .semsig
    else
    if l = 2 then row SemX.regsOk SemX.fieldsOk (zero t 12 12 && zero t 29 3) (SemX.parse d t) .semsigL2
    else
    .error .length
  else
  if op = 0xC5 then
    if l = 1 then row SemR.regsOk SemR.fieldsOk (true) (SemR.parse d t) .semwait
    else
    if l = 2 then row SemX.regsOk SemX.fieldsOk (zero t 12 12 && zero t 29 3) (SemX.parse d t) .semwaitL2
    else
    .error .length
  else
  if op = 0xC6 then
    if l = 1 then row GG.regsOk GG.fieldsOk (zero t 6 10) (GG.parse d t) .semread
    else
    if l = 2 then row GG.regsOk GG.fieldsOk (zero t 6 26) (GG.parse d t) .semreadL2
    else
    .error .length
  else
  if op = 0xC7 then
    if l = 1 then if bits t 6 3 = 0 then row GG.regsOk GG.fieldsOk (zero t 9 7) (GG.parse d t) .estatSt
      else if bits t 6 3 = 1 then row GG.regsOk GG.fieldsOk (zero t 9 7) (GG.parse d t) .estatRec
      else if bits t 6 3 = 2 then row GG.regsOk GG.fieldsOk (zero t 9 7) (GG.parse d t) .estatRes
      else if bits t 6 3 = 3 then row GG.regsOk GG.fieldsOk (zero t 9 7) (GG.parse d t) .estatDel
      else if bits t 6 3 = 4 then row GD.regsOk GD.fieldsOk (zero t 0 6 && zero t 9 7) (GD.parse d t) .estatWin
      else if bits t 6 3 = 5 then row GD.regsOk GD.fieldsOk (zero t 0 6 && zero t 9 7) (GD.parse d t) .estatQ
      else reservedSub (gOk (fld d 0 6) && gOk (fld t 0 6))
    else
    if l = 2 then if bits t 6 3 = 0 then row GG.regsOk GG.fieldsOk (zero t 9 23) (GG.parse d t) .estatStL2
      else if bits t 6 3 = 1 then row GG.regsOk GG.fieldsOk (zero t 9 23) (GG.parse d t) .estatRecL2
      else if bits t 6 3 = 2 then row GG.regsOk GG.fieldsOk (zero t 9 23) (GG.parse d t) .estatResL2
      else if bits t 6 3 = 3 then row GG.regsOk GG.fieldsOk (zero t 9 23) (GG.parse d t) .estatDelL2
      else if bits t 6 3 = 4 then row GD.regsOk GD.fieldsOk (zero t 0 6 && zero t 9 23) (GD.parse d t) .estatWinL2
      else if bits t 6 3 = 5 then row GD.regsOk GD.fieldsOk (zero t 0 6 && zero t 9 23) (GD.parse d t) .estatQL2
      else reservedSub (gOk (fld d 0 6) && gOk (fld t 0 6))
    else
    .error .length
  else
  if op = 0xC8 then
    if l = 1 then if bits t 10 2 = 0 then row EvcN.regsOk EvcN.fieldsOk (zero t 0 6 && zero t 12 4) (EvcN.parse d t) .evcRd
      else if bits t 10 2 = 1 then row EvcA.regsOk EvcA.fieldsOk (zero t 12 4) (EvcA.parse d t) .evcSet
      else if bits t 10 2 = 2 then row EvcN.regsOk EvcN.fieldsOk (zero t 0 6 && zero t 12 4) (EvcN.parse d t) .evcRc
      else reservedSub (gOk (fld d 0 6) && gOk (fld t 0 6))
    else
    if l = 2 then if bits t 10 2 = 0 then row EvcN.regsOk EvcN.fieldsOk (zero t 0 6 && zero t 12 20) (EvcN.parse d t) .evcRdL2
      else if bits t 10 2 = 1 then row EvcA.regsOk EvcA.fieldsOk (zero t 12 20) (EvcA.parse d t) .evcSetL2
      else if bits t 10 2 = 2 then row EvcN.regsOk EvcN.fieldsOk (zero t 0 6 && zero t 12 20) (EvcN.parse d t) .evcRcL2
      else reservedSub (gOk (fld d 0 6) && gOk (fld t 0 6))
    else
    .error .length
  else
  .error .opcode

/-- Opcodes 0xD0 to 0xDF of Table 2.7, with the lengths of Table 2.8. A register field that a form reserves is a reserved field (log 91). -/
def decodeDx (op l d t : Nat) : Except DecodeError UpperInstr :=
  if op = 0xD0 then
    if l = 1 then if bits d 2 1 = 0 then row VbM.regsOk VbM.fieldsOk (zero d 3 3 && zero t 8 1 && bits t 6 2 == 3) (VbM.parse d t) .vbind
      else if bits d 2 1 = 1 then row VbOff.regsOk VbOff.fieldsOk (zero d 3 3 && zero t 0 16) (VbOff.parse d t) .vbindOff
      else reservedSub (true)
    else
    if l = 2 then row VbX.regsOk VbX.fieldsOk (zero d 2 4 && zero t 8 6 && bits t 6 2 == 3) (VbX.parse d t) .vbindL2
    else
    .error .length
  else
  if op = 0xD1 then
    if l = 2 then row CldO.regsOk CldO.fieldsOk (zero t 8 16 && zero t 25 7) (CldO.parse d t) .cld
    else
    .error .length
  else
  if op = 0xD2 then
    if l = 2 then row CvO.regsOk CvO.fieldsOk (zero t 8 24) (CvO.parse d t) .cst
    else
    .error .length
  else
  if op = 0xD3 then
    if l = 2 then row CvO.regsOk CvO.fieldsOk (zero t 8 24) (CvO.parse d t) .cprobe
    else
    .error .length
  else
  if op = 0xD4 then
    if l = 2 then if bits t 24 4 = 0 then row CamoO.regsOk CamoO.fieldsOk (zero t 8 4 && zero t 18 6 && zero t 30 2) (CamoO.parse d t) .camoadd
      else if bits t 24 4 = 1 then row CamoO.regsOk CamoO.fieldsOk (zero t 8 4 && zero t 18 6 && zero t 30 2) (CamoO.parse d t) .camoand
      else if bits t 24 4 = 2 then row CamoO.regsOk CamoO.fieldsOk (zero t 8 4 && zero t 18 6 && zero t 30 2) (CamoO.parse d t) .camoor
      else if bits t 24 4 = 3 then row CamoO.regsOk CamoO.fieldsOk (zero t 8 4 && zero t 18 6 && zero t 30 2) (CamoO.parse d t) .camoxor
      else if bits t 24 4 = 4 then row CamoO.regsOk CamoO.fieldsOk (zero t 8 4 && zero t 18 6 && zero t 30 2) (CamoO.parse d t) .camomin
      else if bits t 24 4 = 5 then row CamoO.regsOk CamoO.fieldsOk (zero t 8 4 && zero t 18 6 && zero t 30 2) (CamoO.parse d t) .camomax
      else if bits t 24 4 = 6 then row CamoO.regsOk CamoO.fieldsOk (zero t 8 4 && zero t 18 6 && zero t 30 2) (CamoO.parse d t) .camominz
      else if bits t 24 4 = 7 then row CamoO.regsOk CamoO.fieldsOk (zero t 8 4 && zero t 18 6 && zero t 30 2) (CamoO.parse d t) .camomaxz
      else if bits t 24 4 = 8 then row CamoO.regsOk CamoO.fieldsOk (zero t 8 4 && zero t 18 6 && zero t 30 2) (CamoO.parse d t) .camoswap
      else if bits t 24 4 = 9 then row CamoO.regsOk CamoO.fieldsOk (zero t 8 4 && zero t 18 6 && zero t 30 2) (CamoO.parse d t) .ccas
      else reservedSub (gOk (fld d 0 6) && gOk (fld t 0 6) && gOk (fld t 12 6))
    else
    .error .length
  else
  if op = 0xD5 then
    if l = 1 then if bits d 5 1 = 0 then row CinvO.regsOk CinvO.fieldsOk (zero t 8 8) (CinvO.parse d t) .cinv
      else if bits d 5 1 = 1 then row CinvA.regsOk CinvA.fieldsOk (zero t 0 6 && zero t 8 8) (CinvA.parse d t) .cinvAll
      else reservedSub (true)
    else
    .error .length
  else
  if op = 0xD6 then
    if l = 1 then if bits t 8 2 = 0 then row CvO.regsOk CvO.fieldsOk (zero t 10 6) (CvO.parse d t) .callocGet
      else if bits t 8 2 = 1 then row CvO.regsOk CvO.fieldsOk (zero t 10 6) (CvO.parse d t) .callocCut
      else if bits t 8 2 = 2 then row CfreeO.regsOk CfreeO.fieldsOk (zero t 0 6 && zero t 10 6) (CfreeO.parse d t) .callocFree
      else if bits t 8 2 = 3 then row CnodeO.regsOk CnodeO.fieldsOk (zero t 10 2 && zero t 14 2) (CnodeO.parse d t) .callocNode
      else reservedSub (gOk (fld d 0 6))
    else
    .error .length
  else
  if op = 0xD7 then
    if l = 2 then row CvO.regsOk CvO.fieldsOk (zero t 8 24) (CvO.parse d t) .cnbr
    else
    .error .length
  else
  .error .opcode

/-- Opcodes 0xE0 to 0xEF of Table 2.7, with the lengths of Table 2.8. A is reserved in `sysc.rel` (log 90). -/
def decodeEx (op l d t : Nat) : Except DecodeError UpperInstr :=
  if op = 0xE0 then
    if l = 1 then row CsrR.regsOk CsrR.fieldsOk (zero t 0 6) (CsrR.parse d t) .csrr
    else
    .error .length
  else
  if op = 0xE1 then
    if l = 1 then row CsrA.regsOk CsrA.fieldsOk (true) (CsrA.parse d t) .csrw
    else
    .error .length
  else
  if op = 0xE2 then
    if l = 1 then row CsrA.regsOk CsrA.fieldsOk (true) (CsrA.parse d t) .csrs
    else
    .error .length
  else
  if op = 0xE3 then
    if l = 1 then row CsrA.regsOk CsrA.fieldsOk (true) (CsrA.parse d t) .csrc
    else
    .error .length
  else
  if op = 0xE4 then
    if l = 1 then row K16.regsOk K16.fieldsOk (zero d 0 6) (K16.parse d t) .trap
    else
    .error .length
  else
  if op = 0xE5 then
    if l = 0 then row0 (zero d 0 6) .tret
    else
    .error .length
  else
  if op = 0xE6 then
    if l = 0 then row0 (zero d 0 6) .brk
    else
    if l = 1 then row K16.regsOk K16.fieldsOk (zero d 0 6) (K16.parse d t) .brkL1
    else
    .error .length
  else
  if op = 0xE7 then
    if l = 1 then if bits t 6 2 = 0 then row TlbP.regsOk TlbP.fieldsOk (zero d 5 1 && zero t 12 4) (TlbP.parse d t) .tlbiPage
      else if bits t 6 2 = 1 then row TlbC.regsOk TlbC.fieldsOk (zero d 5 1 && zero t 0 6 && zero t 12 4) (TlbC.parse d t) .tlbiCtx
      else if bits t 6 2 = 2 then row TlbA.regsOk TlbA.fieldsOk (zero d 5 1 && zero t 0 6 && zero t 8 8) (TlbA.parse d t) .tlbiAll
      else reservedSub (gOk (fld t 0 6))
    else
    if l = 2 then if bits t 6 2 = 3 then row TlbR.regsOk TlbR.fieldsOk (zero d 5 1 && zero t 18 14) (TlbR.parse d t) .tlbiRange
      else if bits t 6 2 = 0 then row TlbP.regsOk TlbP.fieldsOk (zero d 5 1 && zero t 12 20) (TlbP.parse d t) .tlbiPage
      else if bits t 6 2 = 1 then row TlbC.regsOk TlbC.fieldsOk (zero d 5 1 && zero t 0 6 && zero t 12 20) (TlbC.parse d t) .tlbiCtx
      else if bits t 6 2 = 2 then row TlbA.regsOk TlbA.fieldsOk (zero d 5 1 && zero t 0 6 && zero t 8 24) (TlbA.parse d t) .tlbiAll
      else reservedSub (true)
    else
    .error .length
  else
  if op = 0xE8 then
    if l = 0 then row0 (zero d 0 6) .ifence
    else
    .error .length
  else
  if op = 0xE9 then
    if l = 0 then row0 (zero d 0 6) .wfi
    else
    .error .length
  else
  if op = 0xEA then
    if l = 1 then if bits d 0 2 = 0 then row0 (zero d 2 4 && zero t 0 16) .ctxswReq
      else if bits d 0 2 = 1 then row0 (zero d 2 4 && zero t 0 16) .ctxswFlush
      else reservedSub (true)
    else
    .error .length
  else
  if op = 0xEB then
    if l = 1 then if bits t 6 2 = 0 then row GG.regsOk GG.fieldsOk (zero t 8 8) (GG.parse d t) .syscHold
      else if bits t 6 2 = 1 then row GD.regsOk GD.fieldsOk (zero t 0 6 && zero t 8 8) (GD.parse d t) .syscRel
      else if bits t 6 2 = 2 then row GG.regsOk GG.fieldsOk (zero t 8 8) (GG.parse d t) .syscWake
      else if bits t 6 2 = 3 then row GG.regsOk GG.fieldsOk (zero t 8 8) (GG.parse d t) .syscStop
      else reservedSub (gOk (fld d 0 6))
    else
    .error .length
  else
  .error .opcode

/-- The instruction of a head OP, L, D and its tail value (R40, R51 to R54): the first case of Table 2.10 that applies. -/
def parseWord (op l d t : Nat) : Except DecodeError Parsed :=
  if op / 16 = 0x0 then (decode0x op l d t).map .lower else
  if op / 16 = 0x1 then (decode1x op l d t).map .lower else
  if op / 16 = 0x2 then (decode2x op l d t).map .lower else
  if op / 16 = 0x3 then (decode3x op l d t).map .lower else
  if op / 16 = 0x4 then (decode4x op l d t).map .lower else
  if op / 16 = 0x5 then (decode5x op l d t).map .lower else
  if op / 16 = 0x6 then (decode6x op l d t).map .lower else
  if op / 16 = 0x7 then (decode7x op l d t).map .lower else
  if op / 16 = 0x8 then (decode8x op l d t).map .lower else
  if op / 16 = 0x9 then (decode9x op l d t).map .lower else
  if op / 16 = 0xA then (decodeAx op l d t).map .lower else
  if op / 16 = 0xB then (decodeBx op l d t).map .upper else
  if op / 16 = 0xC then (decodeCx op l d t).map .upper else
  if op / 16 = 0xD then (decodeDx op l d t).map .upper else
  if op / 16 = 0xE then (decodeEx op l d t).map .upper else
  .error .opcode

/-- The same as an instruction. -/
noncomputable def decodeWord (op l d t : Nat) : Except DecodeError Instr := (parseWord op l d t).map Parsed.instr

/-! The encoder, from the same tables: the fields are placed where Tables 2.2 and 2.5 and the entries put them. -/

/-- The D field of K16. -/
def K16.encD (_ : K16) : Nat := 0
/-- The tail of K16. -/
def K16.encT (o : K16) : Nat := o.k.toNat
/-- The D field of K32. -/
def K32.encD (_ : K32) : Nat := 0
/-- The tail of K32. -/
def K32.encT (o : K32) : Nat := o.k.toNat
/-- The D field of K64. -/
def K64.encD (_ : K64) : Nat := 0
/-- The tail of K64. -/
def K64.encT (o : K64) : Nat := o.k.toNat
/-- The D field of GGG. -/
def GGG.encD (o : GGG) : Nat := o.d.toNat
/-- The tail of GGG. -/
def GGG.encT (o : GGG) : Nat := o.a.toNat + o.b.toNat * 64
/-- The D field of GG. -/
def GG.encD (o : GG) : Nat := o.d.toNat
/-- The tail of GG. -/
def GG.encT (o : GG) : Nat := o.a.toNat
/-- The D field of GGGG. -/
def GGGG.encD (o : GGGG) : Nat := o.d.toNat
/-- The tail of GGGG. -/
def GGGG.encT (o : GGGG) : Nat := o.a.toNat + o.b.toNat * 64 + o.c.toNat * 4096
/-- The D field of GGI10. -/
def GGI10.encD (o : GGI10) : Nat := o.d.toNat
/-- The tail of GGI10. -/
def GGI10.encT (o : GGI10) : Nat := o.a.toNat + o.imm.toNat * 64
/-- The D field of GGI26. -/
def GGI26.encD (o : GGI26) : Nat := o.d.toNat
/-- The tail of GGI26. -/
def GGI26.encT (o : GGI26) : Nat := o.a.toNat + o.imm.toNat * 64
/-- The D field of ShiftI. -/
def ShiftI.encD (o : ShiftI) : Nat := o.d.toNat
/-- The tail of ShiftI. -/
def ShiftI.encT (o : ShiftI) : Nat := o.a.toNat + o.amt.toNat * 64
/-- The D field of GK16. -/
def GK16.encD (o : GK16) : Nat := o.d.toNat
/-- The tail of GK16. -/
def GK16.encT (o : GK16) : Nat := o.k.toNat
/-- The D field of FK16. -/
def FK16.encD (o : FK16) : Nat := o.d.toNat
/-- The tail of FK16. -/
def FK16.encT (o : FK16) : Nat := o.k.toNat
/-- The D field of GK32. -/
def GK32.encD (o : GK32) : Nat := o.d.toNat
/-- The tail of GK32. -/
def GK32.encT (o : GK32) : Nat := o.k.toNat
/-- The D field of FK32. -/
def FK32.encD (o : FK32) : Nat := o.d.toNat
/-- The tail of FK32. -/
def FK32.encT (o : FK32) : Nat := o.k.toNat
/-- The D field of GK64. -/
def GK64.encD (o : GK64) : Nat := o.d.toNat
/-- The tail of GK64. -/
def GK64.encT (o : GK64) : Nat := o.k.toNat
/-- The D field of FK64. -/
def FK64.encD (o : FK64) : Nat := o.d.toNat
/-- The tail of FK64. -/
def FK64.encT (o : FK64) : Nat := o.k.toNat
/-- The D field of LeaM. -/
def LeaM.encD (o : LeaM) : Nat := o.d.toNat
/-- The tail of LeaM. -/
def LeaM.encT (o : LeaM) : Nat := o.base.toNat + o.sz.toNat * 64 + o.off.toNat * 512
/-- The D field of LeaX. -/
def LeaX.encD (o : LeaX) : Nat := o.d.toNat
/-- The tail of LeaX. -/
def LeaX.encT (o : LeaX) : Nat := o.base.toNat + o.ix.toNat * 16384 + o.body.toNat * 32768
/-- The D field of BitF. -/
def BitF.encD (o : BitF) : Nat := o.d.toNat
/-- The tail of BitF. -/
def BitF.encT (o : BitF) : Nat := o.a.toNat + o.pos.toNat * 64 + o.lenm1.toNat * 4096
/-- The D field of GGI8. -/
def GGI8.encD (o : GGI8) : Nat := o.d.toNat
/-- The tail of GGI8. -/
def GGI8.encT (o : GGI8) : Nat := o.a.toNat + o.imm.toNat * 256
/-- The D field of GGI24. -/
def GGI24.encD (o : GGI24) : Nat := o.d.toNat
/-- The tail of GGI24. -/
def GGI24.encT (o : GGI24) : Nat := o.a.toNat + o.imm.toNat * 256
/-- The D field of BrB. -/
def BrB.encD (_ : BrB) : Nat := 0
/-- The tail of BrB. -/
def BrB.encT (o : BrB) : Nat := o.a.toNat + o.b.toNat * 64 + o.off.toNat * 4096
/-- The D field of BrZ. -/
def BrZ.encD (_ : BrZ) : Nat := 0
/-- The tail of BrZ. -/
def BrZ.encT (o : BrZ) : Nat := o.a.toNat + o.off.toNat * 4096
/-- The D field of Jmp. -/
def Jmp.encD (_ : Jmp) : Nat := 0
/-- The tail of Jmp. -/
def Jmp.encT (o : Jmp) : Nat := o.off.toNat
/-- The D field of GJmp. -/
def GJmp.encD (o : GJmp) : Nat := o.d.toNat
/-- The tail of GJmp. -/
def GJmp.encT (o : GJmp) : Nat := o.off.toNat
/-- The D field of GD. -/
def GD.encD (o : GD) : Nat := o.d.toNat
/-- The tail of GD. -/
def GD.encT (_ : GD) : Nat := 0
/-- The D field of RepO. -/
def RepO.encD (o : RepO) : Nat := o.bl.toNat
/-- The tail of RepO. -/
def RepO.encT (o : RepO) : Nat := o.a.toNat + o.st.toNat * 64 + o.wr.toNat * 4096 + o.mask.toNat * 16777216
/-- The D field of LdM. -/
def LdM.encD (o : LdM) : Nat := o.d.toNat
/-- The tail of LdM. -/
def LdM.encT (o : LdM) : Nat := o.base.toNat + o.sz.toNat * 64 + o.zx.toNat * 256 + o.off.toNat * 512
/-- The D field of LdX. -/
def LdX.encD (o : LdX) : Nat := o.d.toNat
/-- The tail of LdX. -/
def LdX.encT (o : LdX) : Nat := o.base.toNat + o.sz.toNat * 64 + o.zx.toNat * 256 + o.ix.toNat * 16384 + o.body.toNat * 32768
/-- The D field of LdaX. -/
def LdaX.encD (o : LdaX) : Nat := o.d.toNat
/-- The tail of LdaX. -/
def LdaX.encT (o : LdaX) : Nat := o.base.toNat + o.sz.toNat * 64 + o.zx.toNat * 256 + o.sc.toNat * 512 + o.gm.toNat * 4096 + o.ix.toNat * 16384 + o.body.toNat * 32768
/-- The D field of FeX. -/
def FeX.encD (o : FeX) : Nat := o.d.toNat
/-- The tail of FeX. -/
def FeX.encT (o : FeX) : Nat := o.base.toNat + o.sc.toNat * 512 + o.gm.toNat * 4096 + o.ix.toNat * 16384 + o.body.toNat * 32768
/-- The D field of LdffM. -/
def LdffM.encD (o : LdffM) : Nat := o.d.toNat
/-- The tail of LdffM. -/
def LdffM.encT (o : LdffM) : Nat := o.base.toNat + o.off.toNat * 512
/-- The D field of LdffX. -/
def LdffX.encD (o : LdffX) : Nat := o.d.toNat
/-- The tail of LdffX. -/
def LdffX.encT (o : LdffX) : Nat := o.base.toNat + o.sc.toNat * 512 + o.gm.toNat * 4096 + o.ix.toNat * 16384 + o.body.toNat * 32768
/-- The D field of StM. -/
def StM.encD (o : StM) : Nat := o.d.toNat
/-- The tail of StM. -/
def StM.encT (o : StM) : Nat := o.base.toNat + o.sz.toNat * 64 + o.off.toNat * 512
/-- The D field of StX. -/
def StX.encD (o : StX) : Nat := o.d.toNat
/-- The tail of StX. -/
def StX.encT (o : StX) : Nat := o.base.toNat + o.sz.toNat * 64 + o.ix.toNat * 16384 + o.body.toNat * 32768
/-- The D field of StlX. -/
def StlX.encD (o : StlX) : Nat := o.d.toNat
/-- The tail of StlX. -/
def StlX.encT (o : StlX) : Nat := o.base.toNat + o.sz.toNat * 64 + o.sc.toNat * 512 + o.gm.toNat * 4096 + o.ix.toNat * 16384 + o.body.toNat * 32768
/-- The D field of FesetM. -/
def FesetM.encD (o : FesetM) : Nat := o.val.toNat
/-- The tail of FesetM. -/
def FesetM.encT (o : FesetM) : Nat := o.base.toNat + o.off.toNat * 512
/-- The D field of FesetX. -/
def FesetX.encD (o : FesetX) : Nat := o.val.toNat
/-- The tail of FesetX. -/
def FesetX.encT (o : FesetX) : Nat := o.base.toNat + o.ix.toNat * 16384 + o.body.toNat * 32768
/-- The D field of FMemM. -/
def FMemM.encD (o : FMemM) : Nat := o.d.toNat
/-- The tail of FMemM. -/
def FMemM.encT (o : FMemM) : Nat := o.base.toNat + o.sz.toNat * 64 + o.off.toNat * 512
/-- The D field of FMemX. -/
def FMemX.encD (o : FMemX) : Nat := o.d.toNat
/-- The tail of FMemX. -/
def FMemX.encT (o : FMemX) : Nat := o.base.toNat + o.sz.toNat * 64 + o.ix.toNat * 16384 + o.body.toNat * 32768
/-- The D field of PairM. -/
def PairM.encD (o : PairM) : Nat := o.d.toNat
/-- The tail of PairM. -/
def PairM.encT (o : PairM) : Nat := o.base.toNat + o.off.toNat * 512
/-- The D field of PairX. -/
def PairX.encD (o : PairX) : Nat := o.d.toNat
/-- The tail of PairX. -/
def PairX.encT (o : PairX) : Nat := o.base.toNat + o.ix.toNat * 16384 + o.body.toNat * 32768
/-- The D field of FenceO. -/
def FenceO.encD (o : FenceO) : Nat := o.sc.toNat + o.gm.toNat * 8
/-- The tail of FenceO. -/
def FenceO.encT (_ : FenceO) : Nat := 0
/-- The D field of WaitaX. -/
def WaitaX.encD (o : WaitaX) : Nat := o.d.toNat
/-- The tail of WaitaX. -/
def WaitaX.encT (o : WaitaX) : Nat := o.base.toNat + o.sz.toNat * 64 + o.zx.toNat * 256 + o.sc.toNat * 512 + o.gm.toNat * 4096 + o.ix.toNat * 16384 + o.body.toNat * 32768
/-- The D field of PrefM. -/
def PrefM.encD (o : PrefM) : Nat := o.pg.toNat
/-- The tail of PrefM. -/
def PrefM.encT (o : PrefM) : Nat := o.base.toNat + o.sz.toNat * 64 + o.off.toNat * 512
/-- The D field of PrefX. -/
def PrefX.encD (o : PrefX) : Nat := o.pg.toNat
/-- The tail of PrefX. -/
def PrefX.encT (o : PrefX) : Nat := o.base.toNat + o.sz.toNat * 64 + o.ix.toNat * 16384 + o.body.toNat * 32768
/-- The D field of AtO. -/
def AtO.encD (o : AtO) : Nat := o.d.toNat
/-- The tail of AtO. -/
def AtO.encT (o : AtO) : Nat := o.base.toNat + o.src.toNat * 64 + o.sz.toNat * 4096 + o.sc.toNat * 16384 + o.gm.toNat * 131072 + o.acq.toNat * 8388608 + o.rel.toNat * 16777216
/-- The D field of CaspO. -/
def CaspO.encD (o : CaspO) : Nat := o.d.toNat
/-- The tail of CaspO. -/
def CaspO.encT (o : CaspO) : Nat := o.base.toNat + o.src.toNat * 64 + o.sc.toNat * 16384 + o.gm.toNat * 131072 + o.acq.toNat * 8388608 + o.rel.toNat * 16777216
/-- The D field of SbindO. -/
def SbindO.encD (o : SbindO) : Nat := o.u.toNat
/-- The tail of SbindO. -/
def SbindO.encT (o : SbindO) : Nat := o.a.toNat + o.kind.toNat * 64 + o.dir.toNat * 256 + o.esz.toNat * 512 + o.dims.toNat * 4096
/-- The D field of SdimR. -/
def SdimR.encD (o : SdimR) : Nat := o.u.toNat
/-- The tail of SdimR. -/
def SdimR.encT (o : SdimR) : Nat := o.a.toNat + o.b.toNat * 64 + o.k.toNat * 4096
/-- The D field of SdimW. -/
def SdimW.encD (o : SdimW) : Nat := o.u.toNat
/-- The tail of SdimW. -/
def SdimW.encT (o : SdimW) : Nat := o.k.toNat * 262144 + o.cnt.toNat * 16777216 + o.stride.toNat * 1099511627776
/-- The D field of SidxR. -/
def SidxR.encD (o : SidxR) : Nat := o.u.toNat
/-- The tail of SidxR. -/
def SidxR.encT (o : SidxR) : Nat := o.a.toNat + o.ish.toNat * 64 + o.isz.toNat * 512
/-- The D field of SidxW. -/
def SidxW.encD (o : SidxW) : Nat := o.u.toNat
/-- The tail of SidxW. -/
def SidxW.encT (o : SidxW) : Nat := o.a.toNat + o.ish.toNat * 64 + o.isz.toNat * 512 + o.imm.toNat * 16777216
/-- The D field of SdirO. -/
def SdirO.encD (o : SdirO) : Nat := o.u.toNat
/-- The tail of SdirO. -/
def SdirO.encT (o : SdirO) : Nat := o.dir.toNat + o.rpt.toNat * 64
/-- The D field of Units. -/
def Units.encD (o : Units) : Nat := o.m.toNat
/-- The tail of Units. -/
def Units.encT (_ : Units) : Nat := 0
/-- The D field of UnitG. -/
def UnitG.encD (o : UnitG) : Nat := o.u.toNat
/-- The tail of UnitG. -/
def UnitG.encT (o : UnitG) : Nat := o.a.toNat
/-- The D field of UnitM. -/
def UnitM.encD (o : UnitM) : Nat := o.u.toNat
/-- The tail of UnitM. -/
def UnitM.encT (o : UnitM) : Nat := o.base.toNat + o.off.toNat * 512
/-- The D field of UnitX. -/
def UnitX.encD (o : UnitX) : Nat := o.u.toNat
/-- The tail of UnitX. -/
def UnitX.encT (o : UnitX) : Nat := o.base.toNat + o.ix.toNat * 16384 + o.body.toNat * 32768
/-- The D field of SetO. -/
def SetO.encD (o : SetO) : Nat := o.u.toNat
/-- The tail of SetO. -/
def SetO.encT (o : SetO) : Nat := o.la.toNat + o.lb.toNat * 64 + o.cnt.toNat * 4096
/-- The D field of ScoordO. -/
def ScoordO.encD (o : ScoordO) : Nat := o.u.toNat
/-- The tail of ScoordO. -/
def ScoordO.encT (o : ScoordO) : Nat := o.a.toNat + o.b.toNat * 64 + o.cs.toNat * 4096 + o.dir.toNat * 16384
/-- The D field of FP3. -/
def FP3.encD (o : FP3) : Nat := o.d.toNat
/-- The tail of FP3. -/
def FP3.encT (o : FP3) : Nat := o.a.toNat + o.b.toNat * 64 + o.pr.toNat * 4096
/-- The D field of FP3R. -/
def FP3R.encD (o : FP3R) : Nat := o.d.toNat
/-- The tail of FP3R. -/
def FP3R.encT (o : FP3R) : Nat := o.a.toNat + o.b.toNat * 64 + o.h.toNat * 262144 + o.pr.toNat * 16777216 + o.rnd.toNat * 268435456
/-- The D field of FP3H. -/
def FP3H.encD (o : FP3H) : Nat := o.d.toNat
/-- The tail of FP3H. -/
def FP3H.encT (o : FP3H) : Nat := o.a.toNat + o.b.toNat * 64 + o.h.toNat * 262144 + o.pr.toNat * 16777216
/-- The D field of FP4R. -/
def FP4R.encD (o : FP4R) : Nat := o.d.toNat
/-- The tail of FP4R. -/
def FP4R.encT (o : FP4R) : Nat := o.a.toNat + o.b.toNat * 64 + o.c.toNat * 4096 + o.h.toNat * 262144 + o.pr.toNat * 16777216 + o.rnd.toNat * 268435456
/-- The D field of FP2. -/
def FP2.encD (o : FP2) : Nat := o.d.toNat
/-- The tail of FP2. -/
def FP2.encT (o : FP2) : Nat := o.a.toNat + o.pr.toNat * 4096
/-- The D field of FP2H. -/
def FP2H.encD (o : FP2H) : Nat := o.d.toNat
/-- The tail of FP2H. -/
def FP2H.encT (o : FP2H) : Nat := o.a.toNat + o.h.toNat * 262144 + o.pr.toNat * 16777216
/-- The D field of FS2. -/
def FS2.encD (o : FS2) : Nat := o.d.toNat
/-- The tail of FS2. -/
def FS2.encT (o : FS2) : Nat := o.a.toNat + o.pr.toNat * 4096
/-- The D field of FS2H. -/
def FS2H.encD (o : FS2H) : Nat := o.d.toNat
/-- The tail of FS2H. -/
def FS2H.encT (o : FS2H) : Nat := o.a.toNat + o.h.toNat * 262144 + o.pr.toNat * 16777216
/-- The D field of FC3. -/
def FC3.encD (o : FC3) : Nat := o.d.toNat
/-- The tail of FC3. -/
def FC3.encT (o : FC3) : Nat := o.a.toNat + o.b.toNat * 64 + o.pr.toNat * 4096
/-- The D field of FC3H. -/
def FC3H.encD (o : FC3H) : Nat := o.d.toNat
/-- The tail of FC3H. -/
def FC3H.encT (o : FC3H) : Nat := o.a.toNat + o.b.toNat * 64 + o.h.toNat * 262144 + o.pr.toNat * 16777216
/-- The D field of FC2. -/
def FC2.encD (o : FC2) : Nat := o.d.toNat
/-- The tail of FC2. -/
def FC2.encT (o : FC2) : Nat := o.a.toNat + o.pr.toNat * 4096
/-- The D field of CvtR. -/
def CvtR.encD (o : CvtR) : Nat := o.d.toNat
/-- The tail of CvtR. -/
def CvtR.encT (o : CvtR) : Nat := o.a.toNat + o.sf.toNat * 4096 + o.df.toNat * 16384
/-- The D field of CvtX. -/
def CvtX.encD (o : CvtX) : Nat := o.d.toNat
/-- The tail of CvtX. -/
def CvtX.encT (o : CvtX) : Nat := o.a.toNat + o.h.toNat * 262144 + o.sf.toNat * 16777216 + o.df.toNat * 67108864 + o.rnd.toNat * 268435456
/-- The D field of CviR. -/
def CviR.encD (o : CviR) : Nat := o.d.toNat
/-- The tail of CviR. -/
def CviR.encT (o : CviR) : Nat := o.a.toNat + o.sf.toNat * 4096 + o.un.toNat * 16384
/-- The D field of CviX. -/
def CviX.encD (o : CviX) : Nat := o.d.toNat
/-- The tail of CviX. -/
def CviX.encT (o : CviX) : Nat := o.a.toNat + o.h.toNat * 262144 + o.sf.toNat * 16777216 + o.un.toNat * 67108864 + o.rnd.toNat * 268435456
/-- The D field of IcvR. -/
def IcvR.encD (o : IcvR) : Nat := o.d.toNat
/-- The tail of IcvR. -/
def IcvR.encT (o : IcvR) : Nat := o.a.toNat + o.df.toNat * 4096 + o.un.toNat * 16384
/-- The D field of IcvX. -/
def IcvX.encD (o : IcvX) : Nat := o.d.toNat
/-- The tail of IcvX. -/
def IcvX.encT (o : IcvX) : Nat := o.a.toNat + o.h.toNat * 262144 + o.df.toNat * 16777216 + o.un.toNat * 67108864 + o.rnd.toNat * 268435456
/-- The D field of GF. -/
def GF.encD (o : GF) : Nat := o.d.toNat
/-- The tail of GF. -/
def GF.encT (o : GF) : Nat := o.a.toNat
/-- The D field of FG. -/
def FG.encD (o : FG) : Nat := o.d.toNat
/-- The tail of FG. -/
def FG.encT (o : FG) : Nat := o.a.toNat
/-- The D field of F4H. -/
def F4H.encD (o : F4H) : Nat := o.d.toNat
/-- The tail of F4H. -/
def F4H.encT (o : F4H) : Nat := o.a.toNat + o.b.toNat * 64 + o.c.toNat * 4096 + o.h.toNat * 262144
/-- The D field of PE3. -/
def PE3.encD (o : PE3) : Nat := o.d.toNat
/-- The tail of PE3. -/
def PE3.encT (o : PE3) : Nat := o.a.toNat + o.b.toNat * 64 + o.e.toNat * 4096
/-- The D field of PE3H. -/
def PE3H.encD (o : PE3H) : Nat := o.d.toNat
/-- The tail of PE3H. -/
def PE3H.encT (o : PE3H) : Nat := o.a.toNat + o.b.toNat * 64 + o.h.toNat * 262144 + o.e.toNat * 16777216
/-- The D field of PE4H. -/
def PE4H.encD (o : PE4H) : Nat := o.d.toNat
/-- The tail of PE4H. -/
def PE4H.encT (o : PE4H) : Nat := o.a.toNat + o.b.toNat * 64 + o.c.toNat * 4096 + o.h.toNat * 262144 + o.e.toNat * 16777216
/-- The D field of PBc. -/
def PBc.encD (o : PBc) : Nat := o.d.toNat
/-- The tail of PBc. -/
def PBc.encT (o : PBc) : Nat := o.a.toNat + o.lane.toNat * 64 + o.e.toNat * 4096
/-- The D field of PBcH. -/
def PBcH.encD (o : PBcH) : Nat := o.d.toNat
/-- The tail of PBcH. -/
def PBcH.encT (o : PBcH) : Nat := o.a.toNat + o.lane.toNat * 64 + o.h.toNat * 262144 + o.e.toNat * 16777216
/-- The D field of PW3. -/
def PW3.encD (o : PW3) : Nat := o.d.toNat
/-- The tail of PW3. -/
def PW3.encT (o : PW3) : Nat := o.a.toNat + o.b.toNat * 64 + o.e.toNat * 4096 + o.wf.toNat * 16384
/-- The D field of PW3H. -/
def PW3H.encD (o : PW3H) : Nat := o.d.toNat
/-- The tail of PW3H. -/
def PW3H.encT (o : PW3H) : Nat := o.a.toNat + o.b.toNat * 64 + o.h.toNat * 262144 + o.e.toNat * 16777216 + o.wf.toNat * 67108864 + o.part.toNat * 268435456
/-- The D field of PW4H. -/
def PW4H.encD (o : PW4H) : Nat := o.d.toNat
/-- The tail of PW4H. -/
def PW4H.encT (o : PW4H) : Nat := o.a.toNat + o.b.toNat * 64 + o.c.toNat * 4096 + o.h.toNat * 262144 + o.e.toNat * 16777216 + o.wf.toNat * 67108864 + o.part.toNat * 268435456
/-- The D field of PW2. -/
def PW2.encD (o : PW2) : Nat := o.d.toNat
/-- The tail of PW2. -/
def PW2.encT (o : PW2) : Nat := o.a.toNat + o.e.toNat * 4096 + o.wf.toNat * 16384
/-- The D field of PW2H. -/
def PW2H.encD (o : PW2H) : Nat := o.d.toNat
/-- The tail of PW2H. -/
def PW2H.encT (o : PW2H) : Nat := o.a.toNat + o.h.toNat * 262144 + o.e.toNat * 16777216 + o.wf.toNat * 67108864 + o.part.toNat * 268435456
/-- The D field of PWcH. -/
def PWcH.encD (o : PWcH) : Nat := o.d.toNat
/-- The tail of PWcH. -/
def PWcH.encT (o : PWcH) : Nat := o.a.toNat + o.c.toNat * 4096 + o.ha.toNat * 262144 + o.hc.toNat * 1048576 + o.e.toNat * 16777216 + o.wf.toNat * 67108864 + o.part.toNat * 268435456
/-- The D field of F3. -/
def F3.encD (o : F3) : Nat := o.d.toNat
/-- The tail of F3. -/
def F3.encT (o : F3) : Nat := o.a.toNat + o.b.toNat * 64
/-- The D field of F3H. -/
def F3H.encD (o : F3H) : Nat := o.d.toNat
/-- The tail of F3H. -/
def F3H.encT (o : F3H) : Nat := o.a.toNat + o.b.toNat * 64 + o.h.toNat * 262144
/-- The D field of F2. -/
def F2.encD (o : F2) : Nat := o.d.toNat
/-- The tail of F2. -/
def F2.encT (o : F2) : Nat := o.a.toNat
/-- The D field of F2H. -/
def F2H.encD (o : F2H) : Nat := o.d.toNat
/-- The tail of F2H. -/
def F2H.encT (o : F2H) : Nat := o.a.toNat + o.h.toNat * 262144
/-- The D field of SendO. -/
def SendO.encD (o : SendO) : Nat := o.d.toNat
/-- The tail of SendO. -/
def SendO.encT (o : SendO) : Nat := o.a.toNat + o.cls.toNat * 64 + o.nm1.toNat * 256 + o.sc.toNat * 16777216 + o.gm.toNat * 134217728
/-- The D field of SendnO. -/
def SendnO.encD (o : SendnO) : Nat := o.d.toNat
/-- The tail of SendnO. -/
def SendnO.encT (o : SendnO) : Nat := o.cls.toNat * 262144 + o.nm1.toNat * 1048576 + o.dx.toNat * 16777216 + o.dy.toNat * 17179869184 + o.sc.toNat * 17592186044416 + o.gm.toNat * 140737488355328
/-- The D field of RecvR. -/
def RecvR.encD (o : RecvR) : Nat := o.d.toNat
/-- The tail of RecvR. -/
def RecvR.encT (o : RecvR) : Nat := o.a.toNat + o.cls.toNat * 64 + o.sc.toNat * 4096 + o.gm.toNat * 32768
/-- The D field of RecvX. -/
def RecvX.encD (o : RecvX) : Nat := o.d.toNat
/-- The tail of RecvX. -/
def RecvX.encT (o : RecvX) : Nat := o.a.toNat + o.cls.toNat * 64 + o.sc.toNat * 16777216 + o.gm.toNat * 134217728
/-- The D field of GCls. -/
def GCls.encD (o : GCls) : Nat := o.d.toNat
/-- The tail of GCls. -/
def GCls.encT (o : GCls) : Nat := o.cls.toNat * 64
/-- The D field of QendO. -/
def QendO.encD (o : QendO) : Nat := o.port.toNat
/-- The tail of QendO. -/
def QendO.encT (o : QendO) : Nat := o.a.toNat
/-- The D field of QctlO. -/
def QctlO.encD (o : QctlO) : Nat := o.d.toNat
/-- The tail of QctlO. -/
def QctlO.encT (o : QctlO) : Nat := o.a.toNat + o.pc.toNat * 64
/-- The D field of XferO. -/
def XferO.encD (o : XferO) : Nat := o.d.toNat
/-- The tail of XferO. -/
def XferO.encT (o : XferO) : Nat := o.a.toNat + o.b.toNat * 64 + o.ctr.toNat * 262144 + o.rmod.toNat * 16777216
/-- The D field of XferI. -/
def XferI.encD (o : XferI) : Nat := o.d.toNat
/-- The tail of XferI. -/
def XferI.encT (o : XferI) : Nat := o.a.toNat + o.b.toNat * 64 + o.c.toNat * 4096 + o.ctr.toNat * 262144 + o.esz.toNat * 4194304 + o.rmod.toNat * 16777216 + o.ish.toNat * 4294967296 + o.isz.toNat * 34359738368
/-- The D field of CtrO. -/
def CtrO.encD (o : CtrO) : Nat := o.d.toNat
/-- The tail of CtrO. -/
def CtrO.encT (o : CtrO) : Nat := o.a.toNat + o.ctr.toNat * 64
/-- The D field of MbindO. -/
def MbindO.encD (o : MbindO) : Nat := o.mi.toNat
/-- The tail of MbindO. -/
def MbindO.encT (o : MbindO) : Nat := o.a.toNat + o.b.toNat * 64 + o.slot.toNat * 262144 + o.trig.toNat * 1048576 + o.cls.toNat * 16777216
/-- The D field of GbarA. -/
def GbarA.encD (o : GbarA) : Nat := o.gm.toNat
/-- The tail of GbarA. -/
def GbarA.encT (_ : GbarA) : Nat := 0
/-- The D field of GbarG. -/
def GbarG.encD (o : GbarG) : Nat := o.gm.toNat
/-- The tail of GbarG. -/
def GbarG.encT (o : GbarG) : Nat := o.a.toNat
/-- The D field of GredR. -/
def GredR.encD (o : GredR) : Nat := o.d.toNat
/-- The tail of GredR. -/
def GredR.encT (o : GredR) : Nat := o.a.toNat + o.gm.toNat * 64 + o.file.toNat * 256 + o.ty.toNat * 32768
/-- The D field of GredX. -/
def GredX.encD (o : GredX) : Nat := o.d.toNat
/-- The tail of GredX. -/
def GredX.encT (o : GredX) : Nat := o.a.toNat + o.gm.toNat * 64 + o.file.toNat * 256 + o.ty.toNat * 134217728
/-- The D field of GcastR. -/
def GcastR.encD (o : GcastR) : Nat := o.d.toNat
/-- The tail of GcastR. -/
def GcastR.encT (o : GcastR) : Nat := o.a.toNat + o.gm.toNat * 64 + o.file.toNat * 256
/-- The D field of GcastX. -/
def GcastX.encD (o : GcastX) : Nat := o.d.toNat
/-- The tail of GcastX. -/
def GcastX.encT (o : GcastX) : Nat := o.a.toNat + o.c.toNat * 4096 + o.gm.toNat * 64 + o.file.toNat * 256
/-- The D field of GsumO. -/
def GsumO.encD (o : GsumO) : Nat := o.d.toNat
/-- The tail of GsumO. -/
def GsumO.encT (o : GsumO) : Nat := o.a.toNat + o.gm.toNat * 64
/-- The D field of SemR. -/
def SemR.encD (o : SemR) : Nat := o.d.toNat
/-- The tail of SemR. -/
def SemR.encT (o : SemR) : Nat := o.a.toNat + o.b.toNat * 64 + o.sc.toNat * 4096 + o.gm.toNat * 32768
/-- The D field of SemX. -/
def SemX.encD (o : SemX) : Nat := o.d.toNat
/-- The tail of SemX. -/
def SemX.encT (o : SemX) : Nat := o.a.toNat + o.b.toNat * 64 + o.sc.toNat * 16777216 + o.gm.toNat * 134217728
/-- The D field of EvcN. -/
def EvcN.encD (o : EvcN) : Nat := o.d.toNat
/-- The tail of EvcN. -/
def EvcN.encT (o : EvcN) : Nat := o.n.toNat * 64
/-- The D field of EvcA. -/
def EvcA.encD (o : EvcA) : Nat := o.d.toNat
/-- The tail of EvcA. -/
def EvcA.encT (o : EvcA) : Nat := o.a.toNat + o.n.toNat * 64
/-- The D field of VbM. -/
def VbM.encD (o : VbM) : Nat := o.cs.toNat
/-- The tail of VbM. -/
def VbM.encT (o : VbM) : Nat := o.base.toNat + o.off.toNat * 512
/-- The D field of VbX. -/
def VbX.encD (o : VbX) : Nat := o.cs.toNat
/-- The tail of VbX. -/
def VbX.encT (o : VbX) : Nat := o.base.toNat + o.ix.toNat * 16384 + o.body.toNat * 32768
/-- The D field of VbOff. -/
def VbOff.encD (o : VbOff) : Nat := o.cs.toNat
/-- The tail of VbOff. -/
def VbOff.encT (_ : VbOff) : Nat := 0
/-- The D field of CldO. -/
def CldO.encD (o : CldO) : Nat := o.d.toNat
/-- The tail of CldO. -/
def CldO.encT (o : CldO) : Nat := o.a.toNat + o.cs.toNat * 64 + o.sx.toNat * 16777216
/-- The D field of CvO. -/
def CvO.encD (o : CvO) : Nat := o.d.toNat
/-- The tail of CvO. -/
def CvO.encT (o : CvO) : Nat := o.a.toNat + o.cs.toNat * 64
/-- The D field of CamoO. -/
def CamoO.encD (o : CamoO) : Nat := o.d.toNat
/-- The tail of CamoO. -/
def CamoO.encT (o : CamoO) : Nat := o.a.toNat + o.c.toNat * 4096 + o.cs.toNat * 64 + o.acq.toNat * 268435456 + o.rel.toNat * 536870912
/-- The D field of CinvO. -/
def CinvO.encD (o : CinvO) : Nat := o.sc.toNat + o.gm.toNat * 8
/-- The tail of CinvO. -/
def CinvO.encT (o : CinvO) : Nat := o.a.toNat + o.cs.toNat * 64
/-- The D field of CinvA. -/
def CinvA.encD (o : CinvA) : Nat := o.sc.toNat + o.gm.toNat * 8
/-- The tail of CinvA. -/
def CinvA.encT (o : CinvA) : Nat := o.cs.toNat * 64
/-- The D field of CfreeO. -/
def CfreeO.encD (o : CfreeO) : Nat := o.d.toNat
/-- The tail of CfreeO. -/
def CfreeO.encT (o : CfreeO) : Nat := o.cs.toNat * 64
/-- The D field of CnodeO. -/
def CnodeO.encD (o : CnodeO) : Nat := o.d.toNat
/-- The tail of CnodeO. -/
def CnodeO.encT (o : CnodeO) : Nat := o.a.toNat + o.cs.toNat * 64 + o.lvl.toNat * 4096
/-- The D field of CsrR. -/
def CsrR.encD (o : CsrR) : Nat := o.d.toNat
/-- The tail of CsrR. -/
def CsrR.encT (o : CsrR) : Nat := o.num.toNat * 64
/-- The D field of CsrA. -/
def CsrA.encD (o : CsrA) : Nat := o.d.toNat
/-- The tail of CsrA. -/
def CsrA.encT (o : CsrA) : Nat := o.a.toNat + o.num.toNat * 64
/-- The D field of TlbP. -/
def TlbP.encD (o : TlbP) : Nat := o.sc.toNat + o.gm.toNat * 8
/-- The tail of TlbP. -/
def TlbP.encT (o : TlbP) : Nat := o.a.toNat + o.ctx.toNat * 256
/-- The D field of TlbC. -/
def TlbC.encD (o : TlbC) : Nat := o.sc.toNat + o.gm.toNat * 8
/-- The tail of TlbC. -/
def TlbC.encT (o : TlbC) : Nat := o.ctx.toNat * 256
/-- The D field of TlbA. -/
def TlbA.encD (o : TlbA) : Nat := o.sc.toNat + o.gm.toNat * 8
/-- The tail of TlbA. -/
def TlbA.encT (_ : TlbA) : Nat := 0
/-- The D field of TlbR. -/
def TlbR.encD (o : TlbR) : Nat := o.sc.toNat + o.gm.toNat * 8
/-- The tail of TlbR. -/
def TlbR.encT (o : TlbR) : Nat := o.a.toNat + o.c.toNat * 4096 + o.ctx.toNat * 256

/-- The head and tail of an instruction; a step that no word encodes has none. -/
def encode : Instr → Option Enc
  | .nop => some ⟨0x00, 0, 0, 0⟩
  | .nopL1 o => some ⟨0x00, 1, K16.encD o, K16.encT o⟩
  | .nopL2 o => some ⟨0x00, 2, K32.encD o, K32.encT o⟩
  | .nopL3 o => some ⟨0x00, 3, K64.encD o, K64.encT o⟩
  | .add o => some ⟨0x01, 1, GGG.encD o, GGG.encT o⟩
  | .sub o => some ⟨0x02, 1, GGG.encD o, GGG.encT o⟩
  | .and o => some ⟨0x03, 1, GGG.encD o, GGG.encT o⟩
  | .or o => some ⟨0x04, 1, GGG.encD o, GGG.encT o⟩
  | .xor o => some ⟨0x05, 1, GGG.encD o, GGG.encT o⟩
  | .andn o => some ⟨0x06, 1, GGG.encD o, GGG.encT o⟩
  | .shl o => some ⟨0x07, 1, GGG.encD o, GGG.encT o⟩
  | .shr o => some ⟨0x08, 1, GGG.encD o, GGG.encT o⟩
  | .sra o => some ⟨0x09, 1, GGG.encD o, GGG.encT o⟩
  | .rotl o => some ⟨0x0A, 1, GGG.encD o, GGG.encT o⟩
  | .mul o => some ⟨0x0B, 1, GGG.encD o, GGG.encT o⟩
  | .mulh o => some ⟨0x0C, 1, GGG.encD o, GGG.encT o⟩
  | .mulhz o => some ⟨0x0D, 1, GGG.encD o, GGG.encT o⟩
  | .div o => some ⟨0x0E, 1, GGG.encD o, GGG.encT o⟩
  | .divz o => some ⟨0x0F, 1, GGG.encD o, GGG.encT o⟩
  | .rem o => some ⟨0x10, 1, GGG.encD o, GGG.encT o⟩
  | .remz o => some ⟨0x11, 1, GGG.encD o, GGG.encT o⟩
  | .min o => some ⟨0x12, 1, GGG.encD o, GGG.encT o⟩
  | .max o => some ⟨0x13, 1, GGG.encD o, GGG.encT o⟩
  | .minz o => some ⟨0x14, 1, GGG.encD o, GGG.encT o⟩
  | .maxz o => some ⟨0x15, 1, GGG.encD o, GGG.encT o⟩
  | .slt o => some ⟨0x16, 1, GGG.encD o, GGG.encT o⟩
  | .sltz o => some ⟨0x17, 1, GGG.encD o, GGG.encT o⟩
  | .seq o => some ⟨0x18, 1, GGG.encD o, GGG.encT o⟩
  | .sel o => some ⟨0x19, 2, GGGG.encD o, GGGG.encT o⟩
  | .addi o => some ⟨0x1A, 1, GGI10.encD o, GGI10.encT o⟩
  | .addiL2 o => some ⟨0x1A, 2, GGI26.encD o, GGI26.encT o⟩
  | .andi o => some ⟨0x1B, 1, GGI10.encD o, GGI10.encT o⟩
  | .andiL2 o => some ⟨0x1B, 2, GGI26.encD o, GGI26.encT o⟩
  | .ori o => some ⟨0x1C, 1, GGI10.encD o, GGI10.encT o⟩
  | .oriL2 o => some ⟨0x1C, 2, GGI26.encD o, GGI26.encT o⟩
  | .xori o => some ⟨0x1D, 1, GGI10.encD o, GGI10.encT o⟩
  | .xoriL2 o => some ⟨0x1D, 2, GGI26.encD o, GGI26.encT o⟩
  | .shli o => some ⟨0x1E, 1, ShiftI.encD o, ShiftI.encT o⟩
  | .shri o => some ⟨0x1E, 1, ShiftI.encD o, ShiftI.encT o + 4096⟩
  | .srai o => some ⟨0x1E, 1, ShiftI.encD o, ShiftI.encT o + 8192⟩
  | .rotli o => some ⟨0x1E, 1, ShiftI.encD o, ShiftI.encT o + 12288⟩
  | .li o => some ⟨0x1F, 1, GK16.encD o, GK16.encT o⟩
  | .liL2 o => some ⟨0x1F, 2, GK32.encD o, GK32.encT o⟩
  | .liL3 o => some ⟨0x1F, 3, GK64.encD o, GK64.encT o⟩
  | .addpc o => some ⟨0x20, 2, GK32.encD o, GK32.encT o⟩
  | .lea o => some ⟨0x21, 1, LeaM.encD o, LeaM.encT o⟩
  | .leaL2 o => some ⟨0x21, 2, LeaX.encD o, LeaX.encT o⟩
  | .clz o => some ⟨0x22, 1, GG.encD o, GG.encT o⟩
  | .ctz o => some ⟨0x23, 1, GG.encD o, GG.encT o⟩
  | .popc o => some ⟨0x24, 1, GG.encD o, GG.encT o⟩
  | .bswap o => some ⟨0x28, 1, GG.encD o, GG.encT o⟩
  | .sextB o => some ⟨0x27, 1, GG.encD o, GG.encT o⟩
  | .sextH o => some ⟨0x27, 1, GG.encD o, GG.encT o + 4096⟩
  | .sextW o => some ⟨0x27, 1, GG.encD o, GG.encT o + 8192⟩
  | .bext o => some ⟨0x25, 2, BitF.encD o, BitF.encT o⟩
  | .bins o => some ⟨0x26, 2, BitF.encD o, BitF.encT o⟩
  | .slti o => some ⟨0x29, 1, GGI8.encD o, GGI8.encT o⟩
  | .sltiL2 o => some ⟨0x29, 2, GGI24.encD o, GGI24.encT o⟩
  | .sltzi o => some ⟨0x29, 1, GGI8.encD o, GGI8.encT o + 64⟩
  | .sltziL2 o => some ⟨0x29, 2, GGI24.encD o, GGI24.encT o + 64⟩
  | .seqi o => some ⟨0x29, 1, GGI8.encD o, GGI8.encT o + 128⟩
  | .seqiL2 o => some ⟨0x29, 2, GGI24.encD o, GGI24.encT o + 128⟩
  | .beq o => some ⟨0x30, 2, BrB.encD o, BrB.encT o⟩
  | .bne o => some ⟨0x30, 2, BrB.encD o + 1, BrB.encT o⟩
  | .blt o => some ⟨0x30, 2, BrB.encD o + 2, BrB.encT o⟩
  | .bge o => some ⟨0x30, 2, BrB.encD o + 3, BrB.encT o⟩
  | .bltz o => some ⟨0x30, 2, BrB.encD o + 4, BrB.encT o⟩
  | .bgez o => some ⟨0x30, 2, BrB.encD o + 5, BrB.encT o⟩
  | .bzEqz o => some ⟨0x31, 2, BrZ.encD o, BrZ.encT o⟩
  | .bzNez o => some ⟨0x31, 2, BrZ.encD o + 1, BrZ.encT o⟩
  | .bzLtz o => some ⟨0x31, 2, BrZ.encD o + 2, BrZ.encT o⟩
  | .bzGez o => some ⟨0x31, 2, BrZ.encD o + 3, BrZ.encT o⟩
  | .bzGtz o => some ⟨0x31, 2, BrZ.encD o + 4, BrZ.encT o⟩
  | .bzLez o => some ⟨0x31, 2, BrZ.encD o + 5, BrZ.encT o⟩
  | .jmp o => some ⟨0x32, 2, Jmp.encD o, Jmp.encT o⟩
  | .call o => some ⟨0x33, 2, GJmp.encD o, GJmp.encT o⟩
  | .jr o => some ⟨0x34, 0, GD.encD o, GD.encT o⟩
  | .decb o => some ⟨0x35, 2, GJmp.encD o, GJmp.encT o⟩
  | .rep o => some ⟨0x36, 2, RepO.encD o, RepO.encT o⟩
  | .pause o => some ⟨0x37, 1, K16.encD o, K16.encT o⟩
  | .yield => some ⟨0x38, 0, 0, 0⟩
  | .exit => some ⟨0x39, 0, 0, 0⟩
  | .ld o => some ⟨0x40, 1, LdM.encD o, LdM.encT o⟩
  | .ldL2 o => some ⟨0x40, 2, LdX.encD o, LdX.encT o⟩
  | .lda o => some ⟨0x41, 2, LdaX.encD o, LdaX.encT o⟩
  | .ldfe o => some ⟨0x42, 2, FeX.encD o, FeX.encT o + 192⟩
  | .ldff o => some ⟨0x43, 1, LdffM.encD o, LdffM.encT o + 192⟩
  | .ldffL2 o => some ⟨0x43, 2, LdffX.encD o, LdffX.encT o + 192⟩
  | .st o => some ⟨0x44, 1, StM.encD o, StM.encT o⟩
  | .stL2 o => some ⟨0x44, 2, StX.encD o, StX.encT o⟩
  | .stl o => some ⟨0x45, 2, StlX.encD o, StlX.encT o⟩
  | .stef o => some ⟨0x46, 2, FeX.encD o, FeX.encT o + 192⟩
  | .feset o => some ⟨0x47, 1, FesetM.encD o, FesetM.encT o + 192⟩
  | .fesetL2 o => some ⟨0x47, 2, FesetX.encD o, FesetX.encT o + 192⟩
  | .fld o => some ⟨0x48, 1, FMemM.encD o, FMemM.encT o⟩
  | .fldL2 o => some ⟨0x48, 2, FMemX.encD o, FMemX.encT o⟩
  | .fst o => some ⟨0x49, 1, FMemM.encD o, FMemM.encT o⟩
  | .fstL2 o => some ⟨0x49, 2, FMemX.encD o, FMemX.encT o⟩
  | .ldp o => some ⟨0x4A, 1, PairM.encD o, PairM.encT o + 192⟩
  | .ldpL2 o => some ⟨0x4A, 2, PairX.encD o, PairX.encT o + 192⟩
  | .stp o => some ⟨0x4B, 1, PairM.encD o, PairM.encT o + 192⟩
  | .stpL2 o => some ⟨0x4B, 2, PairX.encD o, PairX.encT o + 192⟩
  | .fence o => some ⟨0x4C, 0, FenceO.encD o, FenceO.encT o⟩
  | .waita o => some ⟨0x4D, 2, WaitaX.encD o, WaitaX.encT o⟩
  | .pref o => some ⟨0x4E, 1, PrefM.encD o, PrefM.encT o⟩
  | .prefL2 o => some ⟨0x4E, 2, PrefX.encD o, PrefX.encT o⟩
  | .amoadd o => some ⟨0x50, 2, AtO.encD o, AtO.encT o⟩
  | .amoand o => some ⟨0x50, 2, AtO.encD o, AtO.encT o + 524288⟩
  | .amoor o => some ⟨0x50, 2, AtO.encD o, AtO.encT o + 1048576⟩
  | .amoxor o => some ⟨0x50, 2, AtO.encD o, AtO.encT o + 1572864⟩
  | .amomin o => some ⟨0x50, 2, AtO.encD o, AtO.encT o + 2097152⟩
  | .amomax o => some ⟨0x50, 2, AtO.encD o, AtO.encT o + 2621440⟩
  | .amominz o => some ⟨0x50, 2, AtO.encD o, AtO.encT o + 3145728⟩
  | .amomaxz o => some ⟨0x50, 2, AtO.encD o, AtO.encT o + 3670016⟩
  | .amoswap o => some ⟨0x50, 2, AtO.encD o, AtO.encT o + 4194304⟩
  | .cas o => some ⟨0x51, 2, AtO.encD o, AtO.encT o⟩
  | .fadda o => some ⟨0x52, 2, AtO.encD o, AtO.encT o⟩
  | .casp o => some ⟨0x53, 2, CaspO.encD o, CaspO.encT o + 12288⟩
  | .sbind o => some ⟨0x58, 2, SbindO.encD o, SbindO.encT o⟩
  | .sdim o => some ⟨0x59, 2, SdimR.encD o, SdimR.encT o⟩
  | .sdimL3 o => some ⟨0x59, 3, SdimW.encD o, SdimW.encT o⟩
  | .sidx o => some ⟨0x5A, 2, SidxR.encD o, SidxR.encT o⟩
  | .sidxL3 o => some ⟨0x5A, 3, SidxW.encD o, SidxW.encT o⟩
  | .sdir o => some ⟨0x5B, 1, SdirO.encD o, SdirO.encT o⟩
  | .sgo o => some ⟨0x5C, 0, Units.encD o, Units.encT o⟩
  | .sstop o => some ⟨0x5D, 0, Units.encD o, Units.encT o⟩
  | .sskip o => some ⟨0x5E, 1, UnitG.encD o, UnitG.encT o⟩
  | .spos o => some ⟨0x5F, 1, UnitG.encD o, UnitG.encT o⟩
  | .ssave o => some ⟨0x60, 1, UnitM.encD o, UnitM.encT o + 192⟩
  | .ssaveL2 o => some ⟨0x60, 2, UnitX.encD o, UnitX.encT o + 192⟩
  | .sload o => some ⟨0x61, 1, UnitM.encD o, UnitM.encT o + 192⟩
  | .sloadL2 o => some ⟨0x61, 2, UnitX.encD o, UnitX.encT o + 192⟩
  | .sisect o => some ⟨0x62, 1, SetO.encD o, SetO.encT o⟩
  | .sunion o => some ⟨0x63, 1, SetO.encD o, SetO.encT o⟩
  | .sstatPos o => some ⟨0x64, 1, UnitG.encD o, UnitG.encT o⟩
  | .sstatSt o => some ⟨0x64, 1, UnitG.encD o, UnitG.encT o + 64⟩
  | .scoord o => some ⟨0x65, 2, ScoordO.encD o, ScoordO.encT o⟩
  | .fadd o => some ⟨0x70, 1, FP3.encD o, FP3.encT o⟩
  | .faddL2 o => some ⟨0x70, 2, FP3R.encD o, FP3R.encT o⟩
  | .fsub o => some ⟨0x71, 1, FP3.encD o, FP3.encT o⟩
  | .fsubL2 o => some ⟨0x71, 2, FP3R.encD o, FP3R.encT o⟩
  | .fmul o => some ⟨0x72, 1, FP3.encD o, FP3.encT o⟩
  | .fmulL2 o => some ⟨0x72, 2, FP3R.encD o, FP3R.encT o⟩
  | .fma o => some ⟨0x73, 2, FP4R.encD o, FP4R.encT o⟩
  | .fms o => some ⟨0x73, 2, FP4R.encD o, FP4R.encT o + 2097152⟩
  | .fnma o => some ⟨0x73, 2, FP4R.encD o, FP4R.encT o + 4194304⟩
  | .fnms o => some ⟨0x73, 2, FP4R.encD o, FP4R.encT o + 6291456⟩
  | .fmin o => some ⟨0x74, 1, FP3.encD o, FP3.encT o⟩
  | .fminL2 o => some ⟨0x74, 2, FP3H.encD o, FP3H.encT o⟩
  | .fmax o => some ⟨0x75, 1, FP3.encD o, FP3.encT o⟩
  | .fmaxL2 o => some ⟨0x75, 2, FP3H.encD o, FP3H.encT o⟩
  | .fneg o => some ⟨0x76, 1, FP2.encD o, FP2.encT o⟩
  | .fnegL2 o => some ⟨0x76, 2, FP2H.encD o, FP2H.encT o⟩
  | .fabs o => some ⟨0x76, 2, FP2H.encD o, FP2H.encT o + 2097152⟩
  | .fcpsgn o => some ⟨0x76, 2, FP3H.encD o, FP3H.encT o + 4194304⟩
  | .feq o => some ⟨0x77, 1, FC3.encD o, FC3.encT o⟩
  | .feqL2 o => some ⟨0x77, 2, FC3H.encD o, FC3H.encT o⟩
  | .flt o => some ⟨0x77, 1, FC3.encD o, FC3.encT o + 16384⟩
  | .fltL2 o => some ⟨0x77, 2, FC3H.encD o, FC3H.encT o + 67108864⟩
  | .fle o => some ⟨0x77, 1, FC3.encD o, FC3.encT o + 32768⟩
  | .fleL2 o => some ⟨0x77, 2, FC3H.encD o, FC3H.encT o + 134217728⟩
  | .funo o => some ⟨0x77, 1, FC3.encD o, FC3.encT o + 49152⟩
  | .funoL2 o => some ⟨0x77, 2, FC3H.encD o, FC3H.encT o + 201326592⟩
  | .fclass o => some ⟨0x78, 1, FC2.encD o, FC2.encT o⟩
  | .fcvt o => some ⟨0x79, 1, CvtR.encD o, CvtR.encT o⟩
  | .fcvtL2 o => some ⟨0x79, 2, CvtX.encD o, CvtX.encT o⟩
  | .fcvti o => some ⟨0x7A, 1, CviR.encD o, CviR.encT o⟩
  | .fcvtiL2 o => some ⟨0x7A, 2, CviX.encD o, CviX.encT o⟩
  | .icvtf o => some ⟨0x7B, 1, IcvR.encD o, IcvR.encT o⟩
  | .icvtfL2 o => some ⟨0x7B, 2, IcvX.encD o, IcvX.encT o⟩
  | .fmvg o => some ⟨0x7C, 1, GF.encD o, GF.encT o⟩
  | .gmvf o => some ⟨0x7D, 1, FG.encD o, FG.encT o⟩
  | .fli o => some ⟨0x7E, 1, FK16.encD o, FK16.encT o⟩
  | .fliL2 o => some ⟨0x7E, 2, FK32.encD o, FK32.encT o⟩
  | .fliL3 o => some ⟨0x7E, 3, FK64.encD o, FK64.encT o⟩
  | .fsel o => some ⟨0x7F, 2, F4H.encD o, F4H.encT o⟩
  | .padd o => some ⟨0x80, 1, PE3.encD o, PE3.encT o⟩
  | .paddL2 o => some ⟨0x80, 2, PE3H.encD o, PE3H.encT o⟩
  | .psub o => some ⟨0x81, 1, PE3.encD o, PE3.encT o⟩
  | .psubL2 o => some ⟨0x81, 2, PE3H.encD o, PE3H.encT o⟩
  | .pmul o => some ⟨0x82, 1, PE3.encD o, PE3.encT o⟩
  | .pmulL2 o => some ⟨0x82, 2, PE3H.encD o, PE3H.encT o⟩
  | .pfma o => some ⟨0x83, 2, PE4H.encD o, PE4H.encT o⟩
  | .pmin o => some ⟨0x84, 1, PE3.encD o, PE3.encT o⟩
  | .pminL2 o => some ⟨0x84, 2, PE3H.encD o, PE3H.encT o⟩
  | .pmax o => some ⟨0x85, 1, PE3.encD o, PE3.encT o⟩
  | .pmaxL2 o => some ⟨0x85, 2, PE3H.encD o, PE3H.encT o⟩
  | .pdot o => some ⟨0x86, 2, PE4H.encD o, PE4H.encT o⟩
  | .psum o => some ⟨0x87, 1, PE3.encD o, PE3.encT o⟩
  | .psumL2 o => some ⟨0x87, 2, PE3H.encD o, PE3H.encT o⟩
  | .pshuf o => some ⟨0x88, 1, PE3.encD o, PE3.encT o⟩
  | .pshufL2 o => some ⟨0x88, 2, PE3H.encD o, PE3H.encT o⟩
  | .pbcast o => some ⟨0x89, 1, PBc.encD o, PBc.encT o⟩
  | .pbcastL2 o => some ⟨0x89, 2, PBcH.encD o, PBcH.encT o⟩
  | .ppack o => some ⟨0x8A, 1, PW3.encD o, PW3.encT o⟩
  | .ppackL2 o => some ⟨0x8A, 2, PW3H.encD o, PW3H.encT o⟩
  | .punpack o => some ⟨0x8B, 1, PW2.encD o, PW2.encT o⟩
  | .punpackL2 o => some ⟨0x8B, 2, PW2H.encD o, PW2H.encT o⟩
  | .pq o => some ⟨0x8C, 1, PW3.encD o, PW3.encT o⟩
  | .pqL2 o => some ⟨0x8C, 2, PW4H.encD o, PW4H.encT o⟩
  | .pdq o => some ⟨0x8D, 1, PW2.encD o, PW2.encT o⟩
  | .pdqL2 o => some ⟨0x8D, 2, PWcH.encD o, PWcH.encT o⟩
  | .peq o => some ⟨0x8E, 1, PE3.encD o, PE3.encT o⟩
  | .peqL2 o => some ⟨0x8E, 2, PE3H.encD o, PE3H.encT o⟩
  | .plt o => some ⟨0x8E, 1, PE3.encD o, PE3.encT o + 16384⟩
  | .pltL2 o => some ⟨0x8E, 2, PE3H.encD o, PE3H.encT o + 67108864⟩
  | .ple o => some ⟨0x8E, 1, PE3.encD o, PE3.encT o + 32768⟩
  | .pleL2 o => some ⟨0x8E, 2, PE3H.encD o, PE3H.encT o + 134217728⟩
  | .puno o => some ⟨0x8E, 1, PE3.encD o, PE3.encT o + 49152⟩
  | .punoL2 o => some ⟨0x8E, 2, PE3H.encD o, PE3H.encT o + 201326592⟩
  | .pand o => some ⟨0x8F, 1, F3.encD o, F3.encT o⟩
  | .pandL2 o => some ⟨0x8F, 2, F3H.encD o, F3H.encT o⟩
  | .por o => some ⟨0x8F, 1, F3.encD o, F3.encT o + 4096⟩
  | .porL2 o => some ⟨0x8F, 2, F3H.encD o, F3H.encT o + 16777216⟩
  | .pxor o => some ⟨0x8F, 1, F3.encD o, F3.encT o + 8192⟩
  | .pxorL2 o => some ⟨0x8F, 2, F3H.encD o, F3H.encT o + 33554432⟩
  | .pandn o => some ⟨0x8F, 1, F3.encD o, F3.encT o + 12288⟩
  | .pandnL2 o => some ⟨0x8F, 2, F3H.encD o, F3H.encT o + 50331648⟩
  | .pmov o => some ⟨0x90, 1, F2.encD o, F2.encT o⟩
  | .pmovL2 o => some ⟨0x90, 2, F2H.encD o, F2H.encT o⟩
  | .fmt o => some ⟨0x91, 2, K32.encD o, K32.encT o⟩
  | .frcp o => some ⟨0xA0, 1, FP2.encD o, FP2.encT o⟩
  | .frcpL2 o => some ⟨0xA0, 2, FP2H.encD o, FP2H.encT o⟩
  | .frsqrt o => some ⟨0xA1, 1, FP2.encD o, FP2.encT o⟩
  | .frsqrtL2 o => some ⟨0xA1, 2, FP2H.encD o, FP2H.encT o⟩
  | .fsqrt o => some ⟨0xA2, 1, FP2.encD o, FP2.encT o⟩
  | .fsqrtL2 o => some ⟨0xA2, 2, FP2H.encD o, FP2H.encT o⟩
  | .fdiv o => some ⟨0xA3, 1, FP3.encD o, FP3.encT o⟩
  | .fdivL2 o => some ⟨0xA3, 2, FP3H.encD o, FP3H.encT o⟩
  | .fexp2 o => some ⟨0xA4, 1, FS2.encD o, FS2.encT o⟩
  | .fexp2L2 o => some ⟨0xA4, 2, FS2H.encD o, FS2H.encT o⟩
  | .flog2 o => some ⟨0xA5, 1, FS2.encD o, FS2.encT o⟩
  | .flog2L2 o => some ⟨0xA5, 2, FS2H.encD o, FS2H.encT o⟩
  | .ftanh o => some ⟨0xA6, 1, FS2.encD o, FS2.encT o⟩
  | .ftanhL2 o => some ⟨0xA6, 2, FS2H.encD o, FS2H.encT o⟩
  | .fsigm o => some ⟨0xA7, 1, FS2.encD o, FS2.encT o⟩
  | .fsigmL2 o => some ⟨0xA7, 2, FS2H.encD o, FS2H.encT o⟩
  | .send o => some ⟨0xB0, 2, SendO.encD o, SendO.encT o⟩
  | .sendn o => some ⟨0xB0, 3, SendnO.encD o, SendnO.encT o⟩
  | .recv o => some ⟨0xB1, 1, RecvR.encD o, RecvR.encT o⟩
  | .recvL2 o => some ⟨0xB1, 2, RecvX.encD o, RecvX.encT o⟩
  | .recvTry o => some ⟨0xB1, 1, RecvR.encD o, RecvR.encT o + 256⟩
  | .recvTryL2 o => some ⟨0xB1, 2, RecvX.encD o, RecvX.encT o + 256⟩
  | .mstat o => some ⟨0xB2, 1, GCls.encD o, GCls.encT o⟩
  | .mstatL2 o => some ⟨0xB2, 2, GCls.encD o, GCls.encT o⟩
  | .mstatClr o => some ⟨0xB2, 1, GCls.encD o, GCls.encT o + 4096⟩
  | .mstatClrL2 o => some ⟨0xB2, 2, GCls.encD o, GCls.encT o + 16777216⟩
  | .qend o => some ⟨0xB3, 1, QendO.encD o + 48, QendO.encT o⟩
  | .qctlSt o => some ⟨0xB4, 1, QctlO.encD o, QctlO.encT o⟩
  | .qctlStL2 o => some ⟨0xB4, 2, QctlO.encD o, QctlO.encT o⟩
  | .qctlClr o => some ⟨0xB4, 1, QctlO.encD o, QctlO.encT o + 256⟩
  | .qctlClrL2 o => some ⟨0xB4, 2, QctlO.encD o, QctlO.encT o + 256⟩
  | .qctlBind o => some ⟨0xB4, 1, QctlO.encD o, QctlO.encT o + 512⟩
  | .qctlBindL2 o => some ⟨0xB4, 2, QctlO.encD o, QctlO.encT o + 512⟩
  | .qret => some ⟨0xB5, 0, 0, 0⟩
  | .get o => some ⟨0xB6, 3, XferO.encD o, XferO.encT o⟩
  | .put o => some ⟨0xB7, 3, XferO.encD o, XferO.encT o⟩
  | .getx o => some ⟨0xB8, 3, XferI.encD o, XferI.encT o⟩
  | .putx o => some ⟨0xB9, 3, XferI.encD o, XferI.encT o⟩
  | .cwait o => some ⟨0xBA, 1, CtrO.encD o, CtrO.encT o⟩
  | .cwaitL2 o => some ⟨0xBA, 2, CtrO.encD o, CtrO.encT o⟩
  | .cop o => some ⟨0xBB, 1, CtrO.encD o, CtrO.encT o⟩
  | .copL2 o => some ⟨0xBB, 2, CtrO.encD o, CtrO.encT o⟩
  | .mbind o => some ⟨0xBC, 3, MbindO.encD o, MbindO.encT o⟩
  | .gbarArr o => some ⟨0xC0, 1, GbarA.encD o, GbarA.encT o⟩
  | .gbarWait o => some ⟨0xC0, 1, GbarG.encD o + 4, GbarG.encT o⟩
  | .gbar o => some ⟨0xC0, 1, GbarG.encD o + 8, GbarG.encT o⟩
  | .gredSum o => some ⟨0xC1, 1, GredR.encD o, GredR.encT o⟩
  | .gredSumL2 o => some ⟨0xC1, 2, GredX.encD o, GredX.encT o⟩
  | .gredMin o => some ⟨0xC1, 1, GredR.encD o, GredR.encT o + 4096⟩
  | .gredMinL2 o => some ⟨0xC1, 2, GredX.encD o, GredX.encT o + 16777216⟩
  | .gredMax o => some ⟨0xC1, 1, GredR.encD o, GredR.encT o + 8192⟩
  | .gredMaxL2 o => some ⟨0xC1, 2, GredX.encD o, GredX.encT o + 33554432⟩
  | .gredAnd o => some ⟨0xC1, 1, GredR.encD o, GredR.encT o + 12288⟩
  | .gredAndL2 o => some ⟨0xC1, 2, GredX.encD o, GredX.encT o + 50331648⟩
  | .gredOr o => some ⟨0xC1, 1, GredR.encD o, GredR.encT o + 16384⟩
  | .gredOrL2 o => some ⟨0xC1, 2, GredX.encD o, GredX.encT o + 67108864⟩
  | .gcast o => some ⟨0xC2, 1, GcastR.encD o, GcastR.encT o⟩
  | .gcastL2 o => some ⟨0xC2, 2, GcastX.encD o, GcastX.encT o⟩
  | .gsum o => some ⟨0xC3, 2, GsumO.encD o, GsumO.encT o⟩
  | .semsig o => some ⟨0xC4, 1, SemR.encD o, SemR.encT o⟩
  | .semsigL2 o => some ⟨0xC4, 2, SemX.encD o, SemX.encT o⟩
  | .semwait o => some ⟨0xC5, 1, SemR.encD o, SemR.encT o⟩
  | .semwaitL2 o => some ⟨0xC5, 2, SemX.encD o, SemX.encT o⟩
  | .semread o => some ⟨0xC6, 1, GG.encD o, GG.encT o⟩
  | .semreadL2 o => some ⟨0xC6, 2, GG.encD o, GG.encT o⟩
  | .estatSt o => some ⟨0xC7, 1, GG.encD o, GG.encT o⟩
  | .estatStL2 o => some ⟨0xC7, 2, GG.encD o, GG.encT o⟩
  | .estatRec o => some ⟨0xC7, 1, GG.encD o, GG.encT o + 64⟩
  | .estatRecL2 o => some ⟨0xC7, 2, GG.encD o, GG.encT o + 64⟩
  | .estatRes o => some ⟨0xC7, 1, GG.encD o, GG.encT o + 128⟩
  | .estatResL2 o => some ⟨0xC7, 2, GG.encD o, GG.encT o + 128⟩
  | .estatDel o => some ⟨0xC7, 1, GG.encD o, GG.encT o + 192⟩
  | .estatDelL2 o => some ⟨0xC7, 2, GG.encD o, GG.encT o + 192⟩
  | .estatWin o => some ⟨0xC7, 1, GD.encD o, GD.encT o + 256⟩
  | .estatWinL2 o => some ⟨0xC7, 2, GD.encD o, GD.encT o + 256⟩
  | .estatQ o => some ⟨0xC7, 1, GD.encD o, GD.encT o + 320⟩
  | .estatQL2 o => some ⟨0xC7, 2, GD.encD o, GD.encT o + 320⟩
  | .evcRd o => some ⟨0xC8, 1, EvcN.encD o, EvcN.encT o⟩
  | .evcRdL2 o => some ⟨0xC8, 2, EvcN.encD o, EvcN.encT o⟩
  | .evcSet o => some ⟨0xC8, 1, EvcA.encD o, EvcA.encT o + 1024⟩
  | .evcSetL2 o => some ⟨0xC8, 2, EvcA.encD o, EvcA.encT o + 1024⟩
  | .evcRc o => some ⟨0xC8, 1, EvcN.encD o, EvcN.encT o + 2048⟩
  | .evcRcL2 o => some ⟨0xC8, 2, EvcN.encD o, EvcN.encT o + 2048⟩
  | .vbind o => some ⟨0xD0, 1, VbM.encD o, VbM.encT o + 192⟩
  | .vbindL2 o => some ⟨0xD0, 2, VbX.encD o, VbX.encT o + 192⟩
  | .vbindOff o => some ⟨0xD0, 1, VbOff.encD o + 4, VbOff.encT o⟩
  | .cld o => some ⟨0xD1, 2, CldO.encD o, CldO.encT o⟩
  | .cst o => some ⟨0xD2, 2, CvO.encD o, CvO.encT o⟩
  | .cprobe o => some ⟨0xD3, 2, CvO.encD o, CvO.encT o⟩
  | .camoadd o => some ⟨0xD4, 2, CamoO.encD o, CamoO.encT o⟩
  | .camoand o => some ⟨0xD4, 2, CamoO.encD o, CamoO.encT o + 16777216⟩
  | .camoor o => some ⟨0xD4, 2, CamoO.encD o, CamoO.encT o + 33554432⟩
  | .camoxor o => some ⟨0xD4, 2, CamoO.encD o, CamoO.encT o + 50331648⟩
  | .camomin o => some ⟨0xD4, 2, CamoO.encD o, CamoO.encT o + 67108864⟩
  | .camomax o => some ⟨0xD4, 2, CamoO.encD o, CamoO.encT o + 83886080⟩
  | .camominz o => some ⟨0xD4, 2, CamoO.encD o, CamoO.encT o + 100663296⟩
  | .camomaxz o => some ⟨0xD4, 2, CamoO.encD o, CamoO.encT o + 117440512⟩
  | .camoswap o => some ⟨0xD4, 2, CamoO.encD o, CamoO.encT o + 134217728⟩
  | .ccas o => some ⟨0xD4, 2, CamoO.encD o, CamoO.encT o + 150994944⟩
  | .cinv o => some ⟨0xD5, 1, CinvO.encD o, CinvO.encT o⟩
  | .cinvAll o => some ⟨0xD5, 1, CinvA.encD o + 32, CinvA.encT o⟩
  | .callocGet o => some ⟨0xD6, 1, CvO.encD o, CvO.encT o⟩
  | .callocCut o => some ⟨0xD6, 1, CvO.encD o, CvO.encT o + 256⟩
  | .callocFree o => some ⟨0xD6, 1, CfreeO.encD o, CfreeO.encT o + 512⟩
  | .callocNode o => some ⟨0xD6, 1, CnodeO.encD o, CnodeO.encT o + 768⟩
  | .cnbr o => some ⟨0xD7, 2, CvO.encD o, CvO.encT o⟩
  | .csrr o => some ⟨0xE0, 1, CsrR.encD o, CsrR.encT o⟩
  | .csrw o => some ⟨0xE1, 1, CsrA.encD o, CsrA.encT o⟩
  | .csrs o => some ⟨0xE2, 1, CsrA.encD o, CsrA.encT o⟩
  | .csrc o => some ⟨0xE3, 1, CsrA.encD o, CsrA.encT o⟩
  | .trap o => some ⟨0xE4, 1, K16.encD o, K16.encT o⟩
  | .tret => some ⟨0xE5, 0, 0, 0⟩
  | .brk => some ⟨0xE6, 0, 0, 0⟩
  | .brkL1 o => some ⟨0xE6, 1, K16.encD o, K16.encT o⟩
  | .tlbiPage o => some ⟨0xE7, 1, TlbP.encD o, TlbP.encT o⟩
  | .tlbiCtx o => some ⟨0xE7, 1, TlbC.encD o, TlbC.encT o + 64⟩
  | .tlbiAll o => some ⟨0xE7, 1, TlbA.encD o, TlbA.encT o + 128⟩
  | .tlbiRange o => some ⟨0xE7, 2, TlbR.encD o, TlbR.encT o + 192⟩
  | .ifence => some ⟨0xE8, 0, 0, 0⟩
  | .wfi => some ⟨0xE9, 0, 0, 0⟩
  | .ctxswReq => some ⟨0xEA, 1, 0, 0⟩
  | .ctxswFlush => some ⟨0xEA, 1, 1, 0⟩
  | .syscHold o => some ⟨0xEB, 1, GG.encD o, GG.encT o⟩
  | .syscRel o => some ⟨0xEB, 1, GD.encD o, GD.encT o + 64⟩
  | .syscWake o => some ⟨0xEB, 1, GG.encD o, GG.encT o + 128⟩
  | .syscStop o => some ⟨0xEB, 1, GG.encD o, GG.encT o + 192⟩
  | .fIssue _ => none
  | .fCommit _ => none
  | .sfuServiceStart => none
  | .sfuResultWrite => none
  | .divideComplete => none
  | .loadDataReturn _ => none
  | .lineFetchReturn _ => none
  | .storeDrain _ => none
  | .repReplayDispatch _ => none
  | .pauseExpiry _ => none
  | .trapEntry _ => none
  | .lightHandlerEntry _ => none
  | .streamRead _ _ => none
  | .ringFetch _ _ => none
  | .setOpPass _ _ => none
  | .feRemoteRetry _ => none
  | .waitaPoll _ => none
  | .syscHoldExpiry _ => none
  | .messageInject => none
  | .messageArrival _ => none
  | .messageAck _ => none
  | .messageNack _ => none
  | .messageRetryReady _ => none
  | .queueWordArrival _ => none
  | .transferComplete _ => none
  | .transferFailure _ _ => none
  | .mailboxLaunch _ => none
  | .commandAccept => none
  | .tumblerAdmit => none
  | .copy1d _ => none
  | .copy2d _ => none
  | .gather _ => none
  | .scatter _ => none
  | .fill _ => none
  | .notify _ => none
  | .zacc _ => none
  | .lacc _ => none
  | .sacc _ => none
  | .mma _ => none
  | .mmar _ => none
  | .qtile _ => none
  | .jobComplete _ => none
  | .jobFail _ => none
  | .tumblerStuck => none
  | .periodStart _ => none
  | .energyBudgetSpent => none
  | .teamPlace _ => none
  | .teamComplete _ => none
  | .teamAged _ => none
  | .switchIn _ _ => none
  | .clusterSave _ _ => none
  | .missPresent => none
  | .missResult => none
  | .pageinRequestArrival _ => none
  | .pageinResolve _ _ _ _ => none
  | .pageinWake _ => none
  | .doorbellTail _ _ => none
  | .qswSwitchIn _ _ => none
  | .qswSwitchOut _ => none
  | .qctlContinue _ => none
  | .qctlSkip _ => none
  | .semvWrite _ _ => none
  | .semaddWrite _ _ => none
  | .queueRecordWrite _ _ _ => none
  | .registerWrite _ _ => none
  | .keywayCommandRead _ _ => none
  | .queueAging _ => none
  | .knop _ => none
  | .klaunch _ => none
  | .kcopy _ => none
  | .kfill _ => none
  | .kwrite _ => none
  | .kintr _ => none
  | .kctx _ => none
  | .kclu _ => none
  | .kbudget _ => none
  | .kpool _ => none
  | .kpreempt _ => none
  | .kevict _ => none
  | .kabort _ => none
  | .msixUnmask _ => none
  | .bar2Read _ _ => none
  | .bar2Write _ _ => none
  | .barAtomicop _ _ => none
  | .hingeRetrain _ => none
  | .hingeCounterRead _ _ => none
  | .hingeRequestArrival _ _ => none
  | .loadObject => none
  | .translateAndLoad => none
  | .raiseFuseCounter => none
  | .attestationReport => none
  | .scrubPass _ _ => none
  | .pageRetire _ _ => none
  | .linkCrcReplay _ _ => none
  | .linkRetrain _ _ => none
  | .coreFence _ _ _ => none
  | .clusterFence _ _ => none
  | .dieFence _ => none
  | .coreRepair _ _ _ => none
  | .clusterRepair _ _ _ => none
  | .powerWindow _ => none
  | .thermalTrip => none
  | .powerOn _ => none
  | .coldStartRequest _ => none
  | .warmStartRequest _ => none
  | .startTimeout => none
  | .debugStop => none
  | .debugRun => none
  | .debugStep => none
  | .stepDone => none
  | .stepTimeout => none
  | .daccRead => none
  | .daccWrite => none
  | .dstatRead => none
  | .histSample _ => none
  | .intervalDump _ => none
  | .illegalInstruction _ _ => none
  | .linkTrainingComplete _ _ => none
  | .correctableErrorRecord _ _ _ => none

/-- Bytes of the tail for a length code (R41). -/
def tailBytes (l : Nat) : Nat := if l = 0 then 0 else 2 ^ l

/-- The value of the bytes, the first lowest (R3). -/
def leNat : List Byte → Nat
  | [] => 0
  | b :: bs => b.toNat + 256 * leNat bs

/-- `n` bytes of a value, the lowest first (R3). -/
def leBytes : Nat → Nat → List Byte
  | 0, _ => []
  | n + 1, v => BitVec.ofNat 8 v :: leBytes n (v / 256)

/-- Head i of a line, from its 64 bytes (R39). -/
def lineHead (bs : List Byte) (i : Nat) : Nat := leNat ((bs.drop (2 + 2 * i)).take 2)

/-- L of a head. -/
def headL (h : Nat) : Nat := bits h 6 2

/-- The number of heads of a line (Table 2.1). -/
def lineN (bs : List Byte) : Nat := bits (leNat (bs.take 2)) 11 5

/-- Tail bytes of the first k heads of a line. -/
def tailSum (bs : List Byte) : Nat → Nat
  | 0 => 0
  | k + 1 => tailSum bs k + tailBytes (headL (lineHead bs k))

/-- The line is legal (R42). -/
def lineLegal (bs : List Byte) : Bool :=
  let w := leNat (bs.take 2)
  let n := lineN bs
  decide (n ≠ 0) && decide (n ≠ 31) && zero w 8 3 && zero w 0 1 && decide (2 * n + 2 + tailSum bs n ≤ 64)

/-- The tail value of head i of a line: tails are packed downwards from byte 63 (R39, R41). -/
def lineTail (bs : List Byte) (i : Nat) : Nat :=
  leNat ((bs.drop (64 - tailSum bs (i + 1))).take (tailBytes (headL (lineHead bs i))))

/-- What head i of a legal line is (R41, R54). -/
def parseHead (bs : List Byte) (i : Nat) : Except DecodeError Parsed :=
  let h := lineHead bs i
  parseWord (bits h 8 8) (headL h) (bits h 0 6) (lineTail bs i)

/-- The instruction of head i of a legal line. -/
noncomputable def decodeHead (bs : List Byte) (i : Nat) : Except DecodeError Instr := (parseHead bs i).map Parsed.instr

/-- Head of an encoded instruction (Table 2.2). -/
def Enc.head (e : Enc) : Nat := e.op * 256 + e.l * 64 + e.d

/-- A line that holds one instruction and, where it falls short, nothing else (R39): line word, head, slack, tail. -/
def lineOf (e : Enc) : List Byte :=
  let tb := tailBytes e.l
  leBytes 2 (1 * 2048) ++ leBytes 2 e.head ++ List.replicate (60 - tb) 0 ++ leBytes tb e.tail

/-- The decoder on any bytes: those of one line, read at head 0; fewer bytes, or an illegal line, are refused (R42). -/
noncomputable def decode (bs : List Byte) : Except DecodeError Instr :=
  if bs.length = 64 && lineLegal bs then decodeHead bs 0 else .error .line

/-- The head and tail of the number by which the opcode table writes an instruction: the tail's bits lowest, the head
above them (its match values are written so); nbits is 16 for a head alone and 16 more than the tail's bits otherwise. -/
def encOfTable (nbits w : Nat) : Enc :=
  let tb := nbits - 16
  let h := bits w tb 16
  ⟨bits h 8 8, headL h, bits h 0 6, bits w 0 tb⟩

/-- The instruction the decoder reads from a word of the opcode table. -/
noncomputable def decodeTableWord (nbits w : Nat) : Option Instr :=
  match decode (lineOf (encOfTable nbits w)) with
  | .ok i => some i
  | .error _ => none

end Sys2Proof
end

