-- ==== Sys2Proof/Machine/FTypes.lean ====
section
/-! DEFINITION. F instructions as the queue holds them (R16, R49, R411): the fields of the head and of the tail in its RRX
form, and what one of them gives when it has completed. -/
namespace Sys2Proof.Machine

/-- A dispatched F instruction: OP, D, A, B, C, M8, SUB and the hold bits HA, HB, HC (bit 0 is HA). -/
structure FRaw where
  op : BitVec 8
  d : Reg
  a : Reg := 0
  b : Reg := 0
  c : Reg := 0
  m8 : BitVec 8 := 0
  sub : BitVec 3 := 0
  hold : BitVec 3 := 0
deriving DecidableEq, Repr

/-- What a completed F instruction gives: the value for its `v` destination, push or enqueue; the value for its `g`
destination; the flags; whether it drew stochastic bits (R90); the events of Table 3.9. -/
structure FResult where
  v : Option Word := none
  g : Option Word := none
  flags : Nat := 0
  draw : Bool := false
  nanE : Nat := 0
  ovfE : Nat := 0
  unfE : Nat := 0
  upE : Nat := 0
deriving DecidableEq, Repr

/-- Which kind of place a field of an F instruction names: nothing, an F register, a G register. -/
inductive FieldUse where
  | none
  | f
  | g
deriving DecidableEq, Repr

/-- Use of D (Table 7.1, and Table 5.1 for `fld` and `fst`, whose D is a source in `fst`). -/
def FRaw.dUse (r : FRaw) : FieldUse :=
  let o := r.op.toNat
  if o = 0x77 ∨ o = 0x78 ∨ o = 0x7A ∨ o = 0x7C then .g else if o = 0x49 ∨ o = 0x91 then .none else .f

/-- Use of A. -/
def FRaw.aUse (r : FRaw) : FieldUse :=
  let o := r.op.toNat
  if o = 0x7B ∨ o = 0x7D then .g
  else if o = 0x48 ∨ o = 0x7E ∨ o = 0x91 then .none
  else .f

/-- Use of B. -/
def FRaw.bUse (r : FRaw) : FieldUse :=
  let o := r.op.toNat
  if (0x70 ≤ o ∧ o ≤ 0x75) ∨ o = 0x77 ∨ (o = 0x76 ∧ r.sub.toNat = 2) ∨ o = 0x7F ∨ (0x80 ≤ o ∧ o ≤ 0x88) ∨ o = 0x8A
    ∨ o = 0x8C ∨ o = 0x8E ∨ o = 0x8F ∨ o = 0xA3 then .f else .none

/-- Use of C. -/
def FRaw.cUse (r : FRaw) : FieldUse :=
  let o := r.op.toNat
  if o = 0x73 ∨ o = 0x7F ∨ o = 0x83 ∨ o = 0x86 ∨ o = 0x8C ∨ o = 0x8D then .f else .none

/-- A packed instruction takes a descriptor (R201). -/
def FRaw.packed (r : FRaw) : Bool :=
  let o := r.op.toNat
  decide (0x80 ≤ o) && decide (o ≤ 0x8E)

/-- A special-function instruction (R209). -/
def FRaw.special (r : FRaw) : Bool :=
  let o := r.op.toNat
  decide (0xA0 ≤ o) && decide (o ≤ 0xA7)

/-- The F register codes of the sources in positions A, B, C; `fst` reads its data from D, in position A. -/
def FRaw.sources (r : FRaw) : List Nat :=
  (if r.op = 0x49 then [r.d.toNat] else if r.aUse = .f then [r.a.toNat] else [])
    ++ (if r.bUse = .f then [r.b.toNat] else []) ++ (if r.cUse = .f then [r.c.toNat] else [])

/-- The source registers with their positions 0 to 2 (A, B, C). -/
def FRaw.positions (r : FRaw) : List (Nat × Nat) :=
  (if r.op = 0x49 then [(0, r.d.toNat)] else if r.aUse = .f then [(0, r.a.toNat)] else [])
    ++ (if r.bUse = .f then [(1, r.b.toNat)] else []) ++ (if r.cUse = .f then [(2, r.c.toNat)] else [])

/-- The F register code of the destination. -/
def FRaw.dest (r : FRaw) : Option Nat := if r.dUse = .f then some r.d.toNat else none

/-- The G destination (R17). -/
def FRaw.gDest (r : FRaw) : Option Nat := if r.dUse = .g then some r.d.toNat else none

end Sys2Proof.Machine
end

