-- ==== Sys2Proof/Machine/Num.lean ====
section
/-! DEFINITION. Number formats and rounding (chapter 03): formats (R69 to R73), values of element codes, exact numbers,
round_fmt (R87), stochastic bits (R88), results written into a format (R89, Table 3.7) with their flags (R94). -/
namespace Sys2Proof.Machine

/-- A format (R69): a sign bit or not, exponent and mantissa widths, bias, special-value mode. -/
structure Fmt where
  s : Bool
  ew : Nat
  mw : Nat
  bias : Int
  spm : Nat
deriving DecidableEq, Repr

/-- Bits of a code of the format. -/
def Fmt.width (f : Fmt) : Nat := (if f.s then 1 else 0) + f.ew + f.mw

/-- The fixed formats of Table 3.1. -/
def fp64 : Fmt := ⟨true, 11, 52, 1023, 2⟩
def fp32 : Fmt := ⟨true, 8, 23, 127, 2⟩
def fp16 : Fmt := ⟨true, 5, 10, 15, 2⟩
def bf16 : Fmt := ⟨true, 8, 7, 127, 2⟩
/-- The FMT codes 0 to 9 of Table 3.1. -/
def fixedFmt : Nat → Fmt
  | 0 => fp32
  | 1 => fp16
  | 2 => bf16
  | 3 => ⟨true, 5, 2, 15, 2⟩
  | 4 => ⟨true, 4, 3, 7, 1⟩
  | 5 => ⟨true, 3, 2, 3, 0⟩
  | 6 => ⟨true, 2, 3, 1, 0⟩
  | 7 => ⟨true, 2, 1, 1, 0⟩
  | 8 => ⟨true, 0, 7, 0, 0⟩
  | _ => ⟨true, 0, 3, 0, 0⟩

/-- A w-bit number read as two's complement. -/
def toSigned (x w : Nat) : Int := if x / 2 ^ (w - 1) % 2 = 1 then (x % 2 ^ w : Int) - 2 ^ w else (x % 2 ^ w : Nat)

/-- The format an element format descriptor describes (Table 3.6). -/
def descFmt (d : Nat) : Fmt :=
  if bits d 0 4 = 15 then ⟨bits d 12 1 == 1, bits d 13 3, bits d 16 3, toSigned (bits d 19 9) 9, bits d 28 2⟩
  else fixedFmt (bits d 0 4)

/-- A descriptor is valid (R80). -/
def descValid (d : Nat) : Bool :=
  let fmt := bits d 0 4
  let bs := bits d 8 3
  let ew := bits d 13 3
  let mw := bits d 16 3
  let spm := bits d 28 2
  let w := bits d 12 1 + ew + mw
  (decide (fmt ≤ 9) || fmt == 15) && bits d 4 3 != 7 && decide (bs ≤ 5) && zero d 11 1 && zero d 30 2
    && (decide (3 ≤ fmt) || bs == 0)
    && (if fmt = 15 then decide (1 ≤ w) && decide (w ≤ 8) && spm != 3 && (ew != 0 || spm == 0)
          && (spm != 2 || (decide (2 ≤ ew) && decide (1 ≤ mw)))
        else zero d 12 18)

/-- Width of the container of a lane (Table 3.5). -/
def Fmt.container (f : Fmt) : Nat :=
  let w := f.width
  if w ≤ 4 then 4 else if w ≤ 6 then 6 else if w ≤ 8 then 8 else if w ≤ 16 then 16 else if w ≤ 32 then 32 else 64

/-- Lanes in 64 bits (Table 3.5). -/
def Fmt.lanes (f : Fmt) : Nat := 64 / f.container

/-- The code in lane i of a 64-bit image (R77). -/
def Fmt.lane (f : Fmt) (x i : Nat) : Nat := bits x (f.container * i) f.width

/-- An exact value: NaN, an infinity, or ±m × 2^e, with m = 0 a zero of that sign. -/
inductive FNum where
  | nan (signalling : Bool)
  | inf (neg : Bool)
  | fin (neg : Bool) (m : Nat) (e : Int)
deriving DecidableEq, Repr

def FNum.isNan : FNum → Bool
  | .nan _ => true
  | _ => false
def FNum.isSig : FNum → Bool
  | .nan b => b
  | _ => false
def FNum.isInf : FNum → Bool
  | .inf _ => true
  | _ => false
def FNum.isZero : FNum → Bool
  | .fin _ m _ => m == 0
  | _ => false
/-- The sign of a number that is no NaN. -/
def FNum.neg : FNum → Bool
  | .nan _ => false
  | .inf n => n
  | .fin n _ _ => n
def FNum.negate : FNum → FNum
  | .nan b => .nan b
  | .inf n => .inf (!n)
  | .fin n m e => .fin (!n) m e
def FNum.zeroPos : FNum := .fin false 0 0

/-- `elem_value` (R69); a NaN of a format of 16 bits or more whose top mantissa bit is 0 signals (R74). -/
def elemValue (f : Fmt) (c : Nat) : FNum :=
  let neg := f.s && bits c (f.ew + f.mw) 1 == 1
  let m := bits c 0 f.mw
  if f.ew = 0 then
    if neg then .fin true (2 ^ f.mw - m) (-f.bias) else .fin false m (-f.bias)
  else
    let e := bits c f.mw f.ew
    if f.spm = 2 ∧ e = 2 ^ f.ew - 1 then
      if m = 0 then .inf neg else .nan (decide (16 ≤ f.width) && decide (m < 2 ^ (f.mw - 1)))
    else if f.spm = 1 ∧ e = 2 ^ f.ew - 1 ∧ m = 2 ^ f.mw - 1 then .nan false
    else if e = 0 then .fin neg m (1 - f.bias - f.mw)
    else .fin neg (2 ^ f.mw + m) (e - f.bias - f.mw)

/-- Largest magnitude code of a floating format (Table 3.4). -/
def Fmt.maxCode (f : Fmt) : Nat :=
  if f.spm = 2 then (2 ^ f.ew - 1) * 2 ^ f.mw - 1
  else if f.spm = 1 then 2 ^ (f.ew + f.mw) - 2
  else 2 ^ (f.ew + f.mw) - 1

/-- Canonical NaN of SPM 1 and 2 (Table 3.4). -/
def Fmt.nanCode (f : Fmt) : Nat :=
  if f.spm = 2 then (2 ^ f.ew - 1) * 2 ^ f.mw + 2 ^ (f.mw - 1) else 2 ^ (f.ew + f.mw) - 1

/-- Code of an infinity's magnitude in SPM 2. -/
def Fmt.infCode (f : Fmt) : Nat := (2 ^ f.ew - 1) * 2 ^ f.mw

/-- A magnitude code with its sign. -/
def Fmt.withSign (f : Fmt) (neg : Bool) (c : Nat) : Nat := if f.s && neg then 2 ^ (f.ew + f.mw) + c else c

/-! Flags in the order of FFLAGS (Table 1.9). -/
def flNX : Nat := 1
def flUF : Nat := 2
def flOF : Nat := 4
def flDZ : Nat := 8
def flNV : Nat := 16

/-- A nonzero magnitude m × 2^e rounded to a multiple of 2^q (R87): the multiple, whether it differs, whether the
rounding went away from zero. -/
def roundAt (neg : Bool) (m : Nat) (e q : Int) (mode r : Nat) : Nat × Bool × Bool :=
  if q ≤ e then (m * 2 ^ (e - q).toNat, false, false)
  else
    let k := (q - e).toNat
    let n := m / 2 ^ k
    let f := m % 2 ^ k
    let up := f != 0 && (
      if mode = 0 then decide (2 ^ k < 2 * f) || (decide (2 * f = 2 ^ k) && decide (n % 2 = 1))
      else if mode = 2 then neg
      else if mode = 3 then !neg
      else if mode = 4 then decide (2 ^ k ≤ 2 * f)
      else if mode = 5 then decide (2 ^ 20 ≤ f * 2 ^ 20 / 2 ^ k + r)
      else false)
    (if up then n + 1 else n, f != 0, up && mode == 5)

/-- The exponent of the quantum of `round_fmt` (R87). -/
def quantum (f : Fmt) (m : Nat) (e : Int) : Int :=
  if f.ew = 0 then -f.bias else max ((Nat.log2 m : Int) + e) (1 - f.bias) - f.mw

/-- What a write of a result into a format gives: the code, the flags, and whether a stochastic rounding went away from
zero (Table 3.9). -/
structure Written where
  code : Nat
  flags : Nat
  up : Bool
deriving DecidableEq, Repr

/-- Flag bits together. -/
def orFlags (a b : Nat) : Nat := a ||| b

/-- The result of an integer destination of w bits, signed or not, after rounding to n × its quantum (R89, R76). -/
def writeInt (signed : Bool) (w : Nat) (neg : Bool) (n : Nat) (inexact up : Bool) : Written :=
  if neg && n != 0 && !signed then ⟨0, flNV, up⟩
  else
    let lim := if signed then (if neg then 2 ^ (w - 1) else 2 ^ (w - 1) - 1) else 2 ^ w - 1
    if lim < n then ⟨if neg then 2 ^ (w - 1) else lim, flNV, up⟩
    else ⟨if neg then (2 ^ w - n) % 2 ^ w else n, if inexact then flNX else 0, up⟩

/-- Tininess after rounding with an unbounded exponent range (R94). -/
def tiny (f : Fmt) (neg : Bool) (m : Nat) (e : Int) (mode r : Nat) : Bool :=
  let q := (Nat.log2 m : Int) + e - f.mw
  let n := (roundAt neg m e q mode r).1
  decide ((Nat.log2 n : Int) + q < 1 - f.bias)

/-- `to_code` (R189): an exact value, with NV when the operation was invalid or a source signalled, written into a format
under Table 3.7. -/
def toCode (x : FNum) (nv : Bool) (f : Fmt) (sat : Bool) (mode r : Nat) : Written :=
  let b := if nv then flNV else 0
  match x with
  | .nan _ =>
    if f.ew = 0 ∨ f.spm = 0 then ⟨0, flNV, false⟩ else ⟨f.nanCode, b, false⟩
  | .inf neg =>
    if f.ew = 0 then
      if neg then ⟨if f.s then 2 ^ f.mw else 0, orFlags b flNV, false⟩ else ⟨2 ^ f.mw - 1, orFlags b flNV, false⟩
    else if neg && !f.s then ⟨0, orFlags b flNV, false⟩
    else if f.spm = 2 ∧ sat = false then ⟨f.withSign neg f.infCode, b, false⟩
    else if f.spm = 1 ∧ sat = false then ⟨f.nanCode, orFlags b flNV, false⟩
    else ⟨f.withSign neg f.maxCode, orFlags b flNX, false⟩
  | .fin neg m e =>
    if m = 0 then ⟨if f.ew = 0 then 0 else f.withSign neg 0, b, false⟩
    else
      let q := quantum f m e
      let (n, inexact, up) := roundAt neg m e q mode r
      if f.ew = 0 then
        let w := writeInt f.s (f.mw + (if f.s then 1 else 0)) neg n inexact up
        ⟨w.code, orFlags b w.flags, up⟩
      else if neg && !f.s then
        if n = 0 then ⟨0, orFlags b flNX, up⟩ else ⟨0, orFlags b flNV, up⟩
      else
        let k := Nat.log2 n
        let code : Nat := if n < 2 ^ f.mw then n else
          ((k : Int) + q + f.bias).toNat * 2 ^ f.mw + (n / 2 ^ (k - f.mw) - 2 ^ f.mw)
        if f.maxCode < code then
          let toInf := mode = 0 ∨ mode = 4 ∨ mode = 5 ∨ (mode = 2 ∧ neg) ∨ (mode = 3 ∧ ¬ neg)
          let fl := orFlags b (orFlags flOF flNX)
          if f.spm = 0 ∨ sat ∨ ¬ toInf then ⟨f.withSign neg f.maxCode, fl, up⟩
          else if f.spm = 2 then ⟨f.withSign neg f.infCode, fl, up⟩
          else ⟨f.nanCode, fl, up⟩
        else
          let fl := if inexact then (if tiny f neg m e mode r then orFlags flNX flUF else flNX) else 0
          ⟨f.withSign neg code, orFlags b fl, up⟩

/-- `mix64` (R88). -/
def mix64 (x : Nat) : Nat :=
  let m := 2 ^ 64
  let x := (x ^^^ (x / 2 ^ 30)) * 0xBF58476D1CE4E5B9 % m
  let x := (x ^^^ (x / 2 ^ 27)) * 0x94D049BB133111EB % m
  x ^^^ (x / 2 ^ 31)

/-- `stoch_bits` (R88). -/
def stochBits (seed c lane : Nat) : Nat :=
  let m := 2 ^ 64
  mix64 (((seed ^^^ (c * 0x9E3779B97F4A7C15 % m)) + lane) % m) % 2 ^ 20

/-- An exact result and whether forming it was invalid (R189). -/
structure Exact where
  v : FNum
  nv : Bool
deriving DecidableEq, Repr

/-- An exact product (R92, R192): an infinity times zero is invalid. -/
def mulEx (a b : FNum) : Exact :=
  match a, b with
  | .fin na ma ea, .fin nb mb eb => ⟨.fin (xor na nb) (ma * mb) (ea + eb), false⟩
  | _, _ =>
    if a.isNan || b.isNan then ⟨.nan false, a.isSig || b.isSig⟩
    else if a.isZero || b.isZero then ⟨.nan false, true⟩
    else ⟨.inf (xor a.neg b.neg), false⟩

/-- The signed integer of a finite term at the scale 2^e0. -/
def FNum.scaled (e0 : Int) : FNum → Int
  | .fin n m e => let x : Int := m * 2 ^ (e - e0).toNat; if n then -x else x
  | _ => 0

/-- Exponent of a finite term that is not zero. -/
def FNum.expo (d : Int) : FNum → Int
  | .fin _ m e => if m = 0 then d else e
  | _ => d

/-- An exact sum of terms, each with its own NV (R92, R75); `mode` decides the sign of an exact zero. -/
def sumEx (ts : List Exact) (mode : Nat) : Exact :=
  let nv := ts.any (·.nv)
  let vs := ts.map (·.v)
  let bothInf := vs.any (fun v => v.isInf && v.neg) && vs.any (fun v => v.isInf && !v.neg)
  if vs.any FNum.isNan then ⟨.nan false, nv || vs.any FNum.isSig || bothInf⟩
  else if bothInf then ⟨.nan false, true⟩
  else if vs.any FNum.isInf then ⟨.inf (vs.any fun v => v.isInf && v.neg), nv⟩
  else
    let big : Int := 1000000
    let e0 : Int := vs.foldl (fun acc v => min acc (v.expo big)) big
    let e0 : Int := if e0 = big then 0 else e0
    let t : Int := vs.foldl (fun acc v => acc + v.scaled e0) 0
    if t = 0 then
      let allNeg := vs.all FNum.neg
      let allPos := vs.all fun v => !v.neg
      ⟨.fin (allNeg || (mode == 2 && !allPos)) 0 0, nv⟩
    else ⟨.fin (decide (t < 0)) t.natAbs e0, nv⟩

/-- A source as a term of a sum: a signalling NaN adds NV (R192). -/
def term (a : FNum) : Exact := ⟨a, a.isSig⟩

/-- -1, 0 or 1 as a is below, equal to or above b; neither is a NaN; -0 equals +0. -/
def cmpNum (a b : FNum) : Int :=
  match a, b with
  | .inf na, .inf nb => if na == nb then 0 else if na then -1 else 1
  | .inf na, _ => if na then -1 else 1
  | _, .inf nb => if nb then 1 else -1
  | _, _ =>
    let e0 := min (a.expo 1000000) (b.expo 1000000)
    let x := a.scaled e0
    let y := b.scaled e0
    if x < y then -1 else if x = y then 0 else 1

end Sys2Proof.Machine
end

