-- ==== Sys2Proof/Machine/SpecialFn.lean ====
section
/-! DEFINITION. The special functions (R209, Table 7.7) as exact values cut after enough bits: a nonzero remainder is kept as
a lowest bit of 1 (a sticky bit), so that rounding to nearest-even gives the representable value nearest the exact one.
The transcendental functions are computed with an error far below 2^-200 (log 11). -/
namespace Sys2Proof.Machine

/-- Result of a special function: the value, NV and DZ. -/
structure Sfu where
  v : FNum
  nv : Bool
  dz : Bool
deriving DecidableEq, Repr

def sfuNan (nv : Bool) : Sfu := ⟨.nan false, nv, false⟩

/-- m with a sticky lowest bit. -/
def sticky (m : Nat) (rest : Bool) : Nat := 2 * m + if rest then 1 else 0

/-- The quotient of two positive magnitudes to at least 150 bits. -/
def quot (neg : Bool) (ma : Nat) (ea : Int) (mb : Nat) (eb : Int) : FNum :=
  let k := 150 + Nat.log2 mb
  let n := ma * 2 ^ k
  .fin neg (sticky (n / mb) (n % mb != 0)) (ea - eb - k - 1)

/-- The square root of a positive magnitude to at least 150 bits. -/
def root (m : Nat) (e : Int) : FNum :=
  let k : Nat := if (e - 320) % 2 = 0 then 320 else 321
  let n := m * 2 ^ k
  let s := Nat.sqrt n
  .fin false (sticky s (s * s != n)) ((e - k) / 2 - 1)

/-- The reciprocal square root of a positive magnitude: the root of the quotient 1 / x, both cut with sticky bits. -/
def rroot (m : Nat) (e : Int) : FNum :=
  let k : Nat := 400 + 2 * Nat.log2 m
  let k : Nat := if (k + e) % 2 = 0 then k else k + 1
  let n := 2 ^ k
  let q := n / m
  let s := Nat.sqrt q
  .fin false (sticky s (s * s * m != n)) ((-e - k) / 2 - 1)

def fdivFn (a b : FNum) : Sfu :=
  match a, b with
  | .fin na ma ea, .fin nb mb eb =>
    if ma = 0 ∧ mb = 0 then sfuNan true
    else if mb = 0 then ⟨.inf (xor na nb), false, true⟩
    else if ma = 0 then ⟨.fin (xor na nb) 0 0, false, false⟩
    else ⟨quot (xor na nb) ma ea mb eb, false, false⟩
  | _, _ =>
    if a.isNan || b.isNan then sfuNan (a.isSig || b.isSig)
    else if a.isInf && b.isInf then sfuNan true
    else if a.isInf then ⟨.inf (xor a.neg b.neg), false, false⟩
    else ⟨.fin (xor a.neg b.neg) 0 0, false, false⟩

def frcpFn (a : FNum) : Sfu :=
  match a with
  | .nan b => sfuNan b
  | .inf n => ⟨.fin n 0 0, false, false⟩
  | .fin n m e => if m = 0 then ⟨.inf n, false, true⟩ else ⟨quot n 1 0 m e, false, false⟩

def fsqrtFn (a : FNum) : Sfu :=
  match a with
  | .nan b => sfuNan b
  | .inf n => if n then sfuNan true else ⟨.inf false, false, false⟩
  | .fin n m e => if m = 0 then ⟨.fin n 0 0, false, false⟩ else if n then sfuNan true else ⟨root m e, false, false⟩

def frsqrtFn (a : FNum) : Sfu :=
  match a with
  | .nan b => sfuNan b
  | .inf n => if n then sfuNan true else ⟨.fin false 0 0, false, false⟩
  | .fin n m e => if m = 0 then ⟨.inf n, false, true⟩ else if n then sfuNan true else ⟨rroot m e, false, false⟩

/-! Fixed point with 320 fraction bits. -/

def fxBits : Nat := 320
def fxOne : Nat := 2 ^ fxBits
/-- floor(ln 2 × 2^320). -/
def ln2Fx : Nat := 1480553391661173448385607439722553250922680800745876974795605978609098082859138712941075737848984
/-- floor(2^320 / ln 2). -/
def log2eFx : Nat := 3081577904126213121686167198097690134163479766071396094403848907535455306605342191083616308484524

/-- Taylor terms of e^x from term k on, `n` of them; `t` is term k. -/
def expTerms (x : Nat) : Nat → Nat → Nat → Nat
  | 0, _, _ => 0
  | n + 1, k, t => t + expTerms x n (k + 1) (t * x / fxOne / (k + 1))

/-- 2^f for a fraction f in [0, 1) of 320 bits, as a fixed-point number in [1, 2). -/
def exp2Fx (f : Nat) : Nat := expTerms (f * ln2Fx / fxOne) 90 0 fxOne

/-- Terms of atanh z = z + z^3/3 + ..., `n` of them; `t` is z^(2k+1). -/
def atanhTerms (z2 : Nat) : Nat → Nat → Nat → Nat
  | 0, _, _ => 0
  | n + 1, k, t => t / (2 * k + 1) + atanhTerms z2 n (k + 1) (t * z2 / fxOne)

/-- ln y for y = m / 2^k in [1, 2), in fixed point. -/
def lnFx (m k : Nat) : Nat :=
  let d := 2 ^ k
  let z := (m - d) * fxOne / (m + d)
  2 * atanhTerms (z * z / fxOne) 110 0 z

/-- m × 2^e as a fixed-point number (cut). -/
def toFx (m : Nat) (e : Int) : Nat :=
  if 0 ≤ e + fxBits then m * 2 ^ (e + fxBits).toNat else m / 2 ^ (-(e + fxBits)).toNat

def fexp2Fn (a : FNum) : Sfu :=
  match a with
  | .nan b => sfuNan b
  | .inf n => if n then ⟨.fin false 0 0, false, false⟩ else ⟨.inf false, false, false⟩
  | .fin n m e =>
    if m = 0 then ⟨.fin false 1 0, false, false⟩
    else if 10 ≤ (Nat.log2 m : Int) + e then ⟨.fin false 3 (if n then -1026 else 1024), false, false⟩
    else
      let x : Int := toFx m e
      let x := if n then -x else x
      let i := x / (fxOne : Nat)
      let f := (x % (fxOne : Nat)).toNat
      if f = 0 then ⟨.fin false 1 i, false, false⟩ else ⟨.fin false (sticky (exp2Fx f) true) (i - fxBits - 1), false, false⟩

def flog2Fn (a : FNum) : Sfu :=
  match a with
  | .nan b => sfuNan b
  | .inf n => if n then sfuNan true else ⟨.inf false, false, false⟩
  | .fin n m e =>
    if m = 0 then ⟨.inf true, false, true⟩
    else if n then sfuNan true
    else
      let k := Nat.log2 m
      let i := (k : Int) + e
      if m = 2 ^ k then (if i = 0 then ⟨.fin false 0 0, false, false⟩ else ⟨.fin (decide (i < 0)) i.natAbs 0, false, false⟩)
      else
        let t : Int := i * (fxOne : Nat) + (lnFx m k * log2eFx / fxOne : Nat)
        ⟨.fin (decide (t < 0)) (sticky t.natAbs true) (-(fxBits : Int) - 1), false, false⟩

/-- e^x for a signed fixed-point x, as a mantissa of 320 fraction bits and a power of two. -/
def expPair (x : Int) : Nat × Int :=
  let y := x * (log2eFx : Nat) / (fxOne : Nat)
  (exp2Fx (y % (fxOne : Nat)).toNat, y / (fxOne : Nat))

def ftanhFn (a : FNum) : Sfu :=
  match a with
  | .nan b => sfuNan b
  | .inf n => ⟨.fin n 1 0, false, false⟩
  | .fin n m e =>
    let s := (Nat.log2 m : Int) + e
    if m = 0 then ⟨.fin n 0 0, false, false⟩
    else if s < -60 then ⟨.fin n (m * 2 ^ 100 - 1) (e - 100), false, false⟩
    else if 6 ≤ s then ⟨.fin n (2 ^ 100 - 1) (-100), false, false⟩
    else
      let (p, i) := expPair (2 * (toFx m e : Int))
      let big := p * 2 ^ i.toNat
      let num := big - fxOne
      let den := big + fxOne
      ⟨.fin n (sticky (num * fxOne / den) true) (-(fxBits : Int) - 1), false, false⟩

def fsigmFn (a : FNum) : Sfu :=
  match a with
  | .nan b => sfuNan b
  | .inf n => if n then ⟨.fin false 0 0, false, false⟩ else ⟨.fin false 1 0, false, false⟩
  | .fin n m e =>
    if m = 0 then ⟨.fin false 1 (-1), false, false⟩
    else if 9 ≤ (Nat.log2 m : Int) + e then
      (if n then ⟨.fin false 1 (-600), false, false⟩ else ⟨.fin false (2 ^ 100 - 1) (-100), false, false⟩)
    else
      let x : Int := toFx m e
      -- 1 / (1 + E) with E = e^(-a) = p × 2^i: the fraction is 2^(320 - i) / (2^(320 - i) + p), for either sign of i.
      let (p, i) := expPair (if n then x else -x)
      let one := fxOne * 2 ^ (-i).toNat
      let ee := p * 2 ^ i.toNat
      ⟨.fin false (sticky (one * fxOne * 2 ^ 600 / (one + ee)) true) (-(fxBits : Int) - 601), false, false⟩

end Sys2Proof.Machine
end

