-- ==== Sys2Proof/Machine/FloatOps.lean ====
section
/-! DEFINITION. What each F instruction computes (chapter 07), as a function of its operand words, its payload, the rounding
mode and the stochastic seed and count: scalar and packed arithmetic, compares, conversions, special functions. -/
namespace Sys2Proof.Machine

/-- The surroundings of one F instruction: `RMODE.RM`, `SRSEED` and the count c of R90. -/
structure FEnv where
  rm : Nat
  seed : Nat
  cnt : Nat
deriving DecidableEq, Repr

/-- One lane's code with what it adds to flags, draws and events. -/
structure Lane where
  code : Nat
  flags : Nat := 0
  draw : Bool := false
  nanE : Bool := false
  up : Bool := false
deriving DecidableEq, Repr

/-- A lane written through `to_code` (R189): it draws when it rounds under mode 5 (R90). -/
def lane (e : FEnv) (x : Exact) (srcNan : Bool) (f : Fmt) (sat : Bool) (mode i : Nat) : Lane :=
  let w := toCode x.v x.nv f sat mode (stochBits e.seed e.cnt i)
  let rounds := match x.v with
    | .fin _ m _ => m != 0
    | _ => false
  ⟨w.code, w.flags, decide (mode = 5) && rounds, (elemValue f w.code).isNan && !srcNan, w.up⟩

/-- A lane that writes bits as they are. -/
def rawLane (c : Nat) : Lane := { code := c }

/-- The lanes put together: the OR of the flags (R94), the counts of Table 3.9. -/
def gather (v : Option Word) (g : Option Word) (ls : List Lane) : FResult :=
  { v := v, g := g
    flags := ls.foldl (fun a l => orFlags a l.flags) 0
    draw := ls.any (·.draw)
    nanE := ls.countP (·.nanE)
    ovfE := ls.countP fun l => l.flags / flOF % 2 == 1
    unfE := ls.countP fun l => l.flags / flUF % 2 == 1
    upE := ls.countP (·.up) }

/-- Lane codes of width w placed from bit 0 upwards. -/
def place (w : Nat) : List Lane → Nat
  | [] => 0
  | l :: ls => l.code % 2 ^ w + 2 ^ w * place w ls

def mkV (n : Nat) : Option Word := some (BitVec.ofNat 64 n)

/-- The mode of an instruction without a descriptor: RND - 1, or `RMODE.RM` (R192). -/
def rndMode (e : FEnv) (rnd : Nat) : Nat := if rnd = 0 then e.rm else rnd - 1

/-- The format of a precision (R186): FP64 for PR 0, FP32 otherwise. -/
def prFmt (pr : Nat) : Fmt := if pr = 0 then fp64 else fp32

/-- The scalar formats SF, DF, WF (Table 7.2). -/
def scalarFmt : Nat → Fmt
  | 0 => fp64
  | 1 => fp32
  | 2 => fp16
  | _ => bf16

/-- The raw bits of lane i of precision pr. -/
def prBits (x i pr : Nat) : Nat := if pr = 0 then x % 2 ^ 64 else bits x (32 * i) 32

/-- `val` (R189). -/
def val (x i pr : Nat) : FNum := elemValue (prFmt pr) (prBits x i pr)

/-- Lanes of a precision: one, or two for `.ps` (R186). -/
def prLanes (pr : Nat) : List Nat := if pr = 2 then [0, 1] else [0]

/-- A scalar result over the lanes of a precision, placed under R186. -/
def scalar (pr : Nat) (f : Nat → Lane) : FResult :=
  let ls := (prLanes pr).map f
  gather (mkV (place (if pr = 0 then 64 else 32) ls)) none ls

/-- The exact sum of R192 and R193; a signalling source adds NV. -/
def addEx (a b : FNum) (mode : Nat) : Exact := sumEx [term a, term b] mode

/-- a × b with the NV of signalling sources. -/
def mulT (a b : FNum) : Exact := mulEx a b

def fmaEx (sub : Nat) (a b c : FNum) (mode : Nat) : Exact :=
  let p := mulT a b
  let p := if sub = 2 ∨ sub = 3 then ⟨p.v.negate, p.nv⟩ else p
  let c := if sub = 1 ∨ sub = 2 then (term c.negate) else term c
  sumEx [p, c] mode

/-- `fmin` and `fmax` (R194): which source is written, or none for two NaN. -/
def minMax (isMax : Bool) (a b : FNum) : Option Bool :=
  if a.isNan && b.isNan then none
  else if a.isNan then some true
  else if b.isNan then some false
  else
    let c := cmpNum a b
    let aSmaller := decide (c < 0) || (decide (c = 0) && a.neg)
    some (if isMax then aSmaller && !(decide (c = 0) && b.neg) else !aSmaller)

/-- One lane of fmin or fmax on raw codes of a format. -/
def minMaxLane (isMax : Bool) (f : Fmt) (ca cb : Nat) : Lane :=
  let a := elemValue f ca
  let b := elemValue f cb
  let fl := if a.isSig || b.isSig then flNV else 0
  match minMax isMax a b with
  | none => { code := f.nanCode, flags := fl }
  | some false => { code := ca, flags := fl }
  | some true => { code := cb, flags := fl }

/-- COND of a compare (R196): the truth and whether NV is set. -/
def compareNum (cond : Nat) (a b : FNum) : Bool × Bool :=
  let un := a.isNan || b.isNan
  let nv := if cond = 1 ∨ cond = 2 then un else a.isSig || b.isSig
  let t := if un then decide (cond = 3)
    else
      let c := cmpNum a b
      if cond = 0 then decide (c = 0) else if cond = 1 then decide (c < 0) else if cond = 2 then decide (c ≤ 0) else false
  (t, nv)

/-- The class bit of Table 7.5. -/
def classBit (f : Fmt) (c : Nat) : Nat :=
  match elemValue f c with
  | .nan s => if s then 8 else 9
  | .inf n => if n then 0 else 7
  | .fin n m _ =>
    let sub := decide (bits c f.mw f.ew = 0)
    if m = 0 then (if n then 3 else 4)
    else if sub then (if n then 2 else 5) else (if n then 1 else 6)

/-- A pair of scalar formats between which every value is exact (Table 3.8, codes E and =): no rounding occurs. -/
def exactPair (sf df : Nat) : Bool :=
  sf == df || df == 0 || (sf != 0 && df == 1)

/-- A conversion between scalar formats (R199). -/
def convert (e : FEnv) (sf df mode : Nat) (x : Nat) : Lane :=
  let s := scalarFmt sf
  let a := elemValue s (x % 2 ^ s.width)
  let l := lane e (term a) a.isNan (scalarFmt df) false mode 0
  { l with draw := l.draw && !exactPair sf df }

/-- A float rounded to INT64 or UINT64 (R200, Table 3.7). -/
def toInt64 (e : FEnv) (sf : Nat) (unsignedDest : Bool) (mode x : Nat) : Lane :=
  let s := scalarFmt sf
  match elemValue s (x % 2 ^ s.width) with
  | .nan _ => { code := 0, flags := flNV }
  | .inf n => { code := if n then (if unsignedDest then 0 else 2 ^ 63) else (if unsignedDest then 2 ^ 64 - 1 else 2 ^ 63 - 1), flags := flNV }
  | .fin n m x =>
    if m = 0 then { code := 0 }
    else
      let (k, inexact, up) := roundAt n m x 0 mode (stochBits e.seed e.cnt 0)
      let w := writeInt (!unsignedDest) 64 n k inexact up
      { code := w.code, flags := w.flags, draw := decide (mode = 5), up := w.up }

/-- INT64 or UINT64 as an exact number. -/
def int64Num (unsignedSrc : Bool) (x : Nat) : FNum :=
  if !unsignedSrc && decide (2 ^ 63 ≤ x % 2 ^ 64) then .fin true (2 ^ 64 - x % 2 ^ 64) 0 else .fin false (x % 2 ^ 64) 0

/-! Packed instructions (R201 to R207). -/

/-- The effective descriptor's format, saturation and mode (R81). -/
def descMode (e : FEnv) (d : Nat) : Nat := rndMode e (bits d 4 3)
def descSat (d : Nat) : Bool := bits d 7 1 == 1

/-- A packed result: lane codes in their containers (R77). -/
def packedOf (f : Fmt) (ls : List Lane) : FResult := gather (mkV (place f.container ls)) none ls

def lanesOf (f : Fmt) : List Nat := List.range f.lanes

/-- `lane_s` (R204). -/
def laneScaled (f : Fmt) (c : Nat) (k : Option Nat) : FNum :=
  match k with
  | none => elemValue f c
  | some k =>
    if k = 0 then .zeroPos else if k = 255 then .nan false
    else match elemValue f c with
      | .fin n m e => .fin n m (e + k - 127)
      | v => v

/-- The exact value that `pdot` rounds (R204). -/
def pdotEx (f : Fmt) (bs : Nat) (a b c mode : Nat) : Exact :=
  let ka := if bs = 0 then none else some (bits c 32 8)
  let kb := if bs = 0 then none else some (bits c 40 8)
  sumEx (term (val c 0 1) :: (lanesOf f).map fun i => mulEx (laneScaled f (f.lane a i) ka) (laneScaled f (f.lane b i) kb)) mode

/-- A lane of a source, read under its scale code, is NaN; one under code 0x00 reads +0, and code 0xFF counts as a NaN source (log 74). -/
def anyNanLane (f : Fmt) (x : Nat) (k : Option Nat) : Bool := (lanesOf f).any fun i => (laneScaled f (f.lane x i) k).isNan

/-- Values of a wide format in 64 bits (R206): 1, 2, 4 or 4. -/
def wideCount : Nat → Nat
  | 0 => 1
  | 1 => 2
  | _ => 4

/-- `ppack` and `pq` (R206); `s` is the scale code of `pq`, of which 0xFF counts as a NaN source (log 74); a value
that the code replaces is not read (log 100). -/
def narrowLanes (e : FEnv) (f : Fmt) (sat : Bool) (mode wf part : Nat) (s : Option Nat) (a b : Nat) : List Lane :=
  let k := wideCount wf
  let w := scalarFmt wf
  let p := part * k
  (lanesOf f).map fun i =>
    if p ≤ i ∧ i < p + k then
      let x := elemValue w (bits a (w.width * (i - p)) w.width)
      let y := match s with
        | none => x
        | some s => if s = 0 then .zeroPos else if s = 255 then .nan false
          else match x with
            | .fin n m t => .fin n m (t + 127 - s)
            | v => v
      let l := lane e ⟨y, y.isSig⟩ (x.isNan || y.isNan) f sat mode i
      -- FP32, FP16 and BF16 onto themselves, and FP16 or BF16 to FP32, are exact pairs of Table 3.8.
      { l with draw := l.draw && !(s.isNone && (f == w || (f == fp32 && decide (2 ≤ wf)))) }
    else rawLane (f.lane b i)

/-- `punpack` and `pdq` (R206). -/
def widenLanes (e : FEnv) (f : Fmt) (prog : Bool) (mode wf part : Nat) (s : Option Nat) (a : Nat) : List Lane :=
  let k := wideCount wf
  let w := scalarFmt wf
  let p := part * k
  (List.range k).map fun j =>
    if p + j < f.lanes then
      let x := laneScaled f (f.lane a (p + j)) s
      let l := lane e ⟨x, x.isSig⟩ x.isNan w false mode j
      let exact := s.isNone && (wf == 0 || f == w || (wf == 1 && !prog) || (!prog && decide (f.width ≤ 8)))
      { l with draw := l.draw && !exact }
    else rawLane 0

/-- Codes that are moved without being read (R205). -/
def shufLanes (f : Fmt) (a b : Nat) : List Lane :=
  (lanesOf f).map fun i =>
    let j := bits b (f.container * i) f.container
    rawLane (if j < f.lanes then f.lane a j else 0)

/-- The packed compare (R203): all ones across the container when the condition holds. -/
def pcmpLanes (f : Fmt) (cond a b : Nat) : List Lane :=
  (lanesOf f).map fun i =>
    let (t, nv) := compareNum cond (elemValue f (f.lane a i)) (elemValue f (f.lane b i))
    { code := if t then 2 ^ f.container - 1 else 0, flags := if nv then flNV else 0 }

def packedFn (e : FEnv) (r : FRaw) (a b c : Nat) (d : Nat) : FResult :=
  let f := descFmt d
  let mode := descMode e d
  let sat := descSat d
  let o := r.op.toNat
  let m8 := r.m8.toNat
  let el (x i : Nat) := elemValue f (f.lane x i)
  let nan2 (i : Nat) := (el a i).isNan || (el b i).isNan
  let wf := bits m8 2 2
  let part := bits m8 4 4
  let prog := bits d 0 4 == 15
  if o = 0x80 then packedOf f ((lanesOf f).map fun i => lane e (addEx (el a i) (el b i) mode) (nan2 i) f sat mode i)
  else if o = 0x81 then packedOf f ((lanesOf f).map fun i => lane e (addEx (el a i) (el b i).negate mode) (nan2 i) f sat mode i)
  else if o = 0x82 then packedOf f ((lanesOf f).map fun i => lane e (mulT (el a i) (el b i)) (nan2 i) f sat mode i)
  else if o = 0x83 then
    packedOf f ((lanesOf f).map fun i => lane e (fmaEx 0 (el a i) (el b i) (el c i) mode) (nan2 i || (el c i).isNan) f sat mode i)
  else if o = 0x84 ∨ o = 0x85 then
    packedOf f ((lanesOf f).map fun i =>
      let m := minMaxLane (o == 0x85) f (f.lane a i) (f.lane b i)
      let x := elemValue f m.code
      let l := lane e ⟨x, x.isSig⟩ (nan2 i) f sat mode i
      { l with flags := orFlags l.flags m.flags, draw := false })
  else if o = 0x86 then
    let code := fun lo => if bits d 8 3 = 0 then none else some (bits c lo 8)
    let l := lane e (pdotEx f (bits d 8 3) a b c mode) (anyNanLane f a (code 32) || anyNanLane f b (code 40) || (val c 0 1).isNan)
      fp32 false mode 0
    gather (mkV (bits c 32 32 * 2 ^ 32 + l.code)) none [l]
  else if o = 0x87 then
    let x := sumEx (term (val b 0 1) :: (lanesOf f).map fun i => term (el a i)) mode
    let l := lane e x (anyNanLane f a none || (val b 0 1).isNan) fp32 false mode 0
    gather (mkV l.code) none [l]
  else if o = 0x88 then packedOf f (shufLanes f a b)
  else if o = 0x89 then packedOf f ((lanesOf f).map fun _ => rawLane (f.lane a (r.b.toNat % 16)))
  else if o = 0x8A then packedOf f (narrowLanes e f sat mode wf part none a b)
  else if o = 0x8B then
    let ls := widenLanes e f prog mode wf part none a
    gather (mkV (place (scalarFmt wf).width ls)) none ls
  else if o = 0x8C then packedOf f (narrowLanes e f sat mode wf part (some (c % 256)) a b)
  else if o = 0x8D then
    let ls := widenLanes e f prog mode wf part (some (c % 256)) a
    gather (mkV (place (scalarFmt wf).width ls)) none ls
  else packedOf f (pcmpLanes f (bits m8 2 2) a b)

/-- A special function (R209) in every lane, rounded to nearest-even. -/
def specialFn (r : FRaw) (a b : Nat) : FResult :=
  let pr := bits r.m8.toNat 0 2
  let o := r.op.toNat
  scalar pr fun i =>
    let x := val a i pr
    let y := val b i pr
    let s := if o = 0xA0 then frcpFn x else if o = 0xA1 then frsqrtFn x else if o = 0xA2 then fsqrtFn x
      else if o = 0xA3 then fdivFn x y else if o = 0xA4 then fexp2Fn x else if o = 0xA5 then flog2Fn x
      else if o = 0xA6 then ftanhFn x else fsigmFn x
    let l := lane ⟨0, 0, 0⟩ ⟨s.v, s.nv⟩ (x.isNan || (o == 0xA3 && y.isNan)) (prFmt pr) false 0 i
    { l with flags := orFlags l.flags (if s.dz then flDZ else 0) }

/-- Sign operations (R195): a NaN gives the canonical NaN. -/
def signLane (sub : Nat) (f : Fmt) (ca cb : Nat) : Lane :=
  let sgn := bits ca (f.ew + f.mw) 1
  let mag := bits ca 0 (f.ew + f.mw)
  if (elemValue f ca).isNan then rawLane f.nanCode
  else
    let s := if sub = 0 then 1 - sgn else if sub = 1 then 0 else bits cb (f.ew + f.mw) 1
    rawLane (s * 2 ^ (f.ew + f.mw) + mag)

/-- What an F instruction computes from its operand words a, b, c and its payload x (R411: the `g` value of `gmvf` and
`icvtf`, the data of `fld`, the value of `fli`, the descriptor of a packed instruction). -/
def computeF (e : FEnv) (r : FRaw) (a b c x : Nat) : FResult :=
  let o := r.op.toNat
  let m8 := r.m8.toNat
  let pr := bits m8 0 2
  let f := prFmt pr
  let mode := rndMode e (bits m8 4 3)
  let nan2 (i : Nat) := (val a i pr).isNan || (val b i pr).isNan
  if r.packed then packedFn e r a b c (x % 2 ^ 32)
  else if r.special then specialFn r a b
  else if o = 0x70 then scalar pr fun i => lane e (addEx (val a i pr) (val b i pr) mode) (nan2 i) f false mode i
  else if o = 0x71 then scalar pr fun i => lane e (addEx (val a i pr) (val b i pr).negate mode) (nan2 i) f false mode i
  else if o = 0x72 then scalar pr fun i => lane e (mulT (val a i pr) (val b i pr)) (nan2 i) f false mode i
  else if o = 0x73 then
    scalar pr fun i => lane e (fmaEx r.sub.toNat (val a i pr) (val b i pr) (val c i pr) mode)
      (nan2 i || (val c i pr).isNan) f false mode i
  else if o = 0x74 ∨ o = 0x75 then
    scalar pr fun i =>
      let l := minMaxLane (o == 0x75) f (prBits a i pr) (prBits b i pr)
      { l with nanE := false }
  else if o = 0x76 then scalar pr fun i => signLane r.sub.toNat f (prBits a i pr) (prBits b i pr)
  else if o = 0x77 then
    let ls := (prLanes pr).map fun i =>
      let (t, nv) := compareNum (bits m8 2 2) (val a i pr) (val b i pr)
      ({ code := if t then 1 else 0, flags := if nv then flNV else 0 } : Lane)
    gather none (mkV (place 1 ls)) ls
  else if o = 0x78 then
    let ls := (prLanes pr).map fun i => rawLane (2 ^ classBit f (prBits a i pr))
    gather none (mkV (place 16 ls)) ls
  else if o = 0x79 then
    let l := convert e (bits m8 0 2) (bits m8 2 2) mode a
    gather (mkV l.code) none [l]
  else if o = 0x7A then
    let l := toInt64 e (bits m8 0 2) (bits m8 2 1 == 1) mode a
    gather none (mkV l.code) [l]
  else if o = 0x7B then
    let l := lane e ⟨int64Num (bits m8 2 1 == 1) x, false⟩ false (scalarFmt (bits m8 0 2)) false mode 0
    gather (mkV l.code) none [l]
  else if o = 0x7C then gather none (mkV a) []
  else if o = 0x7D ∨ o = 0x7E ∨ o = 0x48 then gather (mkV x) none []
  else if o = 0x7F then gather (mkV ((a &&& c) ||| (b &&& (2 ^ 64 - 1 - c % 2 ^ 64)))) none []
  else if o = 0x8F then
    let bop := bits m8 0 2
    gather (mkV (if bop = 0 then a &&& b else if bop = 1 then a ||| b else if bop = 2 then a ^^^ b
      else a &&& (2 ^ 64 - 1 - b % 2 ^ 64))) none []
  else gather (mkV a) none []

end Sys2Proof.Machine
end

