-- ==== Sys2Proof/Machine/Memory.lean ====
section
/-! DEFINITION. The memory of the module as one list of bytes in canonical form, and its numbering (log 7): physical
addresses of HBM and host memory (R228) keep their number; each core's local store, each cluster's scratchpad, each
core's command queues and each cluster's accumulators have a range of their own above them. -/
namespace Sys2Proof.Machine

/-! Numbering of the spaces (log 7). -/

def coreIndex (die clu core : Nat) : Nat := (die * 8320 + clu) * 8 + core
def clusterIndex (die clu : Nat) : Nat := die * 8320 + clu
def lsBase : Nat := 2 ^ 56
def spBase : Nat := 2 ^ 57
def cqBase : Nat := 2 ^ 58
def accBase : Nat := 2 ^ 59

def isLs (loc : Nat) : Bool := decide (lsBase ≤ loc) && decide (loc < spBase)

/-- Byte `a` of the start-up record at reset (the Reset column of Table 21.2): LMBOX, AMBOX, ELOG and the fused IDKEY; zero elsewhere. -/
def resetRecord (a : Nat) : Byte :=
  if a = 9 ∨ a = 17 then 0x10 else if a = 16 then 0x40 else if a = 25 then 0x20
  else if 100 ≤ a then Config.idKey.getD (a - 100) 0 else 0

/-- What a byte that no cell lists reads as: in the start-up record its reset value (Table 21.2); in the word that holds slot 3's system
vector the line address that firmware writes at start (R476); else zero (R479 step 6 for SRAM and HBM; log 2 for the rest). -/
def emptyByte (a : Nat) : Byte :=
  if a < 164 then resetRecord a
  else if isLs a && decide (0x2C40 ≤ (a - lsBase) % 2 ^ 14) && decide ((a - lsBase) % 2 ^ 14 < 0x2C48) then
    BitVec.ofNat 8 (Config.slot3Vector.toNat / 64 * 64 / 2 ^ (8 * ((a - lsBase) % 8)))
  else 0

/-- The addresses of a range whose unlisted bytes need not read as zero. -/
def emptySpecial (lo hi : Nat) : List Nat :=
  if lo < 164 then (List.range (Nat.min hi 164 - lo)).map (lo + ·)
  else if isLs lo then
    ((List.range ((hi - lo) / 2 ^ 14 + 2)).flatMap fun k => (List.range 8).map fun i => (lo / 2 ^ 14 + k) * 2 ^ 14 + 0x2C40 + i).filter fun a =>
      decide (lo ≤ a) && decide (a < hi)
  else []

/-- Canonical form: addresses strictly rise, and no cell holds what an unlisted byte reads as. -/
def Memory.wf : List Host.Cell → Bool
  | [] => true
  | [c] => c.2 != emptyByte c.1
  | c :: d :: r => decide (c.1 < d.1) && c.2 != emptyByte c.1 && Memory.wf (d :: r)

/-- The byte at an address. -/
def Memory.byte : List Host.Cell → Nat → Byte
  | [], a => emptyByte a
  | c :: r, a => if c.1 = a then c.2 else if a < c.1 then emptyByte a else Memory.byte r a

/-- Write one byte, keeping the canonical form. -/
def Memory.setByte : List Host.Cell → Nat → Byte → List Host.Cell
  | [], a, b => if b = emptyByte a then [] else [(a, b)]
  | c :: r, a, b =>
    if c.1 = a then (if b = emptyByte a then r else (a, b) :: r)
    else if a < c.1 then (if b = emptyByte a then c :: r else (a, b) :: c :: r)
    else c :: Memory.setByte r a b

/-- n bytes from an address upwards. -/
def Memory.bytes (m : List Host.Cell) : Nat → Nat → List Byte
  | _, 0 => []
  | a, n + 1 => Memory.byte m a :: Memory.bytes m (a + 1) n

/-- Write bytes from an address upwards. -/
def Memory.setBytes (m : List Host.Cell) : Nat → List Byte → List Host.Cell
  | _, [] => m
  | a, b :: bs => Memory.setBytes (Memory.setByte m a b) (a + 1) bs

/-- The little-endian value of n bytes (R3). -/
def Memory.read (m : List Host.Cell) (a n : Nat) : Nat := leNat (Memory.bytes m a n)

/-- Write the low n bytes of a value (R3). -/
def Memory.write (m : List Host.Cell) (a n v : Nat) : List Host.Cell := Memory.setBytes m a (leBytes n v)

/-- A range set to zero. -/
def Memory.clear (m : List Host.Cell) (lo hi : Nat) : List Host.Cell :=
  (emptySpecial lo hi).foldl (fun m a => Memory.setByte m a 0) (m.filter fun c => decide (c.1 < lo) || decide (hi ≤ c.1))

/-- What a range holds beside zeros, as cells. -/
def Memory.cells (m : List Host.Cell) (lo hi : Nat) : List Host.Cell :=
  m.filter (fun c => decide (lo ≤ c.1) && decide (c.1 < hi))
    ++ (emptySpecial lo hi).map fun a => (a, Memory.byte m a)
def lsLoc (die clu core off : Nat) : Nat := lsBase + coreIndex die clu core * 2 ^ 14 + off
def spLoc (die clu off : Nat) : Nat := spBase + clusterIndex die clu * 2 ^ 17 + off
def cqLoc (die clu core off : Nat) : Nat := cqBase + coreIndex die clu core * 2 ^ 10 + off
def accLoc (die clu off : Nat) : Nat := accBase + clusterIndex die clu * 2 ^ 14 + off

def isSp (loc : Nat) : Bool := decide (spBase ≤ loc) && decide (loc < cqBase)
def isCq (loc : Nat) : Bool := decide (cqBase ≤ loc) && decide (loc < accBase)
def isSram (loc : Nat) : Bool := isLs loc || isSp loc
def isHost (loc : Nat) : Bool := decide (2 ^ 49 ≤ loc) && decide (loc < 2 ^ 50)
def isHbm (loc : Nat) : Bool := decide (loc < 2 ^ 40)

/-- A 50-bit physical address has a target (Table 9.1). -/
def physTarget (pa : Nat) : Bool := decide (pa < 2 ^ 40) || (decide (2 ^ 49 ≤ pa) && decide (pa < 2 ^ 50))

/-- The home die of a location; 16 stands for the host (R233). -/
def homeDie (loc : Nat) : Nat :=
  if loc < 2 ^ 40 then loc / 2 ^ 36
  else if loc < lsBase then 16
  else if loc < spBase then (loc - lsBase) / 2 ^ 14 / (8 * 8320)
  else if loc < cqBase then (loc - spBase) / 2 ^ 17 / 8320
  else if loc < accBase then (loc - cqBase) / 2 ^ 10 / (8 * 8320)
  else (loc - accBase) / 2 ^ 14 / 8320

/-! Sorted sets of words, for the full/empty bits (R235) and the bad words (R465). -/

def insertNat (x : Nat) : List Nat → List Nat
  | [] => [x]
  | y :: ys => if x = y then y :: ys else if x < y then x :: y :: ys else y :: insertNat x ys

def removeNat (x : Nat) (l : List Nat) : List Nat := l.filter (· != x)

end Sys2Proof.Machine
end

