-- ==== Sys2Proof/Machine/State.lean ====
section
/-! DEFINITION. The state of the module as plain data (chapters 01 to 22): threads in slots, cores, clusters, the memory, and
the units of the hub. The core that moves, and its cluster, stand in the fields `core` and `cl`; every other core or
cluster that is not as it is at reset stands in a list (log 12). -/
namespace Sys2Proof.Machine

/-- Why a step stops the machine. -/
inductive Fault where
  /-- Raised by step when a thermal trip or a failed recovery has stopped the clocks and no input is left that could start
  them again (R478 code 4, R481). Safe: the hardware does nothing either. -/
  | clockStopped
deriving DecidableEq, Repr

/-- Why a step has no meaning here. -/
inductive Refusal where
  /-- An instruction whose meaning is not written. Safe. -/
  | notModelled (mnemonic : String)
deriving DecidableEq, Repr

/-! ## Threads -/

/-- Slot states (Table 1.1). -/
inductive SlotStatus where
  | empty | ready | stalled | missWait | parked | pausing | sleeping | halted
deriving DecidableEq, Repr

/-- What a parked slot waits on (Table 1.1). -/
inductive Park where
  | none
  | fullEmpty (word : Nat)
  | waita (word : Nat) (paged : Bool)
  | semaphore (sem : Nat)
  | counter (ctr : Nat)
  | inbox (cls : Nat)
  | group (ctx gid : Nat)
  | ring (word : Nat)
deriving DecidableEq, Repr

/-- A line as it was when control entered it (R60). -/
structure Line where
  addr : Nat
  bytes : List Byte
deriving DecidableEq, Repr

/-- One part of an access after translation: a location of the memory and its length (R132). -/
structure Part where
  loc : Nat
  len : Nat
deriving DecidableEq, Repr

/-- What an access that has left the cluster does when its data returns (R23); register values it needs are captured. -/
inductive MemOp where
  | load (d : Reg) (size : Nat) (zx acq : Bool)
  | pair (d : Reg)
  | fload (raw : FRaw)
  | amo (op : BitVec 4) (d : Reg) (size : Nat) (src : Word) (acq : Bool)
  | cas (d : Reg) (size : Nat) (cmp src : Word) (acq : Bool)
  | casp (d : Reg) (cmp src : BitVec 128) (acq : Bool)
  | fadda (d : Reg) (size : Nat) (src : Word) (acq : Bool)
  | record (unit : BitVec 2)
  | waita (d : Reg) (size : Nat) (zx : Bool) (cmp : Word) (acq paged : Bool)
  | descr (cs : BitVec 2)
deriving DecidableEq, Repr

/-- Why a slot is in miss wait (R23, R118, Table 9.3, R347). -/
inductive Miss where
  | none
  | data (op : MemOp) (ea : BitVec 48) (parts : List Part)
  | walk
  | line (addr : Nat)
  | route (lcn : Nat)
deriving DecidableEq, Repr

/-- An access as checks see it (R392, Table 8.2). -/
inductive AccessKind where
  | load | store | atomic | fullEmpty | fetch | record
deriving DecidableEq, Repr

/-- The repetition state (R128). -/
structure Rep where
  bodyPc : BitVec 48 := 0
  count : BitVec 32 := 0
  iter : BitVec 32 := 0
  pos : BitVec 4 := 0
  blm1 : BitVec 4 := 0
  sm1 : BitVec 3 := 0
  wm1 : BitVec 4 := 0
  mask : BitVec 4 := 0
  act : Bool := false
deriving DecidableEq, Repr

/-- A body instruction as captured (R126) or fetched again (R127): its fields, its payload, its head, its PC; the subcode of R54 or R124
that it fails with (R497). -/
structure BodyInstr where
  raw : FRaw
  x : Word
  head : BitVec 16
  pc : BitVec 48
  bad : Option (BitVec 8) := none
deriving DecidableEq, Repr

/-- How far an F entry has come (R215, R30). -/
inductive FState where
  | waiting
  | sfuQueued (r : FResult)
  | sfuRunning (r : FResult)
  | done (r : FResult)
deriving DecidableEq, Repr

/-- An unretired F instruction (R16, R215): its ring number, its fields, its payload (R411), its PC, and which units were
bound when it was dispatched (R155, bit n for unit n); the units whose element came late (R183). -/
structure FEntry where
  ring : BitVec 5
  raw : FRaw
  x : Word
  pc : BitVec 48
  bound : BitVec 3
  st : FState := .waiting
  waited : List Nat := []
deriving DecidableEq, Repr

/-- What a trap or a light handler holds (R218, R263); the PCs of the body of its repetition, as captured (R497). -/
structure Held where
  entries : List FEntry
  resume : BitVec 48
  pp : Bool
  prefixD : BitVec 32
  rep : Rep
  capture : Option Nat
  bodyAt : List (BitVec 48) := []
deriving DecidableEq, Repr

/-- What a store-buffer entry came from (R19, R138, R179). -/
inductive SbOwner where
  | store
  | fst (ring : BitVec 5)
  | push (ring : BitVec 5) (unit : BitVec 2)
deriving DecidableEq, Repr

/-- A store-buffer entry (R19): the aligned 8-byte word, the bytes written, the data; whether the data is there, whether it is
a release, whether it may drain (R18, R179), whether the word is set full (a ring push, R161). `join`: it drains as one access with
the next entry (R132, Table 5.7); `last`: no entry of its store comes behind it; `lost`: a part of its store was discarded (R134);
`size` is the store's SIZE; `sys`: it was issued in system mode; `tile`: the volume and tile whose look-aside entry gave its address (R360). -/
structure SbEntry where
  word : Nat
  mask : BitVec 8
  data : Word
  ea : BitVec 48
  have_ : Bool := true
  committed : Bool := true
  release : Bool := false
  fill : Bool := false
  join : Bool := false
  last : Bool := true
  lost : Bool := false
  size : Nat := 3
  sys : Bool := false
  tile : Option (Nat × Nat) := none
  owner : SbOwner := .store
deriving DecidableEq, Repr

/-- The stream record (Table 6.1). -/
structure StreamRec where
  addr : BitVec 48 := 0
  kind : BitVec 3 := 0
  dir : BitVec 1 := 0
  esz : BitVec 2 := 0
  en : Bool := false
  go : Bool := false
  done : Bool := false
  dims : BitVec 2 := 0
  rpt : BitVec 2 := 0
  rcnt : BitVec 2 := 0
  leg : Bool := false
  aux : BitVec 128 := 0
  bound0 : BitVec 16 := 0
  bound1 : BitVec 16 := 0
  bound2 : BitVec 16 := 0
  bound3 : BitVec 16 := 0
  idx0 : BitVec 16 := 0
  idx1 : BitVec 16 := 0
  idx2 : BitVec 16 := 0
  idx3 : BitVec 16 := 0
deriving DecidableEq, Repr

/-- An element-fault record (R175, Table 6.6). -/
structure ElemFault where
  cause : BitVec 8
  sub : BitVec 8
  addr : BitVec 48
  ix : Bool
deriving DecidableEq, Repr

/-- A fetched element: its value, or its fault; the leg elements an output element consumed (R163); of a ring word, where it lies and how
often it had been emptied when it was read (R161). -/
structure Elem where
  val : Word
  fault : Option ElemFault := none
  legA : Nat := 0
  legB : Nat := 0
  loc : Nat := 0
  gen : Nat := 0
deriving DecidableEq, Repr

/-- A physical cluster by its place. -/
structure ClusterId where
  die : Nat
  clu : Nat
deriving DecidableEq, Repr

/-- A TLB entry (R397). -/
structure TlbEntry where
  ctx : BitVec 4
  vpage : Nat
  size : BitVec 2
  addr : BitVec 38
  w : Bool
  x : Bool
  u : Bool
  d : Bool
deriving DecidableEq, Repr

/-- What a requester got from a walk and keeps until its access is done (R396, R347, R409 step 3): a fault, a translation
that was not installed, or a tree entry of a volume (Table 13.2, 0 for an absent tile). -/
inductive GotRes where
  | fault (cause sub : BitVec 8) (tinfo : Option Word)
  | once (e : TlbEntry)
  | entry (e : Word)
deriving DecidableEq, Repr

/-- A walk's result with what it was for: the virtual page, or for a volume the walk's key. -/
structure Got where
  vol : Bool := false
  key : Nat
  res : GotRes
deriving DecidableEq, Repr

/-- A stream unit: its record, its fetched elements, deliveries taken and not committed (R156), whether it fetches (R181),
output elements committed since configuration (R173), leg elements that passes have consumed (R177), values counted in
count mode (R163), what its walks gave; a fault recorded for an element that is to be read again, by its position (Table 6.7). -/
structure StreamUnit where
  cfg : StreamRec := {}
  fetched : List Elem := []
  taken : Nat := 0
  live : Bool := false
  outCount : Nat := 0
  consumed : Nat := 0
  counted : Nat := 0
  got : List Got := []
  faulted : Option (Nat × ElemFault) := none
deriving DecidableEq, Repr

/-- A pending asynchronous cause (R219, Table 8.6). -/
structure AsyncCause where
  cause : BitVec 8
  sub : BitVec 8
  tinfo : Word
deriving DecidableEq, Repr

/-- TCAUSE (Table 1.12). -/
structure TCause where
  cause : BitVec 8 := 0
  sub : BitVec 8 := 0
  late : Bool := false
  deleg : Bool := false
  fside : Bool := false
deriving DecidableEq, Repr

/-- A thread in its slot (R14): everything of Table 1.18 and the state around it; whether its stall is on a register (R493); the
registers with bad parity, `g`n as n and `v`n as 64 + n, and whether an entry that waits has it (R465); whether its full/empty request
met an uncorrectable word (Table 5.5); the units as `sskip` found them, while it takes output elements (R173); the line
fetched ahead (R118); what walks gave its F side; the volume and tile that led to the data it waits for (R360); the
entries that its `tlbi`, and the tiles that its `cinv`, has removed while it waits for the accesses that used them (R409, R360). -/
structure Thread where
  status : SlotStatus := .empty
  park : Park := .none
  miss : Miss := .none
  pc : BitVec 48 := 0
  line : Option Line := none
  g : Vector Word 32 := Vector.replicate 32 0
  v : Vector Word 48 := Vector.replicate 48 0
  mode : Bool := false
  ie : Bool := true
  pp : Bool := false
  lh : Bool := false
  rm : BitVec 3 := 0
  ten : BitVec 5 := 0
  fflags : BitVec 5 := 0
  srseed : Word := 0
  srcount : Word := 0
  prefixD : BitVec 32 := 0
  efd : Vector (BitVec 32) 4 := Vector.replicate 4 0
  tpc : BitVec 48 := 0
  tcause : TCause := {}
  tinfo : Word := 0
  tvec : BitVec 48 := 0
  tdeleg : Word := 0
  qhpc : BitVec 48 := 0
  qlinkPc : BitVec 48 := 0
  qlinkPort : BitVec 2 := 0
  qval : Word := 0
  lcid : Word := 0
  ctx : BitVec 4 := 0
  teamNo : BitVec 16 := 0
  gmem : Vector Word 4 := Vector.replicate 4 0
  fq : List FEntry := []
  next : BitVec 5 := 0
  held : Option Held := none
  lhHeld : Option Held := none
  latch : Vector (Option Reg) 3 := Vector.replicate 3 none
  sb : List SbEntry := []
  units : Vector StreamUnit 3 := Vector.replicate 3 {}
  rep : Rep := {}
  capture : Option Nat := none
  body : List BodyInstr := []
  bodyAt : List (BitVec 48) := []
  stopping : Bool := false
  coord : Vector (BitVec 256) 4 := Vector.replicate 4 0
  ctrs : Vector (BitVec 32) 16 := Vector.replicate 16 0
  drop : BitVec 16 := 0
  async : List AsyncCause := []
  yieldTo : List (Fin 4) := []
  pauseLeft : Nat := 0
  got : List Got := []
  midLoad : Bool := false
  skipLeft : Option Nat := none
  skipFrom : Option (Vector StreamUnit 3) := none
  poisoned : Bool := false
  ahead : Option Line := none
  fGot : List Got := []
  via : Option (Nat × Nat) := none
  shot : Option (List TlbEntry × List (Nat × Nat)) := none
  ts : BitVec 2 := 0
  team : Option Nat := none
  uid : Nat := 0
  onReg : Bool := false
  bad : List Nat := []
  badEntry : Bool := false
deriving DecidableEq, Repr

/-! ## Cores -/

/-- A core by its place (Table 1.15). -/
structure CoreId where
  die : Nat
  clu : Nat
  core : Nat
deriving DecidableEq, Repr

/-- A message (R254, R257): the sender's logical position, context and module, its class and words. -/
structure Msg where
  srcX : BitVec 10
  srcY : BitVec 10
  srcMod : BitVec 8
  cls : BitVec 2
  words : List Word
deriving DecidableEq, Repr

/-- A class binding (R252): the slot, and the team if there is one. -/
structure ClassBind where
  slot : Fin 4
  team : Option Nat
deriving DecidableEq, Repr

/-- A retry-buffer entry (R254 to R256): the sending slot, its context and thread, the target, the message; the stores of the slot that it
waits for, those of `fst` by ring number; whether it is in flight, whether it is ready or when its back-off ends, its NACK
count. -/
structure RetryEntry where
  id : Nat
  slot : Fin 4
  ctx : BitVec 4
  target : Word
  msg : Msg
  uid : Nat := 0
  ahead : Nat := 0
  rings : List (BitVec 5) := []
  inFlight : Bool := false
  ready : Bool := true
  readyAt : Nat := 0
  nacks : Nat := 0
deriving DecidableEq, Repr

/-- A slot parked in `recv` (R257): its class, its registers, whether it is an acquire. -/
structure RecvWaiter where
  cls : BitVec 2
  slot : Fin 4
  d : Reg
  a : Reg
  acq : Bool
deriving DecidableEq, Repr

/-- A neighbour-queue word: 64 bits and the control bit C (R261). -/
structure QWord where
  data : Word
  ctl : Bool
deriving DecidableEq, Repr

/-- An incoming neighbour queue and its port (R260, Table 10.7): words dequeued by instructions that have not committed stay
at the head and are counted in `taken`. -/
structure Port where
  words : List QWord := []
  taken : Nat := 0
  con : Bool := false
  ctld : Bool := false
deriving DecidableEq, Repr

/-- A mailbox binding with its pending launches (R282, R283). -/
structure Mailbox where
  loc : Nat
  pc : BitVec 48
  slot : Fin 4
  trig : BitVec 2
  cls : BitVec 2
  team : Option Nat
  g31 : Word
  pending : List Word := []
deriving DecidableEq, Repr

/-- What a command-ring entry holds (R286, R269). -/
inductive RingUse where
  | free
  | command (engine : BitVec 1) (slotIx : BitVec 3) (thread : Fin 4) (job : Nat)
  | transfer (thread : Fin 4) (id : Nat)
deriving DecidableEq, Repr

/-- Who asked for a walk (R393, R400); `fside`: the repetition buffer, or an `fst` that issues again. -/
inductive Requester where
  | thread (slot : Fin 4) (fetch : Bool)
  | prefetch (slot : Fin 4) (pageIn : Bool)
  | stream (slot : Fin 4) (unit : Nat)
  | fside (slot : Fin 4)
  | job (clu : ClusterId) (id : Nat)
  | transfer (id : Nat)
  | hinge (id : Nat)
  | report
deriving DecidableEq, Repr

/-- A miss-queue request (Table 17.2); `keep` says that its result may be installed (R409
step 3, R360 step 4); a volume walk keeps the coordinate slot it was made with, and the level-1 entry and the block that it is to
publish there (R347); `awaited`: a `cinv` waits for it (R360); `serve` is the cluster that serves a transfer (R269). -/
structure MissReq where
  kind : BitVec 4
  slot : BitVec 2
  eng : Bool := false
  fetch : Bool := false
  wr : Bool := false
  user : Bool := false
  ctx : BitVec 4 := 0
  addr : Word
  aux : Word := 0
  keep : Bool := true
  awaited : Bool := false
  vol : BitVec 256 := 0
  alloc : Bool := false
  block : Option (Nat × Nat) := none
  serve : Option ClusterId := none
  who : Requester
deriving DecidableEq, Repr

/-- An entry of a core's pending list of page-in requests (R401): the page and who waits. -/
structure PageWait where
  ctx : BitVec 4
  page : Nat
  slots : List (Fin 4)
  transfers : List Nat
deriving DecidableEq, Repr

/-- The division in flight (R112). -/
structure Division where
  slot : Fin 4
  d : Reg
  val : Word
deriving DecidableEq, Repr

/-- The debug module of a core (Table 22.3). -/
structure Debug where
  stepSlot : BitVec 2 := 0
  haltBrk : Bool := false
  halted : Bool := false
  reason : BitVec 3 := 0
  slot : BitVec 2 := 0
  index : BitVec 2 := 0
  err : Bool := false
  dacc : BitVec 13 := 0
  ddata : Word := 0
  ibp : Vector Word 4 := Vector.replicate 4 0
  wp : Vector Word 2 := Vector.replicate 2 0
  wpm : Vector Word 2 := Vector.replicate 2 0
  stepping : Option (Fin 4) := none
  issued : Bool := false
  since : Nat := 0
  resumed : Vector Bool 4 := Vector.replicate 4 false
deriving DecidableEq, Repr

/-- A command that was submitted and waits for a ring entry (R285, R286): the submitting slot and thread, the queue and its
slot, the thread's context, mode and group registers (R317, R392), the cycle (R287). -/
structure Submission where
  slot : Fin 4
  engine : BitVec 1
  slotIx : BitVec 3
  uid : Nat
  ctx : BitVec 4
  user : Bool
  gmem : Vector Word 4
  since : Nat
deriving DecidableEq, Repr

/-- A coordinate look-aside entry (R346). -/
structure ClabEntry where
  ctx : BitVec 4
  vid : Nat
  key : Nat
  entry : Word
deriving DecidableEq, Repr

/-- A core (R14, R15); when its machine checks were (R470), which slot the I pipe issued for last, and when (R493). -/
structure Core where
  slots : Vector Thread 4 := (Vector.replicate 4 ({} : Thread)).set 3 { mode := true, status := .sleeping }
  iPtr : Fin 4 := 0
  fPtr : Fin 4 := 0
  evc : Vector Word 16 := Vector.replicate 16 0
  netcap : Word := 0x635643
  inbox : Vector (List Msg) 4 := Vector.replicate 4 []
  bind : Vector (Option ClassBind) 4 := Vector.replicate 4 none
  recvWait : List RecvWaiter := []
  retry : List RetryEntry := []
  retryNo : Nat := 0
  ports : Vector (Vector Port 4) 4 := Vector.replicate 4 (Vector.replicate 4 {})
  mail : Vector (Option Mailbox) 4 := Vector.replicate 4 none
  ring : Vector RingUse 16 := Vector.replicate 16 .free
  submitted : List Submission := []
  itlb : List TlbEntry := []
  dtlb : List TlbEntry := []
  clab : List ClabEntry := []
  lines : List Line := []
  sfuQ : List (Fin 4 × BitVec 5) := []
  divider : Option Division := none
  missQ : List MissReq := []
  presented : Bool := false
  pageWaits : List PageWait := []
  tccLast : BitVec 1 := 0
  dbg : Debug := {}
  fenced : Bool := false
  checks : List Nat := []
  issuedAt : Option (Fin 4 × Nat) := none
deriving DecidableEq, Repr

/-! ## Clusters -/

-- CLUSTER-BEGIN
/-- Where a job stands once it is in the window (Table 11.9): `failing` between the failing access and R305, `done` between the
end of the payload and R303. -/
inductive JobState where
  | waiting | running | done | failing | failed | rejected | discarded
deriving DecidableEq, Repr

/-- The spaces of canonical form (R294). -/
inductive CSpace where
  | ls (core : CoreId)
  | sp
  | lcn (n : Nat)
  | va
deriving DecidableEq, Repr

/-- A range in canonical form with its direction (R292, R294). -/
structure Range where
  space : CSpace
  lo : Nat
  len : Nat
  wr : Bool
deriving DecidableEq, Repr

/-- What the reuse test gives (Table 12.4, R335): WHY, SB, DM, DX; the last two are 0x7FC0 where nothing is measured. -/
structure Tested where
  why : Nat := 0
  sb : Nat := 0
  dm : Nat := 0x7FC0
  dx : Nat := 0x7FC0
deriving DecidableEq, Repr

/-- What a running `mma` or `mmar` does next (R315, R331): its next chunk, the replay of a hit, a group of the update (R334). -/
inductive MmaPhase where
  | chunk | hit | update (group : Fin 3)
deriving DecidableEq, Repr

/-- A running `mma` or `mmar` between two steps (log 36): its phase, the entry as phase 1 read it, the digest, the test; VCNT and
the products of this run so far (R316, R321). -/
structure MmaRun where
  phase : MmaPhase := .chunk
  entry : Nat := 0
  digest : List (Nat × Nat) := []
  tested : Tested := {}
  vcnt : Nat := 0
  prods : Nat := 0
deriving DecidableEq, Repr

/-- Result elements of a command that became NaN, raised OF, raised UF (Table 3.9). -/
structure Rounded where
  nan : Nat := 0
  ovf : Nat := 0
  unf : Nat := 0
deriving DecidableEq, Repr

/-- A command of a cluster, accepted or in the window (R286, R296, R304). `core` is none for a command of Keyway, which has `kw`,
its queue and command index; `num` is the core's number in the cluster, `accepted` the cycle of its acceptance (R287), `skips` the
blocks skipped, as (operand, row, block) (R316), `rounded` its events so far (R96), `asked` the PROG that the record shows while chunks are added (R306, R324). -/
structure Job where
  id : Nat
  core : Option CoreId
  num : Nat := 0
  kw : Option (Nat × BitVec 32) := none
  slot : Fin 4 := 0
  uid : Nat := 0
  engine : BitVec 1
  slotIx : BitVec 3 := 0
  ring : BitVec 4 := 0
  rcd : BitVec 512
  ctx : BitVec 4
  user : Bool
  gmem : Vector Word 4 := Vector.replicate 4 0
  request : BitVec 320 := 0
  st : JobState := .waiting
  acause : BitVec 8 := 0
  exc : BitVec 5 := 0
  skip : BitVec 32 := 0
  status : BitVec 4 := 0
  word1 : Word := 0
  decl : List Range := []
  foot : List Range := []
  edges : List Nat := []
  solo : Bool := false
  since : Nat := 0
  accepted : Nat := 0
  skips : List (Nat × Nat × Nat) := []
  run : Option MmaRun := none
  rounded : Rounded := {}
  asked : Option (BitVec 12) := none
deriving DecidableEq, Repr

/-- A slot that waits for a semaphore (R323): its threshold, its destination, its scope. -/
structure SemWaiter where
  sem : Nat
  at_ : CoreId
  slot : Fin 4
  thr : BitVec 16
  d : Reg
  sc : BitVec 3
deriving DecidableEq, Repr

/-- A bank hold (R226): the bank, the holder, when it was granted. -/
structure Hold where
  bank : Nat
  at_ : CoreId
  slot : Fin 4
  since : Nat
deriving DecidableEq, Repr

/-- A cluster (chapters 11, 16, 17, 21). -/
structure Cluster where
  own : Bool := false
  ctx : BitVec 4 := 0
  lastCtx : Option (BitVec 4) := none
  weights : Vector (BitVec 4) 8 := Vector.replicate 8 1
  eb : BitVec 24 := 0x68000
  meter : Nat := 0
  spent : Bool := false
  limit : Option Nat := none
  limitSet : Option Nat := none
  tlb : List TlbEntry := []
  clab : List ClabEntry := []
  got : List (Nat × Got) := []
  sems : Vector (BitVec 16) 256 := Vector.replicate 256 0
  semWait : List SemWaiter := []
  holds : List Hold := []
  holdWait : List Hold := []
  backlog : List Job := []
  window : List Job := []
  jobNo : Nat := 0
  bound : Option Nat := none
  boundAt : Nat := 0
  pass : Vector (BitVec 32) 8 := Vector.replicate 8 0
  lastCands : List Nat := []
  lastStart : Nat := 0
  fullSince : Nat := 0
  stuck : Bool := false
  overflows : Nat := 0
  fenced : Bool := false
  frozen : Bool := false
deriving DecidableEq, Repr
-- CLUSTER-END

/-! ## The module -/

/-- A context record (Table 16.1). -/
structure Ctx where
  valid : Bool := false
  ptroot : Nat := 0
  rtab : Nat := 0
  ctab : Nat := 0
  gtab : Nat := 0
  mtab : Nat := 0
  twm1 : BitVec 10 := 0
  thm1 : BitVec 10 := 0
  mcnt : BitVec 8 := 0
  svec : BitVec 48 := 0
  tpol : Word := 0
  eb : BitVec 24 := 0
deriving DecidableEq, Repr

/-- Structures whose entries are dropped and derived again (Table 21.3): of a core its TLBs, look-aside buffer, line cache and fetch-ahead
buffer, of a cluster its TLB and look-aside buffer. -/
inductive CacheKind where
  | itlb | dtlb | tiles | lines | ahead | clusterTlb | clusterTiles
deriving DecidableEq, Repr

/-- A hardware error that a structure detects when it is read next (R465): the parity of a `g` or `v` register, of an entry that waits
to issue, the code of an SRAM word, of an HBM block, entry n of a structure that can be derived again; an uncorrectable entry of a structure of
the core or of the cluster; a cached translation whose bytes have changed (R460). -/
inductive Upset where
  | g (n : Fin 32)
  | v (n : Fin 48)
  | entry
  | word (loc : Nat)
  | block (pa : Nat)
  | cache (k : CacheKind) (n : Nat)
  | corePart
  | clusterPart
  | translation (n : Nat)
deriving DecidableEq, Repr

/-- What comes next, in order (log 4): a step of the machine or an input, a turn of a core's I pipe, each with the core it
concerns and the cycles that pass before it, or a hardware error. -/
inductive Agenda where
  | event (at_ : CoreId) (dt : Nat) (ev : Instr)
  | turn (at_ : CoreId) (dt : Nat)
  | upset (at_ : CoreId) (slot : Fin 4) (u : Upset)
deriving DecidableEq, Repr

/-- A waiter on a full/empty word (R142, R143): the core and slot, its kind (0 ldfe, 1 ldff, 2 stef, 3 a ring word of `sskip`, whose
unit is `d`, 4 a ring push in the store buffer), its destination, its data, whether it is an acquire. -/
structure FeWaiter where
  word : Nat
  at_ : CoreId
  slot : Fin 4
  kind : BitVec 3
  d : Reg
  data : Word
  ea : BitVec 48
  acq : Bool
deriving DecidableEq, Repr

/-- A slot that waits for a change of an SRAM word (R147): what it reads and compares, where the value goes. -/
structure WaitaWaiter where
  word : Nat
  at_ : CoreId
  slot : Fin 4
  parts : List Part
  d : Reg
  size : Nat
  zx : Bool
  cmp : Nat
  acq : Bool
deriving DecidableEq, Repr

/-- A node of the combining tree of page-in requests (R402), a core at its foot, the die's firmware at its top. -/
inductive TreeNode where
  | core (c : CoreId)
  | cluster (die clu : Nat)
  | quadrant (die q : Nat)
  | dieTop (die : Nat)
  | firmware (die : Nat)
deriving DecidableEq, Repr

/-- A page-in request or a wake on its way (R402, R403). -/
structure PageMsg where
  dest : TreeNode
  child : TreeNode
  ctx : BitVec 4
  page : Nat
  wake : Bool := false
  refused : Bool := false
deriving DecidableEq, Repr

/-- An entry of a node's pending table (R402). -/
structure PageEntry where
  node : TreeNode
  ctx : BitVec 4
  page : Nat
  children : List TreeNode
deriving DecidableEq, Repr

/-- A neighbour-queue word in flight (R261): the receiving core, slot and port. -/
structure QFlight where
  dest : CoreId
  slot : Fin 4
  port : Fin 4
  word : QWord
deriving DecidableEq, Repr

/-- What a member has contributed to a collective (R278 to R281): the instruction (0 `gred`, 1 `gcast`, 2 `gsum`), the fields
that must agree, its value, its counters for `gsum`, the address that member 0 of a `gsum` gives. -/
structure Contribution where
  what : Nat
  key : Nat
  val : Word
  counts : List Nat := []
  loc : List Part := []
deriving DecidableEq, Repr

/-- The collective state of a member (R276): idle, contributed, done with its result and the flags of the rounding. -/
inductive Collective where
  | idle
  | contributed (c : Contribution)
  | done (res : Word) (flags : Nat)
deriving DecidableEq, Repr

/-- The barrier state of a member (R276). -/
inductive Barrier where
  | idle | arrived | released
deriving DecidableEq, Repr

/-- A member of an installed group: its logical position and its two states (R274, R276). -/
structure Member where
  x : Nat
  y : Nat
  bar : Barrier := .idle
  col : Collective := .idle
deriving DecidableEq, Repr

/-- An installed group (R275, R276): its members in list order and its count of completed barriers. -/
structure Group where
  ctx : BitVec 4
  gid : Nat
  members : List Member
  bc : BitVec 32 := 0
deriving DecidableEq, Repr

/-! ## Teams and switched-out threads (chapters 16, 18) -/

/-- Team states (Table 16.5): `placing` is a waiting or evicted team whose seats are chosen and not all Empty yet. -/
inductive TeamState where
  | waiting | placing | running | evicting | evicted
deriving DecidableEq, Repr

/-- A place of a team (R375): its position, the physical core, the user slot, the team slot. -/
structure Seat where
  x : Nat
  y : Nat
  at_ : CoreId
  slot : Fin 4
  ts : BitVec 2
deriving DecidableEq, Repr

/-- What a cluster save block holds in its device areas (Table 18.8): the jobs, the array's binding and counts, and for each core
its submissions, ring entries, mailbox bindings and port marks; the bytes that stand for them in the block (log 52). -/
structure SavedCluster where
  lcn : Nat
  block : Nat
  at_ : ClusterId
  cl : Cluster
  cores : List (Nat × Core)
  dev : List (List Byte) := []
deriving DecidableEq, Repr

/-- A launched team (R371, R376, R441): the queue and command that launched it, its record, its origin, the seats chosen for
it, its saved clusters while it is evicted (R423), the commands that wait for that. -/
structure Team where
  id : Nat
  no : BitVec 16
  ctx : BitVec 4
  queue : Nat
  cmd : BitVec 32
  prio : BitVec 2
  rcd : BitVec 512
  st : TeamState := .waiting
  x0 : Nat := 0
  y0 : Nat := 0
  seats : List Seat := []
  saved : List SavedCluster := []
  since : Nat := 0
  aged : Bool := false
  aborted : Bool := false
  evict : List (Nat × BitVec 32) := []
deriving DecidableEq, Repr

/-- A switched-out thread as Keyway holds it (R417): its save block, where it belongs, its pending causes; of its held entries what
the image has no place for (their PCs and bindings), and what a light handler holds beside them; the output counts of its units (R173),
DROP (R259), and the PCs of its repetition's body (R497). -/
structure OutThread where
  uid : Nat
  team : Nat
  ctx : BitVec 4
  x : Nat
  y : Nat
  ts : BitVec 2
  slot : Fin 4
  block : Nat
  async : List AsyncCause
  kept : List FEntry := []
  lhRest : Option Held := none
  outCounts : List Nat := []
  drop : BitVec 16 := 0
  bodyAt : List (BitVec 48) := []
deriving DecidableEq, Repr

/-- What a Keyway request asks of a slot (R416). -/
inductive ReqKind where
  | out | swap | evict | abort
deriving DecidableEq, Repr

/-- An interrupt request of Keyway that still stands (R416, R430), with the command that waits for it. -/
structure KRequest where
  no : BitVec 16
  kind : ReqKind
  at_ : CoreId
  slot : Fin 4
  uid : Nat
  cmd : Option (Nat × BitVec 32)
deriving DecidableEq, Repr

/-- A save pool (R441): its range and the blocks in use (address, size). -/
structure Pool where
  base : Nat := 0
  len : Nat := 0
  used : List (Nat × Nat) := []
deriving DecidableEq, Repr

/-! ## Keyway (chapter 19) -/

/-- A command that Keyway has read ahead; `bad` if the read failed (R435, Table 19.9). -/
structure KCmd where
  ix : BitVec 32
  bits : BitVec 256
  bad : Bool
deriving DecidableEq, Repr

/-- A queue (Table 19.4) with its tail, the commands read ahead, the commands taken and not completed (index and header), the
team its head command waits for, whether the command that halted it was refused. -/
structure Queue where
  en : Bool := false
  kind : BitVec 1 := 0
  priv : Bool := false
  prio : BitVec 2 := 0
  qw : BitVec 4 := 1
  lsize : BitVec 5 := 1
  evec : BitVec 11 := 0
  eie : Bool := false
  base : BitVec 50 := 0
  head : BitVec 32 := 0
  shadow : BitVec 32 := 0
  resident : Bool := false
  switching : Bool := false
  halted : Bool := false
  hslot : BitVec 6 := 0
  err : BitVec 8 := 0
  fidx : BitVec 32 := 0
  acause : BitVec 8 := 0
  tail : BitVec 32 := 0
  ahead : List KCmd := []
  taken : List (BitVec 32 × BitVec 64) := []
  waiting : Option Nat := none
  refused : Bool := false
  aging : Bool := false
  since : Nat := 0
deriving DecidableEq, Repr

/-- An MSI-X table entry (R432); a vector is masked after reset, as the PCI Express layout has it. -/
structure Vec where
  addr : Word := 0
  data : BitVec 32 := 0
  mask : Bool := true
  pending : Bool := false
deriving DecidableEq, Repr

/-- A Hinge port (Table 19.10). -/
structure Hinge where
  en : Bool := false
  training : Bool := false
  up : Bool := false
  lanes : BitVec 4 := 0
  rid : BitVec 16 := 0
  replay : BitVec 32 := 0
  downs : BitVec 32 := 0
deriving DecidableEq, Repr

/-- A read or write that another module's request asked for and that waits for its walk (R393, R446): the port, what its walks gave. -/
structure HingeIn where
  id : Nat
  port : BitVec 3
  req : HingeReq
  got : List Got := []
deriving DecidableEq, Repr

/-! ## Messages and transfers on their way (chapter 10) -/

/-- A message in flight: the sender's core and retry entry (none for one from another module), the target core. -/
structure MsgFly where
  src : Option (CoreId × Nat)
  dest : CoreId
  ctx : BitVec 4
  msg : Msg
deriving DecidableEq, Repr

/-- What comes back for a message (Table 10.3). -/
structure AckFly where
  dest : CoreId
  entry : Nat
  nack : Bool
  dead : Bool
deriving DecidableEq, Repr

/-- A message that has left for another module (R253, R369). -/
structure ModMsg where
  port : BitVec 3
  ctx : BitVec 4
  src : CoreId × Nat
  msg : Msg
  target : Word
deriving DecidableEq, Repr

/-- A one-sided transfer (R267 to R270). -/
structure Transfer where
  id : Nat
  at_ : CoreId
  slot : Fin 4
  uid : Nat
  ctx : BitVec 4
  user : Bool
  put : Bool
  indexed : Bool
  loc : BitVec 48
  rem : BitVec 48
  count : BitVec 24
  idx : BitVec 48 := 0
  esz : BitVec 2 := 0
  ish : BitVec 3 := 0
  isz : BitVec 1 := 0
  ctr : BitVec 4
  rmod : BitVec 8
  ring : BitVec 4
  waiting : Bool := false
  fail : Option (BitVec 8) := none
deriving DecidableEq, Repr

/-! ## Start-up, errors, power, observation (chapters 20 to 22) -/

/-- A request that the loader has taken (R452): bytes 0 to 47, and the fuse counters then (R461). -/
structure LoadReq where
  req : BitVec 384
  fuses : Vector (BitVec 8) 64
deriving DecidableEq, Repr

/-- The start-up record and what stands behind it (Tables 21.2, 21.9): whether a start runs, of which kind, since when; the digests
retained with MEAS; the fuse counters; the key slots (64 bytes each, none when empty); the last SEQ values taken and the requests
of the two mailboxes not served yet (R452, R484), a load request with the fuse counters of the moment that it was taken, and the counters
that the one being served is judged by (R461); the records in the management store (R480); the repairs from fuses and the repair map
(R474); the recovery image, and whether steps 1 to 6 of its boot pass (R481). -/
structure Boot where
  starting : Bool := false
  warm : Bool := false
  since : Nat := 0
  state : BitVec 8 := 0
  wfail : BitVec 8 := 0
  cfail : BitVec 8 := 0
  boots : BitVec 32 := 0
  enext : BitVec 16 := 0
  meas : List Byte := List.replicate 32 0
  digests : List (List Byte) := []
  fwsvn : BitVec 32 := 0
  fuses : Vector (BitVec 8) 64 := Vector.replicate 64 0
  keys : Vector (Option (List Byte)) 4 := Vector.replicate 4 none
  loadSeq : Word := 0
  loads : List LoadReq := []
  judged : Vector (BitVec 8) 64 := Vector.replicate 64 0
  attSeq : Word := 0
  reports : List (BitVec 448) := []
  store : List (BitVec 512) := []
  made : List Repair := []
  repairs : List Repair := []
  recovery : List (List Byte) := []
  recoveryTrains : Bool := false
deriving DecidableEq, Repr

/-- A section of an object (Table 20.2) with its bytes. -/
structure Sect where
  kind : Nat
  voff : Nat
  bytes : List Byte
deriving DecidableEq, Repr

/-- An object (Table 20.1): its header fields and its sections. -/
structure Obj where
  tiruc : Bool
  svn : Nat
  fuse : BitVec 6
  sects : List Sect
deriving DecidableEq, Repr

/-- A signed translation in the cache (R459, R460): its key, the translation, its signature. -/
structure Translation where
  key : List Byte
  obj : Obj
  sig : List Byte
deriving DecidableEq, Repr

/-- A link (R469): replays of the flit that was replayed last, replays in the period, failed retrains in a row; of the host link, the lanes it
has trained at (Table 19.1). -/
structure Link where
  attempts : Nat := 0
  replays : Nat := 0
  tries : Nat := 0
  up : Bool := true
  fenced : Bool := false
  width : BitVec 5 := 16
deriving DecidableEq, Repr

/-- A link direction (R494, R495): the die, the port kind in the order of R387, the link's index there, the direction. -/
structure PortDir where
  die : Nat
  kind : Nat
  index : Nat
  dir : Nat
deriving DecidableEq, Repr

/-- What a link direction counts for each class of Table 16.9: flits in the interval (R494), and in the period (R387). -/
structure Traffic where
  flits : Vector Nat 6 := Vector.replicate 6 0
  period : Vector Nat 6 := Vector.replicate 6 0
deriving DecidableEq, Repr

/-- A dump that is being written (R495): what is left of it behind the place to write next, then its SEQ word. -/
structure DumpOut where
  loc : Nat
  left : List Byte
  seqAt : Nat
  seq : Word
deriving DecidableEq, Repr

/-- The histogram engine and dump registers of a die (Table 22.5), its bins that are not zero, its dumps; the number of the last period of
4,096 cycles, of 1,024 and of 2^20 cycles of the die whose beginning has been acted on (R386, R493, R494), and of the last 2^24
cycles whose correctable errors have been written (R475). -/
structure Hist where
  mode : BitVec 2 := 0
  ctx : BitVec 4 := 0
  all : Bool := false
  shift : BitVec 5 := 0
  hbase : BitVec 48 := 0
  obase : BitVec 34 := 0
  nbuf : BitVec 6 := 0
  bufkb : BitVec 8 := 0
  bins : List (Nat × BitVec 32) := []
  seq : Word := 0
  intervals : BitVec 32 := 1
  dump : Option DumpOut := none
  period : Nat := 0
  sampled : Nat := 0
  dumped : Nat := 0
  sramLogged : Nat := 0
  hbmLogged : Nat := 0
deriving DecidableEq, Repr

/-- The power manager (R478): windows seen, windows at or below 5.3 kW in a row, the dies that are halved, and for each die the limit
and the limit of the next period of a cluster that is not listed. -/
structure Power where
  window : Nat := 0
  calm : Nat := 0
  hot : Vector Bool 16 := Vector.replicate 16 false
  fresh : Vector (Option Nat × Option Nat) 16 := Vector.replicate 16 (none, none)
deriving DecidableEq, Repr

/-- Budgets after reset by class, for every die and port kind (Table 16.10). -/
def resetBudget (cls : Nat) : BitVec 13 :=
  if cls < 2 then 4096 else if cls = 2 then 1024 else if cls = 3 then 128 else if cls = 4 then 256 else 512

-- STATE-BEGIN
/-- The state of the module. -/
structure State where
  cid : CoreId
  cur : Fin 4
  core : Core
  others : List (CoreId × Core)
  clid : ClusterId
  cl : Cluster
  otherCls : List (ClusterId × Cluster)
  mem : List Host.Cell
  full : List Nat
  feTaken : List (Nat × Nat)
  badWords : List Nat
  badBlocks : List Nat
  quarantine : List Nat
  feWait : List FeWaiter
  waitaQ : List WaitaWaiter
  ctxs : Vector Ctx 16
  groups : List Group
  remap : List (CoreId × ClusterId × Nat)
  pageFly : List PageMsg
  pageTree : List PageEntry
  qFly : List QFlight
  msgFly : List MsgFly
  ackFly : List AckFly
  modOut : List ModMsg
  xfers : List Transfer
  xferNo : Nat
  xferGot : List (Nat × Got)
  teams : List Team
  teamNo : Nat
  launches : Vector (BitVec 16) 16
  uidNo : Nat
  outs : List OutThread
  reqs : List KRequest
  reqNo : BitVec 16
  pools : Vector Pool 16
  queues : List (Nat × Queue)
  ksems : Vector (BitVec 32) 256
  qswBusy : Bool
  qswRefused : Bool
  kturn : Vector (Nat × Nat) 4
  modId : BitVec 16
  gvec : BitVec 11
  gie : Bool
  vecs : List (Nat × Vec)
  vecSent : List (Word × BitVec 32)
  hinges : Vector Hinge 8
  hingeIn : List HingeIn
  hingeNo : Nat
  budgets : List ((Nat × Nat × Nat) × BitVec 13)
  budgetsNext : List ((Nat × Nat × Nat) × BitVec 13)
  boot : Boot
  tcache : List Translation
  retired : List Nat
  deadDies : List Nat
  spares : List CoreId
  links : List (LinkId × Link)
  grid : List (PortDir × Traffic)
  hist : Vector Hist 16
  power : Power
  hostData : BitVec 128
  clk : Vector Word 16
  running : Bool
  agenda : List Agenda
  beat : Nat
  freeCtr : Nat
deriving DecidableEq, Repr

/-- The module right after reset (R20, R34, R366, R479): every core and cluster as its defaults above say, nothing listed in
memory, nothing to come. Register values that the spec gives only at launch are those of log 1. -/
def State.reset : State where
  cid := ⟨0, 0, 0⟩
  cur := 0
  core := {}
  others := []
  clid := ⟨0, 0⟩
  cl := {}
  otherCls := []
  mem := []
  full := []
  feTaken := []
  badWords := []
  badBlocks := []
  quarantine := []
  feWait := []
  waitaQ := []
  ctxs := Vector.replicate 16 {}
  groups := []
  remap := []
  pageFly := []
  pageTree := []
  qFly := []
  msgFly := []
  ackFly := []
  modOut := []
  xfers := []
  xferNo := 0
  xferGot := []
  teams := []
  teamNo := 0
  launches := Vector.replicate 16 0
  uidNo := 1
  outs := []
  reqs := []
  reqNo := 0
  pools := Vector.replicate 16 {}
  queues := []
  ksems := Vector.replicate 256 0
  qswBusy := false
  qswRefused := false
  kturn := Vector.replicate 4 (0, 0)
  modId := 0
  gvec := 0
  gie := false
  vecs := []
  vecSent := []
  hinges := Vector.replicate 8 {}
  hingeIn := []
  hingeNo := 0
  budgets := []
  budgetsNext := []
  boot := {}
  tcache := []
  retired := []
  deadDies := []
  spares := []
  links := []
  grid := []
  hist := Vector.replicate 16 {}
  power := {}
  hostData := 0
  clk := Vector.replicate 16 0
  running := true
  agenda := []
  beat := 0
  freeCtr := 0
-- STATE-END

end Sys2Proof.Machine
end

