-- ==== Sys2Proof/Machine/Ops.lean ====
section
/-! DEFINITION. The named operations on the state: the thread that moves and its registers, the cores and clusters, time and
event counters, the SRAM words with their full/empty bits, page-in requests, the commit of F instructions, the taking of a
trap and the return from one. -/
namespace Sys2Proof.Machine

/-- What a step answers. -/
abbrev Out := Host.Outcome State Fault Refusal

/-! ## The thread that moves -/

def State.th (s : State) : Thread := s.core.slots[s.cur.val]
def State.setTh (s : State) (t : Thread) : State :=
  { s with core := { s.core with slots := s.core.slots.set s.cur.val t } }
def State.modTh (s : State) (f : Thread → Thread) : State := s.setTh (f s.th)
def State.setCore (s : State) (c : Core) : State := { s with core := c }
def State.modCore (s : State) (f : Core → Core) : State := { s with core := f s.core }
def State.modCl (s : State) (f : Cluster → Cluster) : State := { s with cl := f s.cl }

/-- Another slot of the core. -/
def State.withSlot (s : State) (i : Fin 4) : State := { s with cur := i }

/-- A slot field of two bits. -/
def slotOf (b : BitVec 2) : Fin 4 := Fin.ofNat 4 b.toNat

/-- `greg` (R97): `g0` reads as zero (R25). -/
def Thread.greg (t : Thread) (r : Reg) : Word := if r.toNat = 0 then 0 else t.g[r.toNat % 32]'(Nat.mod_lt _ (by decide))
/-- `set_greg` (R97): a write to `g0` is discarded (R25); any other register has good parity from then on (R465). -/
def Thread.setG (t : Thread) (r : Reg) (v : Word) : Thread :=
  if r.toNat = 0 then t
  else { t with g := t.g.set (r.toNat % 32) v (Nat.mod_lt _ (by decide)), bad := t.bad.filter (· ≠ r.toNat % 32) }
def State.g (s : State) (r : Reg) : Word := s.th.greg r
def State.setG (s : State) (r : Reg) (v : Word) : State := s.modTh (·.setG r v)

/-- A `v` register, as an ordinary register. -/
def Thread.vreg (t : Thread) (n : Nat) : Word := t.v[n % 48]'(Nat.mod_lt _ (by decide))
def Thread.setV (t : Thread) (n : Nat) (x : Word) : Thread :=
  { t with v := t.v.set (n % 48) x (Nat.mod_lt _ (by decide)), bad := t.bad.filter (· ≠ 64 + n % 48) }

def Thread.unit (t : Thread) (u : Nat) : StreamUnit := t.units[u % 3]'(Nat.mod_lt _ (by decide))
def Thread.setUnit (t : Thread) (u : Nat) (x : StreamUnit) : Thread :=
  { t with units := t.units.set (u % 3) x (Nat.mod_lt _ (by decide)) }
def Thread.modUnit (t : Thread) (u : Nat) (f : StreamUnit → StreamUnit) : Thread := t.setUnit u (f (t.unit u))

/-- Registers that a dispatched F instruction, or a division, has yet to write (R17, R112). -/
def State.pendingG (s : State) (r : Reg) : Bool :=
  decide (r.toNat ≠ 0) && (s.th.fq.any (fun e => e.raw.gDest == some r.toNat)
    || (match s.core.divider with
        | some d => d.slot == s.cur && d.d == r
        | none => false))

/-- TSR.REP (R126). -/
def Thread.repOn (t : Thread) : Bool := t.rep.act

/-- `next_pc` (R43). -/
def nextPc (pc : BitVec 48) (n : Nat) : BitVec 48 :=
  if pc.toNat / 2 % 32 < n then pc + 2 else BitVec.ofNat 48 (pc.toNat / 64 * 64 + 66)

/-- N of the line that control is in. -/
def Thread.lineCount (t : Thread) : Nat :=
  match t.line with
  | some l => lineN l.bytes
  | none => 31

/-- The instruction after the one at the PC. -/
def Thread.nextPc (t : Thread) : BitVec 48 := Machine.nextPc t.pc t.lineCount

/-- The instruction has completed: the I pipe goes on with the next one. -/
def State.advance (s : State) : State :=
  s.modTh fun t => { t with pc := t.nextPc, status := .ready, park := .none, miss := .none, got := [], midLoad := false }

/-- The instruction cannot issue now (Table 1.1, Stalled). -/
def State.stall (s : State) : State := s.modTh fun t => { t with status := .stalled, onReg := false }

/-- It waits for a register (Table 1.1, R493). -/
def State.stallReg (s : State) : State := s.modTh fun t => { t with status := .stalled, onReg := true }

/-- The instruction waits for a condition (Table 1.1, Parked). -/
def State.parkOn (s : State) (p : Park) : State := s.modTh fun t => { t with status := .parked, park := p }

/-- The slot is in miss wait. -/
def State.missOn (s : State) (m : Miss) : State := s.modTh fun t => { t with status := .missWait, miss := m }

/-- A store waits for a walk in the rotation: stores never leave it (R23). -/
def State.stallWalk (s : State) : State := s.stall.modTh fun t => { t with miss := .walk }

/-- Ready to issue the instruction at the PC again. -/
def Thread.awake (t : Thread) : Thread := { t with status := .ready, park := .none, miss := .none }

/-- The slot is ready and has a PC that names a head. The system slot has none until code is given to it: what its code does is then
done by the steps MISS_RESULT (log 29). -/
def Thread.inTurn (t : Thread) : Bool := t.status == .ready && t.pc.toNat % 64 != 0

/-- A free value (log 9). -/
def State.free (s : State) : Word × State := (Config.freeValue s.freeCtr, { s with freeCtr := s.freeCtr + 1 })

/-! ## Cores and clusters -/

def assocGet {α β : Type} [DecidableEq α] (l : List (α × β)) (k : α) (d : β) : β :=
  match l with
  | [] => d
  | (a, b) :: r => if a = k then b else assocGet r k d

def assocSet {α β : Type} [DecidableEq α] (l : List (α × β)) (k : α) (v : β) : List (α × β) :=
  match l with
  | [] => [(k, v)]
  | (a, b) :: r => if a = k then (k, v) :: r else (a, b) :: assocSet r k v

def assocDel {α β : Type} [DecidableEq α] (l : List (α × β)) (k : α) : List (α × β) := l.filter fun p => p.1 ≠ k

/-- A core by its place; one that is not listed is as at reset. -/
def State.coreAt (s : State) (c : CoreId) : Core := if c = s.cid then s.core else assocGet s.others c {}
def State.putCore (s : State) (c : CoreId) (k : Core) : State :=
  if c = s.cid then { s with core := k } else { s with others := assocSet s.others c k }
def State.modCoreAt (s : State) (c : CoreId) (f : Core → Core) : State := s.putCore c (f (s.coreAt c))
/-- A cluster that is not listed: as at reset, but for the limit that the power manager has set (R478). -/
def State.newCl (s : State) (die : Nat) : Cluster :=
  let l := s.power.fresh[die % 16]'(Nat.mod_lt _ (by decide))
  { limit := l.1, limitSet := l.2 }
def State.clAt (s : State) (c : ClusterId) : Cluster := if c = s.clid then s.cl else assocGet s.otherCls c (s.newCl c.die)
def State.putCl (s : State) (c : ClusterId) (k : Cluster) : State :=
  if c = s.clid then { s with cl := k } else { s with otherCls := assocSet s.otherCls c k }
def State.modClAt (s : State) (c : ClusterId) (f : Cluster → Cluster) : State := s.putCl c (f (s.clAt c))

/-- The cluster whose scratchpad, queues and engines a core uses: its own, or for a spare core that stands for a fenced one,
the one its logical position keeps (R471). -/
def State.clusterOf (s : State) (c : CoreId) : ClusterId := (assocGet s.remap c (⟨c.die, c.clu⟩, c.core)).1

/-- The number of a core within that cluster (R471). -/
def State.coreNo (s : State) (c : CoreId) : Nat := (assocGet s.remap c (⟨c.die, c.clu⟩, c.core)).2

/-- The cluster whose second-level TLB and look-aside buffer a core uses: the one it stands in (R471). -/
def CoreId.home (c : CoreId) : ClusterId := ⟨c.die, c.clu⟩

/-- Where the command queues of a core lie: those of its place in that cluster (R471). -/
def State.cqOf (s : State) (c : CoreId) (off : Nat) : Nat := cqLoc (s.clusterOf c).die (s.clusterOf c).clu (s.coreNo c) off

/-- Core n of a cluster: the spare core that stands for it, or its own. -/
def State.coreIn (s : State) (d : ClusterId) (n : Nat) : CoreId :=
  match s.remap.find? fun r => r.2 == (d, n) with
  | some r => r.1
  | none => ⟨d.die, d.clu, n⟩
def State.coresOf (s : State) (d : ClusterId) : List CoreId := (List.range 8).map (s.coreIn d)

/-- Move to another core and slot. -/
def State.focus (s : State) (c : CoreId) : State :=
  if c = s.cid then s
  else
    let k := s.coreAt c
    let s1 := { s with others := assocDel (assocSet s.others s.cid s.core) c, cid := c, core := k }
    let d := s1.clusterOf c
    if d = s1.clid then s1
    else
      let cl := s1.clAt d
      { s1 with otherCls := assocDel (assocSet s1.otherCls s1.clid s1.cl) d, clid := d, cl := cl }

/-- All cores that are listed, the one in focus first. -/
def State.coreIds (s : State) : List CoreId := s.cid :: s.others.map (·.1)
def State.clusterIds (s : State) : List ClusterId := s.clid :: s.otherCls.map (·.1)

/-- A change to every listed core. -/
def State.mapCores (s : State) (f : CoreId → Core → Core) : State :=
  { s with core := f s.cid s.core, others := s.others.map fun p => (p.1, f p.1 p.2) }
def State.mapCls (s : State) (f : ClusterId → Cluster → Cluster) : State :=
  { s with cl := f s.clid s.cl, otherCls := s.otherCls.map fun p => (p.1, f p.1 p.2) }

/-- The host link is up and not fenced: the host reaches the module (R469). -/
def State.hostUp (s : State) : Bool := s.links.all fun p => p.1.kind != .hostLink || (p.2.up && !p.2.fenced)
/-- An access of the host, over a link that is up; over any other nothing arrives (R469). -/
def State.fromHost (s : State) (f : State → State) : Out := .next (if s.hostUp then f s else s)

def Core.th (c : Core) (i : Fin 4) : Thread := c.slots[i.val]
def Core.setTh (c : Core) (i : Fin 4) (t : Thread) : Core := { c with slots := c.slots.set i.val t }
def Core.modTh (c : Core) (i : Fin 4) (f : Thread → Thread) : Core := c.setTh i (f (c.th i))
/-- The debug module lets a slot issue: the core is not halted, and no other slot is being stepped (R489, R490). -/
def Core.lets (c : Core) (i : Fin 4) : Bool :=
  !c.dbg.halted && (match c.dbg.stepping with
    | some j => j == i
    | none => true)
/-- The slot has issued what STEP lets it issue, and waits for STEP_DONE (R490). -/
def Core.stepped (c : Core) (i : Fin 4) : Bool := c.dbg.issued && c.dbg.stepping == some i
def Core.mapTh (c : Core) (f : Fin 4 → Thread → Thread) : Core :=
  { c with slots := Vector.ofFn fun i => f i c.slots[i.val] }

/-! ## Event counters and time -/

/-- One counter after n events of code `ev` (R487, Table 1.17); `slot` is none for a core event. SATD is set by an event beyond the highest
count, not by the one that reaches it (log 79). -/
def evcBump (w : Word) (ev : Nat) (slot : Option (Fin 4)) (n : Nat) : Word :=
  let x := w.toNat
  let hit := bits x 44 1 == 1 && bits x 32 8 == ev && (match slot with
    | none => true
    | some k => bits x (40 + k.val) 1 == 1)
  if hit && n != 0 then
    let c := bits x 0 32 + n
    if 2 ^ 32 - 1 ≤ c then BitVec.ofNat 64 ((x / 2 ^ 32 * 2 ^ 32 + (2 ^ 32 - 1)) ||| (if 2 ^ 32 - 1 < c then 2 ^ 45 else 0))
    else BitVec.ofNat 64 (x / 2 ^ 32 * 2 ^ 32 + c)
  else w

/-- n events of code `ev` on a core. -/
def Core.count (c : Core) (ev : Nat) (slot : Option (Fin 4)) (n : Nat) : Core :=
  { c with evc := c.evc.map fun w => evcBump w ev slot n }
def State.count (s : State) (ev n : Nat) : State := s.modCore fun c => c.count ev (some s.cur) n

/-- Cycles of a core: the cycle event, the cycles its slots spend in miss wait (unless the debug module has halted them) and parked, pause counts (R487, R120). -/
def Core.cycles (c : Core) (n : Nat) (spent : Bool) : Core :=
  let c := c.count 1 none n
  let c := if spent then c.count 7 none n else c
  let c := [0, 1, 2, 3].foldl (fun c (i : Fin 4) =>
    match (c.th i).status with
    | .missWait => if c.lets i then c.count 5 (some i) n else c
    | .parked => c.count 6 (some i) n
    | _ => c) c
  c.mapTh fun _ t => if t.status = .pausing then { t with pauseLeft := t.pauseLeft - n } else t

/-- The clock of a die. -/
def State.clkOf (s : State) (die : Nat) : Nat := (s.clk[die % 16]'(Nat.mod_lt _ (by decide))).toNat

/-- n cycles pass on a die (R386, R487). -/
def State.tick (s : State) (die n : Nat) : State :=
  if n = 0 then s
  else
    let s := { s with clk := s.clk.set (die % 16) (s.clk[die % 16]'(Nat.mod_lt _ (by decide)) + BitVec.ofNat 64 n) (Nat.mod_lt _ (by decide)) }
    let spent (c : CoreId) : Bool := (s.clAt (s.clusterOf c)).spent
    { s with
      core := if s.cid.die = die then s.core.cycles n (spent s.cid) else s.core
      others := s.others.map fun p => if p.1.die = die then (p.1, p.2.cycles n (spent p.1)) else p }

/-- Energy drawn by the cluster of the core in focus (R388); the limit of the meter is looked at by ENERGY_BUDGET_SPENT. -/
def State.meter (s : State) (n : Nat) : State := s.modCl fun c => { c with meter := c.meter + n }

/-! ## The stream record (R159) -/

def StreamRec.bound (r : StreamRec) : Nat → Nat
  | 0 => r.bound0.toNat
  | 1 => r.bound1.toNat
  | 2 => r.bound2.toNat
  | _ => r.bound3.toNat
def StreamRec.idx (r : StreamRec) : Nat → Nat
  | 0 => r.idx0.toNat
  | 1 => r.idx1.toNat
  | 2 => r.idx2.toNat
  | _ => r.idx3.toNat
def StreamRec.setIdx (r : StreamRec) (k v : Nat) : StreamRec :=
  let x := BitVec.ofNat 16 v
  if k = 0 then { r with idx0 := x } else if k = 1 then { r with idx1 := x } else if k = 2 then { r with idx2 := x }
  else { r with idx3 := x }

/-- The index step of `advance` from dimension k on, `n` dimensions left. -/
def StreamRec.stepIdx (r : StreamRec) : Nat → Nat → StreamRec
  | 0, _ => { r with done := true }
  | n + 1, k => if r.idx k < r.bound k then r.setIdx k (r.idx k + 1) else (r.setIdx k 0).stepIdx n (k + 1)

/-- One element on, whatever RPT says. -/
def StreamRec.nextElem (r : StreamRec) : StreamRec :=
  if r.kind.toNat = 3 then r.setIdx 0 ((r.idx 0 + 1) % (r.bound 0 + 1))
  else if r.kind.toNat = 4 ∨ r.kind.toNat = 5 then r
  else r.stepIdx (r.dims.toNat + 1) 0

/-- T and the position (R159). -/
def StreamRec.total (r : StreamRec) : Nat := (List.range (r.dims.toNat + 1)).foldl (fun a k => a * (r.bound k + 1)) 1
def StreamRec.position (r : StreamRec) : Nat :=
  ((List.range (r.dims.toNat + 1)).foldr (fun k a => r.idx k + (r.bound k + 1) * a) 0)

/-- `advance` (R159). -/
def StreamRec.advance (r : StreamRec) : StreamRec :=
  if r.rcnt.toNat < r.rpt.toNat then { r with rcnt := r.rcnt + 1 } else { r with rcnt := 0 }.nextElem

def advanceTimes : Nat → StreamRec → StreamRec
  | 0, r => r
  | n + 1, r => advanceTimes n r.advance

/-- LEGA, LEGB and CNT of an output unit (Table 6.2). -/
def StreamRec.legA (r : StreamRec) : Nat := bits r.aux.toNat 0 2
def StreamRec.legB (r : StreamRec) : Nat := bits r.aux.toNat 2 2
def StreamRec.cnt (r : StreamRec) : Bool := bits r.aux.toNat 4 1 == 1

/-! ## Ordering points (R178) -/

def dedup : List Nat → List Nat
  | [] => []
  | x :: r => if r.elem x then dedup r else x :: dedup r

/-- The units a dispatched instruction pops: bound sources, each once (R156). -/
def FEntry.pops (e : FEntry) : List Nat := (dedup e.raw.sources).filter fun n => decide (n < 3) && e.bound.getLsbD n
/-- The unit it pushes to. -/
def FEntry.pushes (e : FEntry) : Option Nat :=
  match e.raw.dest with
  | some n => if decide (n < 3) && e.bound.getLsbD n then some n else none
  | none => none
/-- The ports it dequeues from, each once (R187), and the port it enqueues to. -/
def FEntry.portsIn (e : FEntry) : List Nat := ((dedup e.raw.sources).filter fun n => decide (48 ≤ n)).map (· - 48)
def FEntry.portOut (e : FEntry) : Option Nat :=
  match e.raw.dest with
  | some n => if 48 ≤ n then some (n - 48) else none
  | none => none

/-- Pops of a unit by dispatched instructions that have not committed. -/
def Thread.popsOf (t : Thread) (u : Nat) : Nat := t.fq.countP fun e => e.pops.elem u

/-- Elements of a unit that its next `pops` pops use. -/
def StreamUnit.keptElems (x : StreamUnit) (pops : Nat) : Nat := (x.cfg.rcnt.toNat + pops + x.cfg.rpt.toNat) / (x.cfg.rpt.toNat + 1)

/-- The first n fetched elements, and a fault that stands right behind them. -/
def keepFetched (n : Nat) (l : List Elem) : List Elem :=
  l.take n ++ (match l.drop n with
    | e :: _ => if e.fault.isSome then [e] else []
    | [] => [])

/-- The record when n more elements are gone. -/
def elemsOn : Nat → StreamRec → StreamRec
  | 0, r => r
  | n + 1, r => elemsOn n r.nextElem

/-- A unit keeps only these of its fetched elements; a fault that it drops stays recorded for its element (Table 6.7). -/
def StreamUnit.keepOnly (x : StreamUnit) (keep : List Elem) : StreamUnit :=
  let lost := if keep.length < x.fetched.length then (x.fetched.getLast?).bind (·.fault) else none
  { x with
    fetched := keep
    faulted := match lost with
      | some f => some ((elemsOn (x.fetched.length - 1) x.cfg).position, f)
      | none => x.faulted }

/-- Drop what a unit has read too early for the instructions that come behind its next `pops` pops (R178). -/
def Thread.dropUnit (t : Thread) (u pops : Nat) : Thread :=
  let x := t.unit u
  if x.cfg.dir = 1 ∨ x.cfg.kind.toNat = 3 ∨ x.cfg.leg then t
  else
    let keep := keepFetched (x.keptElems pops) x.fetched
    let t := t.setUnit u { x.keepOnly keep with counted := 0 }
    if x.cfg.kind.toNat = 4 ∨ x.cfg.kind.toNat = 5 then
      let cut := fun (t : Thread) (l n : Nat) => t.modUnit l fun y => { y.keepOnly (y.fetched.take n) with consumed := n }
      let sum := fun (f : Elem → Nat) => keep.foldl (fun a e => a + f e) 0
      cut (cut t x.cfg.legA (sum (·.legA))) x.cfg.legB (sum (·.legB))
    else t

/-- Elements read and not popped (R183). -/
def Thread.readCount (t : Thread) : Nat :=
  [0, 1, 2].foldl (fun n u => n + (t.unit u).fetched.countP fun e => e.fault.isNone) 0

/-- An acquire or a fence of the slot (R178): later pops take elements that are read after it. -/
def Thread.orderPoint (t : Thread) : Thread :=
  ((t.dropUnit 0 (t.popsOf 0)).dropUnit 1 (t.popsOf 1)).dropUnit 2 (t.popsOf 2)

/-- The fetch of a ring word is an acquire toward what the pops that have not issued take (R161, R178). -/
def Thread.ringPoint (t : Thread) : Thread :=
  ((t.dropUnit 0 (t.unit 0).taken).dropUnit 1 (t.unit 1).taken).dropUnit 2 (t.unit 2).taken

/-- An acquire of a slot; what its units drop is counted (R183). -/
def Core.orderPoint (c : Core) (i : Fin 4) : Core :=
  let t := (c.th i).orderPoint
  (c.setTh i t).count 0x18 (some i) ((c.th i).readCount - t.readCount)
def State.orderPoint (s : State) : State := s.modCore fun c => c.orderPoint s.cur

def State.ringPoint (s : State) : State :=
  let t := s.th.ringPoint
  (s.setTh t).count 0x18 (s.th.readCount - t.readCount)

def State.orderIf (s : State) (b : Bool) : State := if b then s.orderPoint else s

/-- The instruction of a thread that waited has been performed for it: the slot goes on behind it. -/
def Thread.complete (t : Thread) : Thread :=
  { t with pc := t.nextPc, status := .ready, park := .none, miss := .none, got := [], midLoad := false }

/-! ## Waking -/

/-- Slots whose wait may have ended try again (Table 1.1). -/
def State.wakeWhere (s : State) (p : CoreId → Fin 4 → Thread → Bool) : State :=
  s.mapCores fun c k => k.mapTh fun i t => if p c i t then t.awake else t

/-- Stalled slots of the core look again at what they wait on. -/
def Core.unstall (c : Core) : Core := c.mapTh fun _ t => if t.status = .stalled then { t with status := .ready } else t

/-- A line of a context enters the line cache; the oldest of 64 goes (R118). -/
def Core.keepLine (c : Core) (l : Line) : Core :=
  let ls := c.lines ++ [l]
  { c with lines := ls.drop (ls.length - 64) }

/-- The line cache and the fetch-ahead buffers are emptied (R224, R454). -/
def Core.dropLines (c : Core) : Core := { c.mapTh fun _ t => { t with ahead := none } with lines := [] }

/-- Wake a sleeping slot (R225). -/
def Core.wakeSleeper (c : Core) (i : Fin 4) : Core :=
  c.modTh i fun t => if t.status = .sleeping then t.awake else t

/-! ## Memory -/

/-- The pieces of a range between boundaries of n bytes. -/
def chunks (n : Nat) : Nat → Nat → Nat → List (Nat × Nat)
  | 0, _, _ => []
  | f + 1, a, len =>
    if len = 0 then [] else
      let k := Nat.min len (n - a % n)
      (a, k) :: chunks n f (a + k) (len - k)

/-- The payload of the path to a physical address (Table 9.4). -/
def payload (die pa : Nat) : Nat := if isHost pa then 8 else if homeDie pa = die then 64 else 32

def State.read (s : State) (a n : Nat) : Nat := Memory.read s.mem a n
def State.write (s : State) (a n v : Nat) : State := { s with mem := Memory.write s.mem a n v }
def State.isFull (s : State) (word : Nat) : Bool := s.full.elem word
/-- How often a full/empty word has been emptied. -/
def State.takes (s : State) (word : Nat) : Nat := assocGet s.feTaken word 0
def State.setFull (s : State) (word : Nat) (f : Bool) : State :=
  { s with
    full := if f then (if s.full.elem word then s.full else insertNat word s.full) else removeNat word s.full
    feTaken := if f then s.feTaken else assocSet s.feTaken word (s.takes word + 1) }

/-- The cluster whose scratchpad holds a location. -/
def spCluster (loc : Nat) : ClusterId := ⟨homeDie loc, (loc - spBase) / 2 ^ 17 % 8320⟩

/-- A cluster that is fenced, or on a fenced die (Table 21.5). -/
def State.deadCl (s : State) (c : ClusterId) : Bool := s.deadDies.elem c.die || (s.clAt c).fenced

/-- Every access of a location on a fenced die, or in the scratchpad of a fenced cluster, fails (Table 21.5). -/
def State.deadLoc (s : State) (loc : Nat) : Bool := s.deadDies.elem (homeDie loc) || (isSp loc && (s.clAt (spCluster loc)).fenced)

/-- A word of SRAM, or a block of HBM, that a read of these bytes finds uncorrectable (R465, R498), or a fence. -/
def State.badRange (s : State) (loc len : Nat) : Bool :=
  s.badWords.any (fun w => decide (w < loc + len) && decide (loc < w + 8))
    || s.badBlocks.any (fun b => decide (b < loc + len) && decide (loc < b + 64)) || s.deadLoc loc
def State.badPart (s : State) (ps : List Part) : Option Part := ps.find? fun p => s.badRange p.loc p.len

/-- The value of the parts of an access, lowest first. -/
def State.readParts (s : State) : List Part → Nat
  | [] => 0
  | p :: r => s.read p.loc p.len + 2 ^ (8 * p.len) * s.readParts r

/-- The words of 8 bytes that a range touches. -/
def wordsOf (loc len : Nat) : List Nat :=
  (List.range ((loc + len + 7) / 8 - loc / 8)).map fun i => (loc / 8 + i) * 8

/-- The bank of a scratchpad offset: one of 32 of 4 KiB (Table 0.3). -/
def bankOf (off : Nat) : Nat := off / 2 ^ (3 + Config.bankGrain % 10) % 32

/-- An access of a slot, an engine or a transfer to scratchpad banks that another slot holds waits (R226). -/
def State.bankHeld (s : State) (ps : List Part) (own : Option (CoreId × Fin 4)) : Bool :=
  ps.any fun p => isSp p.loc && (s.clAt (spCluster p.loc)).holds.any fun h =>
    own != some (h.at_, h.slot) && (wordsOf (p.loc % 2 ^ 17) p.len).any fun w => h.bank == bankOf w

/-- The cluster of this module that serves the requests of a port for paged memory (R269, Table 0.3). -/
def hingeCluster (port : BitVec 3) : ClusterId :=
  ⟨(Config.hingeCluster port.toNat).1 % 16, (Config.hingeCluster port.toNat).2 % 8192⟩

/-- The cluster whose SRAM holds a location: its local stores, its scratchpad, its cores' command queues. -/
def sramCluster (loc : Nat) : ClusterId :=
  if isSp loc then spCluster loc
  else ⟨homeDie loc, (if isLs loc then (loc - lsBase) / 2 ^ 14 else (loc - cqBase) / 2 ^ 10) / 8 % 8320⟩

/-- `n` energy units on a cluster's meter (R388). -/
def State.charge (s : State) (d : ClusterId) (n : Nat) : State := s.modClAt d fun x => { x with meter := x.meter + n }

/-! ### The link counters (R387, R494) -/

/-- Flits of a class pass a link direction. -/
def State.hop (s : State) (p : PortDir) (cls : Fin 6) (n : Nat) : State :=
  let t := assocGet s.grid p {}
  { s with grid := assocSet s.grid p { flits := t.flits.set cls (t.flits[cls] + n), period := t.period.set cls (t.period[cls] + n) } }

/-- The link directions on the way from a cluster to a location and back (Table 9.4); a bridge is counted at its sending die (R387). The
index is that of the cluster, of the other die, 0 for the HBM channel and the host link; direction 0 leads away from the accessor, 1 back to
it (log 89). What reaches SRAM from beyond the clusters comes by the memory tree. -/
def pathOf (d : Option ClusterId) (loc : Nat) : List PortDir :=
  let both := fun (die kind index : Nat) => [(⟨die, kind, index, 0⟩ : PortDir), ⟨die, kind, index, 1⟩]
  let bridge := fun (a b : Nat) => if a = b then [] else [(⟨a, 3, b, 0⟩ : PortDir), ⟨b, 3, a, 1⟩]
  if accBase ≤ loc then []
  else if isLs loc || isSp loc || isCq loc then
    let c := sramCluster loc
    match d with
    | some d => if c = d then [] else both d.die 0 d.clu ++ bridge d.die c.die ++ both c.die 0 c.clu
    | none => both c.die 1 c.clu
  else
    match d with
    | some d => if isHost loc then both 0 4 0 else both d.die 1 d.clu ++ bridge d.die (homeDie loc) ++ both (homeDie loc) 2 0
    | none => if isHost loc then both 0 4 0 else both (homeDie loc) 2 0

/-- An access of `n` payloads passes each link direction of its way. -/
def State.pass (s : State) (cls : Fin 6) (d : Option ClusterId) (loc n : Nat) : State :=
  (pathOf d loc).foldl (fun s p => s.hop p cls n) s

/-- A message or a queue word from one core to another: one flit on each link on its way. -/
def State.passCore (s : State) (a b : CoreId) : State :=
  let x := s.clusterOf a
  let y := s.clusterOf b
  if x = y then s
  else
    let bridge : List PortDir := if x.die = y.die then [] else [⟨x.die, 3, y.die, 0⟩]
    let way : List PortDir := ⟨x.die, 0, x.clu, 0⟩ :: bridge ++ [⟨y.die, 0, y.clu, 1⟩]
    way.foldl (fun s p => s.hop p 0 1) s

/-- An access of the device, from a die's own ports. -/
def State.devPass (s : State) (cls : Fin 6) (die loc n : Nat) : State :=
  (pathOf (some ⟨die, 8320⟩) loc).foldl (fun s p => s.hop p cls n) s

/-- The memory energy of one part (Table 16.11), and its flits: the cluster whose SRAM holds it pays for the access. An access from another cluster is
a flit to it, and a reply flit back; one from beyond the clusters reaches it as a memory-tree payload, as an access of memory leaves
its own (log 85). The matrix array's accumulators cost nothing of their own. -/
def State.meterPart (s : State) (cls : Fin 6) (d : Option ClusterId) (p : Part) : State :=
  if accBase ≤ p.loc then s
  else
  let s := s.pass cls d p.loc 1
  if isLs p.loc || isSp p.loc || isCq p.loc then
    let c := sramCluster p.loc
    let s := s.charge c (if isSp p.loc then 2 * ((p.len + 15) / 16) else 1)
    match d with
    | some d => if c = d then s else (s.charge d 1).charge c 1
    | none => s.charge c 4
  else match d with
    | some d => s.charge d 4
    | none => s

/-- The same of the parts of an access; of a thread's from cluster `d`. -/
def State.meterFor (s : State) (cls : Fin 6) (d : Option ClusterId) (ps : List Part) : State := ps.foldl (fun s p => s.meterPart cls d p) s
def State.meterAt (s : State) (d : ClusterId) (ps : List Part) : State := s.meterFor 0 (some d) ps
def State.meterParts (s : State) (ps : List Part) : State := s.meterAt s.clid ps

/-- A loaded value of n bytes, extended (R135). -/
def extend (n : Nat) (zx : Bool) (v : Nat) : Word :=
  if zx then BitVec.ofNat 64 (v % 2 ^ (8 * n)) else BitVec.ofInt 64 (toSigned (v % 2 ^ (8 * n)) (8 * n))

/-- A `waita` waiter reads again (R147): it completes when the value differs, and stays when it does not; where it cannot read now, its
instruction issues again. -/
def State.rereadWaita (s : State) (w : WaitaWaiter) : State :=
  let gone := { s with waitaQ := s.waitaQ.erase w }
  if (s.badPart w.parts).isSome || s.bankHeld w.parts (some (w.at_, w.slot)) then gone.modCoreAt w.at_ fun c => c.modTh w.slot Thread.awake
  else
    let x := s.readParts w.parts
    if x = w.cmp then s.meterAt (s.clusterOf w.at_) w.parts
    else (gone.meterAt (s.clusterOf w.at_) w.parts).modCoreAt w.at_ fun c =>
      (if w.acq then c.orderPoint w.slot else c).modTh w.slot fun t => (t.setG w.d (extend w.size w.zx x)).complete

/-- A write to an SRAM word wakes the `waita` waiters on it, which read again in the order they came (R147). -/
def State.wakeWaita (s : State) (word : Nat) : State := (s.waitaQ.filter (·.word = word)).foldl State.rereadWaita s

/-- A write of a range of SRAM wakes the waiters on its words. -/
def State.wakeRange (s : State) (loc len : Nat) : State :=
  if isSram loc then (wordsOf loc len).foldl (fun s w => s.wakeWaita w) s else s

/-- What a byte of SRAM holds after software writes it: the miss mailbox is read-only, the page-wait words keep their reserved bits
(Tables 17.2, 17.5). -/
def softByte (loc : Nat) (old new : Byte) : Byte :=
  let off := (loc - lsBase) % 2 ^ 14
  if !isLs loc || decide (off < 0x2C00) || decide (0x2C40 ≤ off) then new
  else if off < 0x2C20 then old
  else if off % 8 < 4 then new else if off % 8 = 4 then new &&& 1 else 0

/-- Bytes as software can write them at a location. -/
def State.softBytes (s : State) (loc : Nat) (bs : List Byte) : List Byte :=
  if isLs loc then bs.zipIdx.map fun (b, i) => softByte (loc + i) (Memory.byte s.mem (loc + i)) b else bs

/-- Bytes written at a location: a word of SRAM that is wholly covered loses its quarantine (R466), `waita` waiters wake. -/
def State.writeBytes (s : State) (loc : Nat) (bs : List Byte) : State :=
  let n := bs.length
  let s := { s with mem := Memory.setBytes s.mem loc (s.softBytes loc bs)
                    badWords := s.badWords.filter fun w => !(decide (loc ≤ w) && decide (w + 8 ≤ loc + n))
                    badBlocks := s.badBlocks.filter fun b => !(decide (loc ≤ b) && decide (b + 64 ≤ loc + n))
                    quarantine := s.quarantine.filter fun w => !(decide (loc ≤ w) && decide (w + 8 ≤ loc + n)) }
  s.wakeRange loc n

/-- The parts of an access written with a value, lowest first. -/
def State.writeParts (s : State) : List Part → Nat → State
  | [], _ => s
  | p :: r, v => (s.writeBytes p.loc (leBytes p.len v)).writeParts r (v / 2 ^ (8 * p.len))

/-- Where the local store, and the miss mailbox and page-wait words in it, of a core lie (Tables 1.4, 17.2). -/
def CoreId.ls (c : CoreId) (off : Nat) : Nat := lsLoc c.die c.clu c.core off
def CoreId.pageWait (c : CoreId) (slot : Nat) : Nat := c.ls (0x2C20 + 8 * slot)

/-! ## Page-in requests (R401) -/

/-- ISSUED of a slot's page-wait word advances; the update is a write that wakes `waita` (R404). -/
def State.bumpPw (s : State) (c : CoreId) (slot : Nat) (lo : Nat) : State :=
  let a := c.pageWait slot
  let v := bits (s.read (a + lo / 8) 2) 0 16
  (s.write (a + lo / 8) 2 ((v + 1) % 2 ^ 16)).wakeWaita a

/-- Send the request of a pending-list entry to the node of the cluster, unless the list is full (R401). -/
def State.sendPage (s : State) (c : CoreId) (ctx : BitVec 4) (page : Nat) : State :=
  { s with pageFly := s.pageFly ++ [{ dest := .cluster c.die c.clu, child := .core c, ctx := ctx, page := page }] }

/-- A page-in request of a slot, or of a transfer, or of a prefetch (neither): merged, or entered and sent (R401, R404). The
list's first 8 entries are the hardware's; a further one waits behind them, and counts for its slots when it enters. -/
def State.pageIn (s : State) (c : CoreId) (slot : Option (Fin 4)) (transfer : Option Nat) (ctx : BitVec 4) (va : Nat) : State :=
  let page := va / 4096
  let k := s.coreAt c
  let at_ := k.pageWaits.findIdx fun e => e.ctx == ctx && e.page == page
  let s := match slot with
    | some i => if at_ < 8 then s.bumpPw c i.val 0 else s
    | none => s
  let sl := slot.toList
  let tr := transfer.toList
  if at_ < k.pageWaits.length then
    s.modCoreAt c fun k => { k with pageWaits := k.pageWaits.map fun e =>
      if e.ctx == ctx && e.page == page then { e with slots := e.slots ++ sl, transfers := e.transfers ++ tr } else e }
  else
    let s := s.modCoreAt c fun k => { k with pageWaits := k.pageWaits ++ [⟨ctx, page, sl, tr⟩] }
    if at_ < 8 then s.sendPage c ctx page else s

/-! ## Route and core tables (R367, R368) -/

/-- ST, die and cluster of a route entry; ST 3 or a reserved bit makes it invalid (R367), and so does a fence of its cluster
(Table 21.5). -/
def State.route (s : State) (ctx : BitVec 4) (lcn : Nat) : Nat × ClusterId :=
  let e := s.read (s.ctxs[ctx.toNat].rtab + 8 * lcn) 8
  let st := bits e 0 2
  if e / 2 ^ 20 = 0 ∧ st ≠ 3 ∧ s.deadCl ⟨bits e 2 4, bits e 6 14⟩ = false then (st, ⟨bits e 2 4, bits e 6 14⟩) else (0, ⟨0, 0⟩)

/-- LCN of a logical position (R230). -/
def lcnOf (x y : Nat) : Nat := y / 2 * 256 + x / 4

/-- What a logical position maps to (R368): a core, nothing, or an absent route entry. -/
inductive Place where
  | core (c : CoreId)
  | noCore
  | absent
deriving DecidableEq, Repr

def State.placeOf (s : State) (ctx : BitVec 4) (x y : Nat) : Place :=
  let k := s.ctxs[ctx.toNat]
  let e := s.read (k.ctab + 4 * (1024 * y + x)) 4
  if bits e 0 1 = 0 ∨ k.twm1.toNat < x ∨ k.thm1.toNat < y then .noCore
  else
    let (st, c) := s.route ctx (lcnOf x y)
    if bits e 1 1 = 1 then (if st = 0 then .noCore else if st = 2 then .absent else .core ⟨bits e 2 4, bits e 6 14, bits e 20 3⟩)
    else if st = 1 then .core ⟨c.die, c.clu, x % 4 + 4 * (y % 2)⟩
    else if st = 2 then .absent else .noCore

/-- Logical x and y of a thread (Table 1.14). -/
def Thread.lx (t : Thread) : Nat := bits t.lcid.toNat 20 10
def Thread.ly (t : Thread) : Nat := bits t.lcid.toNat 30 10

/-- The logical position a port of a thread leads to (R260): 0 north, 1 east, 2 south, 3 west, on the torus. -/
def State.neighbour (s : State) (t : Thread) (port : Nat) : Nat × Nat :=
  let k := s.ctxs[t.ctx.toNat]
  let w := k.twm1.toNat + 1
  let h := k.thm1.toNat + 1
  let x := t.lx
  let y := t.ly
  if port = 0 then (x, (y + h - 1) % h) else if port = 1 then ((x + 1) % w, y)
  else if port = 2 then (x, (y + 1) % h) else ((x + w - 1) % w, y)

/-- The port of the neighbour in which a push to a port lands: the opposite one (R260). -/
def opposite (port : Nat) : Fin 4 := Fin.ofNat 4 (port + 2)

def Core.port (c : Core) (slot : Fin 4) (p : Nat) : Port := (c.ports[slot.val])[p % 4]'(Nat.mod_lt _ (by decide))
def Core.setPort (c : Core) (slot : Fin 4) (p : Nat) (q : Port) : Core :=
  { c with ports := c.ports.set slot.val ((c.ports[slot.val]).set (p % 4) q (Nat.mod_lt _ (by decide))) }
def Core.modPort (c : Core) (slot : Fin 4) (p : Nat) (f : Port → Port) : Core := c.setPort slot p (f (c.port slot p))

/-! ## Full/empty words (R142 to R146) -/

/-- A waiter's condition holds (Table 5.4): kinds 2 and 4 need the word empty, the others full. -/
def feHolds (full : Bool) (kind : BitVec 3) : Bool := if kind.toNat = 2 ∨ kind.toNat = 4 then !full else full

/-- A send that is a release waits for one store less (R254 step 5). -/
def RetryEntry.behind (r : RetryEntry) (e : SbEntry) (rest : List SbEntry) : RetryEntry :=
  match e.owner with
  | .fst n | .push n _ => if rest.any (·.owner = e.owner) then r else { r with rings := r.rings.filter (· ≠ n) }
  | .store => { r with ahead := r.ahead - 1 }

/-- The first n entries of a slot's store buffer have drained. -/
def Core.popStores (c : Core) (i : Fin 4) : Nat → Core
  | 0 => c
  | n + 1 =>
    match (c.th i).sb with
    | [] => c
    | e :: rest =>
      Core.popStores { c.modTh i fun t => { t with sb := rest } with
        retry := c.retry.map fun r => if r.slot = i then r.behind e rest else r } i n

/-- A ring unit takes the word at which it stands, for `sskip` (R173). -/
def StreamUnit.skipWord (x : StreamUnit) : StreamUnit := { x with cfg := { x.cfg with rcnt := x.cfg.rpt }.advance, fetched := [] }

/-- Perform one waiter (Table 5.4). On a bad word it tries again, and takes its trap (Table 5.5); the word of a ring push is its whole
store-buffer entry (R161). -/
def State.performWaiter (s : State) (w : FeWaiter) : State :=
  let x := BitVec.ofNat 64 (s.read w.word 8)
  let now := fun (s : State) (f : Thread → Thread) => s.modCoreAt w.at_ fun c => (if w.acq then c.orderPoint w.slot else c).modTh w.slot f
  if w.kind.toNat = 4 then
    match ((s.coreAt w.at_).th w.slot).sb with
    | e :: _ =>
      if e.fill ∧ e.word = w.word then
        ((s.writeBytes w.word (leBytes 8 e.data.toNat)).setFull w.word true).modCoreAt w.at_ fun c => c.popStores w.slot 1
      else s
    | [] => s
  else if s.badRange w.word 8 then s.modCoreAt w.at_ fun c => c.modTh w.slot fun t => { t.awake with poisoned := w.kind.toNat != 3 }
  else if w.kind.toNat = 2 then now ((s.writeBytes w.word (leBytes 8 w.data.toNat)).setFull w.word true) Thread.complete
  else if w.kind.toNat = 3 then
    now (s.setFull w.word false) fun t => { (t.modUnit w.d.toNat StreamUnit.skipWord).awake with skipLeft := t.skipLeft.map (· - 1) }
  else now (if w.kind.toNat = 0 then s.setFull w.word false else s) fun t => (t.setG w.d x).complete

/-- Serve the waiter list of a word: the oldest waiter whose condition holds and whose bank no other slot holds, and again (R143, R226). -/
def State.serveFuel : Nat → Nat → State → State
  | 0, _, s => s
  | n + 1, word, s =>
    match s.feWait.find? (fun w => w.word == word && feHolds (s.isFull word) w.kind && !s.bankHeld [⟨word, 8⟩] (some (w.at_, w.slot))) with
    | none => s
    | some w => State.serveFuel n word ({ s with feWait := s.feWait.erase w }.performWaiter w)

def State.serve (s : State) (word : Nat) : State := State.serveFuel s.feWait.length word s

/-- Waiters of words in banks that are no longer held are served (R226). -/
def State.serveAll (s : State) : State := (dedup (s.feWait.map (·.word))).foldl State.serve s

/-- A full/empty bit set, and its waiters served (R143). -/
def State.feSet (s : State) (word : Nat) (f : Bool) : State := (s.setFull word f).serve word

/-- A leg after n of its elements have gone into committed output (R163). -/
def StreamUnit.legCommit (u : StreamUnit) (n : Nat) : StreamUnit :=
  { u with cfg := advanceTimes n u.cfg, fetched := u.fetched.drop n, consumed := u.consumed - n }

/-- A committed pop from unit u (R156, R161, R163): the element leaves with its last delivery. -/
def State.commitPop (s : State) (u : Nat) : State :=
  let t := s.th
  let x := t.unit u
  match x.fetched with
  | [] => s
  | e :: rest =>
    let y := { x with cfg := x.cfg.advance, taken := x.taken - 1 }
    if x.cfg.rcnt.toNat < x.cfg.rpt.toNat then s.setTh (t.setUnit u y)
    else
      let y := { y with fetched := rest }
      if x.cfg.kind.toNat = 4 ∨ x.cfg.kind.toNat = 5 then
        let ends := x.cfg.cnt || e.val == BitVec.allOnes 64
        let y := { y with outCount := y.outCount + 1, cfg := if ends then { y.cfg with done := true } else y.cfg }
        s.setTh (((t.setUnit u y).modUnit x.cfg.legA (·.legCommit e.legA)).modUnit x.cfg.legB (·.legCommit e.legB))
      else
        let s := s.setTh (t.setUnit u y)
        if x.cfg.kind.toNat = 3 then s.feSet e.loc false else s

/-! ## Commit of F instructions (R215) -/

/-- A write to a `v` register clears the holds tagged with it (R28). -/
def Thread.dropHolds (t : Thread) (n : Nat) : Thread :=
  { t with latch := t.latch.map fun l => if l.map (·.toNat) = some n then none else l }

/-- The word an instruction enqueues goes on its way to the neighbour (R260, R261), a flit of the near mesh (Table 16.11). -/
def State.enqueue (s : State) (port : Nat) (w : QWord) : State :=
  let (x, y) := s.neighbour s.th port
  match s.placeOf s.th.ctx x y with
  | .core c => State.meter { s.passCore s.cid c with qFly := s.qFly ++ [⟨c, s.cur, opposite port, w⟩] } 1
  | _ => s

/-- What the destinations of a completed instruction get at its commit. -/
def State.commitDest (s : State) (e : FEntry) (r : FResult) : State :=
  let s := match e.raw.gDest, r.g with
    | some n, some x => s.modTh fun t => t.setG (BitVec.ofNat 6 n) x
    | _, _ => s
  match e.pushes, e.portOut, e.raw.dest, r.v with
  | some u, _, _, _ => s.modTh fun t =>
      { (t.modUnit u fun x => { x with cfg := x.cfg.advance, taken := x.taken - 1 }) with
        sb := t.sb.map fun b => if b.owner = .push e.ring (BitVec.ofNat 2 u) then { b with committed := true } else b }
  | none, some p, _, some x => s.enqueue p ⟨x, false⟩
  | none, none, some n, some x => s.modTh fun t => (t.setV n x).dropHolds n
  | _, _, _, _ => s

/-- An F instruction commits (R215, R94, R90, R156, R487). -/
def State.commit (s : State) (e : FEntry) (r : FResult) : State :=
  let s := s.commitDest e r
  let s := e.pops.foldl (fun s u => s.commitPop u) s
  let s := e.portsIn.foldl (fun s p => s.modCore fun c => c.modPort s.cur p fun q =>
    { q with words := q.words.drop 1, taken := q.taken - 1, ctld := q.ctld || (q.words.head?.map (·.ctl)).getD false }) s
  let s := s.modTh fun t =>
    { t with
      fflags := t.fflags ||| BitVec.ofNat 5 r.flags
      srcount := if r.draw then t.srcount + 1 else t.srcount
      fq := t.fq.drop 1
      sb := t.sb.map fun b => if b.owner = .fst e.ring then { b with committed := true } else b }
  let s := (((((s.count 3 1).count 0x10 r.nanE).count 0x11 r.ovfE).count 0x12 r.unfE).count 0x13 r.upE)
  let late := e.pops.countP e.waited.elem
  (s.count 0x19 late).count 0x1A (e.pops.length - late)

/-- Another consumer took the ring word that an element was read from (R161). -/
def State.stale (s : State) (e : Elem) : Bool := !s.isFull e.loc || s.takes e.loc != e.gen

/-- Another consumer took a ring word that an entry has popped (R161). -/
def State.ringGone (s : State) (e : FEntry) : Bool :=
  e.pops.any fun u =>
    let x := s.th.unit u
    decide (x.cfg.kind.toNat = 3) && (match x.fetched with
      | w :: _ => s.stale w
      | [] => false)

/-- Every entry of the slot stands unissued again, as after a cancellation (R215); rings fetch their words again. -/
def State.unissue (s : State) : State :=
  let s := s.modCore fun c =>
    { c with
      sfuQ := c.sfuQ.filter fun q => q.1 != s.cur
      ports := c.ports.set s.cur.val ((c.ports[s.cur.val]).map fun q => { q with taken := 0 }) }
  s.modTh fun t =>
    { t with
      fq := t.fq.map fun e => { e with st := .waiting }
      latch := Vector.replicate 3 none
      units := t.units.map fun u => { u with taken := 0, fetched := if u.cfg.kind.toNat = 3 then [] else u.fetched }
      sb := t.sb.filter fun b => b.committed }

/-- The operand words of an entry that has issued, from the registers as older instructions leave them: those that have
completed forward their results (R215). -/
def Thread.forwarded (t : Thread) (older : List FEntry) (n : Nat) : Word :=
  older.foldl (fun x e => match e.st, e.raw.dest, e.pushes with
    | .done r, some d, none => if d = n then r.v.getD x else x
    | _, _, _ => x) (t.vreg n)

/-- The surroundings of an instruction: mode, seed, and the count at its place in program order (R90). -/
def Thread.fEnv (t : Thread) (older : List FEntry) : FEnv :=
  ⟨t.rm.toNat, t.srseed.toNat, (t.srcount.toNat + older.countP fun e => match e.st with
    | .done r => r.draw
    | _ => false) % 2 ^ 64⟩

/-! ## Withdrawing (R145) -/

/-- What some slots wait for is withdrawn from the lists that keep waiters in order (R145). -/
def State.unwait (s : State) (p : CoreId → Fin 4 → Bool) : State :=
  let s := s.mapCores fun c k => { k with recvWait := k.recvWait.filter fun w => !p c w.slot }
  State.mapCls { s with feWait := s.feWait.filter fun w => w.kind == 4 || !p w.at_ w.slot
                        waitaQ := s.waitaQ.filter fun w => !p w.at_ w.slot } fun _ x =>
    { x with
      semWait := x.semWait.filter fun w => !p w.at_ w.slot
      holdWait := x.holdWait.filter fun w => !p w.at_ w.slot }

/-! ## Vectors, halts, error records, notices (R432, R440, R475) -/

/-- An event of a vector: its message is sent, or it becomes pending while masked (R432). -/
def State.sendVec (s : State) (v : Nat) : State :=
  let e := assocGet s.vecs v {}
  if e.mask then { s with vecs := assocSet s.vecs v { e with pending := true } }
  else { s with vecSent := s.vecSent ++ [(e.addr, e.data)] }

def State.queue (s : State) (q : Nat) : Queue := assocGet s.queues q {}
def State.modQueue (s : State) (q : Nat) (f : Queue → Queue) : State := { s with queues := assocSet s.queues q (f (s.queue q)) }

/-- A queue halts (R440); one that is halted already keeps what it has recorded (log 78). -/
def State.haltQueue (s : State) (q : Nat) (err : BitVec 8) (ix : BitVec 32) (refused : Bool) : State :=
  if (s.queue q).halted then s
  else
  let s := s.modQueue q fun x => { x with halted := true, err := err, fidx := ix, refused := refused }
  if (s.queue q).eie then s.sendVec (s.queue q).evec.toNat else s

/-- A command completes: it signals, unless it has failed (R436, R440, R442). -/
def State.completeCmd (s : State) (q : Nat) (ix : BitVec 32) (ok : Bool) : State :=
  match (s.queue q).taken.find? (·.1 = ix) with
  | none => s
  | some (_, h) =>
    let s := s.modQueue q fun x => { x with taken := x.taken.filter (·.1 ≠ ix) }
    let sem := bits h.toNat 16 8
    if ok && bits h.toNat 6 1 == 1 then
      { s with ksems := s.ksems.set (sem % 256) (s.ksems[sem % 256]'(Nat.mod_lt _ (by decide)) + BitVec.ofNat 32 (bits h.toNat 24 8)) (Nat.mod_lt _ (by decide)) }
    else s

/-- The core an interrupt reaches wakes its slot (R225). -/
def State.post (s : State) (c : CoreId) (slot : Fin 4) (a : AsyncCause) : State :=
  s.modCoreAt c fun k => (k.modTh slot fun t => { t with async := t.async ++ [a] }).wakeSleeper slot

/-- The running threads of a team, with their places. -/
def State.threadsOf (s : State) (team : Nat) : List (CoreId × Fin 4) :=
  s.coreIds.flatMap fun c => ([0, 1, 2] : List (Fin 4)).filterMap fun i =>
    let t := (s.coreAt c).th i
    if t.status ≠ .empty ∧ t.team = some team then some (c, i) else none

/-- Keyway sends an interrupt request (R430, R416). -/
def State.sendReq (s : State) (c : CoreId) (slot : Fin 4) (kind : ReqKind) (cmd : Option (Nat × BitVec 32)) : State :=
  let no := s.reqNo + 1
  let sub : BitVec 8 := match kind with
    | .out | .swap => 1
    | .evict => 2
    | .abort => 4
  let t := (s.coreAt c).th slot
  State.post { s with reqNo := no, reqs := s.reqs ++ [⟨no, kind, c, slot, t.uid, cmd⟩] } c slot ⟨0x0F, sub, no.setWidth 64⟩

/-- A save block is free again (R441). -/
def State.freeBlock (s : State) (ctx : BitVec 4) (a : Nat) : State :=
  { s with pools := s.pools.set ctx.toNat { s.pools[ctx.toNat] with used := s.pools[ctx.toNat].used.filter (·.1 ≠ a) } }

/-- Every thread of a team is asked to empty its slot (R441, R473); its switched-out threads and saved clusters are given up. -/
def State.abortTeam (s : State) (team : Nat) : State :=
  match s.teams.find? (·.id = team) with
  | none => s
  | some tm =>
    if tm.aborted then s
    else
      let s := (s.threadsOf team).foldl (fun s p => s.sendReq p.1 p.2 .abort none) s
      let gone := s.outs.filter (·.team = team)
      let s := gone.foldl (fun s o => s.freeBlock o.ctx o.block) { s with outs := s.outs.filter (·.team ≠ team) }
      let s := tm.saved.foldl (fun s b => s.freeBlock tm.ctx b.block) s
      { s with teams := s.teams.map fun x => if x.id = team then { x with aborted := true, saved := [] } else x }

/-- The start-up record (Table 21.2). -/
def Boot.record (b : Boot) : List Byte :=
  [b.state, b.wfail, b.cfail, 0] ++ leBytes 4 b.boots.toNat ++ leBytes 8 0x1000 ++ leBytes 8 0x1040 ++ leBytes 8 0x2000 ++ leBytes 2 b.enext.toNat
    ++ List.replicate 30 0 ++ b.meas.take 32 ++ leBytes 4 b.fwsvn.toNat ++ Config.idKey.take 64

/-- Bytes of the first block of the start-up record change. A block whose code is uncorrectable is written whole, as one access of the hub
die, and is good from then on (R498; log 87). -/
def State.putRecord (s : State) (a : Nat) (bs : List Byte) : State :=
  if s.badBlocks.elem 0 then
    { s with mem := Memory.setBytes s.mem 0 (s.boot.record.take 64), badBlocks := s.badBlocks.filter (· ≠ 0) }
  else { s with mem := Memory.setBytes s.mem a bs }

/-- ENEXT in the start-up record (Table 21.2). -/
def State.setEnext (s : State) (n : BitVec 16) : State :=
  State.putRecord { s with boot := { s.boot with enext := n } } 0x20 (leBytes 2 n.toNat)

def ctxMask (cs : List (BitVec 4)) : Nat := cs.foldl (fun m c => m ||| 2 ^ c.toNat) 0

/-- The threads that a context notice reaches: of each surviving team of the contexts that uses the die, the running thread
with the lowest N (R475). -/
def State.noticed (s : State) (die : Nat) (cs : List (BitVec 4)) : List (CoreId × Fin 4) :=
  s.teams.filterMap fun tm =>
    let ts := s.threadsOf tm.id
    if cs.elem tm.ctx && !tm.aborted && ts.any (·.1.die = die) then
      ts.foldl (fun best p =>
        let n := fun (p : CoreId × Fin 4) => bits ((s.coreAt p.1).th p.2).lcid.toNat 0 20
        match best with
        | none => some p
        | some b => if n p < n b then some p else some b) none
    else none

/-- Write an error record (Table 21.6), a whole block (R498), send the notices of a fence, a repair or a retirement, and GVEC (R475). -/
def State.errorRecord (s : State) (kind : Nat) (c : CoreId) (slot count paddr detail : Nat) (cs : List (BitVec 4)) (notice : Bool) : State :=
  let no := s.boot.enext
  let who := if notice then s.noticed c.die cs else []
  let w0 := kind + 2 ^ 8 * c.die + 2 ^ 12 * c.clu + 2 ^ 26 * c.core + 2 ^ 29 * slot + (if who.isEmpty then 0 else 2 ^ 31) + 2 ^ 32 * count
  let clk := s.clkOf c.die
  let v := w0 + 2 ^ 64 * paddr + 2 ^ 128 * detail + 2 ^ 192 * ctxMask cs + 2 ^ 256 * clk
  let a := 0x2000 + 64 * (no.toNat % 4096)
  let s := State.setEnext { s.write a 64 v with badBlocks := s.badBlocks.filter (· ≠ a) } (no + 1)
  let s := who.foldl (fun s p => s.post p.1 p.2 ⟨0x0F, 3, no.setWidth 64⟩) s
  if s.gie then s.sendVec s.gvec.toNat else s

/-- Requests to a slot that no longer holds the thread are met; a command that waits for nothing more completes (Table 19.7). -/
def State.settle (s : State) (c : CoreId) (i : Fin 4) : State :=
  let (mine, rest) := s.reqs.partition fun r => r.at_ == c && r.slot == i
  mine.foldl (fun s r => match r.cmd with
    | some (q, ix) => if r.kind = .evict || s.reqs.any (·.cmd = r.cmd) then s else s.completeCmd q ix true
    | none => s) { s with reqs := rest }

/-- The logical positions of a context that map to a core. -/
def State.positionsAt (s : State) (ctx : Fin 16) (c : CoreId) : List (Nat × Nat) :=
  let k := s.ctxs[ctx]
  if !k.valid then []
  else ((List.range (k.thm1.toNat + 1)).flatMap fun y => (List.range (k.twm1.toNat + 1)).map fun x => (x, y)).filter fun p =>
    s.placeOf (BitVec.ofNat 4 ctx.val) p.1 p.2 == .core c

/-- The contexts that a core concerns: those with seats on it, those whose positions map to it, the owner of its cluster (R475). -/
def State.ctxsAt (s : State) (c : CoreId) : List (BitVec 4) :=
  let x := s.clAt (s.clusterOf c)
  (s.teams.filter fun tm => tm.seats.any (·.at_ = c)).map (·.ctx) ++ (if x.own then [x.ctx] else [])
    ++ ((List.finRange 16).filter fun i => !(s.positionsAt i c).isEmpty).map fun i => BitVec.ofNat 4 i.val

/-- A core is fenced (Table 21.5): its slots are emptied with no image, its teams aborted; what Keyway asked of a slot is met. -/
def State.fenceCore (s : State) (c : CoreId) : State :=
  let k := s.coreAt c
  let teams := dedup (([0, 1, 2] : List (Fin 4)).filterMap fun i => if (k.th i).status = .empty then none else (k.th i).team)
    ++ (s.teams.filter fun tm => tm.seats.any (·.at_ = c)).map (·.id)
  let cs := (s.teams.filter fun tm => teams.elem tm.id).map (·.ctx) ++ s.ctxsAt c
  let s := s.unwait fun d _ => d == c
  let s := s.modCoreAt c fun k =>
    { k with slots := Vector.replicate 4 {}, fenced := true }
  let s := (List.finRange 4).foldl (fun s i => s.settle c i) s
  let s := (dedup teams).foldl (fun s t => s.abortTeam t) s
  s.errorRecord 9 c 0 1 0 0 (dedupCtx cs) true
where
  dedupCtx : List (BitVec 4) → List (BitVec 4)
    | [] => []
    | x :: r => if r.elem x then dedupCtx r else x :: dedupCtx r

/-- Which contexts have seats on a die or own clusters of it, for records about it. -/
def State.ctxsOf (s : State) (p : CoreId → Bool) : List (BitVec 4) :=
  State.fenceCore.dedupCtx ((s.teams.filter fun tm => tm.seats.any fun q => p q.at_).map (·.ctx)
    ++ (s.clusterIds.filter fun d => p ⟨d.die, d.clu, 0⟩ && (s.clAt d).own).map fun d => (s.clAt d).ctx)

/-- A write that an uncorrectable HBM block refuses writes a record of KIND 5 (R498). -/
def State.badWrite (s : State) (loc : Nat) : State :=
  if isHbm loc then s.errorRecord 5 ⟨homeDie loc, 0, 0⟩ 0 1 (loc / 64 * 64) 0 [] false else s

/-- The core that an SRAM location belongs to, core 0 for one of the scratchpad. -/
def sramCore (loc : Nat) : CoreId :=
  if isSp loc then ⟨homeDie loc, (spCluster loc).clu, 0⟩
  else ⟨homeDie loc, (loc - lsBase) / 2 ^ 14 / 8 % 8320, (loc - lsBase) / 2 ^ 14 % 8⟩

/-- An uncorrectable SRAM word is quarantined; a list that is full (8 words of a scratchpad bank, 4 of a local store) overflows: a
record of KIND 15 (R466, Table 21.6). -/
def State.quarantineWord (s : State) (w : Nat) : State :=
  if s.quarantine.elem w then s
  else
    let c := sramCore w
    let same := fun (x : Nat) =>
      if isSp w then isSp x && spCluster x == spCluster w && bankOf (x % 2 ^ 17) == bankOf (w % 2 ^ 17)
      else isLs x && sramCore x == c
    if s.quarantine.countP same < (if isSp w then 8 else 4) then { s with quarantine := insertNat w s.quarantine }
    else (s.modClAt c.home fun x => { x with overflows := x.overflows + 1 }).errorRecord 15 c 0 1 0 0 [] false

/-- A read has found bytes uncorrectable: the word is quarantined, and a record of KIND 2 or 5 is written (R465, R475). -/
def State.badRead (s : State) (loc len : Nat) : State :=
  if s.deadLoc loc then s
  else if isSram loc then
    match s.badWords.find? fun w => decide (w < loc + len) && decide (loc < w + 8) with
    | some w =>
      let c := sramCore w
      let k := s.clAt c.home
      (s.quarantineWord w).errorRecord 2 c 0 1 0 0 (if k.own then [k.ctx] else []) false
    | none => s
  else if isHbm loc then s.errorRecord 5 ⟨homeDie loc, 0, 0⟩ 0 1 (loc / 64 * 64) 0 [] false else s
def State.badReadParts (s : State) (ps : List Part) : State :=
  match s.badPart ps with
  | some p => s.badRead p.loc p.len
  | none => s

/-- A write of these parts that a bad word or block discards: a part of a bad SRAM word, or of a bad HBM block not covered
whole by one access at its home (R134, R498). -/
def State.refuses (s : State) (ps : List Part) : Option Nat :=
  (ps.find? fun p => s.deadLoc p.loc ||
    s.badWords.any (fun w => decide (w < p.loc + p.len) && decide (p.loc < w + 8) && !(decide (p.loc ≤ w) && decide (w + 8 ≤ p.loc + p.len)))
      || s.badBlocks.any fun b => decide (b < p.loc + p.len) && decide (p.loc < b + 64) && !(decide (p.loc ≤ b) && decide (b + 64 ≤ p.loc + p.len))).map (·.loc)

/-- Some of a write of the device, made from a die, is discarded (R498). -/
def State.devRefuses (s : State) (die loc n : Nat) : Bool :=
  (chunks (payload die loc) n loc n).any fun p => (s.refuses [⟨p.1, p.2⟩]).isSome

/-- A write of the device, made from a die, in a class of Table 16.9 (log 89): what a bad block refuses of it is discarded (R498). -/
def State.devWrite (s : State) (die loc : Nat) (bs : List Byte) (cls : Fin 6 := 5) : State :=
  (chunks (payload die loc) bs.length loc bs.length).foldl (fun s p =>
    let s := s.devPass cls die p.1 1
    match s.refuses [⟨p.1, p.2⟩] with
    | some l => s.badWrite l
    | none => s.writeBytes p.1 ((bs.drop (p.1 - loc)).take p.2)) s

/-- A machine check is entered (R465): the register it names is written zero, a record of KIND 3 is written, and the core counts its
checks (R470). -/
def State.machineCheck (s : State) (code : Nat) : State :=
  let now := s.clkOf s.cid.die
  let s := s.modTh fun t =>
    if code = 0x7F then { t with badEntry := false }
    else if code < 64 then t.setG (BitVec.ofNat 6 code) 0 else t.setV (code - 64) 0
  let s := s.modCore fun c => { c with checks := (now :: c.checks).take 3 }
  s.errorRecord 3 s.cid s.cur.val 1 0 0 [s.th.ctx] false

/-! ## Traps (chapter 08) -/

/-- A trap to be taken. -/
structure Trap where
  cause : BitVec 8
  sub : BitVec 8 := 0
  tinfo : Word := 0
  late : Bool := false
  fside : Bool := false
  tpc : BitVec 48
deriving DecidableEq, Repr

/-- The late arithmetic trap of an instruction whose flag is enabled (R95, Table 8.3). -/
def arithTrap (e : FEntry) (r : FResult) : Trap :=
  { cause := 8, tinfo := BitVec.ofNat 64 (r.flags + 256 * e.ring.toNat), late := true, fside := true, tpc := e.pc }

/-- An enabled flag is among those the instruction would set (R95). -/
def Thread.flagTraps (t : Thread) (r : FResult) : Bool := (t.ten &&& BitVec.ofNat 5 r.flags) != 0

/-- Step 2 of Table 8.5: issued instructions at the head of the queue complete and commit; the first whose flags are enabled
is the trap that replaces the one being entered. -/
def State.commitIssued : Nat → State → State × Option Trap
  | 0, s => (s, none)
  | n + 1, s =>
    match s.th.fq with
    | [] => (s, none)
    | e :: _ =>
      match e.st with
      | .waiting => (s, none)
      | .done r | .sfuQueued r | .sfuRunning r =>
        if s.ringGone e then (s, none)
        else if s.th.flagTraps r then (s, some (arithTrap e r)) else State.commitIssued n (s.commit e r)

/-- Steps 1 and 3 to 5 of Table 8.5: what is left of the F queue is held unissued, uncommitted pushes and `fst` entries leave
the store buffer, streams stop and drop what they fetched, a parked request is withdrawn, latches clear. -/
def State.holdState (s : State) : Held × State :=
  let t := s.th
  let h : Held := ⟨t.fq.map fun e => { e with st := .waiting, waited := [] }, t.pc, t.pp, t.prefixD, t.rep, t.capture, t.bodyAt⟩
  let dropped := [0, 1, 2].foldl (fun n u => n + ((t.unit u).fetched.countP fun e => e.fault.isNone)) 0
  let s := s.count 0x18 dropped
  let s := s.unwait fun c i => c == s.cid && i == s.cur
  let s := s.modCore fun c =>
    { c with
      sfuQ := c.sfuQ.filter fun q => q.1 != s.cur
      ports := c.ports.set s.cur.val ((c.ports[s.cur.val]).map fun q => { q with taken := 0 }) }
  (h, s.modTh fun t =>
    { t with
      fq := []
      pp := false
      rep := { t.rep with act := false }
      capture := none
      body := []
      bodyAt := []
      latch := Vector.replicate 3 none
      units := (t.skipFrom.getD t.units).map fun u => { u with fetched := [], faulted := none, taken := 0, consumed := 0, counted := 0, got := [], live := false }
      sb := t.sb.filter fun b => b.committed
      park := .none
      miss := .none
      yieldTo := []
      pauseLeft := 0
      got := []
      fGot := []
      shot := none
      midLoad := false
      skipLeft := none
      skipFrom := none
      poisoned := false
      line := none
      status := .ready })

/-- A cause that `TDELEG` may give to the user handler (Table 8.1); not-present faults never (R400). -/
def delegable (cause sub : BitVec 8) : Bool :=
  let c := cause.toNat
  decide (1 ≤ c) && decide (c ≤ 16) && c != 14 && c != 15 && !(c == 6 && sub.toNat == 1)

/-- Head 0 of the line at an address (step 7). -/
def vectorPc (a : Nat) : BitVec 48 := BitVec.ofNat 48 (a / 64 * 64 + 2)

/-- A request of kind 3 or 4 enters a core's miss queue (R219, R305, R393). -/
def State.reportAt (s : State) (c : CoreId) (kind : BitVec 4) (slot : Fin 4) (ctx : BitVec 4) (addr aux : Word) : State :=
  s.modCoreAt c fun k => { k with missQ := k.missQ ++ [{ kind := kind, slot := BitVec.ofNat 2 slot.val, ctx := ctx, addr := addr, aux := aux, who := .report }] }

/-- A late engine trap of a thread that submitted a command or issued a transfer (R305, R271): pending in its slot, with Keyway
while it is switched out, and reported to the system slot once its team has completed. Only a thread that no launch made has
the identifier 0; its place tells it from others. -/
def State.engineTrap (s : State) (c : CoreId) (slot : Fin 4) (uid : Nat) (ctx : BitVec 4) (tinfo word0 : Word) : State :=
  let a : AsyncCause := ⟨0x0B, 0, tinfo⟩
  match s.coreIds.flatMap fun d => ([0, 1, 2, 3] : List (Fin 4)).filterMap fun i =>
      let t := (s.coreAt d).th i
      if t.uid = uid ∧ t.status ≠ .empty ∧ (uid ≠ 0 ∨ (d = c ∧ i = slot)) then some (d, i) else none with
  | (d, i) :: _ => s.modCoreAt d fun k => k.modTh i fun t => { t with async := t.async ++ [a] }
  | [] =>
    if s.outs.any (·.uid = uid) then
      { s with outs := s.outs.map fun o => if o.uid = uid then { o with async := o.async ++ [a] } else o }
    else s.reportAt c 4 slot ctx 0 word0

/-- A double trap (R219, R476): issued instructions commit, the slot halts; slots 0 to 2 report it to the system slot, slot 3
writes a record of KIND 14 and its core is fenced. -/
def State.doubleTrap (s : State) (tr : Trap) : State :=
  let s := (s.commitIssued 32).1
  let s := s.modCore fun c => { c with sfuQ := c.sfuQ.filter fun q => q.1 != s.cur }
  let s := s.modTh fun t => { t with status := .halted, park := .none, miss := .none }
  let s := s.unwait fun c i => c == s.cid && i == s.cur
  if s.cur.val < 3 then
    s.reportAt s.cid 3 s.cur s.th.ctx (BitVec.ofNat 64 tr.tpc.toNat) (BitVec.ofNat 64 (tr.cause.toNat + 256 * tr.sub.toNat))
  else (s.errorRecord 14 s.cid 3 1 0 (tr.cause.toNat + 256 * tr.sub.toNat) [] false).fenceCore s.cid

/-- An address in the page that a translation trap finds absent. `TINFO` of a fetch whose target has head index 31 names the byte behind
the line that was fetched (R44); that of any other fetch stands behind a byte of its line. -/
def Trap.absent (tr : Trap) : Nat :=
  let a := bits tr.tinfo.toNat 0 48
  if bits tr.tinfo.toNat 48 3 = 4 then (a + 2 ^ 48 - 1) % 2 ^ 48 else a

/-- A trap entry is what a step lets a slot do (R490). -/
def State.stepEntry (s : State) : State :=
  if s.core.dbg.stepping = some s.cur then s.modCore fun c => { c with dbg := { c.dbg with issued := true } } else s

/-- Steps 3 to 7 of Table 8.5. -/
def State.enterTrap (s : State) (tr : Trap) : State :=
  let (h, s) := s.stepEntry.holdState
  let t := s.th
  let deleg := delegable tr.cause tr.sub && t.tdeleg.getLsbD tr.cause.toNat && decide (s.cur.val < 3)
  let vec := if deleg then t.tvec.toNat
    else if s.cur.val < 3 then s.ctxs[t.ctx.toNat].svec.toNat else s.read (s.cid.ls 0x2C40) 8
  let s := s.setTh { t with
    held := some h
    tpc := tr.tpc
    tcause := ⟨tr.cause, tr.sub, tr.late, deleg, tr.fside⟩
    tinfo := tr.tinfo
    ie := false
    mode := !deleg
    pc := vectorPc vec }
  if tr.cause.toNat = 6 ∧ tr.sub.toNat = 1 then s.pageIn s.cid (some s.cur) none t.ctx tr.absent else s

/-- Take a trap (Table 8.5, R219, R220). `pre` is what the trapping instruction has done when its trap is entered (a `trap` has
completed, a refused prefix is cleared); it does not happen when an older F instruction's trap comes first. The thread's
PC is then the PC of the next I-pipe instruction. -/
def State.takeTrap (s : State) (tr : Trap) (pre : State → State := id) : State :=
  if s.th.ie then
    match s.commitIssued 32 with
    | (s, some older) => s.enterTrap older
    | (s, none) => (pre s).enterTrap tr
  else (pre s).doubleTrap tr

/-- A trap precise at the I-pipe instruction at the PC (R216). -/
def State.trapAt (s : State) (cause sub : BitVec 8) (tinfo : Word) : State :=
  s.takeTrap { cause := cause, sub := sub, tinfo := tinfo, tpc := s.th.pc }

/-- A trap that stands after its instruction, which has completed (causes 0x0C, 0x0D). -/
def State.trapAfter (s : State) (cause : BitVec 8) (tinfo : Word) : State :=
  s.takeTrap { cause := cause, tinfo := tinfo, tpc := s.th.nextPc } State.advance

/-- The head at the PC, for `TINFO` (Table 8.1, cause 0x01). -/
def Thread.head (t : Thread) : Nat :=
  match t.line with
  | some l => lineHead l.bytes (t.pc.toNat / 2 % 32 - 1)
  | none => 0

/-- A repetition being captured is cancelled (R124). -/
def Thread.cancelCapture (t : Thread) : Thread :=
  if t.capture.isSome then { t with capture := none, rep := { t.rep with act := false, iter := 1 } } else t

/-- An illegal-instruction trap at the instruction at the PC (Table 8.1); R124 cancels a repetition being captured. -/
def State.illegal (s : State) (sub : BitVec 8) : State :=
  s.takeTrap { cause := 1, sub := sub, tinfo := BitVec.ofNat 64 s.th.head, tpc := s.th.pc } fun s => s.modTh Thread.cancelCapture

/-- The bad-prefix trap (Table 7.6): TSR.PP is cleared as it is entered. -/
def State.badPrefix (s : State) : State :=
  s.takeTrap { cause := 1, sub := 9, tinfo := BitVec.ofNat 64 s.th.head, tpc := s.th.pc } fun s =>
    s.modTh fun t => { t.cancelCapture with pp := false }

/-- A privileged-access trap for an instruction (Table 8.1, cause 0x02). -/
def State.privileged (s : State) : State := s.trapAt 2 0 0

/-- Return from what a trap or a light handler held (R222 steps 4 to 7, R264): prefix, entries unissued, repetition; the
bindings resume unless the thread is still in a handler (R181). -/
def State.release (s : State) (h : Held) : State :=
  s.modTh fun t =>
    { t with
      pp := h.pp
      prefixD := h.prefixD
      rep := h.rep
      capture := h.capture
      body := []
      bodyAt := h.bodyAt
      fGot := []
      fq := h.entries ++ t.fq
      next := match h.entries.getLast? with
        | some e => if t.fq.isEmpty then e.ring + 1 else t.next
        | none => t.next
      units := t.units.map fun u => { u with live := u.cfg.go && t.held.isNone && !t.lh, fetched := [], faulted := none, taken := 0, consumed := 0, counted := 0 }
      status := .ready }

/-- A bank hold of the slot in focus ends (R226). -/
def State.endHold (s : State) : State :=
  s.modCl fun c => { c with holds := c.holds.filter fun x => !(x.at_ == s.cid && x.slot == s.cur) }

/-- Return from a trap (R222 steps 4 to 7) to a PC whose check has passed. -/
def State.trapReturn (s : State) (h : Held) (pc : BitVec 48) (line : Option Line) : State :=
  let s := (s.modTh fun t => { t with held := none }).release h
  s.modTh fun t => { t with ie := true, mode := if s.cur.val < 3 then false else t.mode, pc := pc, line := line }

end Sys2Proof.Machine
end

