-- ==== Sys2Proof/Machine/Access.lean ====
section
/-! DEFINITION. Where an address leads: windows (Table 9.2), the checks of Table 5.3, the TLBs and the miss queue (chapter 17),
and the parts of an access (R132). The operations of the store buffer that loads and stores share (R19, R153). -/
namespace Sys2Proof.Machine

/-! ## Halting a core (R489) -/

/-- The slots of a core withdraw what they parked on and try again (R145, R489); those that sleep wake (R225). -/
def State.withdrawCore (s : State) (c : CoreId) : State :=
  let s := s.unwait fun d _ => d == c
  s.modCoreAt c fun k => k.mapTh fun _ t => if t.status = .parked ∨ t.status = .sleeping then { t.awake with skipLeft := none } else t

/-- The core halts with REASON, SLOT and INDEX (Table 22.3); a step that went on is over. -/
def State.haltCore (s : State) (reason : BitVec 3) (slot : Fin 4) (index : BitVec 2) : State :=
  (s.modCore fun c => { c with dbg := { c.dbg with halted := true, stepping := none, reason := reason, slot := BitVec.ofNat 2 slot.val, index := index } }).withdrawCore s.cid

/-! ## TLBs (R397, R398) -/

/-- log2 of the page size of SIZE (Table 17.3). -/
def pageBits (size : BitVec 2) : Nat :=
  if size.toNat = 0 then 12 else if size.toNat = 1 then 16 else if size.toNat = 2 then 21 else 30

/-- What an access does to a page (R392). -/
structure PageUse where
  w : Bool := false
  x : Bool := false
deriving DecidableEq, Repr

def TlbEntry.covers (e : TlbEntry) (ctx : BitVec 4) (va : Nat) : Bool :=
  e.ctx == ctx && decide (va / 2 ^ pageBits e.size = e.vpage)
/-- A hit that R392 refuses, or a write with D = 0, is a miss (R398). -/
def TlbEntry.permits (e : TlbEntry) (a : PageUse) (user : Bool) : Bool :=
  (!a.w || (e.w && e.d)) && (!a.x || e.x) && (!user || e.u)
/-- The physical address an entry gives. -/
def TlbEntry.pa (e : TlbEntry) (va : Nat) : Nat :=
  let n := 2 ^ pageBits e.size
  e.addr.toNat * 4096 / n * n + va % n
/-- The entry reaches into the same addresses. -/
def TlbEntry.overlaps (e f : TlbEntry) : Bool :=
  e.ctx == f.ctx && decide (e.vpage * 2 ^ pageBits e.size < (f.vpage + 1) * 2 ^ pageBits f.size)
    && decide (f.vpage * 2 ^ pageBits f.size < (e.vpage + 1) * 2 ^ pageBits e.size)

def tlbFind (l : List TlbEntry) (ctx : BitVec 4) (va : Nat) (a : PageUse) (user : Bool) : Option TlbEntry :=
  match l.find? fun e => e.covers ctx va with
  | some e => if e.permits a user then some e else none
  | none => none

/-- A new entry replaces those it overlaps; beyond the capacity the oldest goes (log 10). -/
def tlbPut (cap : Nat) (l : List TlbEntry) (e : TlbEntry) : List TlbEntry :=
  let l := (l.filter fun f => !f.overlaps e) ++ [e]
  l.drop (l.length - cap)

/-! ## Who makes an access -/

/-- The accessor: the core whose miss queue, local store and queues it uses, its cluster and die, its context and mode, its slot,
what it is called in requests, what it got from walks, whether it uses the core's own TLBs. -/
structure Who where
  core : CoreId
  clu : ClusterId
  ctx : BitVec 4
  user : Bool
  slot : BitVec 2
  req : Requester
  got : List Got
  tlb : Bool
deriving DecidableEq, Repr

/-- What a translation gives. -/
inductive XRes where
  | ok (pa : Nat)
  | fault (cause sub : BitVec 8)
  | miss
deriving DecidableEq, Repr

def Got.for (g : Got) (vol : Bool) (key : Nat) : Bool := g.vol == vol && g.key == key

/-- A translation got from a walk serves an access that it permits (R398). -/
def Got.serves (g : Got) (use : PageUse) (user : Bool) : Bool :=
  match g.res with
  | .once e => e.permits use user
  | _ => true

/-- The cluster whose second-level TLB an accessor uses (R290, R393, R471). -/
def Who.tlbCl (a : Who) : ClusterId :=
  match a.req with
  | .job d _ => d
  | _ => if a.tlb then a.core.home else a.clu

/-- A request enters the miss queue of a core, once for each requester and page (R393); requests beyond the sixteenth wait
behind it in the same order. -/
def State.request (s : State) (c : CoreId) (r : MissReq) : State :=
  let k := s.coreAt c
  if k.missQ.any fun q => q.who == r.who && q.kind == r.kind && q.addr == r.addr then s
  else
    let k := { k with missQ := k.missQ ++ [r] }
    s.putCore c (k.count (if r.kind.toNat = 1 then 8 else 9) (some (slotOf r.slot)) 1)

/-- Translate a paged address: the core's TLB, the second-level TLB, then a miss request (R393). -/
def State.xlate (s : State) (a : Who) (use : PageUse) (va : Nat) : XRes × State :=
  match a.got.find? (fun g => g.for false (va / 4096) && g.serves use a.user) with
  | some ⟨_, _, .fault c b _⟩ => (.fault c b, s)
  | some ⟨_, _, .once e⟩ => (.ok (e.pa va), s)
  | _ =>
    let k := s.coreAt a.core
    let own := if a.tlb then (if use.x then k.itlb else k.dtlb) else []
    match tlbFind own a.ctx va use a.user with
    | some e => (.ok (e.pa va), s)
    | none =>
      match tlbFind (s.clAt a.tlbCl).tlb a.ctx va use a.user with
      | some e =>
        (.ok (e.pa va), if a.tlb then s.modCoreAt a.core fun k =>
          if use.x then { k with itlb := tlbPut 16 k.itlb e } else { k with dtlb := tlbPut 96 k.dtlb e } else s)
      | none =>
        (.miss, s.request a.core
          { kind := 1, slot := a.slot, eng := !a.tlb, fetch := use.x, wr := use.w, user := a.user, ctx := a.ctx
            addr := BitVec.ofNat 64 (va / 4096 * 4096), serve := some a.tlbCl, who := a.req })

/-! ## Windows -/

/-- The space of an address (R227, Table 9.2). -/
inductive Space where
  | ls | sp | peer | cq | paged | none
deriving DecidableEq, Repr

def spaceOf (ea : Nat) : Space :=
  if bits ea 44 4 ≠ 15 then .paged
  else if bits ea 40 4 = 0 then .ls else if bits ea 40 4 = 1 then .sp else if bits ea 40 4 = 2 then .peer
  else if bits ea 40 4 = 3 then .cq else .none

/-- Where a window address leads: a location, an absent route entry, nothing. -/
inductive Loc where
  | at_ (l : Nat)
  | absent
  | none
deriving DecidableEq, Repr

/-- A field of the team record (Table 16.4); the width and height in clusters. -/
def Team.bits (tm : Team) (lo n : Nat) : Nat := Sys2Proof.bits tm.rcd.toNat lo n
def Team.wc (tm : Team) : Nat := tm.bits 84 8 + 1
def Team.hc (tm : Team) : Nat := tm.bits 92 9 + 1
/-- The logical clusters of a placed team. -/
def Team.lcns (tm : Team) : List Nat :=
  (List.range tm.hc).flatMap fun j => (List.range tm.wc).map fun i => lcnOf (tm.x0 + 4 * i) (tm.y0 + 2 * j)

/-- A job that runs while its team is evicted reaches the team's scratchpads until the first of them is saved, so that it completes or
fails (R423, step 2; log 84). -/
def State.stillThere (s : State) (a : Who) (lcn : Nat) : Bool :=
  match a.req with
  | .job d _ => s.teams.any fun tm => tm.st == .evicting && tm.ctx == a.ctx && tm.lcns.elem lcn && tm.saved.isEmpty
      && tm.lcns.any fun m => (s.route tm.ctx m).2 == d
  | _ => false

/-- Window decode (Table 9.2, Table 9.3, R32). -/
def State.windowLoc (s : State) (a : Who) (ea : Nat) : Loc :=
  match spaceOf ea with
  | .ls =>
    let o := bits ea 0 14
    if bits ea 14 26 = 0 ∧ o < 0x3000 ∧ (!a.user || decide (o < 0x2000)) then .at_ (a.core.ls o) else .none
  | .sp => if bits ea 17 23 = 0 then .at_ (spLoc a.clu.die a.clu.clu (bits ea 0 17)) else .none
  | .peer =>
    if bits ea 34 6 ≠ 0 then .none
    else
      let (st, c) := s.route a.ctx (bits ea 17 17)
      if st = 1 ∨ (st = 2 ∧ s.stillThere a (bits ea 17 17) = true) then .at_ (spLoc c.die c.clu (bits ea 0 17))
      else if st = 2 then .absent else .none
  | .cq => if bits ea 10 30 = 0 then .at_ (s.cqOf a.core (bits ea 0 10)) else .none
  | _ => .none

/-! ## Parts (R132) -/

/-- Where a whole access leads. `addr` is the first byte of the failing part, `lcn` the route entry that is absent. -/
inductive Found where
  | parts (ps : List Part)
  | trap (cause sub : BitVec 8) (addr : Nat)
  | absent (lcn : Nat)
  | miss
deriving DecidableEq, Repr

def windowParts (s : State) (a : Who) : List (Nat × Nat) → Found
  | [] => .parts []
  | (ea, n) :: r =>
    match s.windowLoc a ea with
    | .none => .trap 5 0 ea
    | .absent => .absent (bits ea 17 17)
    | .at_ l =>
      match windowParts s a r with
      | .parts ps => .parts (⟨l, n⟩ :: ps)
      | f => f

/-- The parts of a paged access under a translation of addresses. -/
def pagedParts (die : Nat) (x : Nat → State → XRes × State) : List (Nat × Nat) → State → Found × State
  | [], s => (.parts [], s)
  | (ea, n) :: r, s =>
    match x ea s with
    | (.fault c b, s) => (.trap c b ea, s)
    | (.miss, s) => (.miss, s)
    | (.ok pa, s) =>
      match pagedParts die x r s with
      | (.parts ps, s) => (.parts ((chunks (payload die pa) n pa n).map (fun p => ⟨p.1, p.2⟩) ++ ps), s)
      | f => f

/-- Checks 5 and 6 of Table 5.3, and the parts of the access, under a translation of paged addresses. Peer scratchpads of adjacent LCNs are one
window for check 5, and an access across both is made in parts (log 81). -/
def State.findBy (s : State) (a : Who) (x : Nat → State → XRes × State) (ea len : Nat) : Found × State :=
  let last := ea + len - 1
  match spaceOf ea, spaceOf last with
  | .paged, .paged => pagedParts a.core.die x (chunks 4096 len ea len) s
  | y, z =>
    if y ≠ z then (.trap 5 0 ea, s)
    else (windowParts s a (chunks (if y = .ls ∨ y = .cq then 8 else 16) len ea len), s)

/-- The same with the TLBs and the miss queue. -/
def State.find (s : State) (a : Who) (use : PageUse) (ea len : Nat) : Found × State :=
  s.findBy a (fun va s => s.xlate a use va) ea len

/-! ## Accesses of a thread -/

/-- The thread in focus as an accessor. -/
def State.me (s : State) : Who :=
  ⟨s.cid, s.clusterOf s.cid, s.th.ctx, !s.th.mode, BitVec.ofNat 2 s.cur.val, .thread s.cur false, s.th.got, true⟩

/-- `TINFO` for a memory access (Table 8.2). -/
def tinfoMem (addr : Nat) (kind : AccessKind) (size : Nat) : Word :=
  BitVec.ofNat 64 (addr % 2 ^ 48 + 2 ^ 48 * (match kind with
    | .load => 0 | .store => 1 | .atomic => 2 | .fullEmpty => 3 | .fetch => 4 | .record => 5) + 2 ^ 52 * size)

/-- `TINFO` of Table 8.2 where the spec states only ADDR (log 9). -/
def State.addrOnly (s : State) (addr : Nat) : Word × State :=
  let (x, s) := s.free
  let kind := [AccessKind.load, .store, .atomic, .fullEmpty].getD (x.toNat / 8 % 4) .load
  (tinfoMem addr kind (x.toNat % 5), s)

/-- `TINFO` of Table 8.2 where the spec states no field (log 9). -/
def State.anyTinfo (s : State) : Word × State :=
  let (x, s) := s.free
  s.addrOnly x.toNat

/-- log2 of a size, at most 4 (Table 8.2). -/
def sizeCode (n : Nat) : Nat := if n ≤ 1 then 0 else if n ≤ 2 then 1 else if n ≤ 4 then 2 else if n ≤ 8 then 3 else 4

/-- A byte of the range matches watchpoint m for a read or a write (R492). -/
def watchHit (wp wpm : Nat) (slot : Fin 4) (ea len : Nat) (rd wr : Bool) : Bool :=
  bits wp (51 + slot.val) 1 == 1 && ((rd && bits wp 48 1 == 1) || (wr && bits wp 49 1 == 1))
    && (List.range len).any fun i => decide (((ea + i) % 2 ^ 48) ||| bits wpm 0 48 = bits wp 0 48 ||| bits wpm 0 48)

/-- The watchpoint that an access of the thread matches; with TRAP = 1 none matches while `TSR.IE` = 0. -/
def State.watched (s : State) (ea len : Nat) (rd wr : Bool) : Option (Fin 2) :=
  [(0 : Fin 2), 1].find? fun m =>
    let wp := (s.core.dbg.wp[m.val]).toNat
    watchHit wp (s.core.dbg.wpm[m.val]).toNat s.cur ea len rd wr && (bits wp 50 1 == 0 || s.th.ie)

/-- A watchpoint match halts the core before the instruction or traps at it (R492, Table 22.4). -/
def State.watchTrap (s : State) (m : Fin 2) (ea : Nat) (wr : Bool) : State :=
  let wp := (s.core.dbg.wp[m.val]).toNat
  if bits wp 50 1 = 1 then
    s.trapAt 0x10 0 (BitVec.ofNat 64 (ea % 2 ^ 48 + (if wr && bits wp 49 1 == 1 then 2 ^ 48 else 0) + 2 ^ 49 * m.val))
  else s.haltCore 4 s.cur (BitVec.ofNat 2 m.val)

/-- What an access asks of its address. -/
structure Req where
  len : Nat
  align : Nat := 1
  kind : AccessKind
  rd : Bool := false
  wr : Bool := false
  /-- Check 4 of Table 5.3 lets this address pass. -/
  allow : Nat → Bool := fun _ => true
  /-- It may act on host memory (check 6). -/
  host : Bool := true
  /-- SIZE of Table 8.2. -/
  size : Nat := sizeCode len
  /-- Made as accesses of 8 bytes each, lowest first. -/
  words : Bool := false

/-- The address at which a part that fails a read starts. -/
def failAddr (s : State) (ea : Nat) : List Part → Nat
  | [] => ea
  | p :: r => if s.badRange p.loc p.len then ea else failAddr s (ea + p.len) r

/-- The first access of an instruction that a watchpoint matches, and where. -/
def State.watchedIn (s : State) (a : Nat) (r : Req) : Option (Fin 2 × Nat) :=
  (if r.words then chunks 8 r.len a r.len else [(a, r.len)]).findSome? fun p => (s.watched p.1 p.2 r.rd r.wr).map (·, p.1)

/-- The checks of Table 5.3 for an access of the thread in focus, then what it does with the parts. A miss of an access that reads puts the
slot in miss wait, and the instruction issues again when the walk has ended; a store stays in the rotation (R23). -/
def State.access (s : State) (ea : Word) (r : Req) (k : State → List Part → State) : State :=
  let a := ea.toNat
  let ti := fun x => tinfoMem x r.kind r.size
  if 2 ^ 48 < a + r.len then s.trapAt 5 0 (ti a)
  else if a % r.align ≠ 0 then s.trapAt 4 0 (ti a)
  else if !r.allow a then s.trapAt 1 7 (ti a)
  else
    match s.find s.me { w := r.wr } a r.len with
    | (.trap c b x, s) => s.trapAt c b (ti x)
    | (.absent n, s) => s.missOn (.route n)
    | (.miss, s) => if r.rd then (s.missOn .walk).modTh fun t => { t with midLoad := true } else s.stallWalk
    | (.parts ps, s) =>
      if !r.host && ps.any (fun p => isHost p.loc) then s.trapAt 1 7 (ti a)
      else
        let ps := if r.words then ps.flatMap fun p => (chunks 8 p.len p.loc p.len).map fun c => ⟨c.1, c.2⟩ else ps
        match (s.watchedIn a r).filter fun m => !(r.words && r.rd && decide (failAddr s a ps < m.2)) with
        | some m => s.watchTrap m.1 m.2 r.wr
        | none => if s.bankHeld ps (some (s.cid, s.cur)) then s.stall else k s ps

/-- Check 7 of Table 5.3 on what a read is about to read. -/
def State.checkData (s : State) (ea : Word) (kind : AccessKind) (len : Nat) (ps : List Part) (k : State → State) : State :=
  if (s.badPart ps).isSome then (s.badReadParts ps).trapAt 7 0 (tinfoMem (failAddr s ea.toNat ps) kind (sizeCode len)) else k s

/-! ## The store buffer (R19, R153) -/

/-- An aligned word that a store touches: the byte mask, the data in place, whether the next word is of the same part (R132). -/
structure SbWord where
  word : Nat
  mask : BitVec 8
  data : Word
  join : Bool

/-- The words of a store, lowest first. -/
def sbWords (ps : List Part) (v : Nat) : List SbWord :=
  match ps with
  | [] => []
  | p :: r =>
    let rec go : List (Nat × Nat) → Nat → List SbWord
      | [], _ => []
      | (l, n) :: q, v =>
        ⟨l / 8 * 8, BitVec.ofNat 8 ((2 ^ n - 1) * 2 ^ (l % 8)), BitVec.ofNat 64 (v % 2 ^ (8 * n) * 2 ^ (8 * (l % 8))), !q.isEmpty⟩ :: go q (v / 2 ^ (8 * n))
    go (chunks 8 p.len p.loc p.len) v ++ sbWords r (v / 2 ^ (8 * p.len))

/-- A store enters the slot's buffer, or stalls while the buffer has no room (R19, R153). -/
def State.sbPush (s : State) (es : List SbEntry) (k : State → State) : State :=
  if 8 < s.th.sb.length + es.length then s.stall else k (s.modTh fun t => { t with sb := t.sb ++ es })

def SbEntry.hits (e : SbEntry) (loc : Nat) : Bool :=
  decide (e.word ≤ loc) && decide (loc < e.word + 8) && e.mask.getLsbD (loc - e.word)
def SbEntry.byte (e : SbEntry) (loc : Nat) : Byte := BitVec.ofNat 8 (e.data.toNat / 2 ^ (8 * (loc - e.word)))

/-- The locations of the bytes of an access, lowest first. -/
def partLocs (ps : List Part) : List Nat := ps.flatMap fun p => (List.range p.len).map (p.loc + ·)

/-- What the slot's own buffer gives a load (R153): nothing of it, all of it, or part of it, which must drain first. -/
inductive Forward where
  | none
  | all (v : Nat)
  | wait
deriving DecidableEq, Repr

def Thread.sbByte (t : Thread) (loc : Nat) : Option Byte := (t.sb.reverse.find? fun e => e.hits loc).map (·.byte loc)

def Thread.forward (t : Thread) (ps : List Part) : Forward :=
  let locs := partLocs ps
  if t.sb.any fun e => !e.have_ && locs.any e.hits then .wait
  else
    let bs := locs.map t.sbByte
    if bs.all (·.isNone) then .none
    else if bs.all (·.isSome) then .all (leNat (bs.map fun b => b.getD 0)) else .wait

/-- The parts are in the core's own local store, or in the scratchpad of the cluster that holds the core (R23): for a spare core that stands
for a fenced one, its logical cluster's is not (R471). -/
def State.near (s : State) (ps : List Part) : Bool :=
  let c := s.cid
  let d := c.home
  ps.all fun p => (decide (c.ls 0 ≤ p.loc) && decide (p.loc < c.ls 0x4000))
    || (decide (spLoc d.die d.clu 0 ≤ p.loc) && decide (p.loc < spLoc d.die d.clu 0x20000))

/-- An `fst` that has not issued: its entries have no data, and after a return it has no entries yet (R138). -/
def FEntry.fstWaits (e : FEntry) : Bool := e.raw.op == 0x49 && (match e.st with
  | .waiting => true
  | _ => false)

/-- An `fst` without data holds back later stores, fences, waits and atomics (R138). -/
def Thread.fstWaits (t : Thread) : Bool := t.fq.any FEntry.fstWaits

/-- An `fst` that a return has brought back has no place in the buffer until it issues again; later loads and `fst` wait for that, since
they could overlap it (R138). -/
def Thread.fstAway (t : Thread) : Bool := t.fq.any fun e => e.fstWaits && !t.sb.any fun b => b.owner == .fst e.ring && !b.committed

/-- The buffer is empty, and nothing that was stored before is still to enter it (R142, R147, R148, R140). -/
def State.drained (s : State) (k : State → State) : State := if s.th.sb.isEmpty && !s.th.fstWaits then k s else s.stall

end Sys2Proof.Machine
end

