-- ==== Sys2Proof/Machine/Fetch.lean ====
section
/-! DEFINITION. Lines and transfers: the line cache and the fetch of a line (R118, R60), the checks of a transfer (Table 2.3),
entry into the next line (R46). -/
namespace Sys2Proof.Machine

/-- What a fetch of a line gives. -/
inductive Fetched where
  | ok (l : Line)
  | fault (cause sub : BitVec 8)
  | walk
  | line
deriving DecidableEq, Repr

/-- The line address of a PC. -/
def lineAddr (pc : Nat) : Nat := pc / 64 * 64

/-- The tag of a line in the core's line cache: context and virtual address. -/
def lineTag (ctx : BitVec 4) (la : Nat) : Nat := ctx.toNat * 2 ^ 48 + la

/-- The thread in focus as it fetches. -/
def State.fetcher (s : State) : Who := { s.me with req := .thread s.cur true }

/-- Fetch the line at a line address: translation first (R392), then the line cache, then the slot's fetch-ahead buffer (R118). -/
def State.fetchLine (s : State) (la : Nat) : Fetched × State :=
  match s.xlate s.fetcher { x := true } la with
  | (.fault c b, s) => (.fault c b, s)
  | (.miss, s) => (.walk, s)
  | (.ok _, s) =>
    match s.core.lines.find? fun l => l.addr = lineTag s.th.ctx la with
    | some l => (.ok ⟨la, l.bytes⟩, s)
    | none =>
      match s.th.ahead with
      | some l =>
        if l.addr = lineTag s.th.ctx la then (.ok ⟨la, l.bytes⟩, (s.modCore (·.keepLine l)).modTh fun t => { t with ahead := none })
        else (.line, s)
      | none => (.line, s)

/-- `TINFO` of a fetch fault: KIND 4; the SIZE of a fetch is not stated, a free value in its range 0 to 4 (log 9). -/
def State.fetchTinfo (s : State) (addr : Nat) : Word × State :=
  let (x, s) := s.free
  (tinfoMem addr .fetch (x.toNat % 5), s)

/-- How a transfer comes out: a trap at it, a wait, or its target. -/
inductive Arrive where
  | trap (cause sub : BitVec 8) (tinfo : Word)
  | wait
  | go (pc : BitVec 48) (l : Line)
deriving DecidableEq, Repr

def badTarget (target : Nat) : Arrive := .trap 3 0 (BitVec.ofNat 64 target)

/-- Rows 3 to 7 of Table 2.3 for head `idx` of the line at `la`. -/
def State.arriveAt (s : State) (la idx target : Nat) : Arrive × State :=
  if bits la 44 4 = 15 then (badTarget target, s)
  else
    match s.fetchLine la with
    | (.fault c b, s) => let (ti, s) := s.fetchTinfo target; (.trap c b ti, s)
    | (.walk, s) => (.wait, s.missOn .walk)
    | (.line, s) => (.wait, s.missOn (.line la))
    | (.ok l, s) =>
      if lineLegal l.bytes && decide (lineN l.bytes ≤ idx) then (badTarget target, s)
      else (.go (BitVec.ofNat 48 (la + 2 + (if idx < 31 then 2 * idx else 0))) l, s)

/-- A direct target (R44): OFF20 of the branch at the PC. -/
def State.arriveOff (s : State) (off : BitVec 20) : Arrive × State :=
  let idx := bits off.toNat 0 5
  let d := bits off.toNat 5 15
  let here := s.th.pc.toNat / 64 + d
  let back := if bits off.toNat 19 1 = 1 then 32768 else 0
  let t := fun l => (l * 64 + 2 + 2 * idx) % 2 ^ 48
  if here < back then (badTarget (t (here + 2 ^ 42 - back)), s)
  else if 2 ^ 42 ≤ here - back then (badTarget (t (here - back)), s)
  else s.arriveAt ((here - back) * 64) idx (t (here - back))

/-- A register target, or a PC returned to (R45). -/
def State.arriveReg (s : State) (x : Word) : Arrive × State :=
  let v := x.toNat
  if 2 ^ 48 ≤ v ∨ v % 64 = 0 ∨ v % 2 = 1 then (badTarget v, s)
  else s.arriveAt (lineAddr v) (v % 64 / 2 - 1) v

/-- Control enters a line at a PC (R60). -/
def Thread.goto (t : Thread) (pc : BitVec 48) (l : Line) : Thread :=
  { t with pc := pc, line := some l, status := .ready, park := .none, miss := .none, got := [], midLoad := false }

/-- A transfer traps at itself, waits for its line, or commits with its other effects `pre` (R113). -/
def State.transfer (a : Arrive × State) (pre : State → State := id) : State :=
  match a with
  | (.trap c b ti, s) => s.trapAt c b ti
  | (.wait, s) => s
  | (.go pc l, s) => (pre s).modTh fun t => t.goto pc l

/-- Control has come to the PC without a transfer: by fall-through, at a trap vector, at a launch (R46). A line in a window
cannot be fetched; its fault is that of an address with no target (log 17). -/
def State.enterLine (s : State) : State :=
  let pc := s.th.pc.toNat
  let la := lineAddr pc
  let fault := fun (s : State) (c b : BitVec 8) => let (ti, s) := s.fetchTinfo pc; s.trapAt c b ti
  if bits la 44 4 = 15 then fault s 6 4
  else
    match s.fetchLine la with
    | (.fault c b, s) => fault s c b
    | (.walk, s) => s.missOn .walk
    | (.line, s) => s.missOn (.line la)
    | (.ok l, s) => s.modTh fun t => t.goto t.pc l

/-- The line that the slot is in, if control has entered it (R60). -/
def Thread.here (t : Thread) : Option Line :=
  match t.line with
  | some l => if l.addr = lineAddr t.pc.toNat then some l else none
  | none => none

/-- A missed line arrives and stands in the line cache; the oldest of 64 lines goes (R118). A line that holds an uncorrectable
block gives the fetch the fault of check 7. -/
def State.lineArrives (s : State) (la : Nat) : State :=
  match s.xlate s.fetcher { x := true } la with
  | (.ok pa, s) =>
    if s.badRange pa 64 then (s.badRead pa 64).modTh fun t => { t.awake with got := t.got ++ [⟨false, la / 4096, .fault 7 0 none⟩] }
    else
      ((s.modCore (·.keepLine ⟨lineTag s.th.ctx la, Memory.bytes s.mem pa 64⟩)).meterParts [⟨pa, 64⟩]).modTh Thread.awake
  | (_, s) => s.modTh Thread.awake

/-- The line behind the one that the slot is in comes to its fetch-ahead buffer (R118). Fetch-ahead asks for no walk (R393), and what a line
with an uncorrectable block gives is left to its fetch. -/
def State.fetchAhead (s : State) : State :=
  match s.th.here with
  | none => s
  | some l =>
    let la := (l.addr + 64) % 2 ^ 48
    let tag := lineTag s.th.ctx la
    let find := fun (es : List TlbEntry) => tlbFind es s.th.ctx la { x := true } (!s.th.mode)
    if s.th.ahead.any (·.addr = tag) || s.core.lines.any (·.addr = tag) || bits la 44 4 = 15 then s
    else
      match (find s.core.itlb).orElse fun _ => find (s.clAt s.cid.home).tlb with
      | none => s
      | some e =>
        if s.badRange (e.pa la) 64 then s
        else (s.meterParts [⟨e.pa la, 64⟩]).modTh fun t => { t with ahead := some ⟨tag, Memory.bytes s.mem (e.pa la) 64⟩ }

/-- Data of an instruction line comes to a slot that misses it; another line is fetched ahead (R118). -/
def execLineFetchReturn (slot : BitVec 2) (s : State) : Out :=
  let s := s.withSlot (slotOf slot)
  match s.th.status, s.th.miss with
  | .missWait, .line la => .next (s.lineArrives la)
  | .halted, _ => .next s
  | _, _ => .next s.fetchAhead

end Sys2Proof.Machine
end

