-- ==== Sys2Proof/Machine/Operands.lean ====
section
/-! DEFINITION. Operand forms: immediates, effective addresses (R107), the registers an instruction names, and what every
I-pipe instruction meets when it issues (R17, R124, Table 7.6). -/
namespace Sys2Proof.Machine

/-- `sext64` (R97). -/
def sext64 {w : Nat} (x : BitVec w) : Word := x.signExtend 64

/-- `eff_addr` for an M tail (R107). -/
def State.eaM (s : State) (base : Reg) (sz : BitVec 2) (off : BitVec 7) : Word :=
  s.g base + BitVec.ofNat 64 (off.toNat * 2 ^ sz.toNat)

/-- `eff_addr` for an MX tail (R107): `body` is bits [31:15] of the tail. -/
def State.eaX (s : State) (base : Reg) (ix : BitVec 1) (body : BitVec 17) : Word :=
  if ix = 0 then s.g base + sext64 body
  else s.g base + BitVec.ofNat 64 ((s.g (body.extractLsb' 0 6)).toNat * 2 ^ bits body.toNat 6 3)

/-- The registers that an MX tail names. -/
def regsX (base : Reg) (ix : BitVec 1) (body : BitVec 17) : List Reg :=
  if ix = 0 then [base] else [base, body.extractLsb' 0 6]

/-- The second register of a pair (R47). -/
def pairHi (r : Reg) : Reg := r + 1

/-- What an I-class instruction meets when it issues: during capture of a repetition it is a bad body (R124); after `fmt` it has a
bad prefix (Table 7.6); a pending register stalls it (R17, R112). -/
def State.issue (s : State) (regs : List Reg) (k : State → State) : Out :=
  .next (if s.th.capture.isSome then s.illegal 6
    else if s.th.pp then s.badPrefix
    else if regs.any s.pendingG then s.stallReg
    else k s)

/-- An I-class instruction of system code only: in user mode the privileged-access trap (Table 8.1, cause 0x02). -/
def State.issueSystem (s : State) (regs : List Reg) (k : State → State) : Out :=
  s.issue regs fun s => if s.th.mode then k s else s.privileged

/-- The instruction writes a `g` register and completes. -/
def State.result (s : State) (d : Reg) (v : Word) : State := (s.setG d v).advance

end Sys2Proof.Machine
end

