-- ==== Sys2Proof/Machine/Reads.lean ====
section
/-! DEFINITION. The `g` registers that an instruction of the I pipe reads as it issues, whose parity is checked then (R465). -/
namespace Sys2Proof.Machine

/-- The index register of a long memory form (Table 2.10). -/
def idx (ix : BitVec 1) (body : BitVec 17) : List Reg := if ix = 0 then [] else [body.extractLsb' 0 6]

/-- The registers from d on that hold the words of a message (R254). -/
def run (d : Reg) (nm1 : BitVec 2) : List Reg := (List.range (nm1.toNat + 1)).map fun k => d + BitVec.ofNat 6 k

/-- The source of a collective, if FILE names the `g` registers (R279). -/
def gFile (file : BitVec 1) (a : Reg) : List Reg := if file = 0 then [a] else []

/-- The registers that an instruction reads from the `g` file. -/
def gReads : Instr → List Reg
  | .nop => []
  | .nopL1 _ => []
  | .nopL2 _ => []
  | .nopL3 _ => []
  | .add o => [o.a, o.b]
  | .sub o => [o.a, o.b]
  | .and o => [o.a, o.b]
  | .or o => [o.a, o.b]
  | .xor o => [o.a, o.b]
  | .andn o => [o.a, o.b]
  | .shl o => [o.a, o.b]
  | .shr o => [o.a, o.b]
  | .sra o => [o.a, o.b]
  | .rotl o => [o.a, o.b]
  | .mul o => [o.a, o.b]
  | .mulh o => [o.a, o.b]
  | .mulhz o => [o.a, o.b]
  | .div o => [o.a, o.b]
  | .divz o => [o.a, o.b]
  | .rem o => [o.a, o.b]
  | .remz o => [o.a, o.b]
  | .min o => [o.a, o.b]
  | .max o => [o.a, o.b]
  | .minz o => [o.a, o.b]
  | .maxz o => [o.a, o.b]
  | .slt o => [o.a, o.b]
  | .sltz o => [o.a, o.b]
  | .seq o => [o.a, o.b]
  | .sel o => [o.a, o.b, o.c]
  | .addi o => [o.a]
  | .addiL2 o => [o.a]
  | .andi o => [o.a]
  | .andiL2 o => [o.a]
  | .ori o => [o.a]
  | .oriL2 o => [o.a]
  | .xori o => [o.a]
  | .xoriL2 o => [o.a]
  | .shli o => [o.a]
  | .shri o => [o.a]
  | .srai o => [o.a]
  | .rotli o => [o.a]
  | .li _ => []
  | .liL2 _ => []
  | .liL3 _ => []
  | .addpc _ => []
  | .lea o => [o.base]
  | .leaL2 o => o.base :: idx o.ix o.body
  | .clz o => [o.a]
  | .ctz o => [o.a]
  | .popc o => [o.a]
  | .bswap o => [o.a]
  | .sextB o => [o.a]
  | .sextH o => [o.a]
  | .sextW o => [o.a]
  | .bext o => [o.a]
  | .bins o => [o.d, o.a]
  | .slti o => [o.a]
  | .sltiL2 o => [o.a]
  | .sltzi o => [o.a]
  | .sltziL2 o => [o.a]
  | .seqi o => [o.a]
  | .seqiL2 o => [o.a]
  | .beq o => [o.a, o.b]
  | .bne o => [o.a, o.b]
  | .blt o => [o.a, o.b]
  | .bge o => [o.a, o.b]
  | .bltz o => [o.a, o.b]
  | .bgez o => [o.a, o.b]
  | .bzEqz o => [o.a]
  | .bzNez o => [o.a]
  | .bzLtz o => [o.a]
  | .bzGez o => [o.a]
  | .bzGtz o => [o.a]
  | .bzLez o => [o.a]
  | .jmp _ => []
  | .call _ => []
  | .jr o => [o.d]
  | .decb o => [o.d]
  | .rep o => [o.a]
  | .pause _ => []
  | .yield => []
  | .exit => []
  | .ld o => [o.base]
  | .ldL2 o => o.base :: idx o.ix o.body
  | .lda o => o.base :: idx o.ix o.body
  | .ldfe o => o.base :: idx o.ix o.body
  | .ldff o => [o.base]
  | .ldffL2 o => o.base :: idx o.ix o.body
  | .st o => [o.d, o.base]
  | .stL2 o => o.d :: o.base :: idx o.ix o.body
  | .stl o => o.d :: o.base :: idx o.ix o.body
  | .stef o => o.d :: o.base :: idx o.ix o.body
  | .feset o => [o.base]
  | .fesetL2 o => o.base :: idx o.ix o.body
  | .fld o => [o.base]
  | .fldL2 o => o.base :: idx o.ix o.body
  | .fst o => [o.base]
  | .fstL2 o => o.base :: idx o.ix o.body
  | .ldp o => [o.base]
  | .ldpL2 o => o.base :: idx o.ix o.body
  | .stp o => [o.d, pairHi o.d, o.base]
  | .stpL2 o => o.d :: pairHi o.d :: o.base :: idx o.ix o.body
  | .fence _ => []
  | .waita o => o.d :: o.base :: idx o.ix o.body
  | .pref o => [o.base]
  | .prefL2 o => o.base :: idx o.ix o.body
  | .amoadd o => [o.base, o.src]
  | .amoand o => [o.base, o.src]
  | .amoor o => [o.base, o.src]
  | .amoxor o => [o.base, o.src]
  | .amomin o => [o.base, o.src]
  | .amomax o => [o.base, o.src]
  | .amominz o => [o.base, o.src]
  | .amomaxz o => [o.base, o.src]
  | .amoswap o => [o.base, o.src]
  | .cas o => [o.d, o.base, o.src]
  | .fadda o => [o.base, o.src]
  | .casp o => [o.d, pairHi o.d, o.base, o.src, pairHi o.src]
  | .sbind o => [o.a]
  | .sdim o => [o.a, o.b]
  | .sdimL3 _ => []
  | .sidx o => [o.a]
  | .sidxL3 o => [o.a]
  | .sdir _ => []
  | .sgo _ => []
  | .sstop _ => []
  | .sskip o => [o.a]
  | .spos _ => []
  | .ssave o => [o.base]
  | .ssaveL2 o => o.base :: idx o.ix o.body
  | .sload o => [o.base]
  | .sloadL2 o => o.base :: idx o.ix o.body
  | .sisect _ => []
  | .sunion _ => []
  | .sstatPos _ => []
  | .sstatSt _ => []
  | .scoord o => [o.a, o.b]
  | .fadd _ => []
  | .faddL2 _ => []
  | .fsub _ => []
  | .fsubL2 _ => []
  | .fmul _ => []
  | .fmulL2 _ => []
  | .fma _ => []
  | .fms _ => []
  | .fnma _ => []
  | .fnms _ => []
  | .fmin _ => []
  | .fminL2 _ => []
  | .fmax _ => []
  | .fmaxL2 _ => []
  | .fneg _ => []
  | .fnegL2 _ => []
  | .fabs _ => []
  | .fcpsgn _ => []
  | .feq _ => []
  | .feqL2 _ => []
  | .flt _ => []
  | .fltL2 _ => []
  | .fle _ => []
  | .fleL2 _ => []
  | .funo _ => []
  | .funoL2 _ => []
  | .fclass _ => []
  | .fcvt _ => []
  | .fcvtL2 _ => []
  | .fcvti _ => []
  | .fcvtiL2 _ => []
  | .icvtf _ => []
  | .icvtfL2 _ => []
  | .fmvg _ => []
  | .gmvf o => [o.a]
  | .fli _ => []
  | .fliL2 _ => []
  | .fliL3 _ => []
  | .fsel _ => []
  | .padd _ => []
  | .paddL2 _ => []
  | .psub _ => []
  | .psubL2 _ => []
  | .pmul _ => []
  | .pmulL2 _ => []
  | .pfma _ => []
  | .pmin _ => []
  | .pminL2 _ => []
  | .pmax _ => []
  | .pmaxL2 _ => []
  | .pdot _ => []
  | .psum _ => []
  | .psumL2 _ => []
  | .pshuf _ => []
  | .pshufL2 _ => []
  | .pbcast _ => []
  | .pbcastL2 _ => []
  | .ppack _ => []
  | .ppackL2 _ => []
  | .punpack _ => []
  | .punpackL2 _ => []
  | .pq _ => []
  | .pqL2 _ => []
  | .pdq _ => []
  | .pdqL2 _ => []
  | .peq _ => []
  | .peqL2 _ => []
  | .plt _ => []
  | .pltL2 _ => []
  | .ple _ => []
  | .pleL2 _ => []
  | .puno _ => []
  | .punoL2 _ => []
  | .pand _ => []
  | .pandL2 _ => []
  | .por _ => []
  | .porL2 _ => []
  | .pxor _ => []
  | .pxorL2 _ => []
  | .pandn _ => []
  | .pandnL2 _ => []
  | .pmov _ => []
  | .pmovL2 _ => []
  | .fmt _ => []
  | .frcp _ => []
  | .frcpL2 _ => []
  | .frsqrt _ => []
  | .frsqrtL2 _ => []
  | .fsqrt _ => []
  | .fsqrtL2 _ => []
  | .fdiv _ => []
  | .fdivL2 _ => []
  | .fexp2 _ => []
  | .fexp2L2 _ => []
  | .flog2 _ => []
  | .flog2L2 _ => []
  | .ftanh _ => []
  | .ftanhL2 _ => []
  | .fsigm _ => []
  | .fsigmL2 _ => []
  | .send o => o.a :: run o.d o.nm1
  | .sendn o => run o.d o.nm1
  | .recv _ => []
  | .recvL2 _ => []
  | .recvTry _ => []
  | .recvTryL2 _ => []
  | .mstat _ => []
  | .mstatL2 _ => []
  | .mstatClr _ => []
  | .mstatClrL2 _ => []
  | .qend o => [o.a]
  | .qctlSt _ => []
  | .qctlStL2 _ => []
  | .qctlClr _ => []
  | .qctlClrL2 _ => []
  | .qctlBind o => [o.a]
  | .qctlBindL2 o => [o.a]
  | .qret => []
  | .get o => [o.d, o.a, o.b]
  | .put o => [o.d, o.a, o.b]
  | .getx o => [o.d, o.a, o.b, o.c]
  | .putx o => [o.d, o.a, o.b, o.c]
  | .cwait o => [o.a]
  | .cwaitL2 o => [o.a]
  | .cop o => [o.a]
  | .copL2 o => [o.a]
  | .mbind o => [o.a, o.b, 31]
  | .gbarArr _ => []
  | .gbarWait _ => []
  | .gbar _ => []
  | .gredSum o => gFile o.file o.a
  | .gredSumL2 o => gFile o.file o.a
  | .gredMin o => gFile o.file o.a
  | .gredMinL2 o => gFile o.file o.a
  | .gredMax o => gFile o.file o.a
  | .gredMaxL2 o => gFile o.file o.a
  | .gredAnd o => gFile o.file o.a
  | .gredAndL2 o => gFile o.file o.a
  | .gredOr o => gFile o.file o.a
  | .gredOrL2 o => gFile o.file o.a
  | .gcast o => gFile o.file o.a
  | .gcastL2 o => o.c :: gFile o.file o.a
  | .gsum o => [o.a]
  | .semsig o => [o.a, o.b]
  | .semsigL2 o => [o.a, o.b]
  | .semwait o => [o.a, o.b]
  | .semwaitL2 o => [o.a, o.b]
  | .semread o => [o.a]
  | .semreadL2 o => [o.a]
  | .estatSt o => [o.a]
  | .estatStL2 o => [o.a]
  | .estatRec o => [o.a]
  | .estatRecL2 o => [o.a]
  | .estatRes o => [o.a]
  | .estatResL2 o => [o.a]
  | .estatDel o => [o.a]
  | .estatDelL2 o => [o.a]
  | .estatWin _ => []
  | .estatWinL2 _ => []
  | .estatQ _ => []
  | .estatQL2 _ => []
  | .evcRd _ => []
  | .evcRdL2 _ => []
  | .evcSet o => [o.a]
  | .evcSetL2 o => [o.a]
  | .evcRc _ => []
  | .evcRcL2 _ => []
  | .vbind o => [o.base]
  | .vbindL2 o => o.base :: idx o.ix o.body
  | .vbindOff _ => []
  | .cld o => [o.a]
  | .cst o => [o.d, o.a]
  | .cprobe o => [o.a]
  | .camoadd o => [o.a, o.c]
  | .camoand o => [o.a, o.c]
  | .camoor o => [o.a, o.c]
  | .camoxor o => [o.a, o.c]
  | .camomin o => [o.a, o.c]
  | .camomax o => [o.a, o.c]
  | .camominz o => [o.a, o.c]
  | .camomaxz o => [o.a, o.c]
  | .camoswap o => [o.a, o.c]
  | .ccas o => [o.d, o.a, o.c]
  | .cinv o => [o.a]
  | .cinvAll _ => []
  | .callocGet o => [o.a]
  | .callocCut o => [o.a]
  | .callocFree o => [o.d]
  | .callocNode o => [o.d, o.a]
  | .cnbr o => [o.a]
  | .csrr _ => []
  | .csrw o => [o.a]
  | .csrs o => [o.a]
  | .csrc o => [o.a]
  | .trap _ => []
  | .tret => []
  | .brk => []
  | .brkL1 _ => []
  | .tlbiPage o => [o.a]
  | .tlbiCtx _ => []
  | .tlbiAll _ => []
  | .tlbiRange o => [o.a, o.c]
  | .ifence => []
  | .wfi => []
  | .ctxswReq => []
  | .ctxswFlush => []
  | .syscHold o => [o.a]
  | .syscRel _ => []
  | .syscWake o => [o.a]
  | .syscStop o => [o.a]
  | .fIssue _ => []
  | .fCommit _ => []
  | .sfuServiceStart => []
  | .sfuResultWrite => []
  | .divideComplete => []
  | .loadDataReturn _ => []
  | .lineFetchReturn _ => []
  | .storeDrain _ => []
  | .repReplayDispatch _ => []
  | .pauseExpiry _ => []
  | .trapEntry _ => []
  | .lightHandlerEntry _ => []
  | .streamRead _ _ => []
  | .ringFetch _ _ => []
  | .setOpPass _ _ => []
  | .feRemoteRetry _ => []
  | .waitaPoll _ => []
  | .syscHoldExpiry _ => []
  | .messageInject => []
  | .messageArrival _ => []
  | .messageAck _ => []
  | .messageNack _ => []
  | .messageRetryReady _ => []
  | .queueWordArrival _ => []
  | .transferComplete _ => []
  | .transferFailure _ _ => []
  | .mailboxLaunch _ => []
  | .commandAccept => []
  | .tumblerAdmit => []
  | .copy1d _ => []
  | .copy2d _ => []
  | .gather _ => []
  | .scatter _ => []
  | .fill _ => []
  | .notify _ => []
  | .zacc _ => []
  | .lacc _ => []
  | .sacc _ => []
  | .mma _ => []
  | .mmar _ => []
  | .qtile _ => []
  | .jobComplete _ => []
  | .jobFail _ => []
  | .tumblerStuck => []
  | .periodStart _ => []
  | .energyBudgetSpent => []
  | .teamPlace _ => []
  | .teamComplete _ => []
  | .teamAged _ => []
  | .switchIn _ _ => []
  | .clusterSave _ _ => []
  | .missPresent => []
  | .missResult => []
  | .pageinRequestArrival _ => []
  | .pageinResolve _ _ _ _ => []
  | .pageinWake _ => []
  | .doorbellTail _ _ => []
  | .qswSwitchIn _ _ => []
  | .qswSwitchOut _ => []
  | .qctlContinue _ => []
  | .qctlSkip _ => []
  | .semvWrite _ _ => []
  | .semaddWrite _ _ => []
  | .queueRecordWrite _ _ _ => []
  | .registerWrite _ _ => []
  | .keywayCommandRead _ _ => []
  | .queueAging _ => []
  | .knop _ => []
  | .klaunch _ => []
  | .kcopy _ => []
  | .kfill _ => []
  | .kwrite _ => []
  | .kintr _ => []
  | .kctx _ => []
  | .kclu _ => []
  | .kbudget _ => []
  | .kpool _ => []
  | .kpreempt _ => []
  | .kevict _ => []
  | .kabort _ => []
  | .msixUnmask _ => []
  | .bar2Read _ _ => []
  | .bar2Write _ _ => []
  | .barAtomicop _ _ => []
  | .hingeRetrain _ => []
  | .hingeCounterRead _ _ => []
  | .hingeRequestArrival _ _ => []
  | .loadObject => []
  | .translateAndLoad => []
  | .raiseFuseCounter => []
  | .attestationReport => []
  | .scrubPass _ _ => []
  | .pageRetire _ _ => []
  | .linkCrcReplay _ _ => []
  | .linkRetrain _ _ => []
  | .coreFence _ _ _ => []
  | .clusterFence _ _ => []
  | .dieFence _ => []
  | .coreRepair _ _ _ => []
  | .clusterRepair _ _ _ => []
  | .powerWindow _ => []
  | .thermalTrip => []
  | .powerOn _ => []
  | .coldStartRequest _ => []
  | .warmStartRequest _ => []
  | .startTimeout => []
  | .debugStop => []
  | .debugRun => []
  | .debugStep => []
  | .stepDone => []
  | .stepTimeout => []
  | .daccRead => []
  | .daccWrite => []
  | .dstatRead => []
  | .histSample _ => []
  | .intervalDump _ => []
  | .illegalInstruction _ _ => []
  | .linkTrainingComplete _ _ => []
  | .correctableErrorRecord _ _ _ => []

/-- The same of what the decoder has read. -/
def upperReads : UpperInstr → List Reg
  | .send o => o.a :: run o.d o.nm1
  | .sendn o => run o.d o.nm1
  | .recv _ => []
  | .recvL2 _ => []
  | .recvTry _ => []
  | .recvTryL2 _ => []
  | .mstat _ => []
  | .mstatL2 _ => []
  | .mstatClr _ => []
  | .mstatClrL2 _ => []
  | .qend o => [o.a]
  | .qctlSt _ => []
  | .qctlStL2 _ => []
  | .qctlClr _ => []
  | .qctlClrL2 _ => []
  | .qctlBind o => [o.a]
  | .qctlBindL2 o => [o.a]
  | .qret => []
  | .get o => [o.d, o.a, o.b]
  | .put o => [o.d, o.a, o.b]
  | .getx o => [o.d, o.a, o.b, o.c]
  | .putx o => [o.d, o.a, o.b, o.c]
  | .cwait o => [o.a]
  | .cwaitL2 o => [o.a]
  | .cop o => [o.a]
  | .copL2 o => [o.a]
  | .mbind o => [o.a, o.b, 31]
  | .gbarArr _ => []
  | .gbarWait _ => []
  | .gbar _ => []
  | .gredSum o => gFile o.file o.a
  | .gredSumL2 o => gFile o.file o.a
  | .gredMin o => gFile o.file o.a
  | .gredMinL2 o => gFile o.file o.a
  | .gredMax o => gFile o.file o.a
  | .gredMaxL2 o => gFile o.file o.a
  | .gredAnd o => gFile o.file o.a
  | .gredAndL2 o => gFile o.file o.a
  | .gredOr o => gFile o.file o.a
  | .gredOrL2 o => gFile o.file o.a
  | .gcast o => gFile o.file o.a
  | .gcastL2 o => o.c :: gFile o.file o.a
  | .gsum o => [o.a]
  | .semsig o => [o.a, o.b]
  | .semsigL2 o => [o.a, o.b]
  | .semwait o => [o.a, o.b]
  | .semwaitL2 o => [o.a, o.b]
  | .semread o => [o.a]
  | .semreadL2 o => [o.a]
  | .estatSt o => [o.a]
  | .estatStL2 o => [o.a]
  | .estatRec o => [o.a]
  | .estatRecL2 o => [o.a]
  | .estatRes o => [o.a]
  | .estatResL2 o => [o.a]
  | .estatDel o => [o.a]
  | .estatDelL2 o => [o.a]
  | .estatWin _ => []
  | .estatWinL2 _ => []
  | .estatQ _ => []
  | .estatQL2 _ => []
  | .evcRd _ => []
  | .evcRdL2 _ => []
  | .evcSet o => [o.a]
  | .evcSetL2 o => [o.a]
  | .evcRc _ => []
  | .evcRcL2 _ => []
  | .vbind o => [o.base]
  | .vbindL2 o => o.base :: idx o.ix o.body
  | .vbindOff _ => []
  | .cld o => [o.a]
  | .cst o => [o.d, o.a]
  | .cprobe o => [o.a]
  | .camoadd o => [o.a, o.c]
  | .camoand o => [o.a, o.c]
  | .camoor o => [o.a, o.c]
  | .camoxor o => [o.a, o.c]
  | .camomin o => [o.a, o.c]
  | .camomax o => [o.a, o.c]
  | .camominz o => [o.a, o.c]
  | .camomaxz o => [o.a, o.c]
  | .camoswap o => [o.a, o.c]
  | .ccas o => [o.d, o.a, o.c]
  | .cinv o => [o.a]
  | .cinvAll _ => []
  | .callocGet o => [o.a]
  | .callocCut o => [o.a]
  | .callocFree o => [o.d]
  | .callocNode o => [o.d, o.a]
  | .cnbr o => [o.a]
  | .csrr _ => []
  | .csrw o => [o.a]
  | .csrs o => [o.a]
  | .csrc o => [o.a]
  | .trap _ => []
  | .tret => []
  | .brk => []
  | .brkL1 _ => []
  | .tlbiPage o => [o.a]
  | .tlbiCtx _ => []
  | .tlbiAll _ => []
  | .tlbiRange o => [o.a, o.c]
  | .ifence => []
  | .wfi => []
  | .ctxswReq => []
  | .ctxswFlush => []
  | .syscHold o => [o.a]
  | .syscRel _ => []
  | .syscWake o => [o.a]
  | .syscStop o => [o.a]

def parsedReads : Parsed → List Reg
  | .lower i => gReads i
  | .upper u => upperReads u

theorem parsedReads_eq (p : Parsed) : parsedReads p = gReads p.instr := by
  cases p with
  | lower i => rfl
  | upper u => cases u <;> rfl

end Sys2Proof.Machine
end

