-- ==== Sys2Proof/Machine/Flags.lean ====
section
/-! DEFINITION. The status bits that software reads whole: `TSR`, `RMODE`, `FFLAGS` and `TCAUSE` as words (Tables 1.7 to 1.9
and 1.12), and the truth values that compares write. -/
namespace Sys2Proof.Machine

/-- 1 or 0. -/
def flag (b : Bool) : Word := if b then 1 else 0

/-- `TSR` (Table 1.7). -/
def Thread.tsr (t : Thread) : Word :=
  BitVec.ofNat 64 (t.mode.toNat + 2 * t.ie.toNat + 4 * t.pp.toNat + 8 * t.rep.act.toNat + 16 * t.lh.toNat)

/-- `RMODE` (Table 1.8). -/
def Thread.rmode (t : Thread) : Word := BitVec.ofNat 64 (t.rm.toNat + 256 * t.ten.toNat)

/-- `RMODE` written: RM 6 and 7 are refused (R36). -/
def Thread.setRmode (t : Thread) (x : Word) : Option Thread :=
  if 6 ≤ bits x.toNat 0 3 then none
  else some { t with rm := BitVec.ofNat 3 (bits x.toNat 0 3), ten := BitVec.ofNat 5 (bits x.toNat 8 5) }

/-- `FFLAGS` (Table 1.9). -/
def Thread.fflagsWord (t : Thread) : Word := BitVec.ofNat 64 t.fflags.toNat

/-- `TCAUSE` (Table 1.12). -/
def TCause.word (c : TCause) : Word :=
  BitVec.ofNat 64 (c.cause.toNat + 2 ^ 8 * c.sub.toNat + 2 ^ 16 * c.late.toNat + 2 ^ 17 * c.deleg.toNat + 2 ^ 18 * c.fside.toNat)

end Sys2Proof.Machine
end

