-- ==== Sys2Proof/Machine/FDispatch.lean ====
section
/-! DEFINITION. The dispatch of an F instruction by the I pipe (R15 to R17, R124, R157, R207, R260), and the points of
program order that make a stream unit read again (R178). -/
namespace Sys2Proof.Machine

/-! ## Dispatch -/

/-- Unit u is bound for an instruction dispatched now (R155, R181). -/
def Thread.bound (t : Thread) (u : Nat) : Bool := (t.unit u).cfg.en && (t.unit u).live
def Thread.boundMask (t : Thread) : BitVec 3 :=
  BitVec.ofNat 3 ((t.bound 0).toNat + 2 * (t.bound 1).toNat + 4 * (t.bound 2).toNat)

/-- Unretired F instructions, held ones included (R16, R218). -/
def Thread.unretired (t : Thread) : Nat :=
  t.fq.length + (match t.held with
    | some h => h.entries.length
    | none => 0) + (match t.lhHeld with
    | some h => h.entries.length
    | none => 0)

/-- A free queue entry and a free ring number (R16). -/
def Thread.room (t : Thread) : Bool := decide (t.fq.length < 16) && decide (t.unretired < 32)

/-- The effective descriptor of a packed instruction dispatched now (R81, R201). -/
def Thread.descriptor (t : Thread) (raw : FRaw) : BitVec 32 :=
  if t.pp then t.prefixD else t.efd[raw.m8.toNat % 4]'(Nat.mod_lt _ (by decide))

/-- Lanes of the wide side of a block instruction (R206). -/
def FRaw.wf (r : FRaw) : Nat := bits r.m8.toNat 2 2

/-- R207: PART reaches past the lanes, or the lane of `pbcast` does. -/
def partFails (raw : FRaw) (d : BitVec 32) : Bool :=
  let n := (descFmt d.toNat).lanes
  let o := raw.op.toNat
  if 0x8A ≤ o ∧ o ≤ 0x8D then decide (n ≤ bits raw.m8.toNat 4 4 * wideCount raw.wf)
  else o == 0x89 && decide (n ≤ raw.b.toNat % 16)

/-- Every F register an instruction names. -/
def FRaw.fRegs (r : FRaw) : List Nat := r.sources ++ r.dest.toList

/-- It names a port that the team record does not connect (R260). -/
def State.portFails (s : State) (raw : FRaw) : Bool :=
  raw.fRegs.any fun n => decide (48 ≤ n) && !(s.core.port s.cur (n - 48)).con

/-- The stream-state cases of R157. -/
def Thread.streamFails (t : Thread) (raw : FRaw) : Bool :=
  (raw.dest.any fun n => decide (n < 3) && t.bound n && (t.unit n).cfg.dir == 0)
    || raw.sources.any fun n => decide (n < 3) && t.bound n && (t.unit n).cfg.dir == 1

/-- A position that MASK staggers stays within the registers (R124). -/
def Rep.codeOk (r : Rep) (pos c : Nat) : Bool :=
  !r.mask.getLsbD pos || decide (c < 3) || decide (47 < c) || decide (c + (r.sm1.toNat + 1) * r.wm1.toNat ≤ 47)

/-- What a body instruction must meet (R124). -/
def Rep.bodyOk (r : Rep) (raw : FRaw) : Bool :=
  let o := raw.op.toNat
  ((decide (0x70 ≤ o) && decide (o ≤ 0x90)) || raw.special) && raw.dUse != .g && raw.aUse != .g
    && (raw.dest.all fun c => r.codeOk 0 c) && raw.positions.all fun p => r.codeOk (p.1 + 1) p.2

/-- The subcode of the first check that fails when an instruction is dispatched: the port check, which is one of decode (R260),
then R124 during capture, the prefix (Table 7.6; log 101), R157, R207. -/
def State.dispatchFails (s : State) (raw : FRaw) : Option (BitVec 8) :=
  let t := s.th
  if s.portFails raw then some 4
  else if t.capture.isSome && !t.rep.bodyOk raw then some 6
  else if t.pp && !raw.packed then some 9
  else if t.streamFails raw then some 8
  else if raw.packed && partFails raw (t.descriptor raw) then some 3
  else none

/-- The ring number of the next dispatch: in a handler none of the numbers that held entries have (R16, R218). -/
def Thread.freshRing (t : Thread) : BitVec 5 :=
  if t.held.isNone && t.lhHeld.isNone then t.next
  else
    let kept := fun (h : Option Held) => h.elim [] fun h => h.entries.map (·.ring)
    let used := t.fq.map (·.ring) ++ kept t.held ++ kept t.lhHeld
    ((List.range 32).find? fun (k : Nat) => !used.elem (t.next + BitVec.ofNat 5 k)).elim t.next fun k => t.next + BitVec.ofNat 5 k

/-- The entry that a dispatch makes (R16, R201). -/
def Thread.push (t : Thread) (raw : FRaw) (x : Word) (pc : BitVec 48) : Thread :=
  let x := if raw.packed then (t.descriptor raw).setWidth 64 else x
  { t with
    fq := t.fq ++ [{ ring := t.freshRing, raw := raw, x := x, pc := pc, bound := t.boundMask }]
    next := t.freshRing + 1
    pp := if raw.packed then false else t.pp }

/-- One more body instruction is captured (R126). A body whose capture a trap has cut in two is fetched again from BODYPC. -/
def Thread.capture1 (t : Thread) (raw : FRaw) (x : Word) : Thread :=
  match t.capture with
  | none => t
  | some n =>
    let t := { t with body := t.body ++ [({ raw := raw, x := x, head := BitVec.ofNat 16 t.head, pc := t.pc } : BodyInstr)], bodyAt := t.bodyAt ++ [t.pc] }
    if n ≤ 1 then
      { t with body := if t.body.length = t.rep.blm1.toNat + 1 then t.body else []
               capture := none, rep := { t.rep with iter := 1, pos := 0, act := decide (1 < t.rep.count.toNat) } }
    else { t with capture := some (n - 1), rep := { t.rep with pos := t.rep.pos + 1 } }

/-- What an F-class instruction meets when it issues in the I pipe: it waits for the end of an active repetition (Table 4.8);
then its dispatch checks, a pending register, room in the queue and the ring (R16). -/
def State.issueF (s : State) (raw : FRaw) (regs : List Reg) (k : State → State) : Out :=
  .next (if s.th.rep.act && s.th.capture.isNone then s.stall
    else match s.dispatchFails raw with
    | some 9 => s.badPrefix
    | some c => s.illegal c
    | none =>
      if regs.any s.pendingG then s.stallReg
      else if !s.th.room then s.stall
      else k s)

/-- A captured instruction of a repetition of no runs is checked and not dispatched (R126). -/
def Thread.enters (t : Thread) : Bool := t.capture.isNone || t.rep.act

/-- Dispatch one F instruction with its payload (R16). -/
def State.dispatch (s : State) (raw : FRaw) (x : Word) : State :=
  (s.modTh fun t => (if t.enters then t.push raw x t.pc else t).capture1 raw x).advance

/-- An F instruction without memory: dispatched with the `g` source it captures, or with its immediate (R16). -/
def State.execF (s : State) (raw : FRaw) (imm : Word := 0) : Out :=
  let regs := (if raw.aUse = .g then [raw.a] else []) ++ (if raw.dUse = .g then [raw.d] else [])
  s.issueF raw regs fun s => s.dispatch raw (if raw.aUse = .g then s.g raw.a else imm)

end Sys2Proof.Machine
end

