-- ==== Sys2Proof/Machine/MemOps.lean ====
section
/-! DEFINITION. What loads, stores, atomics and full/empty accesses do at the memory (chapter 05), shared by the instructions
and by the return of data from outside the cluster. -/
namespace Sys2Proof.Machine

/-- The new value of an `amo` on n bytes (Table 5.6). -/
def amoNew (op n old s : Nat) : Nat :=
  let w := 8 * n
  if op = 0 then (old + s) % 2 ^ w else if op = 1 then old &&& s else if op = 2 then old ||| s else if op = 3 then old ^^^ s
  else if op = 4 then (if toSigned s w < toSigned old w then s else old)
  else if op = 5 then (if toSigned old w < toSigned s w then s else old)
  else if op = 6 then Nat.min old s else if op = 7 then Nat.max old s else s

/-- `fadda` (R151): the sum rounded once to nearest-even. -/
def faddaNew (n old s : Nat) : Nat :=
  let f := if n = 4 then fp32 else fp64
  (toCode (addEx (elemValue f old) (elemValue f s) 0).v (addEx (elemValue f old) (elemValue f s) 0).nv f false 0 0).code

/-- Read-modify-write of a unit (R148): `old` goes to g registers by `d`, a new value is written. -/
def State.rmw (s : State) (ps : List Part) (new : Nat → Option Nat) (d : State → Nat → State) : State :=
  let old := s.readParts ps
  let s := match new old with
    | some v => s.writeParts ps v
    | none => s
  (d (s.meterParts ps) old).advance

/-- `cas`: the value to write, if the comparand is there (R150). -/
def casNew (n : Nat) (cmp src : Word) (old : Nat) : Option Nat :=
  if old = cmp.toNat % 2 ^ (8 * n) then some (src.toNat % 2 ^ (8 * n)) else none

def put64 (d : Reg) (s : State) (v : Nat) : State := s.setG d (BitVec.ofNat 64 v)
def putPair (d : Reg) (s : State) (v : Nat) : State := (s.setG d (BitVec.ofNat 64 v)).setG (pairHi d) (BitVec.ofNat 64 (v / 2 ^ 64))

/-- The kind and size of an access by what it does (Table 8.2). -/
def MemOp.shape : MemOp → AccessKind × Nat
  | .load _ n _ _ => (.load, n)
  | .pair _ => (.load, 16)
  | .fload r => (.load, 2 ^ (r.m8.toNat % 4))
  | .amo _ _ n _ _ => (.atomic, n)
  | .cas _ n _ _ _ => (.atomic, n)
  | .casp _ _ _ _ => (.atomic, 16)
  | .fadda _ n _ _ => (.atomic, n)
  | .record _ => (.record, 8)
  | .waita _ n _ _ _ _ => (.load, n)
  | .descr _ => (.load, 8)

/-- The record in 40 bytes (Table 6.1). -/
def streamRecOf (x : Nat) : StreamRec where
  addr := BitVec.ofNat 48 (bits x 0 48)
  kind := BitVec.ofNat 3 (bits x 48 3)
  dir := BitVec.ofNat 1 (bits x 51 1)
  esz := BitVec.ofNat 2 (bits x 52 2)
  en := bits x 54 1 == 1
  go := bits x 55 1 == 1
  done := bits x 56 1 == 1
  dims := BitVec.ofNat 2 (bits x 57 2)
  rpt := BitVec.ofNat 2 (bits x 59 2)
  rcnt := BitVec.ofNat 2 (bits x 61 2)
  leg := bits x 63 1 == 1
  aux := BitVec.ofNat 128 (bits x 64 128)
  bound0 := BitVec.ofNat 16 (bits x 192 16)
  bound1 := BitVec.ofNat 16 (bits x 208 16)
  bound2 := BitVec.ofNat 16 (bits x 224 16)
  bound3 := BitVec.ofNat 16 (bits x 240 16)
  idx0 := BitVec.ofNat 16 (bits x 256 16)
  idx1 := BitVec.ofNat 16 (bits x 272 16)
  idx2 := BitVec.ofNat 16 (bits x 288 16)
  idx3 := BitVec.ofNat 16 (bits x 304 16)

/-- The record as 40 bytes (Table 6.1). -/
def StreamRec.pack (r : StreamRec) : Nat :=
  r.addr.toNat + 2 ^ 48 * r.kind.toNat + 2 ^ 51 * r.dir.toNat + 2 ^ 52 * r.esz.toNat + 2 ^ 54 * r.en.toNat + 2 ^ 55 * r.go.toNat
    + 2 ^ 56 * r.done.toNat + 2 ^ 57 * r.dims.toNat + 2 ^ 59 * r.rpt.toNat + 2 ^ 61 * r.rcnt.toNat + 2 ^ 63 * r.leg.toNat
    + 2 ^ 64 * r.aux.toNat + 2 ^ 192 * r.bound0.toNat + 2 ^ 208 * r.bound1.toNat + 2 ^ 224 * r.bound2.toNat
    + 2 ^ 240 * r.bound3.toNat + 2 ^ 256 * r.idx0.toNat + 2 ^ 272 * r.idx1.toNat + 2 ^ 288 * r.idx2.toNat + 2 ^ 304 * r.idx3.toNat

/-- The reserved bits of AUX for a KIND are zero (Table 6.2). -/
def auxOk (kind aux : Nat) : Bool :=
  if kind = 0 ∨ kind = 7 then aux == 0
  else if kind = 1 ∨ kind = 3 then true
  else if kind = 2 then decide (aux / 2 ^ 116 = 0)
  else if kind = 6 then bits aux 63 1 == 0 && decide (aux / 2 ^ 66 = 0)
  else decide (aux / 2 ^ 5 = 0)

/-- The record may be loaded (R173, R167): KIND 7, reserved bits and what `sbind` refuses are rejected. -/
def recordOk (x : Nat) : Bool :=
  let k := bits x 48 3
  let dims := bits x 57 2
  k != 7 && auxOk k (bits x 64 128) && (k != 3 || (bits x 52 2 == 3 && dims == 0)) && (k != 2 || decide (dims ≤ 1))

/-- `sload`: the record enters the unit, stopped (R173). -/
def State.loadRecord (s : State) (u : Nat) (x : Nat) : State :=
  if recordOk x && !(s.th.unit u).cfg.go then
    (s.modTh fun t => t.setUnit u { cfg := { streamRecOf x with en := false, go := false } }).advance
  else s.illegal 8

/-- `vbind` accepts a descriptor (R354, Table 13.3): reserved bits are zero, SC is 2 to 6, ROOT and POOL are aligned; GM is
reserved where SC is not 3 (R342, R50). -/
def descriptorOk (x : Nat) : Bool :=
  let sc := bits x 50 3
  decide (x / 2 ^ 224 = 0) && bits x 57 7 == 0 && decide (2 ≤ sc) && decide (sc ≤ 6) && bits x 0 6 == 0 && bits x 128 4 == 0
    && (sc == 3 || bits x 53 2 == 0)

/-- The slot takes the descriptor, with V = 1 (R354, Table 13.4). -/
def State.bindVolume (s : State) (cs : BitVec 2) (x : Nat) : State :=
  if descriptorOk x then (s.modTh fun t => { t with coord := t.coord.set cs.toNat (BitVec.ofNat 256 (x + 2 ^ 57)) }).advance
  else s.illegal 3

/-- What an access does when its data is at hand; check 7 of Table 5.3 comes first. -/
def State.perform (s : State) (op : MemOp) (ea : Word) (ps : List Part) : State :=
  s.checkData ea op.shape.1 op.shape.2 ps fun s =>
    match op with
    | .load d n zx acq => ((s.meterParts ps).orderIf acq).result d (extend n zx (s.readParts ps))
    | .pair d => (putPair d (s.meterParts ps) (s.readParts ps)).advance
    | .fload r => (s.meterParts ps).dispatch r (BitVec.ofNat 64 (s.readParts ps))
    | .amo o d n src acq =>
      (s.rmw ps (fun old => some (amoNew o.toNat n old (src.toNat % 2 ^ (8 * n)))) (put64 d)).orderIf acq
    | .cas d n cmp src acq => (s.rmw ps (casNew n cmp src) (put64 d)).orderIf acq
    | .casp d cmp src acq => (s.rmw ps (fun old => if old = cmp.toNat then some src.toNat else none) (putPair d)).orderIf acq
    | .fadda d n src acq => (s.rmw ps (fun old => some (faddaNew n old (src.toNat % 2 ^ (8 * n)))) (put64 d)).orderIf acq
    | .record u => (s.meterParts ps).loadRecord u.toNat (s.readParts ps)
    | .waita d n zx cmp acq paged =>
      let x := s.readParts ps
      if x = cmp.toNat % 2 ^ (8 * n) then
        let word := (ps.head?.map (·.loc)).getD 0 / 8 * 8
        let s := if paged then s else { s with waitaQ := s.waitaQ ++ [⟨word, s.cid, s.cur, ps, d, n, zx, x, acq⟩] }
        (s.meterParts ps).parkOn (.waita word paged)
      else ((s.meterParts ps).orderIf acq).result d (extend n zx x)
    | .descr cs => (s.meterParts ps).bindVolume cs (s.readParts ps)

/-- Perform now, or leave the cluster and wait for the data (R23); `tile` is the volume and tile that gave the address (R360). -/
def State.performOr (s : State) (op : MemOp) (ea : Word) (ps : List Part) (tile : Option (Nat × Nat) := none) : State :=
  if s.near ps then s.perform op ea ps
  else (s.missOn (.data op (ea.setWidth 48) ps)).modTh fun t => { t with via := tile }

/-- The value that the slot's own buffer forwards to a load (R153). -/
def State.forwarded (s : State) (op : MemOp) (v : Nat) : State :=
  match op with
  | .load d n zx acq => (s.orderIf acq).result d (extend n zx v)
  | .pair d => (putPair d s v).advance
  | .fload r => s.dispatch r (BitVec.ofNat 64 v)
  | .record u => s.loadRecord u.toNat v
  | .descr cs => s.bindVolume cs v
  | _ => s

/-- A load: forwarded, held back by a buffered store it overlaps, or performed (R153, R138). -/
def State.load (s : State) (op : MemOp) (ea : Word) (ps : List Part) (tile : Option (Nat × Nat) := none) : State :=
  if s.th.fstAway then s.stall
  else
    match s.th.forward ps with
    | .wait => s.stall
    | .all v => s.forwarded op v
    | .none => s.performOr op ea ps tile

/-- Data of a load or atomic that left the cluster returns (R23): it is performed and the slot goes on; a bank that another slot holds keeps
it waiting (R226). -/
def execLoadDataReturn (slot : BitVec 2) (s : State) : Out :=
  let s := s.withSlot (slotOf slot)
  match s.th.status, s.th.miss with
  | .missWait, .data op ea ps =>
    .next (if s.bankHeld ps (some (s.cid, s.cur)) then s else (s.modTh Thread.awake).perform op (ea.setWidth 64) ps)
  | _, _ => .next s

/-- Only the last entry of a store is its last (R134). -/
def endStore : List SbEntry → List SbEntry
  | [] => []
  | [e] => [{ e with last := true }]
  | e :: r => { e with last := false } :: endStore r

/-- The store-buffer entries of a store (R19); the words of a part are joined (R132, Table 5.7). -/
def sbEntries (ea : Word) (ps : List Part) (v : Nat) (rel : Bool) (sys : Bool := false) (tile : Option (Nat × Nat) := none) : List SbEntry :=
  let size := sizeCode ((ps.map (·.len)).sum)
  endStore ((sbWords ps v).map fun w =>
    { word := w.word, mask := w.mask, data := w.data, ea := ea.setWidth 48, release := rel, join := w.join, size := size, sys := sys, tile := tile })

/-- A store enters the buffer and the slot goes on (R135). -/
def State.store (s : State) (ea : Word) (ps : List Part) (v : Nat) (rel : Bool) (tile : Option (Nat × Nat) := none) : State :=
  s.sbPush (sbEntries ea ps v rel s.th.mode tile) State.advance

/-! ## Full/empty accesses (R142 to R146) -/

/-- The scratchpad, or local store, that holds a word. -/
def sramOf (word : Nat) : Nat := if isSp word then word / 2 ^ 17 else word / 2 ^ 14

/-- A requester of another cluster (R144). -/
def State.remoteTo (s : State) (c : CoreId) (word : Nat) : Bool :=
  let d := s.clusterOf c
  isSp word && !(decide (spLoc d.die d.clu 0 ≤ word) && decide (word < spLoc d.die d.clu 0x20000))

/-- A request from another cluster finds the 32 remote entries of the scratchpad in use (R144). -/
def State.remoteFull (s : State) (word : Nat) : Bool :=
  s.remoteTo s.cid word &&
    decide (32 ≤ s.feWait.countP fun w => isSp w.word && decide (sramOf w.word = sramOf word) && s.remoteTo w.at_ w.word)

/-- A full/empty instruction at its word (Table 5.4): performed at once when its condition holds, else parked; kind 0 is `ldfe`,
1 `ldff`, 2 `stef`. One that met an uncorrectable word as a waiter takes its trap (Table 5.5). -/
def State.fullEmpty (s : State) (kind : BitVec 3) (d : Reg) (data : Word) (acq : Bool) (ea : Word) (ps : List Part) : State :=
  let word := (ps.head?.map (·.loc)).getD 0
  if (kind ≠ 2 ∧ s.badRange word 8 = true) ∨ s.th.poisoned = true then (s.badRead word 8).trapAt 7 0 (tinfoMem ea.toNat .fullEmpty 3)
  else if feHolds (s.isFull word) kind then
    let s := s.meterParts ps
    if kind = 2 then (((s.writeBytes word (leBytes 8 data.toNat)).advance).feSet word true)
    else
      let s := (s.orderIf acq).result d (BitVec.ofNat 64 (s.read word 8))
      if kind = 0 then s.feSet word false else s
  else if s.remoteFull word then s.parkOn (.fullEmpty word)
  else
    ({ s with feWait := s.feWait ++ [(⟨word, s.cid, s.cur, kind, d, data, ea.setWidth 48, acq⟩ : FeWaiter)] }).parkOn (.fullEmpty word)

/-- The slot of a full/empty request that its scratchpad refused tries again (R144). -/
def execFeRemoteRetry (slot : BitVec 2) (s : State) : Out :=
  let s := s.withSlot (slotOf slot)
  match s.th.status, s.th.park with
  | .parked, .fullEmpty _ | .parked, .ring _ =>
    if s.feWait.any fun w => w.at_ == s.cid && w.slot == s.cur then .next s else .next (s.modTh Thread.awake)
  | _, _ => .next s

/-- A `waita` on paged memory reads again (R147). -/
def execWaitaPoll (slot : BitVec 2) (s : State) : Out :=
  let s := s.withSlot (slotOf slot)
  match s.th.status, s.th.park with
  | .parked, .waita _ true => .next (s.modTh Thread.awake)
  | _, _ => .next s

end Sys2Proof.Machine
end

