-- ==== Sys2Proof/Machine/LoadStore.lean ====
section
/-! DEFINITION. Loads, stores, atomics, full/empty instructions and waits (chapter 05). -/
namespace Sys2Proof.Machine

/-- 2^SZ. -/
def szBytes (sz : BitVec 2) : Nat := 2 ^ sz.toNat

/-- The address is one of local store or scratchpad (Table 9.2): it has full/empty bits. -/
def isFeAddr (a : Nat) : Bool :=
  match spaceOf a with
  | .ls => bits a 14 26 == 0 && decide (bits a 0 14 < 0x3000)
  | .sp => bits a 17 23 == 0
  | .peer => bits a 34 6 == 0
  | _ => false

/-- A load of `len` bytes (R135). -/
def State.loadAt (s : State) (ea : Word) (op : MemOp) (align : Nat := 1) (tile : Option (Nat × Nat) := none) : State :=
  s.access ea { len := op.shape.2, align := align, kind := op.shape.1, rd := true } fun s ps => s.load op ea ps tile

/-- A store (R135); an `fst` entry without data holds it back (R138). -/
def State.storeAt (s : State) (ea : Word) (len v : Nat) (align : Nat := 1) (rel : Bool := false) (tile : Option (Nat × Nat) := none) : State :=
  if s.th.fstWaits then s.stall
  else s.access ea { len := len, align := align, kind := .store, wr := true } fun s ps => s.store ea ps v rel tile

/-- An atomic (R148): behind every buffered store. -/
def State.atomicAt (s : State) (ea : Word) (op : MemOp) (host : Bool) (casp : Bool := false) (tile : Option (Nat × Nat) := none) : State :=
  s.drained fun s =>
    s.access ea { len := op.shape.2, align := op.shape.2, kind := .atomic, rd := true, wr := true, host := host,
                  allow := fun a => spaceOf a != .cq && !(casp && spaceOf a == .ls) } fun s ps => s.performOr op ea ps tile

/-- A full/empty instruction (R142): behind every buffered store. -/
def State.feAt (s : State) (ea : Word) (kind : BitVec 3) (d : Reg) (data : Word) (acq : Bool) : State :=
  s.drained fun s =>
    s.access ea { len := 8, align := 8, kind := .fullEmpty, rd := kind != 2, wr := kind != 1, allow := isFeAddr } fun s ps =>
      s.fullEmpty kind d data acq ea ps

/-- `feset` (R142). -/
def State.fesetAt (s : State) (ea : Word) (v : Bool) : State :=
  s.drained fun s =>
    s.access ea { len := 8, align := 8, kind := .fullEmpty, wr := true, allow := isFeAddr } fun s ps =>
      ((s.meterParts ps).advance).feSet ((ps.head?.map (·.loc)).getD 0) v

/-- `pref` (R141): starts a translation, and a page-in where D[0] asks for it; every failed check makes it a `nop`. -/
def State.prefAt (s : State) (ea : Word) (pg : BitVec 1) : State :=
  if 2 ^ 48 ≤ ea.toNat ∨ spaceOf ea.toNat ≠ .paged then s.advance
  else (s.xlate { s.me with req := .prefetch s.cur (pg == 1), got := [] } {} ea.toNat).2.advance

/-- `waita` (R147). -/
def State.waitaAt (s : State) (ea : Word) (o : WaitaX) : State :=
  s.drained fun s =>
    s.access ea { len := szBytes o.sz, align := szBytes o.sz, kind := .load, rd := true } fun s ps =>
      s.performOr (.waita o.d (szBytes o.sz) (o.zx == 1) (s.g o.d) (o.sc != 0) (ps.any fun p => !isSram p.loc)) ea ps

/-- `ld` (R135). -/
def execLd (o : LdM) (s : State) : Out :=
  s.issue (o.d :: [o.base]) fun s => s.loadAt (s.eaM o.base o.sz o.off) (.load o.d (szBytes o.sz) (o.zx == 1) false)
/-- `ld` (R135). -/
def execLdL2 (o : LdX) (s : State) : Out :=
  s.issue (o.d :: regsX o.base o.ix o.body) fun s => s.loadAt (s.eaX o.base o.ix o.body) (.load o.d (szBytes o.sz) (o.zx == 1) false)
/-- `lda` (R139): an acquire. -/
def execLda (o : LdaX) (s : State) : Out :=
  s.issue (o.d :: regsX o.base o.ix o.body) fun s => s.loadAt (s.eaX o.base o.ix o.body) (.load o.d (szBytes o.sz) (o.zx == 1) true) (szBytes o.sz)
/-- `ldfe` (Table 5.4). -/
def execLdfe (o : FeX) (s : State) : Out :=
  s.issue (o.d :: regsX o.base o.ix o.body) fun s => s.feAt (s.eaX o.base o.ix o.body) 0 o.d 0 true
/-- `ldff` (Table 5.4). -/
def execLdff (o : LdffM) (s : State) : Out :=
  s.issue (o.d :: [o.base]) fun s => s.feAt (s.eaM o.base 3 o.off) 1 o.d 0 false
/-- `ldff` (Table 5.4). -/
def execLdffL2 (o : LdffX) (s : State) : Out :=
  s.issue (o.d :: regsX o.base o.ix o.body) fun s => s.feAt (s.eaX o.base o.ix o.body) 1 o.d 0 (o.sc != 0)
/-- `st` (R135). -/
def execSt (o : StM) (s : State) : Out :=
  s.issue (o.d :: [o.base]) fun s => s.storeAt (s.eaM o.base o.sz o.off) (szBytes o.sz) (s.g o.d).toNat
/-- `st` (R135). -/
def execStL2 (o : StX) (s : State) : Out :=
  s.issue (o.d :: regsX o.base o.ix o.body) fun s => s.storeAt (s.eaX o.base o.ix o.body) (szBytes o.sz) (s.g o.d).toNat
/-- `stl` (R139): a release. -/
def execStl (o : StlX) (s : State) : Out :=
  s.issue (o.d :: regsX o.base o.ix o.body) fun s => s.storeAt (s.eaX o.base o.ix o.body) (szBytes o.sz) (s.g o.d).toNat (szBytes o.sz) true
/-- `stef` (Table 5.4). -/
def execStef (o : FeX) (s : State) : Out :=
  s.issue (o.d :: regsX o.base o.ix o.body) fun s => s.feAt (s.eaX o.base o.ix o.body) 2 0 (s.g o.d) false
/-- `feset` (Table 5.4). -/
def execFeset (o : FesetM) (s : State) : Out :=
  s.issue ([o.base]) fun s => s.fesetAt (s.eaM o.base 3 o.off) (o.val == 1)
/-- `feset` (Table 5.4). -/
def execFesetL2 (o : FesetX) (s : State) : Out :=
  s.issue (regsX o.base o.ix o.body) fun s => s.fesetAt (s.eaX o.base o.ix o.body) (o.val == 1)

/-- The queue's fields of `fld` and `fst`; M8[1:0] keeps SZ (log 15). -/
def fmemRaw (op : BitVec 8) (d : Reg) (sz : BitVec 2) : FRaw := { op := op, d := d, m8 := sz.setWidth 8 }

/-- `fld` (R18, R137): the I pipe reads, the queue entry keeps the data. -/
def State.fldAt (s : State) (ea : Word) (raw : FRaw) (sz : BitVec 2) : State :=
  s.access ea { len := szBytes sz, kind := .load, rd := true } fun s ps => s.load (.fload raw) ea ps

/-- `fst` (R18, R137): its entries take their place in the buffer now and their data when the F pipe issues it. -/
def State.fstAt (s : State) (ea : Word) (raw : FRaw) (sz : BitVec 2) : State :=
  s.access ea { len := szBytes sz, kind := .store, wr := true } fun s ps =>
    let es := (sbEntries ea ps 0 false s.th.mode).map fun e => { e with have_ := false, committed := false, owner := .fst s.th.freshRing }
    if s.th.fstAway then s.stall else s.sbPush es fun s => s.dispatch raw (ea.setWidth 64)

/-- `fld` (R137). -/
def execFld (o : FMemM) (s : State) : Out :=
  s.issueF (fmemRaw 0x48 o.d o.sz) ([o.base]) fun s => s.fldAt (s.eaM o.base o.sz o.off) (fmemRaw 0x48 o.d o.sz) o.sz
/-- `fld` (R137). -/
def execFldL2 (o : FMemX) (s : State) : Out :=
  s.issueF (fmemRaw 0x48 o.d o.sz) (regsX o.base o.ix o.body) fun s => s.fldAt (s.eaX o.base o.ix o.body) (fmemRaw 0x48 o.d o.sz) o.sz
/-- `fst` (R137). -/
def execFst (o : FMemM) (s : State) : Out :=
  s.issueF (fmemRaw 0x49 o.d o.sz) ([o.base]) fun s => s.fstAt (s.eaM o.base o.sz o.off) (fmemRaw 0x49 o.d o.sz) o.sz
/-- `fst` (R137). -/
def execFstL2 (o : FMemX) (s : State) : Out :=
  s.issueF (fmemRaw 0x49 o.d o.sz) (regsX o.base o.ix o.body) fun s => s.fstAt (s.eaX o.base o.ix o.body) (fmemRaw 0x49 o.d o.sz) o.sz
/-- `ldp` (R136). -/
def execLdp (o : PairM) (s : State) : Out :=
  s.issue (o.d :: pairHi o.d :: [o.base]) fun s => s.loadAt (s.eaM o.base 3 o.off) (.pair o.d)
/-- `ldp` (R136). -/
def execLdpL2 (o : PairX) (s : State) : Out :=
  s.issue (o.d :: pairHi o.d :: regsX o.base o.ix o.body) fun s => s.loadAt (s.eaX o.base o.ix o.body) (.pair o.d)
/-- `stp` (R136). -/
def execStp (o : PairM) (s : State) : Out :=
  s.issue (o.d :: pairHi o.d :: [o.base]) fun s => s.storeAt (s.eaM o.base 3 o.off) 16 ((s.g o.d).toNat + 2 ^ 64 * (s.g (pairHi o.d)).toNat)
/-- `stp` (R136). -/
def execStpL2 (o : PairX) (s : State) : Out :=
  s.issue (o.d :: pairHi o.d :: regsX o.base o.ix o.body) fun s => s.storeAt (s.eaX o.base o.ix o.body) 16 ((s.g o.d).toNat + 2 ^ 64 * (s.g (pairHi o.d)).toNat)
/-- `fence` (R140): it completes when the store buffer is empty; later stream reads come after it (R178). -/
def execFence (_ : FenceO) (s : State) : Out := s.issue [] fun s => s.drained fun s => s.orderPoint.advance
/-- `waita` (R147). -/
def execWaita (o : WaitaX) (s : State) : Out :=
  s.issue (o.d :: regsX o.base o.ix o.body) fun s => s.waitaAt (s.eaX o.base o.ix o.body) o
/-- `pref` (R141). -/
def execPref (o : PrefM) (s : State) : Out :=
  s.issue ([o.base]) fun s => s.prefAt (s.eaM o.base o.sz o.off) o.pg
/-- `pref` (R141). -/
def execPrefL2 (o : PrefX) (s : State) : Out :=
  s.issue (regsX o.base o.ix o.body) fun s => s.prefAt (s.eaX o.base o.ix o.body) o.pg
/-- `amoadd` (Table 5.6). -/
def execAmoadd (o : AtO) (s : State) : Out :=
  s.issue ([o.d, o.base, o.src]) fun s => s.atomicAt (s.g o.base) (.amo 0 o.d (szBytes o.sz) (s.g o.src) (o.acq == 1)) true
/-- `amoand` (Table 5.6). -/
def execAmoand (o : AtO) (s : State) : Out :=
  s.issue ([o.d, o.base, o.src]) fun s => s.atomicAt (s.g o.base) (.amo 1 o.d (szBytes o.sz) (s.g o.src) (o.acq == 1)) false
/-- `amoor` (Table 5.6). -/
def execAmoor (o : AtO) (s : State) : Out :=
  s.issue ([o.d, o.base, o.src]) fun s => s.atomicAt (s.g o.base) (.amo 2 o.d (szBytes o.sz) (s.g o.src) (o.acq == 1)) false
/-- `amoxor` (Table 5.6). -/
def execAmoxor (o : AtO) (s : State) : Out :=
  s.issue ([o.d, o.base, o.src]) fun s => s.atomicAt (s.g o.base) (.amo 3 o.d (szBytes o.sz) (s.g o.src) (o.acq == 1)) false
/-- `amomin` (Table 5.6). -/
def execAmomin (o : AtO) (s : State) : Out :=
  s.issue ([o.d, o.base, o.src]) fun s => s.atomicAt (s.g o.base) (.amo 4 o.d (szBytes o.sz) (s.g o.src) (o.acq == 1)) false
/-- `amomax` (Table 5.6). -/
def execAmomax (o : AtO) (s : State) : Out :=
  s.issue ([o.d, o.base, o.src]) fun s => s.atomicAt (s.g o.base) (.amo 5 o.d (szBytes o.sz) (s.g o.src) (o.acq == 1)) false
/-- `amominz` (Table 5.6). -/
def execAmominz (o : AtO) (s : State) : Out :=
  s.issue ([o.d, o.base, o.src]) fun s => s.atomicAt (s.g o.base) (.amo 6 o.d (szBytes o.sz) (s.g o.src) (o.acq == 1)) false
/-- `amomaxz` (Table 5.6). -/
def execAmomaxz (o : AtO) (s : State) : Out :=
  s.issue ([o.d, o.base, o.src]) fun s => s.atomicAt (s.g o.base) (.amo 7 o.d (szBytes o.sz) (s.g o.src) (o.acq == 1)) false
/-- `amoswap` (Table 5.6). -/
def execAmoswap (o : AtO) (s : State) : Out :=
  s.issue ([o.d, o.base, o.src]) fun s => s.atomicAt (s.g o.base) (.amo 8 o.d (szBytes o.sz) (s.g o.src) (o.acq == 1)) true
/-- `cas` (R150). -/
def execCas (o : AtO) (s : State) : Out :=
  s.issue ([o.d, o.base, o.src]) fun s => s.atomicAt (s.g o.base) (.cas o.d (szBytes o.sz) (s.g o.d) (s.g o.src) (o.acq == 1)) true
/-- `fadda` (R151). -/
def execFadda (o : AtO) (s : State) : Out :=
  s.issue ([o.d, o.base, o.src]) fun s => s.atomicAt (s.g o.base) (.fadda o.d (szBytes o.sz) (s.g o.src) (o.acq == 1)) false
/-- `casp` (R150). -/
def execCasp (o : CaspO) (s : State) : Out :=
  s.issue ([o.d, pairHi o.d, o.base, o.src, pairHi o.src]) fun s => s.atomicAt (s.g o.base)
    (.casp o.d (s.g (pairHi o.d) ++ s.g o.d) (s.g (pairHi o.src) ++ s.g o.src) (o.acq == 1)) false true

end Sys2Proof.Machine
end

