-- ==== Sys2Proof/Machine/Scopes.lean ====
section
/-! DEFINITION. Scopes and groups as sets of cores (R238, Table 9.5, R274). -/
namespace Sys2Proof.Machine

/-- Fields of a membership register (Table 1.16). -/
def gmemGid (g : Word) : Nat := bits g.toNat 0 8
def gmemV (g : Word) : Bool := bits g.toNat 8 1 == 1
def gmemIdx (g : Word) : Nat := bits g.toNat 12 20

/-- The installed group of a membership register. -/
def State.group (s : State) (ctx : BitVec 4) (gid : Nat) : Option Group := s.groups.find? fun g => g.ctx == ctx && g.gid == gid

/-- The core at a logical position of a context, if there is one. -/
def State.coreAtPos (s : State) (ctx : BitVec 4) (x y : Nat) : Option CoreId :=
  match s.placeOf ctx x y with
  | .core c => some c
  | _ => none

/-- The cores of a scope of the thread in focus (Table 9.5): 1 core, 2 cluster, 3 group (module where V = 0), 4 die, 5 module;
at system scope the module's. -/
def State.inScope (s : State) (sc : BitVec 3) (gm : BitVec 2) (c : CoreId) : Bool :=
  let t := s.th
  let g := t.gmem[gm.toNat]
  match sc.toNat with
  | 1 => c == s.cid
  | 2 => s.clusterOf c == s.clusterOf s.cid
  | 3 => !gmemV g || (match s.group t.ctx (gmemGid g) with
      | some gr => gr.members.any fun m => s.coreAtPos t.ctx m.x m.y == some c
      | none => false)
  | 4 => c.die == s.cid.die
  | _ => true

/-- The cluster holds a core of the scope (R409). -/
def State.clusterInScope (s : State) (sc : BitVec 3) (gm : BitVec 2) (d : ClusterId) : Bool :=
  (List.range 8).any fun i => s.inScope sc gm ⟨d.die, d.clu, i⟩

end Sys2Proof.Machine
end

