-- ==== Sys2Proof/Machine/Walk.lean ====
section
/-! DEFINITION. Walks: `page_walk` (R395), `vol_walk` with the pool (R344, R347), and the miss mailbox that presents a request and
takes its result (R394, R396). -/
namespace Sys2Proof.Machine

/-! ## Page walks -/

/-- A malformed page-table entry at a level (R391). -/
def pteBad (e lvl va : Nat) : Bool :=
  let b := bits e 6 1
  bits e 8 4 != 0 || bits e 50 6 != 0
    || (b == 1 && (lvl == 4 || lvl == 1))
    || ((lvl == 4 || (b == 0 && lvl != 1)) && (bits e 1 5 != 0 || bits e 7 1 != 0 || bits e 49 1 != 0))
    || (b == 1 && lvl == 3 && bits e 12 18 != 0) || (b == 1 && lvl == 2 && bits e 12 9 != 0)
    || (bits e 7 1 == 1 && bits e 12 4 != bits va 12 4)

/-- A leaf permits an access (R392). -/
def ptePermits (e : Nat) (a : PageUse) (user : Bool) : Bool :=
  (!a.w || bits e 1 1 == 1) && (!a.x || bits e 2 1 == 1) && (!user || bits e 3 1 == 1)

/-- What `page_walk` returns (R395). -/
inductive Walked where
  | fault (cause sub : BitVec 8)
  | ok (e : TlbEntry)
deriving DecidableEq, Repr

/-- `translated` (R395): the entry that a leaf found at a level gives. -/
def translated (ctx : BitVec 4) (n lvl va : Nat) : TlbEntry :=
  let size := if lvl = 3 then 3 else if lvl = 2 then 2 else if bits n 7 1 = 1 ∧ bits n 4 1 = 1 ∧ bits n 5 1 = 1 then 1 else 0
  let k := pageBits (BitVec.ofNat 2 size)
  { ctx := ctx, vpage := va / 2 ^ k, size := BitVec.ofNat 2 size
    addr := BitVec.ofNat 38 (bits n 12 38 / 2 ^ (k - 12) * 2 ^ (k - 12))
    w := bits n 1 1 == 1, x := bits n 2 1 == 1, u := bits n 3 1 == 1, d := bits n 5 1 == 1 }

/-- The levels of `page_walk` from a table down (R395); A and D are set in the leaf. -/
def State.walkFrom (s : State) (ctx : BitVec 4) (a : PageUse) (user : Bool) (va : Nat) : Nat → Nat → Walked × State
  | 0, _ => (.fault 6 3, s)
  | lvl + 1, t =>
    let ea := t + 8 * bits va (12 + 9 * lvl) 9
    let e := s.read ea 8
    if s.badRange ea 8 then (.fault 7 0, s.badRead ea 8)
    else if bits e 0 1 = 0 then (.fault 6 1, s)
    else if pteBad e (lvl + 1) va then (.fault 6 3, s)
    else
      let next := bits e 12 38 * 4096
      if lvl = 0 ∨ bits e 6 1 = 1 then
        if !ptePermits e a user then (.fault 6 2, s)
        else if !physTarget next then (.fault 6 4, s)
        else
          let n := e ||| (if a.w then 0x30 else 0x10)
          (.ok (translated ctx n (lvl + 1) va), if n = e then s else s.writeBytes ea (leBytes 8 n))
      else if !physTarget next then (.fault 6 4, s)
      else State.walkFrom s ctx a user va lvl next

/-- The first access of a page walk that a watchpoint of slot 3 matches: each entry is read, and a leaf whose A or D changes is compared and
swapped (R395, R492). -/
def State.walkWatched (s : State) (a : PageUse) (user : Bool) (va : Nat) : Nat → Nat → Option (Fin 2 × Nat × Bool)
  | 0, _ => none
  | lvl + 1, t =>
    let ea := t + 8 * bits va (12 + 9 * lvl) 9
    let e := s.read ea 8
    let next := bits e 12 38 * 4096
    match (s.withSlot 3).watched ea 8 true false with
    | some m => some (m, ea, false)
    | none =>
      if s.badRange ea 8 || bits e 0 1 == 0 || pteBad e (lvl + 1) va || !physTarget next then none
      else if lvl = 0 ∨ bits e 6 1 = 1 then
        if ptePermits e a user && (e ||| (if a.w then 0x30 else 0x10)) != e then ((s.withSlot 3).watched ea 8 true true).map (·, ea, true) else none
      else s.walkWatched a user va lvl next

/-- A translation to a page of the hub region counts as fault(0x06, 0x04) (R463). -/
def TlbEntry.checked (e : TlbEntry) : Walked := if e.addr.toNat * 4096 < 2 ^ 30 then .fault 6 4 else .ok e

/-- `page_walk` (R395). -/
def State.pageWalk (s : State) (ctx : BitVec 4) (a : PageUse) (user : Bool) (va : Nat) : Walked × State :=
  match s.walkFrom ctx a user va 4 s.ctxs[ctx.toNat].ptroot with
  | (.ok e, s) => (e.checked, s)
  | r => r

/-! ## Accesses of volume walks (R347) -/

/-- Why a walk ends early: it fails, it waits on an absent route entry or on a held bank, a watchpoint matches an access (R492), or
the TLBs miss a page of a thread's own access (R393). -/
inductive WalkStop where
  | fail (cause sub : BitVec 8) (tinfo : Option Word)
  | absent (lcn : Nat)
  | held
  | watched (m : Fin 2) (ea : Nat) (wr : Bool)
  | miss (va : Nat) (wr : Bool)
deriving DecidableEq, Repr

/-- A walk in progress. -/
abbrev WalkM := ExceptT WalkStop (StateM State)

/-- For whom a walk is made: the requesting core, the context, the slot that makes its accesses, and whether it is a walk of slot 3, whose
accesses watchpoints match (R492) and which walks the page tables itself; another's accesses are those of the thread in focus. -/
structure Walker where
  core : CoreId
  ctx : BitVec 4
  slot : Fin 4
  watch : Bool := false

def walkFail {α : Type} (c b : BitVec 8) (ti : Option Word := none) : WalkM α := throw (.fail c b ti)

/-- Where a paged address of a walk leads: the system slot walks the tables in system mode (log 18); an access of a thread goes through its
TLBs in its mode (R392, R393). -/
def walkPage (w : Walker) (va : Nat) (kind : AccessKind) (ti : Option Word) : WalkM Nat := do
  let s ← get
  let use : PageUse := { w := kind != .load }
  if w.watch then
    match s.walkWatched use false va 4 s.ctxs[w.ctx.toNat].ptroot with
    | some (m, ea, wr) => throw (.watched m ea wr)
    | none =>
      let (r, s) := s.pageWalk w.ctx use false va
      set s
      match r with
      | .fault c b => walkFail c b ti
      | .ok e => pure (e.pa va)
  else
    match s.xlate s.me use va with
    | (.fault c b, _) => walkFail c b ti
    | (.miss, _) => throw (.miss va use.w)
    | (.ok pa, s) =>
      set s
      pure pa

/-- Where a walk access leads (R347); beyond the address space it fails check 2 of Table 5.3 (R227). -/
def walkPlace (w : Walker) (va : Nat) (kind : AccessKind) (n : Nat) : WalkM Nat := do
  let ti := some (tinfoMem va kind (sizeCode n))
  if 2 ^ 48 < va + n then walkFail 5 0 ti
  let s ← get
  match spaceOf va with
  | .paged => walkPage w va kind ti
  | .sp | .peer =>
    match s.windowLoc ⟨w.core, s.clusterOf w.core, w.ctx, false, 0, .report, [], true⟩ va with
    | .at_ l => if s.bankHeld [⟨l, n⟩] (some (w.core, w.slot)) then throw .held else pure l
    | .absent => throw (.absent (bits va 17 17))
    | .none => walkFail 5 0 ti
  | _ => walkFail 5 0 ti

/-- A watchpoint that matches one of `count` accesses of n bytes each, from an address up, ends the walk there (R492). -/
def walkWatch (w : Walker) (va n count : Nat) (kind : AccessKind) : WalkM Unit := do
  let s ← get
  let hit := (List.range count).findSome? fun k =>
    ((s.withSlot w.slot).watched (va + k * n) n (kind != .store) (kind != .load)).map (·, va + k * n)
  match hit, w.watch with
  | some (m, ea), true => throw (.watched m ea (kind != .load))
  | _, _ => pure ()

/-- Where `count` accesses of n bytes each from an address up lead. -/
def walkLoc (w : Walker) (va : Nat) (kind : AccessKind) (n : Nat) (count : Nat := 1) : WalkM Nat := do
  let l ← walkPlace w va kind n
  walkWatch w va n count kind
  pure l

/-- A walk's read. -/
def walkRead (w : Walker) (va n : Nat) : WalkM Nat := do
  let l ← walkLoc w va .load n
  let s ← get
  if s.badRange l n then
    set (s.badRead l n)
    walkFail 7 0 (some (tinfoMem va .load (sizeCode n)))
  else pure (s.read l n)

/-- Where `count` stores of n bytes each from an address up lead, which a bad word or block does not refuse (R134, R498). -/
def walkStores (w : Walker) (va n count : Nat) : WalkM Nat := do
  let l ← walkLoc w va .store n count
  let s ← get
  match s.refuses ((List.range count).map fun k => ⟨l + k * n, n⟩) with
  | some x =>
    set (s.badWrite x)
    walkFail 7 0 (some (tinfoMem (va + (x - l)) .store (sizeCode n)))
  | none => pure l

/-- Where a walk's compare and swap leads; `casp` is refused in host memory (R344). -/
def walkCasLoc (w : Walker) (va n : Nat) : WalkM Nat := do
  let l ← walkLoc w va .atomic n
  let s ← get
  if n = 16 ∧ isHost l then walkFail 1 7 (some (tinfoMem va .atomic 4))
  else if s.badRange l n then
    set (s.badRead l n)
    walkFail 7 0 (some (tinfoMem va .atomic (sizeCode n)))
  else pure l

/-- The compare and swap itself: the old value. -/
def casAt (l n exp new : Nat) : WalkM Nat := do
  let s ← get
  let old := s.read l n
  if old = exp then set (s.writeBytes l (leBytes n new))
  pure old

def walkCas (w : Walker) (va n exp new : Nat) : WalkM Nat := do
  let l ← walkCasLoc w va n
  casAt l n exp new

/-! ## Volumes: coordinates, the slot, the pool -/

/-- Fields of a coordinate slot (Table 13.4). -/
def volRoot (v : BitVec 256) : Nat := bits v.toNat 0 48
def volEsz (v : BitVec 256) : Nat := bits v.toNat 48 2
def volNoAlloc (v : BitVec 256) : Bool := bits v.toNat 55 1 == 1
def volRo (v : BitVec 256) : Bool := bits v.toNat 56 1 == 1
def volOn (v : BitVec 256) : Bool := bits v.toNat 57 1 == 1
def volBg (v : BitVec 256) : Nat := bits v.toNat 64 64
def volPool (v : BitVec 256) : Nat := bits v.toNat 128 48
def volVid (v : BitVec 256) : Nat := bits v.toNat 176 16
def volLimit (v : BitVec 256) : Nat := bits v.toNat 192 32
/-- Tile size in bytes (R341). -/
def tileSize (v : BitVec 256) : Nat := 512 * 2 ^ volEsz v

/-- A biased axis of a packed coordinate (R340). -/
def biased (c k : Nat) : Nat := (bits c (21 * k) 21 + 2 ^ 20) % 2 ^ 21
/-- `node_index` (R340). -/
def nodeIndex (c lo w : Nat) : Nat :=
  (bits (biased c 2) lo w * 2 ^ w + bits (biased c 1) lo w) * 2 ^ w + bits (biased c 0) lo w
/-- The tile coordinate as a number: the axes above their low three bits. -/
def tileKey (c : Nat) : Nat := biased c 0 / 8 + 2 ^ 18 * (biased c 1 / 8) + 2 ^ 36 * (biased c 2 / 8)

/-- What a walk was made for: the slot's volume, the tile, whether it allocates. -/
def walkKey (v : BitVec 256) (c : Nat) (alloc : Bool) : Nat := tileKey c + 2 ^ 54 * alloc.toNat + 2 ^ 55 * v.toNat

/-- A malformed tree entry (R341). -/
def treeBad (e align : Nat) : Bool :=
  e != 0 && (bits e 0 1 == 0 || bits e 1 5 != 0 || decide (e / 2 ^ 48 ≠ 0) || decide (e / 64 * 64 % align ≠ 0))

/-- The pool header, refused in local store (R344). -/
def poolHeader (w : Walker) (v : BitVec 256) : WalkM Nat := do
  if spaceOf (volPool v) = .ls then walkFail 1 7 (some (tinfoMem (volPool v) .atomic 4))
  let h ← walkRead w (volPool v) 16
  if bits h 96 32 ≠ 0 then walkFail 0x0A 4
  pure h

/-- `pool_pop` (R344): the block. Nothing stands between its reads and its `casp`, which finds what they read. A block that is aligned has its
fill, and the place `ea` where it will be published, checked before it is popped: a fault of either leaves no effect (R353). -/
def poolPop (w : Walker) (v : BitVec 256) (ea : Nat) : WalkM (Nat × Nat) := do
  let h ← poolHeader w v
  let top := bits h 0 48
  if top = 0 then walkFail 0x0A 1
  if volLimit v ≤ bits h 64 32 then walkFail 0x0A 2
  let nxt ← walkRead w top 8
  let hl ← walkCasLoc w (volPool v) 16
  let n := (bits h 64 32 + 1) % 2 ^ 32 * 2 ^ 64 + (bits h 48 16 + 1) % 2 ^ 16 * 2 ^ 48 + bits nxt 0 48
  if top % tileSize v ≠ 0 then
    let _ ← casAt hl 16 h n
    walkFail 0x0A 4
  else
    let l ← walkStores w top (2 ^ volEsz v) 512
    let _ ← walkCasLoc w ea 8
    let _ ← casAt hl 16 h n
    pure (top, l)

/-- `pool_push` (R344): USED after the push. A fault leaves no effect (R353). -/
def poolPush (w : Walker) (v : BitVec 256) (b : Nat) : WalkM Nat := do
  let h ← poolHeader w v
  let l ← walkStores w b 8 1
  let hl ← walkCasLoc w (volPool v) 16
  let used := bits h 64 32 - 1
  modify fun s => s.writeBytes l (leBytes 8 (bits h 0 48))
  let _ ← casAt hl 16 h (used * 2 ^ 64 + (bits h 48 16 + 1) % 2 ^ 16 * 2 ^ 48 + bits b 0 48)
  pure used

/-- From the root down to a node: the address of the node named by the entries given, absent, or malformed (R347). -/
def treeDown (w : Walker) (c : Nat) : List (Nat × Nat) → Nat → WalkM (Option Nat)
  | [], node => pure (some node)
  | (lo, k) :: r, node => do
    let e ← walkRead w (node + 8 * nodeIndex c lo k) 8
    if treeBad e 1 then walkFail 0x0A 4
    if e = 0 then pure none else treeDown w c r (bits e 6 42 * 64)

/-- Where a walk has come to: its level-1 entry, 0 for an absent tile, or a block filled that is to be published at an entry's address. -/
inductive WalkTo where
  | entry (e : Nat)
  | block (ea b : Nat)
deriving DecidableEq, Repr

/-- `vol_walk` (R347) up to its last `cas`, between which and this another walk may publish the tile. -/
def volWalk (w : Walker) (v : BitVec 256) (c : Nat) (alloc : Bool) : WalkM WalkTo := do
  match ← treeDown w c [(15, 6), (10, 5), (6, 4)] (volRoot v) with
  | none => if alloc then walkFail 0x0A 3 else pure (.entry 0)
  | some node =>
    let ea := node + 8 * nodeIndex c 3 3
    let e ← walkRead w ea 8
    if treeBad e (tileSize v) then walkFail 0x0A 4
    if e ≠ 0 then pure (.entry e)
    else if !alloc then pure (.entry 0)
    else
      if volNoAlloc v then walkFail 0x0A 5
      let (b, l) ← poolPop w v ea
      let unit := leBytes (2 ^ volEsz v) (volBg v)
      modify fun s => s.writeBytes l (List.replicate 512 unit).flatten
      pure (.block ea b)

/-- The publication of a block (R347): a walk that has lost the race pushes its block back and takes the winner's tile. One that can no
longer write the entry pushes its block back as well (R353). -/
def volPublish (w : Walker) (v : BitVec 256) (ea b : Nat) : WalkM Nat := do
  let l ← tryCatch (walkCasLoc w ea 8) fun
    | .fail c sub ti => do
      let _ ← poolPush w v b
      walkFail c sub ti
    | e => throw e
  let old ← casAt l 8 0 (b + 1)
  if old = 0 then pure (b + 1)
  else
    let _ ← poolPush w v b
    if treeBad old (tileSize v) then walkFail 0x0A 4 else pure old

/-! ## The miss mailbox (R394, R396) -/

/-- Word 0 of the mailbox for a request (Table 17.2). -/
def MissReq.word0 (r : MissReq) : Nat :=
  r.kind.toNat + 16 * r.slot.toNat + 64 * r.eng.toNat + 128 * r.fetch.toNat + 256 * r.wr.toNat + 512 * r.user.toNat
    + 1024 * r.ctx.toNat

/-- The cluster whose second-level TLB a request missed in. -/
def MissReq.tlbCl (r : MissReq) (c : CoreId) : ClusterId :=
  match r.who with
  | .job d _ => d
  | .transfer _ | .hinge _ => r.serve.getD c.home
  | _ => c.home

/-- What a walk gives its requester. -/
def Thread.gets (t : Thread) (g : Got) : Thread :=
  let t := { t with got := t.got ++ [g] }
  if t.status = .missWait ∧ t.miss = .walk then { t with status := .ready, miss := .none } else t

/-- The result goes to who asked (R396 step 2, R400); a job or a transfer takes it when it tries again. -/
def State.deliver (s : State) (c : CoreId) (r : MissReq) (g : Option Got) : State :=
  let wake := fun (t : Thread) => if t.status = .missWait ∧ t.miss = .walk then { t with status := .ready, miss := .none } else t
  match r.who, g with
  | .thread i f, some g => s.modCoreAt c fun k => k.modTh i fun t => if t.status = .missWait ∨ t.miss = .walk ∨ f = true then t.gets g else t
  | .thread i _, none => s.modCoreAt c fun k => k.modTh i wake
  | .fside i, some g => s.modCoreAt c fun k => k.modTh i fun t => { t with fGot := t.fGot ++ [g] }
  | .stream i u, some g => s.modCoreAt c fun k => k.modTh i fun t => t.modUnit u fun x => { x with got := x.got ++ [g] }
  | .prefetch _ true, some ⟨false, _, .fault 6 1 _⟩ => s.pageIn c none none r.ctx r.addr.toNat
  | .job d j, some g => s.modClAt d fun x => { x with got := x.got ++ [(j, g)] }
  | .transfer j, some g => { s with xferGot := s.xferGot ++ [(j, g)] }
  | .hinge n, some g => { s with hingeIn := s.hingeIn.map fun h => if h.id = n then { h with got := h.got ++ [g] } else h }
  | _, _ => s

/-- Requests at the head of the queue whose page has meanwhile come into the second-level TLB complete unpresented (R393). -/
def State.skipServed (c : CoreId) : Nat → State → State
  | 0, s => s
  | n + 1, s =>
    match (s.coreAt c).missQ with
    | r :: rest =>
      if r.kind = 1 ∧ (tlbFind (s.clAt (r.tlbCl c)).tlb r.ctx r.addr.toNat { w := r.wr, x := r.fetch } r.user).isSome then
        State.skipServed c n ((s.modCoreAt c fun k => { k with missQ := rest }).deliver c r none)
      else s
    | [] => s

/-- Present the head request in the mailbox, which wakes slot 3 (R394, R24); with none, KIND becomes 0. -/
def State.present (s : State) (c : CoreId) : State :=
  let s := State.skipServed c (s.coreAt c).missQ.length s
  match (s.coreAt c).missQ with
  | [] => (s.write (c.ls 0x2C00) 24 0).modCoreAt c fun k =>
    Core.modTh { k with presented := false } 3 fun t => if t.status = .ready ∧ t.inTurn = false then { t with status := .sleeping } else t
  | r :: _ =>
    let s := s.write (c.ls 0x2C00) 24 (r.word0 + 2 ^ 64 * r.addr.toNat + 2 ^ 128 * r.aux.toNat)
    s.modCoreAt c fun k => { k with presented := true }.wakeSleeper 3

/-- RESULT of a page walk (Table 17.3); what R396 refuses counts as fault(0x06, 0x03). -/
def resultPage (ctx : BitVec 4) (va v : Nat) : Walked :=
  let size := bits v 24 2
  let k := pageBits (BitVec.ofNat 2 size)
  let cause := bits v 16 8
  if bits v 6 2 ≠ 0 ∨ 2 ≤ bits v 0 2 ∨ bits v 26 38 % 2 ^ (k - 12) ≠ 0 then .fault 6 3
  else if bits v 0 2 = 1 then
    if cause = 6 ∨ cause = 7 then .fault (BitVec.ofNat 8 cause) (BitVec.ofNat 8 (bits v 8 8)) else .fault 6 3
  else
    TlbEntry.checked
      { ctx := ctx, vpage := va / 2 ^ k, size := BitVec.ofNat 2 size, addr := BitVec.ofNat 38 (bits v 26 38)
        w := bits v 2 1 == 1, x := bits v 3 1 == 1, u := bits v 4 1 == 1, d := bits v 5 1 == 1 }

/-- Table 17.3 for what `page_walk` returned. -/
def Walked.result : Walked → Nat
  | .fault c b => 1 + 2 ^ 8 * b.toNat + 2 ^ 16 * c.toNat
  | .ok e => 4 * e.w.toNat + 8 * e.x.toNat + 16 * e.u.toNat + 32 * e.d.toNat + 2 ^ 24 * e.size.toNat + 2 ^ 26 * e.addr.toNat

/-- Install a translation (R396 step 1). -/
def State.install (s : State) (c : CoreId) (r : MissReq) (e : TlbEntry) : State :=
  let s := s.modClAt (r.tlbCl c) fun x => { x with tlb := tlbPut 2048 x.tlb e }
  if r.eng then s
  else s.modCoreAt c fun k =>
    if r.fetch then { k with itlb := tlbPut 16 k.itlb e } else { k with dtlb := tlbPut 96 k.dtlb e }

/-- Enter a tile in both look-aside buffers (R347). -/
def State.installTile (s : State) (c : CoreId) (e : ClabEntry) : State :=
  let put := fun (cap : Nat) (l : List ClabEntry) =>
    let l := (l.filter fun f => !(f.ctx == e.ctx && f.vid == e.vid && f.key == e.key)) ++ [e]
    l.drop (l.length - cap)
  (s.modCoreAt c fun k => { k with clab := put 16 k.clab }).modClAt c.home fun x => { x with clab := put 512 x.clab }

/-- The result of a volume walk reaches the look-aside buffers and its requester (R347). -/
def State.tileResult (s : State) (c : CoreId) (r : MissReq) (res : GotRes) : State :=
  let s := match res with
    | .entry e => if e ≠ 0 ∧ r.keep then s.installTile c ⟨r.ctx, volVid r.vol, tileKey r.addr.toNat, e⟩ else s
    | _ => s
  s.deliver c r (some ⟨true, walkKey r.vol r.addr.toNat r.alloc, res⟩)

/-- The head request leaves the queue, and the next is presented (R396 step 3). -/
def State.popMiss (s : State) (c : CoreId) : State :=
  (s.modCoreAt c fun k => { k with missQ := k.missQ.drop 1, presented := false }).present c

/-- The result of a page walk: installed, or used once by its requester after a `tlbi` (R396, R409 step 3). -/
def State.pageResult (s : State) (c : CoreId) (r : MissReq) (w : Walked) : State :=
  match w with
  | .fault a b => s.deliver c r (some ⟨false, r.addr.toNat / 4096, .fault a b none⟩)
  | .ok e =>
    let forUnit : Option Got := match r.who with
      | .job _ _ | .transfer _ | .hinge _ => some ⟨false, r.addr.toNat / 4096, .once e⟩
      | _ => none
    if r.keep then (s.install c r e).deliver c r forUnit
    else s.deliver c r (some ⟨false, r.addr.toNat / 4096, .once e⟩)

/-- RESULT of a volume walk (R396). A failure that Table 8.1 has no code for with a walk, and an entry that is malformed (R341), are taken as
allocation failure 0x04 (log 77). -/
def resultTile (vol : BitVec 256) (v : Nat) : GotRes :=
  let cause := bits v 16 8
  let sub := bits v 8 8
  let known := (cause == 0x0A && decide (1 ≤ sub) && decide (sub ≤ 5)) || (cause == 6 && decide (1 ≤ sub) && decide (sub ≤ 4))
    || (cause == 7 && sub == 0) || (cause == 5 && sub == 0) || (cause == 1 && sub == 7)
  if bits v 63 1 = 1 then
    if known then .fault (BitVec.ofNat 8 cause) (BitVec.ofNat 8 sub) none else .fault 0x0A 4 none
  else if treeBad v (tileSize vol) then .fault 0x0A 4 none
  else .entry (BitVec.ofNat 64 v)

/-- A store to RESULT completes the presented request (R396). -/
def State.completeMiss (s : State) (c : CoreId) (v : Word) : State :=
  let k := s.coreAt c
  match k.missQ with
  | r :: _ =>
    if !k.presented then s
    else if r.kind = 1 then (s.pageResult c r (resultPage r.ctx r.addr.toNat v.toNat)).popMiss c
    else if r.kind = 2 then (s.tileResult c r (resultTile r.vol v.toNat)).popMiss c
    else s.popMiss c
  | [] => s

/-- MISS_PRESENT (R394). -/
def execMissPresent (s : State) : Out :=
  if s.core.missQ.isEmpty || s.core.presented then .next s else .next (s.present s.cid)

/-- MISS_RESULT (R396): the system slot's code has computed the result of `page_walk` or `vol_walk` (R395, R347) and stores it to
RESULT; a report is taken off. A volume walk that meets an absent route entry or a held bank waits; one that allocates publishes its
block in a step of its own. A watchpoint of slot 3 halts the core or traps in slot 3, and the request stays (R492); while the debug module
keeps slot 3 from issuing (R489), or a trap handler runs there, nothing happens. -/
def execMissResult (s : State) : Out :=
  match s.core.missQ with
  | r :: _ =>
    let stop := fun (h : Fin 2 × Nat × Bool) => Host.Outcome.next ((s.withSlot 3).watchTrap h.1 h.2.1 h.2.2)
    if !s.core.presented || !s.core.lets 3 || (s.core.th 3).held.isSome then .next s
    else if r.kind = 1 then
      match s.walkWatched { w := r.wr, x := r.fetch } r.user r.addr.toNat 4 s.ctxs[r.ctx.toNat].ptroot with
      | some h => stop h
      | none =>
        let (w, s) := s.pageWalk r.ctx { w := r.wr, x := r.fetch } r.user r.addr.toNat
        .next (s.completeMiss s.cid (BitVec.ofNat 64 w.result))
    else if r.kind = 2 then
      let w : Walker := ⟨s.cid, r.ctx, 3, true⟩
      let walk := match r.block with
        | none => volWalk w r.vol r.addr.toNat r.alloc
        | some (ea, b) => WalkTo.entry <$> volPublish w r.vol ea b
      match walk.run.run s with
      | (.ok (.entry e), s) => .next ((s.tileResult s.cid r (.entry (BitVec.ofNat 64 e))).popMiss s.cid)
      | (.ok (.block ea b), s) => .next (s.modCore fun k => { k with missQ := { r with block := some (ea, b) } :: k.missQ.drop 1 })
      | (.error (.fail c b ti), s) => .next ((s.tileResult s.cid r (.fault c b ti)).popMiss s.cid)
      | (.error (.watched m ea wr), _) => stop (m, ea, wr)
      | (.error (.absent _), _) | (.error .held, _) | (.error (.miss ..), _) => .next s
    else .next (s.completeMiss s.cid 0)
  | [] => .next s

end Sys2Proof.Machine
end

