-- ==== Sys2Proof/Machine/Volumes.lean ====
section
/-! DEFINITION. Volume instructions (chapter 13). -/
namespace Sys2Proof.Machine

def Thread.vol (t : Thread) (cs : BitVec 2) : BitVec 256 := t.coord[cs.toNat]

/-- `TINFO` for the traps of checks 2 to 5 (R353): the packed coordinate. -/
def packedTinfo (c : Word) : Word := BitVec.ofNat 64 (c.toNat % 2 ^ 63)

/-- Checks 2 and 3 of Table 13.7, on the slot and the coordinate of A. -/
def State.withVol (s : State) (cs : BitVec 2) (a : Reg) (regs : List Reg) (wr : Bool)
    (k : State → BitVec 256 → Word → State) : Out :=
  s.issue (a :: regs) fun s =>
    let v := s.th.vol cs
    let c := s.g a
    if !volOn v then s.trapAt 1 7 (packedTinfo c) else if wr && volRo v then s.trapAt 5 0 (packedTinfo c) else k s v c

/-- The trap of a walk that failed (R347, R353); a failure stored to RESULT with another cause than 0x0A has a `TINFO` of Table 8.2 whose
fields are not stated (log 9). -/
def State.walkTrap (s : State) (at_ : Word) (cause sub : BitVec 8) (ti : Option Word) : State :=
  match ti with
  | some x => s.trapAt cause sub x
  | none =>
    if cause.toNat = 0x0A then s.trapAt cause sub (packedTinfo at_)
    else let (x, s) := s.anyTinfo; s.trapAt cause sub x

def clabFind (l : List ClabEntry) (ctx : BitVec 4) (v : BitVec 256) (key : Nat) : Option Word :=
  (l.find? fun e => e.ctx == ctx && e.vid == volVid v && e.key == key).map (·.entry)

/-- The entry of a tile in a core's or its cluster's look-aside buffer (R346, R347). -/
def State.clabHit (s : State) (ctx : BitVec 4) (v : BitVec 256) (key : Nat) : Option Word :=
  match clabFind s.core.clab ctx v key with
  | some e => some e
  | none => clabFind (s.clAt s.cid.home).clab ctx v key

/-- The request for the walk of a tile; WR says that the instruction writes (R347, Table 17.2). -/
def volRequest (ctx : BitVec 4) (slot : Fin 4) (user : Bool) (v : BitVec 256) (cs : BitVec 2) (c : Word) (alloc wr : Bool) (who : Requester) : MissReq :=
  { kind := 2, slot := BitVec.ofNat 2 slot.val, wr := wr, user := user, ctx := ctx, addr := packedTinfo c, aux := cs.setWidth 64
    vol := v, alloc := alloc, who := who }

/-- Look up the tile of a coordinate (R347): what follows gets its entry, 0 for an absent tile. A walk that failed traps, with
the coordinate `at_`; a walk puts the slot in miss wait. -/
def State.lookup (s : State) (cs : BitVec 2) (c at_ : Word) (alloc wr : Bool) (k : State → Nat → State) : State :=
  let t := s.th
  let v := t.vol cs
  match t.got.find? (fun g => g.for true (walkKey v c.toNat alloc)) with
  | some ⟨_, _, .fault a b ti⟩ => s.walkTrap at_ a b ti
  | some ⟨_, _, .entry e⟩ => k s e.toNat
  | _ =>
    match s.clabHit t.ctx v (tileKey c.toNat) with
    | some e => k s e.toNat
    | none =>
      (s.request s.cid (volRequest t.ctx s.cur (!t.mode) v cs c alloc wr (.thread s.cur false))).missOn .walk

/-- The address of a tile, and of the element of a coordinate in it (R340). -/
def tileAddr (e : Nat) : Nat := bits e 6 42 * 64
def elemAddr (v : BitVec 256) (e : Nat) (c : Word) : Word := BitVec.ofNat 64 (tileAddr e + nodeIndex c.toNat 0 3 * 2 ^ volEsz v)

/-- The volume and the tile that a coordinate's look-aside entry is tagged with (R346). -/
def volTile (v : BitVec 256) (c : Word) : Nat × Nat := (volVid v, tileKey c.toNat)

/-- Accesses to memory that an instruction makes itself, in its thread's mode and through its TLBs (R392, R393); a miss puts the slot in miss
wait, and the instruction issues again. -/
def State.runWalk {α : Type} (s : State) (at_ : Word) (m : WalkM α) (k : State → α → State) : State :=
  match m.run.run s with
  | (.ok a, s) => k s a
  | (.error (.fail c b ti), s) => s.walkTrap at_ c b ti
  | (.error (.absent n), _) => s.missOn (.route n)
  | (.error .held, _) => s.stall
  | (.error (.watched m ea wr), _) => s.watchTrap m ea wr
  | (.error (.miss va wr), _) => (s.xlate s.me { w := wr } va).2.missOn .walk

def State.walker (s : State) : Walker := ⟨s.cid, s.th.ctx, s.cur, false⟩

/-- A started coordinate stream of the thread uses the slot (R182). -/
def Thread.volInUse (t : Thread) (cs : BitVec 2) : Bool :=
  t.units.toList.any fun u => u.cfg.go && u.cfg.kind.toNat == 6 && bits u.cfg.aux.toNat 64 2 == cs.toNat

/-- `vbind` (R354, R182). -/
def State.vbindAt (s : State) (cs : BitVec 2) (ea : Word) : State :=
  if s.th.volInUse cs then s.illegal 8
  else s.access ea { len := 64, align := 64, kind := .load, rd := true, size := 3, words := true } fun s ps => s.load (.descr cs) ea ps

/-- `vbind` (R354). -/
def execVbind (o : VbM) (s : State) : Out := s.issue [o.base] fun s => s.vbindAt o.cs (s.eaM o.base 3 o.off)
/-- `vbind` (R354). -/
def execVbindL2 (o : VbX) (s : State) : Out := s.issue (regsX o.base o.ix o.body) fun s => s.vbindAt o.cs (s.eaX o.base o.ix o.body)
/-- `vbind.off` (R354, R182). -/
def execVbindOff (o : VbOff) (s : State) : Out :=
  s.issue [] fun s =>
    if s.th.volInUse o.cs then s.illegal 8 else (s.modTh fun t => { t with coord := t.coord.set o.cs.toNat 0 }).advance

/-- `cld` (R355): of an absent tile, the background value. -/
def execCld (o : CldO) (s : State) : Out :=
  s.withVol o.cs o.a [o.d] false fun s v c =>
    s.lookup o.cs c c false false fun s e =>
      let s := s.orderPoint
      if e = 0 then s.result o.d (extend (2 ^ volEsz v) (o.sx == 0) (volBg v))
      else s.loadAt (elemAddr v e c) (.load o.d (2 ^ volEsz v) (o.sx == 0) false) (tile := some (volTile v c))

/-- `cst` (R356). -/
def execCst (o : CvO) (s : State) : Out :=
  s.withVol o.cs o.a [o.d] true fun s v c =>
    s.lookup o.cs c c true true fun s e =>
      s.orderPoint.storeAt (elemAddr v e c) (2 ^ volEsz v) ((s.g o.d).toNat % 2 ^ (8 * 2 ^ volEsz v)) (tile := some (volTile v c))

/-- `cprobe` (R357). -/
def execCprobe (o : CvO) (s : State) : Out :=
  s.withVol o.cs o.a [o.d] false fun s _ c =>
    s.lookup o.cs c c false false fun s e => s.orderPoint.result o.d (if e = 0 then 0 else BitVec.ofNat 64 (2 ^ 63 + tileAddr e))

/-- `camo` (R356): check 4 of Table 13.7, then behind every buffered store the lookup and the atomic. -/
def State.camo (s : State) (o : CamoO) (op : Nat) : Out :=
  s.withVol o.cs o.a [o.d, o.c] true fun s v c =>
    if volEsz v < 2 then s.trapAt 1 7 (packedTinfo c)
    else s.drained fun s => s.lookup o.cs c c true true fun s e =>
      let n := 2 ^ volEsz v
      let m : MemOp := if op = 9 then .cas o.d n (s.g o.d) (s.g o.c) (o.acq == 1)
        else .amo (BitVec.ofNat 4 op) o.d n (s.g o.c) (o.acq == 1)
      s.orderPoint.atomicAt (elemAddr v e c) m (op == 0 || op == 8 || op == 9) (tile := some (volTile v c))

/-- `camoadd` (R356). -/
def execCamoadd (o : CamoO) (s : State) : Out := s.camo o 0
/-- `camoand` (R356). -/
def execCamoand (o : CamoO) (s : State) : Out := s.camo o 1
/-- `camoor` (R356). -/
def execCamoor (o : CamoO) (s : State) : Out := s.camo o 2
/-- `camoxor` (R356). -/
def execCamoxor (o : CamoO) (s : State) : Out := s.camo o 3
/-- `camomin` (R356). -/
def execCamomin (o : CamoO) (s : State) : Out := s.camo o 4
/-- `camomax` (R356). -/
def execCamomax (o : CamoO) (s : State) : Out := s.camo o 5
/-- `camominz` (R356). -/
def execCamominz (o : CamoO) (s : State) : Out := s.camo o 6
/-- `camomaxz` (R356). -/
def execCamomaxz (o : CamoO) (s : State) : Out := s.camo o 7
/-- `camoswap` (R356). -/
def execCamoswap (o : CamoO) (s : State) : Out := s.camo o 8
/-- `ccas` (R356). -/
def execCcas (o : CamoO) (s : State) : Out := s.camo o 9

/-! ## Look-aside entries (R359, R360) -/

def ClabEntry.aimed (e : ClabEntry) (ctx : BitVec 4) (v : BitVec 256) (key : Option Nat) : Bool :=
  e.ctx == ctx && e.vid == volVid v && (match key with
    | some k => e.key == k
    | none => true)

/-- A thread of the context waits for an access whose address came from one of these tiles' entries. -/
def Thread.loadsTile (t : Thread) (ctx : BitVec 4) (tiles : List (Nat × Nat)) : Bool :=
  t.ctx == ctx && (match t.miss with
    | .data .. => t.via.any tiles.elem
    | _ => false)

/-- It does, or has such a store in its buffer. -/
def Thread.usesTile (t : Thread) (ctx : BitVec 4) (tiles : List (Nat × Nat)) : Bool :=
  t.loadsTile ctx tiles || (t.ctx == ctx && t.sb.any fun b => b.tile.any tiles.elem)

/-- A walk's result for one of the tiles that `cinv` aims at. -/
def Got.ofTile (g : Got) (v : BitVec 256) (key : Option Nat) : Bool :=
  g.vol && decide (g.key < 2 ^ 311) && volVid (BitVec.ofNat 256 (g.key / 2 ^ 55)) == volVid v && (match key with
    | some k => decide (g.key % 2 ^ 54 = k)
    | none => true)

/-- Steps 2 and 3 of `cinv` (R360): the entries leave the buffers of the scope; the walks that have begun there are waited for, and one
for a tile aimed at makes no entry. An instruction that has the tile from an earlier walk, and waits for its page, looks it up again. -/
def State.dropTiles (s : State) (sc : BitVec 3) (gm : BitVec 2) (v : BitVec 256) (key : Option Nat) : State :=
  let ctx := s.th.ctx
  let inC := s.inScope sc gm
  let inD := s.clusterInScope sc gm
  let hit := fun (e : ClabEntry) => e.aimed ctx v key
  let aimed := fun (l : List ClabEntry) => (l.filter hit).map fun e => (e.vid, e.key)
  let tiles := (s.coreIds.filter inC).flatMap (fun c => aimed (s.coreAt c).clab) ++ (s.clusterIds.filter inD).flatMap fun d => aimed (s.clAt d).clab
  let forget := fun (t : Thread) => if t.ctx == ctx then { t with got := t.got.filter fun g => !g.ofTile v key } else t
  let mark := fun (r : MissReq) => if r.kind = 2 then { r with awaited := true, keep := r.keep && !hit ⟨r.ctx, volVid r.vol, tileKey r.addr.toNat, 0⟩ } else r
  let s := s.mapCores fun c k => if inC c then
    { k with
      clab := k.clab.filter fun e => !hit e
      missQ := match k.missQ with
        | r :: rest => if k.presented then mark r :: rest else r :: rest
        | [] => [] } else k
  let s := s.mapCores fun c k => if inD c.home then k.mapTh fun _ => forget else k
  (s.mapCls fun d x => if inD d then { x with clab := x.clab.filter fun e => !hit e } else x).modTh fun t => { t with shot := some ([], tiles) }

/-- `cinv` (R360): a fence, the removal, then the walks that had begun and the accesses that used what was removed, of a cluster's buffer
by any of its cores. -/
def State.shootTiles (s : State) (sc : BitVec 3) (gm : BitVec 2) (v : BitVec 256) (key : Option Nat) : State :=
  s.drained fun s =>
    let s := if s.th.shot.isSome then s else s.orderPoint.dropTiles sc gm v key
    let tiles := (s.th.shot.map (·.2)).getD []
    let waits := fun (c : CoreId) => (s.coreAt c).missQ.any (·.awaited) || (s.coreAt c).slots.toList.any fun t => t.usesTile s.th.ctx tiles
    let loads := fun (c : CoreId) => s.clusterInScope sc gm c.home && (s.coreAt c).slots.toList.any fun t => t.loadsTile s.th.ctx tiles
    if (s.coreIds.filter (s.inScope sc gm)).any waits || s.coreIds.any loads then s.stall
    else (s.modTh fun t => { t with shot := none }).advance

/-- `cinv` (R360). -/
def execCinv (o : CinvO) (s : State) : Out :=
  s.withVol o.cs o.a [] false fun s v c => s.shootTiles o.sc o.gm v (some (tileKey c.toNat))
/-- `cinv.all` (R360). -/
def execCinvAll (o : CinvA) (s : State) : Out :=
  s.withVol o.cs 0 [] false fun s v _ => s.shootTiles o.sc o.gm v none

/-! ## Allocation (R359) -/

/-- `calloc.get` (R359). -/
def execCallocGet (o : CvO) (s : State) : Out :=
  s.withVol o.cs o.a [o.d] true fun s _ c =>
    s.lookup o.cs c c true true fun s e => s.orderPoint.result o.d (BitVec.ofNat 64 (tileAddr e))

/-- The level-1 entry of a tile set to 0 if it still is e (R359): whether it was. -/
def cutEntry (w : Walker) (v : BitVec 256) (c e : Nat) : WalkM Bool := do
  match ← treeDown w c [(15, 6), (10, 5), (6, 4)] (volRoot v) with
  | none => pure false
  | some node =>
    let old ← walkCas w (node + 8 * nodeIndex c 3 3) 8 e 0
    pure (old == e)

/-- `calloc.cut` (R359): a release. -/
def execCallocCut (o : CvO) (s : State) : Out :=
  s.withVol o.cs o.a [o.d] true fun s v c =>
    s.drained fun s => s.lookup o.cs c c false true fun s e =>
      let s := s.orderPoint
      if e = 0 then s.result o.d 0
      else
        let drop := fun (l : List ClabEntry) => l.filter fun x => !x.aimed s.th.ctx v (some (tileKey c.toNat))
        let s := (s.modCore fun k => { k with clab := drop k.clab }).modClAt s.cid.home fun k => { k with clab := drop k.clab }
        s.runWalk c (cutEntry s.walker v c.toNat e) fun s ok => s.result o.d (if ok then BitVec.ofNat 64 (tileAddr e) else 0)

/-- `calloc.free` (R359): a release; a block beyond the address space (R227) or misaligned traps as the 8-byte store to it would. -/
def execCallocFree (o : CfreeO) (s : State) : Out :=
  s.withVol o.cs 0 [o.d] true fun s v _ =>
    let b := (s.g o.d).toNat
    if 2 ^ 48 < b + 8 then s.trapAt 5 0 (tinfoMem b .store 3)
    else if b % tileSize v ≠ 0 then s.trapAt 4 0 (tinfoMem b .store 3)
    else s.drained fun s => s.runWalk 0 (poolPush s.walker v b) fun s used => s.result o.d (BitVec.ofNat 64 used)

/-- `calloc.node` (R359): the entry that would name the node of a level, from the root down. -/
def linkNode (w : Walker) (v : BitVec 256) (c lvl : Nat) (b : Word) : WalkM Word := do
  let path := if lvl = 3 then [] else if lvl = 2 then [(15, 6)] else [(15, 6), (10, 5)]
  let (lo, k) := if lvl = 3 then (15, 6) else if lvl = 2 then (10, 5) else (6, 4)
  match ← treeDown w c path (volRoot v) with
  | none => walkFail 0x0A 3
  | some node =>
    let ea := node + 8 * nodeIndex c lo k
    let e ← walkRead w ea 8
    if treeBad e 1 then walkFail 0x0A 4
    if e ≠ 0 then pure 0
    else
      let old ← walkCas w ea 8 0 (b + 1).toNat
      pure (if old = 0 then 1 else 0)

/-- `calloc.node` (R359): a release. -/
def execCallocNode (o : CnodeO) (s : State) : Out :=
  s.withVol o.cs o.a [o.d] true fun s v c =>
    let b := s.g o.d
    s.drained fun s => s.runWalk c (linkNode s.walker v c.toNat o.lvl.toNat b) fun s x => s.result o.d x

/-! ## Neighbours (R358) -/

/-- The tiles around a coordinate that exist, with their bits; each as a packed coordinate in it. -/
def nbrTiles (c : Nat) : List (Nat × Word) :=
  (List.range 27).filterMap fun b =>
    let t := fun k d => biased c k / 8 + d
    let x := t 0 (b % 3)
    let y := t 1 (b / 3 % 3)
    let z := t 2 (b / 9)
    if 1 ≤ x ∧ x ≤ 2 ^ 18 ∧ 1 ≤ y ∧ y ≤ 2 ^ 18 ∧ 1 ≤ z ∧ z ≤ 2 ^ 18 then
      let p := fun u => ((u - 1) * 8 + 2 ^ 20) % 2 ^ 21
      some (b, BitVec.ofNat 64 (p x + 2 ^ 21 * p y + 2 ^ 42 * p z))
    else none

/-- What a lookup of `cnbr` that has been made is kept under: it is not made again. -/
def nbrKey (v : BitVec 256) (c : Word) : Nat := walkKey v c.toNat false + 2 ^ 311

/-- The lookups of `cnbr`, in ascending bit order, each made once (R358). -/
def State.nbrs (cs : BitVec 2) (d : Reg) (at_ : Word) : List (Nat × Word) → Nat → State → State
  | [], m, s => s.orderPoint.result d (BitVec.ofNat 64 m)
  | (b, c) :: r, m, s =>
    let key := nbrKey (s.th.vol cs) c
    let go := fun (e : Nat) (s : State) => State.nbrs cs d at_ r (m + if e = 0 then 0 else 2 ^ b) s
    match s.th.got.find? (fun g => g.for true key) with
    | some ⟨_, _, .entry e⟩ => go e.toNat s
    | _ => s.lookup cs c at_ false false fun s e => go e (s.modTh fun t => { t with got := t.got ++ [⟨true, key, .entry (BitVec.ofNat 64 e)⟩] })

/-- `cnbr` (R358). -/
def execCnbr (o : CvO) (s : State) : Out :=
  s.withVol o.cs o.a [o.d] false fun s _ c => State.nbrs o.cs o.d c (nbrTiles c.toNat) 0 s

end Sys2Proof.Machine
end

