-- ==== Sys2Proof/Machine/Streams.lean ====
section
/-! DEFINITION. Stream units (chapter 06): where an element lies, reading ahead, set operations, and the stream instructions. -/
namespace Sys2Proof.Machine

/-! ## Patterns (R159 to R162) -/

def StreamRec.stride (r : StreamRec) (k : Nat) : Int := toSigned (bits r.aux.toNat (32 * k) 32) 32

/-- `affine_addr` (R159). -/
def StreamRec.affineAddr (r : StreamRec) : Int :=
  (List.range (r.dims.toNat + 1)).foldl (fun a k => a + (r.idx k : Int) * r.stride k) (r.addr.toNat : Int)

/-- The unit stands at position q, or at its end (R173, `spos`). -/
def StreamRec.setPosition (r : StreamRec) (q : Nat) : StreamRec :=
  let r0 := { r with rcnt := 0, idx0 := 0, idx1 := 0, idx2 := 0, idx3 := 0, done := false }
  if r.total ≤ q then { r0 with done := true }
  else ((List.range (r.dims.toNat + 1)).foldl (fun (p : StreamRec × Nat) k => (p.1.setIdx k (p.2 % (r.bound k + 1)), p.2 / (r.bound k + 1))) (r0, q)).1

/-- ISZ in bytes, ISH, DBASE of an indirect unit (Table 6.2). -/
def StreamRec.indexBytes (r : StreamRec) : Nat := if bits r.aux.toNat 115 1 = 1 then 8 else 4
def StreamRec.dataAddr (r : StreamRec) (x : Nat) : Nat := bits r.aux.toNat 64 48 + x * 2 ^ bits r.aux.toNat 112 3
/-- CSLOT, and the coordinate of the element, of a coordinate unit (R162). -/
def StreamRec.cslot (r : StreamRec) : BitVec 2 := BitVec.ofNat 2 (bits r.aux.toNat 64 2)
def StreamRec.axis (r : StreamRec) (k : Nat) : Int := toSigned (bits r.aux.toNat (21 * k) 21) 21 + (r.idx k : Int)
def StreamRec.coordinate (r : StreamRec) : Word :=
  BitVec.ofNat 64 ((r.axis 0 % 2 ^ 21).toNat + 2 ^ 21 * (r.axis 1 % 2 ^ 21).toNat + 2 ^ 42 * (r.axis 2 % 2 ^ 21).toNat)
def StreamRec.outside (r : StreamRec) : Bool :=
  [0, 1, 2].any fun k => decide (r.axis k < -(2 ^ 20)) || decide (2 ^ 20 ≤ r.axis k)

/-! ## Where an element lies -/

/-- An element's place: parts of memory, a background value, a fault, or not known yet. -/
inductive ElemAt where
  | at_ (ea : Nat) (ps : List Part)
  | value (v : Nat)
  | fault (f : ElemFault)
  | wait
deriving DecidableEq, Repr

/-- Unit u of the thread in focus as an accessor. -/
def State.streamWho (s : State) (u : Nat) : Who := { s.me with req := .stream s.cur u, got := (s.th.unit u).got }

/-- Checks 2 to 6 of Table 5.3 for an element or an index (R160, R175). -/
def State.elemLocate (s : State) (u : Nat) (ea : Int) (n : Nat) (wr ix : Bool) : ElemAt × State :=
  let a := BitVec.ofInt 48 ea
  if ea < 0 ∨ 2 ^ 48 < ea + n then (.fault ⟨5, 0, a, ix⟩, s)
  else if ea % n ≠ 0 then (.fault ⟨4, 0, a, ix⟩, s)
  else
    match s.find (s.streamWho u) { w := wr } ea.toNat n with
    | (.trap c b x, s) => (.fault ⟨c, b, BitVec.ofNat 48 x, ix⟩, s)
    | (.parts ps, s) => if s.bankHeld ps (some (s.cid, s.cur)) then (.wait, s) else (.at_ ea.toNat ps, s)
    | (_, s) => (.wait, s)

/-- An element of a coordinate unit, as `cld` or `cst` finds it (R162, Table 6.6). -/
def State.coordPlace (s : State) (u : Nat) (r : StreamRec) (wr : Bool) : ElemAt × State :=
  let c := r.coordinate
  let v := s.th.vol r.cslot
  let here := c.setWidth 48
  if r.outside then (.fault ⟨9, 2, here, false⟩, s)
  else if !volOn v then (.fault ⟨1, 7, here, false⟩, s)
  else if wr && volRo v then (.fault ⟨5, 0, here, false⟩, s)
  else
    let elem := fun (e : Nat) =>
      if e = 0 then (.value (volBg v % 2 ^ (8 * 2 ^ volEsz v)), s)
      else s.elemLocate u ((elemAddr v e c).toNat : Int) (2 ^ volEsz v) wr false
    match (s.th.unit u).got.find? (fun g => g.for true (walkKey v c.toNat wr)) with
    | some ⟨_, _, .fault a b ti⟩ => (.fault ⟨a, b, (ti.map (·.setWidth 48)).getD here, false⟩, s)
    | some ⟨_, _, .entry e⟩ => elem e.toNat
    | _ =>
      match s.clabHit s.th.ctx v (tileKey c.toNat) with
      | some e => elem e.toNat
      | none => (.wait, s.request s.cid (volRequest s.th.ctx s.cur (!s.th.mode) v r.cslot c wr wr (.stream s.cur u)))

/-- A read of an element's parts, or check 7 of Table 5.3. -/
def State.readElem (s : State) (ea : Nat) (ps : List Part) (ix : Bool) : Except ElemFault Nat :=
  if (s.badPart ps).isSome then .error ⟨7, 0, BitVec.ofNat 48 (failAddr s ea ps), ix⟩ else .ok (s.readParts ps)

/-- The place of the element at which a record of unit u stands (R160 to R162); an indirect unit reads its index. -/
def State.elemPlace (s : State) (u : Nat) (r : StreamRec) (wr : Bool) : ElemAt × State :=
  let n := 2 ^ r.esz.toNat
  if r.kind.toNat = 6 then s.coordPlace u r wr
  else if r.kind.toNat = 2 then
    match s.elemLocate u r.affineAddr r.indexBytes false true with
    | (.at_ ea ps, s) =>
      match s.readElem ea ps true with
      | .error f => (.fault f, s.badReadParts ps)
      | .ok x => (s.meterParts ps).elemLocate u (r.dataAddr x : Int) n wr false
    | o => o
  else if r.kind.toNat = 3 then s.elemLocate u ((r.addr.toNat + 8 * r.idx 0 : Nat) : Int) 8 wr false
  else s.elemLocate u r.affineAddr n wr false

/-! ## Reading ahead (R177, R178, R161, R364) -/

/-- The first entry that has not issued waits for element n of a unit (R183). -/
def markWaited (u : Nat) (x : StreamUnit) : List FEntry → List FEntry
  | [] => []
  | e :: r =>
    match e.st with
    | .waiting =>
      if e.pops.elem u && decide ((x.cfg.rcnt.toNat + x.taken) / (x.cfg.rpt.toNat + 1) = x.fetched.length) then { e with waited := u :: e.waited } :: r
      else e :: r
    | _ => e :: markWaited u x r

/-- An element joins those fetched; what walks gave has been used. -/
def State.fetchedElem (s : State) (u : Nat) (e : Elem) : State :=
  s.modTh fun t => { (t.modUnit u fun x => { x with fetched := x.fetched ++ [e], got := [] }) with fq := markWaited u (t.unit u) t.fq }

/-- The element behind those fetched: whether it has come, or its fault (R175, R178). A ring word is fetched when it is full, and
no further than once round (R161). A fault recorded for it stands (Table 6.7). -/
def State.fetchOne (s : State) (u : Nat) : Bool × State :=
  let x := s.th.unit u
  let r := elemsOn x.fetched.length x.cfg
  let ring := decide (r.kind.toNat = 3)
  let faulted := match x.fetched.getLast? with
    | some e => e.fault.isSome
    | none => false
  if faulted || (!ring && (x.cfg.done || r.done)) || (ring && decide (x.cfg.bound 0 < x.fetched.length)) then (false, s)
  else
    match x.faulted.bind fun p => if p.1 = r.position then some p.2 else none with
    | some f => (true, s.fetchedElem u { val := 0, fault := some f })
    | none =>
    match s.elemPlace u r false with
    | (.wait, s) => (false, s)
    | (.value v, s) => (true, s.fetchedElem u { val := BitVec.ofNat 64 v })
    | (.fault f, s) => (true, s.fetchedElem u { val := 0, fault := some f })
    | (.at_ ea ps, s) =>
      let loc := (ps.head?.map (·.loc)).getD 0
      if ring && !s.isFull loc then (false, s)
      else
        match s.readElem ea ps false with
        | .error f => (true, s.fetchedElem u { val := 0, fault := some f })
        | .ok v =>
          let s := (s.meterParts ps).fetchedElem u { val := BitVec.ofNat 64 v, loc := loc, gen := s.takes loc }
          (true, if ring then s.ringPoint else s)

/-- What a pass of `next_out` sees of a leg. -/
inductive LegAt where
  | ended
  | next (v : Nat)
  | fault (f : ElemFault)
  | wait
deriving DecidableEq, Repr

/-- The next element of a leg that no pass has consumed (R163). -/
def StreamUnit.legAt (x : StreamUnit) : LegAt :=
  if x.cfg.done || (elemsOn x.consumed x.cfg).done then .ended
  else
    match x.fetched[x.consumed]? with
    | none => .wait
    | some e =>
      match e.fault with
      | some f => .fault f
      | none => if e.val.toNat = 2 ^ (8 * 2 ^ x.cfg.esz.toNat) - 1 then .ended else .next e.val.toNat

/-- The output elements of a unit end with one of these. -/
def StreamUnit.outEnded (x : StreamUnit) : Bool :=
  x.cfg.done || (match x.fetched.getLast? with
    | some e => e.fault.isSome || x.cfg.cnt || e.val == BitVec.allOnes 64
    | none => false)

/-- Leg elements consumed behind the last output element. -/
def Thread.legPending (t : Thread) (u : Nat) (second : Bool) : Nat :=
  let x := t.unit u
  let leg := if second then x.cfg.legB else x.cfg.legA
  (t.unit leg).consumed - x.fetched.foldl (fun a e => a + if second then e.legB else e.legA) 0

/-- One output element, with the leg elements that went into it. -/
def State.outElem (s : State) (u : Nat) (v : Nat) (f : Option ElemFault) : State :=
  let t := s.th
  s.fetchedElem u { val := BitVec.ofNat 64 v, fault := f, legA := t.legPending u false, legB := t.legPending u true }

/-- One pass through the loop of `next_out` (R163, R364): whether it was made. -/
def State.passOne (s : State) (u : Nat) : Bool × State :=
  let t := s.th
  let x := t.unit u
  let take := fun (s : State) (l : Nat) => s.modTh fun t => t.modUnit l fun y => { y with consumed := y.consumed + 1 }
  let emit := fun (s : State) (v : Nat) => if x.cfg.cnt then s.modTh fun t => t.modUnit u fun y => { y with counted := y.counted + 1 } else s.outElem u v none
  let last := s.outElem u (if x.cfg.cnt then x.counted else 2 ^ 64 - 1) none
  let union := decide (x.cfg.kind.toNat = 5)
  if x.outEnded then (false, s)
  else
    match (t.unit x.cfg.legA).legAt, (t.unit x.cfg.legB).legAt with
    | .wait, _ | _, .wait => (false, s)
    | .fault f, _ | _, .fault f => (true, s.outElem u 0 (some { f with ix := true }))
    | .ended, .ended => (true, last)
    | .ended, .next y => (true, if union then emit (take s x.cfg.legB) y else last)
    | .next a, .ended => (true, if union then emit (take s x.cfg.legA) a else last)
    | .next a, .next y =>
      if a = y then (true, emit (take (take s x.cfg.legA) x.cfg.legB) a)
      else if a < y then
        let s := take s x.cfg.legA
        (true, if union then emit s a else s)
      else
        let s := take s x.cfg.legB
        (true, if union then emit s y else s)

/-- The unit reads ahead now: it is started, outside handlers, in a slot that runs (R181, R20). -/
def State.reads (s : State) (u : Nat) (k : StreamRec → Bool) : Bool :=
  let x := s.th.unit u
  s.th.status != .empty && s.th.status != .halted && x.live && x.cfg.go && x.cfg.dir == 0 && k x.cfg

/-- STREAM_READ (R178): at most 16 elements ahead of what has been committed, or of what passes have consumed (R177). -/
def execStreamRead (slot unit : BitVec 2) (s : State) : Out :=
  let s := s.withSlot (slotOf slot)
  let x := s.th.unit unit.toNat
  if unit ≠ 3 ∧ s.reads unit.toNat (fun r => r.kind == 1 || r.kind == 2 || r.kind == 6) ∧ x.fetched.length - x.consumed < 16
  then .next (s.fetchOne unit.toNat).2 else .next s

/-- RING_FETCH (R161). -/
def execRingFetch (slot unit : BitVec 2) (s : State) : Out :=
  let s := s.withSlot (slotOf slot)
  if unit ≠ 3 ∧ s.reads unit.toNat (fun r => r.kind == 3) ∧ (s.th.unit unit.toNat).fetched.length < 16
  then .next (s.fetchOne unit.toNat).2 else .next s

/-- SET_OP_PASS (R364). -/
def execSetOpPass (slot unit : BitVec 2) (s : State) : Out :=
  let s := s.withSlot (slotOf slot)
  if unit ≠ 3 ∧ s.reads unit.toNat (fun r => r.kind == 4 || r.kind == 5) ∧ (s.th.unit unit.toNat).fetched.length < 16
  then .next (s.passOne unit.toNat).2 else .next s

/-! ## Configuration (R166 to R171) -/

/-- A configuration instruction: a named unit that is started raises the stream-state trap (R166). -/
def State.configure (s : State) (us : List (BitVec 2)) (regs : List Reg) (f : State → Option (Thread → Thread)) : Out :=
  s.issue regs fun s =>
    if us.any fun u => (s.th.unit u.toNat).cfg.go then s.illegal 8
    else
      match f s with
      | some g => (s.modTh g).advance
      | none => s.illegal 8

/-- The unit's record is set; nothing of it is fetched. -/
def Thread.setCfg (t : Thread) (u : BitVec 2) (f : StreamRec → StreamRec) : Thread := t.modUnit u.toNat fun x => { x with cfg := f x.cfg }

/-- `sbind` (R167). -/
def execSbind (o : SbindO) (s : State) : Out :=
  s.configure [o.u] [o.a] fun s => some fun t => t.setUnit o.u.toNat
    { cfg := { addr := (s.g o.a).setWidth 48, kind := o.kind.setWidth 3, dir := o.dir, esz := o.esz, dims := o.dims } }

/-- `sdim` (R168). -/
def StreamRec.setDim (r : StreamRec) (k : Nat) (bound : BitVec 16) (stride : BitVec 32) : StreamRec :=
  let r := if k = 0 then { r with bound0 := bound } else if k = 1 then { r with bound1 := bound }
    else if k = 2 then { r with bound2 := bound } else { r with bound3 := bound }
  { r with aux := BitVec.ofNat 128 (r.aux.toNat - bits r.aux.toNat (32 * k) 32 * 2 ^ (32 * k) + stride.toNat * 2 ^ (32 * k)) }
def dimOk (r : StreamRec) (k : BitVec 2) : Bool := r.kind == 1 || r.kind == 3 || (r.kind == 2 && decide (k.toNat < 2))
def State.sdim (u k : BitVec 2) (bound : BitVec 16) (stride : BitVec 32) (s : State) : Option (Thread → Thread) :=
  if dimOk (s.th.unit u.toNat).cfg k then some fun t => t.setCfg u fun r => r.setDim k.toNat bound stride else none

/-- `sdim`, register form (R168). -/
def execSdim (o : SdimR) (s : State) : Out :=
  s.configure [o.u] [o.a, o.b] fun s => s.sdim o.u o.k ((s.g o.a).setWidth 16 - 1) ((s.g o.b).setWidth 32)
/-- `sdim`, immediate form (R168). -/
def execSdimL3 (o : SdimW) (s : State) : Out :=
  s.configure [o.u] [] fun s => s.sdim o.u o.k o.cnt (o.stride.signExtend 32)

/-- `sidx` (R169). -/
def State.sidx (u : BitVec 2) (base : Word) (ish : BitVec 3) (isz : BitVec 1) (s : State) : Option (Thread → Thread) :=
  let r := (s.th.unit u.toNat).cfg
  if r.kind = 2 then
    let aux := bits r.aux.toNat 0 64 + 2 ^ 64 * bits base.toNat 0 48 + 2 ^ 112 * ish.toNat + 2 ^ 115 * isz.toNat
    some fun t => t.setCfg u fun r => { r with aux := BitVec.ofNat 128 aux }
  else none

/-- `sidx` (R169). -/
def execSidx (o : SidxR) (s : State) : Out := s.configure [o.u] [o.a] fun s => s.sidx o.u (s.g o.a) o.ish o.isz
/-- `sidx` with an offset (R169). -/
def execSidxL3 (o : SidxW) (s : State) : Out := s.configure [o.u] [o.a] fun s => s.sidx o.u (s.g o.a + sext64 o.imm) o.ish o.isz

/-- `sdir` (R169). -/
def execSdir (o : SdirO) (s : State) : Out :=
  s.configure [o.u] [] fun s =>
    let k := (s.th.unit o.u.toNat).cfg.kind.toNat
    if k = 1 ∨ k = 2 ∨ k = 3 ∨ k = 6 then some fun t => t.setCfg o.u fun r => { r with dir := o.dir, rpt := o.rpt } else none

/-- A unit that may be a leg (R170). -/
def StreamRec.legOk (r : StreamRec) : Bool := r.kind == 1 && r.dir == 0 && decide (2 ≤ r.esz.toNat) && r.rpt == 0

/-- `sisect` and `sunion` (R170). -/
def State.setOp (s : State) (o : SetO) (kind : BitVec 3) : Out :=
  s.configure [o.u, o.la, o.lb] [] fun s =>
    if (s.th.unit o.la.toNat).cfg.legOk && (s.th.unit o.lb.toNat).cfg.legOk then
      some fun t =>
        let t := t.modUnit o.u.toNat fun x => { x with
          cfg := { x.cfg with
            kind := kind
            dir := 0
            esz := 3
            done := false
            rcnt := 0
            idx0 := 0
            idx1 := 0
            idx2 := 0
            idx3 := 0
            aux := BitVec.ofNat 128 (o.la.toNat + 4 * o.lb.toNat + 16 * o.cnt.toNat) }
          fetched := []
          faulted := none
          taken := 0
          outCount := 0
          counted := 0
          got := [] }
        (t.setCfg o.la fun r => { r with leg := true }).setCfg o.lb fun r => { r with leg := true }
    else none

/-- `sisect` (R170). -/
def execSisect (o : SetO) (s : State) : Out := s.setOp o 4
/-- `sunion` (R170). -/
def execSunion (o : SetO) (s : State) : Out := s.setOp o 5

/-- `scoord` (R171). -/
def execScoord (o : ScoordO) (s : State) : Out :=
  s.configure [o.u] [o.a, o.b] fun s =>
    let org := bits (s.g o.a).toNat 0 63
    let box := (s.g o.b).toNat
    some fun t => t.setCfg o.u fun r =>
      { r with
        kind := 6
        dims := 2
        dir := o.dir
        rpt := 0
        rcnt := 0
        idx0 := 0
        idx1 := 0
        idx2 := 0
        idx3 := 0
        done := false
        leg := false
        aux := BitVec.ofNat 128 (org + 2 ^ 64 * o.cs.toNat)
        bound0 := BitVec.ofNat 16 (bits box 0 16)
        bound1 := BitVec.ofNat 16 (bits box 16 16)
        bound2 := BitVec.ofNat 16 (bits box 32 16) }

/-! ## Control (R172, R173) -/

/-- No dispatched instruction still pops from or pushes to a unit; the legs of an output unit count with it (R172). -/
def Thread.unitQuiet (t : Thread) (u : Nat) : Bool :=
  let out := fun n => let r := (t.unit n).cfg; (r.kind.toNat == 4 || r.kind.toNat == 5) && (r.legA == u || r.legB == u)
  !t.fq.any fun e => e.pops.any (fun n => n == u || out n) || e.pushes == some u

/-- What R172 has an instruction wait for. -/
def State.quiet (s : State) (us : List Nat) (k : State → State) : State :=
  if s.th.rep.act || us.any fun u => !s.th.unitQuiet u then s.stall else k s

def unitsOf (m : BitVec 3) : List Nat := [0, 1, 2].filter fun u => m.getLsbD u

/-- The thread is in a trap handler or a light handler (R181). -/
def Thread.inHandler (t : Thread) : Bool := t.held.isSome || t.lh

def isOutput (r : StreamRec) : Bool := r.kind.toNat == 4 || r.kind.toNat == 5

/-- A unit starts at its position, its legs with it (R173). -/
def Thread.startUnit (t : Thread) (u : Nat) : Thread :=
  let start := fun (t : Thread) (n : Nat) => t.modUnit n fun x =>
    { x with fetched := [], faulted := none, taken := 0, consumed := 0, counted := 0, got := [], live := !t.inHandler
             cfg := { x.cfg with go := true, en := !x.cfg.leg
                                 esz := if x.cfg.kind.toNat = 6 then BitVec.ofNat 2 (volEsz (t.vol x.cfg.cslot)) else x.cfg.esz } }
  let r := (t.unit u).cfg
  let t := start t u
  if isOutput r then start (start t r.legA) r.legB else t

/-- The subcode with which a unit fails the checks of `sgo`, or 0 (Table 6.5); the legs are those that its record names (log 97). -/
def Thread.startFails (t : Thread) (u : Nat) : Nat :=
  let r := (t.unit u).cfg
  if r.kind.toNat = 0 ∨ r.leg then 8
  else if isOutput r ∧ !((t.unit r.legA).cfg.leg && (t.unit r.legB).cfg.leg) then 8
  else if r.kind.toNat = 6 ∧ !volOn (t.vol r.cslot) then 8
  else if r.kind.toNat = 3 ∧ !isFeAddr r.addr.toNat then 7
  else 0

/-- The units of the mask in ascending order; the first that fails traps (Table 6.5). -/
def State.startUnits : List Nat → State → State
  | [], s => s.advance
  | u :: r, s =>
    if (s.th.unit u).cfg.go then State.startUnits r s
    else
      let f := s.th.startFails u
      if f = 8 then s.illegal 8
      else if f = 7 then
        let x := (s.th.unit u).cfg
        s.trapAt 1 7 (tinfoMem x.addr.toNat (if x.dir = 1 then .store else .load) 3)
      else State.startUnits r (s.modTh (·.startUnit u))

/-- `sgo` (R173). -/
def execSgo (o : Units) (s : State) : Out := s.issue [] (State.startUnits (unitsOf o.m))

/-- A unit stops; what it fetched is dropped (R173). -/
def StreamUnit.stop (x : StreamUnit) : StreamUnit :=
  { x with cfg := { x.cfg with go := false, en := false }, fetched := [], faulted := none, taken := 0, consumed := 0, counted := 0, got := [], live := false }

/-- The units of a mask stop, with the legs of output units. -/
def Thread.stopUnits (t : Thread) (us : List Nat) : Thread :=
  us.foldl (fun t u =>
    let r := (t.unit u).cfg
    let t := t.modUnit u StreamUnit.stop
    if isOutput r then (t.modUnit r.legA StreamUnit.stop).modUnit r.legB StreamUnit.stop else t) t

def State.stopUnits (s : State) (us : List Nat) : State :=
  let t := s.th.stopUnits us
  (s.setTh t).count 0x18 (s.th.readCount - t.readCount)

/-- `sstop` (R173). -/
def execSstop (o : Units) (s : State) : Out := s.issue [] fun s => s.quiet (unitsOf o.m) fun s => (s.stopUnits (unitsOf o.m)).advance

/-- `TINFO` of a stream element fault (Table 6.6). -/
def elemTinfo (u : Nat) (wr : Bool) (seq : Nat) (f : ElemFault) : Word :=
  BitVec.ofNat 64 (f.addr.toNat + 2 ^ 48 * u + 2 ^ 50 * wr.toNat + 2 ^ 51 * f.ix.toNat + 2 ^ 52 * seq + 2 ^ 63)

/-- `sskip` of an output unit, or of a read ring, one element at a time: `left` are still to skip (Table 6.5). It ends, traps,
parks on a ring word, or stalls until more is at hand; what an output unit has taken is given back if it traps or is interrupted. -/
def State.skipFuel (u : Nat) : Nat → Nat → State → State
  | 0, left, s => (s.modTh fun t => { t with skipLeft := some left }).stall
  | n + 1, left, s =>
    let x := s.th.unit u
    let fin := fun (s : State) => (s.modTh fun t =>
      let drop := fun (t : Thread) (l : Nat) => if (t.unit l).live then t else t.modUnit l fun y => { y with fetched := [], faulted := none, consumed := 0, counted := 0, got := [] }
      { (drop (drop (drop t x.cfg.legA) x.cfg.legB) u) with skipLeft := none, skipFrom := none }).advance
    if left = 0 ∨ (isOutput x.cfg ∧ x.cfg.done) then fin s
    else
      match x.fetched with
      | e :: _ =>
        match e.fault with
        | some f => s.trapAt f.cause f.sub (elemTinfo u false 0 f)
        | none =>
          if x.cfg.kind.toNat = 3 ∧ s.stale e = true then State.skipFuel u n left (s.modTh fun t => t.modUnit u fun y => { y with fetched := [] })
          else
          let s := s.modTh fun t => t.modUnit u fun y => { y with cfg := { y.cfg with rcnt := y.cfg.rpt } }
          State.skipFuel u n (left - 1) (s.commitPop u)
      | [] =>
        if isOutput x.cfg then
          match s.passOne u with
          | (true, s) => State.skipFuel u n left s
          | (false, s) =>
            let need := fun (s : State) (l : Nat) => match (s.th.unit l).legAt with
              | .wait => s.fetchOne l
              | _ => (false, s)
            match need s x.cfg.legA with
            | (true, s) => State.skipFuel u n left s
            | (false, s) =>
              let (more, s) := need s x.cfg.legB
              if more then State.skipFuel u n left s else (s.modTh fun t => { t with skipLeft := some left }).stall
        else
          match s.fetchOne u with
          | (true, s) => State.skipFuel u n left s
          | (false, s) =>
            let s := s.modTh fun t => { t with skipLeft := some left }
            match s.elemPlace u x.cfg false with
            | (.at_ ea ps, s) =>
              let word := (ps.head?.map (·.loc)).getD 0
              if s.remoteFull word then s.parkOn (.ring word)
              else ({ s with feWait := s.feWait ++ [(⟨word, s.cid, s.cur, 3, BitVec.ofNat 6 u, 0, BitVec.ofNat 48 ea, true⟩ : FeWaiter)] }).parkOn (.ring word)
            | (_, s) => s.stall

/-- `sskip` (R173). -/
def execSskip (o : UnitG) (s : State) : Out :=
  s.issue [o.a] fun s =>
    let u := o.u.toNat
    let r := (s.th.unit u).cfg
    s.quiet [u] fun s =>
      let n := (s.g o.a).toNat
      if r.dir = 1 ∨ r.leg ∨ r.kind.toNat = 0 then s.illegal 8
      else if isOutput r ∨ r.kind.toNat = 3 then
        let s := if isOutput r then s.modTh fun t => { t with skipFrom := some (t.skipFrom.getD t.units) } else s
        State.skipFuel u 64 (s.th.skipLeft.getD n) s
      else
        (s.modTh fun t => if n = 0 ∨ r.done then t else t.modUnit u fun x =>
          { x with cfg := x.cfg.setPosition (x.cfg.position + n), fetched := x.fetched.drop n }).advance

/-- `spos` (R173). -/
def execSpos (o : UnitG) (s : State) : Out :=
  s.issue [o.a] fun s =>
    let u := o.u.toNat
    let r := (s.th.unit u).cfg
    s.quiet [u] fun s =>
      if r.leg ∨ r.kind.toNat = 0 ∨ isOutput r then s.illegal 8
      else
      let q := (s.g o.a).toNat
      let t := s.th.modUnit u fun x => { x with
        fetched := [], faulted := none, got := []
        cfg := if r.kind.toNat = 3 then { x.cfg with idx0 := BitVec.ofNat 16 (q % (x.cfg.bound 0 + 1)) } else x.cfg.setPosition q }
      ((s.setTh t).count 0x18 (s.th.readCount - t.readCount)).advance

/-- The record as software sees it: EN says that the register is bound (Table 6.1, R181). -/
def StreamUnit.record (x : StreamUnit) : StreamRec := { x.cfg with en := x.cfg.en && x.live }

/-- The position that `sstat` gives (R173). -/
def StreamUnit.statPos (x : StreamUnit) : Nat :=
  if x.cfg.kind.toNat = 3 then x.cfg.idx 0 else if isOutput x.cfg then x.outCount
  else if x.cfg.done then x.cfg.total else x.cfg.position

def State.sstat (s : State) (o : UnitG) (f : StreamUnit → Nat) : Out :=
  s.issue [o.a] fun s => s.quiet [o.u.toNat] fun s => s.result o.a (BitVec.ofNat 64 (f (s.th.unit o.u.toNat)))

/-- `sstat`, position (R173). -/
def execSstatPos (o : UnitG) (s : State) : Out := s.sstat o StreamUnit.statPos
/-- `sstat`, state (R173). -/
def execSstatSt (o : UnitG) (s : State) : Out := s.sstat o fun x => bits x.record.pack 48 16

/-- `ssave` (R173, R174): five 8-byte stores, behind older `fst` entries without data as other stores are (R138). -/
def State.ssaveAt (s : State) (u : BitVec 2) (ea : Word) : State :=
  s.quiet [u.toNat] fun s =>
    if s.th.fstWaits then s.stall
    else s.access ea { len := 40, align := 8, kind := .record, wr := true, size := 3, words := true } fun s ps =>
      let v := (s.th.unit u.toNat).record.pack
      s.sbPush (ps.zipIdx.flatMap fun (p, i) => sbEntries (ea + BitVec.ofNat 64 (8 * i)) [p] (v / 2 ^ (64 * i)) false s.th.mode) State.advance
/-- `sload` (R173, R174): five 8-byte loads. -/
def State.sloadAt (s : State) (u : BitVec 2) (ea : Word) : State :=
  if (s.th.unit u.toNat).cfg.go then s.illegal 8
  else s.access ea { len := 40, align := 8, kind := .record, rd := true, size := 3, words := true } fun s ps => s.load (.record u) ea ps

/-- `ssave` (R173). -/
def execSsave (o : UnitM) (s : State) : Out := s.issue [o.base] fun s => s.ssaveAt o.u (s.eaM o.base 3 o.off)
/-- `ssave` (R173). -/
def execSsaveL2 (o : UnitX) (s : State) : Out := s.issue (regsX o.base o.ix o.body) fun s => s.ssaveAt o.u (s.eaX o.base o.ix o.body)
/-- `sload` (R173). -/
def execSload (o : UnitM) (s : State) : Out := s.issue [o.base] fun s => s.sloadAt o.u (s.eaM o.base 3 o.off)
/-- `sload` (R173). -/
def execSloadL2 (o : UnitX) (s : State) : Out := s.issue (regsX o.base o.ix o.body) fun s => s.sloadAt o.u (s.eaX o.base o.ix o.body)

end Sys2Proof.Machine
end

