-- ==== Sys2Proof/Machine/FPipe.lean ====
section
/-! DEFINITION. The F pipe: the issue of the queue head (R22, R27, R28, R156, R175, R179), the special-function unit (R30),
commit (R215), and the repetition buffer (R125 to R127, R497). -/
namespace Sys2Proof.Machine

def FState.isWaiting : FState → Bool
  | .waiting => true
  | _ => false
def FState.isDone : FState → Bool
  | .done _ => true
  | _ => false

/-- Entries that have issued, and those that have not. -/
def splitIssued : List FEntry → List FEntry × List FEntry
  | [] => ([], [])
  | e :: r => if e.st.isWaiting then ([], e :: r) else let (a, b) := splitIssued r; (e :: a, b)

/-- The oldest entry that has not issued, issued (R22). -/
def issueFirst (st : FState) : List FEntry → List FEntry
  | [] => []
  | e :: r => if e.st.isWaiting then { e with st := st } :: r else e :: issueFirst st r
def Thread.issued (t : Thread) (st : FState) : Thread := { t with fq := issueFirst st t.fq }

/-- A trap of the slot must wait: data of a load or atomic that left the cluster, or its walk, is on the way (Table 8.5
step 1). -/
def Thread.mustReturn (t : Thread) : Bool :=
  t.status == .missWait && (t.midLoad || (match t.miss with
    | .data .. => true
    | _ => false))

/-- An F-side trap at an entry (R217). Every older instruction commits first; one whose ring word another consumer has taken does not, and
waits for the word again (R161). -/
def State.fTrap (s : State) (e : FEntry) (cause sub : BitVec 8) (tinfo : Word) : State :=
  if s.th.mustReturn then s
  else
    match s.commitIssued 32 with
    | (s', none) =>
      if (s'.th.fq.head?.map (·.st.isWaiting)) == some false then s'.unissue
      else s.takeTrap { cause := cause, sub := sub, tinfo := tinfo, fside := true, tpc := e.pc }
    | (_, some _) => s.takeTrap { cause := cause, sub := sub, tinfo := tinfo, fside := true, tpc := e.pc }

/-! ## Operands -/

/-- What a pop would take. -/
inductive Pop where
  | val (v : Word)
  | fault (f : ElemFault)
  | over
  | wait
deriving DecidableEq, Repr

/-- The element that the next pop of a unit takes (R156, R159, R175). -/
def StreamUnit.peek (x : StreamUnit) : Pop :=
  let j := (x.cfg.rcnt.toNat + x.taken) / (x.cfg.rpt.toNat + 1)
  let ended := if isOutput x.cfg then x.cfg.done || (x.fetched.take j).any (fun e => x.cfg.cnt || e.val == BitVec.allOnes 64)
    else x.cfg.done || (elemsOn j x.cfg).done
  if ended && x.cfg.kind.toNat != 3 then .over
  else
    match x.fetched[j]? with
    | none => .wait
    | some e =>
      match e.fault with
      | some f => .fault f
      | none => .val e.val

/-- A `v` register that an older entry has yet to give (R22, R30). -/
def pendingV (older : List FEntry) (n : Nat) : Bool :=
  older.any fun e => e.raw.dest == some n && e.pushes.isNone && !e.st.isDone

/-- A source register is ordinary for an entry. -/
def FEntry.ordinary (e : FEntry) (n : Nat) : Bool := decide (n < 48) && !(decide (n < 3) && e.bound.getLsbD n)

/-- The word at a port that the next dequeue takes (R260, R261). -/
def Port.head (p : Port) : Option QWord := p.words[p.taken]?

/-- Pushes that a port can accept now (R261): words in the neighbour's queue, in flight, and of entries not yet committed. -/
def State.portSpace (s : State) (p : Nat) : Nat :=
  let t := s.th
  let (x, y) := s.neighbour t p
  match s.placeOf t.ctx x y with
  | .core c =>
    let there := ((s.coreAt c).port s.cur (opposite p).val).words.length
    let fly := s.qFly.countP fun q => q.dest == c && q.slot == s.cur && q.port == opposite p
    8 - (there + fly + t.fq.countP fun e => e.portOut == some p && !e.st.isWaiting)
  | _ => 0

/-- A source that is not there yet: a pending register, an empty port, a port with a control value outside a light handler
(R22, R263). -/
def State.sourcesWait (s : State) (older : List FEntry) (e : FEntry) : Bool :=
  e.raw.sources.any fun n =>
    if 48 ≤ n then (match (s.core.port s.cur (n - 48)).head with
      | none => true
      | some w => w.ctl && !s.th.lh)
    else e.ordinary n && pendingV older n

/-- The value of a source. -/
def State.source (s : State) (older : List FEntry) (e : FEntry) (n : Nat) : Nat :=
  if 48 ≤ n then ((s.core.port s.cur (n - 48)).head.map (·.data.toNat)).getD 0
  else if e.ordinary n then (s.th.forwarded older n).toNat
  else match (s.th.unit n).peek with
    | .val v => v.toNat
    | _ => 0

/-- The value in position p. -/
def State.operand (s : State) (older : List FEntry) (e : FEntry) (p : Nat) : Nat :=
  match e.raw.positions.find? (·.1 = p) with
  | some (_, n) => s.source older e n
  | none => 0

/-! ## Bank reads and latches (R27, R28) -/

/-- Registers that need a bank read: each once, none from a latch, a stream or a port; `fst` reads its data through no latch. -/
def Thread.bankReads (t : Thread) (e : FEntry) : List Nat :=
  dedup ((e.raw.positions.filter fun p => e.ordinary p.2
    && (e.raw.op == 0x49 || ((t.latch[p.1 % 3]'(Nat.mod_lt _ (by decide))).map (·.toNat)) != some p.2)).map (·.2))

/-- The extra cycles of an issue (R27). -/
def Thread.bankExtra (t : Thread) (e : FEntry) : Nat :=
  ([0, 1, 2, 3, 4, 5].foldl (fun m b => Nat.max m ((t.bankReads e).countP fun n => n % 6 == b)) 0) - 1

/-- The latches after an issue (R28). -/
def Thread.latches (t : Thread) (e : FEntry) : Thread :=
  let keep := fun (p : Nat) => (e.raw.positions.find? fun q => q.1 == p && e.raw.op != 0x49 && e.raw.hold.getLsbD p && e.ordinary q.2).map (·.2)
  let t := { t with latch := Vector.ofFn fun i : Fin 3 => (keep i.val).map (BitVec.ofNat 6) }
  match e.raw.dest, e.pushes with
  | some n, none => t.dropHolds n
  | _, _ => t

/-! ## Issue -/

/-- Bytes of the data of an `fst` placed in its entries, lowest address first. -/
def fillFst (ring : BitVec 5) : List SbEntry → Nat → List SbEntry
  | [], _ => []
  | b :: r, v =>
    if b.owner = .fst ring ∧ b.committed = false then
      let lo := ((List.range 8).find? fun i => b.mask.getLsbD i).getD 0
      let n := (List.range 8).countP fun i => b.mask.getLsbD i
      { b with data := BitVec.ofNat 64 (v % 2 ^ (8 * n) * 2 ^ (8 * lo)), have_ := true } :: fillFst ring r (v / 2 ^ (8 * n))
    else b :: fillFst ring r v

/-- The F side of the slot in focus as an accessor: its walks are its own. -/
def State.fsideWho (s : State) : Who := { s.me with req := .fside s.cur, got := s.th.fGot }

/-- The store-buffer entries of an `fst` get its data; one that issues again has none yet and takes new ones (R138);
if its address fails by then, it traps (log 96). -/
def State.fstData (s : State) (e : FEntry) (v : Nat) (k : State → State) : State :=
  let n := 2 ^ (e.raw.m8.toNat % 4)
  if s.th.sb.any fun b => b.owner == .fst e.ring && !b.committed then k (s.modTh fun t => { t with sb := fillFst e.ring t.sb v })
  else
    match s.find s.fsideWho { w := true } e.x.toNat n with
    | (.parts ps, s) =>
      let es := (sbEntries e.x ps v false s.th.mode).map fun b => { b with committed := false, owner := .fst e.ring }
      if 8 < s.th.sb.length + es.length then s else k (s.modTh fun t => { t with sb := t.sb ++ es, fGot := [] })
    | (.trap c b x, s) => s.fTrap e c b (tinfoMem x .store (sizeCode n))
    | (_, s) => s

/-- Energy of an issue (Table 16.11). -/
def fEnergy (op : Nat) : Nat := if op = 0x73 ∨ op = 0x83 ∨ op = 0x86 then 4 else 2

/-- The pops and dequeues of an entry are taken (R156, R187). -/
def State.takePops (s : State) (e : FEntry) : State :=
  let s := s.modTh fun t => e.pops.foldl (fun t u => t.modUnit u fun x => { x with taken := x.taken + 1 }) t
  e.portsIn.foldl (fun s p => s.modCore fun c => c.modPort s.cur p fun q => { q with taken := q.taken + 1 }) s

/-- An entry issues: operands, pops and the result; the result is written at commit (R215). An element of a coordinate unit is an acquire
toward what later instructions pop (R348, R178). -/
def State.issueEntry (s : State) (older : List FEntry) (e : FEntry) (push : Option (Nat × Nat × List Part × Bool)) : State :=
  let op := fun p => s.operand older e p
  let r := computeF (s.th.fEnv older) e.raw (op 0) (op 1) (op 2) e.x.toNat
  let go := fun (s : State) =>
    let extra := s.th.bankExtra e
    let s := (s.takePops e).modTh fun t => t.latches e
    let s := if (e.pops ++ e.pushes.toList).any fun u => (s.th.unit u).cfg.kind.toNat == 6 then s.ringPoint else s
    let s := ((s.count 4 extra).meter (fEnergy e.raw.op.toNat)).modCore fun c => { c with fPtr := s.cur + 1 }
    let s := match push with
      | some (u, ea, ps, ring) => s.modTh fun t =>
          let r0 := (t.unit u).cfg
          let tile := if r0.kind.toNat = 6 then some (volTile (t.vol r0.cslot) (advanceTimes (t.unit u).taken r0).coordinate) else none
          let es : List SbEntry := (sbEntries (BitVec.ofNat 64 ea) ps (r.v.getD 0).toNat ring s.th.mode tile).map fun (b : SbEntry) =>
            { b with committed := false, fill := ring, owner := SbOwner.push e.ring (BitVec.ofNat 2 u) }
          { (t.modUnit u fun x => { x with taken := x.taken + 1, got := [] }) with sb := t.sb ++ es }
      | none => s
    if e.raw.special then
      ((s.modTh fun t => t.issued (.sfuQueued r)).modCore fun c => { (c.count 0x0B (some s.cur) 1) with sfuQ := c.sfuQ ++ [(s.cur, e.ring)] }).meter 6
    else s.modTh fun t => t.issued (.done r)
  if e.raw.op = 0x49 then s.fstData e (r.v.getD 0).toNat go else go s

/-- Where the push of an entry goes: a free store-buffer entry, and for a ring a word observed empty (R161, R177). -/
inductive PushTo where
  | none
  | to (u ea : Nat) (ps : List Part) (ring : Bool)
  | fault (u : Nat) (f : ElemFault)
  | over (u : Nat)
  | wait
deriving DecidableEq, Repr

def State.pushPlace (s : State) (e : FEntry) : PushTo × State :=
  match e.pushes with
  | Option.none => (.none, s)
  | some u =>
    let x := s.th.unit u
    let r := advanceTimes x.taken x.cfg
    let ring := decide (r.kind.toNat = 3)
    if !ring && (x.cfg.done || r.done) then (.over u, s)
    else
      match s.elemPlace u r true with
      | (.fault f, s) => (.fault u f, s)
      | (.at_ ea ps, s) =>
        let loc := (ps.head?.map (·.loc)).getD 0
        if 8 ≤ s.th.sb.length || (ring && (s.isFull loc || s.th.sb.any fun b => b.fill && b.word == loc)) then (.wait, s)
        else (.to u ea ps ring, s)
      | (_, s) => (.wait, s)

/-- A stream trap with the fault of the lower unit (R175); the address of an overrun is not stated, a free value (log 9). -/
def State.elemTrap (s : State) (e : FEntry) (u : Nat) (wr : Bool) (f : Option ElemFault) : State :=
  match f with
  | some f => s.fTrap e f.cause f.sub (elemTinfo u wr e.ring.toNat f)
  | none =>
    if s.th.mustReturn then s
    else
      let (x, s) := s.free
      s.fTrap e 9 1 (elemTinfo u wr e.ring.toNat ⟨9, 1, x.setWidth 48, false⟩)

/-- The first faulted pop of an entry, by unit. -/
def Thread.popFault (t : Thread) (e : FEntry) : Option (Nat × Option ElemFault) :=
  [0, 1, 2].findSome? fun u => if e.pops.elem u then (match (t.unit u).peek with
    | .fault f => some (u, some f)
    | .over => some (u, none)
    | _ => none) else none

/-- The special-function queue takes a request of the slot (R30). -/
def Core.sfuRoom (c : Core) (slot : Fin 4) : Bool :=
  decide (c.sfuQ.length < 4) && decide ((c.sfuQ.countP fun q => q.1 == slot) < 2)

/-- The sources of an entry that are registers with bad parity. -/
def Thread.badSources (t : Thread) (older : List FEntry) (e : FEntry) : List Nat :=
  e.raw.sources.filter fun n => e.ordinary n && t.bad.elem (64 + n) && !older.any fun o => o.raw.dest == some n && o.pushes.isNone

/-- The machine check of an entry that reads a register with bad parity, or has it itself (R465, Table 8.1). -/
def State.checkEntry (s : State) (older : List FEntry) (e : FEntry) : State :=
  if s.th.mustReturn then s
  else
    let code := if s.th.badEntry then 0x7F else (s.th.badSources older e).headD 0 + 64
    s.takeTrap { cause := 0x0E, tinfo := BitVec.ofNat 64 code, fside := true, tpc := e.pc } (·.machineCheck code)

/-- The issue of the oldest entry that has not issued, when all it needs is there (R22) and the energy budget is not spent (R388). -/
def State.fIssue (s : State) : State :=
  let t := s.th
  let (older, rest) := splitIssued t.fq
  match rest with
  | [] => s
  | e :: _ =>
    let destWaits := match e.raw.dest, e.pushes with
      | some n, none => if 48 ≤ n then decide (s.portSpace (n - 48) = 0) else pendingV older n
      | _, _ => false
    if t.status = .empty ∨ t.status = .halted ∨ s.cl.spent = true ∨ s.core.lets s.cur = false then s
    else if t.badEntry || !(t.badSources older e).isEmpty then s.checkEntry older e
    else if s.sourcesWait older e || destWaits || (e.raw.special && !s.core.sfuRoom s.cur) then s
    else if e.pops.any (fun u => (t.unit u).peek == .wait) then s
    else
      match s.pushPlace e, t.popFault e with
      | (.wait, s), _ => s
      | (.fault u f, s), some (v, g) => if v < u then s.elemTrap e v false g else s.elemTrap e u true (some f)
      | (.over u, s), some (v, g) => if v < u then s.elemTrap e v false g else s.elemTrap e u true none
      | (.fault u f, s), none => s.elemTrap e u true (some f)
      | (.over u, s), none => s.elemTrap e u true none
      | (_, s), some (v, g) => s.elemTrap e v false g
      | (.none, s), none => s.issueEntry older e none
      | (.to u ea ps ring, s), none => s.issueEntry older e (some (u, ea, ps, ring))

/-- The head of the queue of a slot is ready: at its issue the entry leaves the waiting ones. -/
def State.fReady (s : State) (i : Fin 4) : Bool :=
  let s := s.withSlot i
  !(splitIssued s.th.fq).2.isEmpty && s.fIssue.th.fq != s.th.fq

/-- The slot that the F pipe issues from: the first that is ready, from the one after the slot that issued last (R22). -/
def State.fNext (s : State) : Option (Fin 4) := ([0, 1, 2, 3] : List (Fin 4)).find? fun k => s.fReady (s.core.fPtr + k)

/-- F_ISSUE (R22): a ready slot waits while one before it is ready; one that is not may ask for the walk it needs. -/
def execFIssue (slot : BitVec 2) (s : State) : Out :=
  let i := slotOf slot
  .next (if s.fReady i && s.fNext != some (i - s.core.fPtr) then s.withSlot i else (s.withSlot i).fIssue)

/-- F_COMMIT (R215): the oldest entry, completed, commits, or raises its late arithmetic trap (R95); one that has popped a ring word
that another consumer has emptied since waits for the word again (R161). -/
def execFCommit (slot : BitVec 2) (s : State) : Out :=
  let s := s.withSlot (slotOf slot)
  let t := s.th
  match t.fq with
  | e :: _ =>
    match e.st with
    | .done r =>
      if t.status = .empty ∨ t.status = .halted then .next s
      else if s.ringGone e then .next s.unissue
      else if t.flagTraps r then (if t.mustReturn then .next s else .next (s.takeTrap (arithTrap e r)))
      else .next (s.commit e r)
    | _ => .next s
  | [] => .next s

/-- SFU_SERVICE_START (R30). -/
def execSfuServiceStart (s : State) : Out :=
  match s.core.sfuQ with
  | (i, ring) :: _ =>
    .next (s.modCore fun c => c.modTh i fun t => { t with fq := t.fq.map fun e =>
      if e.ring = ring then (match e.st with
        | .sfuQueued r => { e with st := .sfuRunning r }
        | _ => e) else e })
  | [] => .next s

/-- SFU_RESULT_WRITE (R210): the result is there; the request leaves the queue. -/
def execSfuResultWrite (s : State) : Out :=
  match s.core.sfuQ with
  | (i, ring) :: _ =>
    if (s.core.th i).fq.any fun e => e.ring == ring && (match e.st with
      | .sfuRunning _ => true
      | _ => false)
    then
      .next (s.modCore fun c => { (c.modTh i fun t => { t with fq := t.fq.map fun e =>
        if e.ring = ring then (match e.st with
          | .sfuRunning r => { e with st := .done r }
          | _ => e) else e }) with sfuQ := c.sfuQ.drop 1 })
    else .next s
  | [] => .next s

/-! ## The repetition buffer (R125 to R127, R497) -/

/-- `stagger` (R125). -/
def Rep.stagger (r : Rep) (pos : Nat) (c : Reg) : Reg :=
  if !r.mask.getLsbD pos || decide (c.toNat < 3) || decide (47 < c.toNat) then c
  else c + BitVec.ofNat 6 ((r.sm1.toNat + 1) * (r.iter.toNat % (r.wm1.toNat + 1)))

/-- The renamed fields of an instance (R125): positions that the instruction uses as F fields. -/
def Rep.rename (r : Rep) (raw : FRaw) : FRaw :=
  { raw with
    d := if raw.dUse = .f then r.stagger 0 raw.d else raw.d
    a := if raw.aUse = .f then r.stagger 1 raw.a else raw.a
    b := if raw.bUse = .f then r.stagger 2 raw.b else raw.b
    c := if raw.cUse = .f then r.stagger 3 raw.c else raw.c }

/-- The fields of an F instruction's head and tail as the queue holds them: an RR tail has A, B and M4, an RRX tail all, an
immediate goes to the payload (R191). -/
def rawOf (op l d t : Nat) : FRaw × Word :=
  if op = 0x7E then
    ({ op := 0x7E, d := BitVec.ofNat 6 d }, if l = 1 then BitVec.ofNat 64 (t * 2 ^ 48) else if l = 2 then BitVec.ofNat 64 (t + 2 ^ 32 * t) else BitVec.ofNat 64 t)
  else if l = 1 then
    ({ op := BitVec.ofNat 8 op, d := BitVec.ofNat 6 d, a := fld t 0 6, b := fld t 6 6, m8 := BitVec.ofNat 8 (bits t 12 4) }, 0)
  else
    ({ op := BitVec.ofNat 8 op, d := BitVec.ofNat 6 d, a := fld t 0 6, b := fld t 6 6, c := fld t 12 6, hold := fld t 18 3, sub := fld t 21 3
       m8 := fld t 24 8 }, 0)

/-- The body instruction at a PC of a line, with what R54 and R124 find (R497), wherever the PC points in it (log 95). -/
def Rep.bodyInstr (rep : Rep) (bs : List Byte) (pc : BitVec 48) : BodyInstr :=
  let i := pc.toNat / 2 % 32 - 1
  let h := lineHead bs i
  let r := rawOf (bits h 8 8) (headL h) (bits h 0 6) (lineTail bs i)
  { raw := r.1, x := r.2, head := BitVec.ofNat 16 h, pc := pc
    bad := if !lineLegal bs then some 5
      else match parseHead bs i with
        | .error e => some e.sub
        | .ok _ => if rep.bodyOk r.1 then none else some 6 }

/-- What the fetch of a line of the body gives. -/
inductive BodyLine where
  | line (bs : List Byte)
  | fault (cause sub : BitVec 8)
  | wait
deriving DecidableEq, Repr

/-- The line at an address for the repetition buffer: its walk is a request of the slot (R393); a line in a window cannot be fetched
(R232, log 17). -/
def State.bodyLine (s : State) (la : Nat) : BodyLine × State :=
  if bits la 44 4 = 15 then (.fault 6 4, s)
  else
    match s.xlate s.fsideWho { x := true } la with
    | (.fault c b, s) => (.fault c b, s)
    | (.miss, s) => (.wait, s)
    | (.ok pa, s) =>
      match s.core.lines.find? fun l => l.addr = lineTag s.th.ctx la with
      | some l => (.line l.bytes, s)
      | none =>
        if s.badRange pa 64 then (.fault 7 0, s.badRead pa 64)
        else
          let bs := Memory.bytes s.mem pa 64
          (.line bs, (s.modCore (·.keepLine ⟨lineTag s.th.ctx la, bs⟩)).meterParts [⟨pa, 64⟩])

/-- What the fetch of the body gives: all its instructions; a fault, with those before it and the PC that it stands at. -/
inductive BodyGot where
  | all (l : List BodyInstr)
  | fault (cause sub : BitVec 8) (l : List BodyInstr) (pc : BitVec 48)
  | wait
deriving DecidableEq, Repr

/-- The n body instructions from a PC on, behind those given, fetched again (Table 4.8). -/
def State.fetchBody (rep : Rep) : Nat → BitVec 48 → List BodyInstr → State → BodyGot × State
  | 0, _, l, s => (.all l, s)
  | n + 1, pc, l, s =>
    match s.bodyLine (lineAddr pc.toNat) with
    | (.wait, s) => (.wait, s)
    | (.fault c b, s) => (.fault c b l pc, s)
    | (.line bs, s) => State.fetchBody rep n (nextPc pc (lineN bs)) (l ++ [rep.bodyInstr bs pc]) s

/-- The PC that lies n heads behind one, where the lines cannot be read: a free value says which heads are the last of their line, head 29
at the latest (log 76). -/
def State.somePc : Nat → BitVec 48 → State → BitVec 48 × State
  | 0, pc, s => (pc, s)
  | n + 1, pc, s =>
    let (x, s) := s.free
    let k := pc.toNat / 2 % 32
    State.somePc n (nextPc pc (if x.toNat % 2 = 0 ∨ 30 ≤ k then k else 31)) s

/-- The next instance is on its way (R126). -/
def Rep.next (r : Rep) : Rep :=
  if r.pos = r.blm1 then
    { r with pos := 0, iter := r.iter + 1, act := decide (r.iter.toNat + 1 < r.count.toNat) }
  else { r with pos := r.pos + 1 }

/-- A failure of an instance (R497): once everything dispatched before it has committed, an F-side trap at it; one that is not a
fetch fault cancels the repetition. -/
def State.repTrap (s : State) (cause sub : BitVec 8) (tinfo : Word) (pc : BitVec 48) (cancel : Bool) : State :=
  if !s.th.fq.isEmpty || s.th.mustReturn then s
  else s.takeTrap { cause := cause, sub := sub, tinfo := tinfo, fside := true, tpc := pc } fun s =>
    if cancel then s.modTh fun t => { t with rep := { t.rep with act := false } } else s

/-- The next instance is checked under R54, R124, R157, R207 and R260 and dispatched, or traps (R126, R497). -/
def State.replay (s : State) (b : BodyInstr) : State :=
  let raw := s.th.rep.rename b.raw
  match b.bad.orElse fun _ => s.dispatchFails raw with
  | some c => s.repTrap 1 c (b.head.setWidth 64) b.pc true
  | none => s.modTh fun t => { (t.push raw b.x b.pc) with rep := t.rep.next }

/-- The body is fetched again, once, after a return (Table 4.8). A fault traps at the instance that could not be dispatched, once everything
before it has committed (R497); its PC is that of the body as captured, where this is known. -/
def State.refetch (s : State) : State :=
  let rep := s.th.rep
  match State.fetchBody rep (rep.blm1.toNat + 1) rep.bodyPc [] s with
  | (.all l, s) => s.modTh fun t => { t with body := l, fGot := [] }
  | (.wait, s) => s
  | (.fault c b l pc, s) =>
    if !s.th.fq.isEmpty || s.th.mustReturn then s
    else
      let (at_, s) := match (l.map (·.pc))[rep.pos.toNat]?.orElse fun _ => s.th.bodyAt[rep.pos.toNat]? with
        | some at_ => (at_, s)
        | none => s.somePc (rep.pos.toNat - l.length) pc
      let (ti, s) := s.fetchTinfo pc.toNat
      s.repTrap c b ti at_ false

/-- REP_REPLAY_DISPATCH (R126). -/
def execRepReplayDispatch (slot : BitVec 2) (s : State) : Out :=
  let s := s.withSlot (slotOf slot)
  let t := s.th
  if t.status = .empty ∨ t.status = .halted ∨ !t.rep.act ∨ t.capture.isSome ∨ !t.room ∨ s.core.lets s.cur = false then .next s
  else
    match t.body[t.rep.pos.toNat]? with
    | some b => .next (s.replay b)
    | none => .next s.refetch

end Sys2Proof.Machine
end

