-- ==== Sys2Proof/Machine/Jobs.lean ====
section
/-! DEFINITION. Engine commands: the record (Tables 11.2, 11.3), canonical form and footprints (R289, R292, R294), the checks at
admission (Table 11.5, Tables 11.10 and 11.11, R329), edges (R295), and how a job reaches memory (R290, R293). -/
namespace Sys2Proof.Machine

/-! ## The record -/

/-- A field of the record. -/
def Job.bits (j : Job) (lo n : Nat) : Nat := Sys2Proof.bits j.rcd.toNat lo n
/-- Bits of the type words P0 to P3. -/
def Job.p (j : Job) (k lo n : Nat) : Nat := j.bits (256 + 64 * k + lo) n
def Job.typ (j : Job) : Nat := j.bits 0 4
def Job.wv (j : Job) : Bool := j.bits 4 1 == 1
def Job.sv (j : Job) : Bool := j.bits 5 1 == 1
def Job.cv (j : Job) : Bool := j.bits 6 1 == 1
/-- P3.PROG of `mma` and `mmar` (R313). -/
def Job.prog (j : Job) : Nat := j.p 3 0 12
def Job.setProg (j : Job) (n : Nat) : Job := { j with rcd := (j.rcd >>> 460 <<< 12 ||| BitVec.ofNat 512 (n % 4096)) <<< 448 ||| (j.rcd &&& BitVec.ofNat 512 (2 ^ 448 - 1)) }

/-- The own scratchpad as a window address (WK 1). -/
def spVa (off : Nat) : Nat := 0xF10000000000 + off

/-- The bytes of a range word: start and length (R289). -/
def rangeWord (w : Nat) : Nat × Nat :=
  (Sys2Proof.bits w 6 42 * 64, Sys2Proof.bits w 48 16 * 2 ^ (6 + 6 * Sys2Proof.bits w 4 2))

/-- Block sizes of BS (Table 3.6); 0 for none. -/
def blockSize (bs : Nat) : Nat := if bs = 0 then 0 else 8 * 2 ^ bs

/-- Formats of the matrix engine: Table 3.1, and 15 for the MXINT8 element (R85, R314). -/
def mxFmt (c : Nat) : Fmt := if c = 15 then ⟨true, 0, 7, 6, 0⟩ else fixedFmt c
def mxFmtOk (c : Nat) : Bool := decide (c ≤ 9) || c == 15
/-- Formats that pair (R314). -/
def mxPair (a b : Nat) : Bool :=
  if a = 0 ∨ b = 0 then a == b else if a = 1 ∨ a = 2 ∨ b = 1 ∨ b = 2 then (a == 1 || a == 2) && (b == 1 || b == 2) else true

/-- Bytes of a row of n elements in 64-bit containers (R314). -/
def rowBytes (f : Fmt) (n : Nat) : Nat := 8 * ((n + f.lanes - 1) / f.lanes)
def ceilDiv (a b : Nat) : Nat := (a + b - 1) / b

/-- The array's operands in an `mma` record (R313 to R317): M, N, K, the first rows of the partition. -/
def Job.mmaM (j : Job) : Nat := j.p 2 36 6 + 1
def Job.mmaN (j : Job) : Nat := j.p 2 42 6 + 1
def Job.mmaK (j : Job) : Nat := j.p 2 48 16
def Job.rowA (j : Job) : Nat := if j.p 3 15 1 = 1 then 64 * (j.p 3 16 5 / 16) else 0
def Job.rowB (j : Job) : Nat := if j.p 3 15 1 = 1 then 64 * (j.p 3 16 5 % 16) else 0

/-- One operand: its base, stride, format, first row, rows, its scale codes. -/
structure Operand where
  base : Nat
  str : Nat
  fmt : Nat
  row0 : Nat
  rows : Nat
  sv : Bool
  scl : Nat
  bs : Nat
deriving DecidableEq, Repr

def Job.opA (j : Job) : Operand := ⟨j.p 0 0 48, j.p 0 48 16, j.p 2 24 4, j.rowA, j.mmaM, j.p 2 22 1 == 1, j.p 2 0 11, j.p 2 32 3⟩
def Job.opB (j : Job) : Operand := ⟨j.p 1 0 48, j.p 1 48 16, j.p 2 28 4, j.rowB, j.mmaN, j.p 2 23 1 == 1, j.p 2 11 11, j.p 2 32 3⟩
def Operand.rowAddr (o : Operand) (r : Nat) : Nat := o.base + (o.row0 + r) * o.str * 16
def Operand.codes (o : Operand) (k : Nat) : Nat := ceilDiv k (blockSize o.bs)
def Operand.codeAddr (o : Operand) (k r b : Nat) : Nat := spVa (o.scl * 64 + (o.row0 + r) * o.codes k + b)

/-- A row of elements in memory: `lacc`, `sacc` and `qtile` rows. -/
structure Rows where
  base : Nat
  str : Nat
  fmt : Fmt
  rows : Nat
  cols : Nat
def Rows.rowAddr (r : Rows) (i : Nat) : Nat := r.base + i * r.str * 16
def Rows.span (r : Rows) : Nat := (r.rows - 1) * r.str * 16 + rowBytes r.fmt r.cols

/-- The rows a `sacc` writes, a `qtile` reads, a `qtile` writes. -/
def Job.saccRows (j : Job) : Rows := ⟨j.p 0 0 48, j.p 0 48 16, mxFmt (j.p 1 32 4), j.p 2 36 6 + 1, j.p 2 42 6 + 1⟩
def scalarCode (c : Nat) : Fmt := if c = 0 then fp64 else if c = 1 then fp32 else if c = 2 then fp16 else bf16
def Job.qtileIn (j : Job) : Rows := ⟨j.p 0 0 48, j.p 0 48 16, scalarCode (j.p 2 14 2), j.p 2 22 6 + 1, j.p 2 28 12 + 1⟩
def Job.qtileOut (j : Job) : Rows := ⟨j.p 1 0 48, j.p 1 48 16, mxFmt (j.p 2 16 4), j.p 2 22 6 + 1, j.p 2 28 12 + 1⟩

/-- Fields of the reuse request (Table 12.1). -/
def Job.rq (j : Job) (lo n : Nat) : Nat := Sys2Proof.bits j.request.toNat lo n
def Job.rqAddr (j : Job) : Nat := spVa (j.p 3 21 11 * 64)
/-- The span of the stored tile (R330). -/
def Job.rqSpan (j : Job) : Nat := (j.mmaM - 1) * j.rq 240 16 * 16 + 4 * j.mmaN

/-! ## Canonical form (R294) -/

/-- The job as an accessor (R290, R392, R393). -/
def State.jobWho (s : State) (j : Job) : Who :=
  let d := s.clid
  ⟨j.core.getD ⟨d.die, d.clu, 0⟩, d, j.ctx, j.user, BitVec.ofNat 2 j.slot.val, .job d j.id,
    (s.cl.got.filter (·.1 = j.id)).map (·.2), false⟩

/-- The canonical place of a range, if it lies in one space with a target (Table 11.5 check 2). -/
def State.canon (s : State) (j : Job) (va : Int) (len : Nat) : Option (CSpace × Nat) :=
  if va < 0 ∨ 2 ^ 48 < va + len then none
  else
    let a := va.toNat
    let last := a + len - 1
    let w := s.jobWho j
    if spaceOf a ≠ spaceOf last then none
    else
      let both := fun (x : CSpace × Nat) => match s.windowLoc w a, s.windowLoc w last with
        | .none, _ | _, .none => none
        | _, _ => some x
      match spaceOf a with
      | .paged => some (.va, a)
      | .ls => match j.core with
        | some c => both (.ls c, Sys2Proof.bits a 0 14)
        | none => none
      | .sp => both (.sp, Sys2Proof.bits a 0 17)
      | .peer =>
        if a / 2 ^ 17 ≠ last / 2 ^ 17 then none
        else
          let (st, c) := s.route j.ctx (Sys2Proof.bits a 17 17)
          both (if st = 1 ∧ c = s.clid then (.sp, Sys2Proof.bits a 0 17) else (.lcn (Sys2Proof.bits a 17 17), Sys2Proof.bits a 0 17))
      | _ => none

/-- A range of a footprint, with a failed check 2 where it has no canonical place. -/
structure Claim where
  va : Int
  len : Nat
  wr : Bool

def State.rangeOf (s : State) (j : Job) (c : Claim) : Option Range := (s.canon j c.va c.len).map fun p => ⟨p.1, p.2, c.len, c.wr⟩

/-- The declared ranges of a record (R289, R292), or of a Keyway command (R441). -/
def Job.claims (j : Job) : List Claim :=
  let present := fun (c : Claim) => decide (c.len ≠ 0)
  if j.kw.isSome then
    let wide := fun (a n : Nat) (wr : Bool) => (⟨(a / 64 * 64 : Nat), if n = 0 then 0 else ceilDiv (a % 64 + n) 64 * 64, wr⟩ : Claim)
    (if j.typ = 1 then [wide (j.p 0 0 48) (j.p 2 0 24) false, wide (j.p 1 0 48) (j.p 2 0 24) true]
      else [wide (j.p 0 0 48) (j.p 1 0 24) true]).filter present
  else
    let r := fun k wr => let (a, n) := rangeWord (j.bits (64 * k) 64); (⟨(a : Nat), n, wr⟩ : Claim)
    [r 1 false, r 2 false, r 3 true].filter present

/-- The completion record (Table 11.6). -/
def Job.recordRange (j : Job) : List Range := if j.cv && j.kw.isNone then [⟨.sp, j.bits 48 13 * 16, 16, true⟩] else []

/-! ## Admission checks (R291) -/

/-- Rows of a `copy2d` as regions. -/
def copyRows (src dst : Nat) (ss ds : Int) (len rows : Nat) : List (Int × Int) :=
  if len = 0 then [] else (List.range rows).map fun (r : Nat) => ((src : Int) + (r : Int) * ss, (dst : Int) + (r : Int) * ds)

/-- The rows that a copy with FEM moves: source, destination, length (R309, R310). -/
def Job.moves (j : Job) : List (Int × Int) × Nat :=
  if j.typ = 1 then (copyRows (j.p 0 0 48) (j.p 1 0 48) 0 0 (j.p 2 0 24) 1, j.p 2 0 24)
  else (copyRows (j.p 0 0 48) (j.p 1 0 48) (toSigned (j.p 3 0 32) 32) (toSigned (j.p 3 32 32) 32) (j.p 2 0 24) (j.p 2 24 16 + 1), j.p 2 0 24)
def Job.fem (j : Job) : Nat := if j.typ = 1 then j.p 2 24 2 else if j.typ = 2 then j.p 2 40 2 else if j.typ = 5 then j.p 1 24 2 else 0

def isSramSpace (x : Option (CSpace × Nat)) : Bool :=
  match x with
  | some (.va, _) | none => false
  | _ => true

/-- FEM 1 has both sides in SRAM and multiples of 8 (R310). -/
def State.femOk (s : State) (j : Job) : Bool :=
  if j.fem ≠ 1 then true
  else if j.typ = 5 then false
  else
    let (rows, n) := j.moves
    decide (j.p 0 0 48 % 8 = 0) && decide (j.p 1 0 48 % 8 = 0) && decide (n % 8 = 0)
      && (j.typ != 2 || (decide (j.p 3 0 32 % 8 = 0) && decide (j.p 3 32 32 % 8 = 0)))
      && rows.all fun r => isSramSpace (s.canon j r.1 n) && isSramSpace (s.canon j r.2 n)

/-- Check 1 on the record alone: reserved bits and values (Tables 11.2, 11.3, 11.10, 11.11, R313 to R319, R325). -/
def State.recordBad (s : State) (j : Job) : Bool :=
  let t := j.typ
  let z := fun k lo n => j.p k lo n == 0
  let header := (j.engine == 0 && (decide (t < 1) || decide (6 < t))) || (j.engine == 1 && (decide (t < 8) || decide (13 < t)))
    || j.bits 7 1 != 0 || j.bits 61 3 != 0 || j.bits 64 4 != 0 || j.bits 128 4 != 0 || j.bits 192 4 != 0
  let body :=
    if t = 1 then z 0 48 16 && z 1 48 16 && z 2 26 38 && z 3 0 64
    else if t = 2 then z 0 48 16 && z 1 48 16 && z 2 42 22
    else if t = 3 ∨ t = 4 then z 0 52 12 && z 1 48 16 && z 2 48 16 && z 3 27 37 && decide (j.p 3 24 3 ≤ 6)
    else if t = 5 then z 0 48 16 && z 1 26 38 && z 3 0 64
    else if t = 6 then z 0 48 16 && z 2 1 63 && z 3 0 64
    else if t = 8 then z 0 0 64 && z 1 0 64 && z 2 0 64 && z 3 0 64
    else if t = 9 then z 1 0 64 && z 2 0 36 && z 2 48 16 && z 3 0 64
    else if t = 10 then
      let dfmt := j.p 1 32 4
      let bs := j.p 1 39 3
      z 1 43 21 && z 2 11 25 && z 2 48 16 && z 3 0 64 && mxFmtOk dfmt && decide (bs ≤ 5)
        && (j.p 1 38 1 == 0 || (decide (3 ≤ dfmt) && decide (1 ≤ bs) && decide (bs ≤ 3)))
    else if t = 13 then
      z 2 21 1 && z 2 40 24 && z 3 32 32 && decide (1 ≤ j.p 2 11 3) && decide (j.p 2 11 3 ≤ 5)
        && mxFmtOk (j.p 2 16 4) && decide (3 ≤ j.p 2 16 4)
    else
      let bs := j.p 2 32 3
      let k := j.mmaK
      z 2 35 1 && (if t = 11 then z 3 21 43 else z 3 32 32 && z 3 12 1) && mxFmtOk (j.p 2 24 4) && mxFmtOk (j.p 2 28 4)
        && mxPair (j.p 2 24 4) (j.p 2 28 4) && decide (bs ≤ 5) && ((z 2 22 1 && z 2 23 1) || bs != 0) && k != 0
        && decide (j.prog < ceilDiv k 32) && (z 3 15 1 || gmemV (j.gmem[(j.p 3 13 2) % 4]'(Nat.mod_lt _ (by decide))))
  header || !body || !s.femOk j

/-- The regions that a record names, with those that are implicit ranges and their direction (Tables 11.6 and 12.3), and the
alignments of its type (check 3). A region with `none` is checked only. -/
def Job.regions (j : Job) : List (Claim × Bool) × Bool :=
  let t := j.typ
  let op := fun (a : Int) (n : Nat) => ((⟨a, n, false⟩ : Claim), false)
  let imp := fun (a n : Nat) (wr : Bool) => ((⟨(a : Int), n, wr⟩ : Claim), true)
  let (rs, ok) : List (Claim × Bool) × Bool :=
    if t = 1 ∨ t = 2 then (j.moves.1.flatMap fun r => [op r.1 j.moves.2, op r.2 j.moves.2], true)
    else if t = 3 ∨ t = 4 then
      let w := 2 ^ (2 + j.p 0 51 1)
      ([op (j.p 1 0 48 : Nat) (j.p 3 0 24 * 2 ^ j.p 3 24 3), imp (j.p 2 0 48) (j.p 3 0 24 * w) false],
        j.p 3 0 24 == 0 || decide (j.p 2 0 48 % w = 0))
    else if t = 5 then ([op (j.p 0 0 48 : Nat) (j.p 1 0 24)], true)
    else if t = 6 then ([imp (j.p 0 0 48) 8 true], decide (j.p 0 0 48 % 8 = 0))
    else if t = 9 then ([op (j.p 0 0 48 : Nat) ((j.p 2 36 6) * j.p 0 48 16 * 16 + 4 * (j.p 2 42 6 + 1))], decide (j.p 0 0 48 % 4 = 0))
    else if t = 10 then
      let r := j.saccRows
      ([op (r.base : Nat) r.span]
        ++ (if j.p 1 38 1 = 1 then [imp (spVa (j.p 2 0 11 * 64)) (r.rows * ceilDiv r.cols (blockSize (j.p 1 39 3))) true] else []),
        decide (r.base % 8 = 0))
    else if t = 13 then
      let a := j.qtileIn
      let b := j.qtileOut
      ([op (a.base : Nat) a.span, op (b.base : Nat) b.span,
        imp (spVa (j.p 2 0 11 * 64)) (b.rows * ceilDiv b.cols (blockSize (j.p 2 11 3))) true], decide (a.base % 8 = 0) && decide (b.base % 8 = 0))
    else if t = 11 ∨ t = 12 then
      let k := j.mmaK
      let side := fun (o : Operand) =>
        op (o.rowAddr 0 : Nat) ((o.rows - 1) * o.str * 16 + rowBytes (mxFmt o.fmt) k)
          :: (if o.sv then [imp (o.codeAddr k 0 0) (o.rows * o.codes k) false] else [])
      let upd := j.rq 48 1 == 1
      let sig := j.rq 49 1 == 1
      let tile := imp (j.rq 192 48) j.rqSpan upd
      (side j.opA ++ side j.opB ++ (if t = 12 then
        [imp j.rqAddr 40 false, imp (j.rq 0 48) 192 upd, if !upd && sig then (tile.1, false) else tile] else []),
        decide (j.opA.base % 8 = 0) && decide (j.opB.base % 8 = 0)
          && (t != 12 || (decide (j.rq 0 48 % 64 = 0) && decide (j.rq 192 48 % 4 = 0))))
    else ([], true)
  (rs.filter fun r => decide (r.1.len ≠ 0), ok)

/-- Places that a region of a type must not or must only lie in: the index list and `notify` (Table 11.10, R309), the entry and
the tile of `mmar` (R329); a breach is one of check 2 (log 81). -/
def Job.placesOk (j : Job) : Bool :=
  let t := j.typ
  if (t = 3 ∨ t = 4) ∧ j.p 3 0 24 ≠ 0 then spaceOf (j.p 2 0 48) == .ls || spaceOf (j.p 2 0 48) == .sp
  else if t = 6 then spaceOf (j.p 0 0 48) == .sp
  else if t = 12 then spaceOf (j.rq 0 48) != .ls && spaceOf (j.rq 192 48) != .ls
  else true

/-- The reuse request is malformed (R329 check 1). -/
def Job.requestBad (j : Job) : Bool :=
  j.rq 50 14 != 0 || j.rq 272 48 != 0 || (decide (1 < j.mmaM) && decide (j.rq 240 16 * 16 < 4 * j.mmaN))

/-- The request of an `mmar` as admission reads it (R325): none where the read fails. -/
def State.readRequest (s : State) (j : Job) : Option Job :=
  let loc := spLoc s.clid.die s.clid.clu (j.p 3 21 11 * 64)
  if s.badRange loc 40 then none else some { j with request := BitVec.ofNat 320 (s.read loc 40) }

/-- Admission (R291, R325, R329): the job with its ranges, or rejected with an ACAUSE. A rejected job keeps its declared ranges
and its completion record as its footprint. -/
def State.admission (s : State) (j : Job) : Job :=
  let declared := j.claims.filterMap fun c => s.rangeOf j c
  let rej := fun (j : Job) (a : BitVec 8) => { j with st := .rejected, acause := a, status := 5, foot := declared ++ j.recordRange }
  if s.recordBad j then rej j 1
  else
    match (if j.typ = 12 then s.readRequest j else some j) with
    | none => rej j 7
    | some j =>
      if j.typ = 12 ∧ j.requestBad then rej j 1
      else
        let (rs, aligned) := j.regions
        if !(j.claims.all fun c => (s.rangeOf j c).isSome) || !(rs.all fun r => (s.rangeOf j r.1).isSome) || !j.placesOk then rej j 5
        else if !aligned then rej j 4
        else { j with decl := declared
                      foot := declared ++ j.recordRange ++ (rs.filter (·.2)).filterMap fun r => s.rangeOf j r.1 }

/-! ## Edges (R295) -/

def Range.meets (a b : Range) : Bool :=
  a.space == b.space && (a.wr || b.wr) && decide (a.lo < b.lo + b.len) && decide (b.lo < a.lo + a.len)

/-- An earlier-accepted X conflicts with Y. -/
def Job.conflicts (x y : Job) : Bool :=
  (x.foot.any fun a => y.foot.any a.meets) || (y.typ == 6 && y.core.isSome && x.core == y.core)

/-- Jobs of one queue (R297). -/
def Job.sameQueue (x y : Job) : Bool :=
  x.engine == y.engine && x.core == y.core && x.kw.map (·.1) == y.kw.map (·.1)

/-! ## Memory of a job (R290, R293) -/

/-- Why a job's plan stops: an access fails, or it waits for a translation or a route entry. -/
inductive JobStop where
  | fail (acause : BitVec 8) (page : Option Nat)
  | wait
deriving DecidableEq, Repr

abbrev JobM := ExceptT JobStop (StateM State)

/-- Whether a span is covered by the ranges of a direction in one space. -/
def coveredFuel : Nat → List Range → Nat → Nat → Bool
  | 0, _, _, _ => false
  | n + 1, rs, lo, hi =>
    if hi ≤ lo then true
    else match rs.find? fun r => decide (r.lo ≤ lo) && decide (lo < r.lo + r.len) with
      | some r => coveredFuel n rs (r.lo + r.len) hi
      | none => false

/-- A payload access lies in the declared ranges (R293). -/
def State.inside (s : State) (j : Job) (va : Int) (len : Nat) (wr : Bool) : Bool :=
  match s.canon j va len with
  | none => false
  | some (space, lo) => coveredFuel 4 (j.decl.filter fun r => r.space == space && r.wr == wr) lo (lo + len)

/-- The parts of an access of a job; `payload` accesses obey R293. -/
def jobParts (j : Job) (va : Int) (len : Nat) (wr payload : Bool) : JobM (List Part) := do
  let s ← get
  if payload && !s.inside j va len wr then throw (.fail 5 none)
  if (s.canon j va len).isNone then throw (.fail 5 none)
  let (f, s) := s.find (s.jobWho j) { w := wr } va.toNat len
  set s
  match f with
  | .parts ps => if s.bankHeld ps none then throw .wait else pure ps
  | .trap c b a => throw (.fail c (if c.toNat = 6 ∧ b.toNat = 1 then some a else none))
  | .absent _ | .miss => throw .wait

/-- A read of a job: where it lies, and its bytes, lowest address first. The array's cycles include its reads (Table 16.11). -/
def jobFetch (j : Job) (va : Int) (len : Nat) (payload : Bool := true) : JobM (List Part × List Byte) := do
  let ps ← jobParts j va len false payload
  let s ← get
  if (s.badPart ps).isSome then
    set (s.badReadParts ps)
    throw (.fail 7 none)
  set (if j.engine = 0 then s.meterFor 1 (some s.clid) ps else ps.foldl (fun s p => s.pass 1 (some s.clid) p.loc 1) s)
  pure (ps, ps.flatMap fun p => Memory.bytes s.mem p.loc p.len)
def jobRead (j : Job) (va : Int) (len : Nat) (payload : Bool := true) : JobM (List Byte) := do
  let r ← jobFetch j va len payload
  pure r.2

/-- One write that a job will make. -/
structure PWrite where
  parts : List Part
  bytes : List Byte
deriving DecidableEq, Repr

/-- A write planned; one that a bad word or block discards fails the job (R498). -/
def jobWrite (j : Job) (va : Int) (bs : List Byte) (payload : Bool := true) : JobM PWrite := do
  let ps ← jobParts j va bs.length true payload
  let s ← get
  match s.refuses ps with
  | some loc => set (s.badWrite loc); throw (.fail 7 none)
  | none => pure ⟨ps, bs⟩

/-! ## Moves that overlap (R309, R268) -/

/-- Bytes that a command moves: where they come from, and the write. -/
structure Moved where
  src : List Part
  put : PWrite
deriving DecidableEq, Repr

def partsMeet (a b : List Part) : Bool :=
  a.any fun p => b.any fun q => decide (p.loc < q.loc + q.len) && decide (q.loc < p.loc + p.len)

/-- Two writes of the command share a byte. -/
def writesMeet : List Moved → Bool
  | [] => false
  | m :: r => r.any (fun n => partsMeet m.put.parts n.put.parts) || writesMeet r

/-- The command writes what it reads, or writes a byte twice. -/
def tangled (ms : List Moved) : Bool := ms.any (fun m => ms.any fun n => partsMeet n.src m.put.parts) || writesMeet ms

/-- Each byte with where it comes from and where it goes. -/
def locsOf (ps : List Part) : List Nat := ps.flatMap fun p => (List.range p.len).map fun i => p.loc + i
def Moved.bytes (m : Moved) : List (Nat × Nat × Byte) := (locsOf m.src).zip ((locsOf m.put.parts).zip m.put.bytes)

/-- The members of a list in an order that the spec leaves open (log 9). -/
def anyOrder {α : Type} : List α → JobM (List α)
  | [] => pure []
  | a :: r => do
    let l ← anyOrder r
    let s ← get
    let (x, s) := s.free
    set s
    let k := x.toNat % (l.length + 1)
    pure (l.take k ++ a :: l.drop k)

/-- A byte that is moved: the original one, or the one that the command has already written in its place. -/
def movedByte (done : List (Nat × Byte)) (src : Nat) (old : Byte) : JobM Byte :=
  match done.find? fun w => w.1 == src with
  | none => pure old
  | some w => do
    let s ← get
    let (x, s) := s.free
    set s
    pure (if x.toNat % 2 = 0 then old else w.2)

/-- One more unit is moved; the bytes written so far, the latest first. -/
def moveUnit (done : List (Nat × Byte)) (u : List (Nat × Nat × Byte)) : JobM (List (Nat × Byte)) := do
  let ws ← u.mapM fun b => do
    let x ← movedByte done b.1 b.2.2
    pure (b.2.1, x)
  pure (ws ++ done)

/-- The writes of a command whose moves overlap: its units, bytes or whole elements, are moved in any order. -/
def settleMoves (bytewise : Bool) (ms : List Moved) : JobM (List PWrite) :=
  if !tangled ms then pure (ms.map (·.put))
  else do
    let us ← anyOrder (ms.flatMap fun m => if bytewise then m.bytes.map fun b => [b] else [m.bytes])
    let done ← us.foldlM moveUnit []
    pure (ms.map fun m =>
      { m.put with bytes := List.zipWith (fun b old => ((done.find? fun w => w.1 == b).map (·.2)).getD old) (locsOf m.put.parts) m.put.bytes })

/-- A plan's part that may fail: its result, or the cause. -/
def tryFail {α : Type} (m : JobM α) : JobM (Except (BitVec 8 × Option Nat) α) :=
  tryCatch (do let x ← m; pure (.ok x)) fun e => match e with
    | .fail c p => pure (.error (c, p))
    | .wait => throw .wait

/-- Members of a list that free values pick (log 9). -/
def someOf {α : Type} : List α → JobM (List α)
  | [] => pure []
  | a :: r => do
    let s ← get
    let (x, s) := s.free
    set s
    let l ← someOf r
    pure (if x.toNat % 2 = 0 then l else a :: l)

/-- Units of a failed command that have been moved (R305): some of those whose accesses can be made (log 36). -/
def salvage (units : List (JobM Moved)) : JobM (List Moved) := do
  let s ← get
  someOf (units.filterMap fun u => match (u.run.run s).1 with
    | .ok m => some m
    | .error _ => none)

/-- Bytes to be written at an address, each by itself. -/
def byteUnits (j : Job) (va : Int) (bs : List Byte) (payload : Bool := true) : List (JobM Moved) :=
  bs.zipIdx.map fun (b, i) => do
    let w ← jobWrite j (va + i) [b] payload
    pure ⟨[], w⟩

/-- What a job does once all its reads and translations have succeeded: writes in order, full/empty bits, the record's PROG,
what its completion reports, the blocks it has skipped, energy; `run` is what is left to do, `fail` a failure that comes after these. -/
structure Plan where
  rounded : Rounded := {}
  writes : List PWrite := []
  fe : List (Nat × Bool) := []
  prog : Option Nat := none
  status : BitVec 4 := 1
  word1 : Word := 0
  exc : Nat := 0
  skips : List (Nat × Nat × Nat) := []
  energy : Nat := 0
  run : Option MmaRun := none
  fail : Option (BitVec 8 × Option Nat) := none

def Rounded.add (a b : Rounded) : Rounded := ⟨a.nan + b.nan, a.ovf + b.ovf, a.unf + b.unf⟩

/-- What one result element counts as (Table 3.9): a NaN that no source was, an overflow, an underflow. -/
def Written.rounded (w : Written) (f : Fmt) (srcNan : Bool) : Rounded :=
  ⟨((elemValue f w.code).isNan && !srcNan).toNat, w.flags / flOF % 2, w.flags / flUF % 2⟩

def roundedAll (l : List Rounded) : Rounded := l.foldl Rounded.add {}

/-- The plan of a command of which units stay written where it fails (R305). -/
def orSalvage (whole : JobM Plan) (units : JobM (List (JobM Moved))) (fe : State → List Moved → List (Nat × Bool)) : JobM Plan := do
  match (← tryFail whole) with
  | .ok p => pure p
  | .error f =>
    let us ← units
    let ms ← salvage us
    let ws ← settleMoves true ms
    let s ← get
    pure { writes := ws, fe := fe s ms, fail := some f }

/-! ## Writes of engines and transfers -/

/-- Bindings of a core fire with a value; firings coalesce into one pending launch (R283), and a launch that names a sleeping slot
wakes it (R225). -/
def Core.fireWhere (k : Core) (v : Mailbox → Option Word) : Core :=
  let hit := k.mail.toList.filterMap fun m => m.bind fun b => (v b).map fun _ => b.slot
  let k := { k with mail := k.mail.map fun m => m.map fun b => match v b with
    | some x => { b with pending := [x] }
    | none => b }
  hit.foldl (fun k i => k.wakeSleeper i) k

/-- A write by an engine or a transfer fires the TRIG 1 bindings on its words (R282). -/
def State.fire (s : State) (loc len : Nat) : State :=
  if !isSram loc then s
  else s.mapCores fun _ k => k.fireWhere fun b =>
    if b.trig = 1 ∧ (wordsOf loc len).elem b.loc then some (BitVec.ofNat 64 (s.read b.loc 8)) else none

def State.putParts (s : State) : List Part → List Byte → State
  | [], _ => s
  | p :: r, bs => ((s.writeBytes p.loc (bs.take p.len)).fire p.loc p.len).putParts r (bs.drop p.len)

/-- What a step that goes on waiting has read is metered when it is read for good. -/
def State.metersOf (s old : State) : State := s.mapCls fun c x => { x with meter := (old.clAt c).meter }

/-- Planned writes are made, by cluster `d` or from beyond the clusters. -/
def State.applyWritesFor (s : State) (d : Option ClusterId) (ws : List PWrite) : State :=
  ws.foldl (fun s w => (s.meterFor 1 d w.parts).putParts w.parts w.bytes) s
def State.applyWrites (s : State) (ws : List PWrite) : State := s.applyWritesFor (some s.clid) ws

/-- The SRAM words that writes cover whole (R310). -/
def wholeWords (ps : List Part) : List Nat :=
  let covered := fun (b : Nat) => ps.any fun p => decide (p.loc ≤ b) && decide (b < p.loc + p.len)
  dedup ((ps.filter fun p => isSram p.loc).flatMap fun p =>
    (wordsOf p.loc p.len).filter fun w => (List.range 8).all fun i => covered (w + i))

end Sys2Proof.Machine
end

