-- ==== Sys2Proof/Machine/Matrix.lean ====
section
/-! DEFINITION. The matrix commands (R313 to R319) and step-tagged reuse (R331 to R335), each as a plan: what it reads and what
it will write. Accumulators are FP32 codes in the cluster's accumulator range, row-major, 64 to a row (log 7). -/
namespace Sys2Proof.Machine

/-! ## Operands (R314, R315) -/

/-- x × 2^k. -/
def FNum.shift (k : Int) : FNum → FNum
  | .fin n m e => .fin n m (e + k)
  | x => x

/-- An element under its scale code (R315). -/
def scaled (code : Nat) (x : FNum) : FNum :=
  if code = 0 then .zeroPos else if code = 255 then .nan false else x.shift ((code : Int) - 127)

/-- Elements k0 to k0 + n - 1 of a row that starts at `va`, from its containers (R314). -/
def rowElems (j : Job) (f : Fmt) (va : Int) (k0 n : Nat) : JobM (List FNum) := do
  let q0 := k0 / f.lanes
  let bs ← jobRead j (va + 8 * q0) (8 * ((k0 + n - 1) / f.lanes - q0 + 1))
  let x := leNat bs
  pure ((List.range n).map fun i =>
    elemValue f (f.lane (x / 2 ^ (64 * ((k0 + i) / f.lanes - q0))) ((k0 + i) % f.lanes)))

/-- The scale codes of a row (R314). -/
def rowCodes (j : Job) (o : Operand) (k r : Nat) : JobM (List Nat) := do
  if o.sv then
    let bs ← jobRead j (o.codeAddr k r 0) (o.codes k) false
    pure (bs.map (·.toNat))
  else pure []

/-- A stretch of a row of an operand: each element under its code, with whether it is multiplied, and the blocks skipped (R315, R316). -/
structure OpRow where
  vals : List FNum := []
  live : List Bool := []
  skipped : List Nat := []

def OpRow.append (a b : OpRow) : OpRow := ⟨a.vals ++ b.vals, a.live ++ b.live, a.skipped ++ b.skipped⟩

/-- Elements k0 to k0 + n - 1 of row r (R314 to R316): the elements of a skipped block are not read. -/
def opRow (j : Job) (o : Operand) (k0 n r : Nat) : JobM OpRow := do
  let elems := fun (lo len : Nat) => rowElems j (mxFmt o.fmt) (o.rowAddr r) lo len
  if o.sv then
    let b := blockSize o.bs
    let b0 := k0 / b
    let cs ← jobRead j (o.codeAddr j.mmaK r b0) ((k0 + n - 1) / b - b0 + 1) false
    let ps ← cs.zipIdx.mapM fun (c, t) => do
      let lo := Nat.max k0 ((b0 + t) * b)
      let len := Nat.min (k0 + n) ((b0 + t + 1) * b) - lo
      if c.toNat = 0 then pure (⟨List.replicate len .zeroPos, List.replicate len false, [b0 + t]⟩ : OpRow)
      else do
        let xs ← elems lo len
        pure ⟨xs.map (scaled c.toNat), List.replicate len true, []⟩
    pure (ps.foldl OpRow.append {})
  else do
    let xs ← elems k0 n
    pure ⟨xs, List.replicate n true, []⟩

def opRows (j : Job) (o : Operand) (k0 n : Nat) : JobM (List OpRow) :=
  (List.range o.rows).mapM fun r => opRow j o k0 n r

/-- The blocks of rows that were skipped, as (operand, row, block). -/
def skippedIn (side : Nat) (rows : List OpRow) : List (Nat × Nat × Nat) :=
  rows.zipIdx.flatMap fun (r, i) => r.skipped.map fun b => (side, i, b)

/-- Every block of an operand whose code is 0. -/
def zeroBlocks (j : Job) (side : Nat) (o : Operand) : JobM (List (Nat × Nat × Nat)) := do
  let rows ← (List.range o.rows).mapM fun r => rowCodes j o j.mmaK r
  pure (rows.zipIdx.flatMap fun (cs, i) => cs.zipIdx.filterMap fun (c, b) => if c = 0 then some (side, i, b) else none)

/-- A skipped block whose elements are not all zero (R316). -/
def staleBlock (j : Job) (t : Nat × Nat × Nat) : JobM Bool := do
  let o := if t.1 = 0 then j.opA else j.opB
  let b := blockSize o.bs
  let xs ← rowElems j (mxFmt o.fmt) (o.rowAddr t.2.1) (t.2.2 * b) (Nat.min j.mmaK ((t.2.2 + 1) * b) - t.2.2 * b)
  pure (xs.any fun x => !x.isZero)

/-! ## Accumulators -/

def State.accLoc (s : State) (i : Nat) : Nat := Machine.accLoc s.clid.die s.clid.clu (256 * i)

/-- Accumulators of an M × N tile, row by row. -/
def State.accRows (s : State) (m n : Nat) : List (List Nat) :=
  (List.range m).map fun i => (List.range n).map fun k => s.read (s.accLoc i + 4 * k) 4

def State.accWrites (s : State) (rows : List (List Nat)) : List PWrite :=
  rows.zipIdx.map fun (r, i) => ⟨[⟨s.accLoc i, 4 * r.length⟩], r.flatMap fun c => leBytes 4 c⟩

/-- acc + the exact sum of products, rounded once (R93, R315); NV, OF, UF and NX as R94. -/
def dot (acc : Nat) (a b : List FNum) : Written :=
  let x := sumEx (List.zipWith mulEx a b ++ [term (elemValue fp32 acc)]) 0
  toCode x.v x.nv fp32 false 0 0

/-- One accumulator after a chunk, and what it counts as. -/
def dotRounded (c : Nat) (x y : List FNum) : Written × Rounded :=
  let w := dot c x y
  (w, w.rounded fp32 ((elemValue fp32 c).isNan || x.any FNum.isNan || y.any FNum.isNan))

/-- One chunk on the tile: the new accumulators, the flags, the events. -/
def chunk (acc : List (List Nat)) (a b : List (List FNum)) : List (List Nat) × Nat × Rounded :=
  let ws := List.zipWith (fun row x => List.zipWith (fun c y => dotRounded c x y) row b) acc a
  (ws.map fun r => r.map (·.1.code), ws.flatten.foldl (fun f w => orFlags f w.1.flags) 0, roundedAll (ws.flatten.map (·.2)))

/-- Blocks added to those that are listed. -/
def addBlocks (l new : List (Nat × Nat × Nat)) : List (Nat × Nat × Nat) := new.foldl (fun l x => if l.elem x then l else l ++ [x]) l

/-- What a chunk gives: the accumulators, the flags, the products of blocks not skipped, the blocks skipped. -/
structure Chunk where
  acc : List (List Nat)
  flags : Nat
  rounded : Rounded
  prods : Nat
  skipped : List (Nat × Nat × Nat)

/-- Chunk PROG of the command (R315). -/
def oneChunk (j : Job) : JobM Chunk := do
  let k0 := 32 * j.prog
  let len := Nat.min 32 (j.mmaK - k0)
  let a ← opRows j j.opA k0 len
  let b ← opRows j j.opB k0 len
  let s ← get
  let (acc, fl, ev) := chunk (s.accRows j.mmaM j.mmaN) (a.map (·.vals)) (b.map (·.vals))
  let live := fun (rows : List OpRow) (t : Nat) => rows.countP fun x => x.live.getD t true
  pure ⟨acc, fl, ev, (List.range len).foldl (fun p t => p + live a t * live b t) 0, skippedIn 0 a ++ skippedIn 1 b⟩

/-- Products per cycle by the wider operand format (Table 11.13). -/
def arrayRate (a b : Nat) : Nat :=
  let r := fun c => let w := (mxFmt c).width; if 16 < w then 8 else if 8 < w then 32 else if 4 < w then 64 else 128
  Nat.min (r a) (r b)

/-- One chunk, and what follows the last one; a failing access leaves the chunks before it added (R306). -/
def planChunk (j : Job) (run : MmaRun) (word : MmaRun → Nat → Word) (last : Option MmaRun) : JobM Plan := do
  match (← tryFail (oneChunk j)) with
  | .error f => pure { prog := some j.prog, word1 := word run j.prog, skips := j.skips, fail := some f }
  | .ok c =>
    let s ← get
    let p := j.prog + 1
    let rate := arrayRate j.opA.fmt j.opB.fmt
    let next := { run with prods := run.prods + c.prods }
    pure { writes := s.accWrites c.acc, prog := some p, word1 := word run p, exc := c.flags, rounded := c.rounded, skips := addBlocks j.skips c.skipped
           energy := 80 * (ceilDiv next.prods rate - ceilDiv run.prods rate)
           run := if p < ceilDiv j.mmaK 32 then some next else last }

/-- Word 1 of an `mma` (R315). -/
def mmaWord (run : MmaRun) (prog : Nat) : Word := BitVec.ofNat 64 (run.vcnt + 2 ^ 32 * prog)

/-- The blocks of A and B that an `mma` skips, and with VER = 1 the count of those that are stale (R316). -/
def mmaSkips (j : Job) : JobM (List (Nat × Nat × Nat) × Nat) := do
  let a ← zeroBlocks j 0 j.opA
  let b ← zeroBlocks j 1 j.opB
  if j.p 3 12 1 = 1 then
    let st ← (a ++ b).mapM (staleBlock j)
    pure (a ++ b, st.count true)
  else pure (a ++ b, 0)

/-- `mma` (R315, R316): the codes once, then a chunk in each step. -/
def planMma (j : Job) : JobM Plan := do
  match j.run with
  | some run => planChunk j run mmaWord none
  | none =>
    match (← tryFail (mmaSkips j)) with
    | .error f => pure { prog := some j.prog, word1 := mmaWord {} j.prog, skips := j.skips, fail := some f }
    | .ok (skips, vcnt) => planChunk { j with skips := skips } { vcnt := vcnt } mmaWord none

/-! ## Accumulator commands (R318) -/

def planZacc (_ : Job) : JobM Plan := do
  let s ← get
  pure { writes := [⟨[⟨s.accLoc 0, 16384⟩], List.replicate 16384 0⟩], energy := 80 }

def chunkCodes (bs : List Byte) (n : Nat) : List Nat := (List.range n).map fun i => leNat ((bs.drop (4 * i)).take 4)

def planLacc (j : Job) : JobM Plan := do
  let m := j.p 2 36 6 + 1
  let n := j.p 2 42 6 + 1
  let at_ := fun (i : Nat) => ((j.p 0 0 48 + i * j.p 0 48 16 * 16 : Nat) : Int)
  orSalvage (do
      let rows ← (List.range m).mapM fun (i : Nat) => jobRead j (at_ i) (4 * n)
      let s ← get
      pure { writes := s.accWrites (rows.map fun bs => chunkCodes bs n), energy := 80 })
    (do
      let s ← get
      pure ((List.range m).flatMap fun i => (List.range n).map fun (k : Nat) => do
        let bs ← jobRead j (at_ i + (4 * k : Nat)) 4
        pure ⟨[], ⟨[⟨s.accLoc i + 4 * k, 4⟩], bs⟩⟩))
    fun _ _ => []

/-- `emax` (Table 11.12). -/
def emaxOf (c : Nat) : Int :=
  if c = 3 then 15 else if c = 4 then 8 else if c = 5 then 4 else if c = 6 ∨ c = 7 ∨ c = 9 then 2 else if c = 8 then 6 else 0

/-- Exponent of the largest magnitude of finite values, none when all are zero (R319). -/
def topExp (xs : List FNum) : Option Int :=
  xs.foldl (fun best x => match x with
    | .fin _ m e => if m = 0 then best else
        let k : Int := (Nat.log2 m : Int) + e
        match best with
        | none => some k
        | some b => some (max b k)
    | _ => best) none

/-- How `sacc` and `qtile` write elements: format code, stochastic, SAT, seed. -/
structure Quant where
  dfmt : Nat
  sr : Bool
  sat : Bool
  seed : Nat

def Quant.elem (q : Quant) (sat : Bool) (i c : Nat) (x : FNum) : Written :=
  toCode x x.isSig (mxFmt q.dfmt) sat (if q.sr then 5 else 0) (if q.sr then stochBits q.seed i c else 0)

/-- An element written, and what it counts as. -/
def Quant.put (q : Quant) (sat : Bool) (i c : Nat) (x : FNum) : Written × Rounded :=
  let w := q.elem sat i c x
  (w, w.rounded (mxFmt q.dfmt) x.isNan)

/-- One block of a row (R319): its code and its elements. -/
def Quant.block (q : Quant) (i c0 : Nat) (xs : List FNum) : Nat × List (Written × Rounded) :=
  let zero : Written × Rounded := (⟨0, 0, false⟩, {})
  if xs.any fun x => x.isNan || x.isInf then (255, xs.map fun _ => zero)
  else
    match topExp xs with
    | none => (0, xs.map fun _ => zero)
    | some k =>
      let code := (min (max (k - emaxOf q.dfmt + 127) 1) 254).toNat
      (code, xs.zipIdx.map fun (x, t) => q.put true i (c0 + t) (x.shift (127 - (code : Int))))

/-- The blocks of a row. -/
def Quant.blocks (q : Quant) (i b : Nat) : Nat → Nat → List FNum → List (Nat × List (Written × Rounded))
  | 0, _, _ => []
  | n + 1, c0, xs => if xs.isEmpty then [] else q.block i c0 (xs.take b) :: Quant.blocks q i b n (c0 + b) (xs.drop b)

/-- Element codes packed in containers, unused lanes zero (R314, R318). -/
def packRow (f : Fmt) (cs : List Nat) : List Byte :=
  let n := rowBytes f cs.length
  leBytes n (cs.zipIdx.foldl (fun a (c, t) => a + c * 2 ^ (64 * (t / f.lanes) + f.container * (t % f.lanes))) 0)

/-- A row to be written: where its bytes and its codes go, its bytes, its codes, its flags, its events. -/
structure QRow where
  va : Nat
  codeVa : Nat
  bytes : List Byte
  codes : List Nat
  flags : Nat
  rounded : Rounded

/-- A row of elements, and with blocks (b ≠ 0) its codes (R318, R319). -/
def quantRow (q : Quant) (rows : Rows) (b sclo i : Nat) (xs : List FNum) : QRow :=
  let bl := if b = 0 then [] else q.blocks i b xs.length 0 xs
  let ws := if b = 0 then xs.zipIdx.map fun (x, t) => q.put q.sat i t x else bl.flatMap (·.2)
  ⟨rows.rowAddr i, spVa (sclo * 64 + i * bl.length), packRow rows.fmt (ws.map (·.1.code)), bl.map (·.1),
    ws.foldl (fun f x => orFlags f x.1.flags) 0, roundedAll (ws.map (·.2))⟩

def QRow.codeBytes (r : QRow) : List Byte := r.codes.map fun c => BitVec.ofNat 8 c

/-- A row written. -/
def QRow.write (j : Job) (r : QRow) : JobM (List PWrite) := do
  let w ← jobWrite j (r.va : Nat) r.bytes
  if r.codes.isEmpty then pure [w]
  else
    let c ← jobWrite j (r.codeVa : Nat) r.codeBytes false
    pure [w, c]

/-- What `sacc` and `qtile` write and report: ZB and NB (R318). -/
def quantPlan (j : Job) (rs : List QRow) : JobM Plan := do
  let ws ← rs.mapM (QRow.write j)
  let codes := rs.flatMap (·.codes)
  pure { writes := ws.flatten, word1 := BitVec.ofNat 64 (codes.count 0 + 2 ^ 32 * codes.count 255)
         exc := rs.foldl (fun f r => orFlags f r.flags) 0, rounded := roundedAll (rs.map (·.rounded)), energy := 80 }

def QRow.units (j : Job) (r : QRow) : List (JobM Moved) := byteUnits j (r.va : Nat) r.bytes ++ byteUnits j (r.codeVa : Nat) r.codeBytes false

def planSacc (j : Job) : JobM Plan := do
  let rows := j.saccRows
  let s ← get
  let q : Quant := ⟨j.p 1 32 4, j.p 1 36 1 == 1, j.p 1 37 1 == 1, j.p 1 0 32⟩
  let b := if j.p 1 38 1 = 1 then blockSize (j.p 1 39 3) else 0
  let rs := (s.accRows rows.rows rows.cols).zipIdx.map fun (r, i) => quantRow q rows b (j.p 2 0 11) i (r.map (elemValue fp32))
  orSalvage (quantPlan j rs) (pure (rs.flatMap (QRow.units j))) fun _ _ => []

def planQtile (j : Job) : JobM Plan := do
  let src := j.qtileIn
  let q : Quant := ⟨j.p 2 16 4, j.p 2 20 1 == 1, true, j.p 3 0 32⟩
  let row := fun (i : Nat) => do
    let xs ← rowElems j src.fmt (src.rowAddr i : Nat) 0 src.cols
    pure (quantRow q j.qtileOut (blockSize (j.p 2 11 3)) (j.p 2 0 11) i xs)
  orSalvage (do let rs ← (List.range src.rows).mapM row; quantPlan j rs)
    (do
      let s ← get
      pure ((List.range src.rows).flatMap fun i => match ((row i).run.run s).1 with
        | .ok r => r.units j
        | .error _ => []))
    fun _ _ => []

/-! ## Reuse (R331 to R335) -/

/-- Sub-block of an element (R327). -/
def subBlock (i k : Nat) : Nat := 4 * (i / 16) + k % 64 / 16

/-- m × 2^e / n, with a sticky bit far below any FP32 rounding. -/
def FNum.divNat (n : Nat) : FNum → FNum
  | .fin neg m e =>
    let x := m * 2 ^ 96
    .fin neg (2 * (x / n) + (if x % n = 0 then 0 else 1)) (e - 97)
  | x => x

def toFp32 (x : FNum) : Nat := (toCode x false fp32 false 0 0).code

def FNum.abs : FNum → FNum
  | .fin _ m e => .fin false m e
  | .inf _ => .inf false
  | x => x

def maxNum (a b : FNum) : FNum := if cmpNum a b < 0 then b else a

/-- MEAN and MAXA of a sub-block (R332): a NaN makes both NaN. -/
def digestOf (xs : List FNum) : Nat × Nat :=
  if xs.isEmpty then (0, 0)
  else if xs.any FNum.isNan then (fp32.nanCode, fp32.nanCode)
  else (toFp32 ((sumEx (term .zeroPos :: xs.map term) 0).v.divNat xs.length), toFp32 (xs.foldl (fun a x => maxNum a x.abs) .zeroPos))

/-- The digest pass (R331 phase 1, R332): the elements of A, by rows. -/
def digestPass (j : Job) : JobM (List (Nat × Nat)) := do
  let rows ← opRows j j.opA 0 j.mmaK
  let all := rows.zipIdx.flatMap fun (r, i) => r.vals.zipIdx.map fun (x, t) => (subBlock i t, x)
  pure ((List.range 16).map fun b => digestOf ((all.filter (·.1 = b)).map (·.2)))

/-- |a - b| of two FP32 codes, exactly; NaN where either is NaN or both are the same infinity. -/
def absDiff (a b : Nat) : FNum := (sumEx [term (elemValue fp32 a), term (elemValue fp32 b).negate] 0).v.abs

/-- The largest difference in BF16 toward +∞ (R335). -/
def maxDiff (ds : List FNum) : Nat :=
  if ds.any FNum.isNan then bf16.nanCode
  else (toCode (ds.foldl maxNum .zeroPos) false bf16 false 3 0).code

/-- The first sub-block whose difference is above a threshold, or sub-block 0 where the threshold is NaN. -/
def overThreshold (ds : List FNum) (t : FNum) : Option Nat :=
  if t.isNan then some 0 else ds.findIdx? fun d => decide (0 < cmpNum d t)

/-- The reuse test (R333). `ent` is the entry as read. -/
def reuseTest (j : Job) (ent : Nat) (dg : List (Nat × Nat)) : Tested :=
  let e := fun lo n => Sys2Proof.bits ent lo n
  let em := (List.range 16).map fun b => e (512 + 64 * b) 32
  let ex := (List.range 16).map fun b => e (544 + 64 * b) 32
  let dms := List.zipWith absDiff em (dg.map (·.1))
  let dxs := List.zipWith absDiff ex (dg.map (·.2))
  let d := (j.rq 112 16 + 2 ^ 16 - e 48 16) % 2 ^ 16
  let special := fun c => (elemValue fp32 c).isNan || (elemValue fp32 c).isInf
  if e 80 1 = 0 then { why := 1 }
  else if e 0 32 ≠ j.rq 64 32 ∨ e 32 16 ≠ j.rq 96 16 then { why := 2 }
  else if e 81 6 ≠ j.mmaM - 1 ∨ e 87 6 ≠ j.mmaN - 1 ∨ e 128 48 ≠ j.rq 192 48 ∨ e 176 16 ≠ j.rq 240 16 then { why := 3 }
  else
    let r : Tested := { why := 0, dm := maxDiff dms, dx := maxDiff dxs }
    if d = 0 ∨ e 64 16 < d then { r with why := 4 }
    else
      match (List.range 16).find? fun b => special (em.getD b 0) || special (ex.getD b 0) || special (dg.getD b (0, 0)).1 || special (dg.getD b (0, 0)).2 with
      | some b => { why := 5, sb := b }
      | none =>
        match overThreshold dms (elemValue fp32 (j.rq 128 32)), overThreshold dxs (elemValue fp32 (j.rq 160 32)) with
        | some b, _ => { r with why := 6, sb := b }
        | none, some b => { r with why := 7, sb := b }
        | none, none => r

/-- The writes of a group of the update (R334), as addresses and bytes; reserved bits are written as zero (R327). -/
def updateGroup (j : Job) (run : MmaRun) (acc : List (List Nat)) (group : Nat) : List (Nat × List Byte) :=
  let ea := j.rq 0 48
  let digest := run.digest.zipIdx.foldl (fun a ((m, x), b) => a + m * 2 ^ (64 * b) + x * 2 ^ (64 * b + 32)) 0
  if group = 0 then [(ea + 8, leBytes 8 (Sys2Proof.bits run.entry 64 16 + 2 ^ 17 * Sys2Proof.bits run.entry 81 12))]
  else if group = 1 then
    (acc.zipIdx.map fun (r, i) => (j.rq 192 48 + i * j.rq 240 16 * 16, r.flatMap fun c => leBytes 4 c))
      ++ [(ea, leBytes 8 (j.rq 64 64)), (ea + 16, leBytes 176 (j.rq 192 64 + 2 ^ 384 * digest))]
  else [(ea + 8, leBytes 8 (j.rq 256 16 + 2 ^ 16 + 2 ^ 17 * (j.mmaM - 1) + 2 ^ 23 * (j.mmaN - 1)))]

/-- Word 1 of an `mmar` (Table 12.5). -/
def reuseWord (run : MmaRun) (prog : Nat) : Word :=
  let t := run.tested
  BitVec.ofNat 64 (t.dm + 2 ^ 16 * t.dx + 2 ^ 32 * prog + 2 ^ 48 * t.why + 2 ^ 52 * t.sb)

/-- What is left of an `mmar` as its phases set it out: PROG, word 1, the blocks skipped. -/
def reuseBase (j : Job) (run : MmaRun) : Plan := { prog := some j.prog, word1 := reuseWord run j.prog, skips := j.skips }

/-- A group of the update; what of it is written where an access fails is free (R305, Table 12.6). -/
def planUpdate (j : Job) (run : MmaRun) (group : Fin 3) : JobM Plan := do
  let s ← get
  let g := updateGroup j run (s.accRows j.mmaM j.mmaN) group.val
  let base := reuseBase j run
  let p ← orSalvage (do
      let ws ← g.mapM fun w => jobWrite j (w.1 : Nat) w.2 false
      pure { base with writes := ws, run := if group = 2 then none else some { run with phase := .update (group + 1) } })
    (pure (g.flatMap fun w => byteUnits j (w.1 : Nat) w.2 false)) fun _ _ => []
  pure { p with prog := base.prog, word1 := base.word1, skips := base.skips }

/-- A hit without SIG: the whole stored tile, then the accumulators (R331 phase 3). -/
def planHit (j : Job) (run : MmaRun) : JobM Plan := do
  let base := reuseBase j run
  let tile := (List.range j.mmaM).mapM fun (i : Nat) => jobRead j ((j.rq 192 48 + i * j.rq 240 16 * 16 : Nat) : Int) (4 * j.mmaN) false
  match (← tryFail tile) with
  | .error f => pure { base with fail := some f }
  | .ok rows =>
    let s ← get
    pure { base with writes := s.accWrites (rows.map fun bs => chunkCodes bs j.mmaN), status := 2 }

/-- Phases 1 and 2 (R331): the entry, the digest, the test, and what comes next; on resumption there is no test (Table 12.6). -/
def planDigest (j : Job) : JobM Plan := do
  let first := do
    let ent ← jobRead j (j.rq 0 48 : Nat) 192 false
    let dg ← digestPass j
    pure (leNat ent, dg)
  match (← tryFail first) with
  | .error f => pure { reuseBase j { tested := { why := if j.prog = 0 then 0 else 8 } } with fail := some f }
  | .ok (ent, dg) =>
    let t : Tested := if j.prog = 0 then reuseTest j ent dg else { why := 8 }
    let run : MmaRun := { entry := ent, digest := dg, tested := t }
    let base := reuseBase j run
    if t.why = 0 then pure (if j.rq 49 1 = 1 then { base with status := 2 } else { base with run := some { run with phase := .hit } })
    else if j.prog < ceilDiv j.mmaK 32 then pure { base with run := some run }
    else pure { base with run := some { run with phase := .update 0 } }

/-- `mmar` (R331): the phases, a chunk or a group of the update in each step. -/
def planMmar (j : Job) : JobM Plan :=
  match j.run with
  | none => planDigest j
  | some run =>
    match run.phase with
    | .chunk => planChunk j run reuseWord (if j.rq 48 1 = 1 then some { run with phase := .update 0 } else none)
    | .hit => planHit j run
    | .update g => planUpdate j run g

end Sys2Proof.Machine
end

