-- ==== Sys2Proof/Machine/Engines.lean ====
section
/-! DEFINITION. The Tumbler and the engines: acceptance (R286, R287), admission to the window (R296), the start of jobs (R297,
R310 to R312), the copy commands (R309), completion, failure and discard (R303 to R307), the stuck window (R298); semaphores and
`estat` (R300 to R302, R322 to R324). -/
namespace Sys2Proof.Machine

/-! ## Acceptance and admission -/

/-- The state with a core's cluster in focus is that of the core; jobs are named by their cluster's own numbers. -/
def Core.freeRing (c : Core) : List (Fin 16) := (List.finRange 16).filter fun i => c.ring[i.val] == .free

/-- A command queue slot is busy (R286). -/
def State.slotBusy (s : State) (eng : BitVec 1) (ix : BitVec 3) : Bool :=
  s.core.submitted.any (fun u => u.engine == eng && u.slotIx == ix)
    || s.cl.backlog.any fun j => j.core == some s.cid && j.engine == eng && j.slotIx == ix

/-- Where a command stands among those accepted in its cycle (R287): cores by number, copy before matrix, then Keyway by queue. -/
def Job.rank (j : Job) : Nat :=
  match j.kw with
  | some (q, _) => 16 + q
  | none => 2 * j.num + j.engine.toNat

/-- Commands of one thread: the later one happens after the earlier (R287). -/
def Job.sameThread (a b : Job) : Bool := a.core.isSome && a.core == b.core && a.uid == b.uid

/-- a, accepted after b, stands before b in the acceptance order (R287). -/
def Job.precedes (a b : Job) : Bool :=
  decide (a.accepted < b.accepted) || (a.accepted == b.accepted && decide (a.rank < b.rank) && !a.sameThread b)

/-- A command accepted: behind the last of those that it does not precede. -/
def enlist (j : Job) : List Job → List Job
  | [] => [j]
  | x :: r => if (x :: r).all j.precedes then j :: x :: r else x :: enlist j r

/-- COMMAND_ACCEPT (R286, R287): the core's oldest submission takes the lowest free ring entry, and its place in the acceptance
order by the cycle of its submission. -/
def execCommandAccept (s : State) : Out :=
  match s.core.submitted, s.core.freeRing with
  | u :: rest, r :: _ =>
    let loc := s.cqOf s.cid (512 * u.engine.toNat + 64 * u.slotIx.toNat)
    let j : Job :=
      { id := s.cl.jobNo, core := some s.cid, num := s.coreNo s.cid, slot := u.slot, uid := u.uid, engine := u.engine
        slotIx := u.slotIx, ring := BitVec.ofNat 4 r.val, rcd := BitVec.ofNat 512 (s.read loc 64), ctx := u.ctx, user := u.user
        gmem := u.gmem, accepted := u.since }
    let s := s.modCore fun c => { c with submitted := rest, ring := c.ring.set r.val (.command u.engine u.slotIx u.slot j.id) }
    .next (s.modCl fun c => { c with backlog := enlist j c.backlog, jobNo := c.jobNo + 1 })
  | _, _ => .next s

def State.job (s : State) (id : Nat) : Option Job := s.cl.window.find? (·.id = id)
def State.setJob (s : State) (j : Job) : State :=
  s.modCl fun c => { c with window := c.window.map fun x => if x.id = j.id then j else x }

/-- Word 0 of the completion record (Table 11.8). -/
def Job.word0 (j : Job) : Nat :=
  j.status.toNat + 16 * j.typ + 256 * j.ring.toNat + 4096 * j.slot.val + 16384 * j.num + 2 ^ 24 * j.exc.toNat + 2 ^ 32 * j.skip.toNat

/-- The completion record waits for a bank that a slot holds (R226). -/
def State.recordHeld (s : State) (j : Job) : Bool :=
  j.cv && j.kw.isNone && s.bankHeld [⟨spLoc s.clid.die s.clid.clu (j.bits 48 13 * 16), 16⟩] none

/-- The completion record (R303). -/
def State.writeRecord (s : State) (j : Job) : State :=
  if j.cv && j.kw.isNone then
    let loc := spLoc s.clid.die s.clid.clu (j.bits 48 13 * 16)
    (s.writeBytes loc (leBytes 16 (j.word0 + 2 ^ 64 * j.word1.toNat))).fire loc 16
  else s

/-- A job leaves the window (R304): its edges are met and its ring entry is free. -/
def State.leave (s : State) (j : Job) : State :=
  let s := s.modCl fun c => { c with window := c.window.filter (·.id ≠ j.id), got := c.got.filter (·.1 ≠ j.id), stuck := false }
  match j.core with
  | some c => s.modCoreAt c fun k => { k with ring := k.ring.set j.ring.toNat .free }
  | none => s

/-- A command of Keyway whose job fails halts its queue (Table 19.9, ERR 7). -/
def State.haltKw (s : State) (q : Nat) (ix : BitVec 32) (acause : BitVec 8) : State :=
  (s.modQueue q fun x => { x with acause := acause }).haltQueue q 7 ix false

/-- The failure or rejection of a job (R305): the record, and a late engine trap in the submitting slot; a command of Keyway is
discarded as it fails and halts its queue (R441). -/
def State.failJob (s : State) (j : Job) (st : JobState) : State :=
  let j := { j with st := st, status := if st = JobState.rejected then 5 else 4 }
  match j.core, j.kw with
  | _, some (q, ix) => ((s.leave j).completeCmd q ix false).haltKw q ix j.acause
  | some c, none =>
    let s := (s.setJob j).writeRecord j
    s.engineTrap c j.slot j.uid j.ctx (BitVec.ofNat 64 (j.ring.toNat + 16 * j.engine.toNat + 256 * j.acause.toNat)) (BitVec.ofNat 64 j.word0)
  | none, none => s

def State.clockOf (s : State) : Nat := s.clkOf s.clid.die

/-- Nothing that stands before an accepted command can still be accepted: its cycle is over, and no submission of that cycle or an
earlier one waits (R287). -/
def State.ordered (s : State) (j : Job) : Bool :=
  decide (j.accepted < s.clockOf) && (s.coresOf s.clid).all fun c => (s.coreAt c).submitted.all fun u => decide (j.accepted < u.since)

/-- TUMBLER_ADMIT (R296, R291, R295): the first command in acceptance order enters the window, with its ranges and edges. -/
def execTumblerAdmit (s : State) : Out :=
  match s.cl.backlog with
  | [] => .next s
  | j :: rest =>
    let j' := s.admission j
    if 32 ≤ s.cl.window.length ∨ s.ordered j = false ∨ (j'.st = .rejected ∧ s.recordHeld j' = true) then .next s
    else
      let j := j'
      let j := { j with edges := if j.st = .rejected then [] else (s.cl.window.filter fun x => x.conflicts j).map (·.id) }
      let s := s.modCl fun c => { c with backlog := rest, window := c.window ++ [j], fullSince := s.clockOf }
      .next (if j.st = .rejected then s.failJob j .rejected else s)

/-! ## Starting (R297) -/

/-- Semaphore value v meets threshold t (R302). -/
def semMeets (v t : BitVec 16) : Bool := decide ((v - t).toNat < 2 ^ 15)
def State.sem (s : State) (n : Nat) : BitVec 16 := s.cl.sems[n % 256]'(Nat.mod_lt _ (by decide))

def JobState.blocks : JobState → Bool
  | .waiting | .failing | .failed | .rejected => true
  | _ => false

/-- The jobs of the window accepted before a job: the window is in acceptance order (R296). -/
def State.earlier (s : State) (j : Job) : List Job := s.cl.window.takeWhile (·.id ≠ j.id)

/-- The window's edges, the wait and the queue let a job start (R297 1 to 3, R307). -/
def State.startable (s : State) (j : Job) : Bool :=
  j.st == .waiting && !s.cl.frozen && !(s.cl.window.any fun x => j.edges.elem x.id)
    && (!j.wv || j.kw.isSome || semMeets (s.sem (j.bits 8 8)) (BitVec.ofNat 16 (j.bits 16 16)))
    && !((s.earlier j).any fun x => x.sameQueue j && x.st.blocks)

def JobState.active : JobState → Bool
  | .running | .done | .failing => true
  | _ => false

/-- The copy engine takes a job: fewer than 4 run, and no older one can start (R297, R310). -/
def State.copyReady (s : State) (j : Job) : Bool :=
  decide (s.cl.window.countP (fun x => x.engine == 0 && x.st.active) < 4)
    && !((s.earlier j).any fun x => x.engine == 0 && s.startable x)

def State.weight (s : State) (n : Nat) : Nat := (s.cl.weights[n % 8]'(Nat.mod_lt _ (by decide))).toNat
def passOf (p : Vector (BitVec 32) 8) (n : Nat) : BitVec 32 := p[n % 8]'(Nat.mod_lt _ (by decide))

/-- PASS after candidates that were not candidates at the previous opening are raised (R312). -/
def State.raised (s : State) (cands : List Nat) : Vector (BitVec 32) 8 :=
  let stay := cands.filter s.cl.lastCands.elem
  match stay.map fun n => (passOf s.cl.pass n).toNat with
  | [] => s.cl.pass
  | p :: ps =>
    let low := ps.foldl Nat.min p
    Vector.ofFn fun i : Fin 8 =>
      let v := s.cl.pass[i.val]
      if cands.elem i.val && !stay.elem i.val && decide (v.toNat < low) then BitVec.ofNat 32 low else v

/-- The candidate with the lowest PASS among those with a weight, or the lowest core (R312). -/
def State.pickQueue (s : State) (pass : Vector (BitVec 32) 8) (cands : List Nat) : Option Nat :=
  let some_ := cands.filter fun n => s.weight n != 0
  (if some_.isEmpty then cands else some_).foldl (fun best n => match best with
    | none => some n
    | some b =>
      let a := (passOf pass n).toNat
      let c := (passOf pass b).toNat
      if some_.isEmpty then some (Nat.min n b) else if a < c ∨ (a = c ∧ n < b) then some n else some b) none

/-- What the array does with a job that could start (R311). -/
inductive ArrayGate where
  | wait | go (open_ solo : Bool) | reject
deriving DecidableEq, Repr

/-- The heads of matrix queues that can start (R311). -/
def State.cands (s : State) : List Nat := (s.cl.window.filter fun x => x.engine == 1 && s.startable x).map (·.num)

def State.arrayGate (s : State) (j : Job) : ArrayGate :=
  if s.cl.window.any fun x => x.engine == 1 && x.st.active then .wait
  else
    match s.cl.bound with
    | some b => if b = j.num then .go false false else .wait
    | none =>
      if s.pickQueue (s.raised s.cands) s.cands ≠ some j.num then .wait
      else if j.typ = 8 ∨ j.typ = 9 then .go true false
      else if j.typ = 13 then .go false true
      else .reject

/-- The array opens an epoch or runs a `qtile` alone (R311, R312). -/
def State.openEpoch (s : State) (j : Job) (bind : Bool) : State :=
  s.modCl fun c => { c with pass := s.raised s.cands, lastCands := s.cands, bound := if bind then some j.num else c.bound
                            boundAt := if bind then s.clockOf else c.boundAt }

/-- An epoch of a queue ends after c cycles (R312). -/
def State.endEpoch (s : State) (n cycles : Nat) : State :=
  if s.weight n = 0 then s
  else s.modCl fun c => { c with pass := c.pass.set (n % 8) (passOf c.pass n + BitVec.ofNat 32 (16 * cycles / s.weight n)) (Nat.mod_lt _ (by decide)) }

/-! ## Copy commands (R309, R310) -/

/-- Full/empty actions on the words of the destination that are written whole (R310). -/
def femActs (fem : Nat) (ws : List PWrite) : List (Nat × Bool) :=
  if fem = 2 ∨ fem = 3 then (wholeWords (ws.flatMap (·.parts))).map fun w => (w, fem == 2) else []

/-- FEM 1: the bits of the source words for a row of whole words. -/
def State.femCopy (s : State) (src dst : List Part) : List (Nat × Bool) :=
  let words := fun (ps : List Part) => ps.flatMap fun p => wordsOf p.loc p.len
  List.zipWith (fun a b => (b, s.isFull a)) (words src) (words dst)

/-- n bytes moved. -/
def moveRange (j : Job) (src dst : Int) (n : Nat) : JobM Moved := do
  let (ps, bs) ← jobFetch j src n
  let w ← jobWrite j dst bs
  pure ⟨ps, w⟩

/-- What FEM does to the words that moves write whole (R310). -/
def State.femMoves (s : State) (fem : Nat) (ms : List Moved) : List (Nat × Bool) :=
  femActs fem (ms.map (·.put)) ++ if fem = 1 then ms.flatMap fun m => s.femCopy m.src m.put.parts else []

/-- `copy1d` and `copy2d`. -/
def planMoves (j : Job) : JobM Plan :=
  let (rows, n) := j.moves
  let u := if j.fem = 1 then 8 else 1
  orSalvage (do
      let ms ← rows.mapM fun (r : Int × Int) => moveRange j r.1 r.2 n
      let ws ← settleMoves true ms
      let s ← get
      pure { writes := ws, fe := s.femMoves j.fem ms, energy := 4 * ceilDiv (rows.length * n) 64 })
    (pure (rows.flatMap fun r => (List.range (n / u)).map fun i => moveRange j (r.1 + u * i) (r.2 + u * i) u))
    fun s ms => s.femMoves j.fem ms

/-- `gather` and `scatter`. -/
def planElems (j : Job) : JobM Plan := do
  let n := 2 ^ j.p 3 24 3
  let w := 2 ^ (2 + j.p 0 51 1)
  let cnt := j.p 3 0 24
  let elem := fun (i : Nat) => do
    let x ← jobRead j ((j.p 2 0 48 + i * w : Nat) : Int) w false
    let far : Int := (j.p 0 0 48 + leNat x * 2 ^ j.p 0 48 3 : Nat)
    let near : Int := (j.p 1 0 48 + i * n : Nat)
    moveRange j (if j.typ = 3 then far else near) (if j.typ = 3 then near else far) n
  orSalvage (do
      let ms ← (List.range cnt).mapM elem
      let ws ← settleMoves (decide (j.typ = 3)) ms
      pure { writes := ws, energy := 4 * ceilDiv (cnt * n) 64 })
    (pure ((List.range cnt).map elem)) fun _ _ => []

/-- `fill`. -/
def planFill (j : Job) : JobM Plan := do
  let n := j.p 1 0 24
  if n = 0 then pure {}
  else
    let dst := j.p 0 0 48
    let bs := (List.range n).map fun i => BitVec.ofNat 8 (j.p 2 (8 * ((dst + i) % 8)) 8)
    orSalvage (do
        let w ← jobWrite j (dst : Nat) bs
        pure { writes := [w], fe := femActs j.fem [w], energy := 4 * ceilDiv n 64 })
      (pure (byteUnits j (dst : Nat) bs)) fun s ms => s.femMoves j.fem ms

/-- `notify`. -/
def planNotify (j : Job) : JobM Plan := do
  let w ← jobWrite j (j.p 0 0 48 : Nat) (leBytes 8 (j.p 1 0 64)) false
  pure { writes := [w], fe := if j.p 2 0 1 = 1 then w.parts.map fun p => (p.loc, true) else [], energy := 4 }

/-! ## Running a job -/

/-- A page that is not present is asked for (R401), credited to the submitting slot. -/
def State.jobPage (s : State) (j : Job) (page : Option Nat) : State :=
  match page, j.core with
  | some va, some c => s.pageIn c (some j.slot) none j.ctx va
  | some va, none => s.pageIn ⟨s.clid.die, s.clid.clu, 0⟩ none none j.ctx va
  | none, _ => s

/-- A running job is to fail with a cause; what walks gave it is dropped. -/
def State.failing (s : State) (j : Job) (acause : BitVec 8) (page : Option Nat) : State :=
  ((s.setJob { j with st := .failing, acause := acause, run := none }).modCl fun c => { c with got := c.got.filter (·.1 ≠ j.id) }).jobPage j page

/-- What a plan does to memory and the job (R305, R306, R310). -/
def State.applyPlan (s : State) (j : Job) (p : Plan) : State :=
  let s := s.applyWrites p.writes
  let s := p.fe.foldl (fun s f => s.feSet f.1 f.2) s
  let s := s.meter p.energy
  let j := match p.prog with
    | some n => { j.setProg n with asked := if p.fail.isSome then none else some (j.asked.getD (BitVec.ofNat 12 j.prog)) }
    | none => j
  let j := { j with status := p.status, word1 := p.word1, exc := j.exc ||| BitVec.ofNat 5 p.exc, skips := p.skips
                    skip := BitVec.ofNat 32 p.skips.length, run := p.run, rounded := j.rounded.add p.rounded }
  match p.fail with
  | none => s.setJob { j with st := if p.run.isSome then .running else .done }
  | some (a, page) => s.failing j a page

/-- A running job makes its plan and carries it out, or goes on waiting for translations (log 16). What walks gave it serves one such step:
later ones translate again (Table 17.10). -/
def State.runJob (s : State) (j : Job) (plan : Job → JobM Plan) : State :=
  match (plan j).run.run s with
  | (.ok p, s) => (s.applyPlan j p).modCl fun c => { c with got := c.got.filter (·.1 ≠ j.id) }
  | (.error (.fail a page), s) => s.failing j a page
  | (.error .wait, t) => t.metersOf s

/-- A job as it starts: what an `mma` or `mmar` that is resumed has gathered, it keeps (R316, R320, R337). -/
def Job.started (j : Job) (solo : Bool) (now : Nat) : Job :=
  let kept := j.typ = 11 ∨ j.typ = 12
  { j with st := .running, solo := solo, since := now, status := 0, word1 := 0, acause := 0, run := none, rounded := {}
           exc := if kept then j.exc else 0, skip := if kept then j.skip else 0, skips := if kept then j.skips else [] }

/-- The step of a job of one type: it starts if it may (R297), then runs. -/
def State.jobStep (s : State) (id typ : Nat) (plan : Job → JobM Plan) : Out :=
  match s.job id with
  | none => .next s
  | some j =>
    if j.typ ≠ typ ∨ s.cl.spent = true ∨ s.cl.fenced = true ∨ (s.cl.frozen = true ∧ j.st ≠ .running) then .next s
    else if j.st = .running then .next (s.runJob j plan)
    else if !s.startable j then .next s
    else
      let start := fun (s : State) (solo : Bool) =>
        let j := j.started solo s.clockOf
        ((s.setJob j).modCl fun c => { c with lastStart := s.clockOf, stuck := false }).runJob j plan
      if j.engine = 0 then .next (if s.copyReady j then start s false else s)
      else
        match s.arrayGate j with
        | .wait => .next s
        | .reject => .next (State.failJob (s.modCl fun c => { c with pass := s.raised s.cands }) { j with acause := 1 } .rejected)
        | .go bind solo => .next (start (if bind || solo then s.openEpoch j bind else s) solo)

/-- `copy1d` (R309). -/
def execCopy1d (job : Nat) (s : State) : Out := s.jobStep job 1 planMoves
/-- `copy2d` (R309). -/
def execCopy2d (job : Nat) (s : State) : Out := s.jobStep job 2 planMoves
/-- `gather` (R309). -/
def execGather (job : Nat) (s : State) : Out := s.jobStep job 3 planElems
/-- `scatter` (R309). -/
def execScatter (job : Nat) (s : State) : Out := s.jobStep job 4 planElems
/-- `fill` (R309). -/
def execFill (job : Nat) (s : State) : Out := s.jobStep job 5 planFill
/-- `notify` (R309). -/
def execNotify (job : Nat) (s : State) : Out := s.jobStep job 6 planNotify
/-- `zacc` (R318). -/
def execZacc (job : Nat) (s : State) : Out := s.jobStep job 8 planZacc
/-- `lacc` (R318). -/
def execLacc (job : Nat) (s : State) : Out := s.jobStep job 9 planLacc
/-- `sacc` (R318). -/
def execSacc (job : Nat) (s : State) : Out := s.jobStep job 10 planSacc
/-- `mma` (R315). -/
def execMma (job : Nat) (s : State) : Out := s.jobStep job 11 planMma
/-- `mmar` (R331). -/
def execMmar (job : Nat) (s : State) : Out := s.jobStep job 12 planMmar
/-- `qtile` (R319). -/
def execQtile (job : Nat) (s : State) : Out := s.jobStep job 13 planQtile

/-! ## Semaphores (R300 to R302, R323) -/

/-- A `semwait` whose wait is met completes in its slot (R323). -/
def State.semWake (s : State) (w : SemWaiter) (v : BitVec 16) : State :=
  s.modCoreAt w.at_ fun c => (if w.sc = 0 then c else c.orderPoint w.slot).modTh w.slot fun t => (t.setG w.d (v.setWidth 64)).complete

def State.signalFuel : Nat → Nat → State → State
  | 0, _, s => s
  | n + 1, sem, s =>
    let v := s.sem sem
    match s.cl.semWait.find? fun w => w.sem == sem && semMeets v w.thr with
    | some w => State.signalFuel n sem ((s.modCl fun c => { c with semWait := c.semWait.erase w }).semWake w v)
    | none => s

/-- A signal: the value advances, and the waiters are tested in order (R300, R323). -/
def State.signal (s : State) (sem : Nat) (inc : BitVec 16) : State :=
  let s := s.modCl fun c => { c with sems := c.sems.set (sem % 256) (s.sem sem + inc) (Nat.mod_lt _ (by decide)) }
  State.signalFuel s.cl.semWait.length (sem % 256) s

/-! ## Completion, failure, discard -/

/-- JOB_COMPLETE (R303, R301, R311): events (R96), the record, the signal; a discarded job writes STATUS 3 and gives no signal. -/
def execJobComplete (job : Nat) (s : State) : Out :=
  match s.job job with
  | none => .next s
  | some j =>
    if s.recordHeld j then .next s
    else if j.st = .discarded then
      let j := { j with status := 3 }
      .next ((s.writeRecord j).leave j)
    else if j.st ≠ .done then .next s
    else
      let s := match j.core with
        | some c => s.modCoreAt c fun k =>
            ((((k.count 0x10 (some j.slot) j.rounded.nan).count 0x11 (some j.slot) j.rounded.ovf).count 0x12 (some j.slot) j.rounded.unf).count
              0x14 (some j.slot) j.skip.toNat).count 0x15 (some j.slot) (if j.status = 2 then 1 else 0)
        | none => s
      let s := s.writeRecord j
      let s := if j.typ = 10 ∧ j.p 1 42 1 = 1 ∧ s.cl.bound = some j.num then
          (s.modCl fun c => { c with bound := none }).endEpoch j.num (s.clockOf - s.cl.boundAt)
        else if j.solo then s.endEpoch j.num (s.clockOf - j.since) else s
      let s := s.leave j
      let s := match j.kw with
        | some (q, ix) => s.completeCmd q ix true
        | none => s
      .next (if j.sv && j.kw.isNone then s.signal (j.bits 32 8) (BitVec.ofNat 16 (j.bits 40 8)) else s)

/-- JOB_FAIL (R305). -/
def execJobFail (job : Nat) (s : State) : Out :=
  match s.job job with
  | none => .next s
  | some j => .next (if j.st = .failing && !s.recordHeld j then State.failJob s j .failed else s)

/-- The engine would take a job of the window (R297 4). -/
def State.engineTakes (s : State) (j : Job) : Bool := if j.engine = 0 then s.copyReady j else s.arrayGate j != .wait

/-- TUMBLER_STUCK (R298): a full window none of whose jobs can start, full for 65,536 cycles in which none has started. -/
def execTumblerStuck (s : State) : Out :=
  .next (if s.cl.window.length = 32 ∧ s.cl.window.all (fun j => !(s.startable j && s.engineTakes j))
      ∧ 65536 ≤ s.clockOf - Nat.max s.cl.lastStart s.cl.fullSince then
    s.modCl fun c => { c with stuck := true } else s)

/-! ## Semaphore instructions (R322, R323) -/

/-- Everything earlier of the slot that a release waits for has been performed: its buffer is empty. -/
def State.release_ (s : State) (sc : BitVec 3) (k : State → State) : State := if sc = 0 then k s else s.drained k

def State.semsigAt (s : State) (d a b : Reg) (sc : BitVec 3) : Out :=
  s.issue [d, a, b] fun s => s.release_ sc fun s =>
    let n := bits (s.g a).toNat 0 8
    let old := s.sem n
    (s.result d (old.setWidth 64)).signal n ((s.g b).setWidth 16)

def State.semwaitAt (s : State) (d a b : Reg) (sc : BitVec 3) : Out :=
  s.issue [d, a, b] fun s =>
    let n := bits (s.g a).toNat 0 8
    let t := (s.g b).setWidth 16
    let v := s.sem n
    if semMeets v t then (s.orderIf (sc != 0)).result d (v.setWidth 64)
    else
      (s.modCl fun c => { c with semWait := c.semWait ++ [⟨n, s.cid, s.cur, t, d, sc⟩] }).parkOn (.semaphore n)

/-- `semsig` (R323). -/
def execSemsig (o : SemR) (s : State) : Out := s.semsigAt o.d o.a o.b o.sc
/-- `semsig` (R323). -/
def execSemsigL2 (o : SemX) (s : State) : Out := s.semsigAt o.d o.a o.b o.sc
/-- `semwait` (R323). -/
def execSemwait (o : SemR) (s : State) : Out := s.semwaitAt o.d o.a o.b o.sc
/-- `semwait` (R323). -/
def execSemwaitL2 (o : SemX) (s : State) : Out := s.semwaitAt o.d o.a o.b o.sc

def State.semreadAt (s : State) (o : GG) : Out :=
  s.issue [o.d, o.a] fun s => s.result o.d ((s.sem (bits (s.g o.a).toNat 0 8)).setWidth 64)
/-- `semread` (R323). -/
def execSemread (o : GG) (s : State) : Out := s.semreadAt o
/-- `semread` (R323). -/
def execSemreadL2 (o : GG) (s : State) : Out := s.semreadAt o

/-! ## `estat` (R324, Table 11.15) -/

def State.anyJob (s : State) (id : Nat) : Option Job := (s.cl.window ++ s.cl.backlog).find? (·.id = id)
def State.ringAt (s : State) (e : Nat) : RingUse := s.core.ring[e % 16]'(Nat.mod_lt _ (by decide))

/-- `.st`. -/
def State.ringStatus (s : State) (e : Nat) : Nat :=
  match s.ringAt e with
  | .free => 0
  | .transfer slot _ => 1 + 4 + 16 * slot.val
  | .command eng ix slot id =>
    match s.anyJob id with
    | none => 0
    | some j =>
      (match j.st with
        | .failed => 2
        | .rejected => 3
        | _ => 1) + 8 * eng.toNat + 16 * slot.val + 64 * ix.toNat + 2 ^ 16 * j.acause.toNat + 2 ^ 32 * j.typ

/-- The record as software sees it: PROG changes only when the job fails (R306, R324). -/
def Job.shown (j : Job) : Job :=
  match j.asked with
  | some n => j.setProg n.toNat
  | none => j

/-- `.rec`: a word of the record with PROG as R306 leaves it; 0 for a free entry (log 80). -/
def State.ringRecord (s : State) (e k : Nat) : Nat :=
  match s.ringAt e with
  | .command _ _ _ id => match s.anyJob id with
    | some j => j.shown.bits (64 * k) 64
    | none => 0
  | _ => 0

/-- The submitting or issuing slot of an entry in use; a free one has none (log 80). -/
def State.ringSlot (s : State) (e : Nat) : Option (Fin 4) :=
  match s.ringAt e with
  | .free => none
  | .transfer slot _ => some slot
  | .command _ _ slot _ => some slot

/-- `.res` and `.del`: whether they act. -/
def State.ringAct (s : State) (e : Nat) (del : Bool) : Bool × State :=
  match s.ringAt e with
  | .command _ _ _ id => match s.anyJob id with
    | some j =>
      if del then
        if j.st = .failed ∨ j.st = .rejected then (true, s.setJob { j with st := .discarded }) else (false, s)
      else if j.st = .failed then (true, s.setJob { j with st := .waiting, acause := 0 }) else (false, s)
    | none => (false, s)
  | _ => (false, s)

def busyBits (p : Nat → Bool) : Nat := (List.range 8).foldl (fun a i => a + if p i then 2 ^ i else 0) 0

/-- `.win`. -/
def State.winStatus (s : State) : Nat :=
  s.cl.window.length + 256 * Nat.min s.cl.backlog.length 255
    + (match s.cl.bound with
      | some b => 2 ^ 16 * b + 2 ^ 19
      | none => 0) + (if s.cl.stuck then 2 ^ 20 else 0)

/-- `.q`. -/
def State.queueStatus (s : State) : Nat :=
  let busy := fun (e : BitVec 1) => busyBits fun i => s.slotBusy e (BitVec.ofNat 3 i)
  let halt := fun (e : BitVec 1) => s.cl.window.any fun j => j.core == some s.cid && j.engine == e && (j.st == .failed || j.st == .rejected)
  busy 0 + 256 * busy 1 + 2 ^ 16 * s.core.freeRing.length + (if halt 0 then 2 ^ 21 else 0) + (if halt 1 then 2 ^ 22 else 0)

def State.estatSt (s : State) (o : GG) : Out :=
  s.issue [o.d, o.a] fun s => s.result o.d (BitVec.ofNat 64 (s.ringStatus (bits (s.g o.a).toNat 0 4)))
def State.estatRec (s : State) (o : GG) : Out :=
  s.issue [o.d, o.a] fun s => s.result o.d (BitVec.ofNat 64 (s.ringRecord (bits (s.g o.a).toNat 0 4) (bits (s.g o.a).toNat 4 3)))
def State.estatAct (s : State) (o : GG) (del : Bool) : Out :=
  s.issue [o.d, o.a] fun s =>
    let e := bits (s.g o.a).toNat 0 4
    if !s.th.mode && (s.ringSlot e).any (· != s.cur) then s.privileged
    else
      let (b, s) := s.ringAct e del
      s.result o.d (if b then 1 else 0)

/-- `estat.st` (R324). -/
def execEstatSt (o : GG) (s : State) : Out := s.estatSt o
/-- `estat.st` (R324). -/
def execEstatStL2 (o : GG) (s : State) : Out := s.estatSt o
/-- `estat.rec` (R324). -/
def execEstatRec (o : GG) (s : State) : Out := s.estatRec o
/-- `estat.rec` (R324). -/
def execEstatRecL2 (o : GG) (s : State) : Out := s.estatRec o
/-- `estat.res` (R324). -/
def execEstatRes (o : GG) (s : State) : Out := s.estatAct o false
/-- `estat.res` (R324). -/
def execEstatResL2 (o : GG) (s : State) : Out := s.estatAct o false
/-- `estat.del` (R324). -/
def execEstatDel (o : GG) (s : State) : Out := s.estatAct o true
/-- `estat.del` (R324). -/
def execEstatDelL2 (o : GG) (s : State) : Out := s.estatAct o true

def State.estatSum (s : State) (d : Reg) (f : State → Nat) : Out := s.issue [d] fun s => s.result d (BitVec.ofNat 64 (f s))
/-- `estat.win` (R324). -/
def execEstatWin (o : GD) (s : State) : Out := s.estatSum o.d State.winStatus
/-- `estat.win` (R324). -/
def execEstatWinL2 (o : GD) (s : State) : Out := s.estatSum o.d State.winStatus
/-- `estat.q` (R324). -/
def execEstatQ (o : GD) (s : State) : Out := s.estatSum o.d State.queueStatus
/-- `estat.q` (R324). -/
def execEstatQL2 (o : GD) (s : State) : Out := s.estatSum o.d State.queueStatus

/-! ## The store buffer drains (R153, R284 to R286, R396) -/

/-- The bytes of an entry written at its word. -/
def State.putParts8 (s : State) (e : SbEntry) : State :=
  (List.range 8).foldl (fun s i =>
    let a := e.word + i
    let b := softByte a (Memory.byte s.mem a) (BitVec.ofNat 8 (e.data.toNat / 2 ^ (8 * i)))
    if e.mask.getLsbD i then { s with mem := Memory.setByte s.mem a b } else s) s

/-- A store to a command queue: it waits at a busy slot; one of all 8 bytes at byte 56 submits, and waits for a ring entry
(Table 11.1). -/
def State.drainCq (s : State) (e : SbEntry) : Option State :=
  let off := (e.word - cqBase) % 1024
  let eng := BitVec.ofNat 1 (off / 512)
  let ix := BitVec.ofNat 3 (off / 64)
  if s.slotBusy eng ix then none
  else
    let whole := off % 64 == 56 && e.mask == 255
    if whole && decide (s.core.freeRing.length ≤ s.core.submitted.length) then none
    else
      let s := s.putParts8 e
      let t := s.th
      some (if whole then s.modCore fun c => { c with submitted := c.submitted ++ [⟨s.cur, eng, ix, t.uid, t.ctx, !t.mode, t.gmem, s.clockOf⟩] } else s)

/-- The bytes that an entry writes. -/
def SbEntry.part (e : SbEntry) : Part :=
  ⟨e.word + ((List.range 8).find? fun i => e.mask.getLsbD i).getD 0, (List.range 8).countP fun i => e.mask.getLsbD i⟩

/-- An entry is performed at its location; a store of all 8 bytes ends a quarantine (R134). -/
def State.drainEntry (s : State) (e : SbEntry) : State :=
  let own := s.cid.ls 0 ≤ e.word ∧ e.word < s.cid.ls 0x4000
  let result := decide (own ∧ e.word - s.cid.ls 0 = 0x2C18) && e.mask == 255 && e.sys
  let s := s.putParts8 e
  let s := if e.mask = 255 then { s with badWords := s.badWords.filter (· ≠ e.word), quarantine := s.quarantine.filter (· ≠ e.word) } else s
  let s := s.wakeRange e.word 8
  let s := if e.fill then s.feSet e.word true else s
  if result then s.completeMiss s.cid e.data else s

/-- The oldest part of a store, with what comes behind it (R132). -/
def headPart : List SbEntry → List SbEntry × List SbEntry
  | [] => ([], [])
  | e :: r => if e.join then let (a, b) := headPart r; (e :: a, b) else ([e], r)

/-- The bytes that the entries of a part write, lowest first. -/
def partOf (es : List SbEntry) : List Part :=
  match es with
  | [] => []
  | e :: _ => [⟨e.part.loc, (es.map fun e => e.part.len).sum⟩]

/-- The entries of a part are performed, and metered, as one access; whether some of it was discarded (R134, R498): words of SRAM one by one, of other
memory all together. -/
def State.drainPart (s : State) (es : List SbEntry) : State × Bool :=
  let s := s.meterParts (partOf es)
  if es.all fun e => isSram e.word then
    es.foldl (fun (r : State × Bool) e => match r.1.refuses [e.part] with
      | some loc => (r.1.badWrite loc, true)
      | none => (r.1.drainEntry e, r.2)) (s, false)
  else
    match s.refuses (es.map SbEntry.part) with
    | some loc => (s.badWrite loc, true)
    | none => (es.foldl State.drainEntry s, false)

/-- A store some of which was discarded: its late trap once its last entry has gone (R134). -/
def State.storeLost (s : State) (e : SbEntry) : State :=
  s.modTh fun t =>
    if e.last then { t with async := t.async ++ [⟨7, 0, tinfoMem e.ea.toNat .store e.size⟩] }
    else
      match t.sb with
      | b :: r => { t with sb := { b with lost := true } :: r }
      | [] => t

/-- STORE_DRAIN (R153): in order, once the entries of a part have their data and their instruction has committed. A ring push that finds its
word full waits as a `stef` does (R161). -/
def execStoreDrain (slot : BitVec 2) (s : State) : Out :=
  let s := s.withSlot (slotOf slot)
  let (es, _) := headPart s.th.sb
  match es with
  | [] => .next s
  | e :: _ =>
    let pop := fun (s : State) => s.modCore fun c => c.popStores s.cur es.length
    if (s.th.status = .halted ∧ s.th.stopping = false) ∨ es.any (fun e => !(e.have_ && e.committed)) ∨ s.bankHeld (es.map fun e => ⟨e.word, 8⟩) (some (s.cid, s.cur)) then .next s
    else if isCq e.word then
      match s.drainCq e with
      | some s => .next (pop s)
      | none => .next s
    else if e.fill ∧ s.isFull e.word then
      if s.remoteFull e.word ∨ s.feWait.any (fun w => w.kind == 4 && w.at_ == s.cid && w.slot == s.cur) then .next s
      else .next { s with feWait := s.feWait ++ [(⟨e.word, s.cid, s.cur, 4, 0, e.data, e.ea, false⟩ : FeWaiter)] }
    else
      let (t, lost) := (pop s).drainPart es
      .next (if lost || es.any (·.lost) then t.storeLost (es.getLast?.getD e) else t)

end Sys2Proof.Machine
end

