-- ==== Sys2Proof/Machine/Launch.lean ====
section
/-! DEFINITION. Threads come and go: memberships (R275), the start of a thread (R375, R283), a slot that is emptied (R122, R226,
R417), `exit`. -/
namespace Sys2Proof.Machine

/-! ## Fields of the team record (Table 16.4) -/

def Team.spc (tm : Team) : Nat := tm.bits 48 2
/-- The team slot that class n is bound to. -/
def Team.cls (tm : Team) (n : Nat) : Option Nat :=
  if tm.bits (130 + 4 * n) 1 = 1 then some (tm.bits (128 + 4 * n) 2) else none
def Team.connected (tm : Team) (p : Nat) : Bool := tm.bits (144 + p) 1 == 1

def State.team (s : State) (id : Nat) : Option Team := s.teams.find? (·.id = id)
def State.setTeam (s : State) (tm : Team) : State :=
  { s with teams := s.teams.map fun x => if x.id = tm.id then tm else x }

/-! ## Start -/

/-- The memberships of a core's position, in ascending GID (R275, Table 1.16). -/
def State.memberships (s : State) (ctx : BitVec 4) (x y : Nat) : Vector Word 4 :=
  let at_ := fun (gid : Nat) => match s.groups.find? fun g => g.ctx == ctx && g.gid == gid with
    | some g => (g.members.findIdx? fun m => m.x == x && m.y == y).map fun i =>
        BitVec.ofNat 64 (gid + 2 ^ 8 + 2 ^ 12 * i + 2 ^ 32 * g.members.length)
    | none => none
  let l := (List.range 256).filterMap at_
  Vector.ofFn fun i : Fin 4 => l.getD i.val 0

/-- `LCID` (Table 1.14). -/
def Team.lcid (tm : Team) (x y : Nat) : Word :=
  BitVec.ofNat 64 ((y - tm.y0) * (4 * tm.wc) + (x - tm.x0) + 2 ^ 20 * x + 2 ^ 30 * y)

/-- The state of a thread as it is launched (R375), its registers given by `regs`. -/
def State.newThread (s : State) (tm : Team) (x y ts : Nat) (pc : BitVec 48) (regs : Thread → Thread) : Thread :=
  regs { status := .ready, pc := pc, ctx := tm.ctx, lcid := tm.lcid x y, teamNo := tm.no, gmem := s.memberships tm.ctx x y
         tdeleg := s.ctxs[tm.ctx.toNat].tpol, team := some tm.id, ts := BitVec.ofNat 2 ts, uid := s.uidNo }

/-- A core that a remapped position leads to keeps the logical cluster of the position (R471). -/
def State.attach (s : State) (c : CoreId) (ctx : BitVec 4) (x y : Nat) : State :=
  let e := s.read (s.ctxs[ctx.toNat].ctab + 4 * (1024 * y + x)) 4
  if bits e 1 1 = 0 then s
  else
    let v := ((s.route ctx (lcnOf x y)).2, x % 4 + 4 * (y % 2))
    let s : State := { s with remap := assocSet (s.remap.filter (·.2 ≠ v)) c v }
    let d := s.clusterOf s.cid
    if d = s.clid then s else { s with otherCls := assocDel (assocSet s.otherCls s.clid s.cl) d, clid := d, cl := s.clAt d }

/-- A thread takes a slot; a class bound to the slot and to no team is from now on bound for its team
(R266). The line cache is emptied (R454). -/
def State.occupy (s : State) (c : CoreId) (i : Fin 4) (t : Thread) : State :=
  (s.attach c t.ctx t.lx t.ly).modCoreAt c fun k =>
    { (k.setTh i t).dropLines with bind := k.bind.map fun b => b.map fun x => if x.slot = i ∧ x.team = none then { x with team := t.team } else x }

def State.startThread (s : State) (c : CoreId) (i : Fin 4) (tm : Team) (x y ts : Nat) (pc : BitVec 48) (regs : Thread → Thread) : State :=
  { s.occupy c i (s.newThread tm x y ts pc regs) with uidNo := s.uidNo + 1 }

/-! ## End -/

/-- The slot is emptied; walks that it asked for have no requester any more. -/
def State.vacate (s : State) (c : CoreId) (i : Fin 4) : State :=
  let s := s.unwait fun d j => d == c && j == i
  let mine := fun (r : Requester) => match r with
    | .thread j _ | .prefetch j _ | .stream j _ | .fside j => j == i
    | _ => false
  let s := s.modCoreAt c fun k =>
    { k.setTh i (if i.val = 3 then { mode := true, status := .sleeping } else {}) with
      sfuQ := k.sfuQ.filter (·.1 ≠ i)
      divider := match k.divider with
        | some d => if d.slot = i then none else some d
        | none => none
      ports := k.ports.set i.val ((k.ports[i.val]).map fun q => { q with taken := 0 })
      missQ := k.missQ.map fun r => if mine r.who then { r with who := .report } else r
      retry := k.retry.map fun r => if r.slot = i then { r with ahead := 0, rings := [] } else r }
  s.settle c i

/-- What the slot has issued still moves bytes (R271). -/
def State.transferring (s : State) : Bool := s.xfers.any fun x => x.uid == s.th.uid && (x.uid != 0 || (x.at_ == s.cid && x.slot == s.cur))

/-- `exit` (R122): once everything of the thread has been done, its read streams stop and its slot is Empty, or in slot 3
Sleeping. Held F entries of a handler go with it (log 94), and what it drops of its streams is counted (log 98). -/
def execExit (s : State) : Out :=
  s.issue [] fun s =>
    let div := match s.core.divider with
      | some d => d.slot == s.cur
      | none => false
    if s.th.rep.act || !s.th.fq.isEmpty || div || s.transferring || !s.th.sb.isEmpty then s.stall
    else
      let s := s.stopUnits [0, 1, 2]
      if s.cur.val = 3 then s.advance.modTh fun t => { t with status := .sleeping } else s.vacate s.cid s.cur

end Sys2Proof.Machine
end

