-- ==== Sys2Proof/Machine/Messages.lean ====
section
/-! DEFINITION. Messages (R252 to R259), neighbour queues and the light handler (R260 to R266), the firing and launch of mailboxes
(R282, R283). -/
namespace Sys2Proof.Machine

/-! ## Targets (R253, R369) -/

/-- Module route entry m of a context: its port, module and context there (R369); none where it names no route. -/
def State.modRoute (s : State) (ctx : BitVec 4) (m : Nat) : Option (Nat × Nat × Nat) :=
  let k := s.ctxs[ctx.toNat]
  if m = 0 ∨ k.mcnt.toNat < m then none
  else
    let e := s.read (k.mtab + 8 * (m - 1)) 8
    if bits e 0 1 = 1 then some (bits e 1 3, bits e 4 16, bits e 20 4) else none

/-- The route is usable (R445). -/
def State.usable (s : State) (r : Nat × Nat × Nat) : Bool :=
  let h := s.hinges[r.1 % 8]'(Nat.mod_lt _ (by decide))
  h.up && decide (h.rid.toNat = r.2.1)

/-- A target names a core, or a module route (R254 step 2). -/
def State.targetOk (s : State) (ctx : BitVec 4) (target : Nat) : Bool :=
  let m := bits target 20 8
  if m = 0 then s.placeOf ctx (bits target 0 10) (bits target 10 10) != .noCore else (s.modRoute ctx m).isSome

/-! ## Sending -/

/-- The word of a send: register d + i. -/
def Thread.sendWords (t : Thread) (d : Reg) (n : Nat) : List Word := (List.range n).map fun i => t.greg (d + BitVec.ofNat 6 i)

/-- Steps 1 to 4 of R254, and the stores that step 5 waits for. -/
def State.sendTo (s : State) (d : Reg) (cls nm1 : BitVec 2) (sc : BitVec 3) (target : Nat) : State :=
  let n := nm1.toNat + 1
  if 31 < d.toNat + nm1.toNat then s.illegal 4
  else if !s.targetOk s.th.ctx target then s.trapAt 5 0 0
  else if 8 ≤ s.core.retry.length then s.stall
  else
    let t := s.th
    let msg : Msg := ⟨BitVec.ofNat 10 t.lx, BitVec.ofNat 10 t.ly, 0, cls, t.sendWords d n⟩
    let own := fun (e : SbEntry) => match e.owner with
      | .fst r | .push r _ => some r
      | .store => none
    let e : RetryEntry :=
      { id := s.core.retryNo, slot := s.cur, ctx := t.ctx, target := BitVec.ofNat 64 (bits target 0 28), msg := msg, uid := t.uid
        ahead := if sc = 0 then 0 else t.sb.countP fun e => (own e).isNone
        rings := if sc = 0 then [] else t.sb.filterMap own ++ (t.fq.filter FEntry.fstWaits).map (·.ring) }
    (s.modCore fun c => { c with retry := c.retry ++ [e], retryNo := c.retryNo + 1 }).advance

/-- The registers that a send reads. -/
def sendRegs (d : Reg) (nm1 : BitVec 2) : List Reg := (List.range (nm1.toNat + 1)).map fun i => d + BitVec.ofNat 6 i

/-- `send` (R254). -/
def execSend (o : SendO) (s : State) : Out :=
  s.issue (o.a :: sendRegs o.d o.nm1) fun s => s.sendTo o.d o.cls o.nm1 o.sc (s.g o.a).toNat

/-- The target that `sendn` forms (R253). -/
def State.nearTarget (s : State) (dx dy : BitVec 10) : Nat :=
  let k := s.ctxs[s.th.ctx.toNat]
  let w : Int := k.twm1.toNat + 1
  let h : Int := k.thm1.toNat + 1
  ((s.th.lx + dx.toInt) % w).toNat + 2 ^ 10 * ((s.th.ly + dy.toInt) % h).toNat

/-- `sendn` (R253, R254). -/
def execSendn (o : SendnO) (s : State) : Out :=
  s.issue (sendRegs o.d o.nm1) fun s => s.sendTo o.d o.cls o.nm1 o.sc (s.nearTarget o.dx o.dy)

/-! ## Mailboxes fire (R282, R283) -/

/-- A message of a class is accepted: the TRIG 2 bindings of the class fire. -/
def Core.fireClass (k : Core) (cls : BitVec 2) : Core :=
  k.fireWhere fun b => if b.trig = 2 ∧ b.cls = cls then some (cls.setWidth 64) else none

/-- A thread of the team that was switched out of a slot of this core (Table 10.3, Table 18.6). -/
def State.outOf (s : State) (c : CoreId) (slot : Fin 4) (team : Option Nat) : Bool :=
  s.outs.any fun o => some o.team == team && o.slot == slot && (match s.placeOf o.ctx o.x o.y with
    | .core d => d == c
    | _ => false)

/-- The seat of a team at a core. -/
def Team.seatAt (tm : Team) (c : CoreId) (slot : Fin 4) : Option Seat :=
  match tm.seats.find? fun p => p.at_ == c && p.slot == slot with
  | some p => some p
  | none => tm.seats.find? fun p => p.at_ == c

/-- MAILBOX_LAUNCH (R283): the pending launch with the lowest index starts its handler in the Empty slot. -/
def execMailboxLaunch (slot : BitVec 2) (s : State) : Out :=
  let i := slotOf slot
  if (s.core.th i).status ≠ .empty ∨ s.core.fenced = true then .next s
  else
    let found := (List.finRange 4).findSome? fun n => match s.core.mail[n.val] with
      | some b => if b.slot = i ∧ b.pending ≠ [] ∧ s.outOf s.cid i b.team = false then some (n, b) else none
      | none => none
    match found with
    | none => .next s
    | some (n, b) =>
      match (b.team.bind s.team).filter fun tm => tm.st == .running && !tm.aborted with
      | none => .next s
      | some tm =>
        match tm.seatAt s.cid i with
        | none => .next s
        | some p =>
          let s := s.modCore fun c => { c with mail := c.mail.set n.val (some { b with pending := b.pending.drop 1 }) }
          .next (s.startThread s.cid i tm p.x p.y p.ts.toNat b.pc fun t =>
            ((t.setG 3 (b.pending.headD 0)).setG 4 (BitVec.ofNat 64 n.val)).setG 31 b.g31)

/-! ## Receiving (R256, R257) -/

/-- The header of a message (R257). -/
def Msg.header (m : Msg) : Word :=
  BitVec.ofNat 64 (m.srcX.toNat + 2 ^ 10 * m.srcY.toNat + 2 ^ 20 * m.srcMod.toNat + 2 ^ 28 * (m.words.length - 1)
    + 2 ^ 30 * m.cls.toNat + 2 ^ 63)

/-- The registers of a taken message. -/
def Thread.takeMsg (t : Thread) (d a : Reg) (m : Msg) : Thread :=
  ([0, 1, 2, 3].foldl (fun (t : Thread) i => t.setG (d + BitVec.ofNat 6 i) (m.words.getD i 0)) t).setG a m.header

def inboxOf (k : Core) (cls : BitVec 2) : List Msg := k.inbox[cls.toNat]
def Core.setInbox (k : Core) (cls : BitVec 2) (l : List Msg) : Core := { k with inbox := k.inbox.set cls.toNat l }

/-- A message enters an inbox; the oldest slot parked on the class takes the oldest message, and a sleeping bound slot wakes. -/
def Core.accept (k : Core) (bound : Fin 4) (m : Msg) : Core :=
  let k := (k.setInbox m.cls (inboxOf k m.cls ++ [m])).fireClass m.cls
  match k.recvWait.find? (·.cls = m.cls), inboxOf k m.cls with
  | some w, first :: rest =>
    let k := { k.setInbox m.cls rest with recvWait := k.recvWait.erase w }
    ((if w.acq then k.orderPoint w.slot else k).modTh w.slot fun t => (t.takeMsg w.d w.a first).complete).wakeSleeper bound
  | _, _ => k.wakeSleeper bound

/-- What an arrival becomes (Table 10.3). -/
inductive Arrival where
  | accepted (k : Core)
  | dead
  | nack

/-- Table 10.3 at the target core. -/
def State.arrival (s : State) (c : CoreId) (m : Msg) : Arrival :=
  let k := s.coreAt c
  match k.bind[m.cls.toNat] with
  | none => .dead
  | some b =>
    let t := k.th b.slot
    let out := s.outOf c b.slot b.team
    let boxed := k.mail.any fun x => match x with
      | some y => y.trig == 2 && y.cls == m.cls && y.team == b.team && b.team.isSome
      | none => false
    let full := decide (8 ≤ (inboxOf k m.cls).length)
    if k.dbg.halted then .nack
    else if t.status = .empty ∧ out = false ∧ boxed = true ∧ full = false then .accepted (k.accept b.slot m)
    else if t.status = .empty ∧ out = false ∧ boxed = false then .dead
    else if full || t.status == .halted || t.held.isSome || out then .nack
    else .accepted (k.accept b.slot m)

/-- MESSAGE_ARRIVAL (R256): the message is decided, and what was decided goes back to its sender. -/
def execMessageArrival (k : Nat) (s : State) : Out :=
  match s.msgFly[k]? with
  | none => .next s
  | some f =>
    let s' := { s with msgFly := s.msgFly.eraseIdx k }
    let back := fun (s : State) (nack dead : Bool) => match f.src with
      | some (c, e) => State.charge { s with ackFly := s.ackFly ++ [⟨c, e, nack, dead⟩] } (s.clusterOf f.dest) 1 |>.passCore f.dest c
      | none => s
    .next (match s.arrival f.dest f.msg with
      | .accepted k => back (s'.putCore f.dest k) false false
      | .dead => back s' false true
      | .nack => back s' true false)

/-- Is the class bound to the slot in focus? -/
def State.ownClass (s : State) (cls : BitVec 2) : Bool :=
  match s.core.bind[cls.toNat] with
  | some b => b.slot == s.cur
  | none => false

/-- `recv` and `recv.try` (R257). -/
def State.recvAt (s : State) (d a : Reg) (cls : BitVec 2) (sc : BitVec 3) (try_ : Bool) : Out :=
  s.issue (a :: [0, 1, 2, 3].map fun i => d + BitVec.ofNat 6 i) fun s =>
    if !s.th.mode && !s.ownClass cls then s.privileged
    else
      match inboxOf s.core cls with
      | m :: rest => (((s.modCore fun k => k.setInbox cls rest).orderIf (sc != 0)).modTh fun t => t.takeMsg d a m).advance
      | [] =>
        if try_ then s.result a 0
        else (s.modCore fun k => { k with recvWait := k.recvWait ++ [⟨cls, s.cur, d, a, sc != 0⟩] }).parkOn (.inbox cls.toNat)

/-- `recv` (R257). -/
def execRecv (o : RecvR) (s : State) : Out := s.recvAt o.d o.a o.cls o.sc false
/-- `recv` (R257). -/
def execRecvL2 (o : RecvX) (s : State) : Out := s.recvAt o.d o.a o.cls o.sc false
/-- `recv.try` (R257). -/
def execRecvTry (o : RecvR) (s : State) : Out := s.recvAt o.d o.a o.cls o.sc true
/-- `recv.try` (R257). -/
def execRecvTryL2 (o : RecvX) (s : State) : Out := s.recvAt o.d o.a o.cls o.sc true

/-- Table 10.4. DROP is the issuing slot's in either mode (log 81). -/
def State.mstatValue (s : State) (cls : BitVec 2) : Word :=
  BitVec.ofNat 64 ((inboxOf s.core cls).length + (match s.core.bind[cls.toNat] with
    | some b => 2 ^ 4 * b.slot.val + 2 ^ 6
    | none => 0) + 2 ^ 8 * s.core.retry.length + 2 ^ 16 * s.th.drop.toNat)

/-- `mstat` (R259). -/
def State.mstatAt (s : State) (o : GCls) (clr : Bool) : Out :=
  s.issue [o.d] fun s =>
    let v := s.mstatValue o.cls
    (if clr then s.modTh fun t => { t with drop := 0 } else s).result o.d v

/-- `mstat` (R259). -/
def execMstat (o : GCls) (s : State) : Out := s.mstatAt o false
/-- `mstat` (R259). -/
def execMstatL2 (o : GCls) (s : State) : Out := s.mstatAt o false
/-- `mstat.clr` (R259). -/
def execMstatClr (o : GCls) (s : State) : Out := s.mstatAt o true
/-- `mstat.clr` (R259). -/
def execMstatClrL2 (o : GCls) (s : State) : Out := s.mstatAt o true

/-! ## The network (R255, R256) -/

/-- DROP advances, up to its end (Table 10.3). -/
def dropOne (n : BitVec 16) : BitVec 16 := if n = 0xFFFF then n else n + 1

/-- An entry of a core is freed; a dead one counts in DROP of the thread that sent it, also when that is switched out (R259). -/
def State.freeEntry (s : State) (c : CoreId) (e : Nat) (dead : Bool) : State :=
  match (s.coreAt c).retry.find? (·.id = e) with
  | none => s
  | some r =>
    let s := s.modCoreAt c fun k =>
      let k := { k with retry := k.retry.filter (·.id ≠ e) }
      if dead && (k.th r.slot).uid == r.uid then k.modTh r.slot fun t => { t with drop := dropOne t.drop } else k
    if dead then { s with outs := s.outs.map fun o => if o.uid = r.uid then { o with drop := dropOne o.drop } else o } else s

/-- The entry waits as after its n-th NACK (R256). -/
def RetryEntry.backOff (r : RetryEntry) (now : Nat) : RetryEntry :=
  { r with inFlight := false, ready := false, nacks := r.nacks + 1, readyAt := now + Nat.min (64 * 2 ^ Nat.min r.nacks 8) 8192 }

def Core.backOff (k : Core) (id now : Nat) : Core :=
  { k with retry := k.retry.map fun e => if e.id = id then e.backOff now else e }

/-- Where the target of an entry leads now: a core of this module, or a position of a module's context (R253, R369). -/
def State.resolved (s : State) (r : RetryEntry) : Option CoreId × Option (Nat × Nat × Nat) :=
  let t := r.target.toNat
  if bits t 20 8 = 0 then
    match s.placeOf r.ctx (bits t 0 10) (bits t 10 10) with
    | .core c => (some c, none)
    | _ => (none, none)
  else (none, (s.modRoute r.ctx (bits t 20 8)).map fun m => (m.2.1, m.2.2, bits t 0 20))

/-- Two entries have one target core (R255): one target word of one context, or one place that both lead to. -/
def State.oneTarget (s : State) (a b : RetryEntry) : Bool :=
  (a.ctx == b.ctx && a.target == b.target) || (s.resolved a == s.resolved b && s.resolved a != (none, none))

/-- Of entries, oldest first, those that may be injected: ready, with no older one to the same core and class (R255). -/
def State.unheld (s : State) (older : List RetryEntry) : List RetryEntry → List RetryEntry
  | [] => []
  | r :: rest =>
    let held := older.any fun o => s.oneTarget o r && o.msg.cls == r.msg.cls
    let go := r.ready && !r.inFlight && r.ahead == 0 && r.rings.isEmpty && !held
    (if go then [r] else []) ++ s.unheld (older ++ [r]) rest

/-- The entry that the network interface injects: the lowest class, then the oldest (R255). -/
def State.nextInject (s : State) : Option RetryEntry :=
  (s.unheld [] s.core.retry).foldl (fun b r => match b with
    | none => some r
    | some x => if r.msg.cls.toNat < x.msg.cls.toNat then some r else some x) none

/-- MESSAGE_INJECT (R255, R256): the target is resolved and the message goes on its way. One to a module whose route is not
usable is refused at the sender (R445) and counts as dead. -/
def execMessageInject (s : State) : Out :=
  match s.nextInject with
  | none => .next s
  | some r =>
    let t := r.target.toNat
    let m := bits t 20 8
    let fly := fun (s : State) => (s.modCore fun k => { k with retry := k.retry.map fun e =>
      if e.id = r.id then { e with inFlight := true, ready := false } else e }).meter 1
    if m ≠ 0 then
      match s.modRoute r.ctx m with
      | some p =>
        if s.usable p then .next { fly s with modOut := s.modOut ++ [⟨BitVec.ofNat 3 p.1, r.ctx, (s.cid, r.id), r.msg, r.target⟩] }
        else .next (s.freeEntry s.cid r.id true)
      | none => .next (s.freeEntry s.cid r.id true)
    else
      match s.placeOf r.ctx (bits t 0 10) (bits t 10 10) with
      | .core c => .next { (fly s).passCore s.cid c with msgFly := s.msgFly ++ [⟨some (s.cid, r.id), c, r.ctx, r.msg⟩] }
      | .absent => .next (s.modCore fun k => k.backOff r.id (s.clkOf s.cid.die))
      | .noCore => .next (s.freeEntry s.cid r.id true)

/-- What comes back: of this module, or beyond it an input: of another module, alive, and beyond that, dead there. -/
def State.reply (s : State) (k : Nat) : Option (AckFly × State) :=
  match s.ackFly[k]? with
  | some a => some (a, { s with ackFly := s.ackFly.eraseIdx k })
  | none =>
    let j := k - s.ackFly.length
    let n := s.modOut.length
    match s.modOut[j % n]? with
    | some m => if j < 2 * n then some (⟨m.src.1, m.src.2, true, decide (n ≤ j)⟩, { s with modOut := s.modOut.eraseIdx (j % n) }) else none
    | none => none

/-- MESSAGE_ACK (R256): the entry is freed. -/
def execMessageAck (k : Nat) (s : State) : Out :=
  match s.reply k with
  | none => .next s
  | some (a, s') =>
    if a.nack ∧ k < s.ackFly.length then .next s else .next (s'.freeEntry a.dest a.entry a.dead)

/-- MESSAGE_NACK (R256): the entry backs off; the event of Table 22.2 is counted. -/
def execMessageNack (k : Nat) (s : State) : Out :=
  match s.reply k with
  | none => .next s
  | some (a, s') =>
    if !a.nack then .next s
    else .next (s'.modCoreAt a.dest fun c =>
      let slot := (c.retry.find? (·.id = a.entry)).map (·.slot)
      let c := c.backOff a.entry (s.clkOf a.dest.die)
      match slot with
      | some i => c.count 0x0A (some i) 1
      | none => c)

/-- MESSAGE_RETRY_READY (R256): the back-off of an entry of the core has elapsed. -/
def execMessageRetryReady (entry : Nat) (s : State) : Out :=
  let now := s.clkOf s.cid.die
  .next (s.modCore fun k => { k with retry := k.retry.map fun e =>
    if e.id = entry ∧ e.inFlight = false ∧ e.readyAt ≤ now then { e with ready := true } else e })

/-! ## Neighbour queues (R260 to R266) -/

/-- QUEUE_WORD_ARRIVAL (R261): words of a port arrive in order. -/
def execQueueWordArrival (k : Nat) (s : State) : Out :=
  match s.qFly[k]? with
  | none => .next s
  | some f =>
    if (s.qFly.take k).any fun g => g.dest == f.dest && g.slot == f.slot && g.port == f.port then .next s
    else
      .next (State.modCoreAt { s with qFly := s.qFly.eraseIdx k } f.dest fun c =>
        c.modPort f.slot f.port.val fun p => { p with words := p.words ++ [f.word] })

/-- A body instruction of an active repetition names a port as its destination; so may one that is still to be fetched again. -/
def Thread.replaysPort (t : Thread) (p : Nat) : Bool := t.rep.act && (t.body.isEmpty || t.body.any fun b => b.raw.dest == some (48 + p))

/-- An earlier F instruction that names the port as its destination has not committed (R262). -/
def Thread.writesPort (t : Thread) (p : Nat) : Bool := t.replaysPort p || t.fq.any fun e => e.portOut == some p

/-- `qend` (R262): a control value. A port that the team record does not connect takes the trap of R260 (log 24). -/
def execQend (o : QendO) (s : State) : Out :=
  s.issue [o.a] fun s =>
    let p := o.port.toNat
    if !(s.core.port s.cur p).con then s.illegal 4
    else if s.th.writesPort p || s.portSpace p == 0 then s.stall
    else (s.enqueue p ⟨s.g o.a, true⟩).advance

/-- Table 10.7. -/
def State.portStatus (s : State) (p : Nat) : Word :=
  let q := s.core.port s.cur p
  BitVec.ofNat 64 (q.words.length + (match q.words with
    | w :: _ => if w.ctl then 2 ^ 4 else 0
    | [] => 0) + 2 ^ 8 * s.portSpace p + 2 ^ 12 * q.con.toNat + 2 ^ 13 * q.ctld.toNat)

/-- `qctl.st` (R266). -/
def State.qctlStAt (s : State) (o : QctlO) : Out :=
  s.issue [o.d, o.a] fun s => if s.th.writesPort o.pc.toNat then s.stall else s.result o.d (s.portStatus o.pc.toNat)
/-- `qctl.clr` (R266): words that issued instructions take at their commit are theirs. -/
def State.qctlClrAt (s : State) (o : QctlO) : Out :=
  s.issue [o.d, o.a] fun s =>
    if s.th.writesPort o.pc.toNat then s.stall
    else
      let q := s.core.port s.cur o.pc.toNat
      (s.modCore fun c => c.setPort s.cur o.pc.toNat { q with words := q.words.take q.taken, ctld := false }).result o.d
        (BitVec.ofNat 64 (q.words.length - q.taken))
/-- `qctl.bind` (R266). -/
def State.qctlBindAt (s : State) (o : QctlO) : Out :=
  s.issueSystem [o.d, o.a] fun s =>
    let i := Fin.ofNat 4 (bits (s.g o.a).toNat 0 2)
    let old := match s.core.bind[o.pc.toNat] with
      | some b => b.slot.val + 4
      | none => 0
    let team := (s.core.th i).team
    (s.modCore fun c => { c with bind := c.bind.set o.pc.toNat (some ⟨i, team⟩) }).result o.d (BitVec.ofNat 64 old)

/-- `qctl.st` (R266). -/
def execQctlSt (o : QctlO) (s : State) : Out := s.qctlStAt o
/-- `qctl.st` (R266). -/
def execQctlStL2 (o : QctlO) (s : State) : Out := s.qctlStAt o
/-- `qctl.clr` (R266). -/
def execQctlClr (o : QctlO) (s : State) : Out := s.qctlClrAt o
/-- `qctl.clr` (R266). -/
def execQctlClrL2 (o : QctlO) (s : State) : Out := s.qctlClrAt o
/-- `qctl.bind` (R266). -/
def execQctlBind (o : QctlO) (s : State) : Out := s.qctlBindAt o
/-- `qctl.bind` (R266). -/
def execQctlBindL2 (o : QctlO) (s : State) : Out := s.qctlBindAt o

/-! ## The light handler (R263, R264) -/

/-- The lowest port with a control value that the entry at the queue head reads. -/
def State.controlPort (s : State) (e : FEntry) : Option Nat :=
  [0, 1, 2, 3].find? fun p => e.portsIn.elem p && (match (s.core.port s.cur p).head with
    | some w => w.ctl
    | none => false)

/-- Step 2 of R263 at a port: the control value leaves it. -/
def State.takeControl (s : State) (p : Nat) : State :=
  let q := s.core.port s.cur p
  let v := (q.head.map (·.data)).getD 0
  (s.modCore fun c => c.setPort s.cur p { q with words := q.words.eraseIdx q.taken }).modTh fun t =>
    { t with qval := v, qlinkPort := BitVec.ofNat 2 p }

/-- Steps 4 and 5 of R263, with the target that step 3 has found; a pause ends (log 93). -/
def State.enterLight (s : State) (p : Nat) (pc : BitVec 48) (l : Line) : State :=
  let s := s.takeControl p
  let back := s.th.pc
  let (h, s) := s.holdState
  s.modTh fun t => { t.goto pc l with lhHeld := some h, qlinkPc := back, lh := true }

/-- LIGHT_HANDLER_ENTRY (R263): older F instructions commit first; a flagged one traps instead. A bad handler address is a trap at
the instruction, and the control value stays in its port. A missing line is fetched while the slot goes on. -/
def execLightHandlerEntry (slot : BitVec 2) (s : State) : Out :=
  let s := s.withSlot (slotOf slot)
  let t := s.th
  if t.status = .empty ∨ t.status = .halted ∨ t.lh = true ∨ t.mustReturn = true ∨ s.core.lets s.cur = false then .next s
  else
    match (splitIssued t.fq).2 with
    | [] => .next s
    | e :: _ =>
      match s.controlPort e with
      | none => .next s
      | some p =>
        match s.arriveReg (t.qhpc.setWidth 64) with
        | (.wait, s) => .next ((s.lineArrives (lineAddr t.qhpc.toNat)).modTh fun x => { t with got := x.got })
        | (.trap c b ti, s) =>
          .next ((s.modTh fun t => { t with qval := ((s.core.port s.cur p).head.map (·.data)).getD 0, qlinkPort := BitVec.ofNat 2 p }).fTrap e c b ti)
        | (.go pc l, s) =>
          match s.commitIssued 32 with
          | (s, some older) => .next (if s.th.ie then s.enterTrap older else s.doubleTrap older)
          | (s, none) => .next (s.enterLight p pc l)

/-- `qret` (R264). -/
def execQret (s : State) : Out :=
  s.issue [] fun s =>
    if !s.th.lh then s.privileged
    else if !s.th.fq.isEmpty || s.th.rep.act then s.stall
    else
      match s.arriveReg (s.th.qlinkPc.setWidth 64) with
      | (.trap c b ti, s) => s.trapAt c b ti
      | (.wait, s) => s
      | (.go pc l, s) =>
        let h := s.th.lhHeld
        let s := s.modTh fun t => { t with lh := false, lhHeld := none }
        (match h with
          | some h => s.release h
          | none => s).modTh fun t => t.goto pc l

end Sys2Proof.Machine
end

