-- ==== Sys2Proof/Machine/Transfers.lean ====
section
/-! DEFINITION. One-sided transfers (R267 to R271), completion counters (R272, R273), mailbox bindings (R282). -/
namespace Sys2Proof.Machine

/-! ## Issue -/

/-- One side of a transfer as it is checked at issue: its address, its bytes, the spaces it may lie in, what it does there; `away`: it lies
in another module, whose route entries are not looked at here. -/
structure Side where
  addr : Nat
  len : Nat
  allow : Space → Bool
  kind : AccessKind
  away : Bool := false

/-- `TINFO` of Table 8.2 for an access whose SIZE the spec does not state (log 9). -/
def State.sizeless (s : State) (addr : Nat) (kind : AccessKind) : Word × State :=
  let (x, s) := s.free
  (tinfoMem addr kind (x.toNat % 5), s)

/-- Checks 2, 4 and 5 of Table 5.3 on the sides of a transfer, check by check: cause, subcode, the side that fails. -/
def State.sideFails (s : State) (l : List Side) : Option (BitVec 8 × BitVec 8 × Side) :=
  let n := fun (x : Side) => Nat.max x.len 1
  let window := fun (x : Side) =>
    let last := x.addr + n x - 1
    let bad := fun (a : Nat) => match s.windowLoc s.me a with
      | .none => true
      | _ => false
    if spaceOf x.addr ≠ spaceOf last then true
    else match spaceOf x.addr with
      | .paged => false
      | .peer => decide (x.addr / 2 ^ 17 ≠ last / 2 ^ 17) || (if x.away then bits x.addr 34 6 != 0 else bad x.addr)
      | _ => bad x.addr || bad last
  match l.find? fun x => decide (2 ^ 48 < x.addr + n x) with
  | some x => some (5, 0, x)
  | none =>
    match l.find? fun x => !x.allow (spaceOf x.addr) with
    | some x => some (1, 7, x)
    | none => (l.find? window).map fun x => (5, 0, x)

/-- Spaces of the two ends (R267). -/
def localEnd (x : Space) : Bool := x == .ls || x == .sp
def remoteEnd (x : Space) : Bool := x == .paged || x == .sp || x == .peer

/-- A transfer at its issue: the checks, a free ring entry, behind every buffered store (R267, R269, R270). On another module the
remote address is translated there. -/
def State.startTransfer (s : State) (x : Transfer) (sides : List Side) : State :=
  let remote := x.rmod ≠ 0
  match s.sideFails sides with
  | some (c, b, e) => let (ti, s) := s.sizeless e.addr e.kind; s.trapAt c b ti
  | none =>
    if remote ∧ (s.modRoute x.ctx x.rmod.toNat).isNone then
      let (ti, s) := s.sizeless x.rem.toNat (if x.put then .store else .load); s.trapAt 5 0 ti
    else
      match s.core.freeRing with
      | [] => s.stall
      | r :: more =>
        if more.length < s.core.submitted.length then s.stall
        else
          s.drained fun s =>
            let x := { x with id := s.xferNo, ring := BitVec.ofNat 4 r.val }
            let s := s.modCore fun c => { c with ring := c.ring.set r.val (.transfer x.slot x.id) }
            State.advance { s with xfers := s.xfers ++ [x], xferNo := s.xferNo + 1 }

/-- What every transfer of the thread in focus has. -/
def State.newTransfer (s : State) (put indexed : Bool) (loc rem : Word) (count : Word) (ctr : BitVec 4) (rmod : BitVec 8) : Transfer :=
  { id := 0, at_ := s.cid, slot := s.cur, uid := s.th.uid, ctx := s.th.ctx, user := !s.th.mode, put := put, indexed := indexed
    loc := loc.setWidth 48, rem := rem.setWidth 48, count := count.setWidth 24, ctr := ctr, rmod := rmod, ring := 0 }

/-- `get` and `put` (R267). -/
def State.rangeAt (s : State) (o : XferO) (put : Bool) : Out :=
  s.issue [o.d, o.a, o.b] fun s =>
    let n := bits (s.g o.b).toNat 0 24
    let here : Side := ⟨(s.g o.d).toNat, n, localEnd, if put then .load else .store, false⟩
    let there : Side := ⟨(s.g o.a).toNat, n, remoteEnd, if put then .store else .load, o.rmod != 0⟩
    s.startTransfer (s.newTransfer put false (s.g o.d) (s.g o.a) (s.g o.b) o.ctr o.rmod) [here, there]

/-- `getx` and `putx` (R268): the elements' remote addresses are checked at the far end, their base's space here. -/
def State.listAt (s : State) (o : XferI) (put : Bool) : Out :=
  s.issue [o.d, o.a, o.b, o.c] fun s =>
    let n := bits (s.g o.c).toNat 0 24
    let here : Side := ⟨(s.g o.d).toNat, n * 2 ^ o.esz.toNat, localEnd, if put then .load else .store, false⟩
    let there : Side := ⟨(s.g o.a).toNat, 1, remoteEnd, if put then .store else .load, o.rmod != 0⟩
    let list : Side := ⟨(s.g o.b).toNat, n * 2 ^ (2 + o.isz.toNat), localEnd, .load, false⟩
    s.startTransfer
      { s.newTransfer put true (s.g o.d) (s.g o.a) (s.g o.c) o.ctr o.rmod with
        idx := (s.g o.b).setWidth 48, esz := o.esz, ish := o.ish, isz := o.isz }
      [here, there, list]

/-- `get` (R267). -/
def execGet (o : XferO) (s : State) : Out := s.rangeAt o false
/-- `put` (R267). -/
def execPut (o : XferO) (s : State) : Out := s.rangeAt o true
/-- `getx` (R268). -/
def execGetx (o : XferI) (s : State) : Out := s.listAt o false
/-- `putx` (R268). -/
def execPutx (o : XferI) (s : State) : Out := s.listAt o true

/-! ## The moves (R269 to R271) -/

/-- The transfer as an accessor: translated in its context, in its mode (R392), through the serving cluster's TLB (R269), with
requests at the issuing core (R393). -/
def State.xferWho (s : State) (x : Transfer) : Who :=
  ⟨x.at_, s.clusterOf x.at_, x.ctx, x.user, BitVec.ofNat 2 x.slot.val, .transfer x.id,
    (s.xferGot.filter (·.1 = x.id)).map (·.2), false⟩

/-- The parts of an access of a transfer; an element of the remote end lies in a space of that end (R267). -/
def xferParts (x : Transfer) (va len : Nat) (remote wr : Bool) : JobM (List Part) := do
  let s ← get
  if 2 ^ 48 < va + len ∨ (if remote then !remoteEnd (spaceOf va) else !localEnd (spaceOf va)) then throw (.fail 5 none)
  let (f, s) := s.find (s.xferWho x) { w := wr } va len
  set s
  match f with
  | .parts ps => if s.bankHeld ps none then throw .wait else pure ps
  | .trap c b a => throw (.fail c (if c.toNat = 6 ∧ b.toNat = 1 then some a else none))
  | .absent _ | .miss => throw .wait

/-- The cluster whose copy engine serves a transfer; none, one of the other module's (R269). -/
def State.servedBy (s : State) (x : Transfer) : Option ClusterId :=
  if x.rmod ≠ 0 then none
  else if spaceOf x.rem.toNat = .peer then some (s.route x.ctx (bits x.rem.toNat 17 17)).2
  else some (s.clusterOf x.at_)

def xferFetch (x : Transfer) (va len : Nat) (remote : Bool) : JobM (List Part × List Byte) := do
  let ps ← xferParts x va len remote false
  let s ← get
  if (s.badPart ps).isSome then
    set (s.badReadParts ps)
    throw (.fail 7 none)
  set (s.meterFor 1 (s.servedBy x) ps)
  pure (ps, ps.flatMap fun p => Memory.bytes s.mem p.loc p.len)

def xferWrite (x : Transfer) (va : Nat) (bs : List Byte) (remote : Bool) : JobM PWrite := do
  let ps ← xferParts x va bs.length remote true
  let s ← get
  match s.refuses ps with
  | some loc => set (s.badWrite loc); throw (.fail 7 none)
  | none => pure ⟨ps, bs⟩

/-- Bytes that another module sends are an input: free values (log 9). -/
def foreignBytes : Nat → JobM (List Byte)
  | 0 => pure []
  | n + 1 => do
    let s ← get
    let (x, s) := s.free
    set s
    let r ← foreignBytes n
    pure (x.setWidth 8 :: r)

/-- One piece moves between a local and a remote address; of a move to another module nothing is written here. -/
def Transfer.move (x : Transfer) (here there len : Nat) : JobM Moved :=
  if x.put then do
    let (src, bs) ← xferFetch x here len false
    if x.rmod = 0 then do
      let w ← xferWrite x there bs true
      pure ⟨src, w⟩
    else pure ⟨src, ⟨[], []⟩⟩
  else if x.rmod = 0 then do
    let (src, bs) ← xferFetch x there len true
    let w ← xferWrite x here bs false
    pure ⟨src, w⟩
  else do
    let bs ← foreignBytes len
    let w ← xferWrite x here bs false
    pure ⟨[], w⟩

/-- Element i of `getx` and `putx` (R268). -/
def Transfer.elem (x : Transfer) (i : Nat) : JobM Moved := do
  let w := 2 ^ (2 + x.isz.toNat)
  let (_, k) ← xferFetch x (x.idx.toNat + i * w) w false
  x.move (x.loc.toNat + i * 2 ^ x.esz.toNat) (x.rem.toNat + leNat k * 2 ^ x.ish.toNat) (2 ^ x.esz.toNat)

/-- Everything that a transfer reads and writes; within the module the order of its moves is open (R268). -/
def Transfer.whole (x : Transfer) : JobM (List PWrite) := do
  let ms ← if x.indexed then (List.range x.count.toNat).mapM x.elem
    else if x.count = 0 then pure []
    else do
      let m ← x.move x.loc.toNat x.rem.toNat x.count.toNat
      pure [m]
  settleMoves (!x.indexed) ms

/-- What a transfer that stops has already written (R271): some of its units, bytes or elements, whose accesses can be made (log 36). -/
def Transfer.part (x : Transfer) : JobM (List PWrite) := do
  let ms ← salvage ((List.range x.count.toNat).map fun i => if x.indexed then x.elem i else x.move (x.loc.toNat + i) (x.rem.toNat + i) 1)
  settleMoves (!x.indexed) ms

/-- The plan of a transfer: what it writes, and the failure that stops it; a page that is not there is waited for. -/
def planTransfer (x : Transfer) : JobM (List PWrite × Option (BitVec 8)) := do
  match (← tryFail x.whole) with
  | .ok ws => pure (ws, none)
  | .error (c, some va) => throw (.fail c (some va))
  | .error (c, none) => do
    let ws ← x.part
    pure (ws, some c)

/-- The transfer of a ring entry of the core in focus. -/
def State.transferOf (s : State) (ring : BitVec 4) : Option Transfer :=
  match s.ringAt ring.toNat with
  | .transfer _ id => s.xfers.find? (·.id = id)
  | _ => none

def State.setTransfer (s : State) (x : Transfer) : State :=
  { s with xfers := s.xfers.map fun y => if y.id = x.id then x else y }

/-- A transfer ends: its ring entry is free, also where it has failed (log 80). -/
def State.endTransfer (s : State) (x : Transfer) : State :=
  State.modCoreAt { s with xfers := s.xfers.filter (·.id ≠ x.id), xferGot := s.xferGot.filter (·.1 ≠ x.id) } x.at_ fun k =>
    { k with ring := k.ring.set x.ring.toNat .free }

/-- The counter of the issuing thread advances, and a `cwait` on it tests again (R270, R273). -/
def State.bumpCounter (s : State) (x : Transfer) : State :=
  s.modCoreAt x.at_ fun k => k.modTh x.slot fun t =>
    if t.uid = x.uid ∧ t.status ≠ .empty then
      let t := { t with ctrs := t.ctrs.set x.ctr.toNat (t.ctrs[x.ctr.toNat] + 1) }
      if t.status = .parked ∧ t.park = .counter x.ctr.toNat then t.awake else t
    else t

/-- What a refusal by the other module leaves written here (R271). -/
def State.partly (s : State) (x : Transfer) : State :=
  match x.part.run.run s with
  | (.ok ws, s) => s.applyWritesFor (s.servedBy x) ws
  | (.error _, s) => s

/-- TRANSFER_COMPLETE (R269 to R271): the serving engine makes the accesses and counts the completion, unless it is the cluster's own and the
energy budget is spent (R388). It waits for translations and for a page that is not there (R404); another failure is recorded, and
TRANSFER_FAILURE stops the transfer. On a module route that is not usable the request is refused (R445); the cause of a refusal is not
stated, a free one of Table 8.1 (log 9). -/
def execTransferComplete (ring : BitVec 4) (s : State) : Out :=
  match s.transferOf ring with
  | none => .next s
  | some x =>
    if x.waiting ∨ x.fail.isSome ∨ (s.servedBy x = some (s.clusterOf x.at_) ∧ (s.clAt (s.clusterOf x.at_)).spent = true) then .next s
    else if x.rmod ≠ 0 ∧ ((s.modRoute x.ctx x.rmod.toNat).all fun r => !s.usable r) then
      let (f, s) := s.free
      .next ((s.partly x).setTransfer { x with fail := some (BitVec.ofNat 8 (1 + f.toNat % 16)) })
    else
      match (planTransfer x).run.run s with
      | (.ok (ws, fail), s) =>
        let n := ws.foldl (fun a w => a + w.bytes.length) 0
        let s := (match s.servedBy x with
          | some d => s.charge d (4 * ceilDiv n 64)
          | none => s).applyWritesFor (s.servedBy x) ws
        .next (match fail with
          | none => (s.endTransfer x).bumpCounter x
          | some c => s.setTransfer { x with fail := some c })
      | (.error .wait, t) => .next (t.metersOf s)
      | (.error (.fail _ (some va)), s) =>
        let s := { s with xferGot := s.xferGot.filter (·.1 ≠ x.id) }
        .next ((s.setTransfer { x with waiting := true }).pageIn x.at_ none (some x.id) x.ctx va)
      | (.error (.fail c none), s) => .next (s.setTransfer { x with fail := some c })

/-- TRANSFER_FAILURE (R271): the transfer stops and its slot takes a late engine trap. A refusal by the other module is an input, with a
cause of Table 8.1. The entry
is free from then on (log 80). -/
def execTransferFailure (ring : BitVec 4) (acause : BitVec 8) (s : State) : Out :=
  match s.transferOf ring with
  | none => .next s
  | some x =>
    if x.fail = some acause ∨ (x.fail = none ∧ x.rmod ≠ 0 ∧ 1 ≤ acause.toNat ∧ acause.toNat ≤ 0x10) then
      let s := if x.fail.isSome then s else s.partly x
      let (w, s) := (s.endTransfer x).free
      .next (s.engineTrap x.at_ x.slot x.uid x.ctx (BitVec.ofNat 64 (x.ring.toNat + 2 ^ 8 * acause.toNat)) w)
    else .next s

/-! ## Completion counters (R272, R273) -/

/-- `cop` (R272). -/
def State.copAt (s : State) (o : CtrO) : Out :=
  s.issue [o.d, o.a] fun s =>
    let old := s.th.ctrs[o.ctr.toNat]
    let add := (s.g o.a).setWidth 32
    (s.modTh fun t => { t with ctrs := t.ctrs.set o.ctr.toNat (old + add) }).orderPoint.result o.d (old.setWidth 64)
/-- `cwait` (R273). -/
def State.cwaitAt (s : State) (o : CtrO) : Out :=
  s.issue [o.d, o.a] fun s =>
    let v := s.th.ctrs[o.ctr.toNat]
    if (v - (s.g o.a).setWidth 32).toNat < 2 ^ 31 then s.orderPoint.result o.d (v.setWidth 64)
    else s.parkOn (.counter o.ctr.toNat)

/-- `cop` (R272). -/
def execCop (o : CtrO) (s : State) : Out := s.copAt o
/-- `cop` (R272). -/
def execCopL2 (o : CtrO) (s : State) : Out := s.copAt o
/-- `cwait` (R273). -/
def execCwait (o : CtrO) (s : State) : Out := s.cwaitAt o
/-- `cwait` (R273). -/
def execCwaitL2 (o : CtrO) (s : State) : Out := s.cwaitAt o

/-! ## Mailbox bindings (R282) -/

/-- The word of a TRIG 1 binding, or the trap of its address. -/
def State.mailWord (s : State) (a : Nat) : Nat ⊕ (BitVec 8 × BitVec 8) :=
  if 2 ^ 48 < a + 8 then .inr (5, 0)
  else if a % 8 ≠ 0 then .inr (4, 0)
  else if !localEnd (spaceOf a) then .inr (1, 7)
  else match s.windowLoc s.me a with
    | .at_ l => .inl l
    | _ => .inr (5, 0)

/-- The first three rows of Table 2.3. -/
def handlerBad (v : Nat) : Bool := decide (2 ^ 48 ≤ v) || decide (v % 64 = 0) || decide (v % 2 = 1) || decide (bits v 44 4 = 15)

/-- `mbind` (R282): a new binding, like none, replaces the old one with its pending launch (log 81). -/
def execMbind (o : MbindO) (s : State) : Out :=
  s.issue [o.a, o.b, 31] fun s =>
    let slot := slotOf o.slot
    let word := if o.trig = 1 then s.mailWord (s.g o.a).toNat else .inl 0
    match word with
    | .inr (c, b) =>
      let (ti, s) := s.addrOnly (s.g o.a).toNat
      s.trapAt c b ti
    | .inl loc =>
      if o.trig = 2 ∧ (s.core.bind[o.cls.toNat]).map (·.slot) ≠ some slot then
        let (ti, s) := s.anyTinfo
        s.trapAt 1 7 ti
      else if handlerBad (s.g o.b).toNat then s.trapAt 3 0 (s.g o.b)
      else
        let b : Option Mailbox := if o.trig = 0 then none
          else some { loc := loc, pc := (s.g o.b).setWidth 48, slot := slot, trig := o.trig, cls := o.cls, team := s.th.team, g31 := s.g 31 }
        (s.modCore fun c => { c with mail := c.mail.set o.mi.toNat b }).advance

end Sys2Proof.Machine
end

