-- ==== Sys2Proof/Machine/Groups.lean ====
section
/-! DEFINITION. Group operations: barriers (R277) and collectives (R278 to R281) over the members of an installed group (R276). -/
namespace Sys2Proof.Machine

/-! ## The memory tree -/

def State.setGroup (s : State) (g : Group) : State :=
  { s with groups := s.groups.map fun x => if x.ctx = g.ctx ∧ x.gid = g.gid then g else x }

/-- The group-table entry of a group (Table 10.8). -/
def State.groupEntry (s : State) (ctx : BitVec 4) (gid : Nat) : Nat := s.read (s.ctxs[ctx.toNat].gtab + 16 * gid) 16

/-- The operation on the group and the member. Where the memory tree holds no such member, it never completes. -/
def State.memberOp (s : State) (gm : BitVec 2) (k : State → Group → Nat → Member → State) : State :=
  let t := s.th
  let w := t.gmem[gm.toNat]
  match s.group t.ctx (gmemGid w) with
  | none => s.parkOn (.group t.ctx.toNat (gmemGid w))
  | some g => match g.members[gmemIdx w]? with
    | none => s.parkOn (.group t.ctx.toNat (gmemGid w))
    | some m => k s g (gmemIdx w) m

/-- The checks of R276, then the operation. -/
def State.groupOp (s : State) (gm : BitVec 2) (k : State → Group → Nat → Member → State) : State :=
  let w := s.th.gmem[gm.toNat]
  let e := s.groupEntry s.th.ctx (gmemGid w)
  if !gmemV w || bits e 21 1 == 0 || decide (bits e 0 21 ≤ gmemIdx w) then s.trapAt 1 7 0 else s.memberOp gm k

/-- Every member that waits on the group tries again. -/
def State.wakeGroup (s : State) (g : Group) : State :=
  s.wakeWhere fun _ _ t => t.status == .parked && t.park == .group g.ctx.toNat g.gid

def Group.setMember (g : Group) (i : Nat) (m : Member) : Group := { g with members := g.members.set i m }

/-! ## Barriers (R277) -/

/-- An arrival; the last one releases every member (Table 10.9). -/
def State.arrive (s : State) (g : Group) (i : Nat) (m : Member) : State :=
  let g := g.setMember i { m with bar := .arrived }
  if g.members.all fun m => m.bar == .arrived then
    let g := { g with bc := g.bc + 1, members := g.members.map fun m => { m with bar := .released } }
    (s.setGroup g).wakeGroup g
  else s.setGroup g

/-- FORM 1 (Table 10.9). -/
def State.gbarCollect (s : State) (d : Reg) (g : Group) (i : Nat) (m : Member) : State :=
  match m.bar with
  | .released => ((s.setGroup (g.setMember i { m with bar := .idle })).orderPoint).result d (g.bc.setWidth 64)
  | .arrived => s.parkOn (.group g.ctx.toNat g.gid)
  | .idle => s.result d (BitVec.ofNat 64 (2 ^ 63 + g.bc.toNat))

/-- `gbar.arr` (Table 10.9). -/
def execGbarArr (o : GbarA) (s : State) : Out :=
  s.issue [] fun s => s.groupOp o.gm fun s g i m =>
    if m.bar = .idle then s.drained fun s => (s.arrive g i m).advance else s.advance
/-- `gbar.wait` (Table 10.9). -/
def execGbarWait (o : GbarG) (s : State) : Out :=
  s.issue [o.a] fun s => s.groupOp o.gm fun s g i m => s.gbarCollect o.a g i m
/-- `gbar` (Table 10.9): it arrives, then waits. -/
def execGbar (o : GbarG) (s : State) : Out :=
  s.issue [o.a] fun s => s.groupOp o.gm fun s g i m =>
    if m.bar = .idle then s.drained fun s => (s.arrive g i m).memberOp o.gm fun s g i m => s.gbarCollect o.a g i m
    else s.gbarCollect o.a g i m

/-! ## Results of collectives -/

/-- `gred` on `g` registers (R279): 0 sum, 1 min, 2 max, 3 and, 4 or. -/
def redInt (op ty : Nat) (vs : List Nat) : Nat :=
  let less := fun (a b : Nat) => if ty = 0 then decide (toSigned a 64 < toSigned b 64) else decide (a < b)
  match vs with
  | [] => 0
  | v :: r =>
    if op = 0 then (r.foldl (· + ·) v) % 2 ^ 64
    else if op = 1 then r.foldl (fun a b => if less b a then b else a) v
    else if op = 2 then r.foldl (fun a b => if less a b then b else a) v
    else if op = 3 then r.foldl (· &&& ·) v else r.foldl (· ||| ·) v

/-- `gred` on `v` registers (R279): the code and the flags, with 32 for a NaN that no contribution was (Table 3.9). -/
def redFloat (op ty : Nat) (vs : List Nat) : Nat × Nat :=
  let f := if ty = 0 then fp64 else fp32
  let cs := vs.map (· % 2 ^ f.width)
  match cs with
  | [] => (0, 0)
  | c :: r =>
    if op = 0 then
      let e := sumEx (cs.map fun x => term (elemValue f x)) 0
      let w := toCode e.v e.nv f false 0 0
      (w.code, w.flags + 32 * (w.rounded f (cs.any fun x => (elemValue f x).isNan)).nan)
    else if op = 1 ∨ op = 2 then
      let step := fun (a : Nat × Nat) (x : Nat) => let l := minMaxLane (op == 2) f a.1 x; (l.code, a.2 ||| l.flags)
      r.foldl step (step (c, 0) c)
    else (if op = 3 then r.foldl (· &&& ·) c else r.foldl (· ||| ·) c, 0)

/-- The result that every member gets: its value, its flags (R278 to R281). -/
def collectiveResult (cs : List Contribution) : Nat × Nat :=
  match cs with
  | [] => (2 ^ 64 - 1, 0)
  | c :: r =>
    if r.any fun x => x.what != c.what || x.key != c.key then (2 ^ 64 - 1, 0)
    else
      let vs := cs.map (·.val.toNat)
      if c.what = 0 then
        (if c.key / 16 % 2 = 1 then redFloat (c.key % 8) (c.key / 8 % 2) vs else (redInt (c.key % 8) (c.key / 8 % 2) vs, 0))
      else if c.what = 1 then (vs.getD (c.key / 32) (2 ^ 64 - 1), 0)
      else (cs.length, 0)

/-- Table 10.10. -/
def counterSum (cs : List Contribution) : Nat :=
  let at_ := fun (c : Contribution) (n : Nat) => c.counts.getD n 0
  let sums := (List.range 16).foldl (fun a n => a + 2 ^ (64 * n) * (cs.foldl (fun x c => x + bits (at_ c n) 0 32) 0)) 0
  let tag := fun (c : Contribution) (n : Nat) => bits (at_ c n) 32 8 + 256 * bits (at_ c n) 44 1
  let same := (List.range 16).foldl (fun a n => match cs with
    | [] => a
    | c :: r => if r.all fun x => tag x n == tag c n then a + 2 ^ n else a) 0
  sums + 2 ^ 1024 * cs.length + 2 ^ 1088 * same

def Member.contribution (m : Member) : Option Contribution :=
  match m.col with
  | .contributed c => some c
  | _ => none

/-- A write of a unit of the memory tree; a bad word or block refuses it (R134, R498). -/
def State.treeWrite (s : State) (ps : List Part) (v : Nat) : State :=
  match s.refuses ps with
  | some loc => s.badWrite loc
  | none => s.writeParts ps v

/-- A contribution; the last one forms the result (R278), and `gsum` writes its record first (R281). -/
def State.contribute (s : State) (g : Group) (i : Nat) (m : Member) (c : Contribution) : State :=
  let g := g.setMember i { m with col := .contributed c }
  let cs := g.members.filterMap Member.contribution
  if cs.length < g.members.length then s.setGroup g
  else
    let (v, fl) := collectiveResult cs
    let differ := match cs with
      | [] => true
      | c :: r => r.any fun x => x.what != c.what || x.key != c.key
    let s := if c.what = 2 ∧ differ = false then s.treeWrite (cs.headD c).loc (counterSum cs) else s
    let g := { g with members := g.members.map fun m => { m with col := .done (BitVec.ofNat 64 v) fl } }
    (s.setGroup g).wakeGroup g

/-- The result is collected, or the slot parks (R278). -/
def State.collect (s : State) (gm : BitVec 2) (put : Word → Nat → State → State) : State :=
  s.memberOp gm fun s g i m =>
    match m.col with
    | .done v fl => (put v fl ((s.setGroup (g.setMember i { m with col := .idle })).orderPoint)).advance
    | _ => s.parkOn (.group g.ctx.toNat g.gid)

/-- A collective: it contributes when the member is idle, behind every buffered store, then collects (R276, R278). -/
def State.collective (s : State) (gm : BitVec 2) (c : State → Contribution) (put : Word → Nat → State → State) : State :=
  s.groupOp gm fun s g i m =>
    match m.col with
    | .idle => s.drained fun s => (s.contribute g i m (c s)).collect gm put
    | _ => s.collect gm put

/-! ## `gred`, `gcast`, `gsum` -/

/-- What FILE = 1 asks for first (R279): the stream-state trap, then the F drain of R34. -/
def State.fileReady (s : State) (file : BitVec 1) (regs : List Reg) (k : State → State) : State :=
  if file = 0 then k s
  else if regs.any fun r => decide (r.toNat < 3) && s.th.bound r.toNat then s.illegal 8
  else if s.th.rep.act || !s.th.fq.isEmpty then s.stall
  else k s

def fileRegs (file : BitVec 1) (rs : List Reg) : List Reg := if file = 0 then rs else []
def State.fileRead (s : State) (file : BitVec 1) (r : Reg) : Word := if file = 0 then s.g r else s.th.vreg r.toNat
/-- The destination, the flags and the events (R96) of a collection. -/
def filePut (file : BitVec 1) (d : Reg) (v : Word) (fl : Nat) (s : State) : State :=
  if file = 0 then s.setG d v
  else
    let s := ((s.count 0x10 (fl / 32 % 2)).count 0x11 (fl / flOF % 2)).count 0x12 (fl / flUF % 2)
    s.modTh fun t => { (t.setV d.toNat v).dropHolds d.toNat with fflags := t.fflags ||| BitVec.ofNat 5 fl }

/-- `gred` (R279). -/
def State.gredAt (s : State) (op : Nat) (d a : Reg) (gm : BitVec 2) (file ty : BitVec 1) : Out :=
  s.issue (fileRegs file [d, a]) fun s => s.groupOp gm fun s _ _ _ => s.fileReady file [d, a] fun s =>
    s.collective gm (fun s => { what := 0, key := op + 8 * ty.toNat + 16 * file.toNat, val := s.fileRead file a }) (filePut file d)

/-- `gcast` (R280). -/
def State.gcastAt (s : State) (d a c : Reg) (gm : BitVec 2) (file : BitVec 1) : Out :=
  s.issue (c :: fileRegs file [d, a]) fun s => s.groupOp gm fun s _ _ _ => s.fileReady file [d, a] fun s =>
    s.collective gm (fun s => { what := 1, key := 16 * file.toNat + 32 * bits (s.g c).toNat 0 20, val := s.fileRead file a })
      (filePut file d)

/-- `gred.sum` (R279). -/
def execGredSum (o : GredR) (s : State) : Out := s.gredAt 0 o.d o.a o.gm o.file o.ty
/-- `gred.sum` (R279). -/
def execGredSumL2 (o : GredX) (s : State) : Out := s.gredAt 0 o.d o.a o.gm o.file o.ty
/-- `gred.min` (R279). -/
def execGredMin (o : GredR) (s : State) : Out := s.gredAt 1 o.d o.a o.gm o.file o.ty
/-- `gred.min` (R279). -/
def execGredMinL2 (o : GredX) (s : State) : Out := s.gredAt 1 o.d o.a o.gm o.file o.ty
/-- `gred.max` (R279). -/
def execGredMax (o : GredR) (s : State) : Out := s.gredAt 2 o.d o.a o.gm o.file o.ty
/-- `gred.max` (R279). -/
def execGredMaxL2 (o : GredX) (s : State) : Out := s.gredAt 2 o.d o.a o.gm o.file o.ty
/-- `gred.and` (R279). -/
def execGredAnd (o : GredR) (s : State) : Out := s.gredAt 3 o.d o.a o.gm o.file o.ty
/-- `gred.and` (R279). -/
def execGredAndL2 (o : GredX) (s : State) : Out := s.gredAt 3 o.d o.a o.gm o.file o.ty
/-- `gred.or` (R279). -/
def execGredOr (o : GredR) (s : State) : Out := s.gredAt 4 o.d o.a o.gm o.file o.ty
/-- `gred.or` (R279). -/
def execGredOrL2 (o : GredX) (s : State) : Out := s.gredAt 4 o.d o.a o.gm o.file o.ty
/-- `gcast` (R280): in the short form C is 0. -/
def execGcast (o : GcastR) (s : State) : Out := s.gcastAt o.d o.a 0 o.gm o.file
/-- `gcast` (R280). -/
def execGcastL2 (o : GcastX) (s : State) : Out := s.gcastAt o.d o.a o.c o.gm o.file

/-- `gsum` (R281): member 0's address is checked and translated; each member gives its core's counters. -/
def execGsum (o : GsumO) (s : State) : Out :=
  s.issue [o.d, o.a] fun s => s.groupOp o.gm fun s _ i _ =>
    let go := fun (s : State) (ps : List Part) =>
      s.collective o.gm (fun s => { what := 2, key := 0, val := 0, counts := s.core.evc.toList.map (·.toNat), loc := ps })
        (fun v _ s => s.setG o.d v)
    if i = 0 then s.access (s.g o.a) { len := 144, align := 16, kind := .store, wr := true } fun s ps => go s ps
    else go s []

end Sys2Proof.Machine
end

