-- ==== Sys2Proof/Machine/System.lean ====
section
/-! DEFINITION. Control and status registers (R33 to R36, R221), event counters (R485, R486), traps and returns (R218 to R223),
`ifence`, `wfi`, `sysc` (R224 to R226), `tlbi` (R408, R409). -/
namespace Sys2Proof.Machine

/-! ## Registers by number (Table 1.5) -/

/-- `FRING` (Table 1.13): in a handler it describes the held entries (R218). -/
def Thread.fring (t : Thread) : Word :=
  let l := match t.held, t.lhHeld with
    | some h, _ => h.entries
    | none, some h => h.entries
    | none, none => t.fq
  let oldest := (l.head?.map (·.ring)).getD t.next
  let next := (l.getLast?.map (·.ring + 1)).getD t.next
  BitVec.ofNat 64 (oldest.toNat + 2 ^ 8 * next.toNat + 2 ^ 16 * l.length)

/-- `SLOT` (Table 1.15). -/
def State.slotWord (s : State) : Word :=
  BitVec.ofNat 64 (s.cur.val + 2 ^ 2 * s.cid.core + 2 ^ 5 * s.cid.clu + 2 ^ 19 * s.cid.die)

def Thread.ctxid (t : Thread) : Word := BitVec.ofNat 64 (t.ctx.toNat + 2 ^ 16 * t.teamNo.toNat)

/-- The value of a register. -/
def State.csr (s : State) (num : Nat) : Word :=
  let t := s.th
  if num = 0 then t.tsr else if num = 1 then t.rmode else if num = 2 then t.fflagsWord else if num = 3 then t.srseed
  else if num = 4 then t.srcount else if num = 5 then t.prefixD.setWidth 64
  else if 8 ≤ num ∧ num ≤ 0xB then (t.efd[(num - 8) % 4]'(Nat.mod_lt _ (by decide))).setWidth 64
  else if num = 0x10 then t.tpc.setWidth 64 else if num = 0x11 then t.tcause.word else if num = 0x12 then t.tinfo
  else if num = 0x13 then t.tvec.setWidth 64 else if num = 0x14 then t.tdeleg else if num = 0x15 then t.qhpc.setWidth 64
  else if num = 0x16 then BitVec.ofNat 64 (t.qlinkPc.toNat + 2 ^ 48 * t.qlinkPort.toNat) else if num = 0x17 then t.qval
  else if num = 0x18 then t.fring else if num = 0x20 then t.lcid else if num = 0x21 then s.slotWord
  else if num = 0x22 then t.ctxid
  else if 0x24 ≤ num ∧ num ≤ 0x27 then t.gmem[(num - 0x24) % 4]'(Nat.mod_lt _ (by decide))
  else if num = 0x30 then s.clk[s.cid.die % 16]'(Nat.mod_lt _ (by decide))
  else if 0x100 ≤ num ∧ num ≤ 0x10F then s.core.evc[(num - 0x100) % 16]'(Nat.mod_lt _ (by decide))
  else if num = 0x110 then s.core.netcap else 0

/-- User mode may write a register (Table 1.5). -/
def csrUserWrites (num : Nat) : Bool :=
  (decide (1 ≤ num) && decide (num ≤ 4)) || (decide (8 ≤ num) && decide (num ≤ 0xB)) || num == 0x10 || num == 0x13 || num == 0x15 || num == 0x16

/-- An access waits for the F drain (Table 1.5). -/
def csrDrains (num : Nat) : Bool := decide (num ≤ 5) || (decide (8 ≤ num) && decide (num ≤ 0xB)) || num == 0x18

/-- The RW bits of `GMEM` (Table 1.16) and of an event counter (Table 1.17). -/
def gmemMask : Word := 0x001FFFFFFFFFF1FF
def evcMask : Word := 0x00001FFFFFFFFFFF

/-- A register written with a value, `clear` being the bits that clear W1C fields; none where R36 or R80 refuses the value. -/
def State.setCsr (s : State) (num : Nat) (x clear : Word) : Option State :=
  let put := fun (f : Thread → Thread) => some (s.modTh f)
  if num = 0 then put fun t => { t with ie := x.getLsbD 1 }
  else if num = 1 then (s.th.setRmode x).map s.setTh
  else if num = 2 then put fun t => { t with fflags := x.setWidth 5 }
  else if num = 3 then put fun t => { t with srseed := x }
  else if num = 4 then put fun t => { t with srcount := x }
  else if 8 ≤ num ∧ num ≤ 0xB then
    if descValid (x.setWidth 32).toNat then put fun t => { t with efd := t.efd.set ((num - 8) % 4) (x.setWidth 32) (Nat.mod_lt _ (by decide)) }
    else none
  else if num = 0x10 then put fun t => { t with tpc := x.setWidth 48 }
  else if num = 0x13 then put fun t => { t with tvec := (x.setWidth 48 >>> 6) <<< 6 }
  else if num = 0x14 then put fun t => { t with tdeleg := x }
  else if num = 0x15 then put fun t => { t with qhpc := x.setWidth 48 }
  else if num = 0x16 then put fun t => { t with qlinkPc := x.setWidth 48, qlinkPort := BitVec.ofNat 2 (bits x.toNat 48 2) }
  else if 0x24 ≤ num ∧ num ≤ 0x27 then
    put fun t => { t with gmem := t.gmem.set ((num - 0x24) % 4) (x &&& gmemMask) (Nat.mod_lt _ (by decide)) }
  else if 0x100 ≤ num ∧ num ≤ 0x10F then
    some (s.modCore fun c =>
      let n := (num - 0x100) % 16
      let old := c.evc[n]'(Nat.mod_lt _ (by decide))
      let sat : Word := if old.getLsbD 45 && !clear.getLsbD 45 then 0x0000200000000000 else 0
      { c with evc := c.evc.set n ((x &&& evcMask) ||| sat) (Nat.mod_lt _ (by decide)) })
  else some s

/-- Everything dispatched has completed, and nothing is left to replay (R34, Table 4.8). -/
def State.fDrain (s : State) (k : State → State) : State := if s.th.rep.act || !s.th.fq.isEmpty then s.stall else k s

/-- The shared part of `csrr`, `csrw`, `csrs` and `csrc` (R221): `new` gives the value written and the bits that clear W1C fields. -/
def State.csrAt (s : State) (regs : List Reg) (d : Reg) (num : BitVec 10) (new : Option (Word → Word × Word)) : Out :=
  s.issue regs fun s =>
    let n := num.toNat
    if !csrKnown num then s.illegal 3
    else if new.isSome && !s.th.mode && !csrUserWrites n then s.trapAt 2 0 (BitVec.ofNat 64 n)
    else
      let go := fun (s : State) =>
        let old := s.csr n
        match new with
        | none => s.result d old
        | some f => match s.setCsr n (f old).1 (f old).2 with
          | none => s.illegal 3
          | some s => s.result d old
      if csrDrains n then s.fDrain go else go s

/-- `csrr` (R221). -/
def execCsrr (o : CsrR) (s : State) : Out := s.csrAt [o.d] o.d o.num none
/-- `csrw` (R221). -/
def execCsrw (o : CsrA) (s : State) : Out := s.csrAt [o.d, o.a] o.d o.num (some fun _ => (s.g o.a, s.g o.a))
/-- `csrs` (R221). -/
def execCsrs (o : CsrA) (s : State) : Out := s.csrAt [o.d, o.a] o.d o.num (some fun old => (old ||| s.g o.a, s.g o.a))
/-- `csrc` (R221). -/
def execCsrc (o : CsrA) (s : State) : Out := s.csrAt [o.d, o.a] o.d o.num (some fun old => (old &&& ~~~(s.g o.a), 0))

/-! ## Event counters (R485, R486) -/

/-- The event codes of Table 22.2. -/
def eventKnown (e : Nat) : Bool :=
  decide (e ≤ 0x0B) || (decide (0x10 ≤ e) && decide (e ≤ 0x15)) || (decide (0x18 ≤ e) && decide (e ≤ 0x1A))

/-- `evc` (R485, R486): `new` is what the counter becomes, none where it is refused. -/
def State.evcAt (s : State) (regs : List Reg) (d : Reg) (n : BitVec 4) (new : State → Word → Option Word) : Out :=
  s.issue regs fun s => s.fDrain fun s =>
    let old := s.core.evc[n.toNat]
    match new s old with
    | none => s.illegal 3
    | some x => (s.modCore fun c => { c with evc := c.evc.set n.toNat x }).result d old

/-- EVENT, SLOTS and EN of a counter with COUNT and SATD zero. -/
def evcFields (x : Word) : Word := x &&& 0x00001FFF00000000

def State.evcSetAt (s : State) (o : EvcA) : Out :=
  s.evcAt [o.d, o.a] o.d o.n fun s _ => if eventKnown (bits (s.g o.a).toNat 32 8) then some (evcFields (s.g o.a)) else none

/-- `evc.rd` (R485). -/
def execEvcRd (o : EvcN) (s : State) : Out := s.evcAt [o.d] o.d o.n fun _ x => some x
/-- `evc.rd` (R485). -/
def execEvcRdL2 (o : EvcN) (s : State) : Out := s.evcAt [o.d] o.d o.n fun _ x => some x
/-- `evc.set` (R485, R486). -/
def execEvcSet (o : EvcA) (s : State) : Out := s.evcSetAt o
/-- `evc.set` (R485, R486). -/
def execEvcSetL2 (o : EvcA) (s : State) : Out := s.evcSetAt o
/-- `evc.rc` (R485). -/
def execEvcRc (o : EvcN) (s : State) : Out := s.evcAt [o.d] o.d o.n fun _ x => some (evcFields x)
/-- `evc.rc` (R485). -/
def execEvcRcL2 (o : EvcN) (s : State) : Out := s.evcAt [o.d] o.d o.n fun _ x => some (evcFields x)

/-! ## Traps and returns -/

/-- `trap` (R223). -/
def execTrap (o : K16) (s : State) : Out :=
  s.issue [] fun s => s.trapAfter 0x0D (BitVec.ofNat 64 (o.k.toNat + 2 ^ 16 * s.th.pc.toNat))

/-- `brk` (R223): the debug module may halt the core instead (R489). -/
def State.brkAt (s : State) (k : BitVec 16) : Out :=
  s.issue [] fun s =>
    if s.core.dbg.haltBrk then s.advance.haltCore 5 s.cur 0
    else s.trapAfter 0x0C (BitVec.ofNat 64 (k.toNat + 2 ^ 16 * s.th.pc.toNat))
/-- `brk` (R223). -/
def execBrk (s : State) : Out := s.brkAt 0
/-- `brk` (R223). -/
def execBrkL1 (o : K16) (s : State) : Out := s.brkAt o.k

/-- What a return from the trap handler gives back; system code that has cleared `TSR.IE` without a trap holds nothing. -/
def Thread.heldNow (t : Thread) : Held :=
  t.held.getD { entries := [], resume := t.tpc, pp := t.pp, prefixD := t.prefixD, rep := t.rep, capture := none }

/-- The return PC (R222 step 3). -/
def Thread.returnPc (t : Thread) : BitVec 48 := if t.tcause.fside then t.heldNow.resume else t.tpc

/-- `tret` (R222). -/
def execTret (s : State) : Out :=
  s.issue [] fun s =>
    let t := s.th
    if t.ie then s.privileged
    else if t.rep.act || !t.fq.isEmpty then s.stall
    else
      let h := t.heldNow
      let s := s.endHold
      match s.arriveReg (t.returnPc.setWidth 64) with
      | (.trap c b ti, s) => s.trapAt c b ti
      | (.wait, s) => s
      | (.go pc l, s) => s.trapReturn h pc (some l)

/-- The asynchronous cause that is taken first (Table 8.6): engine, late uncorrectable data, interrupt. -/
def firstAsync (l : List AsyncCause) : Option AsyncCause :=
  match l.find? (·.cause = 0x0B), l.find? (·.cause = 7) with
  | some a, _ => some a
  | none, some a => some a
  | none, none => l.head?

/-- TRAP_ENTRY (R218, R219): a pending asynchronous cause is taken before the slot's next issue; a slot that
sleeps has none until it wakes (R225). -/
def execTrapEntry (slot : BitVec 2) (s : State) : Out :=
  let s := s.withSlot (slotOf slot)
  let t := s.th
  if t.status = .empty ∨ t.status = .halted ∨ t.status = .sleeping ∨ t.ie = false ∨ t.mustReturn = true ∨ s.core.lets s.cur = false ∨
      s.core.stepped s.cur = true then .next s
  else
    match firstAsync t.async with
    | none => .next s
    | some a =>
      let s := s.modCore fun c => if c.dbg.stepping = some s.cur then { c with dbg := { c.dbg with issued := true } } else c
      .next (s.takeTrap { cause := a.cause, sub := a.sub, tinfo := a.tinfo, late := a.cause != 0x0F, tpc := t.pc } fun s =>
        s.modTh fun t => { t with async := t.async.erase a })

/-- ILLEGAL_INSTRUCTION (R54): the head at the PC is no instruction; a repetition being captured is cancelled (R124). -/
def execIllegalInstruction (sub : BitVec 8) (head : BitVec 16) (s : State) : Out :=
  .next (s.takeTrap { cause := 1, sub := sub, tinfo := head.setWidth 64, tpc := s.th.pc } fun s => s.modTh Thread.cancelCapture)

/-! ## `ifence`, `wfi`, `sysc` -/

/-- `ifence` (R224): the line cache and the fetch-ahead buffers are emptied; lines that slots stand in keep their decode (R60).
The store buffer is not waited for (log 92). -/
def execIfence (s : State) : Out := s.issue [] fun s => (s.modCore Core.dropLines).advance

/-- A wake event is pending for the slot in focus (R225). -/
def State.wakePending (s : State) : Bool :=
  (s.th.async.any fun a => a.cause == 0x0F)
    || ([0, 1, 2, 3] : List (BitVec 2)).any (fun c => s.ownClass c && !(inboxOf s.core c).isEmpty)
    || s.core.mail.any fun m => match m with
      | some b => b.slot == s.cur && !b.pending.isEmpty
      | none => false

/-- `wfi` (R225). -/
def execWfi (s : State) : Out :=
  s.issue [] fun s =>
    if s.wakePending then s.advance else s.advance.modTh fun t => { t with status := .sleeping }

/-- `sysc.hold` (R226): holds wait in order for their bank. -/
def execSyscHold (o : GG) (s : State) : Out :=
  s.issueSystem [o.d, o.a] fun s =>
    let a := (s.g o.a).toNat
    if 2 ^ 48 ≤ a ∨ spaceOf a ≠ .sp ∨ bits a 17 23 ≠ 0 then let (ti, s) := s.addrOnly a; s.trapAt 1 7 ti
    else
      let me := fun (h : Hold) => h.at_ == s.cid && h.slot == s.cur
      let h : Hold := ⟨bankOf (bits a 0 17), s.cid, s.cur, s.clkOf s.cid.die⟩
      let s := s.modCl fun c =>
        { c with holds := c.holds.filter fun x => !me x
                 holdWait := if c.holdWait.any fun x => me x && x.bank == h.bank then c.holdWait else (c.holdWait.filter fun x => !me x) ++ [h] }
      let ahead := s.cl.holdWait.takeWhile fun x => !me x
      if s.cl.holds.any (·.bank = h.bank) || ahead.any (·.bank = h.bank) then s.stall
      else (s.modCl fun c => { c with holds := c.holds ++ [h], holdWait := c.holdWait.filter fun x => !me x }).result o.d 1

/-- `sysc.rel` (R226). -/
def execSyscRel (o : GD) (s : State) : Out :=
  s.issueSystem [o.d] fun s =>
    let me := fun (h : Hold) => h.at_ == s.cid && h.slot == s.cur
    let had := s.cl.holds.any me
    (s.modCl fun c => { c with holds := c.holds.filter fun x => !me x }).result o.d (flag had)

/-- SYSC_HOLD_EXPIRY (R226): a hold ends 64 cycles after it was granted. -/
def execSyscHoldExpiry (slot : BitVec 2) (s : State) : Out :=
  let now := s.clkOf s.cid.die
  .next (s.modCl fun c =>
    { c with holds := c.holds.filter fun h => !(h.at_ == s.cid && h.slot == slotOf slot && decide (h.since + 64 ≤ now)) })

/-- `sysc.wake` (R226). -/
def execSyscWake (o : GG) (s : State) : Out :=
  s.issueSystem [o.d, o.a] fun s =>
    let i := Fin.ofNat 4 (bits (s.g o.a).toNat 0 2)
    let asleep := (s.core.th i).status == .sleeping
    (s.modCore fun c => c.wakeSleeper i).result o.d (flag asleep)

/-- `sysc.stop` (R226): what a halted slot has committed to its store buffer drains before the slot is emptied. -/
def execSyscStop (o : GG) (s : State) : Out :=
  s.issueSystem [o.d, o.a] fun s =>
    let i := Fin.ofNat 4 (bits (s.g o.a).toNat 0 2)
    let t := s.core.th i
    if t.status ≠ .halted then s.result o.d 0
    else
      let kept := t.sb.filter (·.committed)
      let s := s.modCore fun c => c.modTh i fun t => { t with sb := kept, stopping := true }
      if !kept.isEmpty then s.stall else (s.result o.d 1).vacate s.cid i

/-! ## `tlbi` (R408, R409) -/

/-- What a `tlbi` targets: a context or all, and a range of pages or all. -/
structure Shoot where
  ctx : Option (BitVec 4)
  pages : Option (Nat × Nat)

def Shoot.entry (z : Shoot) (e : TlbEntry) : Bool :=
  z.ctx.all (· == e.ctx) && z.pages.all fun (lo, n) =>
    let k := 2 ^ (pageBits e.size - 12)
    decide (e.vpage * k < lo + n) && decide (lo < (e.vpage + 1) * k)
def Shoot.page (z : Shoot) (ctx : BitVec 4) (va : Nat) : Bool :=
  z.ctx.all (· == ctx) && spaceOf va == .paged && z.pages.all fun (lo, n) => decide (lo ≤ va / 4096) && decide (va / 4096 < lo + n)

/-- One of n bytes from an address lies in a page aimed at, or was translated through an entry that has been removed. -/
def Shoot.touches (z : Shoot) (gone : List TlbEntry) (ctx : BitVec 4) (va n : Nat) : Bool :=
  (chunks 4096 n va n).any fun p => z.page ctx p.1 || gone.any (·.covers ctx p.1)

/-- Accesses of a thread that used a removed translation and have not been performed: buffered stores, data on its way. -/
def Shoot.busy (z : Shoot) (gone : List TlbEntry) (t : Thread) : Bool :=
  t.sb.any (fun e => z.touches gone t.ctx e.ea.toNat (2 ^ e.size)) || (match t.status, t.miss with
    | .missWait, .data _ ea ps => z.touches gone t.ctx ea.toNat (ps.map (·.len)).sum
    | _, _ => false)

/-- Step 2 of R409: what was removed is kept by the slot until the step after has ended. A walk that is presented is used once by its
requester, and installed neither in a core of the scope nor in a second-level TLB of it; engines, transfers and requests of other
modules translate again. -/
def State.shoot (s : State) (sc : BitVec 3) (gm : BitVec 2) (z : Shoot) : State :=
  let inC := s.inScope sc gm
  let inD := s.clusterInScope sc gm
  let drop := fun (l : List TlbEntry) => l.filter fun e => !z.entry e
  let stale := fun (g : Got) => match g.res with
    | .once e => z.entry e
    | _ => false
  let mark := fun (c : CoreId) (r : MissReq) =>
    if r.kind = 1 ∧ z.page r.ctx r.addr.toNat ∧ (inC c || r.serve.any inD) = true then { r with keep := false } else r
  let gone := ((s.coreIds.filter inC).flatMap fun c => (s.coreAt c).itlb ++ (s.coreAt c).dtlb) ++ (s.clusterIds.filter inD).flatMap fun d => (s.clAt d).tlb
  let served := fun (id : Nat) => s.xfers.any fun x => x.id == id && inD (s.clusterOf x.at_)
  let s := s.mapCores fun c k =>
    let k := { k with missQ := match k.missQ with
      | r :: rest => if k.presented then mark c r :: rest else r :: rest
      | [] => [] }
    if inC c then { k with itlb := drop k.itlb, dtlb := drop k.dtlb } else k
  let s := s.mapCls fun d x => if inD d then { x with tlb := drop x.tlb, got := x.got.filter fun g => !stale g.2 } else x
  let hinge := s.hingeIn.map fun h => if inD (hingeCluster h.port) then { h with got := h.got.filter fun g => !stale g } else h
  State.modTh { s with xferGot := s.xferGot.filter fun g => !(served g.1 && stale g.2), hingeIn := hinge } fun t => { t with shot := some (gone.filter z.entry, []) }

/-- `tlbi` (R409): a fence, the removal, then the accesses that used what was removed. -/
def State.tlbiAt (s : State) (regs : List Reg) (sc : BitVec 3) (gm : BitVec 2) (z : State → Shoot) : Out :=
  s.issueSystem regs fun s => s.drained fun s =>
    let z := z s
    let s := if s.th.shot.isSome then s else s.orderPoint.shoot sc gm z
    let gone := (s.th.shot.map (·.1)).getD []
    if s.coreIds.any fun c => s.inScope sc gm c && ([0, 1, 2, 3] : List (Fin 4)).any fun i => z.busy gone ((s.coreAt c).th i) then s.stall
    else (s.modTh fun t => { t with shot := none }).advance

/-- The page of a register value. -/
def pageOf (x : Word) : Nat := x.toNat % 2 ^ 48 / 4096

/-- `tlbi.page` (R408). -/
def execTlbiPage (o : TlbP) (s : State) : Out := s.tlbiAt [o.a] o.sc o.gm fun s => ⟨some o.ctx, some (pageOf (s.g o.a), 1)⟩
/-- `tlbi.ctx` (R408). -/
def execTlbiCtx (o : TlbC) (s : State) : Out := s.tlbiAt [] o.sc o.gm fun _ => ⟨some o.ctx, none⟩
/-- `tlbi.all` (R408). -/
def execTlbiAll (o : TlbA) (s : State) : Out := s.tlbiAt [] o.sc o.gm fun _ => ⟨none, none⟩
/-- `tlbi.range` (R408). -/
def execTlbiRange (o : TlbR) (s : State) : Out :=
  s.tlbiAt [o.a, o.c] o.sc o.gm fun s => ⟨some o.ctx, some (pageOf (s.g o.a), bits (s.g o.c).toNat 0 16)⟩

end Sys2Proof.Machine
end

