-- ==== Sys2Proof/Machine/Image.lean ====
section
/-! DEFINITION. The context image (Tables 18.1 to 18.4, R410 to R412), its checks (R419), save blocks (R413, R441) and the
thread-context cache (R413, R414). -/
namespace Sys2Proof.Machine

/-! ## The image written -/

/-- Little-endian fields of a number of bytes each. -/
def fieldsBytes (l : List (Nat × Nat)) : List Byte := l.flatMap fun f => leBytes f.1 f.2

/-- The held entries with LHS, in ring order; the image has room for 16. -/
def Thread.heldEntries (t : Thread) : List (Bool × FEntry) :=
  (match t.lhHeld with
    | some h => h.entries.map fun e => (true, e)
    | none => []) ++ t.heldNow.entries.map fun e => (false, e)

/-- Table 18.2. -/
def FEntry.word (e : FEntry) : Nat :=
  e.raw.op.toNat + 2 ^ 8 * e.raw.d.toNat + 2 ^ 14 * e.raw.a.toNat + 2 ^ 20 * e.raw.b.toNat + 2 ^ 26 * e.raw.c.toNat + 2 ^ 32 * e.x.toNat

/-- Table 18.3. -/
def FEntry.ringWord (e : FEntry) (qs : Nat) (lhs : Bool) : Nat :=
  1 + 2 * qs + 2 ^ 5 * lhs.toNat + 2 ^ 6 * e.raw.m8.toNat + 2 ^ 14 * e.raw.sub.toNat + 2 ^ 17 * e.raw.hold.toNat

/-- Table 18.4. -/
def Rep.word (r : Rep) : Nat :=
  r.bodyPc.toNat + 2 ^ 64 * r.count.toNat + 2 ^ 96 * r.iter.toNat + 2 ^ 128 * r.pos.toNat + 2 ^ 132 * r.blm1.toNat
    + 2 ^ 136 * r.sm1.toNat + 2 ^ 139 * r.wm1.toNat + 2 ^ 143 * r.mask.toNat + 2 ^ 147 * r.act.toNat

/-- The saved CSRs as they stand after `tret` (R417 step 3). -/
def Thread.savedCsrs (t : Thread) : List Word :=
  let h := t.heldNow
  let tsr : Thread := { t with mode := false, ie := true, pp := h.pp, rep := h.rep }
  [tsr.tsr, t.rmode, t.fflagsWord, t.srseed, t.srcount, h.prefixD.setWidth 64, t.efd[0].setWidth 64, t.efd[1].setWidth 64,
    t.efd[2].setWidth 64, t.efd[3].setWidth 64, t.tpc.setWidth 64, t.tcause.word, t.tinfo, t.tvec.setWidth 64,
    t.qhpc.setWidth 64, BitVec.ofNat 64 (t.qlinkPc.toNat + 2 ^ 48 * t.qlinkPort.toNat), t.qval, t.fring]

/-- The image of a thread in a handler (R417 step 3, Table 18.1); EN is what stands again after the return (log 99). -/
def Thread.image (t : Thread) : List Byte :=
  let es := t.heldEntries.take 16
  let ring := fun (n : Nat) => match es.findIdx? fun e => e.2.ring.toNat == n with
    | some i => (es[i]?.map fun e => e.2.ringWord i e.1).getD 0
    | none => 0
  fieldsBytes ([(8, t.returnPc.toNat)] ++ (t.g.toList.drop 1).map (fun x => (8, x.toNat)) ++ t.v.toList.map (fun x => (8, x.toNat))
    ++ t.savedCsrs.map (fun x => (8, x.toNat)) ++ (List.range 16).map (fun i => (12, (es[i]?.map fun e => e.2.word).getD 0))
    ++ (List.range 32).map (fun n => (4, ring n)) ++ t.units.toList.map (fun u => (40, u.cfg.pack)) ++ [(32, t.heldNow.rep.word)]
    ++ t.coord.toList.map (fun c => (32, c.toNat)) ++ t.ctrs.toList.map (fun c => (4, c.toNat)))

/-! ## The image read -/

/-- A field of n bytes at an offset of the image. -/
def imageAt (w off n : Nat) : Nat := bits w (8 * off) (8 * n)
def imageCsr (w k : Nat) : Nat := imageAt w (0x280 + 8 * k) 8
def imageRing (w n : Nat) : Nat := imageAt w (0x3D0 + 4 * n) 4
def imageEntry (w qs : Nat) : Nat := imageAt w (0x310 + 12 * qs) 12

/-- F-class opcodes (R15). -/
def fClass (o : Nat) : Bool :=
  o == 0x48 || o == 0x49 || (decide (0x70 ≤ o) && decide (o ≤ 0x91)) || (decide (0xA0 ≤ o) && decide (o ≤ 0xA7))

/-- The listed bits of the saved CSRs (Tables 1.6 to 1.13). -/
def csrMasks : List Nat :=
  [0x1F, 0x1F07, 0x1F, 2 ^ 64 - 1, 2 ^ 64 - 1, 2 ^ 32 - 1, 2 ^ 32 - 1, 2 ^ 32 - 1, 2 ^ 32 - 1, 2 ^ 32 - 1, 2 ^ 48 - 1, 0x7FFFF, 2 ^ 64 - 1,
    2 ^ 48 - 64, 2 ^ 48 - 1, 2 ^ 50 - 1, 2 ^ 64 - 1, 0x3F1F1F]

/-- The saved CSRs meet R36 and R80 (R419). -/
def imageCsrsOk (w : Nat) : Bool :=
  ((List.range 18).all fun k => imageCsr w k &&& csrMasks.getD k 0 == imageCsr w k)
    && decide (bits (imageCsr w 1) 0 3 < 6) && (List.range 5).all fun k => descValid (imageCsr w (5 + k))

/-- The ring words name different entries of F-class opcodes (R419). -/
def imageRingOk (w : Nat) : Bool :=
  let valid := (List.range 32).filter fun n => bits (imageRing w n) 0 1 == 1
  let qs := valid.map fun n => bits (imageRing w n) 1 4
  ((List.range 32).all fun n => bits (imageRing w n) 20 12 == 0) && decide ((dedup qs).length = qs.length)
    && qs.all fun q => fClass (bits (imageEntry w q) 0 8)

/-- The image may be loaded (R419). -/
def imageOk (w : Nat) : Bool :=
  decide (bits w 48 16 = 0) && imageCsrsOk w && imageRingOk w
    && ((List.range 3).all fun u => recordOk (imageAt w (0x450 + 40 * u) 40))
    && decide (bits (imageAt w 0x4C8 32) 48 16 = 0) && decide (imageAt w 0x4C8 32 / 2 ^ 148 = 0)
    && (List.range 4).all fun c =>
      let v := imageAt w (0x4E8 + 32 * c) 32
      bits v 57 1 == 0 || (bits v 58 6 == 0 && decide (v / 2 ^ 224 = 0))

/-- The entry of a valid ring word; its PC and its bindings, for which the image has no place, are those that Keyway keeps. -/
def imageFEntry (w n : Nat) (kept : List FEntry) : FEntry :=
  let r := imageRing w n
  let x := imageEntry w (bits r 1 4)
  let old := kept.find? fun e => e.ring.toNat == n
  { ring := BitVec.ofNat 5 n
    raw := { op := BitVec.ofNat 8 (bits x 0 8), d := BitVec.ofNat 6 (bits x 8 6), a := BitVec.ofNat 6 (bits x 14 6)
             b := BitVec.ofNat 6 (bits x 20 6), c := BitVec.ofNat 6 (bits x 26 6), m8 := BitVec.ofNat 8 (bits r 6 8)
             sub := BitVec.ofNat 3 (bits r 14 3), hold := BitVec.ofNat 3 (bits r 17 3) }
    x := BitVec.ofNat 64 (x / 2 ^ 32)
    pc := (old.map (·.pc)).getD 0
    bound := (old.map (·.bound)).getD 0 }

/-- The held entries of the image in ring order, from `FRING`.OLDEST on (R418 step 3). -/
def imageEntries (w : Nat) (lhs : Bool) (kept : List FEntry) : List FEntry :=
  let oldest := bits (imageCsr w 17) 0 5
  (((List.range 32).map fun k => (oldest + k) % 32).filter fun n =>
    bits (imageRing w n) 0 1 == 1 && (bits (imageRing w n) 5 1 == 1) == lhs).map fun n => imageFEntry w n kept

/-- Table 18.4 read. -/
def repOf (x : Nat) : Rep where
  bodyPc := BitVec.ofNat 48 (bits x 0 48)
  count := BitVec.ofNat 32 (bits x 64 32)
  iter := BitVec.ofNat 32 (bits x 96 32)
  pos := BitVec.ofNat 4 (bits x 128 4)
  blm1 := BitVec.ofNat 4 (bits x 132 4)
  sm1 := BitVec.ofNat 3 (bits x 136 3)
  wm1 := BitVec.ofNat 4 (bits x 139 4)
  mask := BitVec.ofNat 4 (bits x 143 4)
  act := bits x 147 1 == 1

/-- A repetition in its first run is being captured: as many body instructions are left as POS says. -/
def Rep.capturing (r : Rep) : Option Nat :=
  if r.iter = 0 ∧ (r.act = true ∨ (r.count = 0 ∧ r.bodyPc ≠ 0)) then some (r.blm1.toNat + 1 - r.pos.toNat) else none

/-- The thread that an image gives (R418 steps 2 to 6), on a thread that holds what comes from the records. The entries that the
image had no room for come from `kept`, in their place before the image's own where a light handler holds them. -/
def Thread.loadImage (t : Thread) (w : Nat) (o : OutThread) : Thread :=
  let csr := imageCsr w
  let rep := repOf (imageAt w 0x4C8 32)
  let lh := bits (csr 0) 4 1 == 1
  let extra := (o.kept.drop 16).map fun e => { e with st := .waiting, waited := [] }
  let own := imageEntries w false o.kept ++ extra
  let lhs := imageEntries w true o.kept
  let units := Vector.ofFn fun u : Fin 3 =>
    let r := streamRecOf (imageAt w (0x450 + 40 * u.val) 40)
    ({ cfg := r, live := r.go && !lh, outCount := o.outCounts.getD u.val 0 } : StreamUnit)
  { t with
    pc := BitVec.ofNat 48 (bits w 0 48)
    g := Vector.ofFn fun i : Fin 32 => if i.val = 0 then 0 else BitVec.ofNat 64 (imageAt w (8 * i.val) 8)
    v := Vector.ofFn fun i : Fin 48 => BitVec.ofNat 64 (imageAt w (0x100 + 8 * i.val) 8)
    mode := bits (csr 0) 0 1 == 1
    ie := bits (csr 0) 1 1 == 1
    pp := bits (csr 0) 2 1 == 1
    lh := lh
    rm := BitVec.ofNat 3 (bits (csr 1) 0 3)
    ten := BitVec.ofNat 5 (bits (csr 1) 8 5)
    fflags := BitVec.ofNat 5 (csr 2)
    srseed := BitVec.ofNat 64 (csr 3)
    srcount := BitVec.ofNat 64 (csr 4)
    prefixD := BitVec.ofNat 32 (csr 5)
    efd := Vector.ofFn fun i : Fin 4 => BitVec.ofNat 32 (csr (6 + i.val))
    tpc := BitVec.ofNat 48 (csr 10)
    tcause := { cause := BitVec.ofNat 8 (bits (csr 11) 0 8), sub := BitVec.ofNat 8 (bits (csr 11) 8 8), late := bits (csr 11) 16 1 == 1
                deleg := bits (csr 11) 17 1 == 1, fside := bits (csr 11) 18 1 == 1 }
    tinfo := BitVec.ofNat 64 (csr 12)
    tvec := BitVec.ofNat 48 (csr 13)
    qhpc := BitVec.ofNat 48 (csr 14)
    qlinkPc := BitVec.ofNat 48 (bits (csr 15) 0 48)
    qlinkPort := BitVec.ofNat 2 (bits (csr 15) 48 2)
    qval := BitVec.ofNat 64 (csr 16)
    fq := own
    next := BitVec.ofNat 5 (bits (csr 17) 8 5)
    lhHeld := if lh then some { (o.lhRest.getD ⟨[], 0, false, 0, {}, none, []⟩) with entries := lhs } else none
    units := units
    rep := rep
    capture := rep.capturing
    bodyAt := o.bodyAt
    coord := Vector.ofFn fun c : Fin 4 => BitVec.ofNat 256 (imageAt w (0x4E8 + 32 * c.val) 32)
    ctrs := Vector.ofFn fun c : Fin 16 => BitVec.ofNat 32 (imageAt w (0x568 + 4 * c.val) 4)
    drop := o.drop
    uid := o.uid
    async := o.async }

/-! ## Save blocks (R413, R441) -/

def threadBlock : Nat := 1472
def clusterBlock : Nat := 2 ^ 18
def imageSize : Nat := 1448

/-- The lowest free block of a size in a context's save pool; none where there is none, and the save waits. -/
def State.allocBlock (s : State) (ctx : BitVec 4) (size : Nat) : Option (Nat × State) :=
  let p := s.pools[ctx.toNat]
  let starts := p.base :: p.used.map fun b => b.1 + b.2
  let fits := fun (a : Nat) => decide (p.base ≤ a) && decide (a + size ≤ p.base + p.len)
    && p.used.all fun b => decide (a + size ≤ b.1) || decide (b.1 + b.2 ≤ a)
  match (starts.filter fits).foldl (fun (m : Option Nat) a => match m with
    | none => some a
    | some b => some (Nat.min a b)) none with
  | none => none
  | some a => some (a, { s with pools := s.pools.set ctx.toNat { p with used := (a, size) :: p.used } })

/-! ## Copies of the device -/

/-- Writes of the device to a range of whole lines of HBM, made from a die (R498): a bad block that such a write covers as one access is
good again; one that it reaches in parts, or from another die, keeps what it holds, stays bad, and a record of KIND 5 is written. -/
def State.overLines (s : State) (die lo hi : Nat) (f : State → State) : State :=
  let hit := s.badBlocks.filter fun b => decide (b < hi) && decide (lo < b + 64)
  let kept := hit.filter fun b => !(payload die b == 64 && decide (lo ≤ b) && decide (b + 64 ≤ hi))
  let old := kept.flatMap fun b => Memory.cells s.mem b (b + 64)
  let t := f { s with badBlocks := s.badBlocks.filter fun b => !hit.elem b || kept.elem b }
  let m := old.foldl (fun m c => Memory.setByte m c.1 c.2) (kept.foldl (fun m b => Memory.clear m b (b + 64)) t.mem)
  kept.foldl State.badWrite { t with mem := m }

/-- The 8-byte words of a range that are uncorrectable where they stand. -/
def State.badWordsIn (s : State) (loc n : Nat) : List Nat :=
  (s.badWords ++ s.badBlocks.flatMap fun b => (List.range 8).map fun i => b + 8 * i).filter fun w => decide (loc < w + 8) && decide (w < loc + n)

/-- A range of whole words copied byte for byte, in the migration class. A word that is uncorrectable in the source is so where it lands, with the whole block in
HBM, and is quarantined there in SRAM (R466). -/
def State.copyRange (s : State) (src dst n : Nat) : State :=
  let s := (s.pass 5 none src ((n + 63) / 64)).pass 5 none dst ((n + 63) / 64)
  let m := (Memory.cells s.mem src (src + n)).foldl (fun m c => Memory.setByte m (c.1 - src + dst) c.2) (Memory.clear s.mem dst (dst + n))
  let bad := (s.badWordsIn src n).map fun w => w - src + dst
  let away := fun (w : Nat) => !(decide (dst ≤ w) && decide (w + 8 ≤ dst + n))
  let s := { s with mem := m, badWords := s.badWords.filter away, quarantine := s.quarantine.filter away }
  if isSram dst then
    bad.foldl (fun s w => State.quarantineWord { s with badWords := insertNat w s.badWords } w) s
  else { s with badBlocks := bad.foldl (fun l w => insertNat (w / 64 * 64) l) s.badBlocks }

/-! ## The thread-context cache (R413, R414) -/

def CoreId.tcc (c : CoreId) (e : Nat) : Nat := c.ls (0x2000 + 0x600 * e)
def CoreId.tccTag (c : CoreId) (e : Nat) : Nat := c.tcc e + 0x5A8
def State.tag (s : State) (c : CoreId) (e : Nat) : Nat := s.read (c.tccTag e) 8
def State.setTag (s : State) (c : CoreId) (e v : Nat) : State := s.writeBytes (c.tccTag e) (leBytes 8 v)
def tagValid (t : Nat) : Bool := bits t 0 1 == 1
def tagDirty (t : Nat) : Bool := bits t 0 2 == 3
def tagBlock (t : Nat) : Nat := bits t 6 44 * 64

/-- The entry of a core's cache that holds a block. -/
def State.cached (s : State) (c : CoreId) (block : Nat) : Option Nat :=
  [0, 1].find? fun e => tagValid (s.tag c e) && tagBlock (s.tag c e) == block

/-- A dirty entry is written back to its block, whose last 24 bytes are written as zero. -/
def State.writeBack (s : State) (c : CoreId) (e : Nat) : State :=
  let t := s.tag c e
  if tagDirty t then
    let b := tagBlock t
    (s.overLines c.die b (b + threadBlock) fun s =>
      let s := s.copyRange (c.tcc e) b imageSize
      { s with mem := Memory.clear s.mem (b + imageSize) (b + threadBlock) }).setTag c e (t - 2)
  else s

/-- The entry that an image of a block goes to: the one that holds the block, a free one, the one used least recently. -/
def State.tccEntry (s : State) (c : CoreId) (block : Nat) : Nat :=
  match s.cached c block, [0, 1].find? fun e => !tagValid (s.tag c e) with
  | some e, _ => e
  | none, some e => e
  | none, none => 1 - (s.coreAt c).tccLast.toNat

def State.tccUse (s : State) (c : CoreId) (e : Nat) : State := s.modCoreAt c fun k => { k with tccLast := BitVec.ofNat 1 e }

/-- An image enters the cache. -/
def State.cacheImage (s : State) (c : CoreId) (block : Nat) (im : List Byte) : State :=
  let e := s.tccEntry c block
  let s := if s.cached c block = some e then s else s.writeBack c e
  (((s.writeBytes (c.tcc e) im).setTag c e (block + 3))).tccUse c e

/-- The image of a block as a number, for a core; none where a word is uncorrectable. Another core that holds it writes it back
first. -/
def State.takeImage (s : State) (c : CoreId) (block : Nat) : Option Nat × State :=
  let read := fun (s : State) (a : Nat) => if s.badRange a imageSize then none else some (s.read a imageSize)
  match s.cached c block with
  | some e =>
    let s := s.tccUse c e
    (read s (c.tcc e), s.setTag c e (s.tag c e - bits (s.tag c e) 0 1))
  | none =>
    let s := match s.coreIds.findSome? fun d => (s.cached d block).map fun e => (d, e) with
      | some (d, e) => let s := s.writeBack d e; s.setTag d e (s.tag d e - bits (s.tag d e) 0 1)
      | none => s
    (read s block, s)

end Sys2Proof.Machine
end

