-- ==== Sys2Proof/Machine/Contexts.lean ====
section
/-! DEFINITION. Threads and clusters change places: `ctxsw` (R415 to R420), switch-in (R418, R419), the save of a cluster and its
restoration (R423 to R425). -/
namespace Sys2Proof.Machine

/-! ## Switch-in -/

/-- A thread's position maps to a core. -/
def State.mapsTo (s : State) (o : OutThread) (c : CoreId) : Bool :=
  match s.placeOf o.ctx o.x o.y with
  | .core d => d == c
  | _ => false

/-- A switched-out thread may run again: its team is placed and not aborted. -/
def State.resumable (s : State) (o : OutThread) : Bool :=
  s.teams.any fun tm => tm.id == o.team && tm.st == .running && !tm.aborted

/-- The thread's seat and class bindings follow it to another user slot. -/
def State.reseat (s : State) (o : OutThread) (i : Fin 4) : State :=
  let s : State := { s with teams := s.teams.map fun (tm : Team) =>
    if tm.id = o.team then { tm with seats := tm.seats.map fun (p : Seat) => if p.x = o.x ∧ p.y = o.y ∧ p.ts = o.ts then { p with at_ := s.cid, slot := i } else p }
    else tm }
  let move := fun (x : ClassBind) => if x.team = some o.team ∧ x.slot = o.slot then { x with slot := i } else x
  s.modCore fun k => { k with bind := k.bind.map fun (b : Option ClassBind) => b.map move }

/-- The ports of a slot are connected as the team record says. -/
def Core.connect (k : Core) (i : Fin 4) (tm : Team) : Core :=
  { k with ports := k.ports.set i.val (Vector.ofFn fun p : Fin 4 =>
      { (k.ports[i.val])[p.val] with con := tm.connected p.val }) }

/-- Switch-in into slot i of the core in focus (R418). A refused image leaves the slot Empty and its team is aborted (R419). -/
def State.switchIn (s : State) (i : Fin 4) (o : OutThread) : State :=
  let (im, s) := s.takeImage s.cid o.block
  let s := ({ s with outs := s.outs.filter (·.uid ≠ o.uid) }).freeBlock o.ctx o.block
  match im, s.team o.team with
  | some w, some tm =>
    if imageOk w then
      let t := s.newThread tm o.x o.y o.ts.toNat 0 id
      let s := if o.slot = i then s else (s.reseat o i).modCore fun k => k.connect i tm
      s.occupy s.cid i (t.loadImage w o)
    else s.abortTeam o.team
  | _, _ => s.abortTeam o.team

/-- A slot that a team being placed waits for. -/
def State.reserved (s : State) (c : CoreId) (i : Fin 4) : Bool :=
  s.teams.any fun tm => tm.st == .placing && tm.seats.any fun p => p.at_ == c && p.slot == i

/-- SWITCH_IN (R418): Keyway resumes a thread of a placed team in an Empty slot of the core its position maps to. -/
def execSwitchIn (slot : BitVec 2) (thread : Nat) (s : State) : Out :=
  let i := slotOf slot
  match s.outs.find? (·.uid = thread) with
  | none => .next s
  | some o =>
    if (s.core.th i).status = .empty ∧ i.val < 3 ∧ s.core.fenced = false ∧ s.resumable o = true ∧ s.mapsTo o s.cid = true
        ∧ s.reserved s.cid i = false then
      .next ((s.withSlot i).switchIn i o)
    else .next s

/-! ## Switch-out -/

/-- Step 1 of Table 18.5 is not over. -/
def State.unsettled (s : State) : Bool :=
  let t := s.th
  !t.fq.isEmpty || t.rep.act || !t.sb.isEmpty || s.transferring || (match s.core.divider with
    | some d => d.slot == s.cur
    | none => false)

/-- Steps 3 to 5: the image goes to the cache under its block, Keyway holds the thread, the slot is Empty. -/
def State.switchOut (s : State) (block : Nat) : State :=
  let t := s.th
  let o : OutThread :=
    { uid := t.uid, team := t.team.getD 0, ctx := t.ctx, x := t.lx, y := t.ly, ts := t.ts, slot := s.cur, block := block
      async := t.async, kept := t.heldEntries.map (·.2), lhRest := t.lhHeld
      outCounts := t.units.toList.map (·.outCount), drop := t.drop, bodyAt := t.heldNow.bodyAt }
  let s := s.cacheImage s.cid block t.image
  State.vacate { s with outs := s.outs ++ [o] } s.cid s.cur

/-- The thread that a swap brings in: the oldest that may run here, of this user slot if there is one (R416). -/
def State.incoming (s : State) (uid : Nat) (ctx : BitVec 4) : Option OutThread :=
  let can := s.outs.filter fun o => o.uid != uid && o.ctx == ctx && s.resumable o && s.mapsTo o s.cid
  match can.find? (·.slot = s.cur) with
  | some o => some o
  | none => can.head?

/-- The Keyway request that the handler of the thread in focus serves, if it still stands (R416). -/
def State.standing (s : State) : Option KRequest :=
  let t := s.th
  let c := t.tcause
  if !t.ie && c.cause == 0x0F && !c.deleg && (c.sub == 1 || c.sub == 2 || c.sub == 4) then
    s.reqs.find? fun r => r.at_ == s.cid && r.slot == s.cur && r.uid == t.uid && r.no.toNat == bits t.tinfo.toNat 0 16
  else none

/-- `ctxsw.req` (R416, R417). A thread of an aborted team leaves no image. -/
def execCtxswReq (s : State) : Out :=
  s.issueSystem [] fun s =>
    match s.standing with
    | none => s.advance
    | some r =>
      let gone := s.teams.all fun tm => some tm.id != s.th.team || tm.aborted
      if s.unsettled then s.stall
      else if r.kind = .abort ∨ gone = true then s.vacate s.cid s.cur
      else
        match s.allocBlock s.th.ctx threadBlock with
        | none => s.stall
        | some (b, s) =>
          let uid := s.th.uid
          let ctx := s.th.ctx
          let s := s.switchOut b
          if r.kind = .swap then
            match s.incoming uid ctx with
            | some o => s.switchIn s.cur o
            | none => s
          else s

/-- `ctxsw.flush` (R420). -/
def execCtxswFlush (s : State) : Out :=
  s.issueSystem [] fun s => ((s.writeBack s.cid 0).writeBack s.cid 1).advance

/-! ## The cluster save block (Table 18.8) -/

/-- The full/empty bits of n words from a location, as bytes at a destination. -/
def State.packFull (s : State) (loc n dst : Nat) : State :=
  let hit := s.full.filter fun w => decide (loc ≤ w) && decide (w < loc + 8 * n)
  { s with mem := hit.foldl (fun m w =>
      let k := (w - loc) / 8
      let a := dst + k / 8
      Memory.setByte m a (Memory.byte m a ||| BitVec.ofNat 8 (2 ^ (k % 8)))) (Memory.clear s.mem dst (dst + n / 8)) }

/-- The same bits set from bytes. -/
def State.unpackFull (s : State) (loc n src : Nat) : State :=
  let others := s.full.filter fun w => decide (w < loc) || decide (loc + 8 * n ≤ w)
  let cells := s.mem.filter fun c => decide (src ≤ c.1) && decide (c.1 < src + n / 8)
  { s with full := cells.foldl (fun l c =>
      (List.range 8).foldl (fun l i => if c.2.getLsbD i then insertNat (loc + 8 * (8 * (c.1 - src) + i)) l else l) l) others }

/-- Bytes put at a place without any effect on waiters. -/
def State.put (s : State) (loc : Nat) (f : List (Nat × Nat)) : State :=
  { s with mem := Memory.setBytes s.mem loc (fieldsBytes f) }

/-- An inbox entry of 40 bytes: the header of R257 and four words. -/
def msgFields (m : Option Msg) : List (Nat × Nat) :=
  match m with
  | some m => (8, m.header.toNat) :: (List.range 4).map fun i => (8, (m.words.getD i 0).toNat)
  | none => [(40, 0)]

/-- An inbox entry read; one without V is empty. -/
def State.msgAt (s : State) (a : Nat) : Option Msg :=
  let h := s.read a 8
  if bits h 63 1 = 1 then
    some { srcX := BitVec.ofNat 10 (bits h 0 10), srcY := BitVec.ofNat 10 (bits h 10 10), srcMod := BitVec.ofNat 8 (bits h 20 8)
           cls := BitVec.ofNat 2 (bits h 30 2)
           words := (List.range (bits h 28 2 + 1)).map fun i => BitVec.ofNat 64 (s.read (a + 8 + 8 * i) 8) }
  else none

/-- A neighbour-queue word of 16 bytes: [64] C, [65] V. -/
def qwordFields (q : Option QWord) : List (Nat × Nat) :=
  match q with
  | some q => [(8, q.data.toNat), (8, q.ctl.toNat + 2)]
  | none => [(16, 0)]

def State.qwordAt (s : State) (a : Nat) : Option QWord :=
  let h := s.read (a + 8) 8
  if bits h 1 1 = 1 then some ⟨BitVec.ofNat 64 (s.read a 8), bits h 0 1 == 1⟩ else none

/-- Where inbox entry n of a class, word n of a port of a core lie in the block. -/
def inboxOff (core cls n : Nat) : Nat := 0x30E00 + 40 * (8 * (4 * core + cls) + n)
def portOff (core slot port n : Nat) : Nat := 0x33600 + 16 * (8 * (4 * (3 * core + slot) + port) + n)

/-- The part of a core's state that goes with its cluster, beside what the block holds as bytes. -/
def Core.deviceState (k : Core) : Core :=
  { submitted := k.submitted, ring := k.ring, mail := k.mail
    ports := k.ports.map fun v => v.map fun q => { q with words := [], taken := 0 } }

/-- The device areas of the block: offset and size (Table 18.8). -/
def deviceAreas : List (Nat × Nat) := [(0x38600, 0x2400), (0x3EA00, 0x40), (0x3EA40, 0x400)]

/-- n doublewords of bytes whose values the spec leaves open. -/
def State.freeBytes : Nat → State → List Byte × State
  | 0, s => ([], s)
  | n + 1, s =>
    let (x, s) := s.free
    let (r, s) := State.freeBytes n s
    (leBytes 8 x.toNat ++ r, s)

/-- The copy engine writes the device areas, in a form of its own (log 52). -/
def State.writeDevice (s : State) (b : Nat) : State :=
  deviceAreas.foldl (fun s a =>
    let (bs, s) := State.freeBytes (a.2 / 8) s
    { s with mem := Memory.setBytes s.mem (b + a.1) bs }) s
def State.deviceBytes (s : State) (b : Nat) : List (List Byte) := deviceAreas.map fun a => Memory.bytes s.mem (b + a.1) a.2

/-- Step 4 of Table 18.7: the areas of the block. -/
def State.writeCluster (s : State) (d : ClusterId) (b : Nat) : State :=
  let x := s.clAt d
  s.overLines d.die b (b + 0x3EE40) fun s =>
  let s := s.copyRange (spLoc d.die d.clu 0) b 0x20000
  let s := s.packFull (spLoc d.die d.clu 0) 16384 (b + 0x20000)
  let s := (List.range 8).foldl (fun s n =>
    let c := s.coreIn d n
    let s := s.copyRange (c.ls 0) (b + 0x20800 + 0x2000 * n) 0x2000
    let s := s.packFull (c.ls 0) 1024 (b + 0x30800 + 128 * n)
    let s := s.copyRange (cqLoc d.die d.clu n 0) (b + 0x36600 + 1024 * n) 1024
    let k := s.coreAt c
    let s := (List.range 4).foldl (fun s cls => (List.range 8).foldl (fun s i =>
      s.put (b + inboxOff n cls i) (msgFields (inboxOf k (BitVec.ofNat 2 cls))[i]?)) s) s
    (List.range 3).foldl (fun s sl => (List.range 4).foldl (fun s p => (List.range 8).foldl (fun s i =>
      s.put (b + portOff n sl p i) (qwordFields (k.port (Fin.ofNat 4 sl) p).words[i]?)) s) s) s) s
  let s := s.put (b + 0x30C00) (x.sems.toList.map fun v => (2, v.toNat))
  (s.copyRange (Machine.accLoc d.die d.clu 0) (b + 0x3AA00) 0x4000).writeDevice b

/-- A cluster that has been saved is free: its jobs, bindings, messages and words are in the block. -/
def State.freeCluster (s : State) (d : ClusterId) (team : Nat) : State :=
  let s := (s.coresOf d).foldl (fun s c => s.modCoreAt c fun k =>
    { k with
      submitted := []
      ring := k.ring.map fun r => match r with
        | .command _ _ _ _ => .free
        | r => r
      mail := Vector.replicate 4 none
      inbox := Vector.replicate 4 []
      bind := k.bind.map fun b => b.bind fun x => if x.team = some team then none else some x
      ports := Vector.replicate 4 (Vector.replicate 4 {}) }) s
  s.modClAt d fun x => { x with window := [], backlog := [], bound := none, lastCands := [], stuck := false, frozen := false, got := [] }

/-- What Keyway keeps of a saved cluster; of the epoch, how long it was bound. -/
def State.savedCluster (s : State) (d : ClusterId) (lcn b : Nat) : SavedCluster :=
  let x := s.clAt d
  { lcn := lcn, block := b, at_ := d
    cl := { window := x.window, backlog := x.backlog, bound := x.bound, boundAt := s.clkOf d.die - x.boundAt, pass := x.pass
            lastCands := x.lastCands, stuck := x.stuck, overflows := x.overflows }
    cores := (List.range 8).map fun n => (n, (s.coreAt (s.coreIn d n)).deviceState) }

/-- A job of a saved cluster in its new one: its core, its number, the numbers of its edges; the edges are derived again (R425). -/
def Job.moved (j : Job) (place : CoreId → CoreId) (shift : Nat) : Job :=
  { j with id := j.id + shift, core := j.core.map place, edges := [], accepted := 0 }

/-- Edges of jobs in acceptance order (R295): a rejected job waits for nothing. -/
def edgesOf : List Job → List Job → List Job
  | _, [] => []
  | before, j :: r =>
    let j := { j with edges := if j.st = .rejected then [] else (before.filter fun x => x.conflicts j).map (·.id) }
    j :: edgesOf (before ++ [j]) r

/-- A range in a core's local store follows its core. -/
def Range.moved (r : Range) (place : CoreId → CoreId) : Range :=
  { r with space := match r.space with
    | .ls c => .ls (place c)
    | x => x }

/-- The jobs of a saved cluster restored. -/
def State.restoreJobs (s : State) (d : ClusterId) (z : SavedCluster) : State :=
  let x := s.clAt d
  let shift := x.jobNo
  let all := z.cl.window ++ z.cl.backlog
  let place := fun (c : CoreId) => s.coreIn d (s.coreNo c)
  let mv := fun (j : Job) => { j.moved place shift with decl := j.decl.map (·.moved place), foot := j.foot.map (·.moved place) }
  let top := all.foldl (fun n j => Nat.max n (j.id + shift + 1)) shift
  s.modClAt d fun x =>
    { x with
      window := x.window ++ edgesOf [] (z.cl.window.map mv)
      backlog := x.backlog ++ z.cl.backlog.map mv
      jobNo := top
      bound := z.cl.bound, boundAt := s.clkOf d.die - z.cl.boundAt, pass := z.cl.pass, lastCands := z.cl.lastCands
      lastStart := s.clkOf d.die, fullSince := s.clkOf d.die
      stuck := z.cl.stuck, overflows := z.cl.overflows }

/-- A ring entry of a saved core with the new number of its job. -/
def RingUse.moved (shift : Nat) : RingUse → RingUse
  | .command e i t j => .command e i t (j + shift)
  | r => r

/-- What the copy engine reads in the device areas (R424): what it wrote; of an area that has been changed, that or nothing, which the
spec leaves open (log 52). -/
def State.readDevice (s : State) (z : SavedCluster) : SavedCluster × State :=
  let same := (s.deviceBytes z.block).zipWith (fun a b => a == b) z.dev
  let (x, s) := if same.all id then (0, s) else s.free
  let keep := fun (n : Nat) => same.getD n true || x.getLsbD n
  let z := if keep 0 then z else
    { z with cl := { z.cl with window := [], backlog := [] }
             cores := z.cores.map fun p => (p.1, { p.2 with submitted := [], ring := Vector.replicate 16 .free }) }
  let z := if keep 1 then z else { z with cl := { z.cl with bound := none, boundAt := 0, pass := ({} : Cluster).pass, lastCands := [] } }
  (if keep 2 then z else { z with cores := z.cores.map fun p => (p.1, { p.2 with mail := Vector.replicate 4 none }) }, s)

/-- Restore a cluster from its block into the cluster that the new route entry names (R425); `from_` says whose queue words a user slot
gets. Submissions that wait keep their order (R287). -/
def State.restoreCluster (s : State) (d : ClusterId) (z : SavedCluster) (from_ : CoreId → Fin 4 → Option (Fin 4)) : State :=
  let (z, s) := s.readDevice z
  let b := z.block
  let shift := (s.clAt d).jobNo
  let times := dedup (z.cores.flatMap fun c => c.2.submitted.map (·.since))
  let s := s.restoreJobs d z
  let s := s.copyRange b (spLoc d.die d.clu 0) 0x20000
  let s := s.unpackFull (spLoc d.die d.clu 0) 16384 (b + 0x20000)
  let s := s.copyRange (b + 0x3AA00) (Machine.accLoc d.die d.clu 0) 0x4000
  let s := s.modClAt d fun x => { x with sems := Vector.ofFn fun i : Fin 256 => BitVec.ofNat 16 (s.read (b + 0x30C00 + 2 * i.val) 2) }
  (List.range 8).foldl (fun s n =>
    let c := s.coreIn d n
    let s := s.copyRange (b + 0x20800 + 0x2000 * n) (c.ls 0) 0x2000
    let s := s.unpackFull (c.ls 0) 1024 (b + 0x30800 + 128 * n)
    let s := s.copyRange (b + 0x36600 + 1024 * n) (cqLoc d.die d.clu n 0) 1024
    let old : Core := assocGet z.cores n {}
    s.modCoreAt c fun k =>
      { k with
        submitted := k.submitted ++ old.submitted.map fun u => { u with since := 1 + times.countP fun x => decide (x < u.since) }
        ring := Vector.ofFn fun i : Fin 16 => if old.ring[i.val] = .free then k.ring[i.val] else (old.ring[i.val]).moved shift
        mail := old.mail.map fun m => m.map fun x =>
          if isLs x.loc then { x with loc := c.ls ((x.loc - lsBase) % 2 ^ 14) }
          else if isSp x.loc then { x with loc := spLoc d.die d.clu ((x.loc - spBase) % 2 ^ 17) } else x
        inbox := Vector.ofFn fun cls : Fin 4 => (List.range 8).filterMap fun i => s.msgAt (b + inboxOff n cls.val i)
        ports := Vector.ofFn fun sl : Fin 4 => Vector.ofFn fun p : Fin 4 =>
          match from_ c sl with
          | some o => { ((old.ports[o.val])[p.val]) with
            words := if sl.val < 3 then (List.range 8).filterMap fun i => s.qwordAt (b + portOff n o.val p.val i) else [] }
          | none => {} }) s

/-! ## Eviction (Table 18.7) -/

/-- ST of a route entry. -/
def State.setRouteSt (s : State) (ctx : BitVec 4) (lcn st : Nat) : State :=
  let a := s.ctxs[ctx.toNat].rtab + 8 * lcn
  s.devWrite 0 a (leBytes 1 (s.read a 1 / 4 * 4 + st))

/-- A slot waits for a route entry that is no longer absent (Table 9.3). -/
def State.routed (s : State) (t : Thread) : Bool :=
  match t.status, t.miss with
  | .missWait, .route n => (s.route t.ctx n).1 != 2
  | _, _ => false

/-- Threads whose route entry is resident look at it again (R231). -/
def State.wakeRoutes (s : State) : State := s.wakeWhere fun _ _ t => s.routed t

/-- Step 1 of Table 18.7 is over: every thread is out, and no neighbour-queue word is on its way to the team's cores. -/
def State.evicted (s : State) (tm : Team) : Bool :=
  (s.threadsOf tm.id).isEmpty && !(s.qFly.any fun f => tm.seats.any fun p => p.at_ == f.dest)

/-- Step 2: the route entries become absent, and no job starts in a cluster that is still to be saved. -/
def State.makeAbsent (s : State) (tm : Team) : State :=
  let s := (tm.lcns.filter fun n => !tm.saved.any (·.lcn = n)).foldl (fun s n => s.modClAt (s.route tm.ctx n).2 fun x => { x with frozen := true }) s
  tm.lcns.foldl (fun s n => s.setRouteSt tm.ctx n 2) s

/-- The cached images of a team's threads in a cluster are written back, and the entries cleared (step 3, R414). -/
def State.flushTeam (s : State) (d : ClusterId) (team : Nat) : State :=
  let blocks := (s.outs.filter (·.team = team)).map (·.block)
  (s.coresOf d).foldl (fun s c => [0, 1].foldl (fun s e =>
    let t := s.tag c e
    if tagValid t && blocks.elem (tagBlock t) then
      let s := s.writeBack c e
      s.setTag c e (s.tag c e - bits (s.tag c e) 0 1)
    else s) s) s

/-- CLUSTER_SAVE (R423): the steps of Table 18.7 for one cluster of an evicted team. No cluster is saved before the running jobs of
every cluster still to be saved are over and their images written back; the save waits for a block. A team with no thread left to
save completes instead (Table 16.5). The last one makes the team Evicted, and completes the commands that wait for it. -/
def execClusterSave (team : Nat) (lcn : BitVec 17) (s : State) : Out :=
  match s.team team with
  | none => .next s
  | some tm =>
    let n := lcn.toNat
    if tm.st ≠ .evicting ∨ tm.aborted = true ∨ !(tm.lcns.elem n) ∨ !s.evicted tm ∨ tm.saved.any (·.lcn = n) then .next s
    else if !s.outs.any (·.team = team) then .next s
    else
      let d := (s.route tm.ctx n).2
      let s := s.makeAbsent tm
      let left := (tm.lcns.filter fun m => !tm.saved.any (·.lcn = m)).map fun m => (s.route tm.ctx m).2
      if left.any fun d => (s.clAt d).window.any (·.st.active) then .next s
      else
        let s := left.foldl (fun s d => s.flushTeam d team) s
        match s.allocBlock tm.ctx clusterBlock with
        | none => .next s
        | some (b, s) =>
          let z := s.savedCluster d n b
          let s := s.writeCluster d b
          let z := { z with dev := s.deviceBytes b }
          let s := s.freeCluster d team
          let tm := { tm with saved := tm.saved ++ [z] }
          if tm.saved.length < tm.lcns.length then .next (s.setTeam tm)
          else
            let s := s.setTeam { tm with st := .evicted, evict := [], since := 0 }
            .next (tm.evict.foldl (fun s p => s.completeCmd p.1 p.2 true) s)

end Sys2Proof.Machine
end

