-- ==== Sys2Proof/Machine/Control.lean ====
section
/-! DEFINITION. Control instructions (chapter 04: R113 to R128): transfers, `pause`, `yield`, `rep`, and `nop` (R56). -/
namespace Sys2Proof.Machine

/-- `nop` (R56). -/
def execNop (s : State) : Out := s.issue [] State.advance
/-- `nop` (R56). -/
def execNopL1 (_ : K16) (s : State) : Out := s.issue [] State.advance
/-- `nop` (R56). -/
def execNopL2 (_ : K32) (s : State) : Out := s.issue [] State.advance
/-- `nop` (R56). -/
def execNopL3 (_ : K64) (s : State) : Out := s.issue [] State.advance

/-- A conditional branch (R114, R115): taken it is a transfer; not taken it checks nothing (R45). -/
def State.branch (s : State) (regs : List Reg) (off : BitVec 20) (c : State → Bool) : Out :=
  s.issue regs fun s => if c s then State.transfer (s.arriveOff off) else s.advance

/-- `beq` (Table 4.4). -/
def execBeq (o : BrB) (s : State) : Out := s.branch [o.a, o.b] o.off fun s => s.g o.a == s.g o.b
/-- `bne` (Table 4.4). -/
def execBne (o : BrB) (s : State) : Out := s.branch [o.a, o.b] o.off fun s => s.g o.a != s.g o.b
/-- `blt` (Table 4.4). -/
def execBlt (o : BrB) (s : State) : Out := s.branch [o.a, o.b] o.off fun s => decide ((s.g o.a).toInt < (s.g o.b).toInt)
/-- `bge` (Table 4.4). -/
def execBge (o : BrB) (s : State) : Out := s.branch [o.a, o.b] o.off fun s => decide ((s.g o.b).toInt ≤ (s.g o.a).toInt)
/-- `bltz` (Table 4.4). -/
def execBltz (o : BrB) (s : State) : Out := s.branch [o.a, o.b] o.off fun s => decide ((s.g o.a).toNat < (s.g o.b).toNat)
/-- `bgez` (Table 4.4). -/
def execBgez (o : BrB) (s : State) : Out := s.branch [o.a, o.b] o.off fun s => decide ((s.g o.b).toNat ≤ (s.g o.a).toNat)
/-- `bz.eqz` (Table 4.4). -/
def execBzEqz (o : BrZ) (s : State) : Out := s.branch [o.a] o.off fun s => s.g o.a == 0
/-- `bz.nez` (Table 4.4). -/
def execBzNez (o : BrZ) (s : State) : Out := s.branch [o.a] o.off fun s => s.g o.a != 0
/-- `bz.ltz` (Table 4.4). -/
def execBzLtz (o : BrZ) (s : State) : Out := s.branch [o.a] o.off fun s => decide ((s.g o.a).toInt < 0)
/-- `bz.gez` (Table 4.4). -/
def execBzGez (o : BrZ) (s : State) : Out := s.branch [o.a] o.off fun s => decide (0 ≤ (s.g o.a).toInt)
/-- `bz.gtz` (Table 4.4). -/
def execBzGtz (o : BrZ) (s : State) : Out := s.branch [o.a] o.off fun s => decide (0 < (s.g o.a).toInt)
/-- `bz.lez` (Table 4.4). -/
def execBzLez (o : BrZ) (s : State) : Out := s.branch [o.a] o.off fun s => decide ((s.g o.a).toInt ≤ 0)

/-- `jmp` (R116). -/
def execJmp (o : Jmp) (s : State) : Out := s.issue [] fun s => State.transfer (s.arriveOff o.off)
/-- `call` (R116): the link is written as the transfer commits. -/
def execCall (o : GJmp) (s : State) : Out :=
  s.issue [o.d] fun s =>
    let link := s.th.nextPc.setWidth 64
    State.transfer (s.arriveOff o.off) (·.setG o.d link)
/-- `jr` (R116). -/
def execJr (o : GD) (s : State) : Out := s.issue [o.d] fun s => State.transfer (s.arriveReg (s.g o.d))
/-- `decb` (R117). -/
def execDecb (o : GJmp) (s : State) : Out :=
  s.issue [o.d] fun s =>
    let c := s.g o.d - 1
    if c = 0 then s.result o.d c else State.transfer (s.arriveOff o.off) (·.setG o.d c)

/-- `pause` (R120). -/
def execPause (o : K16) (s : State) : Out :=
  s.issue [] fun s =>
    if o.k = 0 then s.advance
    else s.advance.modTh fun t => { t with status := .pausing, pauseLeft := o.k.toNat }
/-- The count of a pause has elapsed (R120). -/
def execPauseExpiry (slot : BitVec 2) (s : State) : Out :=
  let s := s.withSlot (slotOf slot)
  if s.th.status = .pausing ∧ s.th.pauseLeft = 0 then .next (s.modTh Thread.awake) else .next s

/-- The other slots of the core that are ready (R121). -/
def State.othersReady (s : State) : List (Fin 4) :=
  [0, 1, 2, 3].filter fun i => decide (i ≠ s.cur) && (s.core.th i).inTurn
/-- `yield` (R121): the slot leaves the rotation until each of these has issued once or is ready no longer. -/
def execYield (s : State) : Out :=
  s.issue [] fun s => s.advance.modTh fun t => { t with yieldTo := s.othersReady }

/-- `rep` (R123, R126): COUNT and the shape are recorded, and the next BL instructions are captured; while a repetition is
active another stalls (Table 4.8). -/
def execRep (o : RepO) (s : State) : Out :=
  s.issue [o.a] fun s =>
    if s.th.rep.act then s.stall
    else
      let n := BitVec.ofNat 32 (s.g o.a).toNat
      s.advance.modTh fun t =>
        { t with
          rep := { bodyPc := t.pc, count := n, iter := 0, pos := 0, blm1 := o.bl, sm1 := o.st, wm1 := o.wr, mask := o.mask, act := decide (n ≠ 0) }
          capture := some (o.bl.toNat + 1)
          body := []
          bodyAt := [] }

end Sys2Proof.Machine
end

