-- ==== Sys2Proof/Machine/Teams.lean ====
section
/-! DEFINITION. Teams: where a team may be placed (R374, R383), its start (R375), resumption (R425), completion (R377); the periods of a die and the energy
budgets of its clusters (R386 to R388). -/
namespace Sys2Proof.Machine

/-! ## Placement (R374) -/

/-- The positions of a team's rectangle with an origin, cluster by cluster. -/
def Team.clusterPositions (x y : Nat) : List (Nat × Nat) := (List.range 8).map fun i => (x + i % 4, y + i / 4)
def Team.corners (tm : Team) (x0 y0 : Nat) : List (Nat × Nat) :=
  (List.range tm.hc).flatMap fun j => (List.range tm.wc).map fun i => (x0 + 4 * i, y0 + 2 * j)

/-- The thread in a slot belongs to a running team of lower priority in the same context (R374, R378). -/
def State.preemptable (s : State) (tm : Team) (t : Thread) : Bool :=
  t.status != .empty && t.ctx == tm.ctx && (match t.team.bind s.team with
    | some other => other.id != tm.id && decide (other.prio.toNat < tm.prio.toNat)
    | none => false)

/-- The user slots a team takes on a core: an evicted team those it had, if they are free for it; else Empty ones first, then those it may
pre-empt. -/
def State.slotsFor (s : State) (tm : Team) (c : CoreId) (x y : Nat) : Option (List (Fin 4)) :=
  let k := s.coreAt c
  let user : List (Fin 4) := [0, 1, 2]
  let free := user.filter fun i => (k.th i).status == .empty && !s.reserved c i
  let take := user.filter fun i => s.preemptable tm (k.th i) && !s.reserved c i
  let own := (tm.seats.filter fun p => p.x == x && p.y == y).map (·.slot)
  let l := (free ++ take).take tm.spc
  if tm.st = .evicted ∧ own.length = tm.spc ∧ own.all (fun i => free.elem i || take.elem i) = true then some own
  else if l.length < tm.spc then none else some (user.filter l.elem)

/-- No class that the team binds is bound on the core to another live team (R374, R252), or will be by one whose seats are chosen. -/
def State.classesFree (s : State) (tm : Team) (c : CoreId) : Bool :=
  (List.finRange 4).all fun n => (tm.cls n.val).isNone || ((match (s.coreAt c).bind[n.val] with
    | some ⟨_, some t⟩ => t == tm.id || !s.teams.any (·.id = t)
    | _ => true) && !s.teams.any fun o => o.id != tm.id && o.st == .placing && (o.cls n.val).isSome && o.seats.any (·.at_ == c))

/-- The seats of a team in one cluster, if the cluster is free for it. -/
def State.clusterSeats (s : State) (tm : Team) (x0 y0 : Nat) : Option (List Seat) :=
  let (st, d) := s.route tm.ctx (lcnOf x0 y0)
  let cl := s.clAt d
  if st ≠ 1 ∨ cl.own = false ∨ cl.ctx ≠ tm.ctx ∨ cl.fenced = true ∨ cl.frozen = true then none
  else
    ((Team.clusterPositions x0 y0).mapM fun (p : Nat × Nat) => match s.placeOf tm.ctx p.1 p.2 with
      | .core c =>
        if (s.coreAt c).fenced || !s.classesFree tm c then none
        else (s.slotsFor tm c p.1 p.2).map fun (l : List (Fin 4)) =>
          l.zipIdx.map fun (q : Fin 4 × Nat) => (⟨p.1, p.2, c, q.1, BitVec.ofNat 2 q.2⟩ : Seat)
      | _ => none).map List.flatten

/-- The seats of a team with an origin, if every cluster of the rectangle is free for it (R374). -/
def State.seatsAt (s : State) (tm : Team) (x0 y0 : Nat) : Option (List Seat) :=
  match (tm.corners x0 y0).mapM fun (p : Nat × Nat) => s.clusterSeats tm p.1 p.2 with
  | none => none
  | some l =>
    let seats := l.flatten
    let dies := seats.map (·.at_.die)
    if tm.bits 50 1 = 1 ∧ !dies.all (fun d => some d == dies.head?) then none else some seats

/-- The origins that a team may have, in the order of R374; an evicted team keeps its logical positions (R370, Table 18.9), which route
entries may lead to other clusters by now. -/
def State.origins (s : State) (tm : Team) : List (Nat × Nat) :=
  let k := s.ctxs[tm.ctx.toNat]
  let w := k.twm1.toNat + 1
  let h := k.thm1.toNat + 1
  if tm.st = .evicted then [(tm.x0, tm.y0)]
  else if tm.bits 51 1 = 1 then [(tm.bits 64 10, tm.bits 74 10)]
  else if w < 4 * tm.wc ∨ h < 2 * tm.hc then []
  else (List.range ((h - 2 * tm.hc) / 2 + 1)).flatMap fun j => (List.range ((w - 4 * tm.wc) / 4 + 1)).map fun i => (4 * i, 2 * j)

/-- The oldest aged team of a context holds back a team of equal or lower priority that came after it (R383). -/
def State.heldBack (s : State) (tm : Team) : Bool :=
  match s.teams.find? fun a => a.ctx == tm.ctx && a.aged && a.st == .waiting with
  | some a => a.id != tm.id && decide (tm.prio.toNat ≤ a.prio.toNat) && decide (a.id < tm.id)
  | none => false

/-- The absent entries of an evicted team's rectangle as they will stand. -/
def State.withRoutes (s : State) (tm : Team) : State :=
  if tm.st = .evicted then (tm.lcns.filter fun n => (s.route tm.ctx n).1 == 2).foldl (fun s n => s.setRouteSt tm.ctx n 1) s else s

/-- Keyway asks the threads that stand in the seats to leave. -/
def State.clearSeats (s : State) (tm : Team) : State :=
  tm.seats.foldl (fun s p =>
    let t := (s.coreAt p.at_).th p.slot
    if t.status ≠ .empty ∧ s.preemptable tm t = true ∧ !s.reqs.any (fun r => r.at_ == p.at_ && r.slot == p.slot) then
      s.sendReq p.at_ p.slot .out none
    else s) s

/-! ## Start (R375, R425) -/

/-- The class bindings and connected ports of a seat. -/
def State.bindSeat (s : State) (tm : Team) (p : Seat) : State :=
  s.modCoreAt p.at_ fun k =>
    let k := k.connect p.slot tm
    { k with bind := Vector.ofFn fun n : Fin 4 =>
        if tm.cls n.val = some p.ts.toNat then some ⟨p.slot, some tm.id⟩ else k.bind[n.val] }

/-- The registers of a thread at launch (R375). -/
def Team.launchRegs (tm : Team) (p : Seat) (t : Thread) : Thread :=
  let n := (tm.lcid p.x p.y).toNat % 2 ^ 20
  (((t.setG 2 (BitVec.ofNat 64 (0xF00000002000 - 0x800 * p.ts.toNat))).setG 3 (BitVec.ofNat 64 (tm.bits 384 64))).setG 4
    (BitVec.ofNat 64 p.ts.toNat)).setG 31 (BitVec.ofNat 64 (tm.bits 192 64 + n * tm.bits 256 32))

/-- A command leaves the head of its queue (R436). -/
def State.takeHead (s : State) (q : Nat) (header : BitVec 64) : State :=
  s.modQueue q fun x =>
    { x with head := x.head + 1, taken := x.taken ++ [(x.head, header)], ahead := x.ahead.filter (·.ix ≠ x.head)
             waiting := none, refused := false, aging := false, since := s.clkOf 0 }

/-- The header of a command that has been read ahead. -/
def Queue.header (x : Queue) (ix : BitVec 32) : BitVec 64 :=
  match x.ahead.find? (·.ix = ix) with
  | some c => c.bits.setWidth 64
  | none => 0

/-- A seat is that of a switched-out thread. -/
def Seat.of (p : Seat) (o : OutThread) : Bool := o.x == p.x && o.y == p.y && o.ts == p.ts

/-- Whose queue words a user slot of a core gets as its team is resumed: those of the thread that will run there (Table 10.6). -/
def State.wordsFrom (s : State) (tm : Team) (c : CoreId) (i : Fin 4) : Option (Fin 4) :=
  let outs := s.outs.filter (·.team = tm.id)
  match tm.seats.find? fun p => p.at_ == c && p.slot == i with
  | some p => some (((outs.find? p.of).map (·.slot)).getD i)
  | none => if tm.seats.any fun p => p.at_ == c && outs.any fun o => p.of o && o.slot == i then none else some i

/-- Every slot is Empty: the team runs. A new team's threads start; an evicted team's clusters are restored and their route entries become
resident, and its threads then come by switch-in to the slots chosen for them (R425). -/
def State.startTeam (s : State) (tm : Team) : State :=
  if tm.saved.isEmpty then
    let s := tm.seats.foldl (fun s p => (s.bindSeat tm p).startThread p.at_ p.slot tm p.x p.y p.ts.toNat
      (BitVec.ofNat 48 (tm.bits 0 48)) (tm.launchRegs p)) s
    s.setTeam { tm with st := .running }
  else
    let words := s.wordsFrom tm
    let s := tm.saved.foldl (fun s z =>
      let s := (s.restoreCluster (s.route tm.ctx z.lcn).2 z words).freeBlock tm.ctx z.block
      s.setRouteSt tm.ctx z.lcn 1) s
    let s := tm.seats.foldl (fun s p => s.bindSeat tm p) s
    let s : State := { s with outs := s.outs.map fun o =>
      if o.team = tm.id then { o with slot := ((tm.seats.find? (·.of o)).map (·.slot)).getD o.slot } else o }
    (s.setTeam { tm with st := .running, saved := [] }).wakeRoutes

/-- The seats of a team that is being placed are all Empty. -/
def State.seatsEmpty (s : State) (tm : Team) : Bool := tm.seats.all fun p => ((s.coreAt p.at_).th p.slot).status == .empty

/-- The rectangle chosen is still free for the team (R374). -/
def State.stillFree (s : State) (tm : Team) : Bool :=
  tm.lcns.all (fun n =>
    let (st, d) := s.route tm.ctx n
    let x := s.clAt d
    (st == 1 || (st == 2 && !tm.saved.isEmpty)) && x.own && x.ctx == tm.ctx && !x.fenced && !x.frozen)
    && tm.seats.all fun p => !(s.coreAt p.at_).fenced && s.classesFree tm p.at_

/-- The first rectangle that is free for a team, with its seats (R374). -/
def State.rectangle (s : State) (tm : Team) : Option ((Nat × Nat) × List Seat) :=
  (s.origins tm).findSome? fun (o : Nat × Nat) => ((s.withRoutes tm).seatsAt tm o.1 o.2).map fun l => (o, l)

/-- A team with its rectangle chosen. -/
def Team.onto (tm : Team) (r : (Nat × Nat) × List Seat) : Team := { tm with st := .placing, x0 := r.1.1, y0 := r.1.2, seats := r.2 }

/-- The slots that a team has chosen are Empty and still free for it. -/
def State.mayStart (s : State) (tm : Team) : Bool := s.seatsEmpty tm && s.stillFree tm

/-- TEAM_AGED (R383): a team has waited 2^20 cycles. -/
def execTeamAged (team : Nat) (s : State) : Out :=
  match s.team team with
  | none => .next s
  | some tm =>
    if tm.st = .waiting ∧ tm.since + 2 ^ 20 ≤ s.clkOf 0 then .next (s.setTeam { tm with aged := true }) else .next s

/-! ## Completion (R377) -/

/-- Every thread has ended: none runs, none is switched out; a team whose eviction was asked for meanwhile completes too
(Table 16.5). -/
def State.teamOver (s : State) (tm : Team) : Bool :=
  (s.threadsOf tm.id).isEmpty && !s.outs.any (·.team = tm.id)
    && (tm.st == .running || (tm.st == .evicting && tm.saved.isEmpty) || ((tm.st == .evicting || tm.st == .evicted || tm.st == .waiting || tm.st == .placing) && tm.aborted))

/-- Class and mailbox bindings of a team are removed, with their pending launches (R283). -/
def Core.unbind (k : Core) (team : Nat) : Core :=
  { k with
    bind := k.bind.map fun b => b.bind fun x => if x.team = some team then none else some x
    mail := k.mail.map fun m => m.bind fun x => if x.team = some team then none else some x }

/-- TEAM_COMPLETE (R377): bindings go, and the launching queue hears of it; an aborted team's launch completes with ERR 8, taken
from the head if it still waited there (R441). -/
def execTeamComplete (team : Nat) (s : State) : Out :=
  match s.team team with
  | none => .next s
  | some tm =>
    if !s.teamOver tm then .next s
    else
      let s := s.mapCores fun _ k => k.unbind team
      let s := { s with teams := s.teams.filter (·.id ≠ team) }
      let s : State := tm.evict.foldl (fun (s : State) p => s.completeCmd p.1 p.2 true) s
      if tm.aborted then
        let s := if (s.queue tm.queue).waiting = some team then s.takeHead tm.queue ((s.queue tm.queue).header tm.cmd) else s
        .next ((s.completeCmd tm.queue tm.cmd false).haltQueue tm.queue 8 tm.cmd false)
      else .next (s.completeCmd tm.queue tm.cmd true)

/-! ## Periods and budgets (R386 to R388) -/

/-- The energy budget of a cluster (R388). -/
def State.energyBudget (s : State) (x : Cluster) : Nat :=
  let k := s.ctxs[x.ctx.toNat]
  let own := if x.own && k.valid && k.eb != 0 then k.eb.toNat else x.eb.toNat
  match x.limit with
  | some l => Nat.min l own
  | none => own

def State.histOf (s : State) (die : Nat) : Hist := s.hist[die % 16]'(Nat.mod_lt _ (by decide))
def State.setHist (s : State) (die : Nat) (h : Hist) : State :=
  { s with hist := s.hist.set (die % 16) h (Nat.mod_lt _ (by decide)) }

/-- The budget of a class on the ports of a kind of a die (R387). -/
def State.budget (s : State) (die cls kind : Nat) : BitVec 13 := assocGet s.budgets (die, cls, kind) (resetBudget cls)

/-- PERIOD_START (R386, R388, R478): meters and counts of the period restart, and budgets and limits set in the last period are in
force. -/
def execPeriodStart (die : BitVec 4) (s : State) : Out :=
  let d := die.toNat
  let n := s.clkOf d / 4096
  let h := s.histOf d
  if n ≤ h.period then .next s
  else
    let s := s.setHist d { h with period := n }
    let s := s.mapCls fun c x => if c.die = d then { x with meter := 0, spent := false, limit := x.limitSet, overflows := 0 } else x
    let next := fun (l : Option Nat × Option Nat) => (l.2, l.2)
    let s : State := { s with
      power := { s.power with fresh := s.power.fresh.set d (next s.power.fresh[d]) }
      grid := s.grid.map fun g => if g.1.die = d then (g.1, { g.2 with period := Vector.replicate 6 0 }) else g
      links := s.links.map fun (l : LinkId × Link) => if l.1.die = die then (l.1, { l.2 with replays := 0 }) else l }
    let (mine, rest) := s.budgetsNext.partition fun b => b.1.1 == d
    .next { s with budgets := mine.foldl (fun l b => assocSet l b.1 b.2) s.budgets, budgetsNext := rest }

/-- ENERGY_BUDGET_SPENT (R388): the meter of the core's cluster has reached its budget. -/
def execEnergyBudgetSpent (s : State) : Out :=
  if s.energyBudget s.cl ≤ s.cl.meter then .next (s.modCl fun c => { c with spent := true }) else .next s

end Sys2Proof.Machine
end

