-- ==== Sys2Proof/Machine/PageIn.lean ====
section
/-! DEFINITION. Bringing a page in (R401 to R404): the combining tree, the service firmware, wakes. -/
namespace Sys2Proof.Machine

/-- The quadrant of a cluster of a die: 2,048 clusters each, then 32 spare ones each (R471). -/
def quadrantOf (clu : Nat) : Nat := if clu < 8192 then clu / 2048 else (clu - 8192) / 32

/-- The node above a node of the tree, and how many entries its table holds (R402); the firmware takes every request. -/
def TreeNode.parent : TreeNode → TreeNode
  | .core c => .cluster c.die c.clu
  | .cluster d c => .quadrant d (quadrantOf c)
  | .quadrant d _ => .dieTop d
  | .dieTop d => .firmware d
  | .firmware d => .firmware d
def TreeNode.room : TreeNode → Nat → Bool
  | .cluster _ _, n => decide (n < 16)
  | .quadrant _ _, n => decide (n < 64)
  | .dieTop _, n => decide (n < 256)
  | _, _ => true

def PageEntry.is (e : PageEntry) (n : TreeNode) (ctx : BitVec 4) (page : Nat) : Bool := e.node == n && e.ctx == ctx && e.page == page

/-- PAGEIN_REQUEST_ARRIVAL (R402): a request merges at its node, or is entered and forwarded, or waits at the child port. -/
def execPageinRequestArrival (k : Nat) (s : State) : Out :=
  match s.pageFly[k]? with
  | none => .next s
  | some f =>
    if f.wake then .next s
    else
      let s' := { s with pageFly := s.pageFly.eraseIdx k }
      let mine := fun (e : PageEntry) => e.is f.dest f.ctx f.page
      let join := fun (e : PageEntry) => if mine e ∧ e.children.elem f.child = false then { e with children := e.children ++ [f.child] } else e
      if s.pageTree.any mine then .next { s' with pageTree := s.pageTree.map join }
      else if f.dest.room (s.pageTree.countP fun e => e.node == f.dest) then
        let s' := { s' with pageTree := s.pageTree ++ [⟨f.dest, f.ctx, f.page, [f.child]⟩] }
        .next (match f.dest with
          | .firmware _ => s'
          | n => { s' with pageFly := s'.pageFly ++ [{ dest := n.parent, child := n, ctx := f.ctx, page := f.page }] })
      else .next s

/-- The wakes that a node sends to its children as its entry goes (R403). -/
def State.sendWakes (s : State) (e : PageEntry) (refused : Bool) : State :=
  { s with
    pageTree := s.pageTree.filter fun x => !x.is e.node e.ctx e.page
    pageFly := s.pageFly ++ e.children.map fun c => { dest := c, child := e.node, ctx := e.ctx, page := e.page, wake := true, refused := refused } }

/-- A frame of a range is retired: it is never handed out again (R468). -/
def State.hasRetired (s : State) (frame n : Nat) : Bool := s.retired.any fun f => decide (frame / n = f / n)

/-- The frames that a leaf at a level spans (Table 17.1). -/
def leafSpan (leaf lvl : Nat) : Nat := if lvl = 0 ∧ bits leaf 7 1 = 1 then 16 else 512 ^ lvl

/-- The firmware makes a page present (R403): tables that it supplies, zeroed, for absent entries above the leaf, then the leaf where
no further table is given. Nothing is done with a retired frame. -/
def State.makePresent (s : State) (va : Nat) (leaf : BitVec 64) : Nat → Nat → List (BitVec 50) → Option State
  | 0, _, _ => some s
  | lvl + 1, t, tables =>
    let ea := t + 8 * bits va (12 + 9 * lvl) 9
    let e := s.read ea 8
    if bits e 0 1 = 1 then
      if lvl = 0 ∨ bits e 6 1 = 1 then some s else State.makePresent s va leaf lvl (bits e 12 38 * 4096) tables
    else
      match lvl, tables with
      | 0, _ | _, [] =>
        if s.hasRetired (bits leaf.toNat 12 38) (leafSpan leaf.toNat lvl) then none
        else some (s.devWrite (homeDie ea) ea (leBytes 8 leaf.toNat))
      | _, n :: more =>
        let a := n.toNat / 4096 * 4096
        if s.hasRetired (a / 4096) 1 then none
        else
          let s := { s with mem := Memory.clear s.mem a (a + 4096), badBlocks := s.badBlocks.filter fun b => b / 4096 ≠ a / 4096 }
          State.makePresent (s.devWrite (homeDie ea) ea (leBytes 8 (a + 1))) va leaf lvl a more

/-- PAGEIN_RESOLVE (R403): the firmware of a die resolves a request that it holds, and the wake goes down. The tables and the leaf
are what the firmware chooses, an input; a leaf with P = 0 makes nothing present. -/
def execPageinResolve (k : Nat) (refused : Bool) (tables : List (BitVec 50)) (leaf : BitVec 64) (s : State) : Out :=
  match s.pageTree[k]? with
  | none => .next s
  | some e =>
    match e.node with
    | .firmware _ =>
      if refused then .next (s.sendWakes e true)
      else if !leaf.getLsbD 0 then .next s
      else .next (match s.makePresent (e.page * 4096) leaf 4 s.ctxs[e.ctx.toNat].ptroot tables with
        | some s => s.sendWakes e false
        | none => s)
    | _ => .next s

/-- A credited slot (R404, Table 17.5). -/
def State.creditSlot (s : State) (c : CoreId) (i : Fin 4) (refused : Bool) : State :=
  let a := c.pageWait i.val
  let s := if refused then s.write (a + 4) 1 1 else s
  s.bumpPw c i.val 16

/-- A waiting transfer walks again, or fails (R404). -/
def State.creditTransfer (s : State) (id : Nat) (refused : Bool) : State :=
  { s with xfers := s.xfers.map fun x =>
    if x.id = id then { x with waiting := false, fail := if refused then some 6 else x.fail } else x }

/-- The request that now stands among the first eight of a core's list is entered and sent (R401). -/
def State.enterWaiting (s : State) (c : CoreId) : State :=
  match (s.coreAt c).pageWaits[7]? with
  | some e => (e.slots.foldl (fun s i => s.bumpPw c i.val 0) s).sendPage c e.ctx e.page
  | none => s

/-- PAGEIN_WAKE (R403, R404): a wake reaches a node, which passes it on to its children, or a core, which credits the waiters. -/
def execPageinWake (k : Nat) (s : State) : Out :=
  match s.pageFly[k]? with
  | none => .next s
  | some f =>
    if !f.wake then .next s
    else
      let s := { s with pageFly := s.pageFly.eraseIdx k }
      match f.dest with
      | .core c =>
        let hit := fun (e : PageWait) => e.ctx == f.ctx && e.page == f.page
        let at_ := (s.coreAt c).pageWaits.findIdx hit
        match (s.coreAt c).pageWaits[at_]? with
        | none => .next s
        | some e =>
          if 8 ≤ at_ then .next s
          else
            let s := s.modCoreAt c fun k => { k with pageWaits := k.pageWaits.eraseIdx at_ }
            let s := e.slots.foldl (fun s i => s.creditSlot c i f.refused) s
            let s := e.transfers.foldl (fun s x => s.creditTransfer x f.refused) s
            .next (s.enterWaiting c)
      | n => match s.pageTree.find? fun e => e.is n f.ctx f.page with
        | some e => .next (s.sendWakes e f.refused)
        | none => .next s

end Sys2Proof.Machine
end

