-- ==== Sys2Proof/Machine/Keyway.lean ====
section
/-! DEFINITION. Keyway (chapter 19): doorbells and tails (R434, Table 19.6), queue switches (R437), commands read ahead (R435), the
checks at the head (Table 19.9), the choice of a queue (R382), halts and their end (R440), the commands (R441), queue semaphores
(R442), the groups of a launch (R275, R373). -/
namespace Sys2Proof.Machine

/-! ## Queue records, tails, switches -/

def Queue.size (x : Queue) : Nat := 2 ^ x.lsize.toNat
/-- Commands that are pending (R435). -/
def Queue.pending (x : Queue) : Nat := (x.tail - x.head).toNat
def Queue.lsizeOk (x : Queue) : Bool := decide (1 ≤ x.lsize.toNat) && decide (x.lsize.toNat ≤ 20)

/-- A tail is taken (Table 19.6): a bad one halts the queue; commands beyond it are not taken, nor a launch that still waits. -/
def State.takeTail (s : State) (q : Nat) (v : BitVec 32) : State :=
  let x := s.queue q
  if x.size < (v - x.head).toNat then s.haltQueue q 5 x.head false
  else
    let n := (v - x.head).toNat
    let since := if x.pending = 0 then s.clkOf 0 else x.since
    let gone := if n = 0 then x.waiting else none
    let s := s.modQueue q fun x =>
      { x with tail := v, since := since, ahead := x.ahead.filter (fun c => decide ((c.ix - x.head).toNat < n))
               waiting := if n = 0 then none else x.waiting }
    match gone with
    | some t => { s with teams := s.teams.filter (·.id ≠ t) }
    | none => s

/-- DOORBELL_TAIL (R434). -/
def execDoorbellTail (q : BitVec 10) (tail : BitVec 32) (s : State) : Out :=
  s.fromHost fun s =>
    let n := q.toNat
    let s := s.modQueue n fun x => { x with shadow := tail }
    if (s.queue n).resident ∧ !(s.queue n).switching then s.takeTail n tail else s

/-- QSW_SWITCH_IN (R437). -/
def execQswSwitchIn (q : BitVec 10) (hslot : BitVec 6) (s : State) : Out :=
  s.fromHost fun s =>
    let n := q.toNat
    let x := s.queue n
    if s.qswBusy || !x.en || !x.lsizeOk || x.resident || x.switching || s.queues.any (fun p => p.2.resident && p.2.hslot == hslot) then
      { s with qswRefused := true }
    else
      State.takeTail (State.modQueue { s with qswRefused := false } n fun x =>
        { x with resident := true, hslot := hslot, ahead := [], tail := x.head }) n x.shadow

/-- A switch-out ends once the commands taken have completed: the hardware slot is free (R437). -/
def State.switchedOut (n : Nat) (s : State) : State :=
  if (s.queue n).switching && (s.queue n).taken.isEmpty then
    State.modQueue { s with qswBusy := false } n fun x => { x with resident := false, switching := false, hslot := 0 }
  else s

/-- QSW_SWITCH_OUT (R437): no further command is taken, a waiting launch is withdrawn, commands read ahead are discarded. -/
def execQswSwitchOut (q : BitVec 10) (s : State) : Out :=
  s.fromHost fun s =>
    let n := q.toNat
    let x := s.queue n
    if s.qswBusy || !x.resident then { s with qswRefused := true }
    else
      let s := { s with teams := s.teams.filter fun tm => some tm.id ≠ x.waiting, qswBusy := true, qswRefused := false }
      State.switchedOut n (s.modQueue n fun x => { x with switching := true, ahead := [], waiting := none, aging := false })

/-- QUEUE_RECORD_WRITE (R433, Table 19.4): RW fields, while the queue is neither resident nor switching. -/
def execQueueRecordWrite (q : BitVec 10) (word : BitVec 3) (val : BitVec 64) (s : State) : Out :=
  s.fromHost fun s =>
    let n := q.toNat
    let x := s.queue n
    let v := val.toNat
    if x.resident || x.switching then s
    else s.modQueue n fun x =>
      if word = 0 then
        { x with en := bits v 0 1 == 1, kind := BitVec.ofNat 1 (bits v 1 1), priv := bits v 2 1 == 1, prio := BitVec.ofNat 2 (bits v 3 2)
                 qw := BitVec.ofNat 4 (bits v 5 4), lsize := BitVec.ofNat 5 (bits v 9 5), evec := BitVec.ofNat 11 (bits v 14 11)
                 eie := bits v 25 1 == 1 }
      else if word = 1 then { x with base := BitVec.ofNat 50 (bits v 6 44 * 64) }
      else if word = 2 then { x with head := BitVec.ofNat 32 (bits v 32 32) }
      else x

/-- KEYWAY_COMMAND_READ (R435): the next pending command is read ahead; `bad` is a completion error of the host. -/
def execKeywayCommandRead (q : BitVec 10) (bad : Bool) (s : State) : Out :=
  let n := q.toNat
  let x := s.queue n
  let k := x.ahead.length
  if !x.resident || x.switching || x.halted || decide (8 ≤ k) || decide (x.pending ≤ k) then .next s
  else
    let ix := x.head + BitVec.ofNat 32 k
    let a := x.base.toNat + 32 * (ix.toNat % x.size)
    let fails := (bad && isHost a) || !physTarget a || s.badRange a 32
    .next (((s.devPass 2 0 a 1).badReadParts [⟨a, 32⟩]).modQueue n fun x => { x with ahead := x.ahead ++ [⟨ix, BitVec.ofNat 256 (s.read a 32), fails⟩] })

/-! ## Commands at the head -/

def KCmd.hdr (c : KCmd) (lo n : Nat) : Nat := Sys2Proof.bits c.bits.toNat lo n
def KCmd.q1 (c : KCmd) (lo n : Nat) : Nat := Sys2Proof.bits c.bits.toNat (64 + lo) n
def KCmd.q2 (c : KCmd) (lo n : Nat) : Nat := Sys2Proof.bits c.bits.toNat (128 + lo) n
def KCmd.q3 (c : KCmd) (lo n : Nat) : Nat := Sys2Proof.bits c.bits.toNat (192 + lo) n
def KCmd.typ (c : KCmd) : Nat := c.hdr 0 4
/-- CTX of a command that has one. -/
def KCmd.ctx (c : KCmd) : Nat :=
  let t := c.typ
  if t = 1 ∨ t = 11 then c.q1 50 4 else if t = 2 ∨ t = 3 then c.q1 48 4 else c.q1 0 4
def KCmd.lcn (c : KCmd) : Nat := c.q3 24 17

/-- How many low bits of Q1, Q2 and Q3 a type uses (Table 19.8); none for a reserved type. -/
def payloadBits (t : Nat) : Option (Nat × Nat × Nat) :=
  match t with
  | 0 => some (0, 0, 0)
  | 1 => some (54, 0, 0)
  | 2 => some (52, 50, 41)
  | 3 => some (54, 64, 41)
  | 4 => some (50, 64, 0)
  | 5 => some (11, 0, 0)
  | 8 => some (50, 0, 0)
  | 9 => some (18, 64, 0)
  | 10 => some (23, 0, 0)
  | 11 => some (54, 40, 0)
  | 12 => some (43, 0, 0)
  | 13 => some (20, 0, 0)
  | 14 => some (20, 0, 0)
  | _ => none

/-- ERR 0x01 (Table 19.9). -/
def KCmd.malformed (c : KCmd) (kind : BitVec 1) : Bool :=
  let t := c.typ
  match payloadBits t with
  | none => true
  | some (a, b, d) =>
    let allowed := t == 0 || t == 4 || t == 5 || (if t = 2 ∨ t = 3 then kind == 1 else kind == 0)
    let align := (t == 1 && c.q1 0 6 != 0) || (t == 4 && c.q1 0 3 != 0) || (t == 8 && c.q1 0 6 != 0)
      || (t == 11 && (c.q1 0 6 != 0 || c.q2 0 16 != 0))
    let value := (t == 4 && !physTarget (c.q1 0 50)) || (t == 9 && (decide (8320 ≤ c.q1 4 14) || c.q2 5 3 != 0))
      || (t == 10 && (decide (5 < c.q1 4 3) || decide (5 < c.q1 7 3) || decide (4096 < c.q1 10 13) || (c.q1 10 13 == 0 && decide (c.q1 4 3 < 3))))
    c.hdr 7 1 != 0 || !allowed || decide (c.q1 0 64 / 2 ^ a ≠ 0) || decide (c.q2 0 64 / 2 ^ b ≠ 0) || decide (c.q3 0 64 / 2 ^ d ≠ 0)
      || align || value

/-- Work of a cluster is live: a thread, an engine job or a transfer (R366). -/
def State.liveIn (s : State) (d : ClusterId) : Bool :=
  let x := s.clAt d
  !x.window.isEmpty || !x.backlog.isEmpty || s.xfers.any (fun x => s.servedBy x == d) || (s.coresOf d).any fun c =>
    let k := s.coreAt c
    !k.submitted.isEmpty || s.xfers.any (·.at_ = c) || ([0, 1, 2] : List (Fin 4)).any fun i => (k.th i).status != .empty

/-- A context owns clusters. -/
def State.ownsClusters (s : State) (ctx : Nat) : Bool :=
  s.clusterIds.any fun d => (s.clAt d).own && (s.clAt d).ctx.toNat == ctx

/-- The context record at an address is refused (R365), or cannot be read (ERR 0x09). -/
def State.ctxRefused (s : State) (a : Nat) : Bool :=
  let v := s.read a 128
  let z := fun lo n => bits v lo n == 0
  !physTarget a || s.badRange a 128 || !(z 5 59 && z 114 14 && z 178 14 && z 242 14 && z 306 14 && z 370 14 && z 412 36 && z 448 6 && z 496 16
      && z 600 40 && z 640 384)
    || (bits v 384 10 + 1) % 4 != 0 || (bits v 394 10 + 1) % 2 != 0
    || (bits v 0 1 == 0 && s.ownsClusters (bits v 1 4))

/-- `kclu` changes OWN or CTX while work of the cluster is live (ERR 0x0A). -/
def State.cluBusy (s : State) (c : KCmd) : Bool :=
  let d : ClusterId := ⟨c.q1 0 4, c.q1 4 14⟩
  let x := s.clAt d
  (x.own != (c.q2 0 1 == 1) || x.ctx.toNat != c.q2 1 4) && s.liveIn d

/-- The checks of Table 19.9 that are made as a command stands at the head, in its order; in recovery every command is refused
(R481). -/
def State.headCheck (s : State) (x : Queue) (c : KCmd) : Option (BitVec 8) :=
  let t := c.typ
  let needsCtx := t == 1 || t == 2 || t == 3 || (decide (11 ≤ t) && decide (t ≤ 14))
  if s.boot.state = 3 then some 1
  else if c.bad then some 6
  else if c.malformed x.kind then some 1
  else if 8 ≤ t ∧ x.priv = false then some 2
  else if needsCtx && !(s.ctxs[c.ctx % 16]'(Nat.mod_lt _ (by decide))).valid then some 3
  else if (t = 2 ∨ t = 3) ∧ (s.route (BitVec.ofNat 4 c.ctx) c.lcn).1 = 0 then some 3
  else if t = 8 ∧ s.ctxRefused (c.q1 0 50) = true then some 9
  else if t = 9 ∧ s.cluBusy c = true then some 10
  else if t = 11 ∧ (s.pools[c.ctx % 16]'(Nat.mod_lt _ (by decide))).used ≠ [] then some 11
  else none

/-- The command at the head of a queue that serves commands, once a start has been published (Table 21.9). -/
def State.headCmd (s : State) (q : Nat) : Option KCmd :=
  let x := s.queue q
  if s.boot.state != 0 && x.resident && !x.switching && !x.halted && x.pending != 0 then x.ahead.find? (·.ix = x.head) else none

/-- A wait or a fence is met (R436, R442). -/
def State.waitMet (s : State) (x : Queue) (c : KCmd) : Bool :=
  let v := s.ksems[c.hdr 8 8 % 256]'(Nat.mod_lt _ (by decide))
  (c.hdr 5 1 == 0 || decide ((v - BitVec.ofNat 32 (c.hdr 32 32)).toNat < 2 ^ 31)) && (c.hdr 4 1 == 0 || x.taken.isEmpty)

/-- A launch goes on: a rectangle is free for its team, or the slots chosen for it are Empty (R374, Table 16.5). -/
def State.launchGoes (s : State) (q : Nat) : Bool :=
  match (s.queue q).waiting.bind s.team with
  | some tm => !tm.aborted && (match tm.st with
    | .waiting => !s.heldBack tm && (s.rectangle tm).isSome
    | .placing => s.mayStart tm
    | _ => false)
  | none => false

/-- A queue is ready: its head command can be taken, or its launch can go on (R382, R436). -/
def State.ready (s : State) (q : Nat) : Bool :=
  match s.headCmd q with
  | none => false
  | some c =>
    let x := s.queue q
    let t := c.typ
    (s.headCheck x c).isNone && s.waitMet x c && decide (x.taken.length < 64)
      && (t != 1 || s.launchGoes q) && (!(t == 2 || t == 3) || (s.route (BitVec.ofNat 4 c.ctx) c.lcn).1 == 1)

/-- The weight of a queue (R433). -/
def Queue.weight (x : Queue) : Nat := if x.qw = 0 then 1 else x.qw.toNat

/-- The queue that Keyway takes a command from next (R382): of the highest priority with a ready queue the oldest aging one, the
one whose turn it is, or the next in order of number. -/
def State.pick (s : State) : Option Nat :=
  let ready := (s.queues.map (·.1)).filter s.ready
  let prio := fun (q : Nat) => (s.queue q).prio.toNat
  let top := ready.foldl (fun m q => Nat.max m (prio q)) 0
  let l := ready.filter fun q => prio q == top
  let least := fun (f : Nat → Nat) (l : List Nat) => l.foldl (fun (b : Option Nat) q => match b with
    | none => some q
    | some p => if f q < f p then some q else some p) none
  let aging := l.filter fun q => (s.queue q).aging
  let (last, n) := s.kturn[top % 4]'(Nat.mod_lt _ (by decide))
  match least (fun q => (s.queue q).since) aging with
  | some q => some q
  | none =>
    if l.elem last ∧ 0 < n ∧ n < (s.queue last).weight then some last
    else match least id (l.filter fun q => decide (last < q)) with
      | some q => some q
      | none => least id l

/-- Keyway takes the head command of a queue. -/
def State.takeCmd (s : State) (q : Nat) (c : KCmd) : State :=
  let p := (s.queue q).prio.toNat
  let (last, n) := s.kturn[p % 4]'(Nat.mod_lt _ (by decide))
  let s := s.takeHead q (c.bits.setWidth 64)
  { s with kturn := s.kturn.set (p % 4) (if last = q then (q, n + 1) else (q, 1)) (Nat.mod_lt _ (by decide)) }

/-- The head command of a queue, if it is of a type: a check that fails refuses it and halts the queue (R440); else, when Keyway takes
it, its effect. -/
def State.serveCmd (s : State) (q : BitVec 10) (typ : Nat) (k : State → KCmd → State) : Out :=
  let n := q.toNat
  match s.headCmd n with
  | none => .next s
  | some c =>
    match s.headCheck (s.queue n) c with
    | some e => .next (s.haltQueue n e c.ix true)
    | none => .next (if c.typ = typ ∧ s.pick = some n then k (s.takeCmd n c) c else s)

/-- A team being placed: its slots are asked for; once they are Empty it starts. A new team's command is taken then, in the turn that Keyway
gives its queue (R381, R382). -/
def State.placeGo (s : State) (tm : Team) : State :=
  if !s.mayStart tm then s.clearSeats tm
  else if !tm.saved.isEmpty then s.startTeam tm
  else
    match s.headCmd tm.queue with
    | some c => if s.pick = some tm.queue then (s.takeCmd tm.queue c).startTeam tm else s
    | none => s

/-- TEAM_PLACE (R374, R375, R425): a waiting team, as Keyway comes to its queue, or an evicted one takes the first rectangle that is free
for it, and starts when every slot it needs is Empty. -/
def execTeamPlace (team : Nat) (s : State) : Out :=
  match s.team team with
  | none => .next s
  | some tm =>
    if tm.aborted then .next s
    else match tm.st with
      | .placing => .next (s.placeGo tm)
      | .waiting | .evicted =>
        if s.heldBack tm || (tm.st == .waiting && s.pick != some tm.queue) then .next s
        else .next (match s.rectangle tm with
          | none => s
          | some r => (s.setTeam (tm.onto r)).placeGo (tm.onto r))
      | _ => .next s

/-- QUEUE_AGING (R382): a ready queue has not been served for 2^16 cycles. -/
def execQueueAging (q : BitVec 10) (s : State) : Out :=
  let n := q.toNat
  .next (if s.ready n ∧ (s.queue n).since + 2 ^ 16 ≤ s.clkOf 0 then s.modQueue n fun x => { x with aging := true } else s)

/-- A halted queue goes on (R440): from a command whose read failed on, all are read again; a tail that was bad is taken again. -/
def State.resume (s : State) (q : Nat) : State :=
  let x := s.queue q
  let s := s.modQueue q fun x => { x with halted := false, refused := false, ahead := x.ahead.takeWhile (!·.bad) }
  if x.err = 5 ∨ x.shadow ≠ x.tail then s.takeTail q x.shadow else s

/-- QCTL_CONTINUE (R440). -/
def execQctlContinue (q : BitVec 10) (s : State) : Out :=
  s.fromHost fun s => if (s.queue q.toNat).halted then s.resume q.toNat else s

/-- QCTL_SKIP (R440): a refused command is passed over, with a launch that waited there. -/
def execQctlSkip (q : BitVec 10) (s : State) : Out :=
  s.fromHost fun s =>
    let n := q.toNat
    let x := s.queue n
    if !x.halted then s
    else
      let s := if x.refused then s.modQueue n fun x =>
        { x with head := x.head + 1, ahead := x.ahead.filter (·.ix ≠ x.head), since := s.clkOf 0, aging := false, waiting := none } else s
      let s := if x.refused then { s with teams := s.teams.filter fun tm => some tm.id ≠ x.waiting } else s
      s.resume n

/-! ## Queue semaphores (R429, R442) -/

/-- SEMV_WRITE. -/
def execSemvWrite (sem : BitVec 8) (val : BitVec 32) (s : State) : Out := s.fromHost fun s => { s with ksems := s.ksems.set sem.toNat val }
/-- SEMADD_WRITE. -/
def execSemaddWrite (sem : BitVec 8) (val : BitVec 32) (s : State) : Out :=
  s.fromHost fun s => { s with ksems := s.ksems.set sem.toNat (s.ksems[sem.toNat] + val) }

/-! ## Plain commands (R441) -/

/-- A command whose effect is its completion. -/
def State.atOnce (q : BitVec 10) (k : State → KCmd → State) (s : State) (c : KCmd) : State :=
  (k s c).completeCmd q.toNat c.ix true

/-- `knop`. -/
def execKnop (q : BitVec 10) (s : State) : Out := s.serveCmd q 0 (State.atOnce q fun s _ => s)

/-- A write has touched the SEQ word of a mailbox of the hub: with a new nonzero value the security processor takes the request,
copies it and sets the status to 0 (R452, R484). -/
def State.mailboxes (s : State) (a n : Nat) : State :=
  let touched := fun (w : Nat) => decide (a < w + 8) && decide (w < a + n)
  let s :=
    let q := BitVec.ofNat 64 (s.read 0x1038 8)
    if touched 0x1038 && q != 0 && q != s.boot.loadSeq && s.boot.state != 0 then
      State.write { s with boot := { s.boot with loadSeq := q, loads := s.boot.loads ++ [⟨BitVec.ofNat 384 (s.read 0x1000 48), s.boot.fuses⟩] } } 0x1030 8 0
    else s
  let q := BitVec.ofNat 64 (s.read 0x1078 8)
  if touched 0x1078 && q != 0 && q != s.boot.attSeq && s.boot.state != 0 then
    State.write { s with boot := { s.boot with attSeq := q, reports := s.boot.reports ++ [BitVec.ofNat 448 (s.read 0x1040 56)] } } 0x1050 1 0
  else s

/-- `kwrite`: a bad HBM block refuses 8 bytes (R498). -/
def execKwrite (q : BitVec 10) (s : State) : Out :=
  s.serveCmd q 4 (State.atOnce q fun s c =>
    let a := c.q1 0 50
    match s.refuses [⟨a, 8⟩] with
    | some l => s.badWrite l
    | none => (s.writeBytes a (leBytes 8 (c.q2 0 64))).mailboxes a 8)

/-- `kintr`. -/
def execKintr (q : BitVec 10) (s : State) : Out := s.serveCmd q 5 (State.atOnce q fun s c => s.sendVec (c.q1 0 11))

/-- A job for a copy engine from a command of Keyway (R441): the record of a `copy1d` or a `fill`. -/
def KCmd.record (c : KCmd) : Nat :=
  let p := fun (k v : Nat) => 2 ^ (256 + 64 * k) * v
  if c.typ = 2 then 1 + p 0 (c.q1 0 48) + p 1 (c.q2 0 48) + p 2 (c.q3 0 24 + 2 ^ 24 * c.q2 48 2)
  else 5 + p 0 (c.q1 0 48) + p 1 (c.q3 0 24 + 2 ^ 24 * c.q1 52 2) + p 2 (c.q2 0 64)

def State.keywayJob (s : State) (q : Nat) (c : KCmd) : State :=
  let d := (s.route (BitVec.ofNat 4 c.ctx) c.lcn).2
  s.modClAt d fun x =>
    { x with
      backlog := enlist { id := x.jobNo, core := none, kw := some (q, c.ix), engine := 0, rcd := BitVec.ofNat 512 c.record
                          ctx := BitVec.ofNat 4 c.ctx, user := !(s.queue q).priv
                          accepted := s.clkOf d.die } x.backlog
      jobNo := x.jobNo + 1 }

/-- `kcopy`. -/
def execKcopy (q : BitVec 10) (s : State) : Out := s.serveCmd q 2 fun s c => s.keywayJob q.toNat c
/-- `kfill`. -/
def execKfill (q : BitVec 10) (s : State) : Out := s.serveCmd q 3 fun s c => s.keywayJob q.toNat c

/-! ## System commands -/

/-- The context record at an address (Table 16.1). -/
def State.ctxAt (s : State) (a : Nat) : Ctx :=
  let v := s.read a 128
  { valid := bits v 0 1 == 1, ptroot := bits v 64 50, rtab := bits v 128 50, ctab := bits v 192 50, gtab := bits v 256 50
    mtab := bits v 320 50, twm1 := BitVec.ofNat 10 (bits v 384 10), thm1 := BitVec.ofNat 10 (bits v 394 10)
    mcnt := BitVec.ofNat 8 (bits v 404 8), svec := BitVec.ofNat 48 (bits v 448 48), tpol := BitVec.ofNat 64 (bits v 512 64)
    eb := BitVec.ofNat 24 (bits v 576 24) }

/-- `kctx` (R365). -/
def execKctx (q : BitVec 10) (s : State) : Out :=
  s.serveCmd q 8 (State.atOnce q fun s c =>
    let a := c.q1 0 50
    let ix := bits (s.read a 16) 1 4
    State.wakeRoutes { s with ctxs := s.ctxs.set (ix % 16) (s.ctxAt a) (Nat.mod_lt _ (by decide)) })

/-- The hub clears a cluster (R366). -/
def State.clearCluster (s : State) (d : ClusterId) : State :=
  let ranges := (spLoc d.die d.clu 0, 0x20000) :: (s.coresOf d).flatMap fun c => [(c.ls 0, 0x4000), (s.cqOf c 0, 1024)]
  let s := ranges.foldl (fun (s : State) (r : Nat × Nat) =>
    { s with
      mem := Memory.clear s.mem r.1 (r.1 + r.2)
      full := s.full.filter fun w => decide (w < r.1) || decide (r.1 + r.2 ≤ w)
      badWords := s.badWords.filter fun w => decide (w < r.1) || decide (r.1 + r.2 ≤ w)
      quarantine := s.quarantine.filter fun w => decide (w < r.1) || decide (r.1 + r.2 ≤ w) }) s
  let s := (s.coresOf d).foldl (fun s c => s.modCoreAt c fun k =>
    { k with submitted := [], inbox := Vector.replicate 4 [], clab := []
             ports := k.ports.map fun v => v.map fun p => { p with words := [], taken := 0 } }) s
  s.modClAt d fun x => { x with sems := Vector.replicate 256 0, clab := [] }

/-- A configuration word written (Table 16.2); a cluster given to another context than its last is cleared first. -/
def State.configCluster (s : State) (d : ClusterId) (w : Nat) : State :=
  let own := bits w 0 1 == 1
  let ctx := BitVec.ofNat 4 (bits w 1 4)
  let s := if own && (s.clAt d).lastCtx != some ctx then s.clearCluster d else s
  s.modClAt d fun x =>
    { x with own := own, ctx := ctx, lastCtx := if own then some ctx else x.lastCtx
             weights := Vector.ofFn fun n : Fin 8 => BitVec.ofNat 4 (bits w (8 + 4 * n.val) 4), eb := BitVec.ofNat 24 (bits w 40 24) }

/-- `kclu` (R366). -/
def execKclu (q : BitVec 10) (s : State) : Out :=
  s.serveCmd q 9 (State.atOnce q fun s c => s.configCluster ⟨c.q1 0 4, c.q1 4 14⟩ (c.q2 0 64))

/-- `kbudget` (R387): in force from the die's next period. -/
def execKbudget (q : BitVec 10) (s : State) : Out :=
  s.serveCmd q 10 (State.atOnce q fun s c =>
    { s with budgetsNext := assocSet s.budgetsNext (c.q1 0 4, c.q1 4 3, c.q1 7 3) (BitVec.ofNat 13 (c.q1 10 13)) })

/-- `kpool` (R441). -/
def execKpool (q : BitVec 10) (s : State) : Out :=
  s.serveCmd q 11 (State.atOnce q fun s c =>
    { s with pools := s.pools.set (c.ctx % 16) { base := c.q1 0 50, len := c.q2 0 40 } (Nat.mod_lt _ (by decide)) })

/-- The team that a system command names. -/
def State.namedTeam (s : State) (c : KCmd) : Option Team :=
  s.teams.find? fun tm => tm.ctx.toNat == c.ctx && tm.no.toNat == c.q1 4 16

/-- `kpreempt` (R441): the request goes to the slot that holds the team slot; with no thread there the command completes. -/
def execKpreempt (q : BitVec 10) (s : State) : Out :=
  s.serveCmd q 12 fun s c =>
    let cmd := (q.toNat, c.ix)
    let place := match s.namedTeam c, s.placeOf (BitVec.ofNat 4 c.ctx) (c.q1 20 10) (c.q1 30 10) with
      | some tm, .core d => (([0, 1, 2] : List (Fin 4)).find? fun i =>
          let t := (s.coreAt d).th i
          t.status != .empty && t.team == some tm.id && t.ts.toNat == c.q1 40 2).map fun i => (d, i)
      | _, _ => none
    match place with
    | some (d, i) => s.sendReq d i (if c.q1 42 1 = 1 then .swap else .out) (some cmd)
    | none => s.completeCmd q.toNat c.ix true

/-- `kevict` (R441, R423): the requests go out; the command completes when the team is Evicted, or at once where no such team is
placed. A team that is being evicted already completes this command too. -/
def execKevict (q : BitVec 10) (s : State) : Out :=
  s.serveCmd q 13 fun s c =>
    match s.namedTeam c with
    | some tm =>
      if tm.st = .running ∧ tm.aborted = false then
        let s := s.setTeam { tm with st := .evicting, evict := [(q.toNat, c.ix)] }
        (s.threadsOf tm.id).foldl (fun s p => s.sendReq p.1 p.2 .evict none) s
      else if tm.st = .evicting ∧ tm.aborted = false then s.setTeam { tm with evict := tm.evict ++ [(q.toNat, c.ix)] }
      else s.completeCmd q.toNat c.ix true
    | none => s.completeCmd q.toNat c.ix true

/-- `kabort` (R441): the command completes when every thread of the team is gone. -/
def execKabort (q : BitVec 10) (s : State) : Out :=
  s.serveCmd q 14 fun s c =>
    match s.namedTeam c with
    | some tm =>
      let ts := s.threadsOf tm.id
      let s := s.setTeam { tm with aborted := true }
      let s := ts.foldl (fun s p => s.sendReq p.1 p.2 .abort (some (q.toNat, c.ix))) s
      let gone := s.outs.filter (·.team = tm.id)
      let s := gone.foldl (fun s o => s.freeBlock o.ctx o.block) { s with outs := s.outs.filter (·.team ≠ tm.id) }
      let s := tm.saved.foldl (fun s b => s.freeBlock tm.ctx b.block) s
      let s := s.setTeam { tm with aborted := true, saved := [] }
      if ts.isEmpty then s.completeCmd q.toNat c.ix true else s
    | none => s.completeCmd q.toNat c.ix true

/-! ## Launch (R371, R373, R275) -/

/-- Bytes of a context's virtual memory as Keyway reads them (R441): none where a translation or a read fails. -/
def State.readVirt (s : State) (ctx : BitVec 4) (va n : Nat) : Option (List Byte) × State :=
  if 2 ^ 48 < va + n ∨ spaceOf va ≠ .paged ∨ spaceOf (va + n - 1) ≠ .paged then (none, s)
  else
    let rec go : List (Nat × Nat) → State → Option (List Byte) × State
      | [], s => (some [], s)
      | (a, k) :: r, s =>
        match s.pageWalk ctx {} false a with
        | (.fault _ _, s) => (none, s)
        | (.ok e, s) =>
          if s.badRange (e.pa a) k then (none, s.badRead (e.pa a) k)
          else match go r s with
            | (some bs, s) => (some (Memory.bytes s.mem (e.pa a) k ++ bs), s)
            | (none, s) => (none, s)
    go (chunks 4096 n va n) s

/-- The record is refused (R371). -/
def State.recordRefused (s : State) (ctx : BitVec 4) (tm : Team) : Bool :=
  let k := s.ctxs[ctx.toNat]
  let w := k.twm1.toNat + 1
  let h := k.thm1.toNat + 1
  let z := fun lo n => tm.bits lo n == 0
  !(z 52 12 && z 101 27 && z 148 44 && z 288 32 && z 376 8 && z 448 64 && z 131 1 && z 135 1 && z 139 1 && z 143 1) || tm.spc == 0
    || ((List.range 4).any fun n => match tm.cls n with
      | some t => decide (tm.spc ≤ t)
      | none => false)
    || decide (w < 4 * tm.wc) || decide (h < 2 * tm.hc)
    || (tm.bits 51 1 == 1 && (tm.bits 64 10 % 4 != 0 || tm.bits 74 10 % 2 != 0 || decide (w < tm.bits 64 10 + 4 * tm.wc)
      || decide (h < tm.bits 74 10 + 2 * tm.hc)))
    || (let pc := tm.bits 0 48; decide (pc % 64 = 0) || decide (pc % 2 = 1) || decide (Sys2Proof.bits pc 44 4 = 15))

/-- The positions of a member list. -/
def positionsOf (bs : List Byte) : Nat → List (Nat × Nat × Nat)
  | 0 => []
  | n + 1 =>
    let v := leNat (bs.take 4)
    (bits v 0 10, bits v 10 10, bits v 20 12) :: positionsOf (bs.drop 4) n

def distinct : List (Nat × Nat) → Bool
  | [] => true
  | x :: r => !r.elem x && distinct r

/-- Install the group of one word of the list (R275, R373); none where it is refused, as are reserved bits of a word or of a member and a SIZE
outside Table 10.8 (log 81). -/
def State.installGroup (s : State) (ctx : BitVec 4) (word : Nat) : Option State × State :=
  let gid := bits word 48 8
  match s.readVirt ctx (bits word 0 48) 16 with
  | (none, s) => (none, s)
  | (some e, s) =>
    let v := leNat e
    let size := bits v 0 21
    if bits word 56 8 ≠ 0 ∨ bits v 21 1 = 0 ∨ size = 0 ∨ 2 ^ 20 < size then (none, s)
    else
      match s.readVirt ctx (bits v 64 48) (4 * size) with
      | (none, s) => (none, s)
      | (some l, s) =>
        let ps := positionsOf l size
        let at_ := ps.map fun p => (p.1, p.2.1)
        let fifth := fun (p : Nat × Nat) => decide (4 ≤ s.groups.countP fun g =>
          g.ctx == ctx && g.gid != gid && g.members.any fun m => m.x == p.1 && m.y == p.2)
        let named := fun (p : Nat × Nat) => s.placeOf ctx p.1 p.2 != .noCore
        if ps.any (fun p => p.2.2 != 0) || !distinct at_ || !at_.all named || at_.any fifth then (none, s)
        else
          let g : Group := { ctx := ctx, gid := gid, members := at_.map fun p => { x := p.1, y := p.2 } }
          let s : State := { s with groups := (s.groups.filter fun (x : Group) => !(x.ctx == ctx && x.gid == gid)) ++ [g] }
          let s := s.devWrite 0 (s.ctxs[ctx.toNat].gtab + 16 * gid) e 2
          (some s, s)

/-- The groups of the list in order; the ones before a refused one stay installed. -/
def State.installGroups (ctx : BitVec 4) : List Nat → State → Bool × State
  | [], s => (true, s)
  | w :: r, s => match s.installGroup ctx w with
    | (some s, _) => State.installGroups ctx r s
    | (none, s) => (false, s)

/-- `klaunch` (R371, R373, R441): with its wait and fence met, the record is read and checked and its groups are installed; the team
then waits for its placement, which takes the command. -/
def execKlaunch (q : BitVec 10) (s : State) : Out :=
  let n := q.toNat
  match s.headCmd n with
  | none => .next s
  | some c =>
    let x := s.queue n
    match s.headCheck x c with
    | some e => .next (s.haltQueue n e c.ix true)
    | none =>
      if c.typ ≠ 1 ∨ x.waiting.isSome ∨ s.waitMet x c = false then .next s
      else
        let a := c.q1 0 50
        let ctx := BitVec.ofNat 4 c.ctx
        let tm : Team := { id := s.teamNo, no := s.launches[ctx.toNat], ctx := ctx, queue := n, cmd := c.ix, prio := x.prio
                           rcd := BitVec.ofNat 512 (s.read a 64), since := s.clkOf 0 }
        let refuse := fun (s : State) => State.haltQueue s n 4 c.ix true
        if !physTarget a || s.badRange a 64 || s.recordRefused ctx tm then .next (refuse s)
        else
          let cnt := tm.bits 368 8
          match (if cnt = 0 then (some [], s) else s.readVirt ctx (tm.bits 320 48) (8 * cnt)) with
          | (none, s) => .next (refuse s)
          | (some l, s) =>
            match State.installGroups ctx ((List.range cnt).map fun i => leNat ((l.drop (8 * i)).take 8)) s with
            | (false, s) => .next (refuse s)
            | (true, s) =>
              .next (State.modQueue { s with teams := s.teams ++ [tm], teamNo := s.teamNo + 1
                                             launches := s.launches.set ctx.toNat (s.launches[ctx.toNat] + 1) } n fun x =>
                { x with waiting := some tm.id })

end Sys2Proof.Machine
end

