-- ==== Sys2Proof/Machine/Host.lean ====
section
/-! DEFINITION. The host's accesses to the BARs (R426 to R432), MSI-X, the Hinge ports (R445, R446), links that have trained. -/
namespace Sys2Proof.Machine

/-! ## MSI-X (R432) -/

/-- The vector is unmasked: what is pending is sent, once. -/
def State.unmask (s : State) (v : Nat) : State :=
  let e := assocGet s.vecs v {}
  let s : State := { s with vecs := assocSet s.vecs v { e with mask := false, pending := false } }
  if e.pending then { s with vecSent := s.vecSent ++ [(e.addr, e.data)] } else s

/-- MSIX_UNMASK (R432). -/
def execMsixUnmask (vec : BitVec 11) (s : State) : Out := s.fromHost fun s => s.unmask vec.toNat

/-! ## BAR 2 (R431, R463) -/

/-- BAR2_READ (R431): the bytes, lowest address first. What a read of uncorrectable bytes returns to the host is not stated: a free value
(log 9). -/
def execBar2Read (addr : BitVec 40) (len : BitVec 4) (s : State) : Out :=
  s.fromHost fun s =>
    let a := addr.toNat
    let n := len.toNat
    let s := (s.devPass 2 0 a 1).hop ⟨0, 4, 0, 1⟩ 2 1
    if s.badRange a n then
      let (x, s) := s.free
      let (y, s) := s.free
      { s.badRead a n with hostData := BitVec.ofNat 128 (x.toNat + 2 ^ 64 * y.toNat) }
    else { s with hostData := BitVec.ofNat 128 (s.read a n) }

/-- The two mailboxes of the hub region (Table 21.1). -/
def isMailbox (a : Nat) : Bool := decide (0x1000 ≤ a) && decide (a < 0x1080)

/-- One part of a host write: discarded in the hub region outside the mailboxes (R463), and on an uncorrectable block (R498). -/
def State.hostPut (s : State) (a : Nat) (bs : List Byte) : State :=
  if a < 2 ^ 30 ∧ isMailbox a = false then s
  else
    let s := (s.devPass 2 0 a 1).hop ⟨0, 4, 0, 0⟩ 2 1
    match s.refuses [⟨a, bs.length⟩] with
    | some l => s.badWrite l
    | none => (s.writeBytes a bs).mailboxes a bs.length

/-- The parts of a host write between aligned 8-byte boundaries (R431). -/
def State.hostWrite (s : State) : List (Nat × Nat) → List Byte → State
  | [], _ => s
  | (a, n) :: r, bs => (s.hostPut a (bs.take n)).hostWrite r (bs.drop n)

/-- BAR2_WRITE (R431). Bytes beyond the window have no place. -/
def execBar2Write (addr : BitVec 40) (data : List (BitVec 8)) (s : State) : Out :=
  s.fromHost fun s =>
    let a := addr.toNat
    let bs := data.take (2 ^ 40 - a)
    s.hostWrite (chunks 8 bs.length a bs.length) bs

/-- BAR_ATOMICOP (R426): it completes with Unsupported Request; nothing changes. -/
def execBarAtomicop (_bar : BitVec 1) (_off : BitVec 40) (s : State) : Out := .next s

/-! ## What a host read of BAR 0 returns (R429) -/

/-- Word n of a queue record (Table 19.4). -/
def Queue.word (x : Queue) (n : Nat) : Nat :=
  match n with
  | 0 => x.en.toNat + 2 * x.kind.toNat + 2 ^ 2 * x.priv.toNat + 2 ^ 3 * x.prio.toNat + 2 ^ 5 * x.qw.toNat + 2 ^ 9 * x.lsize.toNat
      + 2 ^ 14 * x.evec.toNat + 2 ^ 25 * x.eie.toNat
  | 1 => x.base.toNat
  | 2 => 2 ^ 32 * x.head.toNat
  | 3 => x.shadow.toNat + 2 ^ 32 * x.resident.toNat + 2 ^ 33 * x.switching.toNat + 2 ^ 34 * x.halted.toNat + 2 ^ 40 * x.hslot.toNat
      + 2 ^ 48 * x.err.toNat + 2 ^ 56 * x.taken.length
  | 4 => x.fidx.toNat + 2 ^ 32 * x.acause.toNat
  | _ => 0

/-- PROG of a doorbell page (Table 19.5). -/
def Queue.prog (x : Queue) : Nat :=
  x.head.toNat + 2 ^ 32 * x.switching.toNat + 2 ^ 33 * x.resident.toNat + 2 ^ 34 * x.halted.toNat + 2 ^ 40 * x.err.toNat

/-- Words 0 and 1 of a Hinge port's registers (Table 19.10). -/
def Hinge.word (h : Hinge) (n : Nat) : Nat :=
  if n = 0 then h.en.toNat + 2 ^ 2 * h.up.toNat + 2 ^ 3 * h.lanes.toNat + 2 ^ 16 * h.rid.toNat
  else if n = 1 then h.replay.toNat + 2 ^ 32 * h.downs.toNat else 0

/-- The global registers (Table 19.3). -/
def State.globalWord (s : State) (off : Nat) : Nat :=
  match off with
  | 0x000 => 0x0016 + 2 ^ 16 * Config.stepping.toNat
  | 0x008 => s.modId.toNat
  | 0x018 => s.qswBusy.toNat + 2 * s.qswRefused.toNat
  | 0x028 => s.reqNo.toNat
  | 0x030 => s.gvec.toNat + 2 ^ 11 * s.gie.toNat
  | _ => 0

/-- The aligned 8 bytes at an offset of BAR 0 (Table 19.2); write-only and reserved fields read zero (R5, R6). -/
def State.bar0Word (s : State) (off : Nat) : Nat :=
  let vec := fun (n : Nat) => assocGet s.vecs n {}
  if off < 0x1000 then s.globalWord off
  else if off < 0x1800 then (s.ksems[(off - 0x1000) / 8 % 256]'(Nat.mod_lt _ (by decide))).toNat
  else if off < 0x1_0000 then 0
  else if off < 0x2_0000 then (s.queue ((off - 0x1_0000) / 64)).word (off % 64 / 8)
  else if off < 0x2_0200 then (s.hinges[(off - 0x2_0000) / 64 % 8]'(Nat.mod_lt _ (by decide))).word (off % 64 / 8)
  else if 0x3_0000 ≤ off ∧ off < 0x3_8000 then
    let v := vec ((off - 0x3_0000) / 16)
    if off % 16 = 0 then v.addr.toNat else v.data.toNat + 2 ^ 32 * v.mask.toNat
  else if 0x3_8000 ≤ off ∧ off < 0x3_8100 then
    (List.range 64).foldl (fun a i => a + 2 ^ i * (vec (8 * (off - 0x3_8000) + i)).pending.toNat) 0
  else if 0x40_0000 ≤ off ∧ off < 0x80_0000 ∧ off % 4096 = 8 then (s.queue ((off - 0x40_0000) / 4096)).prog
  else 0

/-- An access to BAR 0 has a size and an alignment that it accepts (R429): a write of any other is discarded. -/
def bar0Takes (off size : Nat) : Bool := (size == 4 || size == 8) && off % size == 0 && decide (off + size ≤ 2 ^ 23)

/-- What a host read of BAR 0 returns; none is Unsupported Request (R429). A read of a counter clears it by HINGE_COUNTER_READ. -/
def State.bar0Read (s : State) (off size : Nat) : Option Nat :=
  if bar0Takes off size then some (bits (s.bar0Word (off / 8 * 8)) (off % 8 * 8) (8 * size)) else none

/-! ## Links and Hinge ports (R445, R446, R469) -/

def State.link (s : State) (l : LinkId) : Link := assocGet s.links l {}
def State.setLink (s : State) (l : LinkId) (x : Link) : State := { s with links := assocSet s.links l x }

def State.hinge (s : State) (p : BitVec 3) : Hinge := s.hinges[p.toNat]
def State.setHinge (s : State) (p : BitVec 3) (h : Hinge) : State := { s with hinges := s.hinges.set p.toNat h }

/-- A port's link goes down and trains; DOWNS counts it (Table 19.10). -/
def Hinge.drop (h : Hinge) : Hinge :=
  { h with training := h.en, up := false, lanes := 0, downs := if h.up then h.downs + 1 else h.downs }

/-- HINGE_RETRAIN (R445). -/
def execHingeRetrain (port : BitVec 3) (s : State) : Out :=
  s.fromHost fun s => if (s.hinge port).en then s.setHinge port (s.hinge port).drop else s

/-- HINGE_COUNTER_READ (R445): the count is returned and cleared. -/
def execHingeCounterRead (port : BitVec 3) (downs : Bool) (s : State) : Out :=
  s.fromHost fun s =>
    let h := s.hinge port
    { s.setHinge port (if downs then { h with downs := 0 } else { h with replay := 0 }) with
      hostData := (if downs then h.downs else h.replay).setWidth 128 }

/-- The Hinge module port of a link. -/
def linkPort (l : LinkId) : BitVec 3 := BitVec.ofNat 3 l.index

/-- LINK_TRAINING_COMPLETE (R445, R469); the host link trains in FLIT mode only, at x16 or fewer lanes (Table 19.1). -/
def execLinkTrainingComplete (link : LinkId) (res : Training) (s : State) : Out :=
  let l := s.link link
  if link.kind = .modulePort then
    let h := s.hinge (linkPort link)
    if !h.training then .next s
    else
      let up := res.up && !l.fenced && decide (res.lanes.toNat ≤ 8)
      .next ((s.setHinge (linkPort link) { h with training := false, up := up, lanes := if up then res.lanes.setWidth 4 else 0, rid := if up then res.rid else h.rid }).setLink
        link { l with up := up, tries := if up then 0 else l.tries })
  else
    let up := res.up && (link.kind != .hostLink || (res.flit && [1, 2, 4, 8, 16].contains res.lanes.toNat))
    .next (if l.fenced then s else s.setLink link { l with up := up, tries := if up then 0 else l.tries, width := if up then res.lanes else 0 })

/-- The route of a context by which a module is known here (R446): its index. -/
def State.routeFrom (s : State) (port : BitVec 3) (r : HingeReq) : Option Nat :=
  if !s.ctxs[r.ctx.toNat].valid then none
  else
    (List.range s.ctxs[r.ctx.toNat].mcnt.toNat).findSome? fun i =>
      if s.modRoute r.ctx (i + 1) = some (port.toNat, r.fromMod.toNat, r.fromCtx.toNat) then some (i + 1) else none

/-- Where a request of another module leads: paged memory or a cluster's scratchpad by its logical number, in the tables of the context
that it names (R227, R269, R446). Its walks queue at core 0 of the serving cluster (R393). -/
def State.hingeFind (s : State) (h : HingeIn) (wr : Bool) (addr : BitVec 48) (len : Nat) : Found × State :=
  let d := hingeCluster h.port
  let a : Who := ⟨s.coreIn d 0, d, h.req.ctx, true, 0, .hinge h.id, h.got, false⟩
  if 2 ^ 48 < addr.toNat + len ∨ (spaceOf addr.toNat ≠ .paged ∧ spaceOf addr.toNat ≠ .peer) then (.trap 5 0 addr.toNat, s)
  else s.find a { w := wr } addr.toNat len

/-- An accepted request is performed, unless it waits for a walk or for a route entry; what goes back to its module is not this module's
state. -/
def State.hingePerform (s : State) (h : HingeIn) : State :=
  let wait := fun (s : State) => if s.hingeIn.any (·.id == h.id) then s else { s with hingeIn := s.hingeIn ++ [h] }
  let (wr, addr, bs, len) := match h.req.op with
    | .write addr bs => (true, addr, bs, bs.length)
    | .read addr len => (false, addr, [], len)
    | .message .. => (false, 0, [], 0)
  let gone := fun (s : State) => { s with hingeIn := s.hingeIn.filter (·.id != h.id) }
  match s.hingeFind h wr addr len with
  | (.parts ps, s) =>
    gone (if wr then
      match s.refuses ps with
      | some l => s.badWrite l
      | none => s.applyWritesFor none [⟨ps, bs⟩]
    else (s.badReadParts ps).meterFor 1 none ps)
  | (.trap .., s) => gone s
  | (.miss, s) | (.absent _, s) => wait s

/-- A request that waited tries again, once each walk it asked for has given its result. -/
def State.hingeServe (n : Nat) (s : State) : Out :=
  match s.hingeIn.find? (·.id == n) with
  | none => .next s
  | some h =>
    let asks := (s.coreAt (s.coreIn (hingeCluster h.port) 0)).missQ.any fun r => r.who == .hinge n
    .next (if asks then s else s.hingePerform h)

/-- HINGE_REQUEST_ARRIVAL (R446): what is accepted is performed. -/
def execHingeRequestArrival (port : BitVec 3) (req : HingeReq) (s : State) : Out :=
  let h := s.hinge port
  if !h.up || h.rid != req.fromMod then .next s
  else
    match s.routeFrom port req with
    | none => .next s
    | some m =>
      match req.op with
      | .message sx sy x y cls ws =>
        if ws.isEmpty || decide (4 < ws.length) then .next s
        else
          match s.placeOf req.ctx x.toNat y.toNat with
          | .core c => .next { s with msgFly := s.msgFly ++ [⟨none, c, req.ctx, ⟨sx, sy, BitVec.ofNat 8 m, cls, ws⟩⟩] }
          | _ => .next s
      | .read .. | .write .. => .next ({ s with hingeNo := s.hingeNo + 1 }.hingePerform ⟨s.hingeNo, port, req, []⟩)

end Sys2Proof.Machine
end

