-- ==== Sys2Proof/Machine/Loader.lean ====
section
/-! DEFINITION. The loader (chapter 20): objects and their layout (R447 to R449), relocation (R450, R451), the load mailbox
(R452, R453), the translation of Tiruc objects and its cache (R456 to R460), fuse counters (R461). A request is served in one
step (log 25). -/
namespace Sys2Proof.Machine

/-! ## Objects -/

/-- n bytes of an object as a number. -/
def field (bs : List Byte) (off n : Nat) : Nat := leNat ((bs.drop off).take n)

/-- Bytes put over others. -/
def patch (bs : List Byte) (off : Nat) (new : List Byte) : List Byte := bs.take off ++ new ++ bs.drop (off + new.length)

/-- The lines of a text section. -/
def linesOf : Nat → List Byte → List (List Byte)
  | 0, _ => []
  | n + 1, bs => bs.take 64 :: linesOf n (bs.drop 64)
def Sect.lines (x : Sect) : List (List Byte) := linesOf (x.bytes.length / 64) x.bytes

/-- Sizes and places that a section's kind allows (Table 20.2). -/
def sectOk (tiruc : Bool) (len kind foff size voff : Nat) : Bool :=
  let unit := if kind = 1 ∨ kind = 4 then 64 else if kind = 5 ∨ kind = 6 then 24 else if kind = 8 ∨ kind = 9 then 16 else 1
  decide (1 ≤ kind) && decide (kind ≤ 9) && decide (size % unit = 0) && (tiruc || decide (kind < 8))
    && (if kind = 3 then foff == 0 else foff % 64 == 0 && decide (foff + size ≤ len - 96))
    && (if kind ≤ 3 then voff % 4096 == 0 else voff == 0)

/-- Record i of a section of records of n bytes. -/
def Sect.record (x : Sect) (n i : Nat) : List Byte := (x.bytes.drop (n * i)).take n

/-- The records of a section hold no reserved value (R447, R449, R450, R456): symbols, relocations, virtual cores, channels. -/
def Sect.recordsOk (x : Sect) (nsect : Nat) : Bool :=
  let every := fun (n : Nat) (ok : List Byte → Bool) => (List.range (x.bytes.length / n)).all fun i => ok (x.record n i)
  match x.kind with
  | 5 => every 24 fun r => field r 14 2 == 0 && decide (1 ≤ field r 12 1) && decide (field r 12 1 ≤ 8)
      && (decide (field r 12 1 < 7) || field r 16 8 == 0)
  | 6 => every 24 fun r => decide (field r 6 1 ≤ 1) && decide (field r 7 1 ≤ 2) && (field r 4 2 == 0xFFFF || decide (field r 4 2 < nsect))
  | 8 => every 16 fun r => field r 4 12 == 0
  | 9 => every 16 fun r => bits (leNat r) 42 22 == 0 && bits (leNat r) 96 32 == 0
  | _ => true

/-- The section of table entry i; none where it breaks a rule. -/
def sectAt (bs : List Byte) (tiruc : Bool) (nsect e : Nat) : Option Sect :=
  let kind := field bs e 4
  let foff := field bs (e + 8) 8
  let size := field bs (e + 16) 8
  let voff := field bs (e + 24) 8
  if field bs (e + 4) 4 = 0 ∧ sectOk tiruc bs.length kind foff size voff = true then
    let x : Sect := ⟨kind, voff, if kind = 3 then List.replicate size 0 else (bs.drop foff).take size⟩
    if (kind = 1 ∧ !(x.lines.all lineLegal)) ∨ x.recordsOk nsect = false then none else some x
  else none

def Sect.placed (x : Sect) : Bool := decide (1 ≤ x.kind) && decide (x.kind ≤ 3)
def Sect.overlaps (x y : Sect) : Bool :=
  x.placed && y.placed && decide (x.voff < y.voff + y.bytes.length) && decide (y.voff < x.voff + x.bytes.length)

/-- The sections in order, or the index of the first that breaks a rule. -/
def sectsFrom (bs : List Byte) (tiruc : Bool) (nsect off : Nat) : Nat → Nat → List Sect → Except Nat (List Sect)
  | 0, _, l => .ok l
  | n + 1, i, l =>
    match sectAt bs tiruc nsect (off + 32 * i) with
    | none => .error i
    | some x => if l.any x.overlaps then .error i else sectsFrom bs tiruc nsect off n (i + 1) (l ++ [x])

/-- The layout of an object (R447, R456): the object and its KEYID, or the failing section (0 for the header). -/
def parseObj (bs : List Byte) : Except Nat (Obj × Nat) :=
  let n := bs.length
  let flags := field bs 6 2
  let nsect := field bs 0x10 4
  let off := field bs 0x18 8
  if n < 160 ∨ field bs 0 4 ≠ 0x424F5856 ∨ field bs 4 2 ≠ 1 ∨ 1 < flags ∨ 63 < field bs 0xC 1 ∨ 3 < field bs 0xD 1 ∨ field bs 0xE 2 ≠ 0
      ∨ nsect = 0 ∨ 64 < nsect ∨ field bs 0x14 4 ≠ 0 ∨ off % 8 ≠ 0 ∨ n - 96 < off + 32 * nsect ∨ field bs 0x20 8 ≠ n - 96 ∨ field bs 0x28 24 ≠ 0 then
    .error 0
  else
    let tiruc := flags == 1
    match sectsFrom bs tiruc nsect off nsect 0 [] with
    | .error i => .error i
    | .ok l =>
      if tiruc ∧ ((l.countP (·.kind == 8)) ≠ 1 ∨ 1 < l.countP (·.kind == 9) ∨ l.countP (·.kind == 1) = 0) then .error 0
      else .ok (⟨tiruc, field bs 8 4, BitVec.ofNat 6 (field bs 0xC 1), l⟩, field bs 0xD 1)

/-- The signature block behind a body (R448). -/
def State.signed (s : State) (body sig : List Byte) (key : Nat) : Bool :=
  let d := sig.take 32
  d == Config.sm3 body && (match s.boot.keys[key % 4]'(Nat.mod_lt _ (by decide)) with
    | some k => Config.sm2Verify k d (sig.drop 32)
    | none => false)

def Obj.all (o : Obj) (kind : Nat) : List Byte := (o.sects.filter (·.kind == kind)).flatMap (·.bytes)
def Obj.sect (o : Obj) (i : Nat) : Sect := o.sects.getD i ⟨0, 0, []⟩

/-- The address of a symbol (R449). -/
def Obj.symbol (o : Obj) (base n : Nat) : Option Nat :=
  let syms := o.all 6
  if syms.length < 24 * (n + 1) then none
  else
    let ix := field syms (24 * n + 4) 2
    let v := field syms (24 * n + 8) 8
    if ix = 0xFFFF then some v else if ix < o.sects.length then some (base + (o.sect ix).voff + v) else none

/-! ## Relocation (R450, R451) -/

/-- A relocation record. -/
structure Reloc where
  off : Nat
  sym : Nat
  typ : Nat
  link : Nat
  rsv : Nat
  addend : Nat
deriving DecidableEq, Repr

def relocAt (bs : List Byte) (i : Nat) : Reloc :=
  let e := 24 * i
  ⟨field bs e 8, field bs (e + 8) 4, field bs (e + 12) 1, field bs (e + 13) 1, field bs (e + 14) 2, field bs (e + 16) 8⟩
def Obj.relocs (o : Obj) : List Reloc :=
  let bs := o.all 5
  (List.range (bs.length / 24)).map (relocAt bs)

/-- The head whose tail starts at a byte of a line: its opcode and length code. -/
def tailAt (bs : List Byte) (r : Nat) : Option (Nat × Nat) :=
  ((List.range (lineN bs)).find? fun i => headL (lineHead bs i) ≠ 0 ∧ 64 - tailSum bs (i + 1) = r).map fun i =>
    (bits (lineHead bs i) 8 8, headL (lineHead bs i))

/-- The tail that a relocation type needs in a text section (R451). -/
def carries (typ op l : Nat) : Bool :=
  match typ with
  | 1 => l == 3 && (op == 0x1F || op == 0x7E)
  | 3 => l == 2 && (op == 0x1F || op == 0x20 || op == 0x7E || op == 0x91)
  | 4 => l == 2 && op == 0x20
  | 5 => l == 2 && (op == 0x32 || op == 0x33 || op == 0x35)
  | 6 => l == 2 && (op == 0x30 || op == 0x31)
  | 7 => l == 3 && op == 0xB0
  | 8 => (l == 1 || l == 2) && op == 0xB1
  | _ => false

def relocBytes (typ : Nat) : Nat := if typ = 1 ∨ typ = 2 ∨ typ = 7 then 8 else if typ = 8 then 2 else 4

/-- The record names a field of its target section; that of PCR32 is in an instruction (Table 20.3). -/
def Obj.fieldOk (o : Obj) (r : Reloc) : Bool :=
  let x := o.sect r.link
  decide (r.link < o.sects.length) && decide (r.off + relocBytes r.typ ≤ x.bytes.length)
    && (if x.kind = 1 then (match tailAt ((x.bytes.drop (r.off / 64 * 64)).take 64) (r.off % 64) with
        | some (op, l) => carries r.typ op l
        | none => false)
      else (x.kind == 2 || x.kind == 3 || x.kind == 4) && decide (1 ≤ r.typ) && decide (r.typ ≤ 3))

def signed (w v : Nat) : Int := if v < 2 ^ (w - 1) then v else (v : Int) - 2 ^ w

/-- V and L of a record. -/
def Obj.relocV (o : Obj) (base : Nat) (r : Reloc) : Option Nat := (o.symbol base r.sym).map fun a => (a + r.addend) % 2 ^ 64
def Obj.relocL (o : Obj) (base : Nat) (r : Reloc) : Nat := (base + (o.sect r.link).voff + r.off) / 64 * 64

/-- The bytes that a record writes over `old` (Table 20.3); none where it breaks its condition. -/
def relocNew (typ v l old : Nat) : Option Nat :=
  let sv := signed 64 v
  let fits := fun (x : Int) => decide (-2 ^ 31 ≤ x) && decide (x < 2 ^ 31)
  let delta := signed 42 ((v / 64 + 2 ^ 42 - l / 64 % 2 ^ 42) % 2 ^ 42)
  let off20 := (v / 64 + 2 ^ 42 - l / 64 % 2 ^ 42) % 2 ^ 15 * 32 + (v % 64 - 2) / 2
  let br := decide (-16384 ≤ delta) && decide (delta ≤ 16383) && decide (v % 64 ≠ 0) && v % 2 == 0
  match typ with
  | 1 => some v
  | 2 => if v < 2 ^ 48 then some (old / 2 ^ 48 * 2 ^ 48 + v) else none
  | 3 => if fits sv then some (v % 2 ^ 32) else none
  | 4 => if fits (sv - l) then some ((v + 2 ^ 64 - l) % 2 ^ 32) else none
  | 5 => if br then some (old / 2 ^ 20 * 2 ^ 20 + off20) else none
  | 6 => if br then some (old % 2 ^ 12 + 2 ^ 12 * off20) else none
  | _ => none

def Obj.setSect (o : Obj) (i : Nat) (bs : List Byte) : Obj := { o with sects := o.sects.modify i fun x => { x with bytes := bs } }

/-- One record applied (R450); the channel types belong to the translation. -/
def Obj.reloc (o : Obj) (base : Nat) (r : Reloc) : Option Obj :=
  if o.fieldOk r = false ∨ 6 < r.typ then none
  else
    let x := o.sect r.link
    let n := relocBytes r.typ
    match o.relocV base r with
    | none => none
    | some v => (relocNew r.typ v (o.relocL base r) (field x.bytes r.off n)).map fun w => o.setSect r.link (patch x.bytes r.off (leBytes n w))

/-- The records in order: the object as the records before the first failing one leave it, and that record's index. -/
def Obj.relocAll (base : Nat) : List Reloc → Nat → Obj → Obj × Option Nat
  | [], _, o => (o, none)
  | r :: l, i, o =>
    match o.reloc base r with
    | some o => Obj.relocAll base l (i + 1) o
    | none => (o, some i)

/-! ## Placement (Table 20.5) -/

/-- How a step ends: STATUS, DETAIL, NTEAM. -/
structure LoadEnd where
  status : Nat
  detail : Nat := 0
  nteam : Nat := 0
deriving DecidableEq, Repr

/-- Bytes written to a context's memory page by page, in system mode, from the hub die; a write that is discarded in part (R498) fails, and what has been written stays where a page fails. -/
def State.writeVirt (s : State) (ctx : BitVec 4) : List (Nat × Nat) → List Byte → Bool × State
  | [], _ => (true, s)
  | (va, n) :: r, bs =>
    if 2 ^ 48 < va + n ∨ spaceOf va ≠ .paged then (false, s)
    else
      match s.pageWalk ctx { w := true } false va with
      | (.fault _ _, s) => (false, s)
      | (.ok e, s) =>
        let t := s.devWrite 0 (e.pa va) (bs.take n)
        if s.devRefuses 0 (e.pa va) n then (false, t) else t.writeVirt ctx r (bs.drop n)

/-- Step 4: the placed sections; the index of the first that fails. -/
def State.place (s : State) (ctx : BitVec 4) (base : Nat) : List Sect → Nat → Option Nat × State
  | [], _ => (none, s)
  | x :: r, i =>
    if x.placed then
      let a := base + x.voff
      match s.writeVirt ctx (chunks 4096 x.bytes.length a x.bytes.length) x.bytes with
      | (true, s) => s.place ctx base r (i + 1)
      | (false, s) => (some i, s)
    else s.place ctx base r (i + 1)

/-- The check of a branch target once every record is applied (R450). -/
def State.targetFits (s : State) (ctx : BitVec 4) (v : Nat) : Bool × State :=
  match s.readVirt ctx (v % 2 ^ 48 / 64 * 64) 64 with
  | (some bs, s) => (lineLegal bs && decide ((v % 64 - 2) / 2 < lineN bs), s)
  | (none, s) => (false, s)

def State.targetsFit (s : State) (ctx : BitVec 4) (base : Nat) (o : Obj) : List Reloc → Nat → Option Nat × State
  | [], _ => (none, s)
  | r :: l, i =>
    if r.typ = 5 ∨ r.typ = 6 then
      match s.targetFits ctx ((o.relocV base r).getD 0) with
      | (true, s) => s.targetsFit ctx base o l (i + 1)
      | (false, s) => (some i, s)
    else s.targetsFit ctx base o l (i + 1)

/-- Step 6: team records at TREC, in order. -/
def State.writeTeams (s : State) (trec : Nat) (bs : List Byte) : Nat → Nat → LoadEnd × State
  | 0, n => (⟨1, 0, n⟩, s)
  | k + 1, n =>
    let a := trec + 64 * n
    if !physTarget a then (⟨6, 0, n⟩, s)
    else if s.devRefuses 0 a 64 then (⟨6, 0, n⟩, s.devWrite 0 a (bs.take 64))
    else (s.devWrite 0 a (bs.take 64)).writeTeams trec (bs.drop 64) k (n + 1)

/-- Steps 3 to 6 of Table 20.5 for an object that has passed steps 1 and 2. -/
def State.loadObj (s : State) (ctx : BitVec 4) (base trec : Nat) (o : Obj) : LoadEnd × State :=
  if s.ctxs[ctx.toNat].valid = false ∨ o.tiruc = true then (⟨7, 0, 0⟩, s)
  else
    match s.place ctx base o.sects 0 with
    | (some i, s) => (⟨6, i, 0⟩, s)
    | (none, s) =>
      let (o', bad) := Obj.relocAll base o.relocs 0 o
      match bad, s.place ctx base o'.sects 0 with
      | some i, (_, s) => (⟨5, i, 0⟩, s)
      | none, (some i, s) => (⟨6, i, 0⟩, s)
      | none, (none, s) =>
        match s.targetsFit ctx base o o.relocs 0 with
        | (some i, s) => (⟨5, i, 0⟩, s)
        | (none, s) => s.writeTeams trec (o'.all 4) ((o'.all 4).length / 64) 0

/-- Step 7, or the end of a request that has failed (R453). -/
def State.loadDone (s : State) (e : LoadEnd) : State :=
  let s := s.devWrite 0 0x1030 (leBytes 8 (e.status + 2 ^ 8 * (e.detail % 256) + 2 ^ 16 * (e.nteam % 2 ^ 16)))
  if e.status = 1 ∧ s.gie = true then s.sendVec s.gvec.toNat else s

/-! ## The mailbox (Table 20.4) -/

/-- A reserved bit is set, or an address is not aligned. -/
def requestBad (v : Nat) : Bool :=
  let z := fun lo n => bits v lo n == 0
  !(z 8 56 && z 64 6 && z 114 14 && z 168 24 && z 192 12 && z 240 16 && z 256 6 && z 306 14 && z 328 56)

/-- The bytes at OBJ; none where they have no target or cannot be read. -/
def State.readPhys (s : State) (a n : Nat) : Option (List Byte) × State :=
  if !physTarget a || !physTarget (a + n - 1) then (none, s)
  else if s.badRange a n then (none, s.badRead a n)
  else (some (Memory.bytes s.mem a n), s)

/-- Steps 1 and 2 of Table 20.5: the object with its bytes; or how it ends. -/
def State.sourceObj (s : State) (v : Nat) : Except LoadEnd (Obj × List Byte) × State :=
  let n := bits v 128 40
  match s.readPhys (bits v 64 50) n with
  | (none, s) => (.error ⟨2, 0, 0⟩, s)
  | (some bs, s) =>
    match parseObj bs with
    | .error i => (.error ⟨2, i, 0⟩, s)
    | .ok (o, key) => if s.signed (bs.take (n - 96)) (bs.drop (n - 96)) key then (.ok (o, bs), s) else (.error ⟨3, 0, 0⟩, s)

/-- The object's security version is below its fuse counter. -/
def Obj.revokedBy (o : Obj) (fuses : Vector (BitVec 8) 64) : Bool := decide (o.svn < (fuses[o.fuse.toNat]).toNat)
/-- It is, as the counters stood when the request being served was taken (R461). -/
def State.revoked (s : State) (o : Obj) : Bool := o.revokedBy s.boot.judged

/-- The next request of the load mailbox, if its OP is served by this step (any other OP is by LOAD_OBJECT): its fields. -/
def State.serveLoad (s : State) (op : Nat) (k : State → Nat → LoadEnd × State) : Out :=
  match s.boot.loads with
  | [] => .next s
  | r :: rest =>
    let v := r.req.toNat
    let o := bits v 0 4
    if o = op ∨ (op = 1 ∧ o ≠ 2 ∧ o ≠ 3) then
      let s : State := { s with boot := { s.boot with loads := rest, judged := r.fuses } }
      let (e, s) := if requestBad v || decide (o = 0) || decide (3 < o) then (⟨2, 0, 0⟩, s) else k s v
      .next (s.loadDone e)
    else .next s

/-- LOAD_OBJECT (R453). -/
def execLoadObject (s : State) : Out :=
  s.serveLoad 1 fun s v =>
    match s.sourceObj v with
    | (.error e, s) => (e, s)
    | (.ok (o, _), s) => if s.revoked o then (⟨4, 0, 0⟩, s) else s.loadObj (BitVec.ofNat 4 (bits v 4 4)) (bits v 192 48) (bits v 256 50) o

/-! ## Tiruc (R456 to R459) -/

/-- A channel (R456). -/
structure Channel where
  src : Nat
  dst : Nat
  nm1 : Nat
deriving DecidableEq, Repr

def Obj.channels (o : Obj) : List Channel :=
  let bs := o.all 9
  (List.range (bs.length / 16)).map fun i =>
    let v := field bs (16 * i) 16
    ⟨bits v 0 20, bits v 20 20, bits v 40 2⟩

/-- The rank of channel c among those with its receiver (Table 20.7). -/
def classOf (l : List Channel) (c : Nat) : Nat :=
  match l[c]? with
  | some x => (l.take c).countP (·.dst == x.dst)
  | none => 0

/-- An address in WK 2 or WK 3. -/
def windowAddr (v : Nat) : Bool := bits v 44 20 == 15 && (bits v 40 4 == 2 || bits v 40 4 == 3)

/-- Instructions that a Tiruc object may not hold (R457); `marked` are the tails with a channel relocation; `val` is the value of a 64-bit
`li` where it is known before the load. -/
def headBad (op l tail : Nat) (marked : Bool) (val : Option Nat) : Bool :=
  let csr := bits tail 6 10
  (op / 16 == 0xE && !(op == 0xE0 && (csr == 0x20 || csr == 1 || csr == 2 || (decide (8 ≤ csr) && decide (csr ≤ 0xB)))))
    || (op == 0x1F && l == 3 && val.any windowAddr)
    || op == 0xBC || (op == 0xB0 && (l == 2 || !marked)) || (op == 0xB1 && !marked)

/-- What a 64-bit tail of a text section will hold: its literal; where relocations write it, the value that the last of them gives, if it is a constant (R449, R450). -/
def Obj.tailValue (o : Obj) (sect off tail : Nat) : Option Nat :=
  match o.relocs.reverse.find? fun r => r.typ == 1 && r.link == sect && r.off == off with
  | none => some tail
  | some r => if field (o.all 6) (24 * r.sym + 4) 2 = 0xFFFF then o.relocV 0 r else none

def Obj.textBad (o : Obj) : Bool :=
  (List.range o.sects.length).any fun i =>
    let x := o.sect i
    x.kind == 1 && (List.range (x.bytes.length / 64)).any fun k =>
      let bs := (x.bytes.drop (64 * k)).take 64
      (List.range (lineN bs)).any fun h =>
        let at_ := 64 * k + (64 - tailSum bs (h + 1))
        let hd := lineHead bs h
        headBad (bits hd 8 8) (headL hd) (lineTail bs h) (o.relocs.any fun r => (r.typ == 7 || r.typ == 8) && r.link == i && r.off == at_)
          (o.tailValue i at_ (lineTail bs h))

/-- A channel relocation is refused (R457): its channel, its instruction, N, the class that the instruction names. -/
def Obj.channelBad (o : Obj) (l : List Channel) (r : Reloc) : Bool :=
  match l[r.sym]? with
  | none => true
  | some c =>
    let tail := field (o.sect r.link).bytes r.off (relocBytes r.typ)
    !o.fieldOk r || (r.typ == 7 && bits tail 20 2 != c.nm1) || bits tail (if r.typ = 7 then 18 else 6) 2 != classOf l r.sym

/-- Fields that a channel decides (Table 20.7), for a team `w` cores wide. -/
def Obj.channel (w : Nat) (l : List Channel) (o : Obj) (r : Reloc) : Obj :=
  match l[r.sym]? with
  | none => o
  | some c =>
    let x := o.sect r.link
    let cls := classOf l r.sym
    let n := relocBytes r.typ
    let old := field x.bytes r.off n
    let d := fun (p q : Nat) => (q + 1024 - p) % 1024
    let new :=
      if r.typ = 7 then
        old % 2 ^ 18 + 2 ^ 18 * cls + 2 ^ 20 * c.nm1 + 2 ^ 22 * bits old 22 2 + 2 ^ 24 * d (c.src % w) (c.dst % w) + 2 ^ 34 * d (c.src / w) (c.dst / w) + old / 2 ^ 44 * 2 ^ 44
      else old % 2 ^ 6 + 2 ^ 6 * cls + old / 2 ^ 8 * 2 ^ 8
    o.setSect r.link (patch x.bytes r.off (leBytes n new))

/-- A line of several instructions (R39). -/
def lineOfAll (es : List Enc) : List Byte :=
  let heads := es.flatMap fun e => leBytes 2 e.head
  let tails := es.reverse.flatMap fun e => leBytes (tailBytes e.l) e.tail
  leBytes 2 (es.length * 2048) ++ heads ++ List.replicate (62 - heads.length - tails.length) 0 ++ tails

/-- The prologue (R458) for V virtual cores; its table lies 4 KiB behind it. Its instructions are the model's choice (log 26). -/
def prologue (v : Nat) : List Byte :=
  lineOfAll (⟨0xE0, 1, CsrR.encD ⟨5, 0x20⟩, CsrR.encT ⟨5, 0x20⟩⟩ :: [.bext ⟨5, 5, 0, 19⟩, .liL2 ⟨6, BitVec.ofNat 32 v⟩, .bltz ⟨5, 6, 5⟩, .exit,
    .addpc ⟨6, 4096⟩, .ldL2 ⟨6, 6, 3, 0, 1, 5 + 2 ^ 6 * 3⟩, .jr ⟨6⟩].filterMap encode)

/-- The team record of a translation (R458); its PC is relocated. -/
def tirucTeam (twc hc classes : Nat) : Nat :=
  2 ^ 48 + 2 ^ 84 * twc + 2 ^ 92 * (hc - 1) + (List.range classes).foldl (fun a n => a + 2 ^ (130 + 4 * n)) 0

def symBytes (sect value : Nat) : List Byte := leBytes 4 0 ++ leBytes 2 sect ++ leBytes 2 0 ++ leBytes 8 value ++ leBytes 8 0
def relocRec (off sym typ link : Nat) : List Byte := leBytes 8 off ++ leBytes 4 sym ++ leBytes 1 typ ++ leBytes 1 link ++ leBytes 2 0 ++ leBytes 8 0

/-- The translation of a Tiruc object (R457, R458), with one team record (R459); none where it is refused. The prologue and its table stand behind the placed
sections (log 26). -/
def translate (o : Obj) (twc : Nat) : Option Obj :=
  let cores := o.all 8
  let v := cores.length / 16
  let w := 4 * (twc + 1)
  let hc := (v + 8 * (twc + 1) - 1) / (8 * (twc + 1))
  let l := o.channels
  let chan := o.relocs.filter fun r => r.typ == 7 || r.typ == 8
  let receives := (List.range v).map fun i => l.countP (·.dst == i)
  if v = 0 ∨ 262144 < v ∨ 512 < w ∨ 512 < 2 * hc ∨ l.any (fun c => decide (v ≤ c.src) || decide (v ≤ c.dst)) = true ∨ receives.any (fun n => decide (4 < n)) = true
      ∨ chan.any (o.channelBad l) = true ∨ o.textBad = true then none
  else
    let o1 := chan.foldl (Obj.channel w l) o
    let top := o1.sects.foldl (fun m x => if x.placed then Nat.max m (x.voff + x.bytes.length) else m) 0
    let at_ := (top + 4095) / 4096 * 4096
    let n := o1.sects.length
    let nsym := (o1.all 6).length / 24
    let table := (List.range v).flatMap fun i => relocRec (8 * i) (field cores (16 * i) 4) 1 (n + 1)
    let kept := (o1.relocs.filter fun r => r.typ != 7 && r.typ != 8 && (o1.sect r.link).kind != 4).flatMap fun r =>
      leBytes 8 r.off ++ leBytes 4 r.sym ++ leBytes 1 r.typ ++ leBytes 1 r.link ++ leBytes 2 r.rsv ++ leBytes 8 r.addend
    let old := o1.sects.map fun x => if x.kind = 8 ∨ x.kind = 9 ∨ x.kind = 5 ∨ x.kind = 4 then { x with kind := 7, bytes := [] } else x
    some ⟨false, o.svn, o.fuse, old ++ [⟨1, at_, prologue v⟩, ⟨2, at_ + 4096, List.replicate (8 * v) 0⟩,
      ⟨4, 0, leBytes 64 (tirucTeam twc hc (receives.foldl Nat.max 0))⟩, ⟨6, 0, symBytes n 2⟩,
      ⟨5, 0, kept ++ table ++ relocRec 0 nsym 2 (n + 2)⟩]⟩

/-- The key of a translation (R459). -/
def translationKey (bs : List Byte) (twc : Nat) : List Byte :=
  Config.sm3 bs ++ leBytes 1 twc ++ leBytes 2 Config.stepping.toNat ++ leBytes 4 Config.translator.toNat

/-- The bytes of a translation that its signature covers. -/
def Obj.image (o : Obj) : List Byte :=
  leBytes 4 o.svn ++ leBytes 1 o.fuse.toNat ++ o.sects.flatMap fun x => leBytes 4 x.kind ++ leBytes 8 x.voff ++ leBytes 8 x.bytes.length ++ x.bytes

/-- The signature of a translation (R459), with the key derived from the fused seed and MEAS (R482; log 86). -/
def State.translationSign (s : State) (bs : List Byte) : List Byte :=
  Config.translationSign (Config.translationKey Config.seed s.boot.meas) bs

/-- An entry of the cache passes its check (R460). -/
def State.cachedOk (s : State) (t : Translation) : Bool := t.sig == s.translationSign t.obj.image && !s.revoked t.obj

def State.uncache (s : State) (key : List Byte) : State := { s with tcache := s.tcache.filter (·.key ≠ key) }

/-- An entry is used: it is the last in the cache, which gives up those used least recently (R460). -/
def State.recache (s : State) (key : List Byte) (o : Obj) : State :=
  let l := (s.tcache.filter (·.key ≠ key)) ++ [⟨key, o, s.translationSign o.image⟩]
  { s with tcache := l.drop (l.length - (Config.translations + 1)) }

/-- TRANSLATE_AND_LOAD (R459, Table 20.9). -/
def execTranslateAndLoad (s : State) : Out :=
  s.serveLoad 2 fun s v =>
    match s.sourceObj v with
    | (.error e, s) => (e, s)
    | (.ok (o, bs), s) =>
      let twc := bits v 320 8
      let key := translationKey bs twc
      let load := fun (s : State) (t : Obj) => (s.recache key t).loadObj (BitVec.ofNat 4 (bits v 4 4)) (bits v 192 48) (bits v 256 50) t
      if s.revoked o then (⟨4, 0, 0⟩, s.uncache key)
      else if o.tiruc = false then (⟨7, 0, 0⟩, s)
      else
        match s.tcache.find? fun t => t.key == key && s.cachedOk t with
        | some t => load s t.obj
        | none =>
          match translate o twc with
          | none => (⟨8, 0, 0⟩, s.uncache key)
          | some t => load s t

/-! ## Fuse counters (R461) -/

/-- RAISE_FUSE_COUNTER (R461). -/
def execRaiseFuseCounter (s : State) : Out :=
  s.serveLoad 3 fun s v =>
    match s.readPhys (bits v 64 50) 160 with
    | (none, s) => (⟨9, 0, 0⟩, s)
    | (some bs, s) =>
      let f := field bs 4 1
      let new := field bs 8 4
      let cur := s.boot.fuses[f % 64]'(Nat.mod_lt _ (by decide))
      if field bs 0 4 ≠ 0x56524B56 ∨ 63 < f ∨ field bs 5 3 ≠ 0 ∨ field bs 12 52 ≠ 0 ∨ 255 < new ∨ new ≤ cur.toNat
          ∨ s.signed (bs.take 64) (bs.drop 64) 0 = false then (⟨9, 0, 0⟩, s)
      else (⟨1, 0, 0⟩, { s with boot := { s.boot with fuses := s.boot.fuses.set (f % 64) (BitVec.ofNat 8 new) (Nat.mod_lt _ (by decide)) } })

end Sys2Proof.Machine
end

