-- ==== Sys2Proof/Machine/Faults.lean ====
section
/-! DEFINITION. Errors, fences and repair (chapter 21): attestation (R484), scrubbing (R467), retirement (R468), links (R469), fences
(R470, R473), repair (R471, R472), records of correctable errors (R475). -/
namespace Sys2Proof.Machine

/-! ## Attestation (R484) -/

/-- Spares of a die in use: whole clusters and single cores count alike (log 27). -/
def State.sparesOf (s : State) (die : Nat) : Nat := s.spares.countP (·.die == die)

/-- The first 176 bytes of the report (Table 21.11). -/
def State.reportBody (s : State) (nonce : List Byte) : List Byte :=
  let b := s.boot
  leBytes 4 0x54415856 ++ leBytes 4 (0x0016 + 2 ^ 16 * Config.stepping.toNat) ++ leBytes 4 b.fwsvn.toNat
    ++ [b.state, b.wfail, b.cfail, 0] ++ b.meas ++ b.fuses.toList ++ (List.range 16).flatMap (fun d => leBytes 2 (s.sparesOf d)) ++ nonce

/-- ATTESTATION_REPORT (R484): a reserved value, or an OUT in the hub region, gives STATUS 2; recovery gives 3. -/
def execAttestationReport (s : State) : Out :=
  match s.boot.reports with
  | [] => .next s
  | r :: rest =>
    let s : State := { s with boot := { s.boot with reports := rest } }
    let v := r.toNat
    let out := bits v 64 50
    let done := fun (s : State) (status : Nat) => s.devWrite 0 0x1050 (leBytes 1 status) 2
    if s.boot.state = 3 then .next (done s 3)
    else if bits v 0 4 ≠ 1 ∨ bits v 4 60 ≠ 0 ∨ bits v 64 6 ≠ 0 ∨ bits v 114 14 ≠ 0 ∨ bits v 136 56 ≠ 0 ∨ out < 2 ^ 30
        ∨ physTarget out = false ∨ physTarget (out + 271) = false then .next (done s 2)
    else
      let body := s.reportBody (leBytes 32 (bits v 192 256))
      let d := Config.sm3 body
      .next (done (s.devWrite 0 out (body ++ d ++ Config.sm2Sign d) 2) 1)

/-! ## Scrubbing and retirement -/

/-- A word or block that is found uncorrectable. -/
def State.markBad (s : State) (loc : Nat) : State :=
  if isSram loc then { s with badWords := insertNat (loc / 8 * 8) s.badWords }
  else if isHbm loc then { s with badBlocks := insertNat (loc / 64 * 64) s.badBlocks } else s

/-- SCRUB_PASS (R467): the scrubber reads a word or a block; an error that it can correct leaves nothing to see, another is quarantined
and written to the log. `bad` says that the code has become uncorrectable. -/
def execScrubPass (loc : Nat) (bad : Bool) (s : State) : Out :=
  let s := if isHbm loc then s.hop ⟨homeDie loc, 2, 0, 1⟩ 4 1 else s
  let s := if bad then s.markBad loc else s
  .next (if s.badRange loc 1 then s.badRead loc 1 else s)

/-- The leaves below a table (R391): the address of the entry, the frames its page has, the first of them. -/
def State.leaves (s : State) : Nat → Nat → List (Nat × Nat × Nat)
  | 0, _ => []
  | lvl + 1, t =>
    (List.range 512).flatMap fun i =>
      let ea := t + 8 * i
      let e := s.read ea 8
      let f := bits e 12 38
      if bits e 0 1 = 0 then []
      else if lvl = 0 ∨ bits e 6 1 = 1 then
        let n := if lvl = 0 then (if bits e 7 1 = 1 then 16 else 1) else 2 ^ (9 * lvl)
        [(ea, n, f / n * n)]
      else s.leaves lvl (f * 4096)

/-- The leaves of a context whose page has a frame. -/
def State.mapsFrame (s : State) (ctx : Fin 16) (frame : Nat) : List (Nat × Nat × Nat) :=
  if s.ctxs[ctx].valid then (s.leaves 4 s.ctxs[ctx].ptroot).filter fun l => decide (l.2.2 ≤ frame) && decide (frame < l.2.2 + l.2.1) else []

/-- Accesses that used a translation to a range and have not been performed: the migration waits for them (R407 step 2). -/
def State.rangeBusy (s : State) (lo hi : Nat) : Bool :=
  let inside := fun (a : Nat) => decide (lo ≤ a) && decide (a < hi)
  s.coreIds.any fun c => ([0, 1, 2, 3] : List (Fin 4)).any fun i =>
    let t := (s.coreAt c).th i
    t.sb.any (fun e => inside e.word) || (match t.miss with
      | .data _ _ ps => ps.any fun p => inside p.loc
      | _ => false)

/-- No translation to a range is left, in a TLB or with a requester: whoever had one from a walk translates again. -/
def State.dropFrames (s : State) (lo hi : Nat) : State :=
  let keep := fun (e : TlbEntry) =>
    let a := e.addr.toNat * 4096
    decide (hi ≤ a) || decide (a + 2 ^ pageBits e.size ≤ lo)
  let got := fun (g : Got) => match g.res with
    | .once e => keep e
    | _ => true
  let th := fun (t : Thread) =>
    { t with got := t.got.filter got, fGot := t.fGot.filter got, units := t.units.map fun u => { u with got := u.got.filter got } }
  let s := s.mapCores fun _ k => { k.mapTh (fun _ => th) with itlb := k.itlb.filter keep, dtlb := k.dtlb.filter keep }
  let s := s.mapCls fun _ x => { x with tlb := x.tlb.filter keep, got := x.got.filter fun g => got g.2 }
  { s with xferGot := s.xferGot.filter (fun g => got g.2), hingeIn := s.hingeIn.map fun h => { h with got := h.got.filter got } }

/-- One page moved (R407): the bytes copied with their bad blocks (R466), the leaf written, translations gone. -/
def State.movePage (s : State) (frame fresh : Nat) (l : Nat × Nat × Nat) : State :=
  let (ea, n, _) := l
  let e := s.read ea 8
  let f := bits e 12 38
  let off := f % n
  let new := fresh / n * n + off
  s.devWrite (homeDie ea) ea (leBytes 8 (e - f * 4096 + new * 4096)) |>.dropFrames (frame / n * n * 4096) ((frame / n * n + n) * 4096)

/-- PAGE_RETIRE (R468): every context page that maps the bad frame moves to a fresh place that lies alike within the page's size;
the frame joins the retired list. -/
def execPageRetire (frame fresh : BitVec 38) (s : State) : Out :=
  let f := frame.toNat
  let n := fresh.toNat
  let maps := (List.finRange 16).map fun c => (c, s.mapsFrame c f)
  let ls := maps.flatMap (·.2)
  let span := ls.foldl (fun m l => Nat.max m l.2.1) 1
  let lo := f / span * span * 4096
  if !isHbm (f * 4096) || !isHbm (n * 4096) || s.retired.elem f || s.retired.any (fun x => decide (n / span = x / span)) || f == n || !s.badRange (f * 4096) 4096
      || f % span != n % span || s.rangeBusy lo (lo + span * 4096) then .next s
  else
    let dst := n / span * span * 4096
    let s := s.overLines (homeDie dst) dst (dst + span * 4096) fun s => s.copyRange lo dst (span * 4096)
    let s := ls.foldl (fun s l => s.movePage f n l) s
    let s : State := { s with retired := insertNat f s.retired, boot := { s.boot with repairs := s.boot.repairs ++ [.frame f] } }
    let cs := (maps.filter fun m => !m.2.isEmpty).map fun m => BitVec.ofNat 4 m.1.val
    .next (s.errorRecord 6 ⟨homeDie (f * 4096), 0, 0⟩ 0 1 (f * 4096) 0 cs true)

/-! ## Links (R469) -/

/-- The link goes down; it trains until LINK_RETRAIN ends that. -/
def State.linkDown (s : State) (l : LinkId) : State :=
  let s := s.setLink l { s.link l with up := false, attempts := 0, replays := 0 }
  if l.kind = .modulePort then s.setHinge (linkPort l) (s.hinge (linkPort l)).drop else s

/-- LINK_CRC_REPLAY (R469): a flit is replayed, which an error record tells (R465; its KIND is not stated, a free value, log 9); `again`
says that it is the one replayed last. After eight replays of a flit, or more than 4,096 in the period, the link goes down. -/
def execLinkCrcReplay (link : LinkId) (again : Bool) (s : State) : Out :=
  let x := s.link link
  if !x.up || x.fenced then .next s
  else if again && decide (8 ≤ x.attempts) then .next (s.linkDown link)
  else
    let x := { x with attempts := if again then x.attempts + 1 else 1, replays := x.replays + 1 }
    let s := s.setLink link x
    let p := linkPort link
    let s := if link.kind = .modulePort then s.setHinge p { s.hinge p with replay := (s.hinge p).replay + 1 } else s
    let (k, s) := s.free
    let s := s.errorRecord (k.toNat % 256) ⟨link.die.toNat, 0, 0⟩ 0 1 link.index 0 [] false
    .next (if 4096 < x.replays then s.linkDown link else s)

/-- LINK_RETRAIN (R469): a link that is down has retrained, or has failed to; a third failure in a row fences it. The registers of a module
port hold the lanes and the remote module of its training when LINK_TRAINING_COMPLETE gives them (R445). -/
def execLinkRetrain (link : LinkId) (ok : Bool) (s : State) : Out :=
  let x := s.link link
  let d : CoreId := ⟨link.die.toNat, 0, 0⟩
  let p := linkPort link
  if x.up || x.fenced then .next s
  else if ok then
    let s := s.setLink link { x with up := true, tries := 0 }
    .next (s.errorRecord 7 d 0 1 link.index 0 [] false)
  else if x.tries < 2 then .next (s.setLink link { x with tries := x.tries + 1 })
  else
    let s := s.setLink link { x with tries := 3, fenced := true }
    let s := if link.kind = .modulePort then s.setHinge p { s.hinge p with up := false, training := false, lanes := 0 } else s
    .next (s.errorRecord 8 d 0 1 link.index 0 (s.ctxsOf fun c => c.die == link.die.toNat) true)

/-! ## Fences (Table 21.5) -/

/-- CORE_FENCE (R470, R473). -/
def execCoreFence (die : BitVec 4) (clu : BitVec 14) (core : BitVec 3) (s : State) : Out :=
  let c : CoreId := ⟨die.toNat, clu.toNat, core.toNat⟩
  .next (if (s.coreAt c).fenced || decide (8320 ≤ c.clu) then s else s.fenceCore c)

/-- A command of Keyway whose job is discarded fails (R440). -/
def State.dropJob (s : State) (j : Job) : State :=
  match j.kw with
  | some (q, ix) => ((s.completeCmd q ix false).modQueue q fun x => { x with acause := 7 }).haltQueue q 7 ix false
  | none => s

/-- Every job of a cluster is discarded, with no completion record; the teams that use it, or a core of it that stands for another, are
aborted (R470, R473). -/
def State.emptyCluster (s : State) (d : ClusterId) : State :=
  let x := s.clAt d
  let s := (x.window ++ x.backlog).foldl State.dropJob s
  let s := s.modClAt d fun x => { x with window := [], backlog := [], bound := none, lastCands := [], stuck := false, fenced := true }
  let s := (s.coresOf d).foldl (fun s c => s.modCoreAt c fun k =>
    { k with
      submitted := []
      ring := k.ring.map fun r => match r with
        | .command _ _ _ _ => .free
        | r => r }) s
  let teams := (s.teams.filter fun tm => tm.seats.any fun p => s.clusterOf p.at_ == d || p.at_.home == d).map (·.id)
  teams.foldl (fun s t => s.abortTeam t) s

/-- CLUSTER_FENCE (R470). -/
def execClusterFence (die : BitVec 4) (clu : BitVec 14) (s : State) : Out :=
  let d : ClusterId := ⟨die.toNat, clu.toNat⟩
  if s.deadCl d || decide (8320 ≤ d.clu) then .next s
  else
    let x := s.clAt d
    .next ((s.emptyCluster d).errorRecord 11 ⟨d.die, d.clu, 0⟩ 0 1 0 0 (if x.own then [x.ctx] else []) true)

/-- DIE_FENCE (R470): every cluster of the die is fenced, in one record. -/
def execDieFence (die : BitVec 4) (s : State) : Out :=
  let d := die.toNat
  if s.deadDies.elem d then .next s
  else
    let cs := s.ctxsOf fun c => c.die == d
    let s := (s.clusterIds.filter (·.die == d)).foldl (fun s c => s.emptyCluster c) s
    let teams := (s.teams.filter fun tm => tm.seats.any (·.at_.die == d)).map (·.id)
    let s := teams.foldl (fun s t => s.abortTeam t) { s with deadDies := insertNat d s.deadDies }
    .next (s.errorRecord 13 ⟨d, 0, 0⟩ 0 1 0 0 cs true)

/-! ## Repair (R471, R472) -/

/-- The spare clusters of a die in the order of choice for a cluster: its own quadrant, then the others, each in order. -/
def spareOrder (clu : Nat) : List Nat :=
  let own := quadrantOf clu
  (own :: (List.range 4).filter (· ≠ own)).flatMap fun q => (List.range 32).map fun i => 8192 + 32 * q + i

/-- A spare core that is free. -/
def State.spareFree (s : State) (c : CoreId) : Bool := !s.spares.elem c && !(s.coreAt c).fenced && !s.deadCl c.home

def State.spareCore (s : State) (c : CoreId) : Option CoreId :=
  ((spareOrder c.clu).flatMap fun k => (List.range 8).map fun n => (⟨c.die, k, n⟩ : CoreId)).find? s.spareFree

/-- The spare core that stands for a core by the map in force (R474), while it is not lost itself. -/
def State.standIn (s : State) (c : CoreId) : Option CoreId :=
  (s.boot.made ++ s.boot.repairs).reverse.findSome? fun r => match r with
    | .core d l n k m => if c = ⟨d, l, n⟩ ∧ (s.coreAt ⟨d, k, m⟩).fenced = false ∧ s.deadCl ⟨d, k⟩ = false then some ⟨d, k, m⟩ else none
    | _ => none

/-- The same of a cluster. -/
def State.standInCluster (s : State) (c : ClusterId) : Option Nat :=
  (s.boot.made ++ s.boot.repairs).reverse.findSome? fun r => match r with
    | .cluster d l k => if c = ⟨d, l⟩ ∧ s.deadCl ⟨d, k⟩ = false then some k else none
    | _ => none

/-- CORE_REPAIR (R471): the core table of every resident context leads to a spare core; the repair joins the map (R474). A core that has
one by the map gets it again in the contexts that have become resident since (log 88). -/
def execCoreRepair (die : BitVec 4) (clu : BitVec 14) (core : BitVec 3) (s : State) : Out :=
  let c : CoreId := ⟨die.toNat, clu.toNat, core.toNat⟩
  let lost := (s.coreAt c).fenced || (s.spares.elem c && s.deadCl c.home)
  let old := s.standIn c
  let maps := (List.finRange 16).map fun x => (x, s.positionsAt x c)
  if !lost || (old.isSome && maps.all (·.2.isEmpty)) then .next s
  else
    match old.or (s.spareCore c) with
    | none => .next s
    | some k =>
      let e := 3 + 4 * k.die + 2 ^ 6 * k.clu + 2 ^ 20 * k.core
      let s := maps.foldl (fun s m => m.2.foldl (fun s p =>
        s.devWrite c.die (s.ctxs[m.1].ctab + 4 * (1024 * p.2 + p.1)) (leBytes 4 e) 4) s) s
      let s : State := if old.isSome then s
        else { s with spares := s.spares ++ [k], boot := { s.boot with repairs := s.boot.repairs ++ [.core c.die c.clu c.core k.clu k.core] } }
      let cs := (maps.filter fun m => !m.2.isEmpty).map fun m => BitVec.ofNat 4 m.1.val
      .next (s.errorRecord 10 c 0 1 0 (k.die + 2 ^ 4 * k.clu + 2 ^ 18 * k.core) cs true)

/-- The spare cluster that replaces one: none of its cores stands for another (R472). -/
def State.spareCluster (s : State) (d : ClusterId) : Option Nat :=
  (spareOrder d.clu).find? fun k => !s.deadCl ⟨d.die, k⟩ && (List.range 8).all fun n => s.spareFree ⟨d.die, k, n⟩

/-- The configuration word of a cluster (Table 16.2). -/
def Cluster.word (x : Cluster) : Nat :=
  x.own.toNat + 2 * x.ctx.toNat + (List.range 8).foldl (fun a n => a + 2 ^ (8 + 4 * n) * (x.weights[n % 8]'(Nat.mod_lt _ (by decide))).toNat) 0
    + 2 ^ 40 * x.eb.toNat

/-- CLUSTER_REPAIR (R472). -/
def execClusterRepair (die : BitVec 4) (clu spare : BitVec 14) (s : State) : Out :=
  let d : ClusterId := ⟨die.toNat, clu.toNat⟩
  let k := spare.toNat
  if !(s.clAt d).fenced || (s.standInCluster d).isSome || s.spareCluster d != some k then .next s
  else
    let x := s.clAt d
    let s := s.configCluster ⟨d.die, k⟩ x.word
    let s : State := { s with
      spares := s.spares ++ (List.range 8).map fun n => ⟨d.die, k, n⟩
      boot := { s.boot with repairs := s.boot.repairs ++ [.cluster d.die d.clu k] } }
    .next (s.errorRecord 12 ⟨d.die, d.clu, 0⟩ 0 1 0 (d.die + 2 ^ 4 * k) (if x.own then [x.ctx] else []) true)

/-! ## Correctable errors (R475) -/

/-- CORRECTABLE_ERROR_RECORD (R475): at most one record of each kind for each die and 2^24 cycles. -/
def execCorrectableErrorRecord (die : BitVec 4) (hbm : Bool) (count : BitVec 32) (s : State) : Out :=
  let d := die.toNat
  let n := s.clkOf d / 2 ^ 24
  let h := s.histOf d
  if count = 0 ∨ n ≤ (if hbm then h.hbmLogged else h.sramLogged) then .next s
  else
    let s := s.setHist d (if hbm then { h with hbmLogged := n } else { h with sramLogged := n })
    .next (s.errorRecord (if hbm then 4 else 1) ⟨d, 0, 0⟩ 0 count.toNat 0 0 [] false)

end Sys2Proof.Machine
end

