-- ==== Sys2Proof/Machine/Start.lean ====
section
/-! DEFINITION. Power (R478) and start-up (R464, R479 to R483). A start runs its steps within the step that asks for it, unless one
of them does not end; START_TIMEOUT then ends it (log 28). -/
namespace Sys2Proof.Machine

/-! ## What a start leaves (Table 21.9) -/

/-- A fenced core after a start. -/
def Core.fencedAnew : Core := { ({} : Core) with slots := Vector.replicate 4 {}, fenced := true }

/-- The state after the clears of a start: nothing survives but the hub region, host memory, retired frames, what is fenced or in
use as a spare, links, the boot state, the translation cache, what has been sent, and the inputs to come. -/
def State.cleared (s : State) : State :=
  let kept := fun (a : Nat) => decide (a < 2 ^ 30) || isHost a || (isHbm a && s.retired.elem (a / 4096))
  let cores := (s.coreIds.filter fun c => (s.coreAt c).fenced).map fun c => (c, Core.fencedAnew)
  let cls := (s.clusterIds.filter fun d => (s.clAt d).fenced).map fun d => (d, ({ fenced := true } : Cluster))
  { State.reset with
    core := assocGet cores ⟨0, 0, 0⟩ {}
    others := cores.filter fun p => p.1 ≠ ⟨0, 0, 0⟩
    cl := assocGet cls ⟨0, 0⟩ {}
    otherCls := cls.filter fun p => p.1 ≠ ⟨0, 0⟩
    mem := s.mem.filter fun c => kept c.1
    badBlocks := s.badBlocks.filter fun b => decide (b < 2 ^ 30) || s.retired.elem (b / 4096)
    boot := s.boot
    tcache := s.tcache
    retired := s.retired
    deadDies := s.deadDies
    spares := s.spares
    links := s.links
    vecSent := s.vecSent
    agenda := s.agenda
    freeCtr := s.freeCtr }

/-! ## The repair map (R474) -/

/-- A unit is fenced. -/
def State.applyRepair (s : State) : Repair → State
  | .core d l n k m => { s.putCore ⟨d, l, n⟩ Core.fencedAnew with spares := if s.spares.elem ⟨d, k, m⟩ then s.spares else s.spares ++ [⟨d, k, m⟩] }
  | .cluster d l k =>
    let all := (List.range 8).map fun n => (⟨d, k, n⟩ : CoreId)
    { s.modClAt ⟨d, l⟩ (fun _ => { fenced := true }) with spares := s.spares ++ all.filter fun c => !s.spares.elem c }
  | .frame f => { s with retired := insertNat f s.retired }
  | .word _ => s

/-! ## Images (R479 steps 7 to 11, R483) -/

/-- What the signature block of an image covers, and its digest (R448, R479 step 7). -/
def imageBody (bs : List Byte) : List Byte := bs.take (bs.length - 96)
def imageDigest (bs : List Byte) : List Byte := Config.sm3 (imageBody bs)

/-- The security version in an image's header (R447). -/
def imageSvn (bs : List Byte) : BitVec 32 :=
  match parseObj bs with
  | .ok (o, _) => BitVec.ofNat 32 o.svn
  | .error _ => 0

/-- Measurement (R483). -/
def measure (meas : List Byte) (images : List (List Byte)) : List Byte :=
  images.foldl (fun m i => Config.sm3 (m ++ imageDigest i)) meas

/-- Steps 8 and 9 for one image: its signature against key slot 0, skipped by a warm start for a digest it has retained; the security
version against fuse counter 0; its layout and its own fuse counter (R453). -/
def State.imagePasses (s : State) (warm : Bool) (i : List Byte) : Bool :=
  match parseObj i with
  | .error _ => false
  | .ok (o, _) => !o.tiruc && !o.revokedBy s.boot.fuses && decide ((s.boot.fuses[0]).toNat ≤ o.svn)
      && ((warm && s.boot.digests.elem (imageDigest i)) || s.signed (imageBody i) (i.drop (i.length - 96)) 0)

/-- The security version of the firmware that runs: the lowest of its images (log 28). -/
def firmwareSvn : List (List Byte) → BitVec 32
  | [] => 0
  | i :: r => r.foldl (fun m x => if (imageSvn x).toNat < m.toNat then imageSvn x else m) (imageSvn i)

/-- STATE, WFAIL, CFAIL and BOOTS as the record in memory shows them (R464). -/
def State.showBoot (s : State) : State :=
  let b := s.boot
  s.putRecord 0 ([b.state, b.wfail, b.cfail, 0] ++ leBytes 4 b.boots.toNat)

/-- Step 12: the record is written, the blocks it lies in whole (log 87), and Keyway accepts commands. -/
def State.publish (s : State) (b : Boot) : State :=
  let b := { b with starting := false, enext := 0 }
  { s with mem := Memory.setBytes s.mem 0 (b.record ++ List.replicate 28 0), boot := b, badBlocks := s.badBlocks.filter fun x => decide (192 ≤ x) }

/-- A successful start (R481). -/
def State.startDone (s : State) (warm : Bool) (images : List (List Byte)) : State :=
  let b := s.boot
  let b := { b with
    state := if warm then 2 else 1
    wfail := 0
    cfail := 0
    meas := if warm then b.meas else measure (List.replicate 32 0) images
    digests := if warm then b.digests else images.map imageDigest
    fwsvn := firmwareSvn images }
  s.publish b

/-! ## Failure (R480, R481) -/

/-- The record of KIND 17 in the management store. -/
def State.startRecord (s : State) : BitVec 512 := BitVec.ofNat 512 (17 + 2 ^ 32 + 2 ^ 256 * (s.clk[0]).toNat)

/-- The recovery image boots (R481): steps 1 to 11 are run with it; a boot that fails writes a record as any start does (R480), and the
module stays stopped. -/
def State.recover (s : State) : State :=
  let l := s.boot.recovery
  if s.boot.recoveryTrains = true ∧ l ≠ [] ∧ l.all (s.imagePasses false) = true then
    s.publish { s.boot with state := 3, meas := measure (List.replicate 32 0) l, digests := l.map imageDigest, fwsvn := firmwareSvn l }
  else State.showBoot { s with running := false, boot := { s.boot with starting := false, store := s.boot.store ++ [s.startRecord] } }

def State.startFails (s : State) : State :=
  let b := { s.boot with store := s.boot.store ++ [s.startRecord], starting := false, state := 0 }
  if b.warm then State.showBoot { s with boot := { b with wfail := b.wfail + 1 } }
  else
    let s := State.showBoot { s with boot := { b with cfail := b.cfail + 1 } }
    if 3 ≤ s.boot.cfail.toNat then s.recover else s

/-! ## The start -/

/-- Fuse counters never decrease (R461). -/
def fuseMax (old : Vector (BitVec 8) 64) (new : List (BitVec 8)) : Vector (BitVec 8) 64 :=
  Vector.ofFn fun i => let x := new.getD i.val 0; if old[i].toNat < x.toNat then x else old[i]

/-- The key slots (R482): a slot whose key does not match its fused digest is empty. -/
def keySlots (inp : StartInput) : Vector (Option (List Byte)) 4 :=
  Vector.ofFn fun i => match inp.keys[i.val]? with
    | some k => if inp.keyDigests[i.val]? = some (Config.sm3 k) then some k else none
    | none => none

/-- A start of a kind with what it finds: the state cleared, the fuses read, the repairs applied, the images checked and measured. -/
def State.start (s : State) (warm : Bool) (inp : StartInput) : State :=
  let b := s.boot
  let repairs := if warm then b.repairs else b.repairs ++ inp.failedWords.map .word
  let made := if warm then b.made else inp.made
  let t := s.cleared
  let t := if warm then t else (made ++ repairs).foldl State.applyRepair t
  let s := State.showBoot { t with
    running := true
    tcache := if warm then s.tcache else []
    boot := { b with
      starting := true, warm := warm, since := 0, state := 0, boots := b.boots + 1, recovery := inp.recovery, recoveryTrains := inp.recoveryTrains
      loads := [], reports := [], loadSeq := 0, attSeq := 0
      fuses := fuseMax b.fuses inp.fuses
      keys := keySlots inp
      made := made
      repairs := repairs }
    links := if inp.linksTrain then s.links.map fun l => (l.1, if l.2.up ∧ warm = true then l.2 else {}) else s.links }
  let down := s.links.any fun l => !l.2.up
  if !inp.ends then s
  else if inp.images ≠ [] ∧ inp.images.all (s.imagePasses warm) = true ∧ (warm || inp.hbmTrains) = true
      ∧ (inp.linksTrain || (warm && !down)) = true then s.startDone warm inp.images
  else s.startFails

/-- POWER_ON (R479): a cold start. -/
def execPowerOn (inp : StartInput) (s : State) : Out := .next (s.start false inp)

/-- COLD_START_REQUEST (R477, R479). -/
def execColdStartRequest (inp : StartInput) (s : State) : Out := .next (s.start false inp)

/-- WARM_START_REQUEST (R479, R481): after three failed warm starts the start is cold; with the clocks stopped only a cold start
follows (Table 21.8). -/
def execWarmStartRequest (inp : StartInput) (s : State) : Out :=
  .next (if s.running then s.start (decide (s.boot.wfail.toNat < 3)) inp else s)

/-- START_TIMEOUT (R480); the hub's clock is taken to be that of die 0 (log 57). -/
def execStartTimeout (s : State) : Out :=
  .next (if s.boot.starting ∧ s.boot.since + 2 ^ 34 ≤ s.clkOf 0 then s.startFails else s)

/-! ## Power and heat (R478) -/

/-- A record of KIND 16. -/
def State.powerRecord (s : State) (die code : Nat) : State := s.errorRecord 16 ⟨die, 0, 0⟩ 0 1 0 code [] false

/-- Action 3: a limit rises by one eighth of itself, rounded up, and by one at least (log 62). -/
def raisedLimit (l : Nat) : Nat := l + Nat.max 1 ((l + 7) / 8)

/-- The limits of clusters changed, a cluster that follows its budget by its budget; a limit that reaches the budget is none. -/
def State.mapLimits (s : State) (f : Nat → Nat → Nat) : State :=
  let new := fun (die : Nat) (x : Cluster) (l : Option Nat) =>
    let own := s.energyBudget { x with limit := none }
    let n := f die (l.getD own)
    if own ≤ n then none else some n
  let s' := s.mapCls fun c x => { x with limitSet := new c.die x x.limitSet }
  { s' with power := { s'.power with fresh := Vector.ofFn fun d : Fin 16 =>
      (s.power.fresh[d].1, new d.val {} s.power.fresh[d].2) } }

/-- Temperatures of the dies in tenths of a degree. -/
def PowerSense.temp (p : Sys2Proof.PowerSense) (d : Nat) : Nat := p.tempTenths.getD d 0

/-- Action 2 of Table 21.8 for one die. -/
def State.coolDie (p : Sys2Proof.PowerSense) (s : State) (d : Fin 16) : State :=
  let t := PowerSense.temp p d.val
  if s.power.hot[d] then
    if t < 900 then { s with power := { s.power with hot := s.power.hot.set d false } } else s
  else if 950 < t then
    let s := s.mapLimits fun die l => if die = d.val then l / 2 else l
    let s : State := { s with power := { s.power with hot := s.power.hot.set d true } }
    s.powerRecord d.val 2
  else s

/-- POWER_WINDOW (R478): actions 1 to 3 of Table 21.8, once in each window of 2^20 cycles of the hub. -/
def execPowerWindow (sense : PowerSense) (s : State) : Out :=
  let n := s.clkOf 0 / 2 ^ 20
  if n ≤ s.power.window then .next s
  else
    let mw := sense.milliwatts
    let cool := (List.range 16).all fun d => decide (PowerSense.temp sense d < 900)
    let calm := if mw ≤ 5300000 ∧ cool = true then s.power.calm + 1 else 0
    let s : State := { s with power := { s.power with window := n, calm := calm % 16 } }
    let s := if 5600000 < mw then (s.mapLimits fun _ l => l * 5600000 / mw).powerRecord 0 1 else s
    let s := (List.finRange 16).foldl (State.coolDie sense) s
    .next (if calm = 16 then (s.mapLimits fun _ => raisedLimit).powerRecord 0 3 else s)

/-- THERMAL_TRIP (R478 code 4): every die stops its clock, and all state but the hub region and the management store is lost. The
record names the die at which the step takes place, the one above its limit, or die 0 for the module's inlet and flow (log 62). -/
def execThermalTrip (s : State) : Out :=
  let s := s.powerRecord s.cid.die 4
  let s := s.cleared
  .next (State.showBoot { s with
    running := false, mem := s.mem.filter (fun c => decide (c.1 < 2 ^ 30) || isHost c.1), boot := { s.boot with state := 0, starting := false } })

end Sys2Proof.Machine
end

