-- ==== Sys2Proof/Machine/Debug.lean ====
section
/-! DEFINITION. The debug module (R488 to R490), writes of plain registers (R5), the histogram engine (R493) and the dumps (R495). -/
namespace Sys2Proof.Machine

def State.modDbg (s : State) (f : Debug → Debug) : State := s.modCore fun c => { c with dbg := f c.dbg }

/-! ## Halt, run, step (R489, R490) -/

/-- DEBUG_STOP (R489). -/
def execDebugStop (s : State) : Out :=
  .next (if s.core.dbg.halted then s else s.haltCore 1 s.cur 0)

/-- DEBUG_RUN (R489): every slot goes on; the first instruction of each matches no instruction breakpoint. -/
def execDebugRun (s : State) : Out :=
  .next (if s.core.dbg.halted then s.modDbg fun d => { d with halted := false, stepping := none, resumed := Vector.replicate 4 true } else s)

/-- DEBUG_STEP (R490): slot STEPSLOT alone goes on. -/
def execDebugStep (s : State) : Out :=
  let i := slotOf s.core.dbg.stepSlot
  .next (if s.core.dbg.halted then s.modDbg fun d =>
    { d with halted := false, stepping := some i, issued := false, since := s.clkOf s.cid.die, resumed := d.resumed.set i.val true } else s)

/-- The core halts at the end of a step. -/
def State.stepEnd (s : State) (i : Fin 4) : State := s.haltCore 2 i 0

/-- STEP_DONE (R490): the slot has issued, its F queue is empty and nothing is left to replay. -/
def execStepDone (s : State) : Out :=
  match s.core.dbg.stepping with
  | some i =>
    let t := s.core.th i
    .next (if s.core.dbg.issued ∧ t.fq.isEmpty = true ∧ t.rep.act = false then s.stepEnd i else s)
  | none => .next s

/-- STEP_TIMEOUT (R490): the slot has issued nothing within 2^16 cycles. -/
def execStepTimeout (s : State) : Out :=
  match s.core.dbg.stepping with
  | some i => .next (if s.core.dbg.issued = false ∧ s.core.dbg.since + 2 ^ 16 ≤ s.clkOf s.cid.die then s.stepEnd i else s)
  | none => .next s

/-! ## DACC (Table 22.3) -/

/-- The slot accessed, NUM. -/
def Debug.aslot (d : Debug) : Fin 4 := slotOf (d.dacc.extractLsb' 10 2)
def Debug.num (d : Debug) : Nat := bits d.dacc.toNat 0 10

/-- `g`n, `v`n, or a register of Table 1.5. -/
inductive DReg where
  | g (n : Nat)
  | v (n : Nat)
  | csr (n : Nat)
  | none
deriving DecidableEq, Repr

def Debug.reg (d : Debug) : DReg :=
  let n := d.num
  if 0x200 ≤ n ∧ n < 0x220 then .g (n - 0x200) else if 0x240 ≤ n ∧ n < 0x270 then .v (n - 0x240)
  else if csrKnown (BitVec.ofNat 10 n) then .csr n else .none

/-- The core in focus with another slot current, for one operation. -/
def State.inSlot (s : State) (i : Fin 4) (f : State → State) : State := (f (s.withSlot i)).withSlot s.cur

def State.dErr (s : State) : State := s.modDbg fun d => { d with err := true }

/-- DACC_READ (R488): a register of a slot of the halted core into DDATA. -/
def execDaccRead (s : State) : Out :=
  let d := s.core.dbg
  let put := fun (x : Word) => Host.Outcome.next (s.modDbg fun d => { d with ddata := x })
  if !d.halted then .next s.dErr
  else
    match d.reg with
    | .g n => put ((s.core.th d.aslot).greg (BitVec.ofNat 6 n))
    | .v n => put ((s.core.th d.aslot).vreg n)
    | .csr n => put ((s.withSlot d.aslot).csr n)
    | .none => .next s.dErr

/-- DACC_WRITE (R488): DDATA into the register; what R36 or R80 refuses sets ERR. -/
def execDaccWrite (s : State) : Out :=
  let d := s.core.dbg
  if !d.halted then .next s.dErr
  else
    match d.reg with
    | .g n => .next (s.inSlot d.aslot fun s => s.setG (BitVec.ofNat 6 n) d.ddata)
    | .v n => .next (s.inSlot d.aslot fun s => s.modTh fun t => (t.setV n d.ddata).dropHolds n)
    | .csr n =>
      match (s.withSlot d.aslot).setCsr n d.ddata d.ddata with
      | some s' => .next (s'.withSlot s.cur)
      | none => .next s.dErr
    | .none => .next s.dErr

/-- DSTAT (Table 22.3). -/
def Debug.stat (d : Debug) : Nat :=
  d.halted.toNat + 2 * d.reason.toNat + 2 ^ 4 * d.slot.toNat + 2 ^ 6 * d.index.toNat + 2 ^ 8 * d.err.toNat

/-- DSTAT_READ (R488): the value is returned, and ERR cleared. -/
def execDstatRead (s : State) : Out :=
  .next { s.modDbg (fun d => { d with err := false }) with hostData := BitVec.ofNat 128 s.core.dbg.stat }

/-! ## Plain registers (R5) -/

/-- A word of the MSI-X table (R432): a vector whose mask bit is written 0 is unmasked. -/
def State.writeVec (s : State) (v : Nat) (word : BitVec 2) (x : Nat) : State :=
  let e := assocGet s.vecs v {}
  let put := fun (e : Vec) => { s with vecs := assocSet s.vecs v e }
  match word.toNat with
  | 0 => put { e with addr := BitVec.ofNat 64 (e.addr.toNat / 2 ^ 32 * 2 ^ 32 + x % 2 ^ 32) }
  | 1 => put { e with addr := BitVec.ofNat 64 (x % 2 ^ 32 * 2 ^ 32 + e.addr.toNat % 2 ^ 32) }
  | 2 => put { e with data := BitVec.ofNat 32 x }
  | _ => if bits x 0 1 = 1 then put { e with mask := true } else s.unmask v

/-- A register that the host writes, in BAR 0; the others are the management controller's (R429, R477). -/
def ofHost : PlainReg → Bool
  | .modId | .gvec | .hingeEn _ | .msix _ _ | .other _ => true
  | .dctl | .dacc | .ddata | .ibp _ | .wp _ | .wpm _ | .hctl _ | .hbase _ | .obs _ => false

/-- REGISTER_WRITE (R5, R429, R488): the RW fields are set; a reserved or read-only register keeps its value. -/
def execRegisterWrite (reg : PlainReg) (val : BitVec 64) (s : State) : Out :=
  let x := val.toNat
  .next (if ofHost reg && !s.hostUp then s else match reg with
    | .modId => { s with modId := BitVec.ofNat 16 x }
    | .gvec => { s with gvec := BitVec.ofNat 11 x, gie := bits x 11 1 == 1 }
    | .hingeEn p =>
      let h := s.hinge p
      let en := bits x 0 1 == 1
      if en then s.setHinge p { h with en := true, training := h.training || !h.en } else s.setHinge p { h.drop with en := false, training := false }
    | .msix v w => s.writeVec v.toNat w x
    | .dctl => s.modDbg fun d => { d with stepSlot := BitVec.ofNat 2 (bits x 3 2), haltBrk := bits x 5 1 == 1 }
    | .dacc => s.modDbg fun d => { d with dacc := BitVec.ofNat 13 (x % 2 ^ 12) }
    | .ddata => s.modDbg fun d => { d with ddata := val }
    | .ibp n => s.modDbg fun d => { d with ibp := d.ibp.set n.toNat (BitVec.ofNat 64 (x % 2 ^ 52)) }
    | .wp m => s.modDbg fun d => { d with wp := d.wp.set m.toNat (BitVec.ofNat 64 (x % 2 ^ 55)) }
    | .wpm m => s.modDbg fun d => { d with wpm := d.wpm.set m.toNat (BitVec.ofNat 64 (x % 2 ^ 48)) }
    | .hctl d =>
      let h := s.histOf d.toNat
      s.setHist d.toNat { h with mode := BitVec.ofNat 2 x, ctx := BitVec.ofNat 4 (bits x 2 4), all := bits x 6 1 == 1, shift := BitVec.ofNat 5 (bits x 7 5) }
    | .hbase d => s.setHist d.toNat { s.histOf d.toNat with hbase := BitVec.ofNat 48 x }
    | .obs d => s.setHist d.toNat { s.histOf d.toNat with
        obase := BitVec.ofNat 34 (bits x 16 34), nbuf := BitVec.ofNat 6 (bits x 50 6), bufkb := BitVec.ofNat 8 (bits x 56 8) }
    | .other _ => s)

/-- What a read of a plain register returns (R5, Tables 19.3, 19.10, 22.3, 22.5): its readable fields; write-only and reserved ones are zero. -/
def State.registerRead (s : State) (reg : PlainReg) : Word :=
  let d := s.core.dbg
  match reg with
  | .modId => BitVec.ofNat 64 (s.globalWord 0x008)
  | .gvec => BitVec.ofNat 64 (s.globalWord 0x030)
  | .hingeEn p => BitVec.ofNat 64 ((s.hinge p).word 0)
  | .msix v w => BitVec.ofNat 64 (bits (s.bar0Word (0x3_0000 + 16 * v.toNat + 8 * (w.toNat / 2))) (32 * (w.toNat % 2)) 32)
  | .dctl => BitVec.ofNat 64 (2 ^ 3 * d.stepSlot.toNat + 2 ^ 5 * d.haltBrk.toNat)
  | .dacc => d.dacc.setWidth 64
  | .ddata => d.ddata
  | .ibp n => d.ibp[n.toNat]
  | .wp m => d.wp[m.toNat]
  | .wpm m => d.wpm[m.toNat]
  | .hctl die =>
    let h := s.histOf die.toNat
    BitVec.ofNat 64 (h.mode.toNat + 2 ^ 2 * h.ctx.toNat + 2 ^ 6 * h.all.toNat + 2 ^ 7 * h.shift.toNat)
  | .hbase die => (s.histOf die.toNat).hbase.setWidth 64
  | .obs die =>
    let h := s.histOf die.toNat
    BitVec.ofNat 64 (2 ^ 16 * h.obase.toNat + 2 ^ 50 * h.nbuf.toNat + 2 ^ 56 * h.bufkb.toNat)
  | .other off => BitVec.ofNat 64 (s.bar0Word (off.toNat / 8 * 8))

/-! ## The histogram engine (R493) -/

/-- n samples in a bin; bins saturate. -/
def Hist.hits (h : Hist) (bin n : Nat) : Hist :=
  { h with bins := assocSet h.bins bin (BitVec.ofNat 32 (Nat.min 0xFFFFFFFF ((assocGet h.bins bin 0).toNat + n))) }

/-- The reason of MODE 2 for a slot sampled in cycle `at_`; none for a stall that the table does not name (log 9). -/
def Core.reason (k : Core) (i : Fin 4) (at_ : Nat) (spent : Bool) : Option Nat :=
  let t := k.th i
  if t.status = .halted ∨ k.dbg.halted = true then some 9
  else match t.status with
    | .missWait => some 5
    | .parked => some 6
    | .pausing => some 7
    | .sleeping => some 8
    | .stalled => if spent then some 10 else if t.onReg then some 3 else if !t.fq.isEmpty || t.rep.act || k.ring.all (· != .free) then some 4 else none
    | _ => if k.issuedAt = some (i, at_) then some 1 else if spent then some 10 else some 2

/-- The bin of a slot. -/
def Hist.bin (h : Hist) (k : Core) (i : Fin 4) (at_ : Nat) (spent : Bool) (free : Nat) : Nat :=
  if h.mode = 1 then
    let pc := (k.th i).pc.toNat
    let b := (pc - h.hbase.toNat) / 2 ^ h.shift.toNat
    if h.hbase.toNat ≤ pc ∧ b < 4095 then b else 4095
  else 4 * (k.reason i at_ spent).getD (3 + free % 2) + i.val

/-- Every slot of a core of the die that is sampled. -/
def State.sampleCore (s : State) (die at_ : Nat) (c : CoreId) : State :=
  if c.die ≠ die then s
  else
    ([0, 1, 2, 3] : List (Fin 4)).foldl (fun s i =>
      let h := s.histOf die
      let t := (s.coreAt c).th i
      if t.status = .empty ∨ (h.all = false ∧ t.ctx ≠ h.ctx) then s
      else
        let (x, s) := s.free
        s.setHist die (h.hits (h.bin (s.coreAt c) i at_ (s.clAt (s.clusterOf c)).spent x.toNat) 1)) s

/-- The cores of a die that are as at reset: in each, slot 3 sleeps at address 0 in context 0. -/
def State.sampleRest (s : State) (die : Nat) : State :=
  let h := s.histOf die
  let n := 8320 * 8 - s.coreIds.countP (·.die == die)
  if s.deadDies.elem die || !(h.all || h.ctx == 0) then s else s.setHist die (h.hits (h.bin {} 3 0 false 0) n)

/-- HIST_SAMPLE (R493): the clock of the die has passed a multiple of 1,024; each multiple has its sample. -/
def execHistSample (die : BitVec 4) (s : State) : Out :=
  let d := die.toNat
  let h := s.histOf d
  let n := h.sampled + 1
  if s.clkOf d / 1024 < n then .next s
  else
    let s := s.setHist d { h with sampled := n }
    .next (if h.mode = 1 ∨ h.mode = 2 then s.coreIds.foldl (fun s c => s.sampleCore d (n * 1024) c) (s.sampleRest d) else s)

/-! ## Dumps (R494 to R496) -/

/-- The link record of a direction (R495): word 0, then flits and stall cycles of each class. How long flits waited is a matter of time,
which no step has: of a class that has sent flits it is a free value (log 9). -/
def State.linkRecord (s : State) (p : PortDir) (t : Traffic) : List Byte × State :=
  let (bs, s) := t.flits.toList.foldl (fun (r : List Byte × State) n =>
    let (x, s) := r.2.free
    (r.1 ++ leBytes 4 n ++ leBytes 4 (if n = 0 then 0 else x.toNat), s)) ([], s)
  (leBytes 8 (p.kind % 2 ^ 4 + 2 ^ 4 * (p.index % 2 ^ 28) + 2 ^ 32 * (p.dir % 2)) ++ bs ++ leBytes 8 0, s)

def State.linkRecords : List (PortDir × Traffic) → State → List Byte × State
  | [], s => ([], s)
  | (p, t) :: l, s =>
    let (w, s) := s.linkRecord p t
    let (r, s) := State.linkRecords l s
    (w ++ r, s)

/-- The bins of a dump. -/
def Hist.binBytes (h : Hist) : List Byte := (List.range 4096).flatMap fun i => leBytes 4 (assocGet h.bins i 0).toNat

/-- The dump of a die at a boundary of its clock, cut to its buffer: a record for each link direction that has counted anything (log 89). -/
def State.dump (s : State) (d at_ : Nat) : List Byte × State :=
  let h := s.histOf d
  let bins := if h.mode ≠ 0 then h.binBytes else []
  let mine := s.grid.filter fun g => g.1.die = d ∧ g.2.flits.toList.any (· != 0) = true
  let kept := mine.take ((h.bufkb.toNat * 65536 - 64 - bins.length) / 64)
  let (links, s) := State.linkRecords kept s
  let head := leBytes 4 0x53424F56 ++ [BitVec.ofNat 8 d, 0, 0, 0] ++ leBytes 8 at_ ++ leBytes 4 kept.length
    ++ leBytes 4 h.intervals.toNat ++ leBytes 8 0 ++ List.replicate 32 0
  (head ++ bins ++ links, s)

/-- The port that carries a dump on its first part of the way, and the flits that the telemetry class may still send there in the
period (R387). -/
def State.dumpPort (d loc : Nat) : PortDir := if isHost loc then ⟨0, 4, 0, 0⟩ else ⟨d, 1, 8320, 0⟩
def State.dumpRoom (s : State) (d loc : Nat) : Nat :=
  let p := State.dumpPort d loc
  (s.budget p.die 3 p.kind).toNat - (assocGet s.grid p {}).period[3]

/-- The parts of a dump go out in order; the header's SEQ word keeps what it holds. -/
def State.dumpParts (s : State) (d seqAt : Nat) (bs : List Byte) : List (Nat × Nat) → State
  | [] => s
  | (a, n) :: r =>
    let part := bs.take n
    let k := seqAt - a
    let part := if a ≤ seqAt ∧ seqAt + 8 ≤ a + n then part.take k ++ Memory.bytes s.mem seqAt 8 ++ part.drop (k + 8) else part
    (s.devWrite d a part 3).dumpParts d seqAt (bs.drop n) r

/-- As much of a dump goes out as the budget of its class lets pass; the SEQ word is last (R495, R496). -/
def State.dumpMore (s : State) (d : Nat) : State :=
  let h := s.histOf d
  match h.dump with
  | none => s
  | some o =>
    let now := (chunks (payload d o.loc) o.left.length o.loc o.left.length).take (s.dumpRoom d o.loc)
    let n := (now.map (·.2)).sum
    let s := s.dumpParts d o.seqAt o.left now
    let left := o.left.drop n
    if left.isEmpty ∧ 0 < s.dumpRoom d o.loc then
      (s.devWrite d o.seqAt (leBytes 8 o.seq.toNat) 3).setHist d { s.histOf d with dump := none }
    else s.setHist d { s.histOf d with dump := some { o with loc := o.loc + n, left := left } }

/-- INTERVAL_DUMP (R494 to R496): a dump that is being written goes on. At a boundary, grid and bins are copied and zeroed, and a dump
begins; if the one before is still being written, they count on and the next snapshot covers one interval more. With no buffers nothing is
written. -/
def execIntervalDump (die : BitVec 4) (s : State) : Out :=
  let d := die.toNat
  let s := s.dumpMore d
  let h := s.histOf d
  let n := h.dumped + 1
  if s.clkOf d / 2 ^ 20 < n then .next s
  else if h.dump.isSome then .next (s.setHist d { h with dumped := n, intervals := h.intervals + 1 })
  else
    let zero := fun (s : State) => { s with grid := s.grid.map fun g => if g.1.die = d then (g.1, { g.2 with flits := Vector.replicate 6 0 }) else g }
    if h.nbuf = 0 ∨ h.bufkb = 0 then .next (zero (s.setHist d { h with dumped := n, bins := [], intervals := 1 }))
    else
      let a := h.obase.toNat * 65536 + h.seq.toNat % h.nbuf.toNat * h.bufkb.toNat * 65536
      let (bs, s) := s.dump d (n * 2 ^ 20)
      let out : Option DumpOut := if physTarget a && physTarget (a + bs.length - 1) then some ⟨a, bs, a + 24, h.seq⟩ else none
      .next (zero (s.setHist d { h with dumped := n, bins := [], seq := h.seq + 1, intervals := 1, dump := out }))

end Sys2Proof.Machine
end

