-- ==== Sys2Proof/Machine/FloatPacked.lean ====
section
/-! DEFINITION. The F and special-function instructions as the I pipe executes them: each is dispatched with its fields
(chapter 07; what it computes stands in FloatOps), and `fmt` (R208). -/
namespace Sys2Proof.Machine

/-- The queue's fields of FP3: F, RR: D, A, B and PR. -/
def FP3.raw (op : BitVec 8) (o : FP3) (m8 : Nat := 0) (sub : BitVec 3 := 0) : FRaw :=
  { op := op, d := o.d, a := o.a, b := o.b, sub := sub, m8 := BitVec.ofNat 8 (o.pr.toNat + m8) }
/-- The queue's fields of FP3R: F, RRX: D, A, B, holds HA HB, PR and RND. -/
def FP3R.raw (op : BitVec 8) (o : FP3R) (m8 : Nat := 0) (sub : BitVec 3 := 0) : FRaw :=
  { op := op, d := o.d, a := o.a, b := o.b, sub := sub, m8 := BitVec.ofNat 8 (o.pr.toNat + o.rnd.toNat * 16 + m8), hold := BitVec.ofNat 3 (o.h.toNat) }
/-- The queue's fields of FP4R: fma forms: D, A, B, C, holds, PR and RND. -/
def FP4R.raw (op : BitVec 8) (o : FP4R) (m8 : Nat := 0) (sub : BitVec 3 := 0) : FRaw :=
  { op := op, d := o.d, a := o.a, b := o.b, c := o.c, sub := sub, m8 := BitVec.ofNat 8 (o.pr.toNat + o.rnd.toNat * 16 + m8), hold := BitVec.ofNat 3 (o.h.toNat) }
/-- The queue's fields of FP3H: F, RRX: D, A, B, holds and PR. -/
def FP3H.raw (op : BitVec 8) (o : FP3H) (m8 : Nat := 0) (sub : BitVec 3 := 0) : FRaw :=
  { op := op, d := o.d, a := o.a, b := o.b, sub := sub, m8 := BitVec.ofNat 8 (o.pr.toNat + m8), hold := BitVec.ofNat 3 (o.h.toNat) }
/-- The queue's fields of FP2: F, RR: D, A and PR. -/
def FP2.raw (op : BitVec 8) (o : FP2) (m8 : Nat := 0) (sub : BitVec 3 := 0) : FRaw :=
  { op := op, d := o.d, a := o.a, sub := sub, m8 := BitVec.ofNat 8 (o.pr.toNat + m8) }
/-- The queue's fields of FP2H: F, RRX: D, A, hold HA and PR. -/
def FP2H.raw (op : BitVec 8) (o : FP2H) (m8 : Nat := 0) (sub : BitVec 3 := 0) : FRaw :=
  { op := op, d := o.d, a := o.a, sub := sub, m8 := BitVec.ofNat 8 (o.pr.toNat + m8), hold := BitVec.ofNat 3 (o.h.toNat) }
/-- The queue's fields of FC3: fcmp, RR. -/
def FC3.raw (op : BitVec 8) (o : FC3) (m8 : Nat := 0) (sub : BitVec 3 := 0) : FRaw :=
  { op := op, d := o.d, a := o.a, b := o.b, sub := sub, m8 := BitVec.ofNat 8 (o.pr.toNat + m8) }
/-- The queue's fields of FC3H: fcmp, RRX. -/
def FC3H.raw (op : BitVec 8) (o : FC3H) (m8 : Nat := 0) (sub : BitVec 3 := 0) : FRaw :=
  { op := op, d := o.d, a := o.a, b := o.b, sub := sub, m8 := BitVec.ofNat 8 (o.pr.toNat + m8), hold := BitVec.ofNat 3 (o.h.toNat) }
/-- The queue's fields of FC2: fclass. -/
def FC2.raw (op : BitVec 8) (o : FC2) (m8 : Nat := 0) (sub : BitVec 3 := 0) : FRaw :=
  { op := op, d := o.d, a := o.a, sub := sub, m8 := BitVec.ofNat 8 (o.pr.toNat + m8) }
/-- The queue's fields of CvtR: fcvt, RR. -/
def CvtR.raw (op : BitVec 8) (o : CvtR) (m8 : Nat := 0) (sub : BitVec 3 := 0) : FRaw :=
  { op := op, d := o.d, a := o.a, sub := sub, m8 := BitVec.ofNat 8 (o.sf.toNat + o.df.toNat * 4 + m8) }
/-- The queue's fields of CvtX: fcvt, RRX. -/
def CvtX.raw (op : BitVec 8) (o : CvtX) (m8 : Nat := 0) (sub : BitVec 3 := 0) : FRaw :=
  { op := op, d := o.d, a := o.a, sub := sub, m8 := BitVec.ofNat 8 (o.sf.toNat + o.df.toNat * 4 + o.rnd.toNat * 16 + m8), hold := BitVec.ofNat 3 (o.h.toNat) }
/-- The queue's fields of CviR: fcvti, RR. -/
def CviR.raw (op : BitVec 8) (o : CviR) (m8 : Nat := 0) (sub : BitVec 3 := 0) : FRaw :=
  { op := op, d := o.d, a := o.a, sub := sub, m8 := BitVec.ofNat 8 (o.sf.toNat + o.un.toNat * 4 + m8) }
/-- The queue's fields of CviX: fcvti, RRX. -/
def CviX.raw (op : BitVec 8) (o : CviX) (m8 : Nat := 0) (sub : BitVec 3 := 0) : FRaw :=
  { op := op, d := o.d, a := o.a, sub := sub, m8 := BitVec.ofNat 8 (o.sf.toNat + o.un.toNat * 4 + o.rnd.toNat * 16 + m8), hold := BitVec.ofNat 3 (o.h.toNat) }
/-- The queue's fields of IcvR: icvtf, RR. -/
def IcvR.raw (op : BitVec 8) (o : IcvR) (m8 : Nat := 0) (sub : BitVec 3 := 0) : FRaw :=
  { op := op, d := o.d, a := o.a, sub := sub, m8 := BitVec.ofNat 8 (o.df.toNat + o.un.toNat * 4 + m8) }
/-- The queue's fields of IcvX: icvtf, RRX; HA of a `g` source, which is captured at dispatch (R187), holds no latch (log 73). -/
def IcvX.raw (op : BitVec 8) (o : IcvX) (m8 : Nat := 0) (sub : BitVec 3 := 0) : FRaw :=
  { op := op, d := o.d, a := o.a, sub := sub, m8 := BitVec.ofNat 8 (o.df.toNat + o.un.toNat * 4 + o.rnd.toNat * 16 + m8), hold := BitVec.ofNat 3 (o.h.toNat) }
/-- The queue's fields of GF: fmvg. -/
def GF.raw (op : BitVec 8) (o : GF) (m8 : Nat := 0) (sub : BitVec 3 := 0) : FRaw :=
  { op := op, d := o.d, a := o.a, sub := sub, m8 := BitVec.ofNat 8 (m8) }
/-- The queue's fields of FG: gmvf. -/
def FG.raw (op : BitVec 8) (o : FG) (m8 : Nat := 0) (sub : BitVec 3 := 0) : FRaw :=
  { op := op, d := o.d, a := o.a, sub := sub, m8 := BitVec.ofNat 8 (m8) }
/-- The queue's fields of F4H: fsel. -/
def F4H.raw (op : BitVec 8) (o : F4H) (m8 : Nat := 0) (sub : BitVec 3 := 0) : FRaw :=
  { op := op, d := o.d, a := o.a, b := o.b, c := o.c, sub := sub, m8 := BitVec.ofNat 8 (m8), hold := BitVec.ofNat 3 (o.h.toNat) }
/-- The queue's fields of PE3: packed, RR: D, A, B and E. -/
def PE3.raw (op : BitVec 8) (o : PE3) (m8 : Nat := 0) (sub : BitVec 3 := 0) : FRaw :=
  { op := op, d := o.d, a := o.a, b := o.b, sub := sub, m8 := BitVec.ofNat 8 (o.e.toNat + m8) }
/-- The queue's fields of PE3H: packed, RRX: D, A, B, holds and E. -/
def PE3H.raw (op : BitVec 8) (o : PE3H) (m8 : Nat := 0) (sub : BitVec 3 := 0) : FRaw :=
  { op := op, d := o.d, a := o.a, b := o.b, sub := sub, m8 := BitVec.ofNat 8 (o.e.toNat + m8), hold := BitVec.ofNat 3 (o.h.toNat) }
/-- The queue's fields of PE4H: pfma, pdot. -/
def PE4H.raw (op : BitVec 8) (o : PE4H) (m8 : Nat := 0) (sub : BitVec 3 := 0) : FRaw :=
  { op := op, d := o.d, a := o.a, b := o.b, c := o.c, sub := sub, m8 := BitVec.ofNat 8 (o.e.toNat + m8), hold := BitVec.ofNat 3 (o.h.toNat) }
/-- The queue's fields of PBc: pbcast, RR. -/
def PBc.raw (op : BitVec 8) (o : PBc) (m8 : Nat := 0) (sub : BitVec 3 := 0) : FRaw :=
  { op := op, d := o.d, a := o.a, b := o.lane.setWidth 6, sub := sub, m8 := BitVec.ofNat 8 (o.e.toNat + m8) }
/-- The queue's fields of PBcH: pbcast, RRX. -/
def PBcH.raw (op : BitVec 8) (o : PBcH) (m8 : Nat := 0) (sub : BitVec 3 := 0) : FRaw :=
  { op := op, d := o.d, a := o.a, b := o.lane.setWidth 6, sub := sub, m8 := BitVec.ofNat 8 (o.e.toNat + m8), hold := BitVec.ofNat 3 (o.h.toNat) }
/-- The queue's fields of PW3: ppack and pq, RR. -/
def PW3.raw (op : BitVec 8) (o : PW3) (m8 : Nat := 0) (sub : BitVec 3 := 0) : FRaw :=
  { op := op, d := o.d, a := o.a, b := o.b, sub := sub, m8 := BitVec.ofNat 8 (o.e.toNat + o.wf.toNat * 4 + m8) }
/-- The queue's fields of PW3H: ppack, RRX. -/
def PW3H.raw (op : BitVec 8) (o : PW3H) (m8 : Nat := 0) (sub : BitVec 3 := 0) : FRaw :=
  { op := op, d := o.d, a := o.a, b := o.b, sub := sub, m8 := BitVec.ofNat 8 (o.e.toNat + o.wf.toNat * 4 + o.part.toNat * 16 + m8), hold := BitVec.ofNat 3 (o.h.toNat) }
/-- The queue's fields of PW2: punpack and pdq, RR. -/
def PW2.raw (op : BitVec 8) (o : PW2) (m8 : Nat := 0) (sub : BitVec 3 := 0) : FRaw :=
  { op := op, d := o.d, a := o.a, sub := sub, m8 := BitVec.ofNat 8 (o.e.toNat + o.wf.toNat * 4 + m8) }
/-- The queue's fields of PW2H: punpack, RRX. -/
def PW2H.raw (op : BitVec 8) (o : PW2H) (m8 : Nat := 0) (sub : BitVec 3 := 0) : FRaw :=
  { op := op, d := o.d, a := o.a, sub := sub, m8 := BitVec.ofNat 8 (o.e.toNat + o.wf.toNat * 4 + o.part.toNat * 16 + m8), hold := BitVec.ofNat 3 (o.h.toNat) }
/-- The queue's fields of PW4H: pq, RRX. -/
def PW4H.raw (op : BitVec 8) (o : PW4H) (m8 : Nat := 0) (sub : BitVec 3 := 0) : FRaw :=
  { op := op, d := o.d, a := o.a, b := o.b, c := o.c, sub := sub, m8 := BitVec.ofNat 8 (o.e.toNat + o.wf.toNat * 4 + o.part.toNat * 16 + m8), hold := BitVec.ofNat 3 (o.h.toNat) }
/-- The queue's fields of PWcH: pdq, RRX. -/
def PWcH.raw (op : BitVec 8) (o : PWcH) (m8 : Nat := 0) (sub : BitVec 3 := 0) : FRaw :=
  { op := op, d := o.d, a := o.a, c := o.c, sub := sub, m8 := BitVec.ofNat 8 (o.e.toNat + o.wf.toNat * 4 + o.part.toNat * 16 + m8), hold := BitVec.ofNat 3 (o.ha.toNat + o.hc.toNat * 4) }
/-- The queue's fields of F3: pbit, RR. -/
def F3.raw (op : BitVec 8) (o : F3) (m8 : Nat := 0) (sub : BitVec 3 := 0) : FRaw :=
  { op := op, d := o.d, a := o.a, b := o.b, sub := sub, m8 := BitVec.ofNat 8 (m8) }
/-- The queue's fields of F3H: pbit, RRX. -/
def F3H.raw (op : BitVec 8) (o : F3H) (m8 : Nat := 0) (sub : BitVec 3 := 0) : FRaw :=
  { op := op, d := o.d, a := o.a, b := o.b, sub := sub, m8 := BitVec.ofNat 8 (m8), hold := BitVec.ofNat 3 (o.h.toNat) }
/-- The queue's fields of F2: pmov, RR. -/
def F2.raw (op : BitVec 8) (o : F2) (m8 : Nat := 0) (sub : BitVec 3 := 0) : FRaw :=
  { op := op, d := o.d, a := o.a, sub := sub, m8 := BitVec.ofNat 8 (m8) }
/-- The queue's fields of F2H: pmov, RRX. -/
def F2H.raw (op : BitVec 8) (o : F2H) (m8 : Nat := 0) (sub : BitVec 3 := 0) : FRaw :=
  { op := op, d := o.d, a := o.a, sub := sub, m8 := BitVec.ofNat 8 (m8), hold := BitVec.ofNat 3 (o.h.toNat) }
/-- The queue's fields of FS2: special function without FP64, RR (R185). -/
def FS2.raw (op : BitVec 8) (o : FS2) (m8 : Nat := 0) (sub : BitVec 3 := 0) : FRaw :=
  { op := op, d := o.d, a := o.a, sub := sub, m8 := BitVec.ofNat 8 (o.pr.toNat + m8) }
/-- The queue's fields of FS2H: special function without FP64, RRX (R185). -/
def FS2H.raw (op : BitVec 8) (o : FS2H) (m8 : Nat := 0) (sub : BitVec 3 := 0) : FRaw :=
  { op := op, d := o.d, a := o.a, sub := sub, m8 := BitVec.ofNat 8 (o.pr.toNat + m8), hold := BitVec.ofNat 3 (o.h.toNat) }

/-- Floating add at precision PR (RR form) (R192). -/
def execFadd (o : FP3) (s : State) : Out := s.execF (FP3.raw 0x70 o)
/-- Floating add, RRX form with rounding and holds (R192). -/
def execFaddL2 (o : FP3R) (s : State) : Out := s.execF (FP3R.raw 0x70 o)
/-- Floating subtract (RR) (R192). -/
def execFsub (o : FP3) (s : State) : Out := s.execF (FP3.raw 0x71 o)
/-- Floating subtract (RRX) (R192). -/
def execFsubL2 (o : FP3R) (s : State) : Out := s.execF (FP3R.raw 0x71 o)
/-- Floating multiply (RR) (R192). -/
def execFmul (o : FP3) (s : State) : Out := s.execF (FP3.raw 0x72 o)
/-- Floating multiply (RRX) (R192). -/
def execFmulL2 (o : FP3R) (s : State) : Out := s.execF (FP3R.raw 0x72 o)
/-- Fused a×b+c rounded once (R193). -/
def execFma (o : FP4R) (s : State) : Out := s.execF (FP4R.raw 0x73 o)
/-- Fused a×b−c (R193). -/
def execFms (o : FP4R) (s : State) : Out := s.execF (FP4R.raw 0x73 o 0 1)
/-- Fused −(a×b)−c (R193). -/
def execFnma (o : FP4R) (s : State) : Out := s.execF (FP4R.raw 0x73 o 0 2)
/-- Fused −(a×b)+c (R193). -/
def execFnms (o : FP4R) (s : State) : Out := s.execF (FP4R.raw 0x73 o 0 3)
/-- Floating minimum (RR) (R194). -/
def execFmin (o : FP3) (s : State) : Out := s.execF (FP3.raw 0x74 o)
/-- Floating minimum (RRX) (R194). -/
def execFminL2 (o : FP3H) (s : State) : Out := s.execF (FP3H.raw 0x74 o)
/-- Floating maximum (RR) (R194). -/
def execFmax (o : FP3) (s : State) : Out := s.execF (FP3.raw 0x75 o)
/-- Floating maximum (RRX) (R194). -/
def execFmaxL2 (o : FP3H) (s : State) : Out := s.execF (FP3H.raw 0x75 o)
/-- Inverts the sign (RR) (R195). -/
def execFneg (o : FP2) (s : State) : Out := s.execF (FP2.raw 0x76 o)
/-- Inverts the sign (RRX) (R195). -/
def execFnegL2 (o : FP2H) (s : State) : Out := s.execF (FP2H.raw 0x76 o)
/-- Clears the sign (R195). -/
def execFabs (o : FP2H) (s : State) : Out := s.execF (FP2H.raw 0x76 o 0 1)
/-- Copies the sign of b onto a (R195). -/
def execFcpsgn (o : FP3H) (s : State) : Out := s.execF (FP3H.raw 0x76 o 0 2)
/-- Floating equal compare into a g register (RR) (R196). -/
def execFeq (o : FC3) (s : State) : Out := s.execF (FC3.raw 0x77 o)
/-- feq, RRX form (R196). -/
def execFeqL2 (o : FC3H) (s : State) : Out := s.execF (FC3H.raw 0x77 o)
/-- Floating less-than compare (RR) (R196). -/
def execFlt (o : FC3) (s : State) : Out := s.execF (FC3.raw 0x77 o 4)
/-- flt, RRX form (R196). -/
def execFltL2 (o : FC3H) (s : State) : Out := s.execF (FC3H.raw 0x77 o 4)
/-- Floating less-or-equal compare (RR) (R196). -/
def execFle (o : FC3) (s : State) : Out := s.execF (FC3.raw 0x77 o 8)
/-- fle, RRX form (R196). -/
def execFleL2 (o : FC3H) (s : State) : Out := s.execF (FC3H.raw 0x77 o 8)
/-- Floating unordered compare (RR) (R196). -/
def execFuno (o : FC3) (s : State) : Out := s.execF (FC3.raw 0x77 o 12)
/-- funo, RRX form (R196). -/
def execFunoL2 (o : FC3H) (s : State) : Out := s.execF (FC3H.raw 0x77 o 12)
/-- Writes a one-hot class mask per lane to a g register (R197). -/
def execFclass (o : FC2) (s : State) : Out := s.execF (FC2.raw 0x78 o)
/-- Converts between scalar float formats (RR) (R199). -/
def execFcvt (o : CvtR) (s : State) : Out := s.execF (CvtR.raw 0x79 o)
/-- fcvt, RRX form with rounding (R199). -/
def execFcvtL2 (o : CvtX) (s : State) : Out := s.execF (CvtX.raw 0x79 o)
/-- Converts a float to INT64 or UINT64 in a g register (RR) (R200). -/
def execFcvti (o : CviR) (s : State) : Out := s.execF (CviR.raw 0x7A o)
/-- fcvti, RRX form (R200). -/
def execFcvtiL2 (o : CviX) (s : State) : Out := s.execF (CviX.raw 0x7A o)
/-- Converts a captured integer to a float (RR) (R200). -/
def execIcvtf (o : IcvR) (s : State) : Out := s.execF (IcvR.raw 0x7B o)
/-- icvtf, RRX form (R200). -/
def execIcvtfL2 (o : IcvX) (s : State) : Out := s.execF (IcvX.raw 0x7B o)
/-- Copies a v register's bits to a g register (R198). -/
def execFmvg (o : GF) (s : State) : Out := s.execF (GF.raw 0x7C o)
/-- Copies a captured g value to a v register (R198). -/
def execGmvf (o : FG) (s : State) : Out := s.execF (FG.raw 0x7D o)
/-- Writes K16 × 2^48 to a v register (R191). -/
def execFli (o : FK16) (s : State) : Out := s.execF { op := 0x7E, d := o.d } (BitVec.ofNat 64 (o.k.toNat * 2 ^ 48))
/-- Writes an FP32 pattern to both lanes (R191). -/
def execFliL2 (o : FK32) (s : State) : Out := s.execF { op := 0x7E, d := o.d } (o.k ++ o.k)
/-- Writes a 64-bit pattern (R191). -/
def execFliL3 (o : FK64) (s : State) : Out := s.execF { op := 0x7E, d := o.d } (o.k)
/-- Bitwise select by mask c (R198). -/
def execFsel (o : F4H) (s : State) : Out := s.execF (F4H.raw 0x7F o)
/-- Packed add under the effective descriptor (RR) (R202). -/
def execPadd (o : PE3) (s : State) : Out := s.execF (PE3.raw 0x80 o)
/-- padd, RRX form (R202). -/
def execPaddL2 (o : PE3H) (s : State) : Out := s.execF (PE3H.raw 0x80 o)
/-- Packed subtract (RR) (R202). -/
def execPsub (o : PE3) (s : State) : Out := s.execF (PE3.raw 0x81 o)
/-- psub, RRX form (R202). -/
def execPsubL2 (o : PE3H) (s : State) : Out := s.execF (PE3H.raw 0x81 o)
/-- Packed multiply (RR) (R202). -/
def execPmul (o : PE3) (s : State) : Out := s.execF (PE3.raw 0x82 o)
/-- pmul, RRX form (R202). -/
def execPmulL2 (o : PE3H) (s : State) : Out := s.execF (PE3H.raw 0x82 o)
/-- Packed fused multiply-add (R202). -/
def execPfma (o : PE4H) (s : State) : Out := s.execF (PE4H.raw 0x83 o)
/-- Packed minimum (RR) (R202). -/
def execPmin (o : PE3) (s : State) : Out := s.execF (PE3.raw 0x84 o)
/-- pmin, RRX form (R202). -/
def execPminL2 (o : PE3H) (s : State) : Out := s.execF (PE3H.raw 0x84 o)
/-- Packed maximum (RR) (R202). -/
def execPmax (o : PE3) (s : State) : Out := s.execF (PE3.raw 0x85 o)
/-- pmax, RRX form (R202). -/
def execPmaxL2 (o : PE3H) (s : State) : Out := s.execF (PE3H.raw 0x85 o)
/-- Scaled dot product of lanes into an FP32 accumulator, rounded once (R204). -/
def execPdot (o : PE4H) (s : State) : Out := s.execF (PE4H.raw 0x86 o)
/-- Sums the lanes of a into an FP32 addend (RR) (R204). -/
def execPsum (o : PE3) (s : State) : Out := s.execF (PE3.raw 0x87 o)
/-- psum, RRX form (R204). -/
def execPsumL2 (o : PE3H) (s : State) : Out := s.execF (PE3H.raw 0x87 o)
/-- Permutes lanes by indices in b (RR) (R205). -/
def execPshuf (o : PE3) (s : State) : Out := s.execF (PE3.raw 0x88 o)
/-- pshuf, RRX form (R205). -/
def execPshufL2 (o : PE3H) (s : State) : Out := s.execF (PE3H.raw 0x88 o)
/-- Broadcasts one lane (RR) (R205). -/
def execPbcast (o : PBc) (s : State) : Out := s.execF (PBc.raw 0x89 o)
/-- pbcast, RRX form (R205). -/
def execPbcastL2 (o : PBcH) (s : State) : Out := s.execF (PBcH.raw 0x89 o)
/-- Narrows wide values into a block of lanes (RR) (R206). -/
def execPpack (o : PW3) (s : State) : Out := s.execF (PW3.raw 0x8A o)
/-- ppack, RRX form with PART (R206). -/
def execPpackL2 (o : PW3H) (s : State) : Out := s.execF (PW3H.raw 0x8A o)
/-- Widens a block of lanes (RR) (R206). -/
def execPunpack (o : PW2) (s : State) : Out := s.execF (PW2.raw 0x8B o)
/-- punpack, RRX form (R206). -/
def execPunpackL2 (o : PW2H) (s : State) : Out := s.execF (PW2H.raw 0x8B o)
/-- Quantises wide values with a scale code (RR) (R206). -/
def execPq (o : PW3) (s : State) : Out := s.execF (PW3.raw 0x8C o)
/-- pq, RRX form (R206). -/
def execPqL2 (o : PW4H) (s : State) : Out := s.execF (PW4H.raw 0x8C o)
/-- Dequantises lanes with a scale code (RR) (R206). -/
def execPdq (o : PW2) (s : State) : Out := s.execF (PW2.raw 0x8D o)
/-- pdq, RRX form (R206). -/
def execPdqL2 (o : PWcH) (s : State) : Out := s.execF (PWcH.raw 0x8D o)
/-- Packed equal compare mask (RR) (R203). -/
def execPeq (o : PE3) (s : State) : Out := s.execF (PE3.raw 0x8E o)
/-- peq, RRX form (R203). -/
def execPeqL2 (o : PE3H) (s : State) : Out := s.execF (PE3H.raw 0x8E o)
/-- Packed less-than mask (RR) (R203). -/
def execPlt (o : PE3) (s : State) : Out := s.execF (PE3.raw 0x8E o 4)
/-- plt, RRX form (R203). -/
def execPltL2 (o : PE3H) (s : State) : Out := s.execF (PE3H.raw 0x8E o 4)
/-- Packed less-or-equal mask (RR) (R203). -/
def execPle (o : PE3) (s : State) : Out := s.execF (PE3.raw 0x8E o 8)
/-- ple, RRX form (R203). -/
def execPleL2 (o : PE3H) (s : State) : Out := s.execF (PE3H.raw 0x8E o 8)
/-- Packed unordered mask (RR) (R203). -/
def execPuno (o : PE3) (s : State) : Out := s.execF (PE3.raw 0x8E o 12)
/-- puno, RRX form (R203). -/
def execPunoL2 (o : PE3H) (s : State) : Out := s.execF (PE3H.raw 0x8E o 12)
/-- Bitwise and of v registers (RR) (R198). -/
def execPand (o : F3) (s : State) : Out := s.execF (F3.raw 0x8F o)
/-- pand, RRX form (R198). -/
def execPandL2 (o : F3H) (s : State) : Out := s.execF (F3H.raw 0x8F o)
/-- Bitwise or of v registers (RR) (R198). -/
def execPor (o : F3) (s : State) : Out := s.execF (F3.raw 0x8F o 1)
/-- por, RRX form (R198). -/
def execPorL2 (o : F3H) (s : State) : Out := s.execF (F3H.raw 0x8F o 1)
/-- Bitwise xor of v registers (RR) (R198). -/
def execPxor (o : F3) (s : State) : Out := s.execF (F3.raw 0x8F o 2)
/-- pxor, RRX form (R198). -/
def execPxorL2 (o : F3H) (s : State) : Out := s.execF (F3H.raw 0x8F o 2)
/-- Bitwise and-not of v registers (RR) (R198). -/
def execPandn (o : F3) (s : State) : Out := s.execF (F3.raw 0x8F o 3)
/-- pandn, RRX form (R198). -/
def execPandnL2 (o : F3H) (s : State) : Out := s.execF (F3H.raw 0x8F o 3)
/-- Copies a v register (RR) (R198). -/
def execPmov (o : F2) (s : State) : Out := s.execF (F2.raw 0x90 o)
/-- pmov, RRX form (R198). -/
def execPmovL2 (o : F2H) (s : State) : Out := s.execF (F2H.raw 0x90 o)
/-- Special-function reciprocal (RR) (R209). -/
def execFrcp (o : FP2) (s : State) : Out := s.execF (FP2.raw 0xA0 o)
/-- frcp, RRX form (R209). -/
def execFrcpL2 (o : FP2H) (s : State) : Out := s.execF (FP2H.raw 0xA0 o)
/-- Reciprocal square root (RR) (R209). -/
def execFrsqrt (o : FP2) (s : State) : Out := s.execF (FP2.raw 0xA1 o)
/-- frsqrt, RRX form (R209). -/
def execFrsqrtL2 (o : FP2H) (s : State) : Out := s.execF (FP2H.raw 0xA1 o)
/-- Square root (RR) (R209). -/
def execFsqrt (o : FP2) (s : State) : Out := s.execF (FP2.raw 0xA2 o)
/-- fsqrt, RRX form (R209). -/
def execFsqrtL2 (o : FP2H) (s : State) : Out := s.execF (FP2H.raw 0xA2 o)
/-- Division (RR) (R209). -/
def execFdiv (o : FP3) (s : State) : Out := s.execF (FP3.raw 0xA3 o)
/-- fdiv, RRX form (R209). -/
def execFdivL2 (o : FP3H) (s : State) : Out := s.execF (FP3H.raw 0xA3 o)
/-- Power of two (RR) (R209). -/
def execFexp2 (o : FS2) (s : State) : Out := s.execF (FS2.raw 0xA4 o)
/-- fexp2, RRX form (R209). -/
def execFexp2L2 (o : FS2H) (s : State) : Out := s.execF (FS2H.raw 0xA4 o)
/-- Base-2 logarithm (RR) (R209). -/
def execFlog2 (o : FS2) (s : State) : Out := s.execF (FS2.raw 0xA5 o)
/-- flog2, RRX form (R209). -/
def execFlog2L2 (o : FS2H) (s : State) : Out := s.execF (FS2H.raw 0xA5 o)
/-- Hyperbolic tangent (RR) (R209). -/
def execFtanh (o : FS2) (s : State) : Out := s.execF (FS2.raw 0xA6 o)
/-- ftanh, RRX form (R209). -/
def execFtanhL2 (o : FS2H) (s : State) : Out := s.execF (FS2H.raw 0xA6 o)
/-- Logistic sigmoid (RR) (R209). -/
def execFsigm (o : FS2) (s : State) : Out := s.execF (FS2.raw 0xA7 o)
/-- fsigm, RRX form (R209). -/
def execFsigmL2 (o : FS2H) (s : State) : Out := s.execF (FS2H.raw 0xA7 o)

/-- `fmt` (R208): the descriptor governs the next instruction; one that R80 refuses is a reserved value. Like any F-class
instruction behind a repetition it waits for its end (Table 4.8). -/
def execFmt (o : K32) (s : State) : Out :=
  s.issue [] fun s =>
    if s.th.rep.act then s.stall
    else if descValid o.k.toNat then s.advance.modTh fun t => { t with prefixD := o.k, pp := true }
    else s.illegal 3

end Sys2Proof.Machine
end

