-- ==== Sys2Proof/Machine/Integer.lean ====
section
/-! DEFINITION. Integer and address instructions (chapter 04: R99 to R112). -/
namespace Sys2Proof.Machine

/-- A register-register operation (R99). -/
def State.rrr (s : State) (o : GGG) (f : Word → Word → Word) : Out :=
  s.issue [o.a, o.b, o.d] fun s => s.result o.d (f (s.g o.a) (s.g o.b))

/-- A register-immediate operation (R102 to R104). -/
def State.rri (s : State) (d a : Reg) (f : Word → Word) : Out :=
  s.issue [a, d] fun s => s.result d (f (s.g a))

/-- The shift amount of a register (R99). -/
def shAmt (b : Word) : Nat := b.toNat % 64
def shl64 (a : Word) (n : Nat) : Word := BitVec.ofNat 64 (a.toNat * 2 ^ n)
def shr64 (a : Word) (n : Nat) : Word := BitVec.ofNat 64 (a.toNat / 2 ^ n)
def sra64 (a : Word) (n : Nat) : Word := BitVec.ofInt 64 (a.toInt / 2 ^ n)
def rotl64 (a : Word) (n : Nat) : Word := BitVec.ofNat 64 (a.toNat * 2 ^ n + a.toNat / 2 ^ (64 - n))
def mulHigh (a b : Word) : Word := BitVec.ofInt 64 (a.toInt * b.toInt / 2 ^ 64)
def mulHighZ (a b : Word) : Word := BitVec.ofNat 64 (a.toNat * b.toNat / 2 ^ 64)
def smin (a b : Word) : Word := if a.toInt < b.toInt then a else b
def smax (a b : Word) : Word := if a.toInt < b.toInt then b else a
def umin (a b : Word) : Word := if a.toNat < b.toNat then a else b
def umax (a b : Word) : Word := if a.toNat < b.toNat then b else a
def sltW (a b : Word) : Word := flag (decide (a.toInt < b.toInt))
def ultW (a b : Word) : Word := flag (decide (a.toNat < b.toNat))

/-- Signed division (Table 4.2). -/
def divS (a b : Word) : Word := if b = 0 then BitVec.allOnes 64 else BitVec.ofInt 64 (a.toInt.tdiv b.toInt)
/-- Unsigned division (Table 4.2). -/
def divU (a b : Word) : Word := if b = 0 then BitVec.allOnes 64 else BitVec.ofNat 64 (a.toNat / b.toNat)
/-- Signed remainder (Table 4.2). -/
def remS (a b : Word) : Word := if b = 0 then a else BitVec.ofInt 64 (a.toInt.tmod b.toInt)
/-- Unsigned remainder (Table 4.2). -/
def remU (a b : Word) : Word := if b = 0 then a else BitVec.ofNat 64 (a.toNat % b.toNat)

/-- A division occupies the core's one divider; its destination is pending until DIVIDE_COMPLETE (R112). -/
def State.divide (s : State) (o : GGG) (f : Word → Word → Word) : Out :=
  s.issue [o.a, o.b, o.d] fun s =>
    if s.core.divider.isSome then s.stall
    else (s.modCore fun c => { c with divider := some ⟨s.cur, o.d, f (s.g o.a) (s.g o.b)⟩ }).advance

/-- `add` (R99). -/
def execAdd (o : GGG) (s : State) : Out := s.rrr o (· + ·)
/-- `sub` (R99). -/
def execSub (o : GGG) (s : State) : Out := s.rrr o (· - ·)
/-- `and` (R99). -/
def execAnd (o : GGG) (s : State) : Out := s.rrr o (· &&& ·)
/-- `or` (R99). -/
def execOr (o : GGG) (s : State) : Out := s.rrr o (· ||| ·)
/-- `xor` (R99). -/
def execXor (o : GGG) (s : State) : Out := s.rrr o (· ^^^ ·)
/-- `andn` (R99). -/
def execAndn (o : GGG) (s : State) : Out := s.rrr o (fun a b => a &&& ~~~b)
/-- `shl` (R99). -/
def execShl (o : GGG) (s : State) : Out := s.rrr o (fun a b => shl64 a (shAmt b))
/-- `shr` (R99). -/
def execShr (o : GGG) (s : State) : Out := s.rrr o (fun a b => shr64 a (shAmt b))
/-- `sra` (R99). -/
def execSra (o : GGG) (s : State) : Out := s.rrr o (fun a b => sra64 a (shAmt b))
/-- `rotl` (R99). -/
def execRotl (o : GGG) (s : State) : Out := s.rrr o (fun a b => rotl64 a (shAmt b))
/-- `mul` (R99). -/
def execMul (o : GGG) (s : State) : Out := s.rrr o (· * ·)
/-- `mulh` (R99). -/
def execMulh (o : GGG) (s : State) : Out := s.rrr o mulHigh
/-- `mulhz` (R99). -/
def execMulhz (o : GGG) (s : State) : Out := s.rrr o mulHighZ
/-- `min` (R99). -/
def execMin (o : GGG) (s : State) : Out := s.rrr o smin
/-- `max` (R99). -/
def execMax (o : GGG) (s : State) : Out := s.rrr o smax
/-- `minz` (R99). -/
def execMinz (o : GGG) (s : State) : Out := s.rrr o umin
/-- `maxz` (R99). -/
def execMaxz (o : GGG) (s : State) : Out := s.rrr o umax
/-- `slt` (R99). -/
def execSlt (o : GGG) (s : State) : Out := s.rrr o sltW
/-- `sltz` (R99). -/
def execSltz (o : GGG) (s : State) : Out := s.rrr o ultW
/-- `seq` (R99). -/
def execSeq (o : GGG) (s : State) : Out := s.rrr o (fun a b => flag (a == b))
/-- `div` (R100). -/
def execDiv (o : GGG) (s : State) : Out := s.divide o divS
/-- `divz` (R100). -/
def execDivz (o : GGG) (s : State) : Out := s.divide o divU
/-- `rem` (R100). -/
def execRem (o : GGG) (s : State) : Out := s.divide o remS
/-- `remz` (R100). -/
def execRemz (o : GGG) (s : State) : Out := s.divide o remU

/-- The divider writes its destination (R112), whatever the slot does meanwhile. -/
def execDivideComplete (s : State) : Out :=
  match s.core.divider with
  | some d => .next (s.modCore fun c => ({ c with divider := none }.modTh d.slot fun t => t.setG d.d d.val).unstall)
  | none => .next s

/-- `sel` (R101). -/
def execSel (o : GGGG) (s : State) : Out :=
  s.issue [o.a, o.b, o.c, o.d] fun s => s.result o.d (if s.g o.c ≠ 0 then s.g o.a else s.g o.b)

/-- `addi` (R102). -/
def execAddi (o : GGI10) (s : State) : Out := s.rri o.d o.a (· + sext64 o.imm)
/-- `addi` (R102). -/
def execAddiL2 (o : GGI26) (s : State) : Out := s.rri o.d o.a (· + sext64 o.imm)
/-- `andi` (R102). -/
def execAndi (o : GGI10) (s : State) : Out := s.rri o.d o.a (· &&& sext64 o.imm)
/-- `andi` (R102). -/
def execAndiL2 (o : GGI26) (s : State) : Out := s.rri o.d o.a (· &&& sext64 o.imm)
/-- `ori` (R102). -/
def execOri (o : GGI10) (s : State) : Out := s.rri o.d o.a (· ||| sext64 o.imm)
/-- `ori` (R102). -/
def execOriL2 (o : GGI26) (s : State) : Out := s.rri o.d o.a (· ||| sext64 o.imm)
/-- `xori` (R102). -/
def execXori (o : GGI10) (s : State) : Out := s.rri o.d o.a (· ^^^ sext64 o.imm)
/-- `xori` (R102). -/
def execXoriL2 (o : GGI26) (s : State) : Out := s.rri o.d o.a (· ^^^ sext64 o.imm)
/-- `shli` (R103). -/
def execShli (o : ShiftI) (s : State) : Out := s.rri o.d o.a (shl64 · o.amt.toNat)
/-- `shri` (R103). -/
def execShri (o : ShiftI) (s : State) : Out := s.rri o.d o.a (shr64 · o.amt.toNat)
/-- `srai` (R103). -/
def execSrai (o : ShiftI) (s : State) : Out := s.rri o.d o.a (sra64 · o.amt.toNat)
/-- `rotli` (R103). -/
def execRotli (o : ShiftI) (s : State) : Out := s.rri o.d o.a (rotl64 · o.amt.toNat)
/-- `slti` (R104). -/
def execSlti (o : GGI8) (s : State) : Out := s.rri o.d o.a (sltW · (sext64 o.imm))
/-- `slti` (R104). -/
def execSltiL2 (o : GGI24) (s : State) : Out := s.rri o.d o.a (sltW · (sext64 o.imm))
/-- `sltzi` (R104). -/
def execSltzi (o : GGI8) (s : State) : Out := s.rri o.d o.a (ultW · (sext64 o.imm))
/-- `sltzi` (R104). -/
def execSltziL2 (o : GGI24) (s : State) : Out := s.rri o.d o.a (ultW · (sext64 o.imm))
/-- `seqi` (R104). -/
def execSeqi (o : GGI8) (s : State) : Out := s.rri o.d o.a (fun a => flag (a == sext64 o.imm))
/-- `seqi` (R104). -/
def execSeqiL2 (o : GGI24) (s : State) : Out := s.rri o.d o.a (fun a => flag (a == sext64 o.imm))
/-- `li` (R105). -/
def execLi (o : GK16) (s : State) : Out := s.issue [o.d] fun s => s.result o.d (sext64 o.k)
/-- `li` (R105). -/
def execLiL2 (o : GK32) (s : State) : Out := s.issue [o.d] fun s => s.result o.d (sext64 o.k)
/-- `li` (R105). -/
def execLiL3 (o : GK64) (s : State) : Out := s.issue [o.d] fun s => s.result o.d (sext64 o.k)
/-- `addpc` (R106). -/
def execAddpc (o : GK32) (s : State) : Out :=
  s.issue [o.d] fun s => s.result o.d (BitVec.ofNat 64 (lineAddr s.th.pc.toNat) + sext64 o.k)
/-- `lea`, M tail (R107). -/
def execLea (o : LeaM) (s : State) : Out := s.issue [o.base, o.d] fun s => s.result o.d (s.eaM o.base o.sz o.off)
/-- `lea`, MX tail (R107). -/
def execLeaL2 (o : LeaX) (s : State) : Out :=
  s.issue (o.d :: regsX o.base o.ix o.body) fun s => s.result o.d (s.eaX o.base o.ix o.body)

/-- Leading zero bits of the low n bits. -/
def clzAt : Nat → Nat → Nat
  | 0, _ => 0
  | n + 1, x => if x / 2 ^ n % 2 = 1 then 0 else 1 + clzAt n x
/-- Trailing zero bits among n bits. -/
def ctzAt : Nat → Nat → Nat
  | 0, _ => 0
  | n + 1, x => if x % 2 = 1 then 0 else 1 + ctzAt n (x / 2)
/-- One bits among n bits. -/
def popAt : Nat → Nat → Nat
  | 0, _ => 0
  | n + 1, x => x % 2 + popAt n (x / 2)
/-- The bytes in reverse order. -/
def bswap64 (x : Word) : Word := BitVec.ofNat 64 (leNat (leBytes 8 x.toNat).reverse)

/-- `clz` (R108). -/
def execClz (o : GG) (s : State) : Out := s.rri o.d o.a fun a => BitVec.ofNat 64 (clzAt 64 a.toNat)
/-- `ctz` (R108). -/
def execCtz (o : GG) (s : State) : Out := s.rri o.d o.a fun a => BitVec.ofNat 64 (ctzAt 64 a.toNat)
/-- `popc` (R108). -/
def execPopc (o : GG) (s : State) : Out := s.rri o.d o.a fun a => BitVec.ofNat 64 (popAt 64 a.toNat)
/-- `bswap` (R108). -/
def execBswap (o : GG) (s : State) : Out := s.rri o.d o.a bswap64
/-- `sext.b` (R109). -/
def execSextB (o : GG) (s : State) : Out := s.rri o.d o.a fun a => sext64 (a.setWidth 8)
/-- `sext.h` (R109). -/
def execSextH (o : GG) (s : State) : Out := s.rri o.d o.a fun a => sext64 (a.setWidth 16)
/-- `sext.w` (R109). -/
def execSextW (o : GG) (s : State) : Out := s.rri o.d o.a fun a => sext64 (a.setWidth 32)
/-- `bext` (R110). -/
def execBext (o : BitF) (s : State) : Out :=
  s.rri o.d o.a fun a => BitVec.ofNat 64 (bits a.toNat o.pos.toNat (o.lenm1.toNat + 1))
/-- `bins` (R110): D is source and destination. -/
def execBins (o : BitF) (s : State) : Out :=
  s.issue [o.a, o.d] fun s =>
    let m := BitVec.ofNat 64 ((2 ^ (o.lenm1.toNat + 1) - 1) * 2 ^ o.pos.toNat)
    s.result o.d ((s.g o.d &&& ~~~m) ||| (BitVec.ofNat 64 ((s.g o.a).toNat * 2 ^ o.pos.toNat) &&& m))

end Sys2Proof.Machine
end

