-- ==== Sys2Proof/Machine/Dispatch.lean ====
section
/-! DEFINITION. One arm per constructor of Instr: each is one call of the meaning of that instruction or step. -/
namespace Sys2Proof.Machine

/-- The meaning of an instruction, or of a step that no word encodes, at a state. -/
def exec (i : Instr) (s : State) : Host.Outcome State Fault Refusal :=
  match i with
  | .nop => Sys2Proof.Machine.execNop s
  | .nopL1 o => Sys2Proof.Machine.execNopL1 o s
  | .nopL2 o => Sys2Proof.Machine.execNopL2 o s
  | .nopL3 o => Sys2Proof.Machine.execNopL3 o s
  | .add o => Sys2Proof.Machine.execAdd o s
  | .sub o => Sys2Proof.Machine.execSub o s
  | .and o => Sys2Proof.Machine.execAnd o s
  | .or o => Sys2Proof.Machine.execOr o s
  | .xor o => Sys2Proof.Machine.execXor o s
  | .andn o => Sys2Proof.Machine.execAndn o s
  | .shl o => Sys2Proof.Machine.execShl o s
  | .shr o => Sys2Proof.Machine.execShr o s
  | .sra o => Sys2Proof.Machine.execSra o s
  | .rotl o => Sys2Proof.Machine.execRotl o s
  | .mul o => Sys2Proof.Machine.execMul o s
  | .mulh o => Sys2Proof.Machine.execMulh o s
  | .mulhz o => Sys2Proof.Machine.execMulhz o s
  | .div o => Sys2Proof.Machine.execDiv o s
  | .divz o => Sys2Proof.Machine.execDivz o s
  | .rem o => Sys2Proof.Machine.execRem o s
  | .remz o => Sys2Proof.Machine.execRemz o s
  | .min o => Sys2Proof.Machine.execMin o s
  | .max o => Sys2Proof.Machine.execMax o s
  | .minz o => Sys2Proof.Machine.execMinz o s
  | .maxz o => Sys2Proof.Machine.execMaxz o s
  | .slt o => Sys2Proof.Machine.execSlt o s
  | .sltz o => Sys2Proof.Machine.execSltz o s
  | .seq o => Sys2Proof.Machine.execSeq o s
  | .sel o => Sys2Proof.Machine.execSel o s
  | .addi o => Sys2Proof.Machine.execAddi o s
  | .addiL2 o => Sys2Proof.Machine.execAddiL2 o s
  | .andi o => Sys2Proof.Machine.execAndi o s
  | .andiL2 o => Sys2Proof.Machine.execAndiL2 o s
  | .ori o => Sys2Proof.Machine.execOri o s
  | .oriL2 o => Sys2Proof.Machine.execOriL2 o s
  | .xori o => Sys2Proof.Machine.execXori o s
  | .xoriL2 o => Sys2Proof.Machine.execXoriL2 o s
  | .shli o => Sys2Proof.Machine.execShli o s
  | .shri o => Sys2Proof.Machine.execShri o s
  | .srai o => Sys2Proof.Machine.execSrai o s
  | .rotli o => Sys2Proof.Machine.execRotli o s
  | .li o => Sys2Proof.Machine.execLi o s
  | .liL2 o => Sys2Proof.Machine.execLiL2 o s
  | .liL3 o => Sys2Proof.Machine.execLiL3 o s
  | .addpc o => Sys2Proof.Machine.execAddpc o s
  | .lea o => Sys2Proof.Machine.execLea o s
  | .leaL2 o => Sys2Proof.Machine.execLeaL2 o s
  | .clz o => Sys2Proof.Machine.execClz o s
  | .ctz o => Sys2Proof.Machine.execCtz o s
  | .popc o => Sys2Proof.Machine.execPopc o s
  | .bswap o => Sys2Proof.Machine.execBswap o s
  | .sextB o => Sys2Proof.Machine.execSextB o s
  | .sextH o => Sys2Proof.Machine.execSextH o s
  | .sextW o => Sys2Proof.Machine.execSextW o s
  | .bext o => Sys2Proof.Machine.execBext o s
  | .bins o => Sys2Proof.Machine.execBins o s
  | .slti o => Sys2Proof.Machine.execSlti o s
  | .sltiL2 o => Sys2Proof.Machine.execSltiL2 o s
  | .sltzi o => Sys2Proof.Machine.execSltzi o s
  | .sltziL2 o => Sys2Proof.Machine.execSltziL2 o s
  | .seqi o => Sys2Proof.Machine.execSeqi o s
  | .seqiL2 o => Sys2Proof.Machine.execSeqiL2 o s
  | .beq o => Sys2Proof.Machine.execBeq o s
  | .bne o => Sys2Proof.Machine.execBne o s
  | .blt o => Sys2Proof.Machine.execBlt o s
  | .bge o => Sys2Proof.Machine.execBge o s
  | .bltz o => Sys2Proof.Machine.execBltz o s
  | .bgez o => Sys2Proof.Machine.execBgez o s
  | .bzEqz o => Sys2Proof.Machine.execBzEqz o s
  | .bzNez o => Sys2Proof.Machine.execBzNez o s
  | .bzLtz o => Sys2Proof.Machine.execBzLtz o s
  | .bzGez o => Sys2Proof.Machine.execBzGez o s
  | .bzGtz o => Sys2Proof.Machine.execBzGtz o s
  | .bzLez o => Sys2Proof.Machine.execBzLez o s
  | .jmp o => Sys2Proof.Machine.execJmp o s
  | .call o => Sys2Proof.Machine.execCall o s
  | .jr o => Sys2Proof.Machine.execJr o s
  | .decb o => Sys2Proof.Machine.execDecb o s
  | .rep o => Sys2Proof.Machine.execRep o s
  | .pause o => Sys2Proof.Machine.execPause o s
  | .yield => Sys2Proof.Machine.execYield s
  | .exit => Sys2Proof.Machine.execExit s
  | .ld o => Sys2Proof.Machine.execLd o s
  | .ldL2 o => Sys2Proof.Machine.execLdL2 o s
  | .lda o => Sys2Proof.Machine.execLda o s
  | .ldfe o => Sys2Proof.Machine.execLdfe o s
  | .ldff o => Sys2Proof.Machine.execLdff o s
  | .ldffL2 o => Sys2Proof.Machine.execLdffL2 o s
  | .st o => Sys2Proof.Machine.execSt o s
  | .stL2 o => Sys2Proof.Machine.execStL2 o s
  | .stl o => Sys2Proof.Machine.execStl o s
  | .stef o => Sys2Proof.Machine.execStef o s
  | .feset o => Sys2Proof.Machine.execFeset o s
  | .fesetL2 o => Sys2Proof.Machine.execFesetL2 o s
  | .fld o => Sys2Proof.Machine.execFld o s
  | .fldL2 o => Sys2Proof.Machine.execFldL2 o s
  | .fst o => Sys2Proof.Machine.execFst o s
  | .fstL2 o => Sys2Proof.Machine.execFstL2 o s
  | .ldp o => Sys2Proof.Machine.execLdp o s
  | .ldpL2 o => Sys2Proof.Machine.execLdpL2 o s
  | .stp o => Sys2Proof.Machine.execStp o s
  | .stpL2 o => Sys2Proof.Machine.execStpL2 o s
  | .fence o => Sys2Proof.Machine.execFence o s
  | .waita o => Sys2Proof.Machine.execWaita o s
  | .pref o => Sys2Proof.Machine.execPref o s
  | .prefL2 o => Sys2Proof.Machine.execPrefL2 o s
  | .amoadd o => Sys2Proof.Machine.execAmoadd o s
  | .amoand o => Sys2Proof.Machine.execAmoand o s
  | .amoor o => Sys2Proof.Machine.execAmoor o s
  | .amoxor o => Sys2Proof.Machine.execAmoxor o s
  | .amomin o => Sys2Proof.Machine.execAmomin o s
  | .amomax o => Sys2Proof.Machine.execAmomax o s
  | .amominz o => Sys2Proof.Machine.execAmominz o s
  | .amomaxz o => Sys2Proof.Machine.execAmomaxz o s
  | .amoswap o => Sys2Proof.Machine.execAmoswap o s
  | .cas o => Sys2Proof.Machine.execCas o s
  | .fadda o => Sys2Proof.Machine.execFadda o s
  | .casp o => Sys2Proof.Machine.execCasp o s
  | .sbind o => Sys2Proof.Machine.execSbind o s
  | .sdim o => Sys2Proof.Machine.execSdim o s
  | .sdimL3 o => Sys2Proof.Machine.execSdimL3 o s
  | .sidx o => Sys2Proof.Machine.execSidx o s
  | .sidxL3 o => Sys2Proof.Machine.execSidxL3 o s
  | .sdir o => Sys2Proof.Machine.execSdir o s
  | .sgo o => Sys2Proof.Machine.execSgo o s
  | .sstop o => Sys2Proof.Machine.execSstop o s
  | .sskip o => Sys2Proof.Machine.execSskip o s
  | .spos o => Sys2Proof.Machine.execSpos o s
  | .ssave o => Sys2Proof.Machine.execSsave o s
  | .ssaveL2 o => Sys2Proof.Machine.execSsaveL2 o s
  | .sload o => Sys2Proof.Machine.execSload o s
  | .sloadL2 o => Sys2Proof.Machine.execSloadL2 o s
  | .sisect o => Sys2Proof.Machine.execSisect o s
  | .sunion o => Sys2Proof.Machine.execSunion o s
  | .sstatPos o => Sys2Proof.Machine.execSstatPos o s
  | .sstatSt o => Sys2Proof.Machine.execSstatSt o s
  | .scoord o => Sys2Proof.Machine.execScoord o s
  | .fadd o => Sys2Proof.Machine.execFadd o s
  | .faddL2 o => Sys2Proof.Machine.execFaddL2 o s
  | .fsub o => Sys2Proof.Machine.execFsub o s
  | .fsubL2 o => Sys2Proof.Machine.execFsubL2 o s
  | .fmul o => Sys2Proof.Machine.execFmul o s
  | .fmulL2 o => Sys2Proof.Machine.execFmulL2 o s
  | .fma o => Sys2Proof.Machine.execFma o s
  | .fms o => Sys2Proof.Machine.execFms o s
  | .fnma o => Sys2Proof.Machine.execFnma o s
  | .fnms o => Sys2Proof.Machine.execFnms o s
  | .fmin o => Sys2Proof.Machine.execFmin o s
  | .fminL2 o => Sys2Proof.Machine.execFminL2 o s
  | .fmax o => Sys2Proof.Machine.execFmax o s
  | .fmaxL2 o => Sys2Proof.Machine.execFmaxL2 o s
  | .fneg o => Sys2Proof.Machine.execFneg o s
  | .fnegL2 o => Sys2Proof.Machine.execFnegL2 o s
  | .fabs o => Sys2Proof.Machine.execFabs o s
  | .fcpsgn o => Sys2Proof.Machine.execFcpsgn o s
  | .feq o => Sys2Proof.Machine.execFeq o s
  | .feqL2 o => Sys2Proof.Machine.execFeqL2 o s
  | .flt o => Sys2Proof.Machine.execFlt o s
  | .fltL2 o => Sys2Proof.Machine.execFltL2 o s
  | .fle o => Sys2Proof.Machine.execFle o s
  | .fleL2 o => Sys2Proof.Machine.execFleL2 o s
  | .funo o => Sys2Proof.Machine.execFuno o s
  | .funoL2 o => Sys2Proof.Machine.execFunoL2 o s
  | .fclass o => Sys2Proof.Machine.execFclass o s
  | .fcvt o => Sys2Proof.Machine.execFcvt o s
  | .fcvtL2 o => Sys2Proof.Machine.execFcvtL2 o s
  | .fcvti o => Sys2Proof.Machine.execFcvti o s
  | .fcvtiL2 o => Sys2Proof.Machine.execFcvtiL2 o s
  | .icvtf o => Sys2Proof.Machine.execIcvtf o s
  | .icvtfL2 o => Sys2Proof.Machine.execIcvtfL2 o s
  | .fmvg o => Sys2Proof.Machine.execFmvg o s
  | .gmvf o => Sys2Proof.Machine.execGmvf o s
  | .fli o => Sys2Proof.Machine.execFli o s
  | .fliL2 o => Sys2Proof.Machine.execFliL2 o s
  | .fliL3 o => Sys2Proof.Machine.execFliL3 o s
  | .fsel o => Sys2Proof.Machine.execFsel o s
  | .padd o => Sys2Proof.Machine.execPadd o s
  | .paddL2 o => Sys2Proof.Machine.execPaddL2 o s
  | .psub o => Sys2Proof.Machine.execPsub o s
  | .psubL2 o => Sys2Proof.Machine.execPsubL2 o s
  | .pmul o => Sys2Proof.Machine.execPmul o s
  | .pmulL2 o => Sys2Proof.Machine.execPmulL2 o s
  | .pfma o => Sys2Proof.Machine.execPfma o s
  | .pmin o => Sys2Proof.Machine.execPmin o s
  | .pminL2 o => Sys2Proof.Machine.execPminL2 o s
  | .pmax o => Sys2Proof.Machine.execPmax o s
  | .pmaxL2 o => Sys2Proof.Machine.execPmaxL2 o s
  | .pdot o => Sys2Proof.Machine.execPdot o s
  | .psum o => Sys2Proof.Machine.execPsum o s
  | .psumL2 o => Sys2Proof.Machine.execPsumL2 o s
  | .pshuf o => Sys2Proof.Machine.execPshuf o s
  | .pshufL2 o => Sys2Proof.Machine.execPshufL2 o s
  | .pbcast o => Sys2Proof.Machine.execPbcast o s
  | .pbcastL2 o => Sys2Proof.Machine.execPbcastL2 o s
  | .ppack o => Sys2Proof.Machine.execPpack o s
  | .ppackL2 o => Sys2Proof.Machine.execPpackL2 o s
  | .punpack o => Sys2Proof.Machine.execPunpack o s
  | .punpackL2 o => Sys2Proof.Machine.execPunpackL2 o s
  | .pq o => Sys2Proof.Machine.execPq o s
  | .pqL2 o => Sys2Proof.Machine.execPqL2 o s
  | .pdq o => Sys2Proof.Machine.execPdq o s
  | .pdqL2 o => Sys2Proof.Machine.execPdqL2 o s
  | .peq o => Sys2Proof.Machine.execPeq o s
  | .peqL2 o => Sys2Proof.Machine.execPeqL2 o s
  | .plt o => Sys2Proof.Machine.execPlt o s
  | .pltL2 o => Sys2Proof.Machine.execPltL2 o s
  | .ple o => Sys2Proof.Machine.execPle o s
  | .pleL2 o => Sys2Proof.Machine.execPleL2 o s
  | .puno o => Sys2Proof.Machine.execPuno o s
  | .punoL2 o => Sys2Proof.Machine.execPunoL2 o s
  | .pand o => Sys2Proof.Machine.execPand o s
  | .pandL2 o => Sys2Proof.Machine.execPandL2 o s
  | .por o => Sys2Proof.Machine.execPor o s
  | .porL2 o => Sys2Proof.Machine.execPorL2 o s
  | .pxor o => Sys2Proof.Machine.execPxor o s
  | .pxorL2 o => Sys2Proof.Machine.execPxorL2 o s
  | .pandn o => Sys2Proof.Machine.execPandn o s
  | .pandnL2 o => Sys2Proof.Machine.execPandnL2 o s
  | .pmov o => Sys2Proof.Machine.execPmov o s
  | .pmovL2 o => Sys2Proof.Machine.execPmovL2 o s
  | .fmt o => Sys2Proof.Machine.execFmt o s
  | .frcp o => Sys2Proof.Machine.execFrcp o s
  | .frcpL2 o => Sys2Proof.Machine.execFrcpL2 o s
  | .frsqrt o => Sys2Proof.Machine.execFrsqrt o s
  | .frsqrtL2 o => Sys2Proof.Machine.execFrsqrtL2 o s
  | .fsqrt o => Sys2Proof.Machine.execFsqrt o s
  | .fsqrtL2 o => Sys2Proof.Machine.execFsqrtL2 o s
  | .fdiv o => Sys2Proof.Machine.execFdiv o s
  | .fdivL2 o => Sys2Proof.Machine.execFdivL2 o s
  | .fexp2 o => Sys2Proof.Machine.execFexp2 o s
  | .fexp2L2 o => Sys2Proof.Machine.execFexp2L2 o s
  | .flog2 o => Sys2Proof.Machine.execFlog2 o s
  | .flog2L2 o => Sys2Proof.Machine.execFlog2L2 o s
  | .ftanh o => Sys2Proof.Machine.execFtanh o s
  | .ftanhL2 o => Sys2Proof.Machine.execFtanhL2 o s
  | .fsigm o => Sys2Proof.Machine.execFsigm o s
  | .fsigmL2 o => Sys2Proof.Machine.execFsigmL2 o s
  | .send o => Sys2Proof.Machine.execSend o s
  | .sendn o => Sys2Proof.Machine.execSendn o s
  | .recv o => Sys2Proof.Machine.execRecv o s
  | .recvL2 o => Sys2Proof.Machine.execRecvL2 o s
  | .recvTry o => Sys2Proof.Machine.execRecvTry o s
  | .recvTryL2 o => Sys2Proof.Machine.execRecvTryL2 o s
  | .mstat o => Sys2Proof.Machine.execMstat o s
  | .mstatL2 o => Sys2Proof.Machine.execMstatL2 o s
  | .mstatClr o => Sys2Proof.Machine.execMstatClr o s
  | .mstatClrL2 o => Sys2Proof.Machine.execMstatClrL2 o s
  | .qend o => Sys2Proof.Machine.execQend o s
  | .qctlSt o => Sys2Proof.Machine.execQctlSt o s
  | .qctlStL2 o => Sys2Proof.Machine.execQctlStL2 o s
  | .qctlClr o => Sys2Proof.Machine.execQctlClr o s
  | .qctlClrL2 o => Sys2Proof.Machine.execQctlClrL2 o s
  | .qctlBind o => Sys2Proof.Machine.execQctlBind o s
  | .qctlBindL2 o => Sys2Proof.Machine.execQctlBindL2 o s
  | .qret => Sys2Proof.Machine.execQret s
  | .get o => Sys2Proof.Machine.execGet o s
  | .put o => Sys2Proof.Machine.execPut o s
  | .getx o => Sys2Proof.Machine.execGetx o s
  | .putx o => Sys2Proof.Machine.execPutx o s
  | .cwait o => Sys2Proof.Machine.execCwait o s
  | .cwaitL2 o => Sys2Proof.Machine.execCwaitL2 o s
  | .cop o => Sys2Proof.Machine.execCop o s
  | .copL2 o => Sys2Proof.Machine.execCopL2 o s
  | .mbind o => Sys2Proof.Machine.execMbind o s
  | .gbarArr o => Sys2Proof.Machine.execGbarArr o s
  | .gbarWait o => Sys2Proof.Machine.execGbarWait o s
  | .gbar o => Sys2Proof.Machine.execGbar o s
  | .gredSum o => Sys2Proof.Machine.execGredSum o s
  | .gredSumL2 o => Sys2Proof.Machine.execGredSumL2 o s
  | .gredMin o => Sys2Proof.Machine.execGredMin o s
  | .gredMinL2 o => Sys2Proof.Machine.execGredMinL2 o s
  | .gredMax o => Sys2Proof.Machine.execGredMax o s
  | .gredMaxL2 o => Sys2Proof.Machine.execGredMaxL2 o s
  | .gredAnd o => Sys2Proof.Machine.execGredAnd o s
  | .gredAndL2 o => Sys2Proof.Machine.execGredAndL2 o s
  | .gredOr o => Sys2Proof.Machine.execGredOr o s
  | .gredOrL2 o => Sys2Proof.Machine.execGredOrL2 o s
  | .gcast o => Sys2Proof.Machine.execGcast o s
  | .gcastL2 o => Sys2Proof.Machine.execGcastL2 o s
  | .gsum o => Sys2Proof.Machine.execGsum o s
  | .semsig o => Sys2Proof.Machine.execSemsig o s
  | .semsigL2 o => Sys2Proof.Machine.execSemsigL2 o s
  | .semwait o => Sys2Proof.Machine.execSemwait o s
  | .semwaitL2 o => Sys2Proof.Machine.execSemwaitL2 o s
  | .semread o => Sys2Proof.Machine.execSemread o s
  | .semreadL2 o => Sys2Proof.Machine.execSemreadL2 o s
  | .estatSt o => Sys2Proof.Machine.execEstatSt o s
  | .estatStL2 o => Sys2Proof.Machine.execEstatStL2 o s
  | .estatRec o => Sys2Proof.Machine.execEstatRec o s
  | .estatRecL2 o => Sys2Proof.Machine.execEstatRecL2 o s
  | .estatRes o => Sys2Proof.Machine.execEstatRes o s
  | .estatResL2 o => Sys2Proof.Machine.execEstatResL2 o s
  | .estatDel o => Sys2Proof.Machine.execEstatDel o s
  | .estatDelL2 o => Sys2Proof.Machine.execEstatDelL2 o s
  | .estatWin o => Sys2Proof.Machine.execEstatWin o s
  | .estatWinL2 o => Sys2Proof.Machine.execEstatWinL2 o s
  | .estatQ o => Sys2Proof.Machine.execEstatQ o s
  | .estatQL2 o => Sys2Proof.Machine.execEstatQL2 o s
  | .evcRd o => Sys2Proof.Machine.execEvcRd o s
  | .evcRdL2 o => Sys2Proof.Machine.execEvcRdL2 o s
  | .evcSet o => Sys2Proof.Machine.execEvcSet o s
  | .evcSetL2 o => Sys2Proof.Machine.execEvcSetL2 o s
  | .evcRc o => Sys2Proof.Machine.execEvcRc o s
  | .evcRcL2 o => Sys2Proof.Machine.execEvcRcL2 o s
  | .vbind o => Sys2Proof.Machine.execVbind o s
  | .vbindL2 o => Sys2Proof.Machine.execVbindL2 o s
  | .vbindOff o => Sys2Proof.Machine.execVbindOff o s
  | .cld o => Sys2Proof.Machine.execCld o s
  | .cst o => Sys2Proof.Machine.execCst o s
  | .cprobe o => Sys2Proof.Machine.execCprobe o s
  | .camoadd o => Sys2Proof.Machine.execCamoadd o s
  | .camoand o => Sys2Proof.Machine.execCamoand o s
  | .camoor o => Sys2Proof.Machine.execCamoor o s
  | .camoxor o => Sys2Proof.Machine.execCamoxor o s
  | .camomin o => Sys2Proof.Machine.execCamomin o s
  | .camomax o => Sys2Proof.Machine.execCamomax o s
  | .camominz o => Sys2Proof.Machine.execCamominz o s
  | .camomaxz o => Sys2Proof.Machine.execCamomaxz o s
  | .camoswap o => Sys2Proof.Machine.execCamoswap o s
  | .ccas o => Sys2Proof.Machine.execCcas o s
  | .cinv o => Sys2Proof.Machine.execCinv o s
  | .cinvAll o => Sys2Proof.Machine.execCinvAll o s
  | .callocGet o => Sys2Proof.Machine.execCallocGet o s
  | .callocCut o => Sys2Proof.Machine.execCallocCut o s
  | .callocFree o => Sys2Proof.Machine.execCallocFree o s
  | .callocNode o => Sys2Proof.Machine.execCallocNode o s
  | .cnbr o => Sys2Proof.Machine.execCnbr o s
  | .csrr o => Sys2Proof.Machine.execCsrr o s
  | .csrw o => Sys2Proof.Machine.execCsrw o s
  | .csrs o => Sys2Proof.Machine.execCsrs o s
  | .csrc o => Sys2Proof.Machine.execCsrc o s
  | .trap o => Sys2Proof.Machine.execTrap o s
  | .tret => Sys2Proof.Machine.execTret s
  | .brk => Sys2Proof.Machine.execBrk s
  | .brkL1 o => Sys2Proof.Machine.execBrkL1 o s
  | .tlbiPage o => Sys2Proof.Machine.execTlbiPage o s
  | .tlbiCtx o => Sys2Proof.Machine.execTlbiCtx o s
  | .tlbiAll o => Sys2Proof.Machine.execTlbiAll o s
  | .tlbiRange o => Sys2Proof.Machine.execTlbiRange o s
  | .ifence => Sys2Proof.Machine.execIfence s
  | .wfi => Sys2Proof.Machine.execWfi s
  | .ctxswReq => Sys2Proof.Machine.execCtxswReq s
  | .ctxswFlush => Sys2Proof.Machine.execCtxswFlush s
  | .syscHold o => Sys2Proof.Machine.execSyscHold o s
  | .syscRel o => Sys2Proof.Machine.execSyscRel o s
  | .syscWake o => Sys2Proof.Machine.execSyscWake o s
  | .syscStop o => Sys2Proof.Machine.execSyscStop o s
  | .fIssue slot => Sys2Proof.Machine.execFIssue slot s
  | .fCommit slot => Sys2Proof.Machine.execFCommit slot s
  | .sfuServiceStart => Sys2Proof.Machine.execSfuServiceStart s
  | .sfuResultWrite => Sys2Proof.Machine.execSfuResultWrite s
  | .divideComplete => Sys2Proof.Machine.execDivideComplete s
  | .loadDataReturn slot => Sys2Proof.Machine.execLoadDataReturn slot s
  | .lineFetchReturn slot => Sys2Proof.Machine.execLineFetchReturn slot s
  | .storeDrain slot => Sys2Proof.Machine.execStoreDrain slot s
  | .repReplayDispatch slot => Sys2Proof.Machine.execRepReplayDispatch slot s
  | .pauseExpiry slot => Sys2Proof.Machine.execPauseExpiry slot s
  | .trapEntry slot => Sys2Proof.Machine.execTrapEntry slot s
  | .lightHandlerEntry slot => Sys2Proof.Machine.execLightHandlerEntry slot s
  | .streamRead slot unit => Sys2Proof.Machine.execStreamRead slot unit s
  | .ringFetch slot unit => Sys2Proof.Machine.execRingFetch slot unit s
  | .setOpPass slot unit => Sys2Proof.Machine.execSetOpPass slot unit s
  | .feRemoteRetry slot => Sys2Proof.Machine.execFeRemoteRetry slot s
  | .waitaPoll slot => Sys2Proof.Machine.execWaitaPoll slot s
  | .syscHoldExpiry slot => Sys2Proof.Machine.execSyscHoldExpiry slot s
  | .messageInject => Sys2Proof.Machine.execMessageInject s
  | .messageArrival k => Sys2Proof.Machine.execMessageArrival k s
  | .messageAck k => Sys2Proof.Machine.execMessageAck k s
  | .messageNack k => Sys2Proof.Machine.execMessageNack k s
  | .messageRetryReady entry => Sys2Proof.Machine.execMessageRetryReady entry s
  | .queueWordArrival k => Sys2Proof.Machine.execQueueWordArrival k s
  | .transferComplete ring => Sys2Proof.Machine.execTransferComplete ring s
  | .transferFailure ring acause => Sys2Proof.Machine.execTransferFailure ring acause s
  | .mailboxLaunch slot => Sys2Proof.Machine.execMailboxLaunch slot s
  | .commandAccept => Sys2Proof.Machine.execCommandAccept s
  | .tumblerAdmit => Sys2Proof.Machine.execTumblerAdmit s
  | .copy1d job => Sys2Proof.Machine.execCopy1d job s
  | .copy2d job => Sys2Proof.Machine.execCopy2d job s
  | .gather job => Sys2Proof.Machine.execGather job s
  | .scatter job => Sys2Proof.Machine.execScatter job s
  | .fill job => Sys2Proof.Machine.execFill job s
  | .notify job => Sys2Proof.Machine.execNotify job s
  | .zacc job => Sys2Proof.Machine.execZacc job s
  | .lacc job => Sys2Proof.Machine.execLacc job s
  | .sacc job => Sys2Proof.Machine.execSacc job s
  | .mma job => Sys2Proof.Machine.execMma job s
  | .mmar job => Sys2Proof.Machine.execMmar job s
  | .qtile job => Sys2Proof.Machine.execQtile job s
  | .jobComplete job => Sys2Proof.Machine.execJobComplete job s
  | .jobFail job => Sys2Proof.Machine.execJobFail job s
  | .tumblerStuck => Sys2Proof.Machine.execTumblerStuck s
  | .periodStart die => Sys2Proof.Machine.execPeriodStart die s
  | .energyBudgetSpent => Sys2Proof.Machine.execEnergyBudgetSpent s
  | .teamPlace team => Sys2Proof.Machine.execTeamPlace team s
  | .teamComplete team => Sys2Proof.Machine.execTeamComplete team s
  | .teamAged team => Sys2Proof.Machine.execTeamAged team s
  | .switchIn slot thread => Sys2Proof.Machine.execSwitchIn slot thread s
  | .clusterSave team lcn => Sys2Proof.Machine.execClusterSave team lcn s
  | .missPresent => Sys2Proof.Machine.execMissPresent s
  | .missResult => Sys2Proof.Machine.execMissResult s
  | .pageinRequestArrival k => Sys2Proof.Machine.execPageinRequestArrival k s
  | .pageinResolve k refused tables leaf => Sys2Proof.Machine.execPageinResolve k refused tables leaf s
  | .pageinWake k => Sys2Proof.Machine.execPageinWake k s
  | .doorbellTail q tail => Sys2Proof.Machine.execDoorbellTail q tail s
  | .qswSwitchIn q hslot => Sys2Proof.Machine.execQswSwitchIn q hslot s
  | .qswSwitchOut q => Sys2Proof.Machine.execQswSwitchOut q s
  | .qctlContinue q => Sys2Proof.Machine.execQctlContinue q s
  | .qctlSkip q => Sys2Proof.Machine.execQctlSkip q s
  | .semvWrite sem val => Sys2Proof.Machine.execSemvWrite sem val s
  | .semaddWrite sem val => Sys2Proof.Machine.execSemaddWrite sem val s
  | .queueRecordWrite q word val => Sys2Proof.Machine.execQueueRecordWrite q word val s
  | .registerWrite reg val => Sys2Proof.Machine.execRegisterWrite reg val s
  | .keywayCommandRead q bad => Sys2Proof.Machine.execKeywayCommandRead q bad s
  | .queueAging q => Sys2Proof.Machine.execQueueAging q s
  | .knop q => Sys2Proof.Machine.execKnop q s
  | .klaunch q => Sys2Proof.Machine.execKlaunch q s
  | .kcopy q => Sys2Proof.Machine.execKcopy q s
  | .kfill q => Sys2Proof.Machine.execKfill q s
  | .kwrite q => Sys2Proof.Machine.execKwrite q s
  | .kintr q => Sys2Proof.Machine.execKintr q s
  | .kctx q => Sys2Proof.Machine.execKctx q s
  | .kclu q => Sys2Proof.Machine.execKclu q s
  | .kbudget q => Sys2Proof.Machine.execKbudget q s
  | .kpool q => Sys2Proof.Machine.execKpool q s
  | .kpreempt q => Sys2Proof.Machine.execKpreempt q s
  | .kevict q => Sys2Proof.Machine.execKevict q s
  | .kabort q => Sys2Proof.Machine.execKabort q s
  | .msixUnmask vec => Sys2Proof.Machine.execMsixUnmask vec s
  | .bar2Read addr len => Sys2Proof.Machine.execBar2Read addr len s
  | .bar2Write addr data => Sys2Proof.Machine.execBar2Write addr data s
  | .barAtomicop bar off => Sys2Proof.Machine.execBarAtomicop bar off s
  | .hingeRetrain port => Sys2Proof.Machine.execHingeRetrain port s
  | .hingeCounterRead port downs => Sys2Proof.Machine.execHingeCounterRead port downs s
  | .hingeRequestArrival port req => Sys2Proof.Machine.execHingeRequestArrival port req s
  | .loadObject => Sys2Proof.Machine.execLoadObject s
  | .translateAndLoad => Sys2Proof.Machine.execTranslateAndLoad s
  | .raiseFuseCounter => Sys2Proof.Machine.execRaiseFuseCounter s
  | .attestationReport => Sys2Proof.Machine.execAttestationReport s
  | .scrubPass loc bad => Sys2Proof.Machine.execScrubPass loc bad s
  | .pageRetire frame fresh => Sys2Proof.Machine.execPageRetire frame fresh s
  | .linkCrcReplay link again => Sys2Proof.Machine.execLinkCrcReplay link again s
  | .linkRetrain link ok => Sys2Proof.Machine.execLinkRetrain link ok s
  | .coreFence die clu core => Sys2Proof.Machine.execCoreFence die clu core s
  | .clusterFence die clu => Sys2Proof.Machine.execClusterFence die clu s
  | .dieFence die => Sys2Proof.Machine.execDieFence die s
  | .coreRepair die clu core => Sys2Proof.Machine.execCoreRepair die clu core s
  | .clusterRepair die clu spare => Sys2Proof.Machine.execClusterRepair die clu spare s
  | .powerWindow sense => Sys2Proof.Machine.execPowerWindow sense s
  | .thermalTrip => Sys2Proof.Machine.execThermalTrip s
  | .powerOn inp => Sys2Proof.Machine.execPowerOn inp s
  | .coldStartRequest inp => Sys2Proof.Machine.execColdStartRequest inp s
  | .warmStartRequest inp => Sys2Proof.Machine.execWarmStartRequest inp s
  | .startTimeout => Sys2Proof.Machine.execStartTimeout s
  | .debugStop => Sys2Proof.Machine.execDebugStop s
  | .debugRun => Sys2Proof.Machine.execDebugRun s
  | .debugStep => Sys2Proof.Machine.execDebugStep s
  | .stepDone => Sys2Proof.Machine.execStepDone s
  | .stepTimeout => Sys2Proof.Machine.execStepTimeout s
  | .daccRead => Sys2Proof.Machine.execDaccRead s
  | .daccWrite => Sys2Proof.Machine.execDaccWrite s
  | .dstatRead => Sys2Proof.Machine.execDstatRead s
  | .histSample die => Sys2Proof.Machine.execHistSample die s
  | .intervalDump die => Sys2Proof.Machine.execIntervalDump die s
  | .illegalInstruction sub head => Sys2Proof.Machine.execIllegalInstruction sub head s
  | .linkTrainingComplete link res => Sys2Proof.Machine.execLinkTrainingComplete link res s
  | .correctableErrorRecord die hbm count => Sys2Proof.Machine.execCorrectableErrorRecord die hbm count s

end Sys2Proof.Machine
end

