-- ==== Sys2Proof/Machine/Run.lean ====
section
/-! DEFINITION. The run of what the decoder has read: the meaning of the instruction it is. -/
namespace Sys2Proof.Machine

/-- The meaning of an instruction of opcode 0xB0 or above. -/
def execUpper (u : UpperInstr) (s : State) : Out :=
  match u with
  | .send o => Sys2Proof.Machine.execSend o s
  | .sendn o => Sys2Proof.Machine.execSendn o s
  | .recv o => Sys2Proof.Machine.execRecv o s
  | .recvL2 o => Sys2Proof.Machine.execRecvL2 o s
  | .recvTry o => Sys2Proof.Machine.execRecvTry o s
  | .recvTryL2 o => Sys2Proof.Machine.execRecvTryL2 o s
  | .mstat o => Sys2Proof.Machine.execMstat o s
  | .mstatL2 o => Sys2Proof.Machine.execMstatL2 o s
  | .mstatClr o => Sys2Proof.Machine.execMstatClr o s
  | .mstatClrL2 o => Sys2Proof.Machine.execMstatClrL2 o s
  | .qend o => Sys2Proof.Machine.execQend o s
  | .qctlSt o => Sys2Proof.Machine.execQctlSt o s
  | .qctlStL2 o => Sys2Proof.Machine.execQctlStL2 o s
  | .qctlClr o => Sys2Proof.Machine.execQctlClr o s
  | .qctlClrL2 o => Sys2Proof.Machine.execQctlClrL2 o s
  | .qctlBind o => Sys2Proof.Machine.execQctlBind o s
  | .qctlBindL2 o => Sys2Proof.Machine.execQctlBindL2 o s
  | .qret => Sys2Proof.Machine.execQret s
  | .get o => Sys2Proof.Machine.execGet o s
  | .put o => Sys2Proof.Machine.execPut o s
  | .getx o => Sys2Proof.Machine.execGetx o s
  | .putx o => Sys2Proof.Machine.execPutx o s
  | .cwait o => Sys2Proof.Machine.execCwait o s
  | .cwaitL2 o => Sys2Proof.Machine.execCwaitL2 o s
  | .cop o => Sys2Proof.Machine.execCop o s
  | .copL2 o => Sys2Proof.Machine.execCopL2 o s
  | .mbind o => Sys2Proof.Machine.execMbind o s
  | .gbarArr o => Sys2Proof.Machine.execGbarArr o s
  | .gbarWait o => Sys2Proof.Machine.execGbarWait o s
  | .gbar o => Sys2Proof.Machine.execGbar o s
  | .gredSum o => Sys2Proof.Machine.execGredSum o s
  | .gredSumL2 o => Sys2Proof.Machine.execGredSumL2 o s
  | .gredMin o => Sys2Proof.Machine.execGredMin o s
  | .gredMinL2 o => Sys2Proof.Machine.execGredMinL2 o s
  | .gredMax o => Sys2Proof.Machine.execGredMax o s
  | .gredMaxL2 o => Sys2Proof.Machine.execGredMaxL2 o s
  | .gredAnd o => Sys2Proof.Machine.execGredAnd o s
  | .gredAndL2 o => Sys2Proof.Machine.execGredAndL2 o s
  | .gredOr o => Sys2Proof.Machine.execGredOr o s
  | .gredOrL2 o => Sys2Proof.Machine.execGredOrL2 o s
  | .gcast o => Sys2Proof.Machine.execGcast o s
  | .gcastL2 o => Sys2Proof.Machine.execGcastL2 o s
  | .gsum o => Sys2Proof.Machine.execGsum o s
  | .semsig o => Sys2Proof.Machine.execSemsig o s
  | .semsigL2 o => Sys2Proof.Machine.execSemsigL2 o s
  | .semwait o => Sys2Proof.Machine.execSemwait o s
  | .semwaitL2 o => Sys2Proof.Machine.execSemwaitL2 o s
  | .semread o => Sys2Proof.Machine.execSemread o s
  | .semreadL2 o => Sys2Proof.Machine.execSemreadL2 o s
  | .estatSt o => Sys2Proof.Machine.execEstatSt o s
  | .estatStL2 o => Sys2Proof.Machine.execEstatStL2 o s
  | .estatRec o => Sys2Proof.Machine.execEstatRec o s
  | .estatRecL2 o => Sys2Proof.Machine.execEstatRecL2 o s
  | .estatRes o => Sys2Proof.Machine.execEstatRes o s
  | .estatResL2 o => Sys2Proof.Machine.execEstatResL2 o s
  | .estatDel o => Sys2Proof.Machine.execEstatDel o s
  | .estatDelL2 o => Sys2Proof.Machine.execEstatDelL2 o s
  | .estatWin o => Sys2Proof.Machine.execEstatWin o s
  | .estatWinL2 o => Sys2Proof.Machine.execEstatWinL2 o s
  | .estatQ o => Sys2Proof.Machine.execEstatQ o s
  | .estatQL2 o => Sys2Proof.Machine.execEstatQL2 o s
  | .evcRd o => Sys2Proof.Machine.execEvcRd o s
  | .evcRdL2 o => Sys2Proof.Machine.execEvcRdL2 o s
  | .evcSet o => Sys2Proof.Machine.execEvcSet o s
  | .evcSetL2 o => Sys2Proof.Machine.execEvcSetL2 o s
  | .evcRc o => Sys2Proof.Machine.execEvcRc o s
  | .evcRcL2 o => Sys2Proof.Machine.execEvcRcL2 o s
  | .vbind o => Sys2Proof.Machine.execVbind o s
  | .vbindL2 o => Sys2Proof.Machine.execVbindL2 o s
  | .vbindOff o => Sys2Proof.Machine.execVbindOff o s
  | .cld o => Sys2Proof.Machine.execCld o s
  | .cst o => Sys2Proof.Machine.execCst o s
  | .cprobe o => Sys2Proof.Machine.execCprobe o s
  | .camoadd o => Sys2Proof.Machine.execCamoadd o s
  | .camoand o => Sys2Proof.Machine.execCamoand o s
  | .camoor o => Sys2Proof.Machine.execCamoor o s
  | .camoxor o => Sys2Proof.Machine.execCamoxor o s
  | .camomin o => Sys2Proof.Machine.execCamomin o s
  | .camomax o => Sys2Proof.Machine.execCamomax o s
  | .camominz o => Sys2Proof.Machine.execCamominz o s
  | .camomaxz o => Sys2Proof.Machine.execCamomaxz o s
  | .camoswap o => Sys2Proof.Machine.execCamoswap o s
  | .ccas o => Sys2Proof.Machine.execCcas o s
  | .cinv o => Sys2Proof.Machine.execCinv o s
  | .cinvAll o => Sys2Proof.Machine.execCinvAll o s
  | .callocGet o => Sys2Proof.Machine.execCallocGet o s
  | .callocCut o => Sys2Proof.Machine.execCallocCut o s
  | .callocFree o => Sys2Proof.Machine.execCallocFree o s
  | .callocNode o => Sys2Proof.Machine.execCallocNode o s
  | .cnbr o => Sys2Proof.Machine.execCnbr o s
  | .csrr o => Sys2Proof.Machine.execCsrr o s
  | .csrw o => Sys2Proof.Machine.execCsrw o s
  | .csrs o => Sys2Proof.Machine.execCsrs o s
  | .csrc o => Sys2Proof.Machine.execCsrc o s
  | .trap o => Sys2Proof.Machine.execTrap o s
  | .tret => Sys2Proof.Machine.execTret s
  | .brk => Sys2Proof.Machine.execBrk s
  | .brkL1 o => Sys2Proof.Machine.execBrkL1 o s
  | .tlbiPage o => Sys2Proof.Machine.execTlbiPage o s
  | .tlbiCtx o => Sys2Proof.Machine.execTlbiCtx o s
  | .tlbiAll o => Sys2Proof.Machine.execTlbiAll o s
  | .tlbiRange o => Sys2Proof.Machine.execTlbiRange o s
  | .ifence => Sys2Proof.Machine.execIfence s
  | .wfi => Sys2Proof.Machine.execWfi s
  | .ctxswReq => Sys2Proof.Machine.execCtxswReq s
  | .ctxswFlush => Sys2Proof.Machine.execCtxswFlush s
  | .syscHold o => Sys2Proof.Machine.execSyscHold o s
  | .syscRel o => Sys2Proof.Machine.execSyscRel o s
  | .syscWake o => Sys2Proof.Machine.execSyscWake o s
  | .syscStop o => Sys2Proof.Machine.execSyscStop o s

/-- The meaning of what was read. -/
def runParsed (p : Parsed) (s : State) : Out :=
  match p with
  | .lower i => exec i s
  | .upper u => execUpper u s

theorem execUpper_eq (u : UpperInstr) (s : State) : execUpper u s = exec u.instr s := by cases u <;> rfl

/-- Running what was read is running the instruction. -/
theorem runParsed_eq (p : Parsed) (s : State) : runParsed p s = exec p.instr s := by
  cases p with
  | lower i => rfl
  | upper u => exact execUpper_eq u s

end Sys2Proof.Machine
end

