-- ==== Sys2Proof/Machine/Cycle.lean ====
section
/-! DEFINITION. What happens in a cycle: the turn of a core's I pipe (R21) and the steps that the machine makes by itself. -/
namespace Sys2Proof.Machine

/-- The state of an outcome; a meaning that stops changes nothing here. -/
def State.after (s : State) (o : Out) : State :=
  match o with
  | .next t => t
  | _ => s

/-- Steps one after another. -/
def runAll : List (State → Out) → State → Out
  | [], s => .next s
  | f :: r, s =>
    match f s with
    | .next t => runAll r t
    | o => o

/-! ## The turn of the I pipe (R21) -/

/-- The instruction breakpoint that matches the slot in focus at its PC (R491). -/
def State.breakpoint (s : State) : Option (Fin 4) :=
  if (s.core.dbg.resumed[s.cur.val]) then none
  else ([0, 1, 2, 3] : List (Fin 4)).find? fun n =>
    let w := (s.core.dbg.ibp[n.val]).toNat
    bits w 0 1 == 1 && bits w 1 47 == s.th.pc.toNat / 2 && bits w (48 + s.cur.val) 1 == 1

/-- The register whose bad parity an instruction finds as it issues (R465); one that is a bad body, has a bad prefix, or waits for a
register, does not read yet. -/
def State.parity (s : State) (regs : List Reg) : Option Nat :=
  if s.th.capture.isSome || s.th.pp || regs.any s.pendingG then none
  else (regs.find? fun r => decide (r.toNat ≠ 0) && s.th.bad.elem r.toNat).map (·.toNat)

/-- The instruction at the PC, of the line that control is in, issues: what R42, R54, R465 find, or its meaning. -/
def State.runHead (s : State) (l : Line) : Out :=
  let i := s.th.pc.toNat / 2 % 32 - 1
  if lineLegal l.bytes = false then execIllegalInstruction 5 (BitVec.ofNat 16 (lineHead l.bytes i)) s
  else if lineN l.bytes ≤ i then .next (s.trapAt 3 0 (BitVec.ofNat 64 s.th.pc.toNat))
  else
    match parseHead l.bytes i with
    | .error e => execIllegalInstruction e.sub (BitVec.ofNat 16 (lineHead l.bytes i)) s
    | .ok p =>
      match s.parity (parsedReads p) with
      | some r => .next (s.takeTrap { cause := 0x0E, tinfo := BitVec.ofNat 64 r, tpc := s.th.pc } (·.machineCheck r))
      | none => runParsed p s

/-- What a slot does with its turn: nothing can issue, a trap is entered without an instruction, an instruction issues. -/
inductive Tried where
  | skip (s : State)
  | entry (s : State)
  | issue (o : Out)

/-- The head of the slot in focus cannot issue yet: it stalls and has begun nothing. -/
def State.waits (s : State) (o : Out) : Bool :=
  match o with
  | .next t => t.th.status == .stalled && t.th.shot.isSome == s.th.shot.isSome && t.th.skipFrom.isSome == s.th.skipFrom.isSome
  | _ => false

/-- The slot in focus, which is ready, tries: a pending asynchronous cause is taken first (R219); the line of the PC is entered (R46); a
breakpoint halts the core where the head would issue, and not where it stalls before it has done anything (R491). -/
def State.attempt (s : State) : Tried :=
  let t := s.th
  if t.ie && !t.mustReturn && (firstAsync t.async).isSome then .entry (s.after (execTrapEntry (BitVec.ofNat 2 s.cur.val) s))
  else
    let s := if t.here.isSome then s else s.enterLine
    match s.th.here with
    | none => if s.th.status = .ready then .entry s else .skip s
    | some l =>
      match s.breakpoint, s.runHead l with
      | some n, o => if s.waits o then .issue o else .skip (s.haltCore 3 s.cur (BitVec.ofNat 2 n.val))
      | none, o => .issue o

/-- A slot leaves its turn to others: after `yield`, while a slot that was ready then has neither issued nor left the ready state
(R121), and when its step is over (R490). -/
def Core.yields (c : Core) (i : Fin 4) : Bool := ((c.th i).yieldTo.any fun j => (c.th j).inTurn) || c.stepped i

/-- A slot has left the ready state: no `yield` waits for it any more. -/
def Core.leaves (c : Core) (i : Fin 4) : Core := c.mapTh fun _ t => { t with yieldTo := t.yieldTo.filter (· ≠ i) }

/-- After a turn of a slot: the pointer, the debug module, the yields (R21, R489, R490); n is 1 for an I issue, which is counted and
metered (Tables 22.2, 16.11), and the first since RUN or STEP; 0 for a trap entry. -/
def State.turnDone (s : State) (c : CoreId) (i : Fin 4) (n : Nat) : State :=
  let now := s.clkOf c.die
  let s := s.modCoreAt c fun k =>
    let k := (k.count 2 (some i) n).leaves i
    { k with
      iPtr := i + 1
      issuedAt := if n = 0 then k.issuedAt else some (i, now)
      dbg := { k.dbg with resumed := if n = 0 then k.dbg.resumed else k.dbg.resumed.set i.val false, issued := k.dbg.issued || k.dbg.stepping == some i } }
  s.modClAt (s.clusterOf c) fun x => { x with meter := x.meter + n }

/-- A slot may take a turn. -/
def State.mayTry (s : State) (i : Fin 4) : Bool := (s.core.th i).inTurn && s.core.lets i && !s.core.yields i

/-- Which of the slots that were not reached would have stalled, for the samples of MODE 2 (R493). -/
def State.markRest (s : State) (l : List (Fin 4)) : State :=
  if (s.histOf s.cid.die).mode ≠ 2 then s
  else l.foldl (fun s i =>
    if s.mayTry i then
      match (s.withSlot i).attempt with
      | .issue (.next t) =>
        let x := t.core.th i
        if x.status = .stalled ∧ t.cid = s.cid then s.modCore fun c => c.modTh i fun y => { y with status := .stalled, onReg := x.onReg } else s
      | _ => s
    else s) s

/-- A watchpoint has halted the core before the instruction (R492). -/
def State.watchHalted (s t : State) : Bool := !s.core.dbg.halted && t.core.dbg.halted && t.core.dbg.reason == 4

/-- The slots in their order; one that stalls is passed over (Table 1.1). -/
def State.turnFrom : List (Fin 4) → State → Out
  | [], s => .next s
  | i :: r, s =>
    if s.mayTry i = false then State.turnFrom r s
    else
      match (s.withSlot i).attempt with
      | .skip s => State.turnFrom r (s.modCore (·.leaves i))
      | .entry t => .next ((t.turnDone s.cid i 0).markRest r)
      | .issue (.next t) =>
        if (t.core.th i).status = .stalled ∧ t.cid = s.cid then State.turnFrom r (t.modCore (·.leaves i))
        else if s.watchHalted t then .next t
        else .next ((t.turnDone s.cid i 1).markRest r)
      | .issue o => o

/-- The order of R21. -/
def Core.order (c : Core) : List (Fin 4) := [c.iPtr, c.iPtr + 1, c.iPtr + 2, c.iPtr + 3]

/-- What the I pipe finds as its turn begins: no `yield` waits for a slot that is not ready; stalled slots, and those whose route entry is
resident, look again. -/
def State.lookAgain (s : State) : State :=
  s.modCore fun c =>
    let c := c.mapTh fun _ t => { t with yieldTo := t.yieldTo.filter fun j => (c.th j).inTurn }
    c.unstall.mapTh fun _ t => if s.routed t then t.awake else t

/-- The turn of the I pipe of the core in focus; nothing issues while the energy budget is spent (R388). -/
def State.iTurn (s : State) : Out :=
  let s := s.lookAgain
  if s.cl.spent ∨ s.core.fenced then .next s else State.turnFrom s.core.order s

/-! ## The steps that the machine makes by itself -/

/-- The F pipe of a core (R22): slots that are not ready may ask for walks, and one that is ready issues. -/
def State.fTurn (s : State) : Out :=
  let asks := ([0, 1, 2, 3] : List (Fin 4)).map fun i s => if s.fReady i then .next s else execFIssue (BitVec.ofNat 2 i.val) s
  runAll (asks ++ match s.fNext with
    | some k => [execFIssue (BitVec.ofNat 2 (s.core.fPtr + k).val)]
    | none => []) s

/-- The steps of a slot. -/
def slotSteps (i : BitVec 2) : List (State → Out) :=
  [execFCommit i, execLoadDataReturn i, execLineFetchReturn i, execStoreDrain i, execRepReplayDispatch i, execPauseExpiry i, execLightHandlerEntry i,
    execStreamRead i 0, execStreamRead i 1, execStreamRead i 2, execRingFetch i 0, execRingFetch i 1, execRingFetch i 2,
    execSetOpPass i 0, execSetOpPass i 1, execSetOpPass i 2, execFeRemoteRetry i, execWaitaPoll i, execSyscHoldExpiry i, execTrapEntry i]

/-- The lowest numbers are not passed over when a list loses an entry. -/
def downFrom (n : Nat) (f : Nat → State → Out) : List (State → Out) := (List.range n).reverse.map f

/-- A failure of a transfer that is waiting to be reported (R271). -/
def State.failures (s : State) : List (State → Out) :=
  s.xfers.filterMap fun x => if x.at_ = s.cid then x.fail.map fun a => execTransferFailure x.ring a else none

/-- Three machine checks of a core within 2^32 cycles (Table 21.5). -/
def Core.failing (c : Core) : Bool :=
  match c.checks with
  | [a, _, b] => decide (a - b < 2 ^ 32)
  | _ => false

def State.fences (s : State) : List (State → Out) :=
  let c := s.cid
  let d := s.clid
  let dead := s.clusterIds.countP fun x => x.die == c.die && (s.clAt x).fenced
  (if s.core.failing && !s.core.fenced then [execCoreFence (BitVec.ofNat 4 c.die) (BitVec.ofNat 14 c.clu) (BitVec.ofNat 3 c.core)] else [])
    ++ (if 16 ≤ s.cl.overflows then [execClusterFence (BitVec.ofNat 4 d.die) (BitVec.ofNat 14 d.clu)] else [])
    ++ (if 64 < dead then [execDieFence (BitVec.ofNat 4 c.die)] else [])

/-- The steps of the core in focus. -/
def State.coreSteps (s : State) : List (State → Out) :=
  [State.fTurn] ++ slotSteps 0 ++ slotSteps 1 ++ slotSteps 2 ++ slotSteps 3
    ++ [execSfuResultWrite, execSfuServiceStart, execDivideComplete, execMessageInject, execCommandAccept, execMissPresent, execMissResult,
      execMailboxLaunch 0, execMailboxLaunch 1, execMailboxLaunch 2, execMailboxLaunch 3]
    ++ s.core.retry.map (fun e => execMessageRetryReady e.id)
    ++ (List.range 16).map (fun r => execTransferComplete (BitVec.ofNat 4 r)) ++ s.failures
    ++ s.outs.flatMap (fun o => [execSwitchIn 0 o.uid, execSwitchIn 1 o.uid, execSwitchIn 2 o.uid])
    ++ [execStepDone, execStepTimeout] ++ s.fences

/-- The steps of a job. -/
def jobSteps (j : Nat) : List (State → Out) :=
  [execCopy1d j, execCopy2d j, execGather j, execScatter j, execFill j, execNotify j, execZacc j, execLacc j, execSacc j, execMma j, execMmar j,
    execQtile j, execJobComplete j, execJobFail j]

/-- The steps of the cluster in focus. -/
def State.clusterSteps (s : State) : List (State → Out) :=
  [execTumblerAdmit, execTumblerStuck, execEnergyBudgetSpent] ++ s.cl.window.flatMap fun j => jobSteps j.id

/-- The steps of a queue of Keyway; it is switched out once QSW has asked for it (R437). -/
def State.queueSteps (s : State) (q : BitVec 10) : List (State → Out) :=
  (if (s.queue q.toNat).switching then [fun s => .next (s.switchedOut q.toNat)] else []) ++ [execKeywayCommandRead q false, execQueueAging q, execKnop q, execKlaunch q, execKcopy q, execKfill q, execKwrite q, execKintr q,
    execKctx q, execKclu q, execKbudget q, execKpool q, execKpreempt q, execKevict q, execKabort q]

def dieSteps (d : BitVec 4) : List (State → Out) := [execPeriodStart d, execIntervalDump d]

def State.queueIds (s : State) : List (BitVec 10) := s.queues.map fun q => BitVec.ofNat 10 q.1

/-- The steps of the hub and of what is on its way. -/
def State.moduleSteps (s : State) : List (State → Out) :=
  s.queueIds.flatMap s.queueSteps
    ++ s.teams.flatMap (fun t => [execTeamAged t.id, execTeamPlace t.id, execTeamComplete t.id] ++ t.lcns.map fun n => execClusterSave t.id (BitVec.ofNat 17 n))
    ++ downFrom s.msgFly.length execMessageArrival ++ downFrom s.ackFly.length execMessageAck ++ downFrom s.ackFly.length execMessageNack
    ++ downFrom s.qFly.length execQueueWordArrival ++ downFrom s.pageFly.length execPageinRequestArrival ++ downFrom s.pageFly.length execPageinWake
    ++ [fun s => .next s.serveAll] ++ s.hingeIn.map (fun h => State.hingeServe h.id) ++ (List.range 16).flatMap (fun d => dieSteps (BitVec.ofNat 4 d))
    ++ [execLoadObject, execTranslateAndLoad, execRaiseFuseCounter, execAttestationReport, execStartTimeout]

/-- Everything that can move, moves once. -/
def State.moves (s : State) : Out := runAll (s.coreSteps ++ s.clusterSteps ++ s.moduleSteps) s

/-- The core in focus in the next pair of beats: one of a cluster that has jobs and no listed core, else the next in the list. -/
def State.toNext (s : State) : State :=
  let alone := s.clusterIds.find? fun d => (!(s.clAt d).window.isEmpty || !(s.clAt d).backlog.isEmpty) && s.coreIds.all fun c => s.clusterOf c != d
  match alone, s.others with
  | some d, _ => s.focus (s.coreIn d 0)
  | none, p :: _ => s.focus p.1
  | none, [] => s

end Sys2Proof.Machine
end

