-- ==== Sys2Proof/Machine/Step.lean ====
section
/-! DEFINITION. One step of the machine (log 4): the next item of the agenda if there is one; else the cores take turns, the I pipe of
one in one step, everything else that can move in the next. -/
namespace Sys2Proof.Machine

/-- n cycles pass on every die. -/
def State.tickAll (s : State) (n : Nat) : State := (List.range 16).foldl (fun s d => s.tick d n) s

/-- An input that starts a machine whose clocks have stopped (R478, R479). -/
def isStart : Instr → Bool
  | .powerOn _ | .coldStartRequest _ | .warmStartRequest _ => true
  | _ => false

/-- Entry n of a structure that can be derived again is gone (Table 21.3). -/
def State.dropEntry (s : State) (slot : Fin 4) (k : CacheKind) (n : Nat) : State :=
  match k with
  | .itlb => s.modCore fun c => { c with itlb := c.itlb.eraseIdx n }
  | .dtlb => s.modCore fun c => { c with dtlb := c.dtlb.eraseIdx n }
  | .tiles => s.modCore fun c => { c with clab := c.clab.eraseIdx n }
  | .lines => s.modCore fun c => { c with lines := c.lines.eraseIdx n }
  | .ahead => s.modCore fun c => c.modTh slot fun t => { t with ahead := none }
  | .clusterTlb => s.modCl fun x => { x with tlb := x.tlb.eraseIdx n }
  | .clusterTiles => s.modCl fun x => { x with clab := x.clab.eraseIdx n }

/-- A hardware error is there (R465): it shows at the next read. An entry that can be derived again is dropped, with an error record whose
KIND is not stated, a free value; another structure's fences its core or its cluster (Table 21.5). -/
def State.upset (s : State) (slot : Fin 4) (u : Upset) : State :=
  let fence := fun (o : Out) => match o with
    | .next t => t
    | _ => s
  match u with
  | .cache k n =>
    let (x, s) := s.free
    (s.dropEntry slot k n).errorRecord (x.toNat % 256) s.cid slot.val 1 0 0 [] false
  | .corePart => fence (execCoreFence (BitVec.ofNat 4 s.cid.die) (BitVec.ofNat 14 s.cid.clu) (BitVec.ofNat 3 s.cid.core) s)
  | .clusterPart => fence (execClusterFence (BitVec.ofNat 4 s.clid.die) (BitVec.ofNat 14 s.clid.clu) s)
  | .translation n => { s with tcache := s.tcache.modify n fun t => { t with sig := [] } }
  | .g n => s.modCore fun c => c.modTh slot fun t => if n.val = 0 then t else { t with bad := n.val :: t.bad.filter (· ≠ n.val) }
  | .v n => s.modCore fun c => c.modTh slot fun t => { t with bad := (64 + n.val) :: t.bad.filter (· ≠ 64 + n.val) }
  | .entry => s.modCore fun c => c.modTh slot fun t => { t with badEntry := true }
  | .word loc => s.markBad (loc / 8 * 8)
  | .block pa => s.markBad (pa / 64 * 64)

/-- An item of the agenda: an instruction is no input and does nothing; with the clocks stopped only a start has an effect. -/
def State.meet (s : State) : Agenda → Out
  | .event c dt ev =>
    if (encode ev).isSome || (!s.running && !isStart ev) then .next s else exec ev ((s.focus c).tick c.die (if s.running then dt else 0))
  | .turn c dt => if s.running then ((s.focus c).tick c.die dt).iTurn else .next s
  | .upset c slot u => .next ((s.focus c).upset slot u)

/-- A cycle is over on every die: what it samples is what the turns of the cycle have left (R493), and the next begins. -/
def State.nextCycle (s : State) : State :=
  ((List.range 16).foldl (fun s d => s.after (execHistSample (BitVec.ofNat 4 d) s)) s).tickAll 1

/-- The step of a core in its turn: the I pipe in an even beat, everything else in an odd one, then the next core. A cycle passes on
every die when the round begins again. -/
def State.beatStep (s : State) : Out :=
  let round := 2 * (1 + s.others.length)
  let t := { s with beat := s.beat + 1 }
  if s.beat % 2 = 0 then (if s.beat % round = 0 then t.nextCycle else t).iTurn
  else
    match t.moves with
    | .next u => .next u.toNext
    | o => o

/-- One step. -/
def step (s : State) : Out :=
  match s.agenda with
  | a :: r => State.meet { s with agenda := r } a
  | [] => if s.running then s.beatStep else .fault .clockStopped

/-! ## Where the next instruction is fetched from -/

/-- The instruction of a word of the opcode table, in a line of its own at address 0 of a user thread in slot 0, which has the next
turn; the line is in memory at address 0, and the page and the line are in the TLB and the line cache (log 6). -/
def State.withFetchWord (s : State) (nbits w : Nat) : State :=
  let bs := lineOf (encOfTable nbits w)
  let t := s.core.th 0
  let e : TlbEntry := ⟨t.ctx, 0, 0, 0, false, true, true, false⟩
  { s with
    core := { s.core.setTh 0 { t with status := .ready, park := .none, miss := .none, pc := 2, line := none, async := [], yieldTo := [], got := [] } with
              itlb := e :: s.core.itlb, lines := ⟨lineTag t.ctx 0, bs⟩ :: s.core.lines, iPtr := 0, dbg := {}, fenced := false }
    cl := { s.cl with spent := false }
    mem := Memory.setBytes s.mem 0 bs
    agenda := [.turn s.cid 0]
    running := true }

end Sys2Proof.Machine
end

