-- ==== Sys2Proof/Safety.lean ====
section
/-! DEFINITION. What counts as a safe run, and the terms the statements use: when nothing stands in the way of an instruction, and
what a completed instruction may have changed. -/
namespace Sys2Proof

/-- The run of n steps from a state ends in a state. -/
def Safe (s : Machine.State) (n : Nat) : Prop := ∃ t, Host.Core.run core n s = .next t

namespace Machine

/-- Nothing stands in the way of an I-class instruction that names these registers: no repetition is being captured (R124), no
format prefix is pending (Table 7.6), no register named is still to be written (R17, R112). -/
def Ready (s : State) (regs : List Reg) : Prop :=
  s.th.capture = none ∧ s.th.pp = false ∧ ∀ r ∈ regs, s.pendingG r = false

/-- Every byte of memory reads as before. -/
def SameBytes (s t : State) : Prop := ∀ a, Memory.byte t.mem a = Memory.byte s.mem a

/-- Nothing but the thread in focus differs, and no byte of memory does. -/
def OnlyThread (s t : State) : Prop := t = s.setTh t.th ∧ SameBytes s t

/-- A thread that has gone on to a PC: its `g` registers (with their parity) and what it waited on may differ, nothing else. -/
def Thread.WentOn (t u : Thread) (pc : BitVec 48) : Prop :=
  u = { t with g := u.g, bad := u.bad, pc := pc, status := .ready, park := .none, miss := .none, got := [], midLoad := false }

/-- The instruction completes: it writes v to `g`d (nothing, if d is `g0`), and control goes on behind it. Every other register, all
other state and every byte of memory are as before. -/
def CompletesG (o : Out) (s : State) (d : Reg) (v : Word) : Prop :=
  ∃ t, o = .next t ∧ OnlyThread s t ∧ s.th.WentOn t.th s.th.nextPc ∧
    ∀ r : Reg, r.toNat < 32 → t.g r = if r = d ∧ r ≠ 0 then v else s.g r

/-- The instruction completes with no effect but on the PC. -/
def CompletesOnly (o : Out) (s : State) : Prop :=
  ∃ t, o = .next t ∧ OnlyThread s t ∧ s.th.WentOn t.th s.th.nextPc ∧ t.th.g = s.th.g

/-- Head number idx of the line at la can be entered: la is paged, its line is translated and stands in the line cache, and the line
has that head (Table 2.3). -/
def Lands (s : State) (la idx : Nat) (l : Line) : Prop :=
  spaceOf la = .paged ∧ s.fetchLine la = (.ok l, s) ∧ idx < 31 ∧ (lineLegal l.bytes = true → idx < lineN l.bytes)

/-- The line that OFF20 of a branch at a PC names (R44), as an address. -/
def branchLine (pc : BitVec 48) (off : BitVec 20) : Int := 64 * (pc.toNat / 64 + (off.extractLsb' 5 15).toInt)

/-- The head that OFF20 names in it. -/
def branchHead (off : BitVec 20) : Nat := (off.extractLsb' 0 5).toNat

/-- Control has gone to head idx of the line l at la. Registers are as given; nothing else but what the thread waited on differs. -/
def Jumps (o : Out) (s : State) (la idx : Nat) (l : Line) (f : Reg → Word) : Prop :=
  ∃ t, o = .next t ∧ OnlyThread s t ∧
    t.th = { s.th with g := t.th.g, bad := t.th.bad, pc := BitVec.ofNat 48 (la + 2 + 2 * idx), line := some l
                       status := .ready, park := .none, miss := .none, got := [], midLoad := false } ∧
    ∀ r : Reg, r.toNat < 32 → t.g r = f r

/-- The registers with one of them replaced; `g0` stays 0 (R25). -/
def State.gWith (s : State) (d : Reg) (v : Word) (r : Reg) : Word := if r = d ∧ r ≠ 0 then v else s.g r

/-- A thread whose registers, other than `g` and the PC, are as before: `v`, the mode and status bits, the registers that a trap
writes, the CSRs, the repetition state, the coordinate slots, the transfer counters, and its F queue and store buffer. -/
def Thread.KeepsRegs (t u : Thread) : Prop :=
  u.v = t.v ∧ u.mode = t.mode ∧ u.ie = t.ie ∧ u.pp = t.pp ∧ u.lh = t.lh ∧ u.rm = t.rm ∧ u.ten = t.ten ∧ u.fflags = t.fflags ∧
  u.srseed = t.srseed ∧ u.srcount = t.srcount ∧ u.prefixD = t.prefixD ∧ u.efd = t.efd ∧ u.tpc = t.tpc ∧ u.tcause = t.tcause ∧
  u.tinfo = t.tinfo ∧ u.tvec = t.tvec ∧ u.tdeleg = t.tdeleg ∧ u.qhpc = t.qhpc ∧ u.qlinkPc = t.qlinkPc ∧ u.qlinkPort = t.qlinkPort ∧
  u.qval = t.qval ∧ u.lcid = t.lcid ∧ u.ctx = t.ctx ∧ u.teamNo = t.teamNo ∧ u.gmem = t.gmem ∧ u.fq = t.fq ∧ u.held = t.held ∧
  u.sb = t.sb ∧ u.rep = t.rep ∧ u.coord = t.coord ∧ u.ctrs = t.ctrs ∧ u.drop = t.drop

/-- The instruction completes: control goes on behind it, the `g` registers are as f gives them, every other register and every byte
of memory as before. -/
def Reads (o : Out) (s : State) (f : Reg → Word) : Prop :=
  ∃ t, o = .next t ∧ t.th.pc = s.th.nextPc ∧ t.th.status = .ready ∧ s.th.KeepsRegs t.th ∧ SameBytes s t ∧
    ∀ r : Reg, r.toNat < 32 → t.g r = f r

/-- An access of `len` bytes at an address passes the checks of Table 5.3 that come before its data, and leads to these locations: it
does not pass the end of the address space, is aligned as it must be, no watchpoint is set, no other slot holds its bank. -/
structure Passes (s : State) (ea : Word) (len align : Nat) (wr : Bool) (ps : List Part) : Prop where
  fits : ea.toNat + len ≤ 2 ^ 48
  aligned : ea.toNat % align = 0
  leads : s.find s.me { w := wr } ea.toNat len = (.parts ps, s)
  unwatched : s.core.dbg.wp = Vector.replicate 2 0
  unheld : s.bankHeld ps (some (s.cid, s.cur)) = false

/-- The locations of plain memory or SRAM, which hold what software writes there: no command queue, no miss mailbox or page-wait word of a
local store (Tables 11.1, 17.2, 17.5). -/
abbrev Plain (loc : Nat) : Prop := isCq loc = false ∧ (isLs loc = true → (loc - lsBase) % 2 ^ 14 < 0x2C00 ∨ 0x2C40 ≤ (loc - lsBase) % 2 ^ 14)

/-- The slot in focus, which runs, stands in no list of `waita` waiters: only a parked slot does (R147). -/
abbrev State.Unlisted (s : State) : Prop := ∀ w ∈ s.waitaQ, w.at_ = s.cid → w.slot ≠ s.cur

/-- Parts taken word by word, as an instruction of several 8-byte accesses takes them (R174, R354). -/
def wordParts (ps : List Part) : List Part := ps.flatMap fun p => (chunks 8 p.len p.loc p.len).map fun c => ⟨c.1, c.2⟩

/-- A window address of the own cluster's scratchpad (Table 9.2), and its location. -/
abbrev State.OwnSp (s : State) (va loc : Nat) : Prop :=
  spaceOf va = .sp ∧ bits va 17 23 = 0 ∧ loc = spLoc (s.clusterOf s.cid).die (s.clusterOf s.cid).clu (va % 2 ^ 17)

/-- The own scratchpad holds the value x in the n bytes at a window address: they can be read, and no other slot holds their bank. -/
structure State.Holds (s : State) (va loc n x : Nat) : Prop where
  place : s.OwnSp va loc
  unheld : s.bankHeld [⟨loc, n⟩] (some (s.cid, s.cur)) = false
  sound : s.badRange loc n = false
  value : Memory.read s.mem loc n = x

/-- The way of a coordinate through a tree in the own scratchpad leads from one node to another (R347): each entry on it is well formed and
names the next node. -/
def State.TreePath (s : State) (c : Nat) : List (Nat × Nat) → Nat → Nat → Prop
  | [], node, last => node = last
  | (lo, w) :: path, node, last => ∃ loc e, s.Holds (node + 8 * nodeIndex c lo w) loc 8 e ∧ e ≠ 0 ∧ treeBad e 1 = false ∧
      s.TreePath c path (bits e 6 42 * 64) last

/-- Every entry of a look-aside buffer names a tile: its P is set, so it is not 0 (R346). A block that a walk has filled and has yet to publish
starts at an even address. -/
def State.TilesNamed (s : State) : Prop :=
  (∀ k : Core, k = s.core ∨ (∃ c, (c, k) ∈ s.others) →
    (∀ e ∈ k.clab, e.entry.getLsbD 0 = true) ∧ ∀ r ∈ k.missQ, ∀ ea b, r.block = some (ea, b) → b % 2 = 0) ∧
  ∀ d : Cluster, d = s.cl ∨ (∃ c, (c, d) ∈ s.otherCls) → ∀ e ∈ d.clab, e.entry.getLsbD 0 = true

/-- The lookup of a coordinate's tile gives e (R347): the entry of a look-aside buffer, or what the lookup's walk has brought, which is 0 for an
absent tile unless the walk allocates. -/
structure State.FindsTile (s : State) (v : BitVec 256) (c : Word) (alloc : Bool) (e : Word) : Prop where
  named : s.TilesNamed
  found : s.th.got = [⟨true, walkKey v c.toNat alloc, .entry e⟩] ∨ (s.th.got = [] ∧ s.clabHit s.th.ctx v (tileKey c.toNat) = some e)
  there : alloc = true → e ≠ 0

/-- The atomics on an element (Table 13.5). -/
def CamoForm (o : CamoO) (i : Instr) : Prop :=
  i ∈ [.camoadd o, .camoand o, .camoor o, .camoxor o, .camomin o, .camomax o, .camominz o, .camomaxz o, .camoswap o, .ccas o]

/-- The slot number as an operand of the machine's own steps. -/
def State.slotNo (s : State) : BitVec 2 := BitVec.ofNat 2 s.cur.val

/-- An access to these locations does what P says: at once when they are near (R23); else the slot waits, with nothing done, and does
it when the data returns. -/
def Soon (o : Out) (s : State) (ps : List Part) (P : Out → Prop) : Prop :=
  (s.near ps = true → P o) ∧
  (s.near ps = false → ∃ t, o = .next t ∧ t.th.status = .missWait ∧ t.th.pc = s.th.pc ∧ t.th.g = s.th.g ∧ SameBytes s t ∧
    P (exec (.loadDataReturn s.slotNo) t))

/-- A read of these locations. -/
def ReadsSoon (o : Out) (s : State) (ps : List Part) (f : Reg → Word) : Prop := Soon o s ps fun o => Reads o s f

/-- The n bytes at loc hold the low bytes of a value, lowest first, and every other byte is as before. -/
def Stored (s t : State) (loc n v : Nat) : Prop :=
  ∀ a, Memory.byte t.mem a = if loc ≤ a ∧ a < loc + n then BitVec.ofNat 8 (v / 2 ^ (8 * (a - loc))) else Memory.byte s.mem a

/-- The n bytes at a have been moved to b, and every other byte is as before: a byte is the original one, or where source and destination
overlap the one that has been written in its place (R309). -/
def MovedBytes (s t : State) (a b n : Nat) : Prop :=
  ∀ p, if b ≤ p ∧ p < b + n then
      Memory.byte t.mem p = Memory.byte s.mem (a + (p - b)) ∨
        (a ≠ b ∧ b ≤ a + (p - b) ∧ a + (p - b) < b + n ∧ Memory.byte t.mem p = Memory.byte t.mem (a + (p - b)))
    else Memory.byte t.mem p = Memory.byte s.mem p

/-- The instruction completes: control goes on behind it, the `g` registers are as f gives them, the n bytes at loc hold v, every other
register and every other byte of memory are as before. -/
def Updates (o : Out) (s : State) (f : Reg → Word) (loc n v : Nat) : Prop :=
  ∃ t, o = .next t ∧ t.th.pc = s.th.nextPc ∧ t.th.status = .ready ∧ s.th.KeepsRegs t.th ∧ Stored s t loc n v ∧
    ∀ r : Reg, r.toNat < 32 → t.g r = f r

/-- The F side of the thread and of its core is empty: nothing is dispatched, held, captured or repeated, no stream unit is enabled, no
division and no special function is under way, no arithmetic trap is enabled, no parity is bad, the energy budget is not spent. -/
structure FIdle (s : State) : Prop where
  ready : s.th.status = .ready
  noCapture : s.th.capture = none
  noRep : s.th.rep.act = false
  noPrefix : s.th.pp = false
  queue : s.th.fq = []
  held : s.th.held = none
  lhHeld : s.th.lhHeld = none
  units : ∀ u < 3, (s.th.unit u).cfg.en = false
  divider : s.core.divider = none
  sfu : s.core.sfuQ = []
  others : ∀ k, k ≠ s.cur → (s.core.th k).fq = []
  noTrap : s.th.ten = 0
  parity : s.th.bad = [] ∧ s.th.badEntry = false
  energy : s.cl.spent = false
  lets : s.core.lets s.cur = true

/-- The bytes at an address: how many, the alignment they need, what the access does (Table 8.2), whether it reads, and whether it acts on host
memory (Table 5.3). -/
structure Access where
  len : Nat
  align : Nat := 1
  kind : AccessKind
  rd : Bool := true
  wr : Bool := false
  host : Bool := true
  casp : Bool := false
deriving DecidableEq, Repr

/-- The access of an instruction of chapter 05 (Table 5.1): the `g` registers it names, its effective address, the bytes. -/
inductive Accesses (s : State) : Instr → List Reg → Word → Access → Prop
  | ld (o : LdM) : Accesses s (.ld o) [o.d, o.base] (s.eaM o.base o.sz o.off) { len := 2 ^ o.sz.toNat, kind := .load }
  | ldL2 (o : LdX) : Accesses s (.ldL2 o) (o.d :: regsX o.base o.ix o.body) (s.eaX o.base o.ix o.body) { len := 2 ^ o.sz.toNat, kind := .load }
  | lda (o : LdaX) : Accesses s (.lda o) (o.d :: regsX o.base o.ix o.body) (s.eaX o.base o.ix o.body)
      { len := 2 ^ o.sz.toNat, align := 2 ^ o.sz.toNat, kind := .load }
  | ldp (o : PairM) : Accesses s (.ldp o) [o.d, o.d + 1, o.base] (s.eaM o.base 3 o.off) { len := 16, kind := .load }
  | ldpL2 (o : PairX) : Accesses s (.ldpL2 o) (o.d :: (o.d + 1) :: regsX o.base o.ix o.body) (s.eaX o.base o.ix o.body) { len := 16, kind := .load }
  | fld (o : FMemM) : FIdle s → o.d.toNat < 48 → Accesses s (.fld o) [o.base] (s.eaM o.base o.sz o.off) { len := 2 ^ o.sz.toNat, kind := .load }
  | fldL2 (o : FMemX) : FIdle s → o.d.toNat < 48 →
      Accesses s (.fldL2 o) (regsX o.base o.ix o.body) (s.eaX o.base o.ix o.body) { len := 2 ^ o.sz.toNat, kind := .load }
  | waita (o : WaitaX) : Accesses s (.waita o) (o.d :: regsX o.base o.ix o.body) (s.eaX o.base o.ix o.body)
      { len := 2 ^ o.sz.toNat, align := 2 ^ o.sz.toNat, kind := .load }
  | st (o : StM) : Accesses s (.st o) [o.d, o.base] (s.eaM o.base o.sz o.off) { len := 2 ^ o.sz.toNat, kind := .store, rd := false, wr := true }
  | stL2 (o : StX) : Accesses s (.stL2 o) (o.d :: regsX o.base o.ix o.body) (s.eaX o.base o.ix o.body)
      { len := 2 ^ o.sz.toNat, kind := .store, rd := false, wr := true }
  | stl (o : StlX) : Accesses s (.stl o) (o.d :: regsX o.base o.ix o.body) (s.eaX o.base o.ix o.body)
      { len := 2 ^ o.sz.toNat, align := 2 ^ o.sz.toNat, kind := .store, rd := false, wr := true }
  | stp (o : PairM) : Accesses s (.stp o) [o.d, o.d + 1, o.base] (s.eaM o.base 3 o.off) { len := 16, kind := .store, rd := false, wr := true }
  | stpL2 (o : PairX) : Accesses s (.stpL2 o) (o.d :: (o.d + 1) :: regsX o.base o.ix o.body) (s.eaX o.base o.ix o.body)
      { len := 16, kind := .store, rd := false, wr := true }
  | fst (o : FMemM) : FIdle s → o.d.toNat < 48 →
      Accesses s (.fst o) [o.base] (s.eaM o.base o.sz o.off) { len := 2 ^ o.sz.toNat, kind := .store, rd := false, wr := true }
  | fstL2 (o : FMemX) : FIdle s → o.d.toNat < 48 →
      Accesses s (.fstL2 o) (regsX o.base o.ix o.body) (s.eaX o.base o.ix o.body) { len := 2 ^ o.sz.toNat, kind := .store, rd := false, wr := true }
  | amo (o : AtO) (i : Instr) : i ∈ [.amoadd o, .amoswap o, .cas o] →
      Accesses s i [o.d, o.base, o.src] (s.g o.base) { len := 2 ^ o.sz.toNat, align := 2 ^ o.sz.toNat, kind := .atomic, wr := true }
  | amoNoHost (o : AtO) (i : Instr) :
      i ∈ [.amoand o, .amoor o, .amoxor o, .amomin o, .amomax o, .amominz o, .amomaxz o, .fadda o] →
      Accesses s i [o.d, o.base, o.src] (s.g o.base) { len := 2 ^ o.sz.toNat, align := 2 ^ o.sz.toNat, kind := .atomic, wr := true, host := false }
  | casp (o : CaspO) : Accesses s (.casp o) [o.d, o.d + 1, o.base, o.src, o.src + 1] (s.g o.base)
      { len := 16, align := 16, kind := .atomic, wr := true, host := false, casp := true }
  | ldfe (o : FeX) : Accesses s (.ldfe o) (o.d :: regsX o.base o.ix o.body) (s.eaX o.base o.ix o.body) { len := 8, align := 8, kind := .fullEmpty, wr := true }
  | ldff (o : LdffM) : Accesses s (.ldff o) [o.d, o.base] (s.eaM o.base 3 o.off) { len := 8, align := 8, kind := .fullEmpty }
  | ldffL2 (o : LdffX) : Accesses s (.ldffL2 o) (o.d :: regsX o.base o.ix o.body) (s.eaX o.base o.ix o.body) { len := 8, align := 8, kind := .fullEmpty }
  | stef (o : FeX) : Accesses s (.stef o) (o.d :: regsX o.base o.ix o.body) (s.eaX o.base o.ix o.body)
      { len := 8, align := 8, kind := .fullEmpty, rd := false, wr := true }
  | feset (o : FesetM) : Accesses s (.feset o) [o.base] (s.eaM o.base 3 o.off) { len := 8, align := 8, kind := .fullEmpty, rd := false, wr := true }
  | fesetL2 (o : FesetX) : Accesses s (.fesetL2 o) (regsX o.base o.ix o.body) (s.eaX o.base o.ix o.body)
      { len := 8, align := 8, kind := .fullEmpty, rd := false, wr := true }

/-- Check 4 of Table 5.3: a full/empty instruction off local store and scratchpad, an atomic on a command queue, `casp` on local store. -/
def WrongSpace (a : Access) (ea : Nat) : Prop :=
  (a.kind = .fullEmpty ∧ spaceOf ea ∈ [Space.paged, .cq, .none]) ∨ (a.kind = .atomic ∧ spaceOf ea = .cq) ∨ (a.casp = true ∧ spaceOf ea = .ls)

/-- A window address that has no target (Table 9.2, R32, R367). -/
def State.NoTarget (s : State) (ea : Nat) : Prop :=
  spaceOf ea = .none ∨ (spaceOf ea = .sp ∧ bits ea 17 23 ≠ 0) ∨ (spaceOf ea = .cq ∧ bits ea 10 30 ≠ 0) ∨
  (spaceOf ea = .ls ∧ (bits ea 14 26 ≠ 0 ∨ 0x3000 ≤ bits ea 0 14 ∨ s.th.mode = false ∧ 0x2000 ≤ bits ea 0 14)) ∨
  (spaceOf ea = .peer ∧ (bits ea 34 6 ≠ 0 ∨ (s.route s.th.ctx (bits ea 17 17)).1 ∉ [1, 2]))

/-- The store-buffer entry has the byte at a location. -/
def SbEntry.Covers (e : SbEntry) (a : Nat) : Prop := e.word ≤ a ∧ a < e.word + 8 ∧ e.mask.getLsbD (a - e.word) = true

/-- The youngest entry of a store buffer that covers the byte at a location has the value b for it. -/
def SbGives (sb : List SbEntry) (a : Nat) (b : Byte) : Prop :=
  ∃ old e new, sb = old ++ e :: new ∧ e.Covers a ∧ (∀ f ∈ new, ¬ f.Covers a) ∧ b = e.data.extractLsb' (8 * (a - e.word)) 8

/-- The steps by which an entry that has been dispatched retires: it issues, a special function is served, it commits. -/
def Retires (raw : FRaw) (slot : BitVec 2) (t u : State) : Prop :=
  if raw.special then
    ∃ a b c, exec (.fIssue slot) t = .next a ∧ exec .sfuServiceStart a = .next b ∧ exec .sfuResultWrite b = .next c ∧
      exec (.fCommit slot) c = .next u
  else ∃ a, exec (.fIssue slot) t = .next a ∧ exec (.fCommit slot) a = .next u

/-- The word that position p of an F instruction reads: 0 for A, 1 for B, 2 for C; 0 where it has no such source. -/
def Thread.operandOf (t : Thread) (raw : FRaw) (p : Nat) : Nat :=
  match raw.positions.find? (·.1 = p) with
  | some q => (t.vreg q.2).toNat
  | none => 0

/-- An F instruction runs: it is dispatched and control goes on behind it; once it has issued and committed, its destination holds the value
v or g, the flags fl are added to `FFLAGS`, and every other register and every byte of memory are as before. -/
def EndsF (o : Out) (s : State) (raw : FRaw) (x v g' : Word) (fl : BitVec 5) : Prop :=
  ∃ t u e, o = .next t ∧ t.th.pc = s.th.nextPc ∧ t.th.fq = [e] ∧ e.raw = raw ∧ e.x = x ∧ e.pc = s.th.pc ∧ e.ring = s.th.next ∧
    Retires raw s.slotNo t u ∧ u.th.fq = [] ∧ u.th.pc = s.th.nextPc ∧ u.th.mode = s.th.mode ∧ SameBytes s u ∧
    u.th.fflags = s.th.fflags ||| fl ∧
    (∀ n < 48, u.th.vreg n = if raw.dest = some n then v else s.th.vreg n) ∧
    (∀ g : Reg, g.toNat < 32 → u.g g = if raw.gDest = some g.toNat ∧ g ≠ 0 then g' else s.g g)

/-- An F instruction runs, and writes what it computes from its sources and its payload. -/
def RunsF (o : Out) (s : State) (raw : FRaw) (x : Word) : Prop :=
  let r := computeF (s.th.fEnv []) raw (s.th.operandOf raw 0) (s.th.operandOf raw 1) (s.th.operandOf raw 2) x.toNat
  EndsF o s raw x (r.v.getD 0) (r.g.getD 0) (BitVec.ofNat 5 r.flags)

/-! Floating-point codes of ew exponent and mw mantissa bits below a sign (R71), read without the model's arithmetic. -/

def fpNeg (ew mw c : Nat) : Bool := decide (c / 2 ^ (ew + mw) % 2 = 1)
def fpExp (ew mw c : Nat) : Nat := c / 2 ^ mw % 2 ^ ew
def fpMan (mw c : Nat) : Nat := c % 2 ^ mw
def fpNan (ew mw c : Nat) : Bool := decide (fpExp ew mw c = 2 ^ ew - 1) && decide (fpMan mw c ≠ 0)
/-- A signalling NaN (R74). -/
def fpSig (ew mw c : Nat) : Bool := fpNan ew mw c && decide (fpMan mw c < 2 ^ (mw - 1))
def fpInf (ew mw c : Nat) : Bool := decide (fpExp ew mw c = 2 ^ ew - 1) && decide (fpMan mw c = 0)
def fpZero (ew mw c : Nat) : Bool := decide (fpExp ew mw c = 0) && decide (fpMan mw c = 0)
/-- The canonical NaN (Table 3.4), an infinity, a zero, and 1. -/
def fpQuiet (ew mw : Nat) : Nat := (2 ^ ew - 1) * 2 ^ mw + 2 ^ (mw - 1)
def fpInfCode (ew mw : Nat) (neg : Bool) : Nat := (if neg then 2 ^ (ew + mw) else 0) + (2 ^ ew - 1) * 2 ^ mw
def fpZeroCode (ew mw : Nat) (neg : Bool) : Nat := if neg then 2 ^ (ew + mw) else 0
def fpOne (ew mw : Nat) : Nat := (2 ^ (ew - 1) - 1) * 2 ^ mw
/-- The order of codes that are no NaN: of sign and magnitude, -0 equal to +0. -/
def fpOrd (ew mw c : Nat) : Int := if fpNeg ew mw c then -((c % 2 ^ (ew + mw) : Nat) : Int) else ((c % 2 ^ (ew + mw) : Nat) : Int)
/-- The class of Table 7.5. -/
def fpClass (ew mw c : Nat) : Nat :=
  if fpNan ew mw c then (if fpSig ew mw c then 8 else 9)
  else if fpInf ew mw c then (if fpNeg ew mw c then 0 else 7)
  else if fpZero ew mw c then (if fpNeg ew mw c then 3 else 4)
  else if fpExp ew mw c = 0 then (if fpNeg ew mw c then 2 else 5) else if fpNeg ew mw c then 1 else 6

/-- The lanes of two sources under PR (R186): exponent width, mantissa width, the two codes. -/
def fpLanes (pr : BitVec 2) (a b : Word) : List (Nat × Nat × Nat × Nat) :=
  if pr = 0 then [(11, 52, a.toNat, b.toNat)]
  else (8, 23, a.toNat % 2 ^ 32, b.toNat % 2 ^ 32) :: if pr = 2 then [(8, 23, a.toNat / 2 ^ 32, b.toNat / 2 ^ 32)] else []

/-- Codes of w bits side by side, the first lowest. -/
def joined (w : Nat) : List Nat → Nat
  | [] => 0
  | c :: r => c + 2 ^ w * joined w r

/-- The value that an instruction writes lane by lane under PR. -/
def perLane (pr : BitVec 2) (a b : Word) (f : Nat → Nat → Nat → Nat → Nat) : Word :=
  BitVec.ofNat 64 (joined (if pr = 0 then 64 else 32) ((fpLanes pr a b).map fun l => f l.1 l.2.1 l.2.2.1 l.2.2.2))

/-- The flag NV, when some lane asks for it. -/
def nvIf (b : Bool) : BitVec 5 := if b then 16 else 0

/-- The value of a finite FP64 code in units of 2^-1074 (R69, Table 3.1). -/
def fp64Int (x : Word) : Int :=
  let m : Int := if fpExp 11 52 x.toNat = 0 then fpMan 52 x.toNat else (2 ^ 52 + fpMan 52 x.toNat) * 2 ^ (fpExp 11 52 x.toNat - 1)
  if fpNeg 11 52 x.toNat then -m else m

/-- An FP64 code that is neither infinite nor a NaN. -/
def fp64Fin (x : Word) : Prop := fpExp 11 52 x.toNat ≠ 2047

/-- The finite FP64 code r is N / D units of 2^-1074, rounded once (R87) in a mode that draws no bits: 0 nearest, ties to even; 1 toward zero;
2 down; 3 up; 4 nearest, ties away from zero. D is positive. -/
def Rounded64 (mode : Nat) (N D : Int) (r : Word) : Prop :=
  fp64Fin r ∧
  (mode = 0 → ∀ y, fp64Fin y → (fp64Int r * D - N).natAbs ≤ (fp64Int y * D - N).natAbs ∧
    ((fp64Int r * D - N).natAbs = (fp64Int y * D - N).natAbs → fp64Int y = fp64Int r ∨ r.getLsbD 0 = false)) ∧
  (mode = 1 → (fp64Int r * D).natAbs ≤ N.natAbs ∧ 0 ≤ fp64Int r * N ∧
    ∀ y, fp64Fin y → (fp64Int y * D).natAbs ≤ N.natAbs → (fp64Int y).natAbs ≤ (fp64Int r).natAbs) ∧
  (mode = 2 → fp64Int r * D ≤ N ∧ ∀ y, fp64Fin y → fp64Int y * D ≤ N → fp64Int y ≤ fp64Int r) ∧
  (mode = 3 → N ≤ fp64Int r * D ∧ ∀ y, fp64Fin y → N ≤ fp64Int y * D → fp64Int r ≤ fp64Int y) ∧
  (mode = 4 → ∀ y, fp64Fin y → (fp64Int r * D - N).natAbs ≤ (fp64Int y * D - N).natAbs ∧
    ((fp64Int r * D - N).natAbs = (fp64Int y * D - N).natAbs → (fp64Int y).natAbs ≤ (fp64Int r).natAbs))

/-- The exact value N / D is no larger than the largest finite FP64 number. -/
def InRange64 (N D : Int) : Prop := (N.natAbs : Int) ≤ (2 ^ 53 - 1) * 2 ^ 2045 * D

/-- The mode of R192: RND - 1, or `RMODE.RM`. -/
def State.roundMode (s : State) (rnd : BitVec 3) : Nat := if rnd = 0 then s.th.rm.toNat else rnd.toNat - 1

/-- An FP64 result (R87, R94): the exact value N / D rounded, an exact zero with the sign z; NX alone says that it is inexact, UF that it is
tiny as well. -/
def Ends64 (o : Out) (s : State) (raw : FRaw) (mode : Nat) (N D : Int) (z : Bool) : Prop :=
  ∃ r fl, EndsF o s raw 0 r 0 fl ∧ Rounded64 mode N D r ∧
    fpNeg 11 52 r.toNat = (if N = 0 then z else decide (N < 0)) ∧ (fl = 0 ∨ fl = 1 ∨ fl = 3) ∧ (fl = 0 ↔ fp64Int r * D = N)

/-- The instruction completes: control goes on behind it, and the stream record of one unit is r; the `g` registers, the other
registers, the other units' records and memory are as before. -/
def SetsRecord (o : Out) (s : State) (u : BitVec 2) (r : StreamRec) : Prop :=
  ∃ t, o = .next t ∧ OnlyThread s t ∧ t.th.pc = s.th.nextPc ∧ t.th.status = .ready ∧ t.th.g = s.th.g ∧ s.th.KeepsRegs t.th ∧
    (t.th.unit u.toNat).cfg = r ∧ ∀ k < 3, k ≠ u.toNat → t.th.unit k = s.th.unit k

/-- Codes of ordinary `v` registers (v0 to v2 among them while no unit is bound). -/
def FRegs (l : List Reg) : Prop := ∀ r ∈ l, r.toNat < 48

/-- The descriptor register that E names (R81). -/
def State.efdOf (s : State) (e : BitVec 2) : BitVec 32 := s.th.efd[e.toNat % 4]'(Nat.mod_lt _ (by decide))

/-- The step is made, and P holds of the state after it. -/
def Happens (o : Out) (P : State → Prop) : Prop := ∃ t, o = .next t ∧ P t

/-- The instruction completes: control goes on behind it, every register other than `g`, and every byte of memory, is as before, and P
says what else holds. -/
def GoesOn (o : Out) (s : State) (P : State → Prop) : Prop :=
  ∃ t, o = .next t ∧ t.th.pc = s.th.nextPc ∧ t.th.status = .ready ∧ s.th.KeepsRegs t.th ∧ SameBytes s t ∧ P t

/-- The `g` registers are as f gives them. -/
def State.GAre (t : State) (f : Reg → Word) : Prop := ∀ r : Reg, r.toNat < 32 → t.g r = f r

/-- The thread in focus is a member of an installed group: its membership register is valid and names an entry of the group table that is valid
and has this member (R275, R276); g is the group, i the index, m the member. -/
structure InGroup (s : State) (gm : BitVec 2) (g : Group) (i : Nat) (m : Member) : Prop where
  valid : gmemV s.th.gmem[gm.toNat] = true
  entry : bits (s.groupEntry s.th.ctx (gmemGid s.th.gmem[gm.toNat])) 21 1 = 1
  size : i < bits (s.groupEntry s.th.ctx (gmemGid s.th.gmem[gm.toNat])) 0 21
  index : gmemIdx s.th.gmem[gm.toNat] = i
  found : s.group s.th.ctx (gmemGid s.th.gmem[gm.toNat]) = some g
  member : g.members[i]? = some m

/-- The group as it stands in a state. -/
def State.groupOf (s : State) (gm : BitVec 2) : Option Group := s.group s.th.ctx (gmemGid s.th.gmem[gm.toNat])

/-- The instruction parks: nothing of the thread but its status and what it waits on differs, no byte of memory does, and P holds. -/
def Parks (o : Out) (s : State) (p : Park) (P : State → Prop) : Prop :=
  ∃ t, o = .next t ∧ t.th = { s.th with status := .parked, park := p } ∧ SameBytes s t ∧ P t

/-- The trap tr has been entered from s (R218 to R220, Table 8.5): the cause, `TINFO` and the PC are saved, traps are disabled, the mode is
system unless the cause is delegated, control is at head 0 of the vector's line, what has not issued is held with the prefix and the
repetition, and the `g` and `v` registers, the vectors and every byte of memory are as before. -/
structure EntersTrap (s t : State) (tr : Trap) (resume : BitVec 48) : Prop where
  cause : t.th.tcause.cause = tr.cause ∧ t.th.tcause.sub = tr.sub ∧ t.th.tcause.late = tr.late ∧ t.th.tcause.fside = tr.fside
  deleg : t.th.tcause.deleg = (delegable tr.cause tr.sub && s.th.tdeleg.getLsbD tr.cause.toNat && decide (s.cur.val < 3))
  saved : t.th.tpc = tr.tpc ∧ t.th.tinfo = tr.tinfo
  status : t.th.ie = false ∧ t.th.mode = !t.th.tcause.deleg ∧ t.th.status = .ready ∧ t.th.fq = [] ∧ t.th.pp = false
  pc : t.th.pc = vectorPc (if t.th.tcause.deleg then s.th.tvec.toNat else if s.cur.val < 3 then s.ctxs[s.th.ctx.toNat].svec.toNat
    else Memory.read s.mem (s.cid.ls 0x2C40) 8)
  holds : ∃ h, t.th.held = some h ∧ h.entries.map (·.raw) = s.th.fq.map (·.raw) ∧ h.resume = resume ∧ h.rep = s.th.rep ∧
    h.prefixD = s.th.prefixD
  frame : t.th.g = s.th.g ∧ t.th.v = s.th.v ∧ t.th.tvec = s.th.tvec ∧ t.th.tdeleg = s.th.tdeleg ∧ t.th.fflags = s.th.fflags ∧
    t.th.coord = s.th.coord ∧ t.th.ctrs = s.th.ctrs ∧ SameBytes s t

/-- A trap may be entered: traps are enabled and no F instruction has issued that would be committed first. -/
def Enterable (s : State) : Prop := s.th.ie = true ∧ (∀ e ∈ s.th.fq, e.st = .waiting) ∧ s.th.capture = none

/-- The step of the job of a number, with its type and what a job of the type plans (Table 11.3). -/
def JobIs (i : Instr) (id typ : Nat) (plan : Job → JobM Plan) : Prop :=
  (i = .copy1d id ∧ typ = 1 ∧ plan = planMoves) ∨ (i = .copy2d id ∧ typ = 2 ∧ plan = planMoves) ∨
  (i = .gather id ∧ typ = 3 ∧ plan = planElems) ∨ (i = .scatter id ∧ typ = 4 ∧ plan = planElems) ∨
  (i = .fill id ∧ typ = 5 ∧ plan = planFill) ∨ (i = .notify id ∧ typ = 6 ∧ plan = planNotify) ∨
  (i = .zacc id ∧ typ = 8 ∧ plan = planZacc) ∨ (i = .lacc id ∧ typ = 9 ∧ plan = planLacc) ∨
  (i = .sacc id ∧ typ = 10 ∧ plan = planSacc) ∨ (i = .mma id ∧ typ = 11 ∧ plan = planMma) ∨
  (i = .mmar id ∧ typ = 12 ∧ plan = planMmar) ∨ (i = .qtile id ∧ typ = 13 ∧ plan = planQtile)

/-- A job of a type runs in the cluster of the core in focus, and nothing holds it back. -/
structure Running (s : State) (id typ : Nat) (j : Job) : Prop where
  found : s.job id = some j
  typ : j.typ = typ
  st : j.st = .running
  energy : s.cl.spent = false
  fence : s.cl.fenced = false

/-- An access of a job leads to one run of locations, which nothing holds back (R290, R293). -/
structure Reaches (s : State) (j : Job) (va len : Nat) (wr payload : Bool) (loc : Nat) : Prop where
  inside : payload = true → s.inside j va len wr = true
  place : (s.canon j va len).isSome = true
  leads : s.find (s.jobWho j) { w := wr } va len = (.parts [⟨loc, len⟩], s)
  unheld : s.bankHeld [⟨loc, len⟩] none = false
  sound : if wr then s.refuses [⟨loc, len⟩] = none else s.badPart [⟨loc, len⟩] = none

/-- The command c of a type stands at the head of queue q, passes the checks made there, and is the one that Keyway takes next (R382, R435,
Table 19.9); no command taken earlier has its index. -/
structure Served (s : State) (q : BitVec 10) (typ : Nat) (c : KCmd) : Prop where
  head : s.headCmd q.toNat = some c
  sound : s.headCheck (s.queue q.toNat) c = none
  typ : c.typ = typ
  next : s.pick = some q.toNat
  alone : ∀ p ∈ (s.queue q.toNat).taken, p.1 ≠ c.ix

/-- The command has been taken: the head of its queue is one further; it is taken and not complete. -/
def Taken (s t : State) (q : BitVec 10) (c : KCmd) : Prop :=
  (t.queue q.toNat).head = c.ix + 1 ∧ (t.queue q.toNat).taken = (s.queue q.toNat).taken ++ [(c.ix, c.bits.setWidth 64)] ∧
  (t.queue q.toNat).halted = false ∧ t.ksems = s.ksems

/-- The command has been taken and is complete (R436, R442): the head of its queue is one further, and the semaphore that it signals, if it
asks for that, has grown by its amount. -/
def CmdDone (s t : State) (q : BitVec 10) (c : KCmd) : Prop :=
  (t.queue q.toNat).head = c.ix + 1 ∧ (t.queue q.toNat).taken = (s.queue q.toNat).taken ∧ (t.queue q.toNat).halted = false ∧
  ∀ k : BitVec 8, t.ksems[k.toNat] =
    if c.hdr 6 1 = 1 ∧ k.toNat = c.hdr 16 8 then s.ksems[k.toNat] + BitVec.ofNat 32 (c.hdr 24 8) else s.ksems[k.toNat]

/-- What the I pipe of a core finds as its turn begins: slots that stalled, or waited for a route, look again; its first slot is in focus. -/
def State.onTurn (u : State) : State := u.lookAgain.withSlot u.core.iPtr

/-- The next step gives the I pipe its turn in u: in an even beat with nothing on the agenda, or as the agenda asks for it. -/
def TakesTurn (s u : State) : Prop :=
  s.running = true ∧
  ((s.agenda = [] ∧ s.beat % 2 = 0 ∧
      u = if s.beat % (2 * (1 + s.others.length)) = 0 then State.nextCycle { s with beat := s.beat + 1 } else { s with beat := s.beat + 1 }) ∨
   ∃ c dt r, s.agenda = .turn c dt :: r ∧ u = (State.focus { s with agenda := r } c).tick c.die dt)

/-- The thread in focus issues an instruction in this turn: its core may issue, no asynchronous cause is taken first, control is in a legal line with
a head at the PC, no breakpoint matches, no parity is bad. -/
structure Issues (w : State) (l : Line) : Prop where
  ready : w.th.inTurn = true
  core : w.cl.spent = false ∧ w.core.fenced = false ∧ w.core.lets w.cur = true ∧ w.core.yields w.cur = false
  noCause : w.th.ie = false ∨ w.th.mustReturn = true ∨ firstAsync w.th.async = none
  line : w.th.here = some l
  legal : lineLegal l.bytes = true
  head : w.th.pc.toNat / 2 % 32 - 1 < lineN l.bytes
  noBreak : w.breakpoint = none
  parity : w.th.bad = []

end Machine
end Sys2Proof
end

