-- ==== Sys2Proof/Certificates/Slice0/Obligations.lean ====
section
/-! DEFINITION. The statements for the provers, chapter by chapter: results with their frames, traps and where they are taken, what the
machine does by itself, the encoding, the step and its invariant. -/
open Sys2Proof Sys2Proof.Machine

/-- R25: each slot has 32 general registers of 64 bits; `g0` reads as zero and a write to it is discarded; a `g` code of 32 or more is
refused as a register code. -/
def Obligations.ZeroRegister : Prop :=
  (∀ s : State, s.g 0 = 0) ∧
  (∀ (t : Thread) (d : Reg) (v : Word), (∀ r : Reg, (t.setG 0 v).greg r = t.greg r) ∧
    (d ≠ 0 → d.toNat < 32 → ∀ r : Reg, r.toNat < 32 → (t.setG d v).greg r = if r = d then v else t.greg r)) ∧
  (∀ d a b : Nat, d < 64 → a < 64 → b < 64 → 32 ≤ d ∨ 32 ≤ a ∨ 32 ≤ b → decodeWord 0x01 1 d (a + 2 ^ 6 * b) = .error .register)

/-- R105: `li` writes its immediate, sign-extended, in three lengths; a value whose upper 33 bits are not all equal has no 32-bit
immediate. -/
def Obligations.LoadImmediate : Prop :=
  (∀ (s : State) (d : Reg), d.toNat < 32 → Ready s [d] →
    (∀ k, CompletesG (exec (.li ⟨d, k⟩) s) s d (k.signExtend 64)) ∧ (∀ k, CompletesG (exec (.liL2 ⟨d, k⟩) s) s d (k.signExtend 64)) ∧
    ∀ k, CompletesG (exec (.liL3 ⟨d, k⟩) s) s d k) ∧
  (∀ d : Reg, d.toNat < 32 → (∀ k : BitVec 16, decodeWord 0x1F 1 d.toNat k.toNat = .ok (.li ⟨d, k⟩)) ∧
    (∀ k : BitVec 32, decodeWord 0x1F 2 d.toNat k.toNat = .ok (.liL2 ⟨d, k⟩)) ∧
    ∀ k : BitVec 64, decodeWord 0x1F 3 d.toNat k.toNat = .ok (.liL3 ⟨d, k⟩)) ∧
  (∀ v : Word, v.extractLsb' 31 33 ≠ 0 → v.extractLsb' 31 33 ≠ BitVec.allOnes 33 → ∀ k : BitVec 32, k.signExtend 64 ≠ v)

/-- Sums, products and bitwise operations (Table 4.1): the low 64 bits of the exact result are written to D; `g0` discards the write;
nothing else changes. Shifts by the low six bits of the second source, the smaller and larger of two values, and compares (Table 4.1).
-/
def Obligations.IntegerRegisterForms : Prop :=
  (∀ (s : State) (o : GGG), o.d.toNat < 32 → Ready s [o.a, o.b, o.d] →
     let a := s.g o.a
     let b := s.g o.b
     CompletesG (exec (.add o) s) s o.d (a + b) ∧
     CompletesG (exec (.sub o) s) s o.d (a - b) ∧
     CompletesG (exec (.and o) s) s o.d (a &&& b) ∧
     CompletesG (exec (.or o) s) s o.d (a ||| b) ∧
     CompletesG (exec (.xor o) s) s o.d (a ^^^ b) ∧
     CompletesG (exec (.andn o) s) s o.d (a &&& ~~~b) ∧
     CompletesG (exec (.mul o) s) s o.d (a * b) ∧
     CompletesG (exec (.mulh o) s) s o.d (((a.signExtend 128 * b.signExtend 128) >>> 64).setWidth 64) ∧
     CompletesG (exec (.mulhz o) s) s o.d (((a.setWidth 128 * b.setWidth 128) >>> 64).setWidth 64)) ∧
  (∀ (s : State) (o : GGG), o.d.toNat < 32 → Ready s [o.a, o.b, o.d] →
     let a := s.g o.a
     let b := s.g o.b
     let n := (b.extractLsb' 0 6).toNat
     CompletesG (exec (.shl o) s) s o.d (a <<< n) ∧
     CompletesG (exec (.shr o) s) s o.d (a >>> n) ∧
     CompletesG (exec (.sra o) s) s o.d (a.sshiftRight n) ∧
     CompletesG (exec (.rotl o) s) s o.d (a.rotateLeft n) ∧
     CompletesG (exec (.min o) s) s o.d (if a.sle b then a else b) ∧
     CompletesG (exec (.max o) s) s o.d (if a.sle b then b else a) ∧
     CompletesG (exec (.minz o) s) s o.d (if a ≤ b then a else b) ∧
     CompletesG (exec (.maxz o) s) s o.d (if a ≤ b then b else a) ∧
     CompletesG (exec (.slt o) s) s o.d (if a.slt b then 1 else 0) ∧
     CompletesG (exec (.sltz o) s) s o.d (if a < b then 1 else 0) ∧
     CompletesG (exec (.seq o) s) s o.d (if a = b then 1 else 0))

/-- The immediate forms (R102 to R104): both lengths, with the immediate sign-extended, give what the register forms give. Constants,
selection and addresses (R101, R105 to R107): `addpc` adds to the address of its line, `lea` computes an effective address and accesses
nothing. Counts, byte and bit fields (R108 to R110). -/
def Obligations.ImmediateForms : Prop :=
  (∀ (s : State),
     (∀ o : GGI10, o.d.toNat < 32 → Ready s [o.a, o.d] →
       let a := s.g o.a
       let k := o.imm.signExtend 64
       CompletesG (exec (.addi o) s) s o.d (a + k) ∧ CompletesG (exec (.andi o) s) s o.d (a &&& k) ∧
       CompletesG (exec (.ori o) s) s o.d (a ||| k) ∧ CompletesG (exec (.xori o) s) s o.d (a ^^^ k)) ∧
     (∀ o : GGI26, o.d.toNat < 32 → Ready s [o.a, o.d] →
       let a := s.g o.a
       let k := o.imm.signExtend 64
       CompletesG (exec (.addiL2 o) s) s o.d (a + k) ∧ CompletesG (exec (.andiL2 o) s) s o.d (a &&& k) ∧
       CompletesG (exec (.oriL2 o) s) s o.d (a ||| k) ∧ CompletesG (exec (.xoriL2 o) s) s o.d (a ^^^ k)) ∧
     (∀ o : ShiftI, o.d.toNat < 32 → Ready s [o.a, o.d] →
       let a := s.g o.a
       CompletesG (exec (.shli o) s) s o.d (a <<< o.amt.toNat) ∧ CompletesG (exec (.shri o) s) s o.d (a >>> o.amt.toNat) ∧
       CompletesG (exec (.srai o) s) s o.d (a.sshiftRight o.amt.toNat) ∧
       CompletesG (exec (.rotli o) s) s o.d (a.rotateLeft o.amt.toNat)) ∧
     (∀ o : GGI8, o.d.toNat < 32 → Ready s [o.a, o.d] →
       let a := s.g o.a
       let k := o.imm.signExtend 64
       CompletesG (exec (.slti o) s) s o.d (if a.slt k then 1 else 0) ∧
       CompletesG (exec (.sltzi o) s) s o.d (if a < k then 1 else 0) ∧
       CompletesG (exec (.seqi o) s) s o.d (if a = k then 1 else 0)) ∧
     (∀ o : GGI24, o.d.toNat < 32 → Ready s [o.a, o.d] →
       let a := s.g o.a
       let k := o.imm.signExtend 64
       CompletesG (exec (.sltiL2 o) s) s o.d (if a.slt k then 1 else 0) ∧
       CompletesG (exec (.sltziL2 o) s) s o.d (if a < k then 1 else 0) ∧
       CompletesG (exec (.seqiL2 o) s) s o.d (if a = k then 1 else 0))) ∧
  (∀ (s : State),
     (∀ o : GGGG, o.d.toNat < 32 → Ready s [o.a, o.b, o.c, o.d] →
       CompletesG (exec (.sel o) s) s o.d (if s.g o.c = 0 then s.g o.b else s.g o.a)) ∧
     (∀ o : GK16, o.d.toNat < 32 → Ready s [o.d] → CompletesG (exec (.li o) s) s o.d (o.k.signExtend 64)) ∧
     (∀ o : GK32, o.d.toNat < 32 → Ready s [o.d] → CompletesG (exec (.liL2 o) s) s o.d (o.k.signExtend 64)) ∧
     (∀ o : GK64, o.d.toNat < 32 → Ready s [o.d] → CompletesG (exec (.liL3 o) s) s o.d o.k) ∧
     (∀ o : GK32, o.d.toNat < 32 → Ready s [o.d] →
       CompletesG (exec (.addpc o) s) s o.d ((s.th.pc.extractLsb' 6 42 ++ 0#6).setWidth 64 + o.k.signExtend 64)) ∧
     (∀ o : LeaM, o.d.toNat < 32 → Ready s [o.base, o.d] →
       CompletesG (exec (.lea o) s) s o.d (s.g o.base + (o.off.setWidth 64 <<< o.sz.toNat))) ∧
     (∀ o : LeaX, o.d.toNat < 32 → o.ix = 0 → Ready s [o.d, o.base] →
       CompletesG (exec (.leaL2 o) s) s o.d (s.g o.base + o.body.signExtend 64)) ∧
     (∀ o : LeaX, o.d.toNat < 32 → o.ix = 1 → Ready s [o.d, o.base, o.body.extractLsb' 0 6] →
       CompletesG (exec (.leaL2 o) s) s o.d
         (s.g o.base + (s.g (o.body.extractLsb' 0 6) <<< (o.body.extractLsb' 6 3).toNat)))) ∧
  (∀ (s : State),
     (∀ o : GG, o.d.toNat < 32 → Ready s [o.a, o.d] →
       let a := s.g o.a
       CompletesG (exec (.clz o) s) s o.d a.clz ∧
       CompletesG (exec (.ctz o) s) s o.d a.ctz ∧
       CompletesG (exec (.popc o) s) s o.d (BitVec.ofNat 64 ((List.finRange 64).countP fun i => a[i.val])) ∧
       (∃ v, CompletesG (exec (.bswap o) s) s o.d v ∧ ∀ k < 8, v.extractLsb' (8 * k) 8 = a.extractLsb' (8 * (7 - k)) 8) ∧
       CompletesG (exec (.sextB o) s) s o.d ((a.extractLsb' 0 8).signExtend 64) ∧
       CompletesG (exec (.sextH o) s) s o.d ((a.extractLsb' 0 16).signExtend 64) ∧
       CompletesG (exec (.sextW o) s) s o.d ((a.extractLsb' 0 32).signExtend 64)) ∧
     (∀ o : BitF, o.d.toNat < 32 → o.pos.toNat + o.lenm1.toNat ≤ 63 → Ready s [o.a, o.d] →
       let p := o.pos.toNat
       let n := o.lenm1.toNat
       (∃ v, CompletesG (exec (.bext o) s) s o.d v ∧ ∀ i < 64, v.getLsbD i = (decide (i ≤ n) && (s.g o.a).getLsbD (p + i))) ∧
       (∃ v, CompletesG (exec (.bins o) s) s o.d v ∧
         ∀ i < 64, v.getLsbD i = if p ≤ i ∧ i ≤ p + n then (s.g o.a).getLsbD (i - p) else (s.g o.d).getLsbD i)))

/-- FP64 sums, differences, products, fused products and quotients (R87, R92, R192, R193, R209): of finite sources whose exact result is
within the format, the result is the exact value rounded once in the effective mode (a quotient to nearest), an exact zero has the sign
that R75 gives, and NX says whether the result differs; of a NaN, the canonical NaN; opposite infinities in a sum, and zero times an
infinity, give NaN with NV, else an infinity gives that infinity. -/
def Obligations.RoundedArithmetic : Prop :=
  ∀ s : State, FIdle s →
    let I := fun r : Reg => fp64Int (s.th.vreg r.toNat)
    let sgn := fun r : Reg => fpNeg 11 52 (s.th.vreg r.toNat).toNat
    let nan := fun r : Reg => fpNan 11 52 (s.th.vreg r.toNat).toNat
    let sig := fun r : Reg => fpSig 11 52 (s.th.vreg r.toNat).toNat
    let inf := fun r : Reg => fpInf 11 52 (s.th.vreg r.toNat).toNat
    let zero := fun r : Reg => fpZero 11 52 (s.th.vreg r.toNat).toNat
    let fin := fun r : Reg => fp64Fin (s.th.vreg r.toNat)
    let quiet := BitVec.ofNat 64 (fpQuiet 11 52)
    (∀ (i : Instr) (raw : FRaw) (d a b : Reg) (rnd : BitVec 3) (neg : Bool), FRegs [d, a, b] →
      ((∃ o : FP3, o.pr = 0 ∧ d = o.d ∧ a = o.a ∧ b = o.b ∧ rnd = 0 ∧
          (i = .fadd o ∧ neg = false ∧ raw = { op := 0x70, d := o.d, a := o.a, b := o.b } ∨
           i = .fsub o ∧ neg = true ∧ raw = { op := 0x71, d := o.d, a := o.a, b := o.b })) ∨
       (∃ o : FP3R, o.pr = 0 ∧ d = o.d ∧ a = o.a ∧ b = o.b ∧ rnd = o.rnd ∧ let m8 := 0#1 ++ o.rnd ++ 0#4
          (i = .faddL2 o ∧ neg = false ∧ raw = { op := 0x70, d := o.d, a := o.a, b := o.b, m8 := m8, hold := o.h.setWidth 3 } ∨
           i = .fsubL2 o ∧ neg = true ∧ raw = { op := 0x71, d := o.d, a := o.a, b := o.b, m8 := m8, hold := o.h.setWidth 3 }))) →
      let N := I a + if neg then -(I b) else I b
      let nb := xor (sgn b) neg
      let mode := s.roundMode rnd
      (fin a → fin b → mode < 5 → InRange64 N 1 → Ends64 (exec i s) s raw mode N 1 (if sgn a = nb then sgn a else mode == 2)) ∧
      (nan a = true ∨ nan b = true → EndsF (exec i s) s raw 0 quiet 0 (nvIf (sig a || sig b))) ∧
      (inf a = true → inf b = true → sgn a ≠ nb → EndsF (exec i s) s raw 0 quiet 0 (nvIf true)) ∧
      (inf a = true → nan b = false → (inf b = true → sgn a = nb) →
        EndsF (exec i s) s raw 0 (BitVec.ofNat 64 (fpInfCode 11 52 (sgn a))) 0 0) ∧
      (inf b = true → fin a → EndsF (exec i s) s raw 0 (BitVec.ofNat 64 (fpInfCode 11 52 nb)) 0 0)) ∧
    (∀ (i : Instr) (raw : FRaw) (d a b : Reg) (rnd : BitVec 3), FRegs [d, a, b] →
      ((∃ o : FP3, o.pr = 0 ∧ d = o.d ∧ a = o.a ∧ b = o.b ∧ rnd = 0 ∧ i = .fmul o ∧ raw = { op := 0x72, d := o.d, a := o.a, b := o.b }) ∨
       (∃ o : FP3R, o.pr = 0 ∧ d = o.d ∧ a = o.a ∧ b = o.b ∧ rnd = o.rnd ∧ i = .fmulL2 o ∧
          raw = { op := 0x72, d := o.d, a := o.a, b := o.b, m8 := 0#1 ++ o.rnd ++ 0#4, hold := o.h.setWidth 3 })) →
      let z := xor (sgn a) (sgn b)
      (fin a → fin b → s.roundMode rnd < 5 → InRange64 (I a * I b) (2 ^ 1074) →
        Ends64 (exec i s) s raw (s.roundMode rnd) (I a * I b) (2 ^ 1074) z) ∧
      (nan a = true ∨ nan b = true → EndsF (exec i s) s raw 0 quiet 0 (nvIf (sig a || sig b))) ∧
      (inf a = true ∧ zero b = true ∨ zero a = true ∧ inf b = true → EndsF (exec i s) s raw 0 quiet 0 (nvIf true)) ∧
      (inf a = true ∨ inf b = true → nan a = false → nan b = false → zero a = false → zero b = false →
        EndsF (exec i s) s raw 0 (BitVec.ofNat 64 (fpInfCode 11 52 z)) 0 0)) ∧
    (∀ (o : FP4R) (i : Instr) (k : Nat), o.pr = 0 → FRegs [o.d, o.a, o.b, o.c] → (i, k) ∈ [(Instr.fma o, 0), (.fms o, 1), (.fnma o, 2), (.fnms o, 3)] →
      let p := if k < 2 then I o.a * I o.b else -(I o.a * I o.b)
      let c := if k = 0 ∨ k = 3 then I o.c else -(I o.c)
      let sp := xor (xor (sgn o.a) (sgn o.b)) (decide (2 ≤ k))
      let sc := xor (sgn o.c) (k == 1 || k == 2)
      let mode := s.roundMode o.rnd
      fin o.a → fin o.b → fin o.c → mode < 5 → InRange64 (p + c * 2 ^ 1074) (2 ^ 1074) →
      Ends64 (exec i s) s { op := 0x73, d := o.d, a := o.a, b := o.b, c := o.c, m8 := 0#1 ++ o.rnd ++ 0#4, sub := BitVec.ofNat 3 k,
                            hold := o.h.setWidth 3 } mode (p + c * 2 ^ 1074) (2 ^ 1074) (if sp = sc then sp else mode == 2)) ∧
    (∀ (i : Instr) (raw : FRaw) (d a b : Reg), FRegs [d, a, b] →
      ((∃ o : FP3, o.pr = 0 ∧ d = o.d ∧ a = o.a ∧ b = o.b ∧ i = .fdiv o ∧ raw = { op := 0xA3, d := o.d, a := o.a, b := o.b }) ∨
       (∃ o : FP3H, o.pr = 0 ∧ d = o.d ∧ a = o.a ∧ b = o.b ∧ i = .fdivL2 o ∧
          raw = { op := 0xA3, d := o.d, a := o.a, b := o.b, hold := o.h.setWidth 3 })) →
      fin a → fin b → I b ≠ 0 →
      let N := I a * 2 ^ 1074 * (I b).sign
      InRange64 N (I b).natAbs → Ends64 (exec i s) s raw 0 N (I b).natAbs (xor (sgn a) (sgn b)))

/-- Division (Table 4.2): the instruction occupies the divider and goes on; when the divider finishes, D holds the result, whatever the
operands are. A second division waits while the divider is busy. -/
def Obligations.Division : Prop :=
  ∀ (s : State) (o : GGG) (i : Instr) (v : Word), o.d.toNat < 32 → Ready s [o.a, o.b, o.d] →
    (let a := s.g o.a
     let b := s.g o.b
     (i = .div o ∧ v = if b = 0 then BitVec.allOnes 64 else a.sdiv b) ∨
     (i = .divz o ∧ v = if b = 0 then BitVec.allOnes 64 else a / b) ∨
     (i = .rem o ∧ v = if b = 0 then a else a.srem b) ∨
     (i = .remz o ∧ v = if b = 0 then a else a % b)) →
    (s.core.divider = none → ∃ t u, exec i s = .next t ∧ t.th.pc = s.th.nextPc ∧ t.th.g = s.th.g ∧
      (o.d ≠ 0 → t.pendingG o.d = true) ∧ exec .divideComplete t = .next u ∧ SameBytes s u ∧
      (∀ r : Reg, r.toNat < 32 → u.g r = if r = o.d ∧ r ≠ 0 then v else s.g r) ∧ u.core.divider = none) ∧
    (s.core.divider.isSome → exec i s = .next s.stall)

/-- Conditional branches (Table 4.4): taken when the condition holds, to the line and head of OFF20; otherwise control goes on and
nothing is checked (R45). No register changes. -/
def Obligations.ConditionalBranches : Prop :=
  ∀ (s : State),
    (∀ (o : BrB) (i : Instr) (taken : Prop), Ready s [o.a, o.b] →
      (let a := s.g o.a
       let b := s.g o.b
       (i = .beq o ∧ (taken ↔ a = b)) ∨ (i = .bne o ∧ (taken ↔ a ≠ b)) ∨ (i = .blt o ∧ (taken ↔ a.toInt < b.toInt)) ∨
       (i = .bge o ∧ (taken ↔ a.toInt ≥ b.toInt)) ∨ (i = .bltz o ∧ (taken ↔ a < b)) ∨ (i = .bgez o ∧ (taken ↔ a ≥ b))) →
      (¬ taken → CompletesOnly (exec i s) s) ∧
      (taken → ∀ (la : Nat) (l : Line), (la : Int) = branchLine s.th.pc o.off → la < 2 ^ 48 → Lands s la (branchHead o.off) l →
        Jumps (exec i s) s la (branchHead o.off) l s.g)) ∧
    (∀ (o : BrZ) (i : Instr) (taken : Prop), Ready s [o.a] →
      (let a := (s.g o.a).toInt
       (i = .bzEqz o ∧ (taken ↔ a = 0)) ∨ (i = .bzNez o ∧ (taken ↔ a ≠ 0)) ∨ (i = .bzLtz o ∧ (taken ↔ a < 0)) ∨
       (i = .bzGez o ∧ (taken ↔ a ≥ 0)) ∨ (i = .bzGtz o ∧ (taken ↔ a > 0)) ∨ (i = .bzLez o ∧ (taken ↔ a ≤ 0))) →
      (¬ taken → CompletesOnly (exec i s) s) ∧
      (taken → ∀ (la : Nat) (l : Line), (la : Int) = branchLine s.th.pc o.off → la < 2 ^ 48 → Lands s la (branchHead o.off) l →
        Jumps (exec i s) s la (branchHead o.off) l s.g))

/-- Jumps (R116, R117): `jmp` and `call` go to their target, `call` with the PC of the next instruction in its link register; `jr` goes
to the PC in its register; `decb` counts down and goes while the count is not zero. A transfer to a PC of bits [5:0] zero, an odd one or
one beyond the address space, to a line in a window, or to a head that the line does not have, takes the bad-target trap in the state
before it, so no link is written and no counter changes (R113, R116, Table 2.3): `jr`, `jmp`, `call`, a `decb` that does not reach zero,
and a conditional branch whose condition holds. -/
def Obligations.JumpTransfers : Prop :=
  (∀ (s : State) (la : Nat) (l : Line), la < 2 ^ 48 →
     (∀ o : Jmp, Ready s [] → (la : Int) = branchLine s.th.pc o.off → Lands s la (branchHead o.off) l →
       Jumps (exec (.jmp o) s) s la (branchHead o.off) l s.g) ∧
     (∀ o : GJmp, o.d.toNat < 32 → Ready s [o.d] → (la : Int) = branchLine s.th.pc o.off → Lands s la (branchHead o.off) l →
       Jumps (exec (.call o) s) s la (branchHead o.off) l (s.gWith o.d (s.th.nextPc.setWidth 64)) ∧
       (s.g o.d ≠ 1 → Jumps (exec (.decb o) s) s la (branchHead o.off) l (s.gWith o.d (s.g o.d - 1)))) ∧
     (∀ o : GJmp, o.d.toNat < 32 → Ready s [o.d] → s.g o.d = 1 → CompletesG (exec (.decb o) s) s o.d 0) ∧
     (∀ (o : GD) (idx : Nat), Ready s [o.d] → la % 64 = 0 → (s.g o.d).toNat = la + 2 + 2 * idx → Lands s la idx l →
       Jumps (exec (.jr o) s) s la idx l s.g)) ∧
  (∀ (s : State),
     (∀ o : GD, Ready s [o.d] →
       (let v := (s.g o.d).toNat
        v ≥ 2 ^ 48 ∨ v % 64 = 0 ∨ v % 2 = 1 ∨ v / 2 ^ 44 = 15 ∨
        ∃ l, s.fetchLine (v / 64 * 64) = (.ok l, s) ∧ lineLegal l.bytes = true ∧ lineN l.bytes ≤ v % 64 / 2 - 1) →
       exec (.jr o) s = .next (s.trapAt 3 0 (s.g o.d))) ∧
     (∀ off : BitVec 20,
       (let la := branchLine s.th.pc off
        la < 0 ∨ 2 ^ 48 ≤ la ∨ la / 2 ^ 44 = 15 ∨
        ∃ l, s.fetchLine la.toNat = (.ok l, s) ∧ lineLegal l.bytes = true ∧ lineN l.bytes ≤ branchHead off) →
       let trap := Host.Outcome.next (s.trapAt 3 0 (BitVec.ofInt 64 ((branchLine s.th.pc off + 2 + 2 * branchHead off) % 2 ^ 48)))
       (Ready s [] → exec (.jmp ⟨off⟩) s = trap) ∧
       (∀ d, Ready s [d] → exec (.call ⟨d, off⟩) s = trap ∧ (s.g d ≠ 1 → exec (.decb ⟨d, off⟩) s = trap)) ∧
       (∀ (o : BrB) (i : Instr), o.off = off → Ready s [o.a, o.b] →
         (let a := s.g o.a
          let b := s.g o.b
          (i = .beq o ∧ a = b) ∨ (i = .bne o ∧ a ≠ b) ∨ (i = .blt o ∧ a.toInt < b.toInt) ∨ (i = .bge o ∧ a.toInt ≥ b.toInt) ∨
          (i = .bltz o ∧ a < b) ∨ (i = .bgez o ∧ a ≥ b)) → exec i s = trap) ∧
       (∀ (o : BrZ) (i : Instr), o.off = off → Ready s [o.a] →
         (let a := (s.g o.a).toInt
          (i = .bzEqz o ∧ a = 0) ∨ (i = .bzNez o ∧ a ≠ 0) ∨ (i = .bzLtz o ∧ a < 0) ∨ (i = .bzGez o ∧ a ≥ 0) ∨
          (i = .bzGtz o ∧ a > 0) ∨ (i = .bzLez o ∧ a ≤ 0)) → exec i s = trap)))

/-- `nop` in its four lengths, `pause` and the end of its count, `yield`, `rep` and `exit` (R56, R120 to R126). The buffer dispatches
the next instance of a repetition (R125, R126): its F fields staggered by the iteration, behind everything dispatched; position and
iteration move on, and the repetition ends with its last instance. -/
def Obligations.ControlInstructions : Prop :=
  (∀ (s : State),
     (Ready s [] →
       CompletesOnly (exec .nop s) s ∧ (∀ o, CompletesOnly (exec (.nopL1 o) s) s) ∧ (∀ o, CompletesOnly (exec (.nopL2 o) s) s) ∧
       (∀ o, CompletesOnly (exec (.nopL3 o) s) s) ∧
       (∀ o : K16, (o.k = 0 → CompletesOnly (exec (.pause o) s) s) ∧
         (o.k ≠ 0 → ∃ t u, exec (.pause o) s = .next t ∧ OnlyThread s t ∧ t.th.status = .pausing ∧ t.th.pauseLeft = o.k.toNat ∧
           t.th.pc = s.th.nextPc ∧ t.th.g = s.th.g ∧
           exec (.pauseExpiry (BitVec.ofNat 2 s.cur.val)) (t.modTh fun x => { x with pauseLeft := 0 }) = .next u ∧
           u.th.status = .ready ∧ u.th.pc = s.th.nextPc)) ∧
       (∃ t, exec .yield s = .next t ∧ OnlyThread s t ∧ t.th.pc = s.th.nextPc ∧ t.th.status = .ready ∧ t.th.g = s.th.g ∧
         ∀ k : Fin 4, k ∈ t.th.yieldTo ↔ k ≠ s.cur ∧ (s.core.th k).inTurn = true)) ∧
     (∀ o : RepO, Ready s [o.a] → s.th.rep.act = false →
       ∃ t, exec (.rep o) s = .next t ∧ OnlyThread s t ∧ t.th.pc = s.th.nextPc ∧ t.th.g = s.th.g ∧
         t.th.capture = some (o.bl.toNat + 1) ∧ t.th.rep.bodyPc = s.th.nextPc ∧ t.th.rep.count = (s.g o.a).extractLsb' 0 32 ∧
         t.th.rep.iter = 0 ∧ t.th.rep.pos = 0 ∧ (t.th.rep.act = true ↔ (s.g o.a).extractLsb' 0 32 ≠ 0)) ∧
     (∀ o : RepO, Ready s [o.a] → s.th.rep.act = true → exec (.rep o) s = .next s.stall) ∧
     (Ready s [] → s.th.rep.act = false → s.th.fq = [] → s.core.divider = none → s.transferring = false → s.th.sb = [] →
       ∃ t, exec .exit s = .next t ∧ t.th.status = (if s.cur.val = 3 then .sleeping else .empty))) ∧
  (∀ (s : State) (b : BodyInstr), s.th.status ≠ .empty → s.th.status ≠ .halted → s.th.rep.act = true → s.th.capture = none →
     s.th.room = true → s.core.lets s.cur = true → s.th.body[s.th.rep.pos.toNat]? = some b →
     b.bad = none → s.dispatchFails (s.th.rep.rename b.raw) = none →
     ∃ t, exec (.repReplayDispatch (BitVec.ofNat 2 s.cur.val)) s = .next t ∧ t.th.pc = s.th.pc ∧ t.th.g = s.th.g ∧ SameBytes s t ∧
       (∃ e, t.th.fq = s.th.fq ++ [e] ∧ e.raw = s.th.rep.rename b.raw ∧ e.pc = b.pc ∧ e.ring = s.th.freshRing ∧ e.st = .waiting) ∧
       t.th.next = s.th.freshRing + 1 ∧
       (if s.th.rep.pos = s.th.rep.blm1 then
         t.th.rep.pos = 0 ∧ t.th.rep.iter = s.th.rep.iter + 1 ∧ (t.th.rep.act = true ↔ s.th.rep.iter.toNat + 1 < s.th.rep.count.toNat)
        else t.th.rep.pos = s.th.rep.pos + 1 ∧ t.th.rep.iter = s.th.rep.iter ∧ t.th.rep.act = true))

/-- Loads (R135, R139): every byte of D that the size covers is the byte of memory at its place, lowest address lowest; the bytes above
repeat the sign, or are zero with ZX. `lda` does the same as an acquire. The data comes at once from the own cluster, else it returns
later; nothing but D changes. `ldp` (R136): the first register gets the lower 8 bytes, the next register the 8 bytes above. -/
def Obligations.Loads : Prop :=
  (∀ (s : State) (i : Instr) (regs : List Reg) (ea : Word) (d : Reg) (n align loc : Nat) (zx : Bool),
     ((∃ o : LdM, i = .ld o ∧ regs = [o.d, o.base] ∧ ea = s.eaM o.base o.sz o.off ∧ d = o.d ∧ n = 2 ^ o.sz.toNat ∧ align = 1 ∧
         zx = (o.zx == 1)) ∨
      (∃ o : LdX, i = .ldL2 o ∧ regs = o.d :: regsX o.base o.ix o.body ∧ ea = s.eaX o.base o.ix o.body ∧ d = o.d ∧
         n = 2 ^ o.sz.toNat ∧ align = 1 ∧ zx = (o.zx == 1)) ∨
      (∃ o : LdaX, i = .lda o ∧ regs = o.d :: regsX o.base o.ix o.body ∧ ea = s.eaX o.base o.ix o.body ∧ d = o.d ∧
         n = 2 ^ o.sz.toNat ∧ align = n ∧ zx = (o.zx == 1))) →
     d.toNat < 32 → Ready s regs → Passes s ea n align false [⟨loc, n⟩] → s.badPart [⟨loc, n⟩] = none →
     s.th.fstAway = false → s.th.forward [⟨loc, n⟩] = .none →
     ∃ v : Word, (∀ k < n, v.extractLsb' (8 * k) 8 = Memory.byte s.mem (loc + k)) ∧
       (∀ b < 64, 8 * n ≤ b → v.getLsbD b = (!zx && v.getLsbD (8 * n - 1))) ∧
       ReadsSoon (exec i s) s [⟨loc, n⟩] (s.gWith d v)) ∧
  (∀ (s : State) (i : Instr) (regs : List Reg) (ea : Word) (d : Reg) (ps : List Part),
     ((∃ o : PairM, i = .ldp o ∧ regs = [o.d, o.d + 1, o.base] ∧ ea = s.eaM o.base 3 o.off ∧ d = o.d) ∨
      (∃ o : PairX, i = .ldpL2 o ∧ regs = o.d :: (o.d + 1) :: regsX o.base o.ix o.body ∧ ea = s.eaX o.base o.ix o.body ∧ d = o.d)) →
     d.toNat < 31 → Ready s regs → Passes s ea 16 1 false ps → s.badPart ps = none → s.th.fstAway = false → s.th.forward ps = .none →
     ReadsSoon (exec i s) s ps
       (fun r => if r = d + 1 then BitVec.ofNat 64 (s.readParts ps / 2 ^ 64) else s.gWith d (BitVec.ofNat 64 (s.readParts ps)) r))

/-- Stores (R135, R136, R139, R153): the store enters the buffer, and memory is as it was; when it drains, each byte of its locations
holds the byte of the source, and every other byte of memory, every register and the PC are as before. For a store whose bytes lie in
one aligned 8-byte word, outside the command queues and the miss mailbox; no `fst` before it lacks its data (R138). `stp` (R136): the
pair enters the buffer in order, the first register's bytes lowest; control goes on, and memory changes only as the entries drain. -/
def Obligations.Stores : Prop :=
  (∀ (s : State) (i : Instr) (regs : List Reg) (ea data : Word) (n align loc : Nat) (rel : Bool),
     ((∃ o : StM, i = .st o ∧ regs = [o.d, o.base] ∧ ea = s.eaM o.base o.sz o.off ∧ data = s.g o.d ∧ n = 2 ^ o.sz.toNat ∧
         align = 1 ∧ rel = false) ∨
      (∃ o : StX, i = .stL2 o ∧ regs = o.d :: regsX o.base o.ix o.body ∧ ea = s.eaX o.base o.ix o.body ∧ data = s.g o.d ∧
         n = 2 ^ o.sz.toNat ∧ align = 1 ∧ rel = false) ∨
      (∃ o : StlX, i = .stl o ∧ regs = o.d :: regsX o.base o.ix o.body ∧ ea = s.eaX o.base o.ix o.body ∧ data = s.g o.d ∧
         n = 2 ^ o.sz.toNat ∧ align = n ∧ rel = true)) →
     Memory.wf s.mem = true → Ready s regs → s.Unlisted → s.th.sb = [] → s.th.fstWaits = false → Passes s ea n align true [⟨loc, n⟩] →
     loc % 8 + n ≤ 8 → Plain loc → s.refuses [⟨loc, n⟩] = none →
     s.bankHeld [⟨loc / 8 * 8, 8⟩] (some (s.cid, s.cur)) = false →
     ∃ t u e, exec i s = .next t ∧ t.th.pc = s.th.nextPc ∧ t.th.g = s.th.g ∧ SameBytes s t ∧ t.th.sb = [e] ∧ e.release = rel ∧
       exec (.storeDrain s.slotNo) t = .next u ∧ u.th.sb = [] ∧ u.th.pc = s.th.nextPc ∧ u.th.g = s.th.g ∧ u.th.v = s.th.v ∧
       (∀ k < n, Memory.byte u.mem (loc + k) = data.extractLsb' (8 * k) 8) ∧
       (∀ a, a < loc ∨ loc + n ≤ a → Memory.byte u.mem a = Memory.byte s.mem a)) ∧
  (∀ (s : State) (i : Instr) (regs : List Reg) (ea : Word) (d : Reg) (loc : Nat),
     ((∃ o : PairM, i = .stp o ∧ regs = [o.d, o.d + 1, o.base] ∧ ea = s.eaM o.base 3 o.off ∧ d = o.d) ∨
      (∃ o : PairX, i = .stpL2 o ∧ regs = o.d :: (o.d + 1) :: regsX o.base o.ix o.body ∧ ea = s.eaX o.base o.ix o.body ∧ d = o.d)) →
     Ready s regs → s.th.sb = [] → s.th.fstWaits = false → loc % 8 = 0 → Passes s ea 16 1 true [⟨loc, 8⟩, ⟨loc + 8, 8⟩] →
     ∃ t e f, exec i s = .next t ∧ t.th.pc = s.th.nextPc ∧ t.th.g = s.th.g ∧ SameBytes s t ∧ t.th.sb = [e, f] ∧
       e.word = loc ∧ e.mask = 255 ∧ e.data = s.g d ∧ f.word = loc + 8 ∧ f.mask = 255 ∧ f.data = s.g (d + 1))

/-- A load and the buffered stores of its slot (R153, R138): if the entries hold every byte it reads, each with its data, every byte of
the result is that of the youngest entry that covers it, before it has reached memory; if they hold some of the bytes and not all, or an
entry that covers one has no data yet, the load waits and nothing changes; else it reads memory. The checks of Table 5.3, in its order,
for every instruction of the chapter that accesses memory; the first that fails traps at the instruction, with `TINFO` naming the
address, the kind and the size: 2, a byte at or above 2^48; 3, the alignment; 4, the space; 5, two spaces, or a window without a target;
6, a failed translation, or host memory; 7, an uncorrectable word, which leaves the registers and the full/empty bits. A window whose
route entry is absent puts the slot in miss wait, a page that is not translated too, but a store stays in the rotation (R23); a bank
that another slot holds (R226) stalls the access. -/
def Obligations.AccessRules : Prop :=
  (∀ (s : State) (i : Instr) (regs : List Reg) (ea : Word) (d : Reg) (n align loc : Nat) (zx : Bool),
     ((∃ o : LdM, i = .ld o ∧ regs = [o.d, o.base] ∧ ea = s.eaM o.base o.sz o.off ∧ d = o.d ∧ n = 2 ^ o.sz.toNat ∧ align = 1 ∧
         zx = (o.zx == 1)) ∨
      (∃ o : LdX, i = .ldL2 o ∧ regs = o.d :: regsX o.base o.ix o.body ∧ ea = s.eaX o.base o.ix o.body ∧ d = o.d ∧
         n = 2 ^ o.sz.toNat ∧ align = 1 ∧ zx = (o.zx == 1)) ∨
      (∃ o : LdaX, i = .lda o ∧ regs = o.d :: regsX o.base o.ix o.body ∧ ea = s.eaX o.base o.ix o.body ∧ d = o.d ∧
         n = 2 ^ o.sz.toNat ∧ align = n ∧ zx = (o.zx == 1))) →
     d.toNat < 32 → Ready s regs → Passes s ea n align false [⟨loc, n⟩] → s.th.fstAway = false →
     (∀ v : Word, (∀ k < n, SbGives s.th.sb (loc + k) (v.extractLsb' (8 * k) 8)) →
       (∀ e ∈ s.th.sb, (∃ k < n, e.Covers (loc + k)) → e.have_ = true) →
       (∀ b < 64, 8 * n ≤ b → v.getLsbD b = (!zx && v.getLsbD (8 * n - 1))) → Reads (exec i s) s (s.gWith d v)) ∧
     ((∃ e ∈ s.th.sb, (∃ k < n, e.Covers (loc + k)) ∧ (e.have_ = false ∨ ∃ k < n, ∀ f ∈ s.th.sb, ¬ f.Covers (loc + k))) →
       exec i s = .next s.stall) ∧
     (∀ v : Word, (∀ e ∈ s.th.sb, ∀ k < n, ¬ e.Covers (loc + k)) → s.badPart [⟨loc, n⟩] = none →
       (∀ k < n, v.extractLsb' (8 * k) 8 = Memory.byte s.mem (loc + k)) →
       (∀ b < 64, 8 * n ≤ b → v.getLsbD b = (!zx && v.getLsbD (8 * n - 1))) → ReadsSoon (exec i s) s [⟨loc, n⟩] (s.gWith d v))) ∧
  (∀ (s : State) (i : Instr) (regs : List Reg) (ea : Word) (a : Access), Accesses s i regs ea a → Ready s regs →
     s.th.sb = [] → s.th.fstWaits = false →
     let n := ea.toNat
     let last := n + a.len - 1
     let ti := tinfoMem n a.kind a.len.log2
     (2 ^ 48 < n + a.len → exec i s = .next (s.trapAt 5 0 ti)) ∧
     (n + a.len ≤ 2 ^ 48 →
       (n % a.align ≠ 0 → exec i s = .next (s.trapAt 4 0 ti)) ∧
       (n % a.align = 0 →
         (WrongSpace a n → exec i s = .next (s.trapAt 1 7 ti)) ∧
         (¬ WrongSpace a n → (a.kind = .fullEmpty → isFeAddr n = true) →
           (spaceOf n ≠ spaceOf last ∨ s.NoTarget n → exec i s = .next (s.trapAt 5 0 ti)) ∧
           (∀ lcn, spaceOf n = .peer → spaceOf last = .peer → bits n 34 6 = 0 → lcn = bits n 17 17 → (s.route s.th.ctx lcn).1 = 2 →
             ∃ t, exec i s = .next t ∧ t.th = { s.th with status := .missWait, miss := .route lcn } ∧ SameBytes s t) ∧
           (spaceOf n = .paged → n / 4096 = last / 4096 →
             (∀ c b, s.xlate s.me { w := a.wr } n = (.fault c b, s) → exec i s = .next (s.trapAt c b ti)) ∧
             ((s.xlate s.me { w := a.wr } n).1 = .miss → ∃ t, exec i s = .next t ∧ t.th.status = (if a.rd then .missWait else .stalled) ∧
               t.th.miss = .walk ∧ t.th.pc = s.th.pc ∧ t.th.g = s.th.g ∧ SameBytes s t ∧
               ∃ r ∈ t.core.missQ, r.kind = 1 ∧ r.addr.toNat = n / 4096 * 4096)) ∧
           (∀ ps, s.find s.me { w := a.wr } n a.len = (.parts ps, s) →
             (a.host = false → (∃ p ∈ ps, isHost p.loc = true) → exec i s = .next (s.trapAt 1 7 ti)) ∧
             ((a.host = true ∨ ∀ p ∈ ps, isHost p.loc = false) → s.core.dbg.wp = Vector.replicate 2 0 →
               (s.bankHeld ps (some (s.cid, s.cur)) = true → exec i s = .next s.stall) ∧
               (∀ loc, s.bankHeld ps (some (s.cid, s.cur)) = false → ps = [⟨loc, a.len⟩] → s.near ps = true →
                 s.badRange loc a.len = true → a.rd = true → s.th.poisoned = false →
                 ∃ u : State, exec i s = .next (u.trapAt 7 0 ti) ∧ u.th = s.th ∧ u.full = s.full)))))))

/-- `fld` (R137): the I pipe reads the bytes, zero-extended, and the F queue brings them into the `v` register in order. `fst` (R18,
R137, R138): its place in the store buffer is taken when it is dispatched, its data comes from the F side; once it has committed and
drained, the bytes of its locations are the low bytes of the `v` register and nothing else has changed. -/
def Obligations.FloatMemory : Prop :=
  (∀ (s : State) (i : Instr) (regs : List Reg) (ea : Word) (d : Reg) (sz : BitVec 2) (ps : List Part),
     ((∃ o : FMemM, i = .fld o ∧ regs = [o.base] ∧ ea = s.eaM o.base o.sz o.off ∧ d = o.d ∧ sz = o.sz) ∨
      (∃ o : FMemX, i = .fldL2 o ∧ regs = regsX o.base o.ix o.body ∧ ea = s.eaX o.base o.ix o.body ∧ d = o.d ∧ sz = o.sz)) →
     d.toNat < 48 → FIdle s → Ready s regs → Passes s ea (2 ^ sz.toNat) 1 false ps → s.badPart ps = none → s.th.forward ps = .none →
     Soon (exec i s) s ps fun o => RunsF o s { op := 0x48, d := d, m8 := sz.setWidth 8 } (BitVec.ofNat 64 (s.readParts ps))) ∧
  (∀ (s : State) (i : Instr) (regs : List Reg) (ea : Word) (d : Reg) (sz : BitVec 2) (loc : Nat),
     ((∃ o : FMemM, i = .fst o ∧ regs = [o.base] ∧ ea = s.eaM o.base o.sz o.off ∧ d = o.d ∧ sz = o.sz) ∨
      (∃ o : FMemX, i = .fstL2 o ∧ regs = regsX o.base o.ix o.body ∧ ea = s.eaX o.base o.ix o.body ∧ d = o.d ∧ sz = o.sz)) →
     d.toNat < 48 → Memory.wf s.mem = true → FIdle s → Ready s regs → s.Unlisted → s.th.sb = [] →
     Passes s ea (2 ^ sz.toNat) 1 true [⟨loc, 2 ^ sz.toNat⟩] → loc % 8 + 2 ^ sz.toNat ≤ 8 → Plain loc →
     s.refuses [⟨loc, 2 ^ sz.toNat⟩] = none →
     s.bankHeld [⟨loc / 8 * 8, 8⟩] (some (s.cid, s.cur)) = false →
     ∃ t b c u e, exec i s = .next t ∧ t.th.pc = s.th.nextPc ∧ SameBytes s t ∧ t.th.sb = [e] ∧ e.have_ = false ∧ e.committed = false ∧
       exec (.storeDrain s.slotNo) t = .next t ∧
       exec (.fIssue s.slotNo) t = .next b ∧ exec (.fCommit s.slotNo) b = .next c ∧ SameBytes s c ∧
       exec (.storeDrain s.slotNo) c = .next u ∧ u.th.sb = [] ∧ u.th.fq = [] ∧ u.th.v = s.th.v ∧ u.th.g = s.th.g ∧
       Stored s u loc (2 ^ sz.toNat) (s.th.vreg d.toNat).toNat)

/-- Atomics (R148, Table 5.6, R150, R151): D gets the old value of the unit, zero-extended, and the unit the new one; nothing else
changes. `casp` (R150): the 16 bytes of a paged or scratchpad unit are replaced if they equal the pair in D; D gets the old pair. -/
def Obligations.Atomics : Prop :=
  (∀ (s : State) (o : AtO) (i : Instr) (loc new : Nat) (host : Bool), o.d.toNat < 32 → Memory.wf s.mem = true →
     Ready s [o.d, o.base, o.src] → s.Unlisted → s.th.sb = [] → s.th.fstWaits = false → Plain loc →
     let n := 2 ^ o.sz.toNat
     let ps : List Part := [⟨loc, n⟩]
     Passes s (s.g o.base) n n true ps → spaceOf (s.g o.base).toNat ≠ .cq → (host = true ∨ isHost loc = false) → s.badPart ps = none →
     (let x := BitVec.ofNat (8 * n) (s.readParts ps)
      let y := (s.g o.src).setWidth (8 * n)
      (i = .amoadd o ∧ host = true ∧ new = (x + y).toNat) ∨ (i = .amoand o ∧ host = false ∧ new = (x &&& y).toNat) ∨
      (i = .amoor o ∧ host = false ∧ new = (x ||| y).toNat) ∨ (i = .amoxor o ∧ host = false ∧ new = (x ^^^ y).toNat) ∨
      (i = .amomin o ∧ host = false ∧ new = (if x.sle y then x else y).toNat) ∨
      (i = .amomax o ∧ host = false ∧ new = (if x.sle y then y else x).toNat) ∨
      (i = .amominz o ∧ host = false ∧ new = (if x ≤ y then x else y).toNat) ∨
      (i = .amomaxz o ∧ host = false ∧ new = (if x ≤ y then y else x).toNat) ∨
      (i = .amoswap o ∧ host = true ∧ new = y.toNat) ∨
      (i = .cas o ∧ host = true ∧ new = (if x = (s.g o.d).setWidth (8 * n) then y else x).toNat) ∨
      (i = .fadda o ∧ host = false ∧ new = faddaNew n x.toNat y.toNat)) →
     Soon (exec i s) s ps fun out => Updates out s (s.gWith o.d (BitVec.ofNat 64 (s.readParts ps))) loc n new) ∧
  (∀ (s : State) (o : CaspO) (loc : Nat), o.d.toNat < 31 → Memory.wf s.mem = true →
     Ready s [o.d, o.d + 1, o.base, o.src, o.src + 1] → s.Unlisted → s.th.sb = [] → s.th.fstWaits = false → isLs loc = false → Passes s (s.g o.base) 16 16 true [⟨loc, 16⟩] →
     spaceOf (s.g o.base).toNat ≠ .cq → spaceOf (s.g o.base).toNat ≠ .ls → isHost loc = false → s.badPart [⟨loc, 16⟩] = none →
     let old := s.readParts [⟨loc, 16⟩]
     let pair := fun r : Reg => (s.g r).toNat + 2 ^ 64 * (s.g (r + 1)).toNat
     Soon (exec (.casp o) s) s [⟨loc, 16⟩] fun out =>
       Updates out s (fun r => if r = o.d + 1 then BitVec.ofNat 64 (old / 2 ^ 64) else s.gWith o.d (BitVec.ofNat 64 old) r) loc 16
         (if old = pair o.d then pair o.src else old))

/-- Full/empty instructions (Table 5.4, R142, R143): `ldfe` and `ldff` read a full word, `ldfe` leaving it empty; `stef` writes an empty
word and leaves it full; `feset` sets the bit; each waits, parked at its word, while its condition does not hold. A full/empty bit that
changes serves its waiters (R143, Tables 5.4 and 5.5), the oldest whose condition holds first: a `stef` fills a word for a parked
`ldff`, which goes on with the data and leaves it full, or for a parked `ldfe`, which empties it again while later `ldfe` waiters of the
word stay; `feset` 1 lets it read the unchanged data; `feset` 0 lets a parked `stef` write and fill the word. The waiter's slot is
behind its instruction then. Waiting and ordering: `fence` completes when the buffer is empty and waits while it is not (R140); `waita`
goes on with a value that differs from the comparand, and parks at its word while it does not (R147); `pref` changes no register and no
byte (R141); a parked reader of paged memory, and a refused full/empty request, try again. -/
def Obligations.SynchronizedMemory : Prop :=
  (∀ (s : State) (ea : Word) (loc : Nat), Memory.wf s.mem = true → s.th.sb = [] → s.th.fstWaits = false → s.feWait = [] →
     s.Unlisted → Plain loc → s.th.poisoned = false →
     Passes s ea 8 8 true [⟨loc, 8⟩] → Passes s ea 8 8 false [⟨loc, 8⟩] → isFeAddr ea.toNat = true → s.badRange loc 8 = false →
     (∀ (o : FeX), o.d.toNat < 32 → Ready s (o.d :: regsX o.base o.ix o.body) → ea = s.eaX o.base o.ix o.body →
       (s.isFull loc = true →
         (∃ t, exec (.ldfe o) s = .next t ∧ t.th.pc = s.th.nextPc ∧ t.isFull loc = false ∧ SameBytes s t ∧
           ∀ r : Reg, r.toNat < 32 → t.g r = s.gWith o.d (BitVec.ofNat 64 (s.read loc 8)) r) ∧
         (s.remoteFull loc = false → ∃ t, exec (.stef o) s = .next t ∧ t.th.pc = s.th.pc ∧ t.th.status = .parked ∧
           t.th.park = .fullEmpty loc ∧ SameBytes s t ∧ t.feWait.length = 1)) ∧
       (s.isFull loc = false →
         (∃ t, exec (.stef o) s = .next t ∧ t.th.pc = s.th.nextPc ∧ t.isFull loc = true ∧ t.th.g = s.th.g ∧
           Stored s t loc 8 (s.g o.d).toNat) ∧
         (s.remoteFull loc = false → ∃ t, exec (.ldfe o) s = .next t ∧ t.th.pc = s.th.pc ∧ t.th.status = .parked ∧
           t.th.park = .fullEmpty loc ∧ SameBytes s t ∧ t.feWait.length = 1))) ∧
     (∀ (i : Instr) (regs : List Reg) (d : Reg), d.toNat < 32 →
       ((∃ o : LdffM, i = .ldff o ∧ regs = [o.d, o.base] ∧ ea = s.eaM o.base 3 o.off ∧ d = o.d) ∨
        (∃ o : LdffX, i = .ldffL2 o ∧ regs = o.d :: regsX o.base o.ix o.body ∧ ea = s.eaX o.base o.ix o.body ∧ d = o.d)) →
       Ready s regs →
       (s.isFull loc = true → ∃ t, exec i s = .next t ∧ t.th.pc = s.th.nextPc ∧ t.isFull loc = true ∧ SameBytes s t ∧
         ∀ r : Reg, r.toNat < 32 → t.g r = s.gWith d (BitVec.ofNat 64 (s.read loc 8)) r) ∧
       (s.isFull loc = false → s.remoteFull loc = false → ∃ t, exec i s = .next t ∧ t.th.pc = s.th.pc ∧ t.th.status = .parked ∧
         t.th.park = .fullEmpty loc ∧ t.th.g = s.th.g ∧ SameBytes s t ∧ t.isFull loc = false ∧
         ∃ w, t.feWait = [w] ∧ w.word = loc ∧ w.at_ = s.cid ∧ w.slot = s.cur ∧ w.kind = 1 ∧ w.d = d)) ∧
     (∀ (i : Instr) (regs : List Reg) (v : Bool),
       ((∃ o : FesetM, i = .feset o ∧ regs = [o.base] ∧ ea = s.eaM o.base 3 o.off ∧ v = (o.val == 1)) ∨
        (∃ o : FesetX, i = .fesetL2 o ∧ regs = regsX o.base o.ix o.body ∧ ea = s.eaX o.base o.ix o.body ∧ v = (o.val == 1))) →
       Ready s regs →
       ∃ t, exec i s = .next t ∧ t.th.pc = s.th.nextPc ∧ t.isFull loc = v ∧ t.th.g = s.th.g ∧ SameBytes s t)) ∧
  (∀ (s : State) (ea : Word) (loc : Nat) (k : Fin 4) (w : FeWaiter) (rest : List FeWaiter), Memory.wf s.mem = true → s.th.sb = [] →
     s.th.fstWaits = false → s.Unlisted → Plain loc → s.th.poisoned = false → Passes s ea 8 8 true [⟨loc, 8⟩] → isFeAddr ea.toNat = true →
     s.badRange loc 8 = false → s.feWait = w :: rest → (∀ x ∈ s.waitaQ, x.at_ = s.cid → x.slot ≠ k) → w.word = loc → w.at_ = s.cid → w.slot = k → k ≠ s.cur → w.d.toNat < 32 →
     s.bankHeld [⟨loc, 8⟩] (some (s.cid, k)) = false →
     let goesOn := fun (t : State) (f : Reg → Word) => t.feWait = rest ∧ (t.core.th k).status = .ready ∧
       (t.core.th k).pc = (s.core.th k).nextPc ∧ ∀ r : Reg, r.toNat < 32 → (t.core.th k).greg r = f r
     let gets := fun (v : Word) (r : Reg) => if r = w.d ∧ r ≠ 0 then v else (s.core.th k).greg r
     (∀ (o : FeX), Ready s (o.d :: regsX o.base o.ix o.body) → ea = s.eaX o.base o.ix o.body → s.isFull loc = false →
       (w.kind = 0 → (∀ x ∈ rest, x.word = loc → x.kind = 0 ∨ x.kind = 1) →
         ∃ t, exec (.stef o) s = .next t ∧ t.th.pc = s.th.nextPc ∧ t.th.g = s.th.g ∧ t.isFull loc = false ∧
           Stored s t loc 8 (s.g o.d).toNat ∧ goesOn t (gets (s.g o.d))) ∧
       (w.kind = 1 → (∀ x ∈ rest, x.word ≠ loc) →
         ∃ t, exec (.stef o) s = .next t ∧ t.th.pc = s.th.nextPc ∧ t.th.g = s.th.g ∧ t.isFull loc = true ∧
           Stored s t loc 8 (s.g o.d).toNat ∧ goesOn t (gets (s.g o.d)))) ∧
     (∀ (i : Instr) (regs : List Reg) (v : Bool),
       ((∃ o : FesetM, i = .feset o ∧ regs = [o.base] ∧ ea = s.eaM o.base 3 o.off ∧ v = (o.val == 1)) ∨
        (∃ o : FesetX, i = .fesetL2 o ∧ regs = regsX o.base o.ix o.body ∧ ea = s.eaX o.base o.ix o.body ∧ v = (o.val == 1))) →
       Ready s regs →
       (v = true → w.kind = 0 → (∀ x ∈ rest, x.word = loc → x.kind = 0 ∨ x.kind = 1) →
         ∃ t, exec i s = .next t ∧ t.th.pc = s.th.nextPc ∧ t.isFull loc = false ∧ SameBytes s t ∧
           goesOn t (gets (BitVec.ofNat 64 (s.read loc 8)))) ∧
       (v = false → w.kind = 2 → (∀ x ∈ rest, x.word = loc → x.kind = 2) →
         ∃ t, exec i s = .next t ∧ t.th.pc = s.th.nextPc ∧ t.isFull loc = true ∧ Stored s t loc 8 w.data.toNat ∧
           goesOn t (s.core.th k).greg))) ∧
  (∀ (s : State),
     (∀ o, Ready s [] → (s.th.sb = [] → s.th.fstWaits = false → Reads (exec (.fence o) s) s s.g) ∧
       (s.th.sb ≠ [] ∨ s.th.fstWaits = true → exec (.fence o) s = .next s.stall)) ∧
     (∀ (o : WaitaX) (loc : Nat), o.d.toNat < 32 → Ready s (o.d :: regsX o.base o.ix o.body) → s.th.sb = [] → s.th.fstWaits = false →
       let n := 2 ^ o.sz.toNat
       Passes s (s.eaX o.base o.ix o.body) n n false [⟨loc, n⟩] → s.badPart [⟨loc, n⟩] = none →
       let x := s.read loc n
       (x ≠ (s.g o.d).toNat % 2 ^ (8 * n) → ReadsSoon (exec (.waita o) s) s [⟨loc, n⟩] (s.gWith o.d
         (if o.zx = 1 then BitVec.ofNat 64 x else (BitVec.ofNat (8 * n) x).signExtend 64))) ∧
       (x = (s.g o.d).toNat % 2 ^ (8 * n) → Soon (exec (.waita o) s) s [⟨loc, n⟩] fun out => ∃ t, out = .next t ∧ t.th.status = .parked ∧
         t.th.park = .waita (loc / 8 * 8) (!isSram loc) ∧ t.th.pc = s.th.pc ∧ t.th.g = s.th.g ∧ SameBytes s t)) ∧
     (∀ o : PrefM, Ready s [o.base] → Reads (exec (.pref o) s) s s.g) ∧
     (∀ o : PrefX, Ready s (regsX o.base o.ix o.body) → Reads (exec (.prefL2 o) s) s s.g) ∧
     (∀ w, s.th.status = .parked → s.th.park = .waita w true →
       ∃ t, exec (.waitaPoll s.slotNo) s = .next t ∧ t.th.status = .ready ∧ t.th.pc = s.th.pc ∧ t.th.g = s.th.g) ∧
     (∀ w, s.th.status = .parked → s.th.park = .fullEmpty w → s.feWait = [] →
       ∃ t, exec (.feRemoteRetry s.slotNo) s = .next t ∧ t.th.status = .ready ∧ t.th.pc = s.th.pc ∧ t.th.g = s.th.g) ∧
     (∀ la pa, s.th.status = .missWait → s.th.miss = .line la → s.xlate s.fetcher { x := true } la = (.ok pa, s) →
       s.badRange pa 64 = false →
       ∃ t, exec (.lineFetchReturn s.slotNo) s = .next t ∧ t.th.status = .ready ∧ SameBytes s t ∧
         ⟨lineTag s.th.ctx la, Memory.bytes s.mem pa 64⟩ ∈ t.core.lines))

/-- Configuration of a stream unit that is not started (R166 to R169, R171): `sbind` writes a whole record, `sdim` one dimension, `sidx`
the index source, `sdir` the direction and the repeat count, `scoord` a coordinate pattern. Each of them, `sisect` and `sunion` raises
the stream-state trap when a unit it names is started, or has a KIND or legs that it does not take, and changes nothing. `sisect` and
`sunion` (R170): two affine read units become the legs of a third, which becomes an intersection or a union. Starting and stopping
(R173, R181): `sgo` starts each unit of its mask that passes the checks of Table 6.5, an output unit with its legs, a coordinate unit
with the element size of its volume; a started unit stays as it is; the first that fails traps, and those before it stay started. In a
handler the units are started and not read ahead. `sstop` stops each of the mask, with the legs of an output unit, and drops what it has
fetched; units that the mask does not name are as before. -/
def Obligations.StreamSetup : Prop :=
  (∀ (s : State),
     (∀ o : SbindO, o.u.toNat < 3 → Ready s [o.a] → (s.th.unit o.u.toNat).cfg.go = false →
       SetsRecord (exec (.sbind o) s) s o.u { addr := (s.g o.a).extractLsb' 0 48, kind := o.kind.setWidth 3, dir := o.dir
                                              esz := o.esz, dims := o.dims }) ∧
     (∀ (i : Instr) (us : List (BitVec 2)) (regs : List Reg), Ready s regs →
       ((∃ o : SbindO, i = .sbind o ∧ us = [o.u] ∧ regs = [o.a]) ∨ (∃ o : SdimR, i = .sdim o ∧ us = [o.u] ∧ regs = [o.a, o.b]) ∨
        (∃ o : SdimW, i = .sdimL3 o ∧ us = [o.u] ∧ regs = []) ∨ (∃ o : SidxR, i = .sidx o ∧ us = [o.u] ∧ regs = [o.a]) ∨
        (∃ o : SidxW, i = .sidxL3 o ∧ us = [o.u] ∧ regs = [o.a]) ∨ (∃ o : SdirO, i = .sdir o ∧ us = [o.u] ∧ regs = []) ∨
        (∃ o : ScoordO, i = .scoord o ∧ us = [o.u] ∧ regs = [o.a, o.b]) ∨
        (∃ o : SetO, (i = .sisect o ∨ i = .sunion o) ∧ us = [o.u, o.la, o.lb] ∧ regs = [])) →
       (∃ u ∈ us, (s.th.unit u.toNat).cfg.go = true) → exec i s = .next (s.illegal 8)) ∧
     (∀ (i : Instr) (u : BitVec 2) (regs : List Reg), Ready s regs → (let r := (s.th.unit u.toNat).cfg
       (∃ o : SdimR, i = .sdim o ∧ u = o.u ∧ regs = [o.a, o.b] ∧ (r.kind.toNat ∈ [0, 4, 5, 6] ∨ r.kind = 2 ∧ 2 ≤ o.k.toNat)) ∨
       (∃ o : SdimW, i = .sdimL3 o ∧ u = o.u ∧ regs = [] ∧ (r.kind.toNat ∈ [0, 4, 5, 6] ∨ r.kind = 2 ∧ 2 ≤ o.k.toNat)) ∨
       (∃ o : SidxR, i = .sidx o ∧ u = o.u ∧ regs = [o.a] ∧ r.kind ≠ 2) ∨ (∃ o : SidxW, i = .sidxL3 o ∧ u = o.u ∧ regs = [o.a] ∧ r.kind ≠ 2) ∨
       (∃ o : SdirO, i = .sdir o ∧ u = o.u ∧ regs = [] ∧ r.kind.toNat ∉ [1, 2, 3, 6]) ∨
       (∃ o : SetO, (i = .sisect o ∨ i = .sunion o) ∧ u = o.u ∧ regs = [] ∧ ∃ l ∈ [o.la, o.lb], let q := (s.th.unit l.toNat).cfg
         q.kind ≠ 1 ∨ q.dir = 1 ∨ q.esz.toNat < 2 ∨ q.rpt ≠ 0)) → exec i s = .next (s.illegal 8)) ∧
     (∀ (i : Instr) (u k : BitVec 2) (regs : List Reg) (bound : BitVec 16) (stride : BitVec 32), u.toNat < 3 → Ready s regs →
       ((∃ o : SdimR, i = .sdim o ∧ u = o.u ∧ k = o.k ∧ regs = [o.a, o.b] ∧ bound = (s.g o.a).extractLsb' 0 16 - 1 ∧
           stride = (s.g o.b).extractLsb' 0 32) ∨
        (∃ o : SdimW, i = .sdimL3 o ∧ u = o.u ∧ k = o.k ∧ regs = [] ∧ bound = o.cnt ∧ stride = o.stride.signExtend 32)) →
       let r := (s.th.unit u.toNat).cfg
       r.go = false → (r.kind = 1 ∨ r.kind = 3 ∨ (r.kind = 2 ∧ k.toNat < 2)) →
       ∃ q, SetsRecord (exec i s) s u q ∧ q.bound k.toNat = bound.toNat ∧ q.stride k.toNat = stride.toInt ∧
         (∀ j < 4, j ≠ k.toNat → q.bound j = r.bound j ∧ q.stride j = r.stride j) ∧ q.addr = r.addr ∧ q.kind = r.kind ∧
         q.dims = r.dims ∧ q.esz = r.esz ∧ q.dir = r.dir) ∧
     (∀ (i : Instr) (u : BitVec 2) (regs : List Reg) (base : Word) (ish : BitVec 3) (isz : BitVec 1), u.toNat < 3 → Ready s regs →
       ((∃ o : SidxR, i = .sidx o ∧ u = o.u ∧ regs = [o.a] ∧ base = s.g o.a ∧ ish = o.ish ∧ isz = o.isz) ∨
        (∃ o : SidxW, i = .sidxL3 o ∧ u = o.u ∧ regs = [o.a] ∧ base = s.g o.a + o.imm.signExtend 64 ∧ ish = o.ish ∧ isz = o.isz)) →
       let r := (s.th.unit u.toNat).cfg
       r.go = false → r.kind = 2 →
       SetsRecord (exec i s) s u { r with aux :=
         0#12 ++ isz ++ ish ++ base.extractLsb' 0 48 ++ r.aux.extractLsb' 0 64 }) ∧
     (∀ o : SdirO, o.u.toNat < 3 → Ready s [] →
       let r := (s.th.unit o.u.toNat).cfg
       r.go = false → (r.kind = 1 ∨ r.kind = 2 ∨ r.kind = 3 ∨ r.kind = 6) →
       SetsRecord (exec (.sdir o) s) s o.u { r with dir := o.dir, rpt := o.rpt }) ∧
     (∀ o : ScoordO, o.u.toNat < 3 → Ready s [o.a, o.b] →
       let r := (s.th.unit o.u.toNat).cfg
       let box := s.g o.b
       r.go = false →
       SetsRecord (exec (.scoord o) s) s o.u
         { r with kind := 6, dims := 2, dir := o.dir, rpt := 0, rcnt := 0, idx0 := 0, idx1 := 0, idx2 := 0, idx3 := 0, done := false
                  leg := false, aux := 0#62 ++ o.cs ++ 0#1 ++ (s.g o.a).extractLsb' 0 63, bound0 := box.extractLsb' 0 16
                  bound1 := box.extractLsb' 16 16, bound2 := box.extractLsb' 32 16 })) ∧
  (∀ (s : State) (o : SetO) (i : Instr) (kind : BitVec 3), ((i = .sisect o ∧ kind = 4) ∨ (i = .sunion o ∧ kind = 5)) →
     o.u.toNat < 3 → o.la.toNat < 3 → o.lb.toNat < 3 → o.u ≠ o.la → o.u ≠ o.lb → o.la ≠ o.lb → Ready s [] →
     (∀ k < 3, (s.th.unit k).cfg.go = false) → (s.th.unit o.la.toNat).cfg.legOk = true → (s.th.unit o.lb.toNat).cfg.legOk = true →
     ∃ t, exec i s = .next t ∧ OnlyThread s t ∧ t.th.pc = s.th.nextPc ∧ t.th.g = s.th.g ∧ s.th.KeepsRegs t.th ∧
       (let r := (t.th.unit o.u.toNat).cfg
        r.kind = kind ∧ r.esz = 3 ∧ r.dir = 0 ∧ r.done = false ∧ r.legA = o.la.toNat ∧ r.legB = o.lb.toNat ∧ r.cnt = (o.cnt == 1)) ∧
       (t.th.unit o.la.toNat).cfg = { (s.th.unit o.la.toNat).cfg with leg := true } ∧
       (t.th.unit o.lb.toNat).cfg = { (s.th.unit o.lb.toNat).cfg with leg := true }) ∧
  (∀ (s : State) (o : Units), Ready s [] →
     ((∀ u < 3, o.m.getLsbD u = true → (s.th.unit u).cfg.go = false ∧ s.th.startFails u = 0 ∧ isOutput (s.th.unit u).cfg = false ∧
         (s.th.unit u).cfg.kind ≠ 6) → s.th.inHandler = false →
       ∃ t, exec (.sgo o) s = .next t ∧ OnlyThread s t ∧ t.th.pc = s.th.nextPc ∧ t.th.g = s.th.g ∧ s.th.KeepsRegs t.th ∧
         ∀ u < 3, if o.m.getLsbD u = true then
             (t.th.unit u).cfg = { (s.th.unit u).cfg with go := true, en := true } ∧ (t.th.unit u).live = true ∧
               (t.th.unit u).fetched = []
           else t.th.unit u = s.th.unit u) ∧
     (∀ u < 3, o.m = 1#3 <<< u → let r := (s.th.unit u).cfg
       (r.go = true → CompletesOnly (exec (.sgo o) s) s) ∧
       (r.go = false → s.th.inHandler = true → s.th.startFails u = 0 → isOutput r = false →
         GoesOn (exec (.sgo o) s) s fun t => (t.th.unit u).cfg.go = true ∧ (t.th.unit u).live = false) ∧
       (r.go = false → s.th.inHandler = false → r.leg = false →
         (r.kind = 6 → volOn (s.th.vol r.cslot) = true → GoesOn (exec (.sgo o) s) s fun t => (t.th.unit u).live = true ∧
           (t.th.unit u).cfg = { r with go := true, en := true, esz := BitVec.ofNat 2 (volEsz (s.th.vol r.cslot)) }) ∧
         (r.kind = 4 ∨ r.kind = 5 → r.legA < 3 → r.legB < 3 → r.legA ≠ r.legB → r.legA ≠ u → r.legB ≠ u →
           (∀ l ∈ [r.legA, r.legB], (s.th.unit l).cfg.leg = true ∧ (s.th.unit l).cfg.kind = 1) →
           GoesOn (exec (.sgo o) s) s fun t => (t.th.unit u).live = true ∧ (t.th.unit u).cfg = { r with go := true, en := true } ∧
             ∀ l ∈ [r.legA, r.legB], (t.th.unit l).live = true ∧ (t.th.unit l).fetched = [] ∧
               (t.th.unit l).cfg = { (s.th.unit l).cfg with go := true, en := false })) ∧
       (r.go = false → r.kind = 0 ∨ r.leg = true ∨ (r.kind = 4 ∨ r.kind = 5) ∧ ((s.th.unit r.legA).cfg.leg = false ∨ (s.th.unit r.legB).cfg.leg = false) ∨
           r.kind = 6 ∧ volOn (s.th.vol r.cslot) = false → exec (.sgo o) s = .next (s.illegal 8)) ∧
       (r.go = false → r.kind = 3 → r.leg = false → spaceOf r.addr.toNat ∈ [Space.paged, .cq, .none] →
         exec (.sgo o) s = .next (s.trapAt 1 7 (tinfoMem r.addr.toNat (if r.dir = 1 then .store else .load) 3)))) ∧
     (∀ u w, u < w → w < 3 → o.m = (1#3 <<< u ||| 1#3 <<< w) → (s.th.unit u).cfg.go = false → s.th.startFails u = 0 →
       isOutput (s.th.unit u).cfg = false → (s.th.unit w).cfg.go = false → ((s.th.unit w).cfg.kind = 0 ∨ (s.th.unit w).cfg.leg = true) →
       ∃ t : State, exec (.sgo o) s = .next (t.illegal 8) ∧ OnlyThread s t ∧ t.th.pc = s.th.pc ∧ (t.th.unit u).cfg.go = true ∧
         (t.th.unit w).cfg.go = false) ∧
     (∀ u < 3, o.m = 1#3 <<< u → let r := (s.th.unit u).cfg
       isOutput r = true → s.th.rep.act = false → s.th.fq = [] →
       GoesOn (exec (.sstop o) s) s fun t => ∀ l < 3, if l = u ∨ l = r.legA % 3 ∨ l = r.legB % 3 then
           (t.th.unit l).cfg = { (s.th.unit l).cfg with go := false, en := false } ∧ (t.th.unit l).live = false ∧ (t.th.unit l).fetched = []
         else t.th.unit l = s.th.unit l) ∧
     ((∀ u < 3, isOutput (s.th.unit u).cfg = false) → s.th.rep.act = false → s.th.fq = [] →
       ∃ t, exec (.sstop o) s = .next t ∧ t.th.pc = s.th.nextPc ∧ t.th.g = s.th.g ∧ s.th.KeepsRegs t.th ∧ SameBytes s t ∧
         ∀ u < 3, if o.m.getLsbD u = true then
             (t.th.unit u).cfg = { (s.th.unit u).cfg with go := false, en := false } ∧ (t.th.unit u).live = false ∧
               (t.th.unit u).fetched = []
           else t.th.unit u = s.th.unit u))

/-- Positions (R173): on an affine unit, `spos` goes to a position and `sskip` on from the present one, dropping what it passes; `sstat`
gives the position, or bits [63:48] of the record. That `sskip` of more than 0 clears the element's repeat count RCNT is the model's
choice (log 70). `ssave` and `sload` (R173, R174): the record goes out as five 8-byte stores, and comes back stopped; a record that
holds a reserved value, or a started unit, raises the stream-state trap. Which records `sload` refuses (`recordOk`: what `sbind` and
R174 refuse, and nothing else) is the model's choice (log 20). -/
def Obligations.StreamRecords : Prop :=
  (∀ (s : State) (o : UnitG), o.u.toNat < 3 → Ready s [o.a] → s.th.rep.act = false → s.th.fq = [] →
     let x := s.th.unit o.u.toNat
     x.cfg.kind = 1 → x.cfg.leg = false →
     (∃ t, exec (.spos o) s = .next t ∧ t.th.pc = s.th.nextPc ∧ t.th.g = s.th.g ∧ SameBytes s t ∧ s.th.KeepsRegs t.th ∧
       (t.th.unit o.u.toNat).cfg = x.cfg.setPosition (s.g o.a).toNat ∧ (t.th.unit o.u.toNat).fetched = []) ∧
     (x.cfg.dir = 0 → x.cfg.done = false → s.g o.a ≠ 0 →
       ∃ t, exec (.sskip o) s = .next t ∧ t.th.pc = s.th.nextPc ∧ t.th.g = s.th.g ∧ SameBytes s t ∧ s.th.KeepsRegs t.th ∧
         (t.th.unit o.u.toNat).cfg = x.cfg.setPosition (x.cfg.position + (s.g o.a).toNat) ∧
         (t.th.unit o.u.toNat).fetched = x.fetched.drop (s.g o.a).toNat) ∧
     (o.a.toNat < 32 →
       CompletesG (exec (.sstatPos o) s) s o.a (BitVec.ofNat 64 (if x.cfg.done then x.cfg.total else x.cfg.position)) ∧
       CompletesG (exec (.sstatSt o) s) s o.a (BitVec.ofNat 64 (bits x.record.pack 48 16)))) ∧
  (∀ (s : State) (u : BitVec 2) (i j : Instr) (regs : List Reg) (ea : Word) (ps : List Part), let qs := wordParts ps; u.toNat < 3 → Ready s regs →
     ((∃ o : UnitM, i = .ssave o ∧ j = .sload o ∧ u = o.u ∧ regs = [o.base] ∧ ea = s.eaM o.base 3 o.off) ∨
      (∃ o : UnitX, i = .ssaveL2 o ∧ j = .sloadL2 o ∧ u = o.u ∧ regs = regsX o.base o.ix o.body ∧ ea = s.eaX o.base o.ix o.body)) →
     (∀ l : Nat → Nat, qs = (List.range 5).map (fun k => ⟨l k, 8⟩) → (∀ k < 5, l k % 8 = 0) → Passes s ea 40 8 true ps →
       s.bankHeld qs (some (s.cid, s.cur)) = false → s.th.rep.act = false → s.th.fq = [] → s.th.sb = [] →
       ∃ t, exec i s = .next t ∧ t.th.pc = s.th.nextPc ∧ t.th.g = s.th.g ∧ SameBytes s t ∧ t.th.units = s.th.units ∧
         t.th.sb.map (fun e => (e.word, e.mask)) = (List.range 5).map (fun k => (l k, 255)) ∧
         t.th.sb.map (fun e => e.data) =
           (List.range 5).map (fun k => BitVec.ofNat 64 ((s.th.unit u.toNat).record.pack / 2 ^ (64 * k)))) ∧
     (Passes s ea 40 8 false ps → s.bankHeld qs (some (s.cid, s.cur)) = false → s.badPart qs = none → s.th.fstAway = false →
       s.th.forward qs = .none → (s.th.unit u.toNat).cfg.go = false →
       (recordOk (s.readParts qs) = true → Soon (exec j s) s qs fun o =>
         ∃ t, o = .next t ∧ t.th.pc = s.th.nextPc ∧ t.th.g = s.th.g ∧ SameBytes s t ∧ s.th.KeepsRegs t.th ∧
           (t.th.unit u.toNat).cfg = { streamRecOf (s.readParts qs) with en := false, go := false }) ∧
       (recordOk (s.readParts qs) = false → s.near qs = true → exec j s = .next ((s.meterParts qs).illegal 8))))

/-- A started read unit fetches its next element into what it has read ahead, and moves nothing else (R178, R161, R163): an affine unit
the bytes at its next address, or the fault that is recorded for it (Table 6.7), a ring the next full word, an intersection the value
that both legs stand at. An F instruction that names a started read unit takes one element for all its positions, and the element leaves
with its commit (R156): here `pmov`, whose result is the element. -/
def Obligations.StreamElements : Prop :=
  (∀ (s : State) (u : BitVec 2), u.toNat < 3 →
     let x := s.th.unit u.toNat
     s.reads u.toNat (fun _ => true) = true → x.cfg.done = false →
     (x.fetched = [] → x.consumed = 0 → x.cfg.kind = 1 → ∀ f, x.faulted = some (x.cfg.position, f) →
       ∃ t, exec (.streamRead s.slotNo u) s = .next t ∧ t.th.pc = s.th.pc ∧ t.th.g = s.th.g ∧ SameBytes s t ∧
         (t.th.unit u.toNat).fetched.map (·.fault) = [some f]) ∧
     (x.fetched = [] → x.consumed = 0 → x.cfg.kind = 1 → x.faulted = none → ∀ (ea : Nat) (loc : Nat),
       let n := 2 ^ x.cfg.esz.toNat
       x.cfg.affineAddr = (ea : Int) → ea + n ≤ 2 ^ 48 → ea % n = 0 →
       s.find (s.streamWho u.toNat) {} ea n = (.parts [⟨loc, n⟩], s) → s.badPart [⟨loc, n⟩] = none →
       s.bankHeld [⟨loc, n⟩] (some (s.cid, s.cur)) = false →
       ∃ t, exec (.streamRead s.slotNo u) s = .next t ∧ t.th.pc = s.th.pc ∧ t.th.g = s.th.g ∧ SameBytes s t ∧
         (t.th.unit u.toNat).cfg = x.cfg ∧
         (t.th.unit u.toNat).fetched.map (·.val) = [BitVec.ofNat 64 (s.read loc n)]) ∧
     (x.fetched = [] → x.cfg.kind = 3 → x.faulted = none → ∀ loc,
       s.find (s.streamWho u.toNat) {} (x.cfg.addr.toNat + 8 * x.cfg.idx0.toNat) 8 = (.parts [⟨loc, 8⟩], s) →
       x.cfg.addr.toNat + 8 * x.cfg.idx0.toNat + 8 ≤ 2 ^ 48 → (x.cfg.addr.toNat + 8 * x.cfg.idx0.toNat) % 8 = 0 →
       s.badPart [⟨loc, 8⟩] = none → s.bankHeld [⟨loc, 8⟩] (some (s.cid, s.cur)) = false →
       (∀ k < 3, isOutput (s.th.unit k).cfg = true → (s.th.unit k).cfg.legA % 3 ≠ u.toNat ∧ (s.th.unit k).cfg.legB % 3 ≠ u.toNat) →
       (s.isFull loc = true → ∃ t, exec (.ringFetch s.slotNo u) s = .next t ∧ SameBytes s t ∧ t.isFull loc = true ∧
         (t.th.unit u.toNat).fetched.map (·.val) = [BitVec.ofNat 64 (s.read loc 8)]) ∧
       (s.isFull loc = false → exec (.ringFetch s.slotNo u) s = .next s)) ∧
     (x.fetched = [] → x.cfg.kind = 4 → x.cfg.cnt = false → ∀ v : Nat,
       (s.th.unit x.cfg.legA).legAt = .next v → (s.th.unit x.cfg.legB).legAt = .next v → x.cfg.legA ≠ x.cfg.legB →
       x.cfg.legA ≠ u.toNat → x.cfg.legB ≠ u.toNat → x.cfg.legA < 3 → x.cfg.legB < 3 →
       ∃ t, exec (.setOpPass s.slotNo u) s = .next t ∧ SameBytes s t ∧ t.th.pc = s.th.pc ∧
         (t.th.unit u.toNat).fetched.map (·.val) = [BitVec.ofNat 64 v] ∧
         (t.th.unit x.cfg.legA).consumed = (s.th.unit x.cfg.legA).consumed + 1 ∧
         (t.th.unit x.cfg.legB).consumed = (s.th.unit x.cfg.legB).consumed + 1)) ∧
  (∀ (s : State) (e : FEntry) (x : Elem) (rest : List Elem) (d a : Reg), d.toNat < 48 → 3 ≤ d.toNat → a.toNat < 3 →
     e.raw = { op := 0x90, d := d, a := a } → e.st = .waiting → e.bound.getLsbD a.toNat = true →
     (∀ k < 3, k ≠ a.toNat → e.bound.getLsbD k = false) →
     FIdle { s.modTh (fun t => { t with fq := [], units := t.units.map fun u => { u with cfg := { u.cfg with en := false } } }) with } →
     s.th.fq = [e] →
     let u := s.th.unit a.toNat
     u.cfg.kind = 1 → u.cfg.done = false → u.cfg.rpt = 0 → u.cfg.rcnt = 0 → u.taken = 0 → u.fetched = x :: rest → x.fault = none →
     ∃ t v, exec (.fIssue s.slotNo) s = .next t ∧ (t.th.unit a.toNat).fetched = x :: rest ∧ (t.th.unit a.toNat).taken = 1 ∧
       exec (.fCommit s.slotNo) t = .next v ∧ v.th.fq = [] ∧ (v.th.unit a.toNat).fetched = rest ∧ (v.th.unit a.toNat).taken = 0 ∧
       (v.th.unit a.toNat).cfg = u.cfg.advance ∧ v.th.vreg d.toNat = x.val ∧ SameBytes s v)

/-- Scalar sums, products, fused products, minimum and maximum (R192 to R194), in every precision and tail form: what each computes from
its sources is written to D at its commit, with its flags. The minimum and the maximum are one of the sources, -0 below +0, or the
canonical NaN of two NaN, with NV for a signalling one (R194). Sign operations, compares into a `g` register and classes (R195 to R197),
lane by lane, with the value of each written out: the sign inverted, cleared or taken from B, a NaN becoming the canonical one; the
truth of the relation, false of a NaN but for unordered, with NV for a NaN (less than, less or equal) or a signalling one; the class of
Table 7.5. -/
def Obligations.ScalarFloat : Prop :=
  (∀ s : State, FIdle s →
     (∀ o : FP3, FRegs [o.d, o.a, o.b] → 
       RunsF (exec (.fadd o) s) s { op := 0x70, d := o.d, a := o.a, b := o.b, m8 := o.pr.setWidth 8 } 0) ∧
     (∀ o : FP3R, FRegs [o.d, o.a, o.b] → 
       RunsF (exec (.faddL2 o) s) s { op := 0x70, d := o.d, a := o.a, b := o.b, m8 := 0#1 ++ o.rnd ++ 0#2 ++ o.pr, hold := o.h.setWidth 3 } 0) ∧
     (∀ o : FP3, FRegs [o.d, o.a, o.b] → 
       RunsF (exec (.fsub o) s) s { op := 0x71, d := o.d, a := o.a, b := o.b, m8 := o.pr.setWidth 8 } 0) ∧
     (∀ o : FP3R, FRegs [o.d, o.a, o.b] → 
       RunsF (exec (.fsubL2 o) s) s { op := 0x71, d := o.d, a := o.a, b := o.b, m8 := 0#1 ++ o.rnd ++ 0#2 ++ o.pr, hold := o.h.setWidth 3 } 0) ∧
     (∀ o : FP3, FRegs [o.d, o.a, o.b] → 
       RunsF (exec (.fmul o) s) s { op := 0x72, d := o.d, a := o.a, b := o.b, m8 := o.pr.setWidth 8 } 0) ∧
     (∀ o : FP3R, FRegs [o.d, o.a, o.b] → 
       RunsF (exec (.fmulL2 o) s) s { op := 0x72, d := o.d, a := o.a, b := o.b, m8 := 0#1 ++ o.rnd ++ 0#2 ++ o.pr, hold := o.h.setWidth 3 } 0) ∧
     (∀ o : FP4R, FRegs [o.d, o.a, o.b, o.c] → 
       RunsF (exec (.fma o) s) s { op := 0x73, d := o.d, a := o.a, b := o.b, c := o.c, m8 := 0#1 ++ o.rnd ++ 0#2 ++ o.pr, hold := o.h.setWidth 3 } 0) ∧
     (∀ o : FP4R, FRegs [o.d, o.a, o.b, o.c] → 
       RunsF (exec (.fms o) s) s { op := 0x73, d := o.d, a := o.a, b := o.b, c := o.c, m8 := 0#1 ++ o.rnd ++ 0#2 ++ o.pr, sub := 1, hold := o.h.setWidth 3 } 0) ∧
     (∀ o : FP4R, FRegs [o.d, o.a, o.b, o.c] → 
       RunsF (exec (.fnma o) s) s { op := 0x73, d := o.d, a := o.a, b := o.b, c := o.c, m8 := 0#1 ++ o.rnd ++ 0#2 ++ o.pr, sub := 2, hold := o.h.setWidth 3 } 0) ∧
     (∀ o : FP4R, FRegs [o.d, o.a, o.b, o.c] → 
       RunsF (exec (.fnms o) s) s { op := 0x73, d := o.d, a := o.a, b := o.b, c := o.c, m8 := 0#1 ++ o.rnd ++ 0#2 ++ o.pr, sub := 3, hold := o.h.setWidth 3 } 0) ∧
     (∀ o : FP3, FRegs [o.d, o.a, o.b] → 
       EndsF (exec (.fmin o) s) s { op := 0x74, d := o.d, a := o.a, b := o.b, m8 := o.pr.setWidth 8 } 0
         (perLane o.pr (s.th.vreg o.a.toNat) (s.th.vreg o.b.toNat) fun ew mw a b =>
           if fpNan ew mw a then (if fpNan ew mw b then fpQuiet ew mw else b) else if fpNan ew mw b then a else
             let key := fun c => 2 * fpOrd ew mw c - if fpNeg ew mw c then 1 else 0
             if key a ≤ key b then a else b) 0
         (nvIf ((fpLanes o.pr (s.th.vreg o.a.toNat) (s.th.vreg o.b.toNat)).any fun (ew, mw, a, b) => fpSig ew mw a || fpSig ew mw b))) ∧
     (∀ o : FP3H, FRegs [o.d, o.a, o.b] → 
       EndsF (exec (.fminL2 o) s) s { op := 0x74, d := o.d, a := o.a, b := o.b, m8 := o.pr.setWidth 8, hold := o.h.setWidth 3 } 0
         (perLane o.pr (s.th.vreg o.a.toNat) (s.th.vreg o.b.toNat) fun ew mw a b =>
           if fpNan ew mw a then (if fpNan ew mw b then fpQuiet ew mw else b) else if fpNan ew mw b then a else
             let key := fun c => 2 * fpOrd ew mw c - if fpNeg ew mw c then 1 else 0
             if key a ≤ key b then a else b) 0
         (nvIf ((fpLanes o.pr (s.th.vreg o.a.toNat) (s.th.vreg o.b.toNat)).any fun (ew, mw, a, b) => fpSig ew mw a || fpSig ew mw b))) ∧
     (∀ o : FP3, FRegs [o.d, o.a, o.b] → 
       EndsF (exec (.fmax o) s) s { op := 0x75, d := o.d, a := o.a, b := o.b, m8 := o.pr.setWidth 8 } 0
         (perLane o.pr (s.th.vreg o.a.toNat) (s.th.vreg o.b.toNat) fun ew mw a b =>
           if fpNan ew mw a then (if fpNan ew mw b then fpQuiet ew mw else b) else if fpNan ew mw b then a else
             let key := fun c => 2 * fpOrd ew mw c - if fpNeg ew mw c then 1 else 0
             if key a ≥ key b then a else b) 0
         (nvIf ((fpLanes o.pr (s.th.vreg o.a.toNat) (s.th.vreg o.b.toNat)).any fun (ew, mw, a, b) => fpSig ew mw a || fpSig ew mw b))) ∧
     (∀ o : FP3H, FRegs [o.d, o.a, o.b] → 
       EndsF (exec (.fmaxL2 o) s) s { op := 0x75, d := o.d, a := o.a, b := o.b, m8 := o.pr.setWidth 8, hold := o.h.setWidth 3 } 0
         (perLane o.pr (s.th.vreg o.a.toNat) (s.th.vreg o.b.toNat) fun ew mw a b =>
           if fpNan ew mw a then (if fpNan ew mw b then fpQuiet ew mw else b) else if fpNan ew mw b then a else
             let key := fun c => 2 * fpOrd ew mw c - if fpNeg ew mw c then 1 else 0
             if key a ≥ key b then a else b) 0
         (nvIf ((fpLanes o.pr (s.th.vreg o.a.toNat) (s.th.vreg o.b.toNat)).any fun (ew, mw, a, b) => fpSig ew mw a || fpSig ew mw b)))) ∧
  (∀ s : State, FIdle s →
     (∀ o : FP2, FRegs [o.d, o.a] → 
       EndsF (exec (.fneg o) s) s { op := 0x76, d := o.d, a := o.a, m8 := o.pr.setWidth 8 } 0
         (perLane o.pr (s.th.vreg o.a.toNat) 0 fun ew mw a _ => if fpNan ew mw a then fpQuiet ew mw else a % 2 ^ (ew + mw) + (if fpNeg ew mw a then 0 else 2 ^ (ew + mw))) 0 0) ∧
     (∀ o : FP2H, FRegs [o.d, o.a] → 
       EndsF (exec (.fnegL2 o) s) s { op := 0x76, d := o.d, a := o.a, m8 := o.pr.setWidth 8, hold := o.h.setWidth 3 } 0
         (perLane o.pr (s.th.vreg o.a.toNat) 0 fun ew mw a _ => if fpNan ew mw a then fpQuiet ew mw else a % 2 ^ (ew + mw) + (if fpNeg ew mw a then 0 else 2 ^ (ew + mw))) 0 0) ∧
     (∀ o : FP2H, FRegs [o.d, o.a] → 
       EndsF (exec (.fabs o) s) s { op := 0x76, d := o.d, a := o.a, m8 := o.pr.setWidth 8, sub := 1, hold := o.h.setWidth 3 } 0
         (perLane o.pr (s.th.vreg o.a.toNat) 0 fun ew mw a _ => if fpNan ew mw a then fpQuiet ew mw else a % 2 ^ (ew + mw)) 0 0) ∧
     (∀ o : FP3H, FRegs [o.d, o.a, o.b] → 
       EndsF (exec (.fcpsgn o) s) s { op := 0x76, d := o.d, a := o.a, b := o.b, m8 := o.pr.setWidth 8, sub := 2, hold := o.h.setWidth 3 } 0
         (perLane o.pr (s.th.vreg o.a.toNat) (s.th.vreg o.b.toNat) fun ew mw a b => if fpNan ew mw a then fpQuiet ew mw else a % 2 ^ (ew + mw) + (if fpNeg ew mw b then 2 ^ (ew + mw) else 0)) 0 0) ∧
     (∀ o : FC3, FRegs [o.a, o.b] → o.d.toNat < 32 → 
       EndsF (exec (.feq o) s) s { op := 0x77, d := o.d, a := o.a, b := o.b, m8 := 0#4 ++ 0#2 ++ o.pr } 0
         0 (BitVec.ofNat 64 (joined 1 ((fpLanes o.pr (s.th.vreg o.a.toNat) (s.th.vreg o.b.toNat)).map fun (ew, mw, a, b) => if !(fpNan ew mw a || fpNan ew mw b) && decide (fpOrd ew mw a = fpOrd ew mw b) then 1 else 0)))
         (nvIf ((fpLanes o.pr (s.th.vreg o.a.toNat) (s.th.vreg o.b.toNat)).any fun (ew, mw, a, b) => fpSig ew mw a || fpSig ew mw b))) ∧
     (∀ o : FC3H, FRegs [o.a, o.b] → o.d.toNat < 32 → 
       EndsF (exec (.feqL2 o) s) s { op := 0x77, d := o.d, a := o.a, b := o.b, m8 := 0#4 ++ 0#2 ++ o.pr, hold := o.h.setWidth 3 } 0
         0 (BitVec.ofNat 64 (joined 1 ((fpLanes o.pr (s.th.vreg o.a.toNat) (s.th.vreg o.b.toNat)).map fun (ew, mw, a, b) => if !(fpNan ew mw a || fpNan ew mw b) && decide (fpOrd ew mw a = fpOrd ew mw b) then 1 else 0)))
         (nvIf ((fpLanes o.pr (s.th.vreg o.a.toNat) (s.th.vreg o.b.toNat)).any fun (ew, mw, a, b) => fpSig ew mw a || fpSig ew mw b))) ∧
     (∀ o : FC3, FRegs [o.a, o.b] → o.d.toNat < 32 → 
       EndsF (exec (.flt o) s) s { op := 0x77, d := o.d, a := o.a, b := o.b, m8 := 0#4 ++ 1#2 ++ o.pr } 0
         0 (BitVec.ofNat 64 (joined 1 ((fpLanes o.pr (s.th.vreg o.a.toNat) (s.th.vreg o.b.toNat)).map fun (ew, mw, a, b) => if !(fpNan ew mw a || fpNan ew mw b) && decide (fpOrd ew mw a < fpOrd ew mw b) then 1 else 0)))
         (nvIf ((fpLanes o.pr (s.th.vreg o.a.toNat) (s.th.vreg o.b.toNat)).any fun (ew, mw, a, b) => fpNan ew mw a || fpNan ew mw b))) ∧
     (∀ o : FC3H, FRegs [o.a, o.b] → o.d.toNat < 32 → 
       EndsF (exec (.fltL2 o) s) s { op := 0x77, d := o.d, a := o.a, b := o.b, m8 := 0#4 ++ 1#2 ++ o.pr, hold := o.h.setWidth 3 } 0
         0 (BitVec.ofNat 64 (joined 1 ((fpLanes o.pr (s.th.vreg o.a.toNat) (s.th.vreg o.b.toNat)).map fun (ew, mw, a, b) => if !(fpNan ew mw a || fpNan ew mw b) && decide (fpOrd ew mw a < fpOrd ew mw b) then 1 else 0)))
         (nvIf ((fpLanes o.pr (s.th.vreg o.a.toNat) (s.th.vreg o.b.toNat)).any fun (ew, mw, a, b) => fpNan ew mw a || fpNan ew mw b))) ∧
     (∀ o : FC3, FRegs [o.a, o.b] → o.d.toNat < 32 → 
       EndsF (exec (.fle o) s) s { op := 0x77, d := o.d, a := o.a, b := o.b, m8 := 0#4 ++ 2#2 ++ o.pr } 0
         0 (BitVec.ofNat 64 (joined 1 ((fpLanes o.pr (s.th.vreg o.a.toNat) (s.th.vreg o.b.toNat)).map fun (ew, mw, a, b) => if !(fpNan ew mw a || fpNan ew mw b) && decide (fpOrd ew mw a ≤ fpOrd ew mw b) then 1 else 0)))
         (nvIf ((fpLanes o.pr (s.th.vreg o.a.toNat) (s.th.vreg o.b.toNat)).any fun (ew, mw, a, b) => fpNan ew mw a || fpNan ew mw b))) ∧
     (∀ o : FC3H, FRegs [o.a, o.b] → o.d.toNat < 32 → 
       EndsF (exec (.fleL2 o) s) s { op := 0x77, d := o.d, a := o.a, b := o.b, m8 := 0#4 ++ 2#2 ++ o.pr, hold := o.h.setWidth 3 } 0
         0 (BitVec.ofNat 64 (joined 1 ((fpLanes o.pr (s.th.vreg o.a.toNat) (s.th.vreg o.b.toNat)).map fun (ew, mw, a, b) => if !(fpNan ew mw a || fpNan ew mw b) && decide (fpOrd ew mw a ≤ fpOrd ew mw b) then 1 else 0)))
         (nvIf ((fpLanes o.pr (s.th.vreg o.a.toNat) (s.th.vreg o.b.toNat)).any fun (ew, mw, a, b) => fpNan ew mw a || fpNan ew mw b))) ∧
     (∀ o : FC3, FRegs [o.a, o.b] → o.d.toNat < 32 → 
       EndsF (exec (.funo o) s) s { op := 0x77, d := o.d, a := o.a, b := o.b, m8 := 0#4 ++ 3#2 ++ o.pr } 0
         0 (BitVec.ofNat 64 (joined 1 ((fpLanes o.pr (s.th.vreg o.a.toNat) (s.th.vreg o.b.toNat)).map fun (ew, mw, a, b) => if fpNan ew mw a || fpNan ew mw b then 1 else 0)))
         (nvIf ((fpLanes o.pr (s.th.vreg o.a.toNat) (s.th.vreg o.b.toNat)).any fun (ew, mw, a, b) => fpSig ew mw a || fpSig ew mw b))) ∧
     (∀ o : FC3H, FRegs [o.a, o.b] → o.d.toNat < 32 → 
       EndsF (exec (.funoL2 o) s) s { op := 0x77, d := o.d, a := o.a, b := o.b, m8 := 0#4 ++ 3#2 ++ o.pr, hold := o.h.setWidth 3 } 0
         0 (BitVec.ofNat 64 (joined 1 ((fpLanes o.pr (s.th.vreg o.a.toNat) (s.th.vreg o.b.toNat)).map fun (ew, mw, a, b) => if fpNan ew mw a || fpNan ew mw b then 1 else 0)))
         (nvIf ((fpLanes o.pr (s.th.vreg o.a.toNat) (s.th.vreg o.b.toNat)).any fun (ew, mw, a, b) => fpSig ew mw a || fpSig ew mw b))) ∧
     (∀ o : FC2, FRegs [o.a] → o.d.toNat < 32 → 
       EndsF (exec (.fclass o) s) s { op := 0x78, d := o.d, a := o.a, m8 := o.pr.setWidth 8 } 0
         0 (BitVec.ofNat 64 (joined 16 ((fpLanes o.pr (s.th.vreg o.a.toNat) 0).map fun (ew, mw, a, _) => 2 ^ fpClass ew mw a))) 0))

/-- Conversions, moves between the files, constants and bit selection (R191, R198 to R200): `gmvf` and `icvtf` take the `g` value as it
is when they are dispatched. The moves copy 64 bits, `fsel` takes each bit of A or B as C selects, `fli` writes its pattern; no flag is
set. `fmt` (R208, Table 7.6): a valid descriptor becomes the prefix of the next instruction, which takes it in place of its `EFD`
register and clears it; a reserved descriptor, and an instruction that takes no descriptor behind a prefix, trap. -/
def Obligations.ScalarMoves : Prop :=
  (∀ s : State, FIdle s →
     (∀ o : CvtR, FRegs [o.d, o.a] → 
       RunsF (exec (.fcvt o) s) s { op := 0x79, d := o.d, a := o.a, m8 := 0#4 ++ o.df ++ o.sf } 0) ∧
     (∀ o : CvtX, FRegs [o.d, o.a] → 
       RunsF (exec (.fcvtL2 o) s) s { op := 0x79, d := o.d, a := o.a, m8 := 0#1 ++ o.rnd ++ o.df ++ o.sf, hold := o.h.setWidth 3 } 0) ∧
     (∀ o : CviR, FRegs [o.a] → o.d.toNat < 32 → 
       RunsF (exec (.fcvti o) s) s { op := 0x7A, d := o.d, a := o.a, m8 := 0#5 ++ o.un ++ o.sf } 0) ∧
     (∀ o : CviX, FRegs [o.a] → o.d.toNat < 32 → 
       RunsF (exec (.fcvtiL2 o) s) s { op := 0x7A, d := o.d, a := o.a, m8 := 0#1 ++ o.rnd ++ 0#1 ++ o.un ++ o.sf, hold := o.h.setWidth 3 } 0) ∧
     (∀ o : IcvR, FRegs [o.d] → o.a.toNat < 32 → 
       RunsF (exec (.icvtf o) s) s { op := 0x7B, d := o.d, a := o.a, m8 := 0#5 ++ o.un ++ o.df } (s.g o.a)) ∧
     (∀ o : IcvX, FRegs [o.d] → o.a.toNat < 32 → 
       RunsF (exec (.icvtfL2 o) s) s { op := 0x7B, d := o.d, a := o.a, m8 := 0#1 ++ o.rnd ++ 0#1 ++ o.un ++ o.df, hold := o.h.setWidth 3 } (s.g o.a)) ∧
     (∀ o : GF, FRegs [o.a] → o.d.toNat < 32 → 
       EndsF (exec (.fmvg o) s) s { op := 0x7C, d := o.d, a := o.a } 0
         0 (s.th.vreg o.a.toNat) 0) ∧
     (∀ o : FG, FRegs [o.d] → o.a.toNat < 32 → 
       EndsF (exec (.gmvf o) s) s { op := 0x7D, d := o.d, a := o.a } (s.g o.a)
         (s.g o.a) 0 0) ∧
     (∀ o : F4H, FRegs [o.d, o.a, o.b, o.c] → 
       EndsF (exec (.fsel o) s) s { op := 0x7F, d := o.d, a := o.a, b := o.b, c := o.c, hold := o.h.setWidth 3 } 0
         ((s.th.vreg o.a.toNat &&& s.th.vreg o.c.toNat) ||| (s.th.vreg o.b.toNat &&& ~~~ s.th.vreg o.c.toNat)) 0 0) ∧
     (∀ o : FK16, FRegs [o.d] → EndsF (exec (.fli o) s) s { op := 0x7E, d := o.d } (o.k ++ 0#48)
         (o.k ++ 0#48) 0 0) ∧
     (∀ o : FK32, FRegs [o.d] → EndsF (exec (.fliL2 o) s) s { op := 0x7E, d := o.d } (o.k ++ o.k)
         (o.k ++ o.k) 0 0) ∧
     (∀ o : FK64, FRegs [o.d] → EndsF (exec (.fliL3 o) s) s { op := 0x7E, d := o.d } o.k
         o.k 0 0)) ∧
  (∀ (s : State) (o : K32),
     (Ready s [] → s.th.rep.act = false → descValid o.k.toNat = true →
       ∃ t, exec (.fmt o) s = .next t ∧ OnlyThread s t ∧ t.th.pc = s.th.nextPc ∧ t.th.prefixD = o.k ∧ t.th.pp = true ∧
         t.th.g = s.th.g ∧ t.th.v = s.th.v) ∧
     (Ready s [] → s.th.rep.act = false → descValid o.k.toNat = false → exec (.fmt o) s = .next (s.illegal 3)) ∧
     (∀ p : PE3, FRegs [p.d, p.a, p.b] → s.th.pp = true → FIdle (s.modTh fun t => { t with pp := false }) →
       ∃ t e, exec (.padd p) s = .next t ∧ t.th.pc = s.th.nextPc ∧ t.th.pp = false ∧ t.th.fq = [e] ∧ e.x = s.th.prefixD.setWidth 64) ∧
     (s.th.pp = true → s.th.capture = none → exec .nop s = .next s.badPrefix))

/-- Packed arithmetic, the dot product and the sum (R202, R204), under the descriptor of the `EFD` register that E names. Lane moves,
packing and unpacking, quantising and back (R205, R206), where the part and the lane are within the register (R207). Packed compares
(R203), bitwise operations and moves (R198), of the last two the 64 bits that each writes. -/
def Obligations.PackedFloat : Prop :=
  (∀ s : State, FIdle s →
     (∀ o : PE3, FRegs [o.d, o.a, o.b] → 
       RunsF (exec (.padd o) s) s { op := 0x80, d := o.d, a := o.a, b := o.b, m8 := o.e.setWidth 8 } ((s.efdOf o.e).setWidth 64)) ∧
     (∀ o : PE3H, FRegs [o.d, o.a, o.b] → 
       RunsF (exec (.paddL2 o) s) s { op := 0x80, d := o.d, a := o.a, b := o.b, m8 := o.e.setWidth 8, hold := o.h.setWidth 3 } ((s.efdOf o.e).setWidth 64)) ∧
     (∀ o : PE3, FRegs [o.d, o.a, o.b] → 
       RunsF (exec (.psub o) s) s { op := 0x81, d := o.d, a := o.a, b := o.b, m8 := o.e.setWidth 8 } ((s.efdOf o.e).setWidth 64)) ∧
     (∀ o : PE3H, FRegs [o.d, o.a, o.b] → 
       RunsF (exec (.psubL2 o) s) s { op := 0x81, d := o.d, a := o.a, b := o.b, m8 := o.e.setWidth 8, hold := o.h.setWidth 3 } ((s.efdOf o.e).setWidth 64)) ∧
     (∀ o : PE3, FRegs [o.d, o.a, o.b] → 
       RunsF (exec (.pmul o) s) s { op := 0x82, d := o.d, a := o.a, b := o.b, m8 := o.e.setWidth 8 } ((s.efdOf o.e).setWidth 64)) ∧
     (∀ o : PE3H, FRegs [o.d, o.a, o.b] → 
       RunsF (exec (.pmulL2 o) s) s { op := 0x82, d := o.d, a := o.a, b := o.b, m8 := o.e.setWidth 8, hold := o.h.setWidth 3 } ((s.efdOf o.e).setWidth 64)) ∧
     (∀ o : PE4H, FRegs [o.d, o.a, o.b, o.c] → 
       RunsF (exec (.pfma o) s) s { op := 0x83, d := o.d, a := o.a, b := o.b, c := o.c, m8 := o.e.setWidth 8, hold := o.h.setWidth 3 } ((s.efdOf o.e).setWidth 64)) ∧
     (∀ o : PE3, FRegs [o.d, o.a, o.b] → 
       RunsF (exec (.pmin o) s) s { op := 0x84, d := o.d, a := o.a, b := o.b, m8 := o.e.setWidth 8 } ((s.efdOf o.e).setWidth 64)) ∧
     (∀ o : PE3H, FRegs [o.d, o.a, o.b] → 
       RunsF (exec (.pminL2 o) s) s { op := 0x84, d := o.d, a := o.a, b := o.b, m8 := o.e.setWidth 8, hold := o.h.setWidth 3 } ((s.efdOf o.e).setWidth 64)) ∧
     (∀ o : PE3, FRegs [o.d, o.a, o.b] → 
       RunsF (exec (.pmax o) s) s { op := 0x85, d := o.d, a := o.a, b := o.b, m8 := o.e.setWidth 8 } ((s.efdOf o.e).setWidth 64)) ∧
     (∀ o : PE3H, FRegs [o.d, o.a, o.b] → 
       RunsF (exec (.pmaxL2 o) s) s { op := 0x85, d := o.d, a := o.a, b := o.b, m8 := o.e.setWidth 8, hold := o.h.setWidth 3 } ((s.efdOf o.e).setWidth 64)) ∧
     (∀ o : PE4H, FRegs [o.d, o.a, o.b, o.c] → 
       RunsF (exec (.pdot o) s) s { op := 0x86, d := o.d, a := o.a, b := o.b, c := o.c, m8 := o.e.setWidth 8, hold := o.h.setWidth 3 } ((s.efdOf o.e).setWidth 64)) ∧
     (∀ o : PE3, FRegs [o.d, o.a, o.b] → 
       RunsF (exec (.psum o) s) s { op := 0x87, d := o.d, a := o.a, b := o.b, m8 := o.e.setWidth 8 } ((s.efdOf o.e).setWidth 64)) ∧
     (∀ o : PE3H, FRegs [o.d, o.a, o.b] → 
       RunsF (exec (.psumL2 o) s) s { op := 0x87, d := o.d, a := o.a, b := o.b, m8 := o.e.setWidth 8, hold := o.h.setWidth 3 } ((s.efdOf o.e).setWidth 64))) ∧
  (∀ s : State, FIdle s →
     (∀ o : PE3, FRegs [o.d, o.a, o.b] → 
       RunsF (exec (.pshuf o) s) s { op := 0x88, d := o.d, a := o.a, b := o.b, m8 := o.e.setWidth 8 } ((s.efdOf o.e).setWidth 64)) ∧
     (∀ o : PE3H, FRegs [o.d, o.a, o.b] → 
       RunsF (exec (.pshufL2 o) s) s { op := 0x88, d := o.d, a := o.a, b := o.b, m8 := o.e.setWidth 8, hold := o.h.setWidth 3 } ((s.efdOf o.e).setWidth 64)) ∧
     (∀ o : PBc, FRegs [o.d, o.a] → 
       let r : FRaw := { op := 0x89, d := o.d, a := o.a, b := o.lane.setWidth 6, m8 := o.e.setWidth 8 }
       partFails r (s.efdOf o.e) = false → RunsF (exec (.pbcast o) s) s r ((s.efdOf o.e).setWidth 64)) ∧
     (∀ o : PBcH, FRegs [o.d, o.a] → 
       let r : FRaw := { op := 0x89, d := o.d, a := o.a, b := o.lane.setWidth 6, m8 := o.e.setWidth 8, hold := o.h.setWidth 3 }
       partFails r (s.efdOf o.e) = false → RunsF (exec (.pbcastL2 o) s) s r ((s.efdOf o.e).setWidth 64)) ∧
     (∀ o : PW3, FRegs [o.d, o.a, o.b] → 
       let r : FRaw := { op := 0x8A, d := o.d, a := o.a, b := o.b, m8 := 0#4 ++ o.wf ++ o.e }
       partFails r (s.efdOf o.e) = false → RunsF (exec (.ppack o) s) s r ((s.efdOf o.e).setWidth 64)) ∧
     (∀ o : PW3H, FRegs [o.d, o.a, o.b] → 
       let r : FRaw := { op := 0x8A, d := o.d, a := o.a, b := o.b, m8 := o.part ++ o.wf ++ o.e, hold := o.h.setWidth 3 }
       partFails r (s.efdOf o.e) = false → RunsF (exec (.ppackL2 o) s) s r ((s.efdOf o.e).setWidth 64)) ∧
     (∀ o : PW2, FRegs [o.d, o.a] → 
       let r : FRaw := { op := 0x8B, d := o.d, a := o.a, m8 := 0#4 ++ o.wf ++ o.e }
       partFails r (s.efdOf o.e) = false → RunsF (exec (.punpack o) s) s r ((s.efdOf o.e).setWidth 64)) ∧
     (∀ o : PW2H, FRegs [o.d, o.a] → 
       let r : FRaw := { op := 0x8B, d := o.d, a := o.a, m8 := o.part ++ o.wf ++ o.e, hold := o.h.setWidth 3 }
       partFails r (s.efdOf o.e) = false → RunsF (exec (.punpackL2 o) s) s r ((s.efdOf o.e).setWidth 64)) ∧
     (∀ o : PW3, FRegs [o.d, o.a, o.b] → 
       let r : FRaw := { op := 0x8C, d := o.d, a := o.a, b := o.b, m8 := 0#4 ++ o.wf ++ o.e }
       partFails r (s.efdOf o.e) = false → RunsF (exec (.pq o) s) s r ((s.efdOf o.e).setWidth 64)) ∧
     (∀ o : PW4H, FRegs [o.d, o.a, o.b, o.c] → 
       let r : FRaw := { op := 0x8C, d := o.d, a := o.a, b := o.b, c := o.c, m8 := o.part ++ o.wf ++ o.e, hold := o.h.setWidth 3 }
       partFails r (s.efdOf o.e) = false → RunsF (exec (.pqL2 o) s) s r ((s.efdOf o.e).setWidth 64)) ∧
     (∀ o : PW2, FRegs [o.d, o.a] → 
       let r : FRaw := { op := 0x8D, d := o.d, a := o.a, m8 := 0#4 ++ o.wf ++ o.e }
       partFails r (s.efdOf o.e) = false → RunsF (exec (.pdq o) s) s r ((s.efdOf o.e).setWidth 64)) ∧
     (∀ o : PWcH, FRegs [o.d, o.a, o.c] → 
       let r : FRaw := { op := 0x8D, d := o.d, a := o.a, c := o.c, m8 := o.part ++ o.wf ++ o.e, hold := o.hc ++ 0#1 ++ o.ha }
       partFails r (s.efdOf o.e) = false → RunsF (exec (.pdqL2 o) s) s r ((s.efdOf o.e).setWidth 64))) ∧
  (∀ s : State, FIdle s →
     (∀ o : PE3, FRegs [o.d, o.a, o.b] → 
       RunsF (exec (.peq o) s) s { op := 0x8E, d := o.d, a := o.a, b := o.b, m8 := 0#4 ++ 0#2 ++ o.e } ((s.efdOf o.e).setWidth 64)) ∧
     (∀ o : PE3H, FRegs [o.d, o.a, o.b] → 
       RunsF (exec (.peqL2 o) s) s { op := 0x8E, d := o.d, a := o.a, b := o.b, m8 := 0#4 ++ 0#2 ++ o.e, hold := o.h.setWidth 3 } ((s.efdOf o.e).setWidth 64)) ∧
     (∀ o : PE3, FRegs [o.d, o.a, o.b] → 
       RunsF (exec (.plt o) s) s { op := 0x8E, d := o.d, a := o.a, b := o.b, m8 := 0#4 ++ 1#2 ++ o.e } ((s.efdOf o.e).setWidth 64)) ∧
     (∀ o : PE3H, FRegs [o.d, o.a, o.b] → 
       RunsF (exec (.pltL2 o) s) s { op := 0x8E, d := o.d, a := o.a, b := o.b, m8 := 0#4 ++ 1#2 ++ o.e, hold := o.h.setWidth 3 } ((s.efdOf o.e).setWidth 64)) ∧
     (∀ o : PE3, FRegs [o.d, o.a, o.b] → 
       RunsF (exec (.ple o) s) s { op := 0x8E, d := o.d, a := o.a, b := o.b, m8 := 0#4 ++ 2#2 ++ o.e } ((s.efdOf o.e).setWidth 64)) ∧
     (∀ o : PE3H, FRegs [o.d, o.a, o.b] → 
       RunsF (exec (.pleL2 o) s) s { op := 0x8E, d := o.d, a := o.a, b := o.b, m8 := 0#4 ++ 2#2 ++ o.e, hold := o.h.setWidth 3 } ((s.efdOf o.e).setWidth 64)) ∧
     (∀ o : PE3, FRegs [o.d, o.a, o.b] → 
       RunsF (exec (.puno o) s) s { op := 0x8E, d := o.d, a := o.a, b := o.b, m8 := 0#4 ++ 3#2 ++ o.e } ((s.efdOf o.e).setWidth 64)) ∧
     (∀ o : PE3H, FRegs [o.d, o.a, o.b] → 
       RunsF (exec (.punoL2 o) s) s { op := 0x8E, d := o.d, a := o.a, b := o.b, m8 := 0#4 ++ 3#2 ++ o.e, hold := o.h.setWidth 3 } ((s.efdOf o.e).setWidth 64)) ∧
     (∀ o : F3, FRegs [o.d, o.a, o.b] → 
       EndsF (exec (.pand o) s) s { op := 0x8F, d := o.d, a := o.a, b := o.b } 0
         (s.th.vreg o.a.toNat &&& s.th.vreg o.b.toNat) 0 0) ∧
     (∀ o : F3H, FRegs [o.d, o.a, o.b] → 
       EndsF (exec (.pandL2 o) s) s { op := 0x8F, d := o.d, a := o.a, b := o.b, hold := o.h.setWidth 3 } 0
         (s.th.vreg o.a.toNat &&& s.th.vreg o.b.toNat) 0 0) ∧
     (∀ o : F3, FRegs [o.d, o.a, o.b] → 
       EndsF (exec (.por o) s) s { op := 0x8F, d := o.d, a := o.a, b := o.b, m8 := 1 } 0
         (s.th.vreg o.a.toNat ||| s.th.vreg o.b.toNat) 0 0) ∧
     (∀ o : F3H, FRegs [o.d, o.a, o.b] → 
       EndsF (exec (.porL2 o) s) s { op := 0x8F, d := o.d, a := o.a, b := o.b, m8 := 1, hold := o.h.setWidth 3 } 0
         (s.th.vreg o.a.toNat ||| s.th.vreg o.b.toNat) 0 0) ∧
     (∀ o : F3, FRegs [o.d, o.a, o.b] → 
       EndsF (exec (.pxor o) s) s { op := 0x8F, d := o.d, a := o.a, b := o.b, m8 := 2 } 0
         (s.th.vreg o.a.toNat ^^^ s.th.vreg o.b.toNat) 0 0) ∧
     (∀ o : F3H, FRegs [o.d, o.a, o.b] → 
       EndsF (exec (.pxorL2 o) s) s { op := 0x8F, d := o.d, a := o.a, b := o.b, m8 := 2, hold := o.h.setWidth 3 } 0
         (s.th.vreg o.a.toNat ^^^ s.th.vreg o.b.toNat) 0 0) ∧
     (∀ o : F3, FRegs [o.d, o.a, o.b] → 
       EndsF (exec (.pandn o) s) s { op := 0x8F, d := o.d, a := o.a, b := o.b, m8 := 3 } 0
         (s.th.vreg o.a.toNat &&& ~~~ s.th.vreg o.b.toNat) 0 0) ∧
     (∀ o : F3H, FRegs [o.d, o.a, o.b] → 
       EndsF (exec (.pandnL2 o) s) s { op := 0x8F, d := o.d, a := o.a, b := o.b, m8 := 3, hold := o.h.setWidth 3 } 0
         (s.th.vreg o.a.toNat &&& ~~~ s.th.vreg o.b.toNat) 0 0) ∧
     (∀ o : F2, FRegs [o.d, o.a] → 
       EndsF (exec (.pmov o) s) s { op := 0x90, d := o.d, a := o.a } 0
         (s.th.vreg o.a.toNat) 0 0) ∧
     (∀ o : F2H, FRegs [o.d, o.a] → 
       EndsF (exec (.pmovL2 o) s) s { op := 0x90, d := o.d, a := o.a, hold := o.h.setWidth 3 } 0
         (s.th.vreg o.a.toNat) 0 0))

/-- Special functions (R209, R30): the F pipe issues them to the unit, at the end of its queue, which serves them in order: the second
request starts when the first is finished. The special values are those of Table 7.7, in either precision; a NaN gives the canonical
NaN, with NV if it signals. The special-function unit serves its requests in the order in which the F pipe issued them (R30): an issue
puts a request at the end of its queue of 4; with two of different slots, the second starts only when the first is finished. -/
def Obligations.SpecialFunctions : Prop :=
  (∀ s : State, FIdle s →
     (∀ o : FP2, FRegs [o.d, o.a] → 
       RunsF (exec (.frcp o) s) s { op := 0xA0, d := o.d, a := o.a, m8 := o.pr.setWidth 8 } 0) ∧
     (∀ o : FP2H, FRegs [o.d, o.a] → 
       RunsF (exec (.frcpL2 o) s) s { op := 0xA0, d := o.d, a := o.a, m8 := o.pr.setWidth 8, hold := o.h.setWidth 3 } 0) ∧
     (∀ o : FP2, FRegs [o.d, o.a] → 
       RunsF (exec (.frsqrt o) s) s { op := 0xA1, d := o.d, a := o.a, m8 := o.pr.setWidth 8 } 0) ∧
     (∀ o : FP2H, FRegs [o.d, o.a] → 
       RunsF (exec (.frsqrtL2 o) s) s { op := 0xA1, d := o.d, a := o.a, m8 := o.pr.setWidth 8, hold := o.h.setWidth 3 } 0) ∧
     (∀ o : FP2, FRegs [o.d, o.a] → 
       RunsF (exec (.fsqrt o) s) s { op := 0xA2, d := o.d, a := o.a, m8 := o.pr.setWidth 8 } 0) ∧
     (∀ o : FP2H, FRegs [o.d, o.a] → 
       RunsF (exec (.fsqrtL2 o) s) s { op := 0xA2, d := o.d, a := o.a, m8 := o.pr.setWidth 8, hold := o.h.setWidth 3 } 0) ∧
     (∀ o : FP3, FRegs [o.d, o.a, o.b] → 
       RunsF (exec (.fdiv o) s) s { op := 0xA3, d := o.d, a := o.a, b := o.b, m8 := o.pr.setWidth 8 } 0) ∧
     (∀ o : FP3H, FRegs [o.d, o.a, o.b] → 
       RunsF (exec (.fdivL2 o) s) s { op := 0xA3, d := o.d, a := o.a, b := o.b, m8 := o.pr.setWidth 8, hold := o.h.setWidth 3 } 0) ∧
     (∀ o : FS2, FRegs [o.d, o.a] → 
       RunsF (exec (.fexp2 o) s) s { op := 0xA4, d := o.d, a := o.a, m8 := o.pr.setWidth 8 } 0) ∧
     (∀ o : FS2H, FRegs [o.d, o.a] → 
       RunsF (exec (.fexp2L2 o) s) s { op := 0xA4, d := o.d, a := o.a, m8 := o.pr.setWidth 8, hold := o.h.setWidth 3 } 0) ∧
     (∀ o : FS2, FRegs [o.d, o.a] → 
       RunsF (exec (.flog2 o) s) s { op := 0xA5, d := o.d, a := o.a, m8 := o.pr.setWidth 8 } 0) ∧
     (∀ o : FS2H, FRegs [o.d, o.a] → 
       RunsF (exec (.flog2L2 o) s) s { op := 0xA5, d := o.d, a := o.a, m8 := o.pr.setWidth 8, hold := o.h.setWidth 3 } 0) ∧
     (∀ o : FS2, FRegs [o.d, o.a] → 
       RunsF (exec (.ftanh o) s) s { op := 0xA6, d := o.d, a := o.a, m8 := o.pr.setWidth 8 } 0) ∧
     (∀ o : FS2H, FRegs [o.d, o.a] → 
       RunsF (exec (.ftanhL2 o) s) s { op := 0xA6, d := o.d, a := o.a, m8 := o.pr.setWidth 8, hold := o.h.setWidth 3 } 0) ∧
     (∀ o : FS2, FRegs [o.d, o.a] → 
       RunsF (exec (.fsigm o) s) s { op := 0xA7, d := o.d, a := o.a, m8 := o.pr.setWidth 8 } 0) ∧
     (∀ o : FS2H, FRegs [o.d, o.a] → 
       RunsF (exec (.fsigmL2 o) s) s { op := 0xA7, d := o.d, a := o.a, m8 := o.pr.setWidth 8, hold := o.h.setWidth 3 } 0) ∧
     (∀ (o : FP2) (i : Instr) (raw : FRaw) (v : Nat) (fl : BitVec 5), FRegs [o.d, o.a] → o.pr ≠ 2 → o.pr ≠ 3 →
       let l := (fpLanes o.pr (s.th.vreg o.a.toNat) 0).headD (0, 0, 0, 0)
       let nan := fpNan l.1 l.2.1 l.2.2.1
       let inf := fpInf l.1 l.2.1 l.2.2.1
       let zero := fpZero l.1 l.2.1 l.2.2.1
       let neg := fpNeg l.1 l.2.1 l.2.2.1
       let Z := fpZeroCode l.1 l.2.1
       let J := fpInfCode l.1 l.2.1
       let below := !nan && !zero && neg
       let q := fpQuiet l.1 l.2.1
       ((i = .frcp o ∧ raw.op = 0xA0 ∧ (zero = true ∧ v = J neg ∧ fl = 8 ∨ inf = true ∧ v = Z neg ∧ fl = 0)) ∨
        (i = .frsqrt o ∧ raw.op = 0xA1 ∧ (zero = true ∧ v = J neg ∧ fl = 8 ∨ below = true ∧ v = q ∧ fl = 16 ∨ inf = true ∧ neg = false ∧ v = Z false ∧ fl = 0)) ∨
        (i = .fsqrt o ∧ raw.op = 0xA2 ∧ (zero = true ∧ v = Z neg ∧ fl = 0 ∨ below = true ∧ v = q ∧ fl = 16 ∨ inf = true ∧ neg = false ∧ v = J false ∧ fl = 0)) ∨
        (((i = .frcp o ∧ raw.op = 0xA0) ∨ (i = .frsqrt o ∧ raw.op = 0xA1) ∨ (i = .fsqrt o ∧ raw.op = 0xA2)) ∧ nan = true ∧ v = q ∧
           fl = nvIf (fpSig l.1 l.2.1 l.2.2.1))) →
       raw = { op := raw.op, d := o.d, a := o.a, m8 := o.pr.setWidth 8 } → EndsF (exec i s) s raw 0 (BitVec.ofNat 64 v) 0 fl) ∧
     (∀ (o : FS2) (i : Instr) (raw : FRaw) (v : Nat) (fl : BitVec 5), FRegs [o.d, o.a] → o.pr = 1 →
       let a := (s.th.vreg o.a.toNat).toNat % 2 ^ 32
       let nan := fpNan 8 23 a
       let inf := fpInf 8 23 a
       let zero := fpZero 8 23 a
       let neg := fpNeg 8 23 a
       let Z := fpZeroCode 8 23
       let J := fpInfCode 8 23
       let one := fpOne 8 23
       ((i = .fexp2 o ∧ raw.op = 0xA4 ∧ fl = 0 ∧ (zero = true ∧ v = one ∨ inf = true ∧ v = if neg then Z false else J false)) ∨
        (i = .flog2 o ∧ raw.op = 0xA5 ∧ (zero = true ∧ v = J true ∧ fl = 8 ∨ (!nan && !zero && neg) = true ∧ v = fpQuiet 8 23 ∧ fl = 16 ∨
           a = one ∧ v = Z false ∧ fl = 0 ∨ inf = true ∧ neg = false ∧ v = J false ∧ fl = 0)) ∨
        (i = .ftanh o ∧ raw.op = 0xA6 ∧ fl = 0 ∧ (zero = true ∧ v = Z neg ∨ inf = true ∧ v = (if neg then 2 ^ 31 else 0) + one)) ∨
        (i = .fsigm o ∧ raw.op = 0xA7 ∧ fl = 0 ∧ (zero = true ∧ v = one - 2 ^ 23 ∨ inf = true ∧ v = if neg then Z false else one)) ∨
        (((i = .fexp2 o ∧ raw.op = 0xA4) ∨ (i = .flog2 o ∧ raw.op = 0xA5) ∨ (i = .ftanh o ∧ raw.op = 0xA6) ∨ (i = .fsigm o ∧ raw.op = 0xA7)) ∧
           nan = true ∧ v = fpQuiet 8 23 ∧ fl = nvIf (fpSig 8 23 a))) →
       raw = { op := raw.op, d := o.d, a := o.a, m8 := o.pr.setWidth 8 } → EndsF (exec i s) s raw 0 (BitVec.ofNat 64 v) 0 fl) ∧
     (∀ (o : FP3) (v : Nat) (fl : BitVec 5), FRegs [o.d, o.a, o.b] → o.pr ≠ 2 → o.pr ≠ 3 →
       let l := (fpLanes o.pr (s.th.vreg o.a.toNat) (s.th.vreg o.b.toNat)).headD (0, 0, 0, 0)
       let is := fun (f : Nat → Nat → Nat → Bool) (x : Nat) => f l.1 l.2.1 x
       let a := l.2.2.1
       let b := l.2.2.2
       let z := xor (is fpNeg a) (is fpNeg b)
       let q := fpQuiet l.1 l.2.1
       let fin := fun x => !is fpNan x && !is fpInf x
       ((fin a && !is fpZero a && is fpZero b) = true ∧ v = fpInfCode l.1 l.2.1 z ∧ fl = 8 ∨
        (is fpZero a && is fpZero b || is fpInf a && is fpInf b) = true ∧ v = q ∧ fl = 16 ∨
        (fin a && is fpInf b) = true ∧ v = fpZeroCode l.1 l.2.1 z ∧ fl = 0 ∨ (is fpInf a && fin b) = true ∧ v = fpInfCode l.1 l.2.1 z ∧ fl = 0 ∨
        (is fpNan a || is fpNan b) = true ∧ v = q ∧ fl = nvIf (is fpSig a || is fpSig b)) →
       EndsF (exec (.fdiv o) s) s { op := 0xA3, d := o.d, a := o.a, b := o.b, m8 := o.pr.setWidth 8 } 0 (BitVec.ofNat 64 v) 0 fl)) ∧
  (∀ s : State,
     (∀ (older rest : List FEntry) (e : FEntry), splitIssued s.th.fq = (older, e :: rest) → e.raw.special = true → e.pops = [] → e.pushes = none →
       s.th.bad = [] → s.th.badEntry = false → s.fReady s.cur = true → s.fNext = some (s.cur - s.core.fPtr) →
       Happens (exec (.fIssue s.slotNo) s) fun u => u.core.sfuQ = s.core.sfuQ ++ [(s.cur, e.ring)] ∧ u.core.sfuQ.length ≤ 4) ∧
     (∀ (i j : Fin 4) (x y : FEntry) (r q : FResult), i ≠ j → s.core.sfuQ = [(i, x.ring), (j, y.ring)] → (s.core.th i).fq = [x] →
       (s.core.th j).fq = [y] → x.st = .sfuQueued r → y.st = .sfuQueued q →
       ∃ a b c d, exec .sfuServiceStart s = .next a ∧ (a.core.th i).fq = [{ x with st := .sfuRunning r }] ∧ (a.core.th j).fq = [y] ∧
         exec .sfuResultWrite a = .next b ∧ (b.core.th i).fq = [{ x with st := .done r }] ∧ (b.core.th j).fq = [y] ∧
         b.core.sfuQ = [(j, y.ring)] ∧ exec .sfuResultWrite b = .next b ∧
         exec .sfuServiceStart b = .next c ∧ (c.core.th j).fq = [{ y with st := .sfuRunning q }] ∧
         exec .sfuResultWrite c = .next d ∧ (d.core.th i).fq = [{ x with st := .done r }] ∧ (d.core.th j).fq = [{ y with st := .done q }] ∧
         d.core.sfuQ = []))

/-- `send` and `sendn` (R253, R254): the words of consecutive registers, with the sender's position and class, enter the retry buffer;
the send waits while its 8 entries are in use, and a target that is no core of the context's torus traps with `TINFO` 0; that a module
without a route does so too is the model's choice (log 45). `recv` and `recv.try` (R257): the oldest message of the class leaves the
inbox, its words in D and the registers behind it, its header in A, zero in the registers that it does not fill, nothing in `g0`; with
none, `recv.try` writes 0 and `recv` parks on the inbox. In user mode a class that is not the slot's own is privileged. -/
def Obligations.Messages : Prop :=
  (∀ (s : State) (i : Instr) (regs : List Reg) (d : Reg) (cls nm1 : BitVec 2) (target : Nat),
     ((∃ o : SendO, i = .send o ∧ regs = o.a :: sendRegs o.d o.nm1 ∧ d = o.d ∧ cls = o.cls ∧ nm1 = o.nm1 ∧
         target = (s.g o.a).toNat) ∨
      (∃ o : SendnO, i = .sendn o ∧ regs = sendRegs o.d o.nm1 ∧ d = o.d ∧ cls = o.cls ∧ nm1 = o.nm1 ∧
         target = (((s.th.lx : Int) + o.dx.toInt) % (s.ctxs[s.th.ctx.toNat].twm1.toNat + 1)).toNat +
           2 ^ 10 * (((s.th.ly : Int) + o.dy.toInt) % (s.ctxs[s.th.ctx.toNat].thm1.toNat + 1)).toNat)) →
     Ready s regs → d.toNat + nm1.toNat < 32 →
     (s.targetOk s.th.ctx target = false → exec i s = .next (s.trapAt 5 0 0)) ∧
     (s.targetOk s.th.ctx target = true → s.core.retry.length ≥ 8 → exec i s = .next s.stall) ∧
     (s.targetOk s.th.ctx target = true → s.core.retry.length < 8 → GoesOn (exec i s) s fun t =>
       t.th.g = s.th.g ∧ ∃ e, t.core.retry = s.core.retry ++ [e] ∧ e.slot = s.cur ∧ e.ctx = s.th.ctx ∧ e.ready = true ∧
         e.target.toNat = target % 2 ^ 28 ∧ e.msg.cls = cls ∧ e.msg.srcX.toNat = s.th.lx ∧ e.msg.srcY.toNat = s.th.ly ∧
         e.msg.words = (List.range (nm1.toNat + 1)).map fun k => s.g (d + BitVec.ofNat 6 k))) ∧
  (∀ (s : State) (i : Instr) (d a : Reg) (cls : BitVec 2) (try_ : Bool),
     ((∃ o : RecvR, i = .recv o ∧ d = o.d ∧ a = o.a ∧ cls = o.cls ∧ try_ = false) ∨
      (∃ o : RecvX, i = .recvL2 o ∧ d = o.d ∧ a = o.a ∧ cls = o.cls ∧ try_ = false) ∨
      (∃ o : RecvR, i = .recvTry o ∧ d = o.d ∧ a = o.a ∧ cls = o.cls ∧ try_ = true) ∨
      (∃ o : RecvX, i = .recvTryL2 o ∧ d = o.d ∧ a = o.a ∧ cls = o.cls ∧ try_ = true)) →
     d.toNat < 29 → a.toNat < 32 → (a = 0 ∨ a.toNat < d.toNat ∨ d.toNat + 3 < a.toNat) →
     Ready s [a, d, d + 1, d + 2, d + 3] →
     ((s.th.mode = false ∧ s.ownClass cls = false) → exec i s = .next s.privileged) ∧
     (s.th.mode = true ∨ s.ownClass cls = true →
       (∀ m rest, inboxOf s.core cls = m :: rest → GoesOn (exec i s) s fun t => inboxOf t.core cls = rest ∧ (a ≠ 0 → t.g a = m.header) ∧
         (∀ k < 4, t.g (d + BitVec.ofNat 6 k) = if d.toNat + k = 0 then 0 else m.words.getD k 0) ∧
         ∀ r : Reg, r.toNat < 32 → r ≠ a → (r.toNat < d.toNat ∨ d.toNat + 3 < r.toNat) → t.g r = s.g r) ∧
       (inboxOf s.core cls = [] →
         (try_ = true → GoesOn (exec i s) s fun t => t.GAre (s.gWith a 0)) ∧
         (try_ = false → Happens (exec i s) fun t => t.th.status = .parked ∧ t.th.park = .inbox cls.toNat ∧ t.th.pc = s.th.pc ∧
           t.th.g = s.th.g ∧ SameBytes s t ∧ t.core.recvWait.length = s.core.recvWait.length + 1))))

/-- `mstat` (R259, Table 10.4) gives the state of a class and of the retry buffer; `mstat.clr` also clears the count of dropped sends.
That the count, which R259 gives in user mode, is shown and cleared in system mode too, is the model's choice (log 81). The network
(R255, R256, Table 10.3): the entry that may go is injected; an arrival enters the inbox of its class, or is refused, or is dead, and
that goes back; an acknowledgement frees the entry, a refusal makes it wait, and after its back-off it may go again. -/
def Obligations.MessageNetwork : Prop :=
  (∀ (s : State) (o : GCls), o.d.toNat < 32 → Ready s [o.d] →
     let n := (inboxOf s.core o.cls).length + 2 ^ 8 * s.core.retry.length + 2 ^ 16 * s.th.drop.toNat
     let v := BitVec.ofNat 64 (match s.core.bind[o.cls.toNat] with
       | some b => n + 2 ^ 4 * b.slot.val + 2 ^ 6
       | none => n)
     CompletesG (exec (.mstat o) s) s o.d v ∧ CompletesG (exec (.mstatL2 o) s) s o.d v ∧
     (Happens (exec (.mstatClr o) s) fun t => t.th.pc = s.th.nextPc ∧ t.th.drop = 0 ∧ t.GAre (s.gWith o.d v) ∧ SameBytes s t) ∧
     (Happens (exec (.mstatClrL2 o) s) fun t => t.th.pc = s.th.nextPc ∧ t.th.drop = 0 ∧ t.GAre (s.gWith o.d v) ∧ SameBytes s t)) ∧
  (∀ (s : State),
     (∀ r c, s.nextInject = some r → bits r.target.toNat 20 8 = 0 →
       s.placeOf r.ctx (bits r.target.toNat 0 10) (bits r.target.toNat 10 10) = .core c →
       Happens (exec .messageInject s) fun t => t.msgFly = s.msgFly ++ [⟨some (s.cid, r.id), c, r.ctx, r.msg⟩] ∧ SameBytes s t ∧
         ∀ e ∈ t.core.retry, e.id = r.id → e.inFlight = true) ∧
     (∀ k f src, s.msgFly[k]? = some f → f.src = some src →
       (∀ c, s.arrival f.dest f.msg = .accepted c → Happens (exec (.messageArrival k) s) fun t => t.coreAt f.dest = c ∧
         t.msgFly = s.msgFly.eraseIdx k ∧ t.ackFly = s.ackFly ++ [⟨src.1, src.2, false, false⟩] ∧ SameBytes s t) ∧
       (s.arrival f.dest f.msg = .nack → Happens (exec (.messageArrival k) s) fun t => t.coreAt f.dest = s.coreAt f.dest ∧
         t.ackFly = s.ackFly ++ [⟨src.1, src.2, true, false⟩]) ∧
       (s.arrival f.dest f.msg = .dead → Happens (exec (.messageArrival k) s) fun t => t.coreAt f.dest = s.coreAt f.dest ∧
         t.ackFly = s.ackFly ++ [⟨src.1, src.2, false, true⟩])) ∧
     (∀ (c : CoreId) (m : Msg) (b : ClassBind), (s.coreAt c).bind[m.cls.toNat] = some b → (s.coreAt c).dbg.halted = false →
       ((s.coreAt c).th b.slot).status = .ready → ((s.coreAt c).th b.slot).held = none → s.outOf c b.slot b.team = false →
       (inboxOf (s.coreAt c) m.cls).length < 8 → (s.coreAt c).recvWait = [] →
       ∃ k, s.arrival c m = .accepted k ∧ inboxOf k m.cls = inboxOf (s.coreAt c) m.cls ++ [m]) ∧
     (∀ k a, s.ackFly[k]? = some a → a.dest = s.cid →
       (a.nack = false → Happens (exec (.messageAck k) s) fun t => t.ackFly = s.ackFly.eraseIdx k ∧
         ∀ e ∈ t.core.retry, e.id ≠ a.entry) ∧
       (a.nack = true → Happens (exec (.messageNack k) s) fun t => t.ackFly = s.ackFly.eraseIdx k ∧
         ∀ e ∈ t.core.retry, e.id = a.entry → e.ready = false ∧ e.inFlight = false)) ∧
     (∀ id, Happens (exec (.messageRetryReady id) s) fun t => SameBytes s t ∧ t.core.retry.length = s.core.retry.length ∧
       ∀ (k : Nat) (e f : RetryEntry), s.core.retry[k]? = some e → t.core.retry[k]? = some f → e.id = id → e.inFlight = false →
         e.readyAt ≤ s.clkOf s.cid.die → f.ready = true ∧ f.msg = e.msg))

/-- Neighbour queues (R260 to R262, R266): `qend` sends a control value through a connected port with room; `qctl.st` reads a port's
state, `qctl.clr` drops all its words, control values among them, `qctl.bind` binds a class, in system mode only; a word in flight
arrives behind those of its port. The light handler (R263, R264): when the oldest entry that has not issued reads a port with a control
value at its head, control goes to `QHPC` with the value, which leaves the port, and the port in its registers and the return PC in
`QLINK`; an address that no transfer may have is a bad target at the instruction, an F-side trap, and the control value stays in its
port; `qret` returns, and what was held issues again. -/
def Obligations.NeighbourQueues : Prop :=
  (∀ (s : State),
     (∀ (o : QendO) (c : CoreId), Ready s [o.a] → s.th.writesPort o.port.toNat = false → 0 < s.portSpace o.port.toNat →
       (s.core.port s.cur o.port.toNat).con = true →
       s.placeOf s.th.ctx (s.neighbour s.th o.port.toNat).1 (s.neighbour s.th o.port.toNat).2 = .core c →
       GoesOn (exec (.qend o) s) s fun t => t.th.g = s.th.g ∧
         t.qFly = s.qFly ++ [⟨c, s.cur, opposite o.port.toNat, ⟨s.g o.a, true⟩⟩]) ∧
     (∀ (o : QctlO), o.d.toNat < 32 → Ready s [o.d, o.a] →
       (s.th.writesPort o.pc.toNat = false →
         let v := s.portStatus o.pc.toNat
         let q := s.core.port s.cur o.pc.toNat
         CompletesG (exec (.qctlSt o) s) s o.d v ∧ CompletesG (exec (.qctlStL2 o) s) s o.d v ∧
         (∀ i, i = .qctlClr o ∨ i = .qctlClrL2 o → q.taken = 0 → GoesOn (exec i s) s fun t =>
           t.GAre (s.gWith o.d (BitVec.ofNat 64 q.words.length)) ∧ (t.core.port s.cur o.pc.toNat).words = [] ∧
           (t.core.port s.cur o.pc.toNat).ctld = false)) ∧
       (∀ i, i = .qctlBind o ∨ i = .qctlBindL2 o →
         (s.th.mode = false → exec i s = .next s.privileged) ∧
         (s.th.mode = true → GoesOn (exec i s) s fun t =>
           t.GAre (s.gWith o.d (match s.core.bind[o.pc.toNat] with
             | some b => BitVec.ofNat 64 (b.slot.val + 4)
             | none => 0)) ∧
           (t.core.bind[o.pc.toNat]).map (fun b => b.slot.val) = some ((s.g o.a).toNat % 4)))) ∧
     (∀ k f, s.qFly[k]? = some f → (∀ g ∈ s.qFly.take k, g.dest ≠ f.dest ∨ g.slot ≠ f.slot ∨ g.port ≠ f.port) →
       Happens (exec (.queueWordArrival k) s) fun t => t.qFly = s.qFly.eraseIdx k ∧ SameBytes s t ∧
         ((t.coreAt f.dest).port f.slot f.port.val).words = ((s.coreAt f.dest).port f.slot f.port.val).words ++ [f.word])) ∧
  (∀ (s : State) (e : FEntry) (p : Nat) (w : QWord) (l : Line), p < 4 →
     s.th.status = .ready → s.th.lh = false → s.core.lets s.cur = true → s.th.fq = [e] → e.st = .waiting → s.controlPort e = some p →
     (s.core.port s.cur p).head = some w → s.arriveReg (s.th.qhpc.setWidth 64) = (.go s.th.qhpc l, s) →
     (∃ t, exec (.lightHandlerEntry s.slotNo) s = .next t ∧ t.th.lh = true ∧ t.th.pc = s.th.qhpc ∧ t.th.qval = w.data ∧
       t.th.qlinkPort.toNat = p ∧ t.th.qlinkPc = s.th.pc ∧ t.th.fq = [] ∧ t.th.g = s.th.g ∧ t.th.v = s.th.v ∧ SameBytes s t ∧
       (∀ k < 4, (t.core.port s.cur k).words = if k = p then (s.core.port s.cur p).words.eraseIdx (s.core.port s.cur p).taken else (s.core.port s.cur k).words) ∧
       ∃ h, t.th.lhHeld = some h ∧ h.entries.map (·.raw) = [e.raw]) ∧
     (∀ (u : State) (f : FEntry) (q : Nat) (x : QWord), u.th.status = .ready → u.th.lh = false → u.core.lets u.cur = true → Enterable u →
       u.th.fq = [f] → u.controlPort f = some q → (u.core.port u.cur q).head = some x →
       (u.th.qhpc.toNat % 64 = 0 ∨ u.th.qhpc.toNat % 2 = 1 ∨ spaceOf u.th.qhpc.toNat ≠ .paged) →
       ∃ t tr, exec (.lightHandlerEntry u.slotNo) u = .next t ∧ EntersTrap u t tr u.th.pc ∧ tr.cause = 3 ∧ tr.sub = 0 ∧ tr.fside = true ∧
         tr.tpc = f.pc ∧ tr.tinfo = u.th.qhpc.setWidth 64 ∧ t.th.lh = false ∧ (t.core.port u.cur q).words = (u.core.port u.cur q).words) ∧
     (∀ (u : State) (h : Held), Ready u [] → u.th.lh = true → u.th.fq = [] → u.th.rep.act = false → u.th.lhHeld = some h →
       u.arriveReg (u.th.qlinkPc.setWidth 64) = (.go u.th.qlinkPc l, u) →
       ∃ t, exec .qret u = .next t ∧ t.th.lh = false ∧ t.th.pc = u.th.qlinkPc ∧ t.th.fq = h.entries ∧ t.th.rep = h.rep ∧
         t.th.pp = h.pp ∧ t.th.g = u.th.g ∧ t.th.v = u.th.v ∧ SameBytes u t) ∧
     (∀ u : State, Ready u [] → u.th.lh = false → exec .qret u = .next u.privileged))

/-- The issue of a one-sided transfer (R267 to R270): when its sides pass the checks, on another module when a route is there, the store
buffer is empty and a ring entry is free for it, the lowest free entry holds it from then on, and control goes on behind it; `getx` and
`putx` also have a list of indices. While no entry is free it stalls, and while a store waits in the buffer, which is the model's choice
of a place for the order of the transfer behind earlier stores (log 44). A transfer moves its bytes (R269, R270): when both ends of a
`get` or a `put` within the module are translated, each to one run of locations, TRANSFER_COMPLETE copies the bytes (where the two runs
overlap each byte is the original one or one that the transfer has written), advances the completion counter of the issuing thread, and
frees the ring entry. A transfer that has failed (R271): TRANSFER_FAILURE frees its ring entry and makes a late engine trap pending in
its slot, with the entry and the cause in `TINFO`; no byte of memory changes, and no counter. That the entry is free from then on is the
model's choice (log 80). -/
def Obligations.Transfers : Prop :=
  (∀ (s : State) (i : Instr) (put indexed : Bool) (d a n ix : Reg) (ctr : BitVec 4) (rmod : BitVec 8) (esz : BitVec 2)
     (ish : BitVec 3) (isz : BitVec 1),
     ((∃ o : XferO, ((i = .get o ∧ put = false) ∨ (i = .put o ∧ put = true)) ∧ indexed = false ∧ d = o.d ∧ a = o.a ∧ n = o.b ∧
         ctr = o.ctr ∧ rmod = o.rmod ∧ ix = 0 ∧ esz = 0 ∧ ish = 0 ∧ isz = 0) ∨
      (∃ o : XferI, ((i = .getx o ∧ put = false) ∨ (i = .putx o ∧ put = true)) ∧ indexed = true ∧ d = o.d ∧ a = o.a ∧ n = o.c ∧
         ctr = o.ctr ∧ rmod = o.rmod ∧ ix = o.b ∧ esz = o.esz ∧ ish = o.ish ∧ isz = o.isz)) →
     Ready s [d, a, n, ix] →
     (let cnt := (s.g n).toNat % 2 ^ 24
      let here : Side := ⟨(s.g d).toNat, if indexed then cnt * 2 ^ esz.toNat else cnt, localEnd, if put then .load else .store, false⟩
      let there : Side := ⟨(s.g a).toNat, if indexed then 1 else cnt, remoteEnd, if put then .store else .load, rmod != 0⟩
      let list : Side := ⟨(s.g ix).toNat, cnt * 2 ^ (2 + isz.toNat), localEnd, .load, false⟩
      s.sideFails (here :: there :: (if indexed then [list] else [])) = none) →
     (rmod ≠ 0 → (s.modRoute s.th.ctx rmod.toNat).isSome = true) →
     (∀ (r : Fin 16) (more : List (Fin 16)), s.core.freeRing = r :: more → s.core.submitted.length ≤ more.length → s.th.sb = [] →
       s.th.fstWaits = false →
       GoesOn (exec i s) s fun t => t.th.g = s.th.g ∧ t.core.ring = s.core.ring.set r.val (.transfer s.cur s.xferNo) ∧
         t.xfers = s.xfers ++ [{
           id := s.xferNo, at_ := s.cid, slot := s.cur, uid := s.th.uid, ctx := s.th.ctx, user := !s.th.mode, put := put
           indexed := indexed, loc := (s.g d).setWidth 48, rem := (s.g a).setWidth 48, count := (s.g n).setWidth 24
           idx := if indexed then (s.g ix).setWidth 48 else 0, esz := esz, ish := ish, isz := isz, ctr := ctr, rmod := rmod
           ring := BitVec.ofNat 4 r.val }]) ∧
     (s.core.freeRing = [] → exec i s = .next s.stall) ∧ (s.th.sb ≠ [] ∨ s.th.fstWaits = true → exec i s = .next s.stall)) ∧
  (∀ (s : State) (ring : BitVec 4) (x : Transfer) (a b n : Nat), s.transferOf ring = some x → x.at_ = s.cid → x.ring = ring →
     x.waiting = false → x.fail = none → x.rmod = 0 → x.indexed = false → n = x.count.toNat → 0 < n →
     (let src := if x.put then x.loc.toNat else x.rem.toNat
      let dst := if x.put then x.rem.toNat else x.loc.toNat
      src + n ≤ 2 ^ 48 ∧ dst + n ≤ 2 ^ 48 ∧ localEnd (spaceOf x.loc.toNat) = true ∧ remoteEnd (spaceOf x.rem.toNat) = true ∧
      s.find (s.xferWho x) {} src n = (.parts [⟨a, n⟩], s) ∧ s.find (s.xferWho x) { w := true } dst n = (.parts [⟨b, n⟩], s)) →
     s.bankHeld [⟨a, n⟩] none = false → s.bankHeld [⟨b, n⟩] none = false → s.badPart [⟨a, n⟩] = none → s.refuses [⟨b, n⟩] = none →
     (∀ k < n, Plain (b + k)) → (s.servedBy x = some (s.clusterOf x.at_) → (s.clAt (s.clusterOf x.at_)).spent = false) →
     Memory.wf s.mem = true → (s.core.th x.slot).uid = x.uid → (s.core.th x.slot).status ≠ .empty →
     Happens (exec (.transferComplete ring) s) fun t =>
       MovedBytes s t a b n ∧
       t.core.ring[ring.toNat] = .free ∧ t.xfers = s.xfers.filter (fun y => y.id ≠ x.id) ∧
       (t.core.th x.slot).ctrs = (s.core.th x.slot).ctrs.set x.ctr.toNat ((s.core.th x.slot).ctrs[x.ctr.toNat] + 1) ∧
       ((∀ w ∈ s.waitaQ, w.at_ = s.cid → w.slot ≠ x.slot) → (t.core.th x.slot).g = (s.core.th x.slot).g)) ∧
  (∀ (s : State) (ring : BitVec 4) (x : Transfer) (c : BitVec 8), s.transferOf ring = some x → x.at_ = s.cid → x.ring = ring →
     x.slot = s.cur → x.fail = some c → s.th.uid = x.uid → s.th.status ≠ .empty →
     (∀ i, i ≠ s.cur → (s.core.th i).uid ≠ x.uid ∨ (s.core.th i).status = .empty) →
     Happens (exec (.transferFailure ring c) s) fun t => SameBytes s t ∧ t.core.ring[ring.toNat] = .free ∧
       t.xfers = s.xfers.filter (fun y => y.id ≠ x.id) ∧ t.th.ctrs = s.th.ctrs ∧ t.th.g = s.th.g ∧ t.th.pc = s.th.pc ∧
       t.th.async = s.th.async ++ [⟨0x0B, 0, BitVec.ofNat 64 (ring.toNat + 2 ^ 8 * c.toNat)⟩])

/-- Completion counters (R272, R273): `cop` adds to a counter and gives the old value; `cwait` gives the counter's value once it has
come to the goal, counted modulo 2^32, and parks on it until then. Mailboxes (R282, R283): `mbind` binds a mailbox of the core, to a
word of the local store or scratchpad or to a message class, or unbinds it; a PC that no handler may have is a bad target. That it is
checked for TRIG 0 too (log 46), and that a new binding drops a launch that is pending (log 81), are the model's choices. MAILBOX_LAUNCH
starts the handler of the lowest pending mailbox in its slot, if that is Empty. -/
def Obligations.CountersAndMailboxes : Prop :=
  (∀ (s : State) (i : Instr) (o : CtrO), o.d.toNat < 32 → Ready s [o.d, o.a] →
     let old := s.th.ctrs[o.ctr.toNat]
     let x := (s.g o.a).setWidth 32
     ((i = .cop o ∨ i = .copL2 o) → Happens (exec i s) fun t => t.th.pc = s.th.nextPc ∧ t.th.status = .ready ∧ SameBytes s t ∧
       t.GAre (s.gWith o.d (old.setWidth 64)) ∧ t.th.ctrs = s.th.ctrs.set o.ctr.toNat (old + x) ∧
       s.th.KeepsRegs { t.th with ctrs := s.th.ctrs }) ∧
     ((i = .cwait o ∨ i = .cwaitL2 o) →
       ((old - x).toNat < 2 ^ 31 → Reads (exec i s) s (s.gWith o.d (old.setWidth 64))) ∧
       (2 ^ 31 ≤ (old - x).toNat → Parks (exec i s) s (.counter o.ctr.toNat) fun _ => True))) ∧
  ((∀ (s : State) (o : MbindO), Ready s [o.a, o.b, 31] →
     (∀ loc, (o.trig = 1 → s.mailWord (s.g o.a).toNat = .inl loc) → (o.trig ≠ 1 → loc = 0) →
       (o.trig = 2 → (s.core.bind[o.cls.toNat]).map (·.slot) = some (slotOf o.slot)) →
       (handlerBad (s.g o.b).toNat = true → exec (.mbind o) s = .next (s.trapAt 3 0 (s.g o.b))) ∧
       (handlerBad (s.g o.b).toNat = false → GoesOn (exec (.mbind o) s) s fun t => t.th.g = s.th.g ∧
         t.core.mail = s.core.mail.set o.mi.toNat (if o.trig = 0 then none else some {
           loc := loc, pc := (s.g o.b).setWidth 48, slot := slotOf o.slot, trig := o.trig, cls := o.cls, team := s.th.team
           g31 := s.g 31 })))) ∧
   (∀ (s : State) (slot : BitVec 2) (n : Fin 4) (b : Mailbox) (v : Word) (more : List Word) (id : Nat) (tm : Team) (p : Seat),
     (s.core.th (slotOf slot)).status = .empty → s.core.fenced = false → s.core.mail[n.val] = some b → b.slot = slotOf slot →
     b.pending = v :: more → s.outOf s.cid b.slot b.team = false →
     (∀ m : Fin 4, m < n → ∀ c, s.core.mail[m.val] = some c → c.slot ≠ slotOf slot ∨ c.pending = []) →
     b.team = some id → s.team id = some tm → tm.st = .running → tm.aborted = false → tm.seatAt s.cid b.slot = some p →
     Happens (exec (.mailboxLaunch slot) s) fun t => SameBytes s t ∧
       (∃ c, t.core.mail[n.val] = some c ∧ c.pending = more) ∧
       (let u := t.core.th (slotOf slot)
        u.status = .ready ∧ u.pc = b.pc ∧ u.ctx = tm.ctx ∧ u.mode = false ∧ u.ie = true ∧ u.team = some id ∧
        ∀ r : Reg, r.toNat < 32 → u.greg r = if r = 3 then v else if r = 4 then BitVec.ofNat 64 n.val else if r = 31 then b.g31 else 0)))

/-- Barriers (R276, R277, Table 10.9): an idle member arrives; the last arrival advances the count and releases every member; a released
member takes the count and is idle again; an arrived member parks; an idle member that waits without having arrived gets bit 63 with the
count. -/
def Obligations.GroupBarriers : Prop :=
  ∀ (s : State) (o : GbarG) (g : Group) (i : Nat) (m : Member), o.a.toNat < 32 → Ready s [o.a] → InGroup s o.gm g i m → s.th.sb = [] →
    s.th.fstWaits = false →
    let last := ∀ j x, g.members[j]? = some x → j ≠ i → x.bar = .arrived
    let all := g.members.map fun x => { x with bar := .released }
    (m.bar ≠ .idle → CompletesOnly (exec (.gbarArr ⟨o.gm⟩) s) s) ∧
    (m.bar = .idle → last → GoesOn (exec (.gbarArr ⟨o.gm⟩) s) s fun t => t.th.g = s.th.g ∧
      t.groupOf o.gm = some { g with bc := g.bc + 1, members := all }) ∧
    (m.bar = .idle → ¬last → GoesOn (exec (.gbarArr ⟨o.gm⟩) s) s fun t => t.th.g = s.th.g ∧
      t.groupOf o.gm = some { g with members := g.members.set i { m with bar := .arrived } }) ∧
    (m.bar = .idle → CompletesG (exec (.gbarWait o) s) s o.a (BitVec.ofNat 64 (2 ^ 63 + g.bc.toNat))) ∧
    (∀ k, k = .gbarWait o ∨ k = .gbar o →
      (m.bar = .released → GoesOn (exec k s) s fun t => t.GAre (s.gWith o.a (g.bc.setWidth 64)) ∧
        t.groupOf o.gm = some { g with members := g.members.set i { m with bar := .idle } }) ∧
      (m.bar = .arrived → Parks (exec k s) s (.group g.ctx.toNat g.gid) fun t => t.groupOf o.gm = some g)) ∧
    (m.bar = .idle → last → GoesOn (exec (.gbar o) s) s fun t => t.GAre (s.gWith o.a ((g.bc + 1).setWidth 64)) ∧
      t.groupOf o.gm = some { g with bc := g.bc + 1, members := all.set i { m with bar := .idle } }) ∧
    (m.bar = .idle → ¬last → Parks (exec (.gbar o) s) s (.group g.ctx.toNat g.gid) fun t =>
      t.groupOf o.gm = some { g with members := g.members.set i { m with bar := .arrived } })

/-- `gred` on `g` registers (R276, R278, R279): the last member forms the sum, the least, the greatest, the AND or the OR of the values
of all members, TY 0 signed and TY 1 unsigned, and takes it; a member before it parks with its value contributed; a member whose result
is there takes it. `gred` on `v` registers (R279): the result is in the destination's `v` register, the flags of the rounding in
`FFLAGS`, and no `g` register changes. What `gred` on FP64 `v` registers forms (R279), when the last member contributes: the exact sum
of all members' finite values rounded once to nearest-even, whatever the order; the least or the greatest of values that are no NaN, -0
below +0; the AND or the OR of their bits. -/
def Obligations.GroupReductions : Prop :=
  (∀ (s : State) (k : Instr) (op : Nat) (d a : Reg) (gm : BitVec 2) (ty : BitVec 1) (g : Group) (i : Nat) (m : Member),
     ((∃ o : GredR, o.file = 0 ∧ d = o.d ∧ a = o.a ∧ gm = o.gm ∧ ty = o.ty ∧ ((k = .gredSum o ∧ op = 0) ∨ (k = .gredMin o ∧ op = 1) ∨
         (k = .gredMax o ∧ op = 2) ∨ (k = .gredAnd o ∧ op = 3) ∨ (k = .gredOr o ∧ op = 4))) ∨
      (∃ o : GredX, o.file = 0 ∧ d = o.d ∧ a = o.a ∧ gm = o.gm ∧ ty = o.ty ∧ ((k = .gredSumL2 o ∧ op = 0) ∨ (k = .gredMinL2 o ∧ op = 1) ∨
         (k = .gredMaxL2 o ∧ op = 2) ∨ (k = .gredAndL2 o ∧ op = 3) ∨ (k = .gredOrL2 o ∧ op = 4)))) →
     d.toNat < 32 → 0 < d.toNat → a.toNat < 32 → Ready s [d, a] → InGroup s gm g i m → s.th.sb = [] → s.th.fstWaits = false →
     let key := op + 8 * ty.toNat
     (m.col = .idle → (∀ j x, g.members[j]? = some x → j ≠ i → ∃ v, x.col = .contributed { what := 0, key := key, val := v }) →
       let vs := (g.members.set i { m with col := .contributed { what := 0, key := key, val := s.g a } }).filterMap
         fun x => x.contribution.map (·.val)
       GoesOn (exec k s) s fun t => (∀ r : Reg, r.toNat < 32 → r ≠ d → t.g r = s.g r) ∧
         (op = 0 → t.g d = vs.foldl (· + ·) 0) ∧ (op = 3 → t.g d = vs.foldl (· &&& ·) (BitVec.allOnes 64)) ∧
         (op = 4 → t.g d = vs.foldl (· ||| ·) 0) ∧
         (op = 1 ∨ op = 2 → t.g d ∈ vs ∧ ∀ v ∈ vs,
           let lo := if op = 1 then t.g d else v
           let hi := if op = 1 then v else t.g d
           if ty = 0 then lo.toInt ≤ hi.toInt else lo.toNat ≤ hi.toNat) ∧
         ∃ h, t.groupOf gm = some h ∧ h.members[i]? = some { m with col := .idle } ∧
           ∀ j x, h.members[j]? = some x → j ≠ i → x.col = .done (t.g d) 0) ∧
     (m.col = .idle → (∃ j x, g.members[j]? = some x ∧ j ≠ i ∧ x.contribution = none) →
       Parks (exec k s) s (.group g.ctx.toNat g.gid) fun t => t.groupOf gm = some { g with
         members := g.members.set i { m with col := .contributed { what := 0, key := key, val := s.g a } } }) ∧
     (∀ v fl, m.col = .done v fl → GoesOn (exec k s) s fun t => t.GAre (s.gWith d v) ∧
       t.groupOf gm = some { g with members := g.members.set i { m with col := .idle } })) ∧
  (∀ (s : State) (k : Instr) (d : BitVec 6) (a : BitVec 6) (gm : BitVec 2) (g : Group) (i : Nat) (m : Member) (v : Word) (fl : Nat),
     ((∃ o : GredR, o.file = 1 ∧ d = o.d ∧ a = o.a ∧ gm = o.gm ∧ (k = .gredSum o ∨ k = .gredMin o ∨ k = .gredMax o ∨ k = .gredAnd o ∨
         k = .gredOr o)) ∨
      (∃ o : GredX, o.file = 1 ∧ d = o.d ∧ a = o.a ∧ gm = o.gm ∧ (k = .gredSumL2 o ∨ k = .gredMinL2 o ∨ k = .gredMaxL2 o ∨
         k = .gredAndL2 o ∨ k = .gredOrL2 o)) ∨
      (∃ o : GcastR, o.file = 1 ∧ d = o.d ∧ a = o.a ∧ gm = o.gm ∧ k = .gcast o) ∨
      (∃ o : GcastX, o.file = 1 ∧ d = o.d ∧ a = o.a ∧ gm = o.gm ∧ k = .gcastL2 o ∧ s.pendingG o.c = false)) →
     d.toNat < 48 → Ready s [] → InGroup s gm g i m → m.col = .done v fl → FIdle s →
     Happens (exec k s) fun t => t.th.pc = s.th.nextPc ∧ t.th.g = s.th.g ∧ SameBytes s t ∧ t.th.fflags = s.th.fflags ||| BitVec.ofNat 5 fl ∧
       ∀ n < 48, t.th.vreg n = if n = d.toNat then v else s.th.vreg n) ∧
  (∀ (s : State) (k : Instr) (op : Nat) (d a : BitVec 6) (gm : BitVec 2) (g : Group) (i : Nat) (m : Member),
     ((∃ o : GredR, o.file = 1 ∧ o.ty = 0 ∧ d = o.d ∧ a = o.a ∧ gm = o.gm ∧ (k, op) ∈ [(Instr.gredSum o, 0), (.gredMin o, 1), (.gredMax o, 2),
         (.gredAnd o, 3), (.gredOr o, 4)]) ∨
      (∃ o : GredX, o.file = 1 ∧ o.ty = 0 ∧ d = o.d ∧ a = o.a ∧ gm = o.gm ∧ (k, op) ∈ [(Instr.gredSumL2 o, 0), (.gredMinL2 o, 1),
         (.gredMaxL2 o, 2), (.gredAndL2 o, 3), (.gredOrL2 o, 4)])) →
     d.toNat < 48 → a.toNat < 48 → Ready s [] → InGroup s gm g i m → s.th.sb = [] → FIdle s → m.col = .idle →
     let own : Contribution := { what := 0, key := op + 16, val := s.th.vreg a.toNat }
     (∀ j x, g.members[j]? = some x → j ≠ i → ∃ v, x.col = .contributed { own with val := v }) →
     let vs := (g.members.set i { m with col := .contributed own }).filterMap fun x => x.contribution.map (·.val)
     let N := vs.foldl (fun n v => n + fp64Int v) 0
     let key := fun v : Word => 2 * fpOrd 11 52 v.toNat - if fpNeg 11 52 v.toNat then 1 else 0
     let fin := ∀ v ∈ vs, fp64Fin v
     let num := ∀ v ∈ vs, fpNan 11 52 v.toNat = false
     Happens (exec k s) fun t => t.th.pc = s.th.nextPc ∧ t.th.g = s.th.g ∧ SameBytes s t ∧
       (∀ n < 48, n ≠ d.toNat → t.th.vreg n = s.th.vreg n) ∧
       (let r := t.th.vreg d.toNat
        (op = 0 → fin → InRange64 N 1 → Rounded64 0 N 1 r ∧
           (N = 0 → fpNeg 11 52 r.toNat = vs.all fun v => fpNeg 11 52 v.toNat) ∧
           ((t.th.fflags = s.th.fflags ∧ fp64Int r = N) ∨ (t.th.fflags = s.th.fflags ||| 1 ∧ fp64Int r ≠ N))) ∧
        (op = 1 → num → r ∈ vs ∧ ∀ v ∈ vs, key r ≤ key v) ∧ (op = 2 → num → r ∈ vs ∧ ∀ v ∈ vs, key v ≤ key r) ∧
        (op = 3 → r = vs.foldl (· &&& ·) (BitVec.allOnes 64)) ∧ (op = 4 → r = vs.foldl (· ||| ·) 0)) ∧
       ∃ h, t.groupOf gm = some h ∧ ∀ j x, h.members[j]? = some x → j ≠ i → ∃ fl, x.col = .done (t.th.vreg d.toNat) fl)

/-- `gcast` (R280): once every member has contributed and all name the same member, each gets that member's value; in the short form
that is member 0. Collectives that do not agree (R278, R280): when the last member contributes and some member's contribution is of
another instruction, OP, TY, FILE or root index, or all name a root that is no member, every member's result is all ones, and no record
is written. `gsum` (R281, Table 10.10): when the last member contributes, the record is written at the address that member 0 gave, or
gives now: the sums of all members' counts, the number of members, and a bit for each counter that every member has set up alike; no
other byte changes, and D gets the number of members. -/
def Obligations.GroupExchange : Prop :=
  (∀ (s : State) (k : Instr) (d a c : Reg) (gm : BitVec 2) (g : Group) (i : Nat) (m : Member),
     ((∃ o : GcastR, o.file = 0 ∧ d = o.d ∧ a = o.a ∧ gm = o.gm ∧ k = .gcast o ∧ c = 0) ∨
      (∃ o : GcastX, o.file = 0 ∧ d = o.d ∧ a = o.a ∧ gm = o.gm ∧ k = .gcastL2 o ∧ c = o.c)) →
     d.toNat < 32 → Ready s [c, d, a] → InGroup s gm g i m → s.th.sb = [] → s.th.fstWaits = false → m.col = .idle →
     let root := (s.g c).toNat % 2 ^ 20
     let own : Contribution := { what := 1, key := 32 * root, val := s.g a }
     (∀ j x, g.members[j]? = some x → j ≠ i → ∃ v, x.col = .contributed { own with val := v }) → root < g.members.length →
     ∃ v, (g.members.set i { m with col := .contributed own })[root]?.bind Member.contribution = some { own with val := v } ∧
       GoesOn (exec k s) s fun t => t.GAre (s.gWith d v)) ∧
  (∀ (s : State) (k : Instr) (regs : List Reg) (d : Reg) (gm : BitVec 2) (g : Group) (i : Nat) (m : Member) (what key : Nat),
     ((∃ o : GredR, o.file = 0 ∧ regs = [o.d, o.a] ∧ d = o.d ∧ gm = o.gm ∧ what = 0 ∧ (k, key) ∈ [(Instr.gredSum o, 8 * o.ty.toNat),
         (.gredMin o, 1 + 8 * o.ty.toNat), (.gredMax o, 2 + 8 * o.ty.toNat), (.gredAnd o, 3 + 8 * o.ty.toNat), (.gredOr o, 4 + 8 * o.ty.toNat)]) ∨
      (∃ o : GredX, o.file = 0 ∧ regs = [o.d, o.a] ∧ d = o.d ∧ gm = o.gm ∧ what = 0 ∧ (k, key) ∈ [(Instr.gredSumL2 o, 8 * o.ty.toNat),
         (.gredMinL2 o, 1 + 8 * o.ty.toNat), (.gredMaxL2 o, 2 + 8 * o.ty.toNat), (.gredAndL2 o, 3 + 8 * o.ty.toNat),
         (.gredOrL2 o, 4 + 8 * o.ty.toNat)]) ∨
      (∃ o : GcastR, o.file = 0 ∧ regs = [0, o.d, o.a] ∧ d = o.d ∧ gm = o.gm ∧ k = .gcast o ∧ what = 1 ∧ key = 0) ∨
      (∃ o : GcastX, o.file = 0 ∧ regs = [o.c, o.d, o.a] ∧ d = o.d ∧ gm = o.gm ∧ k = .gcastL2 o ∧ what = 1 ∧ key = 32 * ((s.g o.c).toNat % 2 ^ 20)) ∨
      (∃ o : GsumO, 0 < i ∧ regs = [o.d, o.a] ∧ d = o.d ∧ gm = o.gm ∧ k = .gsum o ∧ what = 2 ∧ key = 0)) →
     d.toNat < 32 → Ready s regs → InGroup s gm g i m → s.th.sb = [] → s.th.fstWaits = false → m.col = .idle →
     (∀ j x, g.members[j]? = some x → j ≠ i → ∃ c, x.col = .contributed c) →
     ((∃ j x c, g.members[j]? = some x ∧ j ≠ i ∧ x.col = .contributed c ∧ (c.what ≠ what ∨ c.key ≠ key)) ∨
      (what = 1 ∧ g.members.length ≤ key / 32 ∧ ∀ j x c, g.members[j]? = some x → j ≠ i → x.col = .contributed c → c.what = 1 ∧ c.key = key)) →
     GoesOn (exec k s) s fun t => t.GAre (s.gWith d (BitVec.allOnes 64)) ∧
       ∃ h, t.groupOf gm = some h ∧ ∀ j x, h.members[j]? = some x → j ≠ i → x.col = .done (BitVec.allOnes 64) 0) ∧
  (∀ (s : State) (o : GsumO) (g : Group) (i : Nat) (m : Member) (loc : Nat) (ps : List Part) (f : Nat → Contribution),
     o.d.toNat < 32 → Ready s [o.d, o.a] → InGroup s o.gm g i m → s.th.sb = [] → s.th.fstWaits = false → s.Unlisted → m.col = .idle →
     g.members.length ≤ 2 ^ 20 → Memory.wf s.mem = true → (0 < i → (f 0).loc = ps) → (i = 0 → Passes s (s.g o.a) 144 16 true ps) →
     (∀ j x, g.members[j]? = some x → j ≠ i → x.col = .contributed (f j)) → (∀ j, (f j).what = 2 ∧ (f j).key = 0) →
     partLocs ps = (List.range 144).map (loc + ·) → s.refuses ps = none → (∀ k < 144, Plain (loc + k)) →
     let own : List Nat := s.core.evc.toList.map (·.toNat)
     let of := fun j : Nat => if j = i then own else (f j).counts
     let js := List.range g.members.length
     ∃ t, exec (.gsum o) s = .next t ∧ t.th.pc = s.th.nextPc ∧ t.th.status = .ready ∧ s.th.KeepsRegs t.th ∧ t.GAre (s.gWith o.d (BitVec.ofNat 64 g.members.length)) ∧
       (∀ n < 16, Memory.read t.mem (loc + 8 * n) 8 = (js.map fun j => bits ((of j).getD n 0) 0 32).sum) ∧
       Memory.read t.mem (loc + 128) 8 = g.members.length ∧
       (∀ n < 64, (Memory.read t.mem (loc + 136) 8).testBit n = (decide (n < 16) && decide (∀ j ∈ js,
         bits ((of j).getD n 0) 32 8 = bits ((of 0).getD n 0) 32 8 ∧ bits ((of j).getD n 0) 44 1 = bits ((of 0).getD n 0) 44 1))) ∧
       ∀ a, (a < loc ∨ loc + 144 ≤ a) → Memory.byte t.mem a = Memory.byte s.mem a)

/-- R302: when a semaphore meets its threshold; the increment that resets it. -/
def Obligations.SemaphoreCondition : Prop :=
  (∀ v t : BitVec 16, semMeets v t = true ↔ (v.toNat + 2 ^ 16 - t.toNat) % 2 ^ 16 < 2 ^ 15) ∧
  (∀ (s : State) (o : SemR), Ready s [o.d, o.a, o.b] → o.d.toNat < 32 → o.sc = 0 → s.cl.semWait = [] →
    (s.g o.b).toNat % 2 ^ 16 = (2 ^ 16 - (s.sem ((s.g o.a).toNat % 256)).toNat) % 2 ^ 16 →
    GoesOn (exec (.semsig o) s) s fun t => t.sem ((s.g o.a).toNat % 256) = 0)

/-- Semaphores (R300, R302, R322, R323): `semsig` gives the old value and adds to it, modulo 2^16, and a waiter whose threshold is then
met completes in its slot; `semwait` gives the value when it meets the threshold, and parks behind the other waiters until then;
`semread` reads. `estat` (R306, R324, Table 11.15): the state of a ring entry, a word of its command's record (with PROG as a failure
left it), and the sums over the window and the core's queues; `.res` starts a failed command again and `.del` discards one that has
failed or was rejected, each giving 1 if it did; in user mode only for entries that the own slot submitted. That every field of a free
entry reads 0, and that `.res` and `.del` of a free entry take no trap and give 0, is the model's choice (log 80). -/
def Obligations.SemaphoresAndStatus : Prop :=
  (∀ (s : State) (i : Instr) (d a b : Reg) (sc : BitVec 3), d.toNat < 32 → Ready s [d, a, b] →
     let n := (s.g a).toNat % 256
     let x := (s.g b).setWidth 16
     let v := s.sem n
     (((∃ o : SemR, i = .semsig o ∧ d = o.d ∧ a = o.a ∧ b = o.b ∧ sc = o.sc) ∨
         (∃ o : SemX, i = .semsigL2 o ∧ d = o.d ∧ a = o.a ∧ b = o.b ∧ sc = o.sc)) → (sc = 0 ∨ (s.th.sb = [] ∧ s.th.fstWaits = false)) →
       ((∀ w ∈ s.cl.semWait, w.sem ≠ n) → GoesOn (exec i s) s fun t => t.GAre (s.gWith d (v.setWidth 64)) ∧
         ∀ k < 256, t.sem k = if k = n then v + x else s.sem k) ∧
       (∀ w, s.cl.semWait = [w] → w.sem = n → semMeets (v + x) w.thr = true → w.at_ = s.cid → w.slot ≠ s.cur → w.d.toNat < 32 → 0 < w.d.toNat →
         GoesOn (exec i s) s fun t => t.sem n = v + x ∧ t.cl.semWait = [] ∧ (t.core.th w.slot).status = .ready ∧
           (t.core.th w.slot).pc = (s.core.th w.slot).nextPc ∧ (t.core.th w.slot).greg w.d = (v + x).setWidth 64)) ∧
     (((∃ o : SemR, i = .semwait o ∧ d = o.d ∧ a = o.a ∧ b = o.b ∧ sc = o.sc) ∨
         (∃ o : SemX, i = .semwaitL2 o ∧ d = o.d ∧ a = o.a ∧ b = o.b ∧ sc = o.sc)) →
       ((v - x).toNat < 2 ^ 15 → Reads (exec i s) s (s.gWith d (v.setWidth 64))) ∧
       (2 ^ 15 ≤ (v - x).toNat → Parks (exec i s) s (.semaphore n) fun t => ∃ w, t.cl.semWait = s.cl.semWait ++ [w] ∧ w.sem = n ∧
         w.at_ = s.cid ∧ w.slot = s.cur ∧ w.thr = x ∧ w.d = d)) ∧
     (∀ o : GG, o.d = d → o.a = a → (i = .semread o ∨ i = .semreadL2 o) → CompletesG (exec i s) s d (v.setWidth 64))) ∧
  (∀ (s : State) (o : GG), o.d.toNat < 32 → Ready s [o.d, o.a] →
     let e := (s.g o.a).toNat % 16
     (∀ i, i = .estatSt o ∨ i = .estatStL2 o →
       (s.ringAt e = .free → CompletesG (exec i s) s o.d 0) ∧
       (∀ slot id, s.ringAt e = .transfer slot id → CompletesG (exec i s) s o.d (BitVec.ofNat 64 (5 + 16 * slot.val))) ∧
       (∀ eng ix slot id j, s.ringAt e = .command eng ix slot id → s.anyJob id = some j → CompletesG (exec i s) s o.d
         (BitVec.ofNat 64 ((if j.st = .failed then 2 else if j.st = .rejected then 3 else 1) + 8 * eng.toNat + 16 * slot.val +
           64 * ix.toNat + 2 ^ 16 * j.acause.toNat + 2 ^ 32 * j.typ)))) ∧
     (∀ i, i = .estatRec o ∨ i = .estatRecL2 o → ∀ eng ix slot id j, s.ringAt e = .command eng ix slot id → s.anyJob id = some j →
       (let k := (s.g o.a).toNat / 16 % 8
        let w := j.rcd.extractLsb' (64 * k) 64
        (∀ n, j.asked = some n → k = 7 → CompletesG (exec i s) s o.d (BitVec.ofNat 64 (w.toNat / 4096 * 4096 + n.toNat % 4096))) ∧
        ((j.asked = none ∨ k ≠ 7) → CompletesG (exec i s) s o.d w))) ∧
     (∀ i, i = .estatRec o ∨ i = .estatRecL2 o → (s.ringAt e = .free ∨ ∃ slot id, s.ringAt e = .transfer slot id) →
       CompletesG (exec i s) s o.d 0) ∧
     (∀ (i : Instr) (del : Bool), (((i = .estatRes o ∨ i = .estatResL2 o) ∧ del = false) ∨ ((i = .estatDel o ∨ i = .estatDelL2 o) ∧ del = true)) →
       ((s.th.mode = false ∧ ∃ k, s.ringSlot e = some k ∧ k ≠ s.cur) → exec i s = .next s.privileged) ∧
       ((s.th.mode = true ∨ ∀ k, s.ringSlot e = some k → k = s.cur) → ∀ eng ix slot id j,
         s.ringAt e = .command eng ix slot id → s.anyJob id = some j →
         ((j.st ≠ .failed ∧ (j.st ≠ .rejected ∨ del = false)) → CompletesG (exec i s) s o.d 0) ∧
         (j.st = .failed ∨ j.st = .rejected ∧ del = true → GoesOn (exec i s) s fun t => t.GAre (s.gWith o.d 1) ∧
           ∀ x ∈ t.cl.window, x.id = j.id → x.st = if del then .discarded else .waiting)) ∧
       (s.ringAt e = .free → CompletesG (exec i s) s o.d 0)) ∧
     (∀ i, i = .estatWin ⟨o.d⟩ ∨ i = .estatWinL2 ⟨o.d⟩ → CompletesG (exec i s) s o.d (BitVec.ofNat 64 s.winStatus)) ∧
     (∀ i, i = .estatQ ⟨o.d⟩ ∨ i = .estatQL2 ⟨o.d⟩ → CompletesG (exec i s) s o.d (BitVec.ofNat 64 s.queueStatus)))

/-- Coordinate slots (R342, R354): `vbind` brings a descriptor into a slot, with V set; one with a reserved bit, a scope of 0, 1 or 7,
or an address that is not aligned raises the reserved-field trap and leaves the slot as it was; `vbind.off` empties the slot; a slot
that a started stream uses raises the stream-state trap. Tiles (R344, R346, R359, R360), for a volume whose nodes, pool and blocks stand
in the cluster's own scratchpad: `calloc.get` gives the address of the tile; `calloc.cut` of an absent tile gives 0, and of one that is
there drops its look-aside entries, clears its entry in the tree if that is still what the lookup read, and gives the tile's address if
it was and 0 if not; `calloc.node` links a block as a node of level 3 where there was none and gives 1; `calloc.free` puts a block at
the head of the pool and gives the count of blocks in use; `cinv` and `cinv.all` of core scope drop the entries of the tile, or of the
volume, from the core's look-aside buffer and its cluster's. -/
def Obligations.Volumes : Prop :=
  (∀ (s : State) (i : Instr) (regs : List Reg) (cs : BitVec 2) (ea : Word) (ps : List Part),
     ((∃ o : VbM, i = .vbind o ∧ regs = [o.base] ∧ cs = o.cs ∧ ea = s.eaM o.base 3 o.off) ∨
      (∃ o : VbX, i = .vbindL2 o ∧ regs = regsX o.base o.ix o.body ∧ cs = o.cs ∧ ea = s.eaX o.base o.ix o.body)) →
     Ready s regs →
     (s.th.volInUse cs = true → exec i s = .next (s.illegal 8) ∧ exec (.vbindOff ⟨cs⟩) s = .next (s.illegal 8)) ∧
     (s.th.volInUse cs = false →
       (Happens (exec (.vbindOff ⟨cs⟩) s) fun t => t.th.pc = s.th.nextPc ∧ t.th.g = s.th.g ∧ t.th.coord = s.th.coord.set cs.toNat 0 ∧
         SameBytes s t ∧ s.th.KeepsRegs { t.th with coord := s.th.coord }) ∧
       (let qs := wordParts ps
        Passes s ea 64 64 false ps → s.bankHeld qs (some (s.cid, s.cur)) = false → s.badPart qs = none → s.th.fstAway = false →
         s.th.forward qs = .none →
         let x := s.readParts qs
         let bad := x / 2 ^ 224 ≠ 0 ∨ bits x 57 7 ≠ 0 ∨ bits x 50 3 ∈ [0, 1, 7] ∨ (bits x 50 3 ≠ 3 ∧ bits x 53 2 ≠ 0) ∨ bits x 0 6 ≠ 0 ∨ bits x 128 4 ≠ 0
         (¬ bad → Soon (exec i s) s qs fun out => Happens out fun t => t.th.pc = s.th.nextPc ∧ t.th.g = s.th.g ∧ SameBytes s t ∧
           t.th.coord = s.th.coord.set cs.toNat (BitVec.ofNat 256 (x + 2 ^ 57)) ∧ s.th.KeepsRegs { t.th with coord := s.th.coord }) ∧
         (bad → (s.near qs = true → exec i s = .next ((s.meterParts qs).illegal 3)) ∧
           (Enterable s → Soon (exec i s) s qs fun out => Happens out fun t => t.th.tcause.cause = 1 ∧ t.th.tcause.sub = 3 ∧ t.th.tpc = s.th.pc ∧
             t.th.ie = false ∧ t.th.coord = s.th.coord ∧ t.th.g = s.th.g ∧ SameBytes s t))))) ∧
  (∀ (s : State) (o : CvO) (e : Word), o.d.toNat < 32 → Ready s [o.a, o.d] → s.th.sb = [] → s.th.fstWaits = false → s.Unlisted →
     Memory.wf s.mem = true →
     let v := s.th.vol o.cs
     let c := s.g o.a
     volOn v = true → volRo v = false →
     (s.FindsTile v c true e → Reads (exec (.callocGet o) s) s (s.gWith o.d (BitVec.ofNat 64 (tileAddr e.toNat)))) ∧
     (s.FindsTile v c false e →
       (e = 0 → Reads (exec (.callocCut o) s) s (s.gWith o.d 0)) ∧
       (∀ (node loc x : Nat), e ≠ 0 → s.TreePath c.toNat [(15, 6), (10, 5), (6, 4)] (volRoot v) node →
         s.Holds (node + 8 * nodeIndex c.toNat 3 3) loc 8 x →
         (x = e.toNat → Updates (exec (.callocCut o) s) s (s.gWith o.d (BitVec.ofNat 64 (tileAddr e.toNat))) loc 8 0) ∧
         (x ≠ e.toNat → Reads (exec (.callocCut o) s) s (s.gWith o.d 0)) ∧
         Happens (exec (.callocCut o) s) fun t => ∀ y ∈ t.core.clab ++ (t.clAt s.cid.home).clab,
           y.ctx = s.th.ctx → y.vid = volVid v → y.key ≠ tileKey c.toNat)) ∧
     (∀ l, s.Holds (volRoot v + 8 * nodeIndex c.toNat 15 6) l 8 0 →
       Updates (exec (.callocNode ⟨o.d, o.a, o.cs, 3⟩) s) s (s.gWith o.d 1) l 8 (s.g o.d + 1).toNat) ∧
     (∀ l m h, s.Holds (volPool v) l 16 h → s.OwnSp (s.g o.d).toNat m → s.bankHeld [⟨m, 8⟩] (some (s.cid, s.cur)) = false →
       s.refuses [⟨m, 8⟩] = none → (s.g o.d).toNat < 2 ^ 48 → (s.g o.d).toNat % tileSize v = 0 → (m + 8 ≤ l ∨ l + 16 ≤ m) →
       let used := bits h 64 32 - 1
       bits h 96 32 = 0 →
       ∃ t, exec (.callocFree ⟨o.d, o.cs⟩) s = .next t ∧ t.th.pc = s.th.nextPc ∧ s.th.KeepsRegs t.th ∧
         t.GAre (s.gWith o.d (BitVec.ofNat 64 used)) ∧ Memory.read t.mem m 8 = bits h 0 48 ∧
         Memory.read t.mem l 16 = used * 2 ^ 64 + (bits h 48 16 + 1) % 2 ^ 16 * 2 ^ 48 + (s.g o.d).toNat % 2 ^ 48 ∧
         ∀ a, (a < l ∨ l + 16 ≤ a) → (a < m ∨ m + 8 ≤ a) → Memory.byte t.mem a = Memory.byte s.mem a) ∧
     (s.cid.core < 8 → s.th.shot = none → s.core.presented = false → (∀ r ∈ s.core.missQ, r.awaited = false) →
       (∀ (k : Fin 4) (l : List (Nat × Nat)), (s.core.th k).usesTile s.th.ctx l = false) →
       (∀ x ∈ s.coreIds, x.home = s.cid.home → ∀ (k : Fin 4) (l : List (Nat × Nat)), ((s.coreAt x).th k).loadsTile s.th.ctx l = false) →
       (GoesOn (exec (.cinv ⟨1, 0, o.a, o.cs⟩) s) s fun t => t.th.g = s.th.g ∧
         t.core.clab = s.core.clab.filter (fun y => !y.aimed s.th.ctx v (some (tileKey c.toNat))) ∧
         (t.clAt s.cid.home).clab = (s.clAt s.cid.home).clab.filter (fun y => !y.aimed s.th.ctx v (some (tileKey c.toNat)))) ∧
       (GoesOn (exec (.cinvAll ⟨1, 0, o.cs⟩) s) s fun t => t.th.g = s.th.g ∧
         t.core.clab = s.core.clab.filter (fun y => !y.aimed s.th.ctx v none) ∧
         (t.clAt s.cid.home).clab = (s.clAt s.cid.home).clab.filter (fun y => !y.aimed s.th.ctx v none))))

/-- Reading through a volume (R340, R346, R347, R355, R357, R358), when the lookup of the tile finds it in a look-aside buffer or has
its walk's result: `cld` loads the element of the coordinate, or gives the background value of a tile that the walk found absent;
`cprobe` gives the tile's address with bit 63, or 0; `cnbr` gives the mask of the tiles around it that are there. A slot with no volume
traps, whatever the volume instruction. Writing through a volume (R346, R353, R356, R359), when the lookup of the tile finds it in a
look-aside buffer or has its walk's result: `cst` puts the element's bytes into the store buffer; the atomics act on it as Table 5.6
says. A volume that is read-only traps every instruction that writes, `calloc` too, and elements below 4 bytes trap the atomics. -/
def Obligations.VolumeElements : Prop :=
  (∀ (s : State) (o : CldO) (e : Word), o.d.toNat < 32 → Ready s [o.a, o.d] →
     let v := s.th.vol o.cs
     let c := s.g o.a
     let n := 2 ^ volEsz v
     let p : CvO := ⟨o.d, o.a, o.cs⟩
     (volOn v = false →
       (∀ i, (i = .cld o ∨ i = .cprobe p ∨ i = .cnbr p ∨ i = .cst p ∨ i = .callocGet p ∨ i = .callocCut p ∨
           (∃ l, i = .callocNode ⟨o.d, o.a, o.cs, l⟩) ∨ ∃ sc gm, i = .cinv ⟨sc, gm, o.a, o.cs⟩) →
         exec i s = .next (s.trapAt 1 7 (c &&& 0x7FFFFFFFFFFFFFFF))) ∧
       (∀ q : CamoO, q.d = o.d → q.a = o.a → q.cs = o.cs → s.pendingG q.c = false → ∀ i, CamoForm q i →
         exec i s = .next (s.trapAt 1 7 (c &&& 0x7FFFFFFFFFFFFFFF))) ∧
       (∀ i, (i = .callocFree ⟨o.d, o.cs⟩ ∨ ∃ sc gm, i = .cinvAll ⟨sc, gm, o.cs⟩) →
         exec i s = .next (s.trapAt 1 7 0))) ∧
     (volOn v = true → s.FindsTile v c false e →
       (e = 0 → Reads (exec (.cld o) s) s (s.gWith o.d (extend n (o.sx == 0) (volBg v))) ∧
         Reads (exec (.cprobe p) s) s (s.gWith o.d 0)) ∧
       (e ≠ 0 →
         (∀ ps, Passes s.orderPoint (elemAddr v e.toNat c) n 1 false ps → s.badPart ps = none → s.th.fstAway = false → s.th.forward ps = .none →
           ReadsSoon (exec (.cld o) s) s ps (s.gWith o.d (extend n (o.sx == 0) (s.readParts ps)))) ∧
         Reads (exec (.cprobe p) s) s (s.gWith o.d (BitVec.ofNat 64 (2 ^ 63 + tileAddr e.toNat))))) ∧
     (volOn v = true → s.TilesNamed → ∀ f : Nat → Word,
       (∀ q ∈ nbrTiles c.toNat,
         let kept := s.th.got.find? fun g => g.for true (nbrKey v q.2)
         let walked := s.th.got.find? fun g => g.for true (walkKey v q.2.toNat false)
         kept = some ⟨true, nbrKey v q.2, .entry (f q.1)⟩ ∨ (kept = none ∧ walked = some ⟨true, walkKey v q.2.toNat false, .entry (f q.1)⟩) ∨
           (kept = none ∧ walked = none ∧ s.clabHit s.th.ctx v (tileKey q.2.toNat) = some (f q.1))) →
       ∃ m : Word, Reads (exec (.cnbr p) s) s (s.gWith o.d m) ∧
         ∀ b < 64, m.getLsbD b = (nbrTiles c.toNat).any fun q => q.1 == b && f q.1 != 0)) ∧
  (∀ (s : State) (o : CamoO) (e : Word) (loc : Nat), o.d.toNat < 32 → Ready s [o.a, o.d, o.c] → Memory.wf s.mem = true →
     let v := s.th.vol o.cs
     let c := s.g o.a
     let n := 2 ^ volEsz v
     let ea := elemAddr v e.toNat c
     volOn v = true →
     let at_ := BitVec.ofNat 64 (c.toNat % 2 ^ 63)
     let p : CvO := ⟨o.d, o.a, o.cs⟩
     (volRo v = true →
       (∀ i, i ∈ [.cst p, .callocGet p, .callocCut p] ∨ CamoForm o i → exec i s = .next (s.trapAt 5 0 at_)) ∧
       (∀ l, exec (.callocNode ⟨o.d, o.a, o.cs, l⟩) s = .next (s.trapAt 5 0 at_)) ∧
       exec (.callocFree ⟨o.d, o.cs⟩) s = .next (s.trapAt 5 0 0)) ∧
     (volRo v = false → volEsz v < 2 → ∀ i, CamoForm o i → exec i s = .next (s.trapAt 1 7 at_)) ∧
     (volRo v = false → s.th.sb = [] → s.th.fstWaits = false → s.FindsTile v c true e →
       (Passes s.orderPoint ea n 1 true [⟨loc, n⟩] → loc % 8 + n ≤ 8 →
         Happens (exec (.cst p) s) fun t => t.th.pc = s.th.nextPc ∧ t.th.g = s.th.g ∧ SameBytes s t ∧
           ∃ x, t.th.sb = [x] ∧ x.word = loc / 8 * 8 ∧ x.mask.toNat = (2 ^ n - 1) * 2 ^ (loc % 8) ∧
             x.data.toNat = (s.g o.d).toNat % 2 ^ (8 * n) * 2 ^ (8 * (loc % 8))) ∧
       (∀ (i : Instr) (new : Nat) (host : Bool), s.Unlisted → Plain loc → Passes s.orderPoint ea n n true [⟨loc, n⟩] → 2 ≤ volEsz v → spaceOf ea.toNat ≠ .cq →
         (host = true ∨ isHost loc = false) → s.badPart [⟨loc, n⟩] = none →
         (let x := BitVec.ofNat (8 * n) (s.readParts [⟨loc, n⟩])
          let y := (s.g o.c).setWidth (8 * n)
          (i = .camoadd o ∧ host = true ∧ new = (x + y).toNat) ∨ (i = .camoand o ∧ host = false ∧ new = (x &&& y).toNat) ∨
          (i = .camoor o ∧ host = false ∧ new = (x ||| y).toNat) ∨ (i = .camoxor o ∧ host = false ∧ new = (x ^^^ y).toNat) ∨
          (i = .camomin o ∧ host = false ∧ new = (if x.sle y then x else y).toNat) ∨
          (i = .camomax o ∧ host = false ∧ new = (if x.sle y then y else x).toNat) ∨
          (i = .camominz o ∧ host = false ∧ new = (if x ≤ y then x else y).toNat) ∨
          (i = .camomaxz o ∧ host = false ∧ new = (if x ≤ y then y else x).toNat) ∨
          (i = .camoswap o ∧ host = true ∧ new = y.toNat) ∨
          (i = .ccas o ∧ host = true ∧ new = (if x = (s.g o.d).setWidth (8 * n) then y else x).toNat)) →
         Soon (exec i s) s [⟨loc, n⟩] fun out =>
           Updates out s (s.gWith o.d (BitVec.ofNat 64 (s.readParts [⟨loc, n⟩]))) loc n new)))

/-- Reading and writing registers (R33 to R36, R221, Table 1.5): each of `csrr`, `csrw`, `csrs`, `csrc` gives the old value; the new one
is the source, the OR with it, or the AND with its complement. A number that names no register is illegal, a write that user mode may
not make is privileged, an access that needs it waits for the F drain. Nothing but the register written changes. Event counters (R485,
R486): `evc.rd` reads; `evc.set` gives the old value and sets the event, the slots and the enable with a count of zero, refusing an
event that Table 22.2 does not list; `evc.rc` reads and clears the count. -/
def Obligations.SystemRegisters : Prop :=
  (∀ (s : State) (o : CsrA), o.d.toNat < 32 → Ready s [o.d, o.a] →
     let n := o.num.toNat
     let x := s.g o.a
     let old := s.csr n
     (csrKnown o.num = false → exec (.csrr ⟨o.d, o.num⟩) s = .next (s.illegal 3) ∧ exec (.csrw o) s = .next (s.illegal 3) ∧
       exec (.csrs o) s = .next (s.illegal 3) ∧ exec (.csrc o) s = .next (s.illegal 3)) ∧
     (csrKnown o.num = true → s.th.mode = false → csrUserWrites n = false → ∀ i, i = .csrw o ∨ i = .csrs o ∨ i = .csrc o →
       exec i s = .next (s.trapAt 2 0 (BitVec.ofNat 64 n))) ∧
     (csrKnown o.num = true → (csrDrains n = true → s.th.rep.act = false ∧ s.th.fq = []) →
       CompletesG (exec (.csrr ⟨o.d, o.num⟩) s) s o.d old) ∧
     (csrKnown o.num = true → csrDrains n = true → s.th.fq ≠ [] → exec (.csrr ⟨o.d, o.num⟩) s = .next s.stall) ∧
     (∀ (i : Instr) (new : Word), (i = .csrw o ∧ new = x) ∨ (i = .csrs o ∧ new = old ||| x) ∨ (i = .csrc o ∧ new = old &&& ~~~x) →
       s.th.rep.act = false → s.th.fq = [] →
       let R := fun (P : Thread → Prop) (undo : Thread → Thread) => Happens (exec i s) fun t => t.th.pc = s.th.nextPc ∧
         t.th.status = .ready ∧ SameBytes s t ∧ t.GAre (s.gWith o.d old) ∧ P t.th ∧ s.th.KeepsRegs (undo t.th)
       (n = 2 → R (fun t => t.fflags = new.setWidth 5) fun t => { t with fflags := s.th.fflags }) ∧
       (n = 3 → R (fun t => t.srseed = new) fun t => { t with srseed := s.th.srseed }) ∧
       (n = 4 → R (fun t => t.srcount = new) fun t => { t with srcount := s.th.srcount }) ∧
       (n = 1 → new.toNat % 8 < 6 → R (fun t => t.rm = new.setWidth 3 ∧ t.ten = new.extractLsb' 8 5) fun t =>
         { t with rm := s.th.rm, ten := s.th.ten }) ∧
       (n = 1 → 6 ≤ new.toNat % 8 → exec i s = .next (s.illegal 3)) ∧
       (n = 9 → descValid (new.setWidth 32).toNat = true → R (fun t => t.efd = s.th.efd.set 1 (new.setWidth 32)) fun t =>
         { t with efd := s.th.efd }) ∧
       (n = 0x10 → R (fun t => t.tpc = new.setWidth 48) fun t => { t with tpc := s.th.tpc }) ∧
       (n = 0x13 → R (fun t => t.tvec = new.setWidth 48 &&& 0xFFFFFFFFFFC0) fun t => { t with tvec := s.th.tvec }) ∧
       (n = 0x15 → R (fun t => t.qhpc = new.setWidth 48) fun t => { t with qhpc := s.th.qhpc }) ∧
       (n = 0x16 → R (fun t => t.qlinkPc = new.setWidth 48 ∧ t.qlinkPort = new.extractLsb' 48 2) fun t =>
         { t with qlinkPc := s.th.qlinkPc, qlinkPort := s.th.qlinkPort }) ∧
       (s.th.mode = true →
         (n = 0 → R (fun t => t.ie = new.getLsbD 1) fun t => { t with ie := s.th.ie }) ∧
         (n = 0x14 → R (fun t => t.tdeleg = new) fun t => { t with tdeleg := s.th.tdeleg }) ∧
         (n = 0x25 → R (fun t => t.gmem = s.th.gmem.set 1 (new &&& gmemMask)) fun t => { t with gmem := s.th.gmem })))) ∧
  (∀ (s : State) (o : EvcA), o.d.toNat < 32 → Ready s [o.d, o.a] → s.th.rep.act = false → s.th.fq = [] →
     let old := s.core.evc[o.n.toNat]
     let r : EvcN := ⟨o.d, o.n⟩
     (CompletesG (exec (.evcRd r) s) s o.d old ∧ CompletesG (exec (.evcRdL2 r) s) s o.d old) ∧
     (∀ i, i = .evcSet o ∨ i = .evcSetL2 o →
       (eventKnown ((s.g o.a).extractLsb' 32 8).toNat = true → GoesOn (exec i s) s fun t => t.GAre (s.gWith o.d old) ∧
         t.core.evc = s.core.evc.set o.n.toNat (s.g o.a &&& 0x1FFF00000000)) ∧
       (eventKnown ((s.g o.a).extractLsb' 32 8).toNat = false → exec i s = .next (s.illegal 3))) ∧
     (∀ i, i = .evcRc r ∨ i = .evcRcL2 r → GoesOn (exec i s) s fun t => t.GAre (s.gWith o.d old) ∧
       t.core.evc = s.core.evc.set o.n.toNat (old &&& 0x1FFF00000000)))

/-- Taking a trap (R216, R218 to R220, R223, Table 8.5): `trap` and `brk` complete and then trap with their operand and PC in `TINFO`,
the PC behind them saved; a head that is no instruction, and a head with reserved operands, trap at themselves; a pending asynchronous
cause is entered before the slot's next instruction. A trap while traps are disabled halts the slot and is reported to the system slot.
Return from a trap (R222): `tret` goes to `TPC`, or after an F-side trap to the PC that was held; the held instructions, prefix and
repetition come back, traps are enabled, a user slot is in user mode, and a bank that the slot holds is free. With traps enabled it is
privileged. -/
def Obligations.Traps : Prop :=
  (∀ (s : State), Enterable s →
     (Ready s [] →
       (∀ (o : K16), ∃ t, exec (.trap o) s = .next t ∧ EntersTrap s t
         { cause := 0x0D, tinfo := BitVec.ofNat 64 (o.k.toNat + 2 ^ 16 * s.th.pc.toNat), tpc := s.th.nextPc } s.th.nextPc) ∧
       (s.core.dbg.haltBrk = false →
         (∃ t, exec .brk s = .next t ∧ EntersTrap s t
           { cause := 0x0C, tinfo := BitVec.ofNat 64 (2 ^ 16 * s.th.pc.toNat), tpc := s.th.nextPc } s.th.nextPc) ∧
         ∀ (o : K16), ∃ t, exec (.brkL1 o) s = .next t ∧ EntersTrap s t
           { cause := 0x0C, tinfo := BitVec.ofNat 64 (o.k.toNat + 2 ^ 16 * s.th.pc.toNat), tpc := s.th.nextPc } s.th.nextPc) ∧
       (s.core.dbg.haltBrk = true → ∀ i, (i = .brk ∨ ∃ o, i = .brkL1 o) → Happens (exec i s) fun t => t.core.dbg.halted = true ∧
         t.core.dbg.reason = 5 ∧ t.core.dbg.slot.toNat = s.cur.val ∧ t.th.pc = s.th.nextPc ∧ t.th.g = s.th.g ∧ SameBytes s t)) ∧
     (s.th.pp = false → ∀ (sub : BitVec 8) (head : BitVec 16), ∃ t, exec (.illegalInstruction sub head) s = .next t ∧
       EntersTrap s t { cause := 1, sub := sub, tinfo := head.setWidth 64, tpc := s.th.pc } s.th.pc) ∧
     (∀ a : AsyncCause, s.th.async = [a] → ¬(a.cause = 6 ∧ a.sub = 1) → s.th.status = .ready → s.core.lets s.cur = true → s.core.stepped s.cur = false →
       ∃ t, exec (.trapEntry s.slotNo) s = .next t ∧ t.th.async = [] ∧
         EntersTrap s t { cause := a.cause, sub := a.sub, tinfo := a.tinfo, late := a.cause != 0x0F, tpc := s.th.pc } s.th.pc) ∧
     (∀ u : State, u = s.setTh { s.th with ie := false } → Ready u [] → u.cur.val < 3 → ∀ o : K16,
       Happens (exec (.trap o) u) fun t => t.th.status = .halted ∧ t.th.tpc = u.th.tpc ∧ t.th.g = u.th.g ∧ SameBytes u t ∧
         ∃ r, t.core.missQ = u.core.missQ ++ [r] ∧ r.kind = 3 ∧ r.slot = u.slotNo ∧ r.addr.toNat = u.th.nextPc.toNat ∧ r.aux = 0x0D)) ∧
  (∀ (s : State) (h : Held) (pc : BitVec 48) (l : Line), Ready s [] →
     (s.th.ie = true → exec .tret s = .next s.privileged) ∧
     (s.th.ie = false → s.th.held = some h → s.th.rep.act = false → s.th.fq = [] →
       s.endHold.arriveReg ((if s.th.tcause.fside then h.resume else s.th.tpc).setWidth 64) = (.go pc l, s.endHold) →
       Happens (exec .tret s) fun t => t.th.pc = pc ∧ t.th.line = some l ∧ t.th.ie = true ∧ t.th.status = .ready ∧
         t.th.mode = (if s.cur.val < 3 then false else s.th.mode) ∧ t.th.fq = h.entries ∧ t.th.pp = h.pp ∧ t.th.prefixD = h.prefixD ∧
         t.th.rep = h.rep ∧ t.th.held = none ∧ t.th.g = s.th.g ∧ t.th.v = s.th.v ∧ t.th.tpc = s.th.tpc ∧ t.th.tcause = s.th.tcause ∧
         t.th.tinfo = s.th.tinfo ∧ t.th.fflags = s.th.fflags ∧ SameBytes s t ∧
         ∀ x, x ∈ t.cl.holds ↔ x ∈ s.cl.holds ∧ ¬(x.at_ = s.cid ∧ x.slot = s.cur)))

/-- Instructions of system code only (Table 8.1, cause 0x02): in user mode each takes the privileged-access trap. -/
def Obligations.PrivilegedInstructions : Prop :=
  ∀ (s : State) (i : Instr) (regs : List Reg), s.th.mode = false →
    ((∃ o, i = .tlbiPage o ∧ regs = [o.a]) ∨ (∃ o, i = .tlbiCtx o ∧ regs = []) ∨ (∃ o, i = .tlbiAll o ∧ regs = []) ∨
     (∃ o, i = .tlbiRange o ∧ regs = [o.a, o.c]) ∨ (i = .ctxswReq ∧ regs = []) ∨ (i = .ctxswFlush ∧ regs = []) ∨
     (∃ o, i = .syscHold o ∧ regs = [o.d, o.a]) ∨ (∃ o, i = .syscRel o ∧ regs = [o.d]) ∨ (∃ o, i = .syscWake o ∧ regs = [o.d, o.a]) ∨
     (∃ o, i = .syscStop o ∧ regs = [o.d, o.a])) →
    Ready s regs → exec i s = .next s.privileged

/-- `tlbi` (R408, R409) in system mode, of core scope: behind the buffered stores, the core's TLBs and its cluster's lose exactly the
entries that it aims at, once no slot of the core has an access in hand that used one of them or is to a page it aims at. `ifence`,
`wfi` and `sysc` (R224 to R226): the line cache is emptied; a slot with nothing pending sleeps until it is woken; a free scratchpad bank
is held until it is released or 64 cycles have gone by; a sleeping slot is woken; a halted slot is emptied. -/
def Obligations.SystemInstructions : Prop :=
  (∀ (s : State) (i : Instr) (regs : List Reg) (z : Shoot), s.th.mode = true → s.th.sb = [] → s.th.fstWaits = false → s.th.shot = none →
     ((∃ o, i = .tlbiPage o ∧ o.sc = 1 ∧ regs = [o.a] ∧ z = ⟨some o.ctx, some (pageOf (s.g o.a), 1)⟩) ∨
      (∃ o, i = .tlbiCtx o ∧ o.sc = 1 ∧ regs = [] ∧ z = ⟨some o.ctx, none⟩) ∨ (∃ o, i = .tlbiAll o ∧ o.sc = 1 ∧ regs = [] ∧ z = ⟨none, none⟩) ∨
      (∃ o, i = .tlbiRange o ∧ o.sc = 1 ∧ regs = [o.a, o.c] ∧ z = ⟨some o.ctx, some (pageOf (s.g o.a), (s.g o.c).toNat % 2 ^ 16)⟩)) →
     Ready s regs → (∀ (k : Fin 4) (gone : List TlbEntry), (∀ e ∈ gone, z.entry e = true ∧ (e ∈ s.core.itlb ∨ e ∈ s.core.dtlb ∨ ∃ d ∈ s.clusterIds, e ∈ (s.clAt d).tlb)) → z.busy gone (s.core.th k) = false) →
     GoesOn (exec i s) s fun t => t.th.g = s.th.g ∧ t.core.dtlb = s.core.dtlb.filter (fun e => !z.entry e) ∧
       t.core.itlb = s.core.itlb.filter (fun e => !z.entry e) ∧
       (s.cid.core < 8 → (t.clAt s.cid.home).tlb = (s.clAt s.cid.home).tlb.filter (fun e => !z.entry e))) ∧
  (∀ (s : State),
     (Ready s [] →
       (GoesOn (exec .ifence s) s fun t => t.th.g = s.th.g ∧ t.core.lines = []) ∧
       (s.wakePending = true → CompletesOnly (exec .wfi s) s) ∧
       (s.wakePending = false → Happens (exec .wfi s) fun t => OnlyThread s t ∧ t.th.status = .sleeping ∧ t.th.pc = s.th.nextPc ∧
         t.th.g = s.th.g ∧ s.th.KeepsRegs t.th)) ∧
     (s.th.mode = true → ∀ (o : GG), o.d.toNat < 32 → Ready s [o.d, o.a] →
       let ea := (s.g o.a).toNat
       (spaceOf ea = .sp → bits ea 17 23 = 0 → ea < 2 ^ 48 → s.cl.holds = [] → s.cl.holdWait = [] →
         GoesOn (exec (.syscHold o) s) s fun t => t.GAre (s.gWith o.d 1) ∧ t.cl.holdWait = [] ∧
           t.cl.holds = [⟨bankOf (ea % 2 ^ 17), s.cid, s.cur, s.clkOf s.cid.die⟩]) ∧
       (GoesOn (exec (.syscRel ⟨o.d⟩) s) s fun t =>
         t.GAre (s.gWith o.d (if s.cl.holds.any (fun h => h.at_ == s.cid && h.slot == s.cur) then 1 else 0)) ∧
         ∀ h, h ∈ t.cl.holds ↔ h ∈ s.cl.holds ∧ ¬(h.at_ = s.cid ∧ h.slot = s.cur)) ∧
       (let k : Fin 4 := Fin.ofNat 4 (ea % 4)
        ((s.core.th k).status = .sleeping → GoesOn (exec (.syscWake o) s) s fun t => t.GAre (s.gWith o.d 1) ∧ (t.core.th k).status = .ready) ∧
        ((s.core.th k).status ≠ .sleeping → GoesOn (exec (.syscWake o) s) s fun t => t.GAre (s.gWith o.d 0)) ∧
        ((s.core.th k).status ≠ .halted → CompletesG (exec (.syscStop o) s) s o.d 0) ∧
        ((s.core.th k).status = .halted → k ≠ s.cur → k.val < 3 → (s.core.th k).sb = [] →
         GoesOn (exec (.syscStop o) s) s fun t => t.GAre (s.gWith o.d 1) ∧ (t.core.th k).status = .empty))) ∧
     (∀ slot : BitVec 2, Happens (exec (.syscHoldExpiry slot) s) fun t => SameBytes s t ∧ t.core = s.core ∧
       ∀ h, h ∈ t.cl.holds ↔ h ∈ s.cl.holds ∧ ¬(h.at_ = s.cid ∧ h.slot = slotOf slot ∧ h.since + 64 ≤ s.clkOf s.cid.die)))

/-- `ctxsw` (R414 to R418, R420) in system mode: with no request standing it does nothing; it empties the slot of an aborted team's
thread; a request to leave puts the thread's image into an entry of the core's cache, dirty, for a save block under which Keyway keeps
the thread, and empties the slot; a swap does the same and then brings in a thread that has left and may run here, as SWITCH_IN does, if
there is one. `ctxsw.flush` writes the image of each dirty entry to its block and clears DIRTY; with nothing dirty it only goes on. -/
def Obligations.ThreadSwitch : Prop :=
  ∀ (s : State), s.th.mode = true → Ready s [] → s.cur.val < 3 →
    (s.standing = none → CompletesOnly (exec .ctxswReq s) s) ∧
    (∀ r, s.standing = some r → s.unsettled = true → exec .ctxswReq s = .next s.stall) ∧
    (∀ r, s.standing = some r → s.unsettled = false → r.kind = .abort → Happens (exec .ctxswReq s) fun t => t.th.status = .empty ∧
      t.outs = s.outs ∧ SameBytes s t) ∧
    (∀ r b u, s.standing = some r → s.unsettled = false → r.kind = .out → (∃ tm ∈ s.teams, some tm.id = s.th.team ∧ tm.aborted = false) →
      s.allocBlock s.th.ctx threadBlock = some (b, u) → Happens (exec .ctxswReq s) fun t => t.th.status = .empty ∧
        (∃ o, t.outs = s.outs ++ [o] ∧ o.uid = s.th.uid ∧ o.block = b ∧ o.slot = s.cur ∧ o.ctx = s.th.ctx ∧ o.async = s.th.async) ∧
        (Memory.wf s.mem = true → b % 64 = 0 → b < 2 ^ 50 → s.quarantine = [] → (∀ q ∈ s.reqs, q.at_ = s.cid → q.slot = s.cur → q.cmd = none) →
          ∃ e < 2, tagDirty (t.tag s.cid e) = true ∧ tagBlock (t.tag s.cid e) = b ∧
            Memory.read t.mem (s.cid.tcc e) 8 = (if s.th.tcause.fside then s.th.heldNow.resume else s.th.tpc).toNat ∧
            (∀ n, 1 ≤ n → n < 32 → Memory.read t.mem (s.cid.tcc e + 8 * n) 8 = (s.g (BitVec.ofNat 6 n)).toNat) ∧
            (∀ n < 48, Memory.read t.mem (s.cid.tcc e + 0x100 + 8 * n) 8 = (s.th.vreg n).toNat) ∧
            Memory.read t.mem (s.cid.tcc e + 0x280) 8 % 4 = 2)) ∧
    (∀ r b u, s.standing = some r → s.unsettled = false → r.kind = .swap → (∃ tm ∈ s.teams, some tm.id = s.th.team ∧ tm.aborted = false) →
      s.allocBlock s.th.ctx threadBlock = some (b, u) → ∃ w : State, w.cur = s.cur ∧ w.cid = s.cid ∧ w.th.status = .empty ∧
        (∃ o, w.outs = s.outs ++ [o] ∧ o.uid = s.th.uid ∧ o.block = b ∧ o.slot = s.cur) ∧
        let mayCome := fun (o : OutThread) => o.uid ≠ s.th.uid ∧ o.ctx = s.th.ctx ∧ w.resumable o = true ∧ w.mapsTo o s.cid = true
        ((∀ o ∈ w.outs, ¬ mayCome o) → exec .ctxswReq s = .next w) ∧
        (∀ o ∈ w.outs, mayCome o → (∀ p ∈ w.outs, mayCome p ∨ p.uid = o.uid → p = o) → w.core.fenced = false → w.reserved s.cid s.cur = false →
          exec .ctxswReq s = exec (.switchIn s.slotNo o.uid) w)) ∧
    (let dirty := fun e => tagDirty (s.tag s.cid e)
     let blk := fun e => tagBlock (s.tag s.cid e)
     Memory.wf s.mem = true → s.Unlisted → s.badWords = [] → s.badBlocks = [] → s.quarantine = [] →
      (∀ e < 2, dirty e = true → 2 ^ 30 ≤ blk e ∧ blk e + 1472 ≤ 2 ^ 40) →
      (dirty 0 = true → dirty 1 = true → blk 0 + 1472 ≤ blk 1 ∨ blk 1 + 1472 ≤ blk 0) →
      Happens (exec .ctxswFlush s) fun t => t.th.pc = s.th.nextPc ∧ t.th.g = s.th.g ∧
        (∀ e < 2, tagDirty (t.tag s.cid e) = false ∧ tagBlock (t.tag s.cid e) = blk e ∧
          (dirty e = true → (∀ j < 1448, Memory.byte t.mem (blk e + j) = Memory.byte s.mem (s.cid.tcc e + j)) ∧
            ∀ j, 1448 ≤ j → j < 1472 → Memory.byte t.mem (blk e + j) = 0)) ∧
        ∀ a, (∀ e < 2, dirty e = true → (a < blk e ∨ blk e + 1472 ≤ a) ∧ (a < s.cid.tccTag e ∨ s.cid.tccTag e + 8 ≤ a)) →
          Memory.byte t.mem a = Memory.byte s.mem a) ∧
    ((∀ e < 2, tagDirty (s.tag s.cid e) = false) → CompletesOnly (exec .ctxswFlush s) s)

/-- Acceptance and admission (R286, R287, R291, R295, R296): a submission takes the lowest free ring entry, and its record the next
number and its place in the acceptance order: by the cycle of the submission, in one cycle by core and copy before matrix, then Keyway's
by queue, but the commands of one thread as it submitted them; the first command in that order enters the window, with an edge to each
command in it that it conflicts with, or rejected. That a command waits there until its cycle is over and no submission that would stand
before it is left, and that the order of a thread goes before the order of its queues in one cycle, is the model's choice (log 82). The
start of a job (R297, R307, R310): a copy command whose edges are met, whose wait is met, which stands behind no earlier unfinished
command of its queue and which is the oldest such of fewer than 4 starts, and runs in the same step. -/
def Obligations.CommandAdmission : Prop :=
  (∀ (s : State),
     (∀ u rest r more, s.core.submitted = u :: rest → s.core.freeRing = r :: more → Happens (exec .commandAccept s) fun t =>
       SameBytes s t ∧ t.core.submitted = rest ∧ t.core.ring = s.core.ring.set r.val (.command u.engine u.slotIx u.slot s.cl.jobNo) ∧
       t.cl.jobNo = s.cl.jobNo + 1 ∧ ∃ j pre post, s.cl.backlog = pre ++ post ∧ t.cl.backlog = pre ++ j :: post ∧
         (∀ x ∈ post, j.precedes x = true) ∧ (∀ x, pre.getLast? = some x → j.precedes x = false) ∧ j.accepted = u.since ∧ j.id = s.cl.jobNo ∧ j.core = some s.cid ∧ j.st = .waiting ∧
         j.uid = u.uid ∧ j.ctx = u.ctx ∧ j.user = u.user ∧ j.ring.toNat = r.val ∧ j.slot = u.slot ∧
         j.rcd.toNat = Memory.read s.mem (s.cqOf s.cid (512 * u.engine.toNat + 64 * u.slotIx.toNat)) 64) ∧
     (∀ j rest, s.cl.backlog = j :: rest → s.cl.window.length < 32 → s.ordered j = true → (s.admission j).st = .waiting → Happens (exec .tumblerAdmit s) fun t =>
       SameBytes s t ∧ t.cl.backlog = rest ∧ t.cl.window = s.cl.window ++ [{ s.admission j with
         edges := (s.cl.window.filter fun x => x.conflicts (s.admission j)).map (·.id) }]) ∧
     (∀ j rest, s.cl.backlog = j :: rest → 32 ≤ s.cl.window.length ∨ s.ordered j = false → exec .tumblerAdmit s = .next s) ∧
     (let rank := fun (j : Job) => match j.kw with
         | some (q, _) => 16 + q
         | none => 2 * j.num + j.engine.toNat
      ∀ a b : Job, a.precedes b = true ↔ a.accepted < b.accepted ∨
       (a.accepted = b.accepted ∧ rank a < rank b ∧ ¬ (a.core ≠ none ∧ a.core = b.core ∧ a.uid = b.uid))) ∧
     (∀ j, s.recordBad j = true → (s.admission j).st = .rejected ∧ (s.admission j).acause = 1)) ∧
  (∀ (s : State) (i : Instr) (id typ : Nat) (plan : Job → JobM Plan) (j : Job), JobIs i id typ plan → s.job id = some j → j.typ = typ →
     s.cl.spent = false → s.cl.fenced = false → s.startable j = true →
     let run := j.started false s.clockOf
     (run.st = .running ∧ run.rcd = j.rcd ∧ run.status = 0 ∧ (typ ≠ 11 → typ ≠ 12 → run.exc = 0 ∧ run.skip = 0)) ∧
     (j.engine = 0 → s.copyReady j = true →
       exec i s = exec i ((s.setJob run).modCl fun c => { c with lastStart := s.clockOf, stuck := false })) ∧
     (j.engine = 0 → s.copyReady j = false → exec i s = .next s) ∧
     (j.engine ≠ 0 → s.arrayGate j = .wait → exec i s = .next s) ∧
     (j.engine ≠ 0 → s.arrayGate j = .go false false →
       exec i s = exec i ((s.setJob run).modCl fun c => { c with lastStart := s.clockOf, stuck := false })))

/-- What a running job does (R290, R303, R305, R306): once everything that its next part reads and writes has a place, the writes are
made; it goes on, is done with the status its type gives, or fails with the ACAUSE of the access that did; one that must wait leaves it
running. That a part is carried out in one step, once everything in it has a place, is the model's choice (log 36). `copy1d`, `fill`,
`notify` and `zacc` (R309, R310, R318): the bytes of the source stand at the destination, and where the two overlap each byte is the
original one or one that the command has written; the pattern repeats at its place modulo 8; the eight bytes of the value are written;
every accumulator is zero. Every other byte is as before. -/
def Obligations.Jobs : Prop :=
  (∀ (s u : State) (i : Instr) (id typ : Nat) (plan : Job → JobM Plan) (j : Job), JobIs i id typ plan → Running s id typ j → u.job id = some j →
     (∀ p, (plan j).run.run s = (.ok p, u) → p.fail = none → p.fe = [] → Happens (exec i s) fun t =>
       t.mem = (u.applyWrites p.writes).mem ∧ ∃ k, t.job id = some k ∧ k.status = p.status ∧ k.word1 = p.word1 ∧ k.run = p.run ∧
         (p.run = none → k.st = .done) ∧ (p.run ≠ none → k.st = .running)) ∧
     (∀ p a, (plan j).run.run s = (.ok p, u) → p.fail = some (a, none) → p.fe = [] → Happens (exec i s) fun t =>
       t.mem = (u.applyWrites p.writes).mem ∧ ∃ k, t.job id = some k ∧ k.st = .failing ∧ k.acause = a) ∧
     (∀ a, (plan j).run.run s = (.error (.fail a none), u) → Happens (exec i s) fun t => SameBytes u t ∧
       ∃ k, t.job id = some k ∧ k.st = .failing ∧ k.acause = a) ∧
     ((plan j).run.run s = (.error .wait, u) → exec i s = .next (u.metersOf s))) ∧
  (∀ (s : State) (id : Nat) (j : Job), Memory.wf s.mem = true →
     let ends := fun (t : State) => ∃ k, t.job id = some k ∧ k.st = .done ∧ k.status = 1
     (∀ a b, Running s id 1 j → j.fem = 0 → 0 < j.p 2 0 24 → Reaches s j (j.p 0 0 48) (j.p 2 0 24) false true a →
       Reaches s j (j.p 1 0 48) (j.p 2 0 24) true true b → (∀ k < j.p 2 0 24, Plain (b + k)) → Happens (exec (.copy1d id) s) fun t => ends t ∧
         MovedBytes s t a b (j.p 2 0 24)) ∧
     (∀ b, Running s id 5 j → j.fem = 0 → 0 < j.p 1 0 24 → Reaches s j (j.p 0 0 48) (j.p 1 0 24) true true b →
       (∀ k < j.p 1 0 24, Plain (b + k)) → Happens (exec (.fill id) s) fun t => ends t ∧ ∀ p, Memory.byte t.mem p = if b ≤ p ∧ p < b + j.p 1 0 24 then
         BitVec.ofNat 8 (j.p 2 (8 * ((j.p 0 0 48 + (p - b)) % 8)) 8) else Memory.byte s.mem p) ∧
     (∀ b, Running s id 6 j → j.p 2 0 1 = 0 → Reaches s j (j.p 0 0 48) 8 true false b → (∀ k < 8, Plain (b + k)) →
       Happens (exec (.notify id) s) fun t => ends t ∧ Stored s t b 8 (j.p 1 0 64)) ∧
     (Running s id 8 j → Happens (exec (.zacc id) s) fun t => ends t ∧ Stored s t (s.accLoc 0) 16384 0))

/-- Completion and failure (R298, R301, R303 to R305): a job that is done leaves the window, frees its ring entry, writes its 16-byte
record and gives its signal where it asks for them; a failing job stays in the window as failed and makes a late engine trap pending in
the slot that submitted it; a full window of which nothing can start is stuck once it has been full for 65,536 cycles in which nothing
has started, and one of which something can start is not. -/
def Obligations.JobEnd : Prop :=
  ∀ (s : State) (id : Nat) (j : Job), s.job id = some j → j.core = some s.cid → j.kw = none → j.solo = false → j.typ ≠ 10 →
    Memory.wf s.mem = true →
    (j.st = .done → (j.sv = true → ∀ w ∈ s.cl.semWait, w.sem ≠ j.bits 32 8) →
      (j.cv = true → s.bankHeld [⟨spLoc s.clid.die s.clid.clu (j.bits 48 13 * 16), 16⟩] none = false) → Happens (exec (.jobComplete id) s) fun t =>
      t.cl.window = s.cl.window.filter (fun x => x.id ≠ id) ∧ t.core.ring = s.core.ring.set j.ring.toNat .free ∧
      (j.cv = false → SameBytes s t) ∧
      (j.cv = true → Stored s t (spLoc s.clid.die s.clid.clu (j.bits 48 13 * 16)) 16 (j.word0 + 2 ^ 64 * j.word1.toNat)) ∧
      ∀ k < 256, t.sem k = if j.sv = true ∧ k = j.bits 32 8 then s.sem k + BitVec.ofNat 16 (j.bits 40 8) else s.sem k) ∧
    (j.st = .discarded → j.cv = false → Happens (exec (.jobComplete id) s) fun t => SameBytes s t ∧
      t.cl.window = s.cl.window.filter (fun x => x.id ≠ id) ∧ t.cl.sems = s.cl.sems) ∧
    (j.st = .failing → j.cv = false → j.slot = s.cur → s.th.uid = j.uid → s.th.status ≠ .empty →
      (∀ k, k ≠ s.cur → (s.core.th k).uid ≠ j.uid ∨ (s.core.th k).status = .empty) → Happens (exec (.jobFail id) s) fun t =>
        SameBytes s t ∧ t.th.g = s.th.g ∧ t.th.async = s.th.async ++ [⟨0x0B, 0,
          BitVec.ofNat 64 (j.ring.toNat + 16 * j.engine.toNat + 256 * j.acause.toNat)⟩] ∧
        ∃ k, t.job id = some k ∧ k.st = .failed ∧ k.status = 4) ∧
    (s.cl.window.length = 32 → (∀ x ∈ s.cl.window, s.startable x = true → s.engineTakes x = false) → s.cl.lastStart + 65536 ≤ s.clockOf →
      s.cl.fullSince + 65536 ≤ s.clockOf → Happens (exec .tumblerStuck s) fun t => SameBytes s t ∧ t.cl.stuck = true) ∧
    ((∃ x ∈ s.cl.window, s.startable x = true ∧ s.engineTakes x = true) → exec .tumblerStuck s = .next s)

/-- Plain and system commands of Keyway (R365, R366, R387, R441, Table 19.8): a command that is taken has its effect, completes and
signals; a copy or a fill becomes a job of the cluster's copy engine, at its place in the acceptance order. The model's choices in this:
`kbudget` completes when the budget is recorded, and a cluster is cleared for its first owner too (log 55); `kcopy` and `kfill` become
jobs that run as the copy engine's own do, in one step (log 39). -/
def Obligations.KeywayCommands : Prop :=
  ∀ (s : State) (q : BitVec 10) (c : KCmd),
    (Served s q 0 c → Happens (exec (.knop q) s) fun t => CmdDone s t q c ∧ SameBytes s t) ∧
    (Served s q 4 c → 2 ^ 30 ≤ c.q1 0 50 → s.refuses [⟨c.q1 0 50, 8⟩] = none → Memory.wf s.mem = true →
      Happens (exec (.kwrite q) s) fun t => CmdDone s t q c ∧ Stored s t (c.q1 0 50) 8 (c.q2 0 64)) ∧
    (Served s q 5 c → let v := assocGet s.vecs (c.q1 0 11) {}
      Happens (exec (.kintr q) s) fun t => CmdDone s t q c ∧ SameBytes s t ∧
        if v.mask then t.vecSent = s.vecSent ∧ (assocGet t.vecs (c.q1 0 11) {}).pending = true
        else t.vecs = s.vecs ∧ t.vecSent = s.vecSent ++ [(v.addr, v.data)]) ∧
    (Served s q 8 c → Happens (exec (.kctx q) s) fun t => CmdDone s t q c ∧ SameBytes s t ∧
      ∀ k : BitVec 4, t.ctxs[k.toNat] = if k.toNat = bits (s.read (c.q1 0 50) 16) 1 4 then s.ctxAt (c.q1 0 50) else s.ctxs[k.toNat]) ∧
    (Served s q 9 c → let d : ClusterId := ⟨c.q1 0 4, c.q1 4 14⟩
      Happens (exec (.kclu q) s) fun t => CmdDone s t q c ∧ (t.clAt d).own = (c.q2 0 1 == 1) ∧ (t.clAt d).ctx = BitVec.ofNat 4 (c.q2 1 4) ∧
        (∀ n : Fin 8, (t.clAt d).weights[n] = BitVec.ofNat 4 (c.q2 (8 + 4 * n.val) 4)) ∧ (t.clAt d).eb = BitVec.ofNat 24 (c.q2 40 24) ∧
        (c.q2 0 1 = 0 ∨ (s.clAt d).lastCtx = some (BitVec.ofNat 4 (c.q2 1 4)) → SameBytes s t) ∧
        (c.q2 0 1 = 1 → (s.clAt d).lastCtx ≠ some (BitVec.ofNat 4 (c.q2 1 4)) →
          ∀ a < 2 ^ 17, Memory.byte t.mem (spLoc d.die d.clu 0 + a) = 0)) ∧
    (Served s q 10 c → Happens (exec (.kbudget q) s) fun t => CmdDone s t q c ∧ SameBytes s t ∧ t.budgets = s.budgets ∧
      assocGet t.budgetsNext (c.q1 0 4, c.q1 4 3, c.q1 7 3) 0 = BitVec.ofNat 13 (c.q1 10 13)) ∧
    (Served s q 11 c → Happens (exec (.kpool q) s) fun t => CmdDone s t q c ∧ SameBytes s t ∧
      ∀ k : BitVec 4, t.pools[k.toNat] = if k.toNat = c.ctx % 16 then { base := c.q1 0 50, len := c.q2 0 40 } else s.pools[k.toNat]) ∧
    (∀ (i : Instr) (typ : Nat), (i = .kcopy q ∧ typ = 2) ∨ (i = .kfill q ∧ typ = 3) → Served s q typ c →
      let d := (s.route (BitVec.ofNat 4 c.ctx) c.lcn).2
      Happens (exec i s) fun t => Taken s t q c ∧ SameBytes s t ∧ ∃ (j : Job) (pre post : List Job), (s.clAt d).backlog = pre ++ post ∧
        (t.clAt d).backlog = pre ++ j :: post ∧ (∀ x ∈ post, j.precedes x = true) ∧ (∀ x, pre.getLast? = some x → j.precedes x = false) ∧
        j.accepted = s.clkOf d.die ∧
        j.id = (s.clAt d).jobNo ∧ j.core = none ∧ j.kw = some (q.toNat, c.ix) ∧ j.engine = 0 ∧ j.ctx = BitVec.ofNat 4 c.ctx ∧
        j.user = !(s.queue q.toNat).priv ∧ j.rcd = BitVec.ofNat 512 c.record)

/-- Commands about teams (R371, R423, R441): a launch whose record is good waits for its placement; pre-emption, eviction and abort send
requests to the slots of the team. That they complete at once where the team is absent or has nothing to be asked, and that a second
eviction completes with the first, is the model's choice (log 55). -/
def Obligations.TeamCommands : Prop :=
  ∀ (s : State) (q : BitVec 10) (c : KCmd),
    (s.headCmd q.toNat = some c → s.headCheck (s.queue q.toNat) c = none → c.typ = 1 → (s.queue q.toNat).waiting = none →
      s.waitMet (s.queue q.toNat) c = true → s.badRange (c.q1 0 50) 64 = false → physTarget (c.q1 0 50) = true →
      let tm : Team := { id := s.teamNo, no := s.launches[(BitVec.ofNat 4 c.ctx).toNat], ctx := BitVec.ofNat 4 c.ctx, queue := q.toNat, cmd := c.ix
                         prio := (s.queue q.toNat).prio, rcd := BitVec.ofNat 512 (s.read (c.q1 0 50) 64), since := s.clkOf 0 }
      s.recordRefused (BitVec.ofNat 4 c.ctx) tm = false → tm.bits 368 8 = 0 → Happens (exec (.klaunch q) s) fun t =>
        t.teams = s.teams ++ [tm] ∧ t.teamNo = s.teamNo + 1 ∧ (t.queue q.toNat).waiting = some tm.id ∧
        (t.queue q.toNat).head = (s.queue q.toNat).head ∧ SameBytes s t ∧
        ∀ k : BitVec 4, t.launches[k.toNat] = if k = tm.ctx then s.launches[k.toNat] + 1 else s.launches[k.toNat]) ∧
    (∀ (i : Instr) (typ : Nat), (i = .kpreempt q ∧ typ = 12) ∨ (i = .kevict q ∧ typ = 13) ∨ (i = .kabort q ∧ typ = 14) → Served s q typ c →
      s.namedTeam c = none → Happens (exec i s) fun t => CmdDone s t q c ∧ SameBytes s t ∧ t.reqs = s.reqs ∧ t.teams = s.teams) ∧
    (∀ tm d i, Served s q 12 c → s.namedTeam c = some tm → s.placeOf (BitVec.ofNat 4 c.ctx) (c.q1 20 10) (c.q1 30 10) = .core d →
      let holds := fun (k : Fin 4) => ((s.coreAt d).th k).status ≠ .empty ∧ ((s.coreAt d).th k).team = some tm.id ∧
        ((s.coreAt d).th k).ts.toNat = c.q1 40 2
      i.val < 3 → holds i → (∀ k : Fin 4, k.val < 3 → holds k → k = i) → Happens (exec (.kpreempt q) s) fun t => Taken s t q c ∧ SameBytes s t ∧
        t.reqs = s.reqs ++ [⟨s.reqNo + 1, if c.q1 42 1 = 1 then .swap else .out, d, i, ((s.coreAt d).th i).uid, some (q.toNat, c.ix)⟩]) ∧
    (∀ tm, Served s q 13 c → s.namedTeam c = some tm → tm.st = .running → tm.aborted = false → Happens (exec (.kevict q) s) fun t =>
      Taken s t q c ∧ SameBytes s t ∧ t.team tm.id = some { tm with st := .evicting, evict := [(q.toNat, c.ix)] } ∧
      ∀ p ∈ s.threadsOf tm.id, ∃ r ∈ t.reqs, r.kind = .evict ∧ r.at_ = p.1 ∧ r.slot = p.2) ∧
    (∀ tm, Served s q 13 c → s.namedTeam c = some tm → tm.st = .evicting → tm.aborted = false → Happens (exec (.kevict q) s) fun t =>
      Taken s t q c ∧ SameBytes s t ∧ t.reqs = s.reqs ∧ t.team tm.id = some { tm with evict := tm.evict ++ [(q.toNat, c.ix)] }) ∧
    (∀ tm, Served s q 13 c → s.namedTeam c = some tm → tm.aborted = true ∨ (tm.st ≠ .running ∧ tm.st ≠ .evicting) → Happens (exec (.kevict q) s) fun t =>
      CmdDone s t q c ∧ SameBytes s t ∧ t.reqs = s.reqs ∧ t.teams = s.teams) ∧
    (∀ tm, Served s q 14 c → s.namedTeam c = some tm → s.threadsOf tm.id ≠ [] → Happens (exec (.kabort q) s) fun t =>
      Taken s t q c ∧ SameBytes s t ∧ t.team tm.id = some { tm with aborted := true, saved := [] } ∧
      ∀ p ∈ s.threadsOf tm.id, ∃ r ∈ t.reqs, r.kind = .abort ∧ r.at_ = p.1 ∧ r.slot = p.2 ∧ r.cmd = some (q.toNat, c.ix))

/-- Queues (R433 to R435, R437, R440, R442, Tables 19.6, 19.9): a command that a check refuses halts its queue with the check's error;
tails, switches, records, reads ahead, aging, the end of a halt, queue semaphores. The model's choices in this: a queue that has halted
keeps the ERR that it recorded first (log 78), queues age by the clock of die 0 (log 57), and without a host link nothing of the host
arrives (log 83). -/
def Obligations.QueueControl : Prop :=
  ∀ (s : State) (q : BitVec 10),
    let n := q.toNat
    let x := s.queue n
    (∀ (i : Instr) (c : KCmd) (e : BitVec 8), s.headCmd n = some c → s.headCheck x c = some e →
      i ∈ [.knop q, .klaunch q, .kcopy q, .kfill q, .kwrite q, .kintr q, .kctx q, .kclu q, .kbudget q, .kpool q, .kpreempt q, .kevict q, .kabort q] →
      Happens (exec i s) fun t => SameBytes s t ∧ (t.queue n).halted = true ∧ (t.queue n).err = e ∧ (t.queue n).fidx = c.ix ∧
        (t.queue n).head = x.head ∧ (t.queue n).taken = x.taken ∧ t.ksems = s.ksems) ∧
    (∀ tail, s.hostUp = true → Happens (exec (.doorbellTail q tail) s) fun t => SameBytes s t ∧ (t.queue n).shadow = tail ∧
      (x.resident = false ∨ x.switching = true → (t.queue n).tail = x.tail) ∧
      (x.resident = true → x.switching = false → (tail - x.head).toNat ≤ 2 ^ x.lsize.toNat → (t.queue n).tail = tail ∧ (t.queue n).halted = x.halted) ∧
      (x.resident = true → x.switching = false → 2 ^ x.lsize.toNat < (tail - x.head).toNat → (t.queue n).tail = x.tail ∧
        (t.queue n).halted = true ∧ (t.queue n).err = if x.halted then x.err else 5)) ∧
    (∀ h, s.hostUp = true → Happens (exec (.qswSwitchIn q h) s) fun t => SameBytes s t ∧
      (s.qswBusy = false → x.en = true → x.lsizeOk = true → x.resident = false → x.switching = false →
        (∀ p ∈ s.queues, p.2.resident = true → p.2.hslot ≠ h) → (x.shadow - x.head).toNat ≤ 2 ^ x.lsize.toNat →
        t.qswRefused = false ∧ (t.queue n).resident = true ∧ (t.queue n).hslot = h ∧ (t.queue n).tail = x.shadow) ∧
      (s.qswBusy = true → t.qswRefused = true ∧ t.queues = s.queues)) ∧
    (s.hostUp = true → x.resident = true → x.switching = false → s.qswBusy = false → Happens (exec (.qswSwitchOut q) s) fun t => SameBytes s t ∧
      t.qswRefused = false ∧ (t.queue n).waiting = none ∧ (t.queue n).ahead = [] ∧ (t.queue n).head = x.head ∧
      (if x.taken = [] then (t.queue n).resident = false ∧ t.qswBusy = false else (t.queue n).switching = true ∧ t.qswBusy = true)) ∧
    (s.hostUp = true → x.resident = false ∨ s.qswBusy = true → Happens (exec (.qswSwitchOut q) s) fun t => SameBytes s t ∧ t.qswRefused = true ∧ t.queues = s.queues) ∧
    (x.switching = true → x.taken = [] → (s.switchedOut n).qswBusy = false ∧ ((s.switchedOut n).queue n).resident = false ∧
      ((s.switchedOut n).queue n).switching = false) ∧
    (s.hostUp = true → x.halted = true → (x.shadow - x.head).toNat ≤ 2 ^ x.lsize.toNat → Happens (exec (.qctlContinue q) s) fun t => SameBytes s t ∧
      (t.queue n).halted = false ∧ (∀ y ∈ (t.queue n).ahead, y.bad = false) ∧ (t.queue n).head = x.head ∧ (t.queue n).tail = x.shadow) ∧
    (let next := if x.refused then x.head + 1 else x.head
     s.hostUp = true → x.halted = true → (x.shadow - next).toNat ≤ 2 ^ x.lsize.toNat → Happens (exec (.qctlSkip q) s) fun t => SameBytes s t ∧
      (t.queue n).halted = false ∧ (t.queue n).head = next ∧ (t.queue n).tail = x.shadow) ∧
    (∀ word v, s.hostUp = true → x.resident = false → x.switching = false → Happens (exec (.queueRecordWrite q word v) s) fun t => SameBytes s t ∧
      (word = 0 → (t.queue n).en = v.getLsbD 0 ∧ (t.queue n).kind = v.extractLsb' 1 1 ∧ (t.queue n).priv = v.getLsbD 2 ∧
        (t.queue n).prio = v.extractLsb' 3 2 ∧ (t.queue n).qw = v.extractLsb' 5 4 ∧ (t.queue n).lsize = v.extractLsb' 9 5 ∧
        (t.queue n).evec = v.extractLsb' 14 11 ∧ (t.queue n).eie = v.getLsbD 25) ∧
      (word = 1 → (t.queue n).base = (v.extractLsb' 6 44).setWidth 50 * 64) ∧ (word = 2 → (t.queue n).head = v.extractLsb' 32 32)) ∧
    (∀ word v, x.resident = true → exec (.queueRecordWrite q word v) s = .next s) ∧
    (let k := x.ahead.length
     let ix := x.head + BitVec.ofNat 32 k
     let a := x.base.toNat + 32 * (ix.toNat % 2 ^ x.lsize.toNat)
     ∀ bad, x.resident = true → x.switching = false → x.halted = false → k < 8 → k < x.pending → bad = false ∨ isHost a = false →
      physTarget a = true → s.badRange a 32 = false → Happens (exec (.keywayCommandRead q bad) s) fun t => SameBytes s t ∧
        (t.queue n).ahead = x.ahead ++ [⟨ix, BitVec.ofNat 256 (s.read a 32), false⟩]) ∧
    (s.ready n = true → x.since + 2 ^ 16 ≤ s.clkOf 0 → Happens (exec (.queueAging q) s) fun t => SameBytes s t ∧ (t.queue n).aging = true ∧
      (t.queue n).head = x.head) ∧
    (∀ sem v, s.hostUp = true → Happens (exec (.semvWrite sem v) s) fun t => SameBytes s t ∧ t.queues = s.queues ∧
      ∀ k : BitVec 8, t.ksems[k.toNat] = if k = sem then v else s.ksems[k.toNat]) ∧
    (∀ sem v, s.hostUp = true → Happens (exec (.semaddWrite sem v) s) fun t => SameBytes s t ∧ t.queues = s.queues ∧
      ∀ k : BitVec 8, t.ksems[k.toNat] = if k = sem then s.ksems[k.toNat] + v else s.ksems[k.toNat]) ∧
    (s.hostUp = false → ∀ i : Instr, (∃ tail, i = .doorbellTail q tail) ∨ (∃ h, i = .qswSwitchIn q h) ∨ i = .qswSwitchOut q ∨
      (∃ w v, i = .queueRecordWrite q w v) ∨ i = .qctlContinue q ∨ i = .qctlSkip q ∨ (∃ k v, i = .semvWrite k v ∨ i = .semaddWrite k v) →
      exec i s = .next s)

/-- The host's accesses (R426, R431, R432, R463): a read returns the bytes; a write is performed in parts that no 8-byte boundary cuts,
and is discarded in the hub region outside the mailboxes; an atomic operation changes nothing; a vector that is unmasked sends what is
pending, once; what reads of BAR 0 return, and which sizes and alignments it takes (R429). That nothing of the host arrives without a
host link, and has no effect, is the model's choice (log 83). Registers of the module (R5, Tables 19.2, 19.10, 22.3, 22.5): a write sets
the read-write fields and nothing else; a read-only or reserved register keeps its value; a read returns the readable fields, and zero
elsewhere. -/
def Obligations.HostInterface : Prop :=
  (∀ (s : State),
     (∀ addr len, s.hostUp = true → s.badRange addr.toNat len.toNat = false → Happens (exec (.bar2Read addr len) s) fun t => SameBytes s t ∧
       t.hostData = BitVec.ofNat 128 (s.read addr.toNat len.toNat)) ∧
     (∀ (addr : BitVec 40) (b : List (BitVec 8)), s.hostUp = true → Memory.wf s.mem = true → 2 ^ 30 ≤ addr.toNat → addr.toNat % 8 + b.length ≤ 8 → 0 < b.length →
       s.refuses [⟨addr.toNat, b.length⟩] = none → Happens (exec (.bar2Write addr b) s) fun t =>
         ∀ a, Memory.byte t.mem a = if addr.toNat ≤ a ∧ a < addr.toNat + b.length then b.getD (a - addr.toNat) 0 else Memory.byte s.mem a) ∧
     (∀ (addr : BitVec 40) (b : List (BitVec 8)), addr.toNat + b.length ≤ 0x1000 ∨ (0x1080 ≤ addr.toNat ∧ addr.toNat + b.length ≤ 2 ^ 30) →
       exec (.bar2Write addr b) s = .next s) ∧
     (∀ bar off, exec (.barAtomicop bar off) s = .next s) ∧
     (∀ v : BitVec 11, let e := assocGet s.vecs v.toNat {}
       s.hostUp = true → Happens (exec (.msixUnmask v) s) fun t => SameBytes s t ∧ assocGet t.vecs v.toNat {} = { e with mask := false, pending := false } ∧
         t.vecSent = if e.pending then s.vecSent ++ [(e.addr, e.data)] else s.vecSent) ∧
     (∀ off size, (size ≠ 4 ∧ size ≠ 8) ∨ off % size ≠ 0 ∨ 2 ^ 23 < off + size → s.bar0Read off size = none) ∧
     (s.bar0Read 8 8 = some s.modId.toNat ∧ s.bar0Read 0x28 4 = some s.reqNo.toNat) ∧
     (∀ k : BitVec 8, s.bar0Read (0x1000 + 8 * k.toNat) 8 = some (s.ksems[k.toNat]).toNat ∧ s.bar0Read (0x1800 + 8 * k.toNat) 8 = some 0) ∧
     (∀ q : BitVec 10, s.bar0Read (0x40_0000 + 4096 * q.toNat + 8) 4 = some (s.queue q.toNat).head.toNat) ∧
     (s.hostUp = false → ∀ i : Instr, (∃ a n, i = .bar2Read a n) ∨ (∃ a b, i = .bar2Write a b) ∨ (∃ v, i = .msixUnmask v) ∨ (∃ p, i = .hingeRetrain p) ∨
       (∃ p d, i = .hingeCounterRead p d) ∨ (∃ r v, ofHost r = true ∧ i = .registerWrite r v) → exec i s = .next s)) ∧
  (∀ (s : State) (v : BitVec 64),
     let W := fun (r : PlainReg) => exec (.registerWrite r v) s
     (s.hostUp = true → W .modId = .next { s with modId := v.setWidth 16 }) ∧
     (s.hostUp = true → W .gvec = .next { s with gvec := v.setWidth 11, gie := v.getLsbD 11 }) ∧
     (∀ n, W (.other n) = .next s) ∧
     (∀ p : BitVec 3, s.hostUp = true → Happens (W (.hingeEn p)) fun t => SameBytes s t ∧ (t.hinge p).en = v.getLsbD 0 ∧
       (v.getLsbD 0 = true → (s.hinge p).en = false → (t.hinge p).training = true) ∧
       (v.getLsbD 0 = false → (t.hinge p).up = false ∧ (t.hinge p).lanes = 0)) ∧
     (∀ k : BitVec 11, s.hostUp = true → Happens (W (.msix k 2)) fun t => SameBytes s t ∧ (assocGet t.vecs k.toNat {}).data = v.setWidth 32 ∧
       (assocGet t.vecs k.toNat {}).addr = (assocGet s.vecs k.toNat {}).addr) ∧
     (∀ k : BitVec 11, s.hostUp = true → v.getLsbD 0 = true → Happens (W (.msix k 3)) fun t => SameBytes s t ∧ (assocGet t.vecs k.toNat {}).mask = true) ∧
     (∀ k : BitVec 11, v.getLsbD 0 = false → W (.msix k 3) = exec (.msixUnmask k) s) ∧
     (Happens (W .dctl) fun t => t.core.dbg = { s.core.dbg with stepSlot := v.extractLsb' 3 2, haltBrk := v.getLsbD 5 } ∧ t.registerRead .dctl = v &&& 0x38) ∧
     (Happens (W .dacc) fun t => t.core.dbg = { s.core.dbg with dacc := (v.setWidth 12).setWidth 13 } ∧ t.registerRead .dacc = v &&& 0xFFF) ∧
     (Happens (W .ddata) fun t => t.core.dbg = { s.core.dbg with ddata := v } ∧ t.registerRead .ddata = v) ∧
     (∀ m, Happens (W (.wp m)) fun t => t.registerRead (.wp m) = v &&& 0x7F_FFFF_FFFF_FFFF) ∧
     (∀ d : BitVec 4, Happens (W (.hctl d)) fun t => SameBytes s t ∧ t.histOf d.toNat = { s.histOf d.toNat with
       mode := v.setWidth 2, ctx := v.extractLsb' 2 4, all := v.getLsbD 6, shift := v.extractLsb' 7 5 }))

/-- Hinge ports and links (R445, R446, R469, Table 19.10): training, counters that a read clears, requests of another module, of which a
write is performed where it leads, replays with their error records, retraining, a third failure that fences. -/
def Obligations.HingeAndLinks : Prop :=
  ∀ (s : State),
    (∀ p, s.hostUp = true → (s.hinge p).en = true → Happens (exec (.hingeRetrain p) s) fun t => SameBytes s t ∧ (t.hinge p).up = false ∧
      (t.hinge p).training = true ∧ (t.hinge p).downs = if (s.hinge p).up then (s.hinge p).downs + 1 else (s.hinge p).downs) ∧
    (∀ p downs, s.hostUp = true → Happens (exec (.hingeCounterRead p downs) s) fun t => SameBytes s t ∧
      t.hostData = (if downs then (s.hinge p).downs else (s.hinge p).replay).setWidth 128 ∧
      (t.hinge p).downs = (if downs then 0 else (s.hinge p).downs) ∧ (t.hinge p).replay = if downs then (s.hinge p).replay else 0) ∧
    (∀ (l : LinkId) r, l.kind = .modulePort → (s.hinge (linkPort l)).training = true → (s.link l).fenced = false → r.up = true → r.lanes.toNat ≤ 8 →
      Happens (exec (.linkTrainingComplete l r) s) fun t => SameBytes s t ∧ (t.hinge (linkPort l)).training = false ∧
        (t.hinge (linkPort l)).up = true ∧ (t.hinge (linkPort l)).lanes = r.lanes.setWidth 4 ∧ (t.hinge (linkPort l)).rid = r.rid ∧ (t.link l).up = true) ∧
    (∀ (l : LinkId) r, l.kind = .hostLink → (s.link l).fenced = false → Happens (exec (.linkTrainingComplete l r) s) fun t => SameBytes s t ∧
      t.hinges = s.hinges ∧ (t.link l).up = (r.up && r.flit && [1, 2, 4, 8, 16].contains r.lanes.toNat)) ∧
    (∀ (p : BitVec 3) (r : HingeReq) (m : Nat) (sx sy x y : BitVec 10) (c : CoreId) (k : BitVec 2) (ws : List Word), (s.hinge p).up = true → (s.hinge p).rid = r.fromMod → s.routeFrom p r = some m → 0 < ws.length → ws.length ≤ 4 →
      r.op = .message sx sy x y k ws → s.placeOf r.ctx x.toNat y.toNat = .core c →
      exec (.hingeRequestArrival p r) s = .next { s with msgFly := s.msgFly ++
        [⟨none, c, r.ctx, ⟨sx, sy, BitVec.ofNat 8 m, k, ws⟩⟩] }) ∧
    (∀ (p : BitVec 3) (r : HingeReq) (m : Nat) (addr : BitVec 48) (bs : List (BitVec 8)) (ps : List Part), (s.hinge p).up = true → (s.hinge p).rid = r.fromMod →
      s.routeFrom p r = some m → r.op = .write addr bs → let u : State := { s with hingeNo := s.hingeNo + 1 }
      u.hingeFind ⟨s.hingeNo, p, r, []⟩ true addr bs.length = (.parts ps, u) → u.refuses ps = none → Happens (exec (.hingeRequestArrival p r) s) fun t =>
        t.mem = (u.applyWrites [⟨ps, bs⟩]).mem ∧ ∀ h ∈ t.hingeIn, h.id ≠ s.hingeNo) ∧
    (∀ p r, (s.hinge p).up = false → exec (.hingeRequestArrival p r) s = .next s) ∧
    (∀ l again, (s.link l).up = true → (s.link l).fenced = false →
      Memory.wf s.mem = true → s.badBlocks.elem 0 = false → Happens (exec (.linkCrcReplay l again) s) fun t =>
        (∀ a, a < 0x20 ∨ (0x22 ≤ a ∧ a < 0x2000) ∨ 0x42000 ≤ a → Memory.byte t.mem a = Memory.byte s.mem a) ∧
        (again = true → 8 ≤ (s.link l).attempts → (t.link l).up = false ∧ SameBytes s t) ∧
        ((again = false ∨ (s.link l).attempts < 8) → t.boot.enext = s.boot.enext + 1 ∧
          ((s.link l).replays < 4096 → (t.link l).up = true ∧ (t.link l).replays = (s.link l).replays + 1)) ∧
        (4096 ≤ (s.link l).replays → (t.link l).up = false)) ∧
    (∀ l ok, (s.link l).up = false → (s.link l).fenced = false → Happens (exec (.linkRetrain l ok) s) fun t =>
      (ok = true → (t.link l).up = true ∧ (t.link l).tries = 0 ∧ t.hinges = s.hinges ∧ t.boot.enext = s.boot.enext + 1) ∧
      (ok = false → (t.link l).up = false ∧ (t.link l).tries = (if (s.link l).tries < 2 then (s.link l).tries + 1 else 3) ∧
        (t.link l).fenced = decide (2 ≤ (s.link l).tries)))

/-- Teams and threads (R374, R375, R377, R383, R418, R423, Table 18.7): a waiting team takes the first rectangle that is free, as Keyway
comes to its queue; a placed team whose slots are Empty runs and its command is taken; a team whose threads have ended is complete and
its bindings are gone; aging; a thread comes back from its image; a saved cluster is empty. The model's choices in this: teams age by
the clock of die 0 (log 57), and what Keyway keeps of a saved cluster stands beside its block as plain data (log 52). -/
def Obligations.TeamLife : Prop :=
  ∀ (s : State) (id : Nat) (tm : Team), s.team id = some tm →
    (∀ x0 y0 seats, tm.st = .waiting → tm.aborted = false → s.heldBack tm = false → s.pick = some tm.queue →
      s.rectangle tm = some ((x0, y0), seats) →
      exec (.teamPlace id) s = exec (.teamPlace id) (s.setTeam { tm with st := .placing, x0 := x0, y0 := y0, seats := seats })) ∧
    (tm.st = .waiting → s.heldBack tm = true ∨ s.pick ≠ some tm.queue ∨ s.rectangle tm = none → exec (.teamPlace id) s = .next s) ∧
    (∀ c, tm.st = .placing → tm.aborted = false → tm.saved = [] → s.mayStart tm = true → s.headCmd tm.queue = some c → s.pick = some tm.queue →
      Happens (exec (.teamPlace id) s) fun t => SameBytes s t ∧ t.team id = some { tm with st := .running } ∧
        (t.queue tm.queue).waiting = none ∧ (t.queue tm.queue).head = (s.queue tm.queue).head + 1) ∧
    (tm.st = .placing → tm.aborted = false → s.mayStart tm = false → Happens (exec (.teamPlace id) s) fun t => SameBytes s t ∧
      t.teams = s.teams ∧ t.queues = s.queues) ∧
    (tm.aborted = true → exec (.teamPlace id) s = .next s) ∧
    (∀ (p : Seat) (x y ts : Nat) (pc : BitVec 48), let th := s.newThread tm x y ts pc (tm.launchRegs p)
      let n := (tm.lcid p.x p.y).toNat % 2 ^ 20
      th.pc = pc ∧ th.mode = false ∧ th.lcid = tm.lcid x y ∧ th.tdeleg = s.ctxs[tm.ctx.toNat].tpol ∧
      th.greg 2 = BitVec.ofNat 64 (0xF00000002000 - 0x800 * p.ts.toNat) ∧ th.greg 3 = BitVec.ofNat 64 (tm.bits 384 64) ∧
      th.greg 4 = p.ts.setWidth 64 ∧ th.greg 31 = BitVec.ofNat 64 (tm.bits 192 64 + n * tm.bits 256 32) ∧ th.greg 5 = 0) ∧
    (s.teamOver tm = true → tm.aborted = false → tm.evict = [] → Happens (exec (.teamComplete id) s) fun t => SameBytes s t ∧
      t.teams = s.teams.filter (·.id ≠ id) ∧ (t.queue tm.queue).taken = (s.queue tm.queue).taken.filter (·.1 ≠ tm.cmd) ∧
      ∀ (c : CoreId) (n : Fin 4) (x : ClassBind), (t.coreAt c).bind[n] = some x → x.team ≠ some id) ∧
    (s.teamOver tm = false → exec (.teamComplete id) s = .next s) ∧
    (tm.st = .waiting → tm.since + 2 ^ 20 ≤ s.clkOf 0 → Happens (exec (.teamAged id) s) fun t => SameBytes s t ∧
      t.team id = some { tm with aged := true }) ∧
    (∀ (k : BitVec 2) (o : OutThread) (w : Nat), s.outs.find? (·.uid = o.uid) = some o → o.team = id → o.slot = slotOf k → (slotOf k).val < 3 →
      (s.core.th (slotOf k)).status = .empty → s.core.fenced = false → s.resumable o = true → s.mapsTo o s.cid = true →
      s.reserved s.cid (slotOf k) = false → (s.takeImage s.cid o.block).1 = some w → imageOk w = true →
      Happens (exec (.switchIn k o.uid) s) fun t => t.outs = s.outs.filter (·.uid ≠ o.uid) ∧
        t.core.th (slotOf k) = (s.newThread tm o.x o.y o.ts.toNat 0 fun t => t).loadImage w o) ∧
    (∀ (n : BitVec 17) (b : Nat), tm.st = .evicting → tm.aborted = false → n.toNat ∈ tm.lcns → s.evicted tm = true → (∀ z ∈ tm.saved, z.lcn ≠ n.toNat) →
      let d := (s.route tm.ctx n.toNat).2
      (∀ m ∈ tm.lcns, (∀ z ∈ tm.saved, z.lcn ≠ m) → (s.clAt (s.route tm.ctx m).2).window.any (·.st.active) = false) →
      s.outs.any (·.team = id) = true → (s.allocBlock tm.ctx clusterBlock).map (·.1) = some b →
      Happens (exec (.clusterSave id n) s) fun t => (t.clAt d).window = [] ∧ (t.clAt d).backlog = [] ∧
        ∃ z : SavedCluster, z.lcn = n.toNat ∧ z.block = b ∧ z.at_ = d ∧ z.cl.window = (s.clAt d).window ∧
          t.team id = some (if tm.saved.length + 1 < tm.lcns.length then { tm with saved := tm.saved ++ [z] }
            else { tm with saved := tm.saved ++ [z], st := .evicted, evict := [], since := 0 })) ∧
    (∀ n : BitVec 17, s.outs.any (·.team = id) = false → exec (.clusterSave id n) s = .next s)

/-- The miss mailbox (R394, R396, Tables 17.2, 17.3): the oldest request is presented in the three words of the mailbox and wakes slot
3; the result of a page walk is installed, or its fault goes to the thread that asked, and the request leaves the queue. A watchpoint
that matches an access of the walk halts the core with the request in place (R492), and a core that the debug module holds serves none
(R489). The model's choices in this: the walk is made by steps of the machine and not by instructions of slot 3 (log 29), and the
request stays in place at a watchpoint, or while a trap handler runs in slot 3, to be walked again (log 83). Page-in (R402 to R404): a
request merges into the entry of its page, or makes one and goes on upwards; a refusal of the firmware goes back to the children as
wakes, as does a page made present, on no retired frame (R468); a wake at a node goes on to its children. What the firmware answers is
an argument of the step, which is the model's choice (log 57). -/
def Obligations.PageService : Prop :=
  (∀ (s : State) (r : MissReq) (rest : List MissReq), s.core.missQ = r :: rest → Memory.wf s.mem = true →
     (s.core.presented = false → r.kind = 2 ∨ tlbFind (s.clAt (r.tlbCl s.cid)).tlb r.ctx r.addr.toNat { w := r.wr, x := r.fetch } r.user = none →
       Happens (exec .missPresent s) fun t => t.core.presented = true ∧ t.core.missQ = r :: rest ∧ (t.core.th 3).status ≠ .sleeping ∧
         Stored s t (s.cid.ls 0x2C00) 24 (r.word0 + 2 ^ 64 * r.addr.toNat + 2 ^ 128 * r.aux.toNat)) ∧
     (s.core.presented = true → exec .missPresent s = .next s) ∧
     (∀ (i : Fin 4) (f : Bool) (b : BitVec 8) (u : State), s.core.presented = true → s.core.lets 3 = true → (s.core.th 3).held = none → s.core.dbg.wp = Vector.replicate 2 0 → r.kind = 1 → rest = [] → r.who = .thread i f → i ≠ 3 →
       (s.core.th i).status = .missWait → (s.core.th i).miss = .walk →
       s.pageWalk r.ctx { w := r.wr, x := r.fetch } r.user r.addr.toNat = (.fault 6 b, u) → u.core = s.core → u.cid = s.cid →
       Happens (exec .missResult s) fun t => t.core.missQ = [] ∧ t.core.presented = false ∧ (t.core.th i).status = .ready ∧
         (t.core.th i).got = (s.core.th i).got ++ [⟨false, r.addr.toNat / 4096, .fault 6 b none⟩]) ∧
     (s.core.presented = true → s.core.lets 3 = false ∨ (s.core.th 3).held.isSome = true → exec .missResult s = .next s) ∧
     (∀ (m : Fin 2) (ea : Nat) (wr : Bool), s.core.presented = true → s.core.lets 3 = true → (s.core.th 3).held = none → r.kind = 1 →
       s.walkWatched { w := r.wr, x := r.fetch } r.user r.addr.toNat 4 s.ctxs[r.ctx.toNat].ptroot = some (m, ea, wr) →
       (s.core.dbg.wp[m.val]).getLsbD 50 = false → Happens (exec .missResult s) fun t => SameBytes s t ∧ t.core.missQ = r :: rest ∧
         t.core.dbg.halted = true ∧ t.core.dbg.reason = 4 ∧ t.core.dbg.slot = 3 ∧ t.core.dbg.index = BitVec.ofNat 2 m.val) ∧
     (∀ (i : Fin 4) (f : Bool) (e : TlbEntry) (u : State), s.core.presented = true → s.core.lets 3 = true → (s.core.th 3).held = none → s.core.dbg.wp = Vector.replicate 2 0 → r.kind = 1 → rest = [] → r.who = .thread i f → r.keep = true → i ≠ 3 →
       (s.core.th i).status = .missWait → (s.core.th i).miss = .walk →
       s.pageWalk r.ctx { w := r.wr, x := r.fetch } r.user r.addr.toNat = (.ok e, u) → u.core = s.core → u.cid = s.cid →
       resultPage r.ctx r.addr.toNat (Walked.ok e).result = .ok e → Happens (exec .missResult s) fun t => t.core.missQ = [] ∧
         t.core.presented = false ∧ (t.core.th i).status = .ready ∧ e ∈ (t.clAt s.cid.home).tlb)) ∧
  (∀ (s : State) (k : Nat) (f : PageMsg),
     (s.pageFly[k]? = some f → f.wake = false → (∀ e ∈ s.pageTree, e.is f.dest f.ctx f.page = false) →
       f.dest.room (s.pageTree.countP fun e => e.node == f.dest) = true → (∀ d, f.dest ≠ .firmware d) →
       exec (.pageinRequestArrival k) s = .next { s with pageTree := s.pageTree ++ [⟨f.dest, f.ctx, f.page, [f.child]⟩]
                                                         pageFly := s.pageFly.eraseIdx k ++ [{ dest := f.dest.parent, child := f.dest, ctx := f.ctx
                                                                                               page := f.page }] }) ∧
     (s.pageFly[k]? = some f → f.wake = false → (∃ e ∈ s.pageTree, e.is f.dest f.ctx f.page = true) →
       Happens (exec (.pageinRequestArrival k) s) fun t => t.pageFly = s.pageFly.eraseIdx k ∧ t.pageTree.length = s.pageTree.length ∧
         ∀ e ∈ t.pageTree, e.is f.dest f.ctx f.page = true → f.child ∈ e.children) ∧
     (∀ e d tables leaf, s.pageTree[k]? = some e → e.node = .firmware d → Happens (exec (.pageinResolve k true tables leaf) s) fun t => SameBytes s t ∧
       (∀ x ∈ t.pageTree, x.is e.node e.ctx e.page = false) ∧ t.pageFly = s.pageFly ++
         e.children.map fun c => { dest := c, child := e.node, ctx := e.ctx, page := e.page, wake := true, refused := true }) ∧
     (∀ e d tables leaf, s.pageTree[k]? = some e → e.node = .firmware d → leaf.getLsbD 0 = true →
       (s.makePresent (e.page * 4096) leaf 4 s.ctxs[e.ctx.toNat].ptroot tables).isSome = true →
       Happens (exec (.pageinResolve k false tables leaf) s) fun t => t.pageFly = s.pageFly ++
         e.children.map fun c => { dest := c, child := e.node, ctx := e.ctx, page := e.page, wake := true }) ∧
     (∀ e d tables leaf, s.pageTree[k]? = some e → e.node = .firmware d →
       s.makePresent (e.page * 4096) leaf 4 s.ctxs[e.ctx.toNat].ptroot tables = none → exec (.pageinResolve k false tables leaf) s = .next s) ∧
     (∀ e, s.pageFly[k]? = some f → f.wake = true → (∀ c, f.dest ≠ .core c) → s.pageTree.find? (fun e => e.is f.dest f.ctx f.page) = some e →
       Happens (exec (.pageinWake k) s) fun t => SameBytes s t ∧ t.pageFly = s.pageFly.eraseIdx k ++
         e.children.map fun c => { dest := c, child := e.node, ctx := e.ctx, page := e.page, wake := true, refused := f.refused }))

/-- The load mailbox and attestation (R452, R453, R459, R461, R484): a request is served in its order; its STATUS, DETAIL and NTEAM are
written; a fuse counter is raised by a signed record; the report and its signature stand at OUT. What a relocation record puts into its
section (R449, R450, Table 20.3), where its field lies in the section as R451 asks: V is the address of its symbol and the addend, L the
line of its field; the bytes outside the field, and the other sections, stay; a record that breaks its condition is refused. Where an
object goes (R450, R453, Table 20.5): a load of an object with one placed section, in one page that its context maps with W and whose
translation does not lie in it, puts the section's bytes as the relocation records leave them at the address that base and VOFF
translate to, STATUS 1 into the mailbox, and no byte elsewhere; with a record that breaks its condition STATUS 5 names it. A team record
goes to TREC, and NTEAM counts it. -/
def Obligations.SecurityRequests : Prop :=
  (∀ (s : State),
     (∀ r rest, s.boot.loads = r :: rest → let v := r.req.toNat
       let s1 : State := { s with boot := { s.boot with loads := rest, judged := r.fuses } }
       let ends := fun (i : Instr) (w : State) (e : LoadEnd) => Memory.wf w.mem = true → w.refuses [⟨0x1030, 8⟩] = none → Happens (exec i s) fun t =>
         Stored w t 0x1030 8 (e.status + 2 ^ 8 * (e.detail % 256) + 2 ^ 16 * (e.nteam % 2 ^ 16)) ∧ t.boot = w.boot
       let loads := fun (i : Instr) (u : State) (o : Obj) => ∀ e w,
         u.loadObj (BitVec.ofNat 4 (bits v 4 4)) (bits v 192 48) (bits v 256 50) o = (e, w) → ends i w e
       (requestBad v = true → bits v 0 4 = 1 → ends .loadObject s1 ⟨2, 0, 0⟩) ∧
       (requestBad v = true → bits v 0 4 = 2 → ends .translateAndLoad s1 ⟨2, 0, 0⟩) ∧
       (requestBad v = true → bits v 0 4 = 3 → ends .raiseFuseCounter s1 ⟨2, 0, 0⟩) ∧
       (∀ o bs u, requestBad v = false → s1.sourceObj v = (.ok (o, bs), u) →
         (bits v 0 4 = 1 → u.revoked o = false → loads .loadObject u o) ∧
         (bits v 0 4 = 1 → u.revoked o = true → ends .loadObject u ⟨4, 0, 0⟩) ∧
         (let key := translationKey bs (bits v 320 8)
          bits v 0 4 = 2 →
           (u.revoked o = true → ends .translateAndLoad (u.uncache key) ⟨4, 0, 0⟩) ∧
           (u.revoked o = false → o.tiruc = false → ends .translateAndLoad u ⟨7, 0, 0⟩) ∧
           (u.revoked o = false → o.tiruc = true →
             (∀ x, u.tcache.find? (fun t => t.key == key && u.cachedOk t) = some x → loads .translateAndLoad (u.recache key x.obj) x.obj) ∧
             (u.tcache.find? (fun t => t.key == key && u.cachedOk t) = none →
               (∀ x, translate o (bits v 320 8) = some x → loads .translateAndLoad (u.recache key x) x) ∧
               (translate o (bits v 320 8) = none → ends .translateAndLoad (u.uncache key) ⟨8, 0, 0⟩))))) ∧
       (∀ e u, requestBad v = false → s1.sourceObj v = (.error e, u) →
         (bits v 0 4 = 1 → ends .loadObject u e) ∧ (bits v 0 4 = 2 → ends .translateAndLoad u e)) ∧
       (∀ bs u, bits v 0 4 = 3 → requestBad v = false → s1.readPhys (bits v 64 50) 160 = (some bs, u) → field bs 0 4 = 0x56524B56 → field bs 4 1 ≤ 63 →
         field bs 5 3 = 0 → field bs 12 52 = 0 → field bs 8 4 ≤ 255 →
         ∀ f : Fin 64, f.val = field bs 4 1 → (u.boot.fuses[f]).toNat < field bs 8 4 → u.signed (bs.take 64) (bs.drop 64) 0 = true →
         Happens (exec .raiseFuseCounter s) fun t => (∀ k : Fin 64, t.boot.fuses[k] = if k = f then BitVec.ofNat 8 (field bs 8 4) else u.boot.fuses[k]) ∧
           (Memory.wf u.mem = true → u.refuses [⟨0x1030, 8⟩] = none → Stored u t 0x1030 8 1))) ∧
     (∀ r rest, s.boot.reports = r :: rest → Memory.wf s.mem = true → s.refuses [⟨0x1050, 1⟩] = none → let v := r.toNat
       let out := bits v 64 50
       let body := s.reportBody (leBytes 32 (bits v 192 256))
       let all := body ++ Config.sm3 body ++ Config.sm2Sign (Config.sm3 body)
       (s.boot.state = 3 → Happens (exec .attestationReport s) fun t => t.boot.reports = rest ∧ Stored s t 0x1050 1 3) ∧
       (s.boot.state ≠ 3 → bits v 0 4 = 1 → bits v 4 60 = 0 → bits v 64 6 = 0 → bits v 114 14 = 0 → bits v 136 56 = 0 → 2 ^ 30 ≤ out →
         physTarget out = true → physTarget (out + 271) = true → all.length = 272 →
         (∀ a n, out ≤ a → a + n ≤ out + 272 → s.refuses [⟨a, n⟩] = none) → Happens (exec .attestationReport s) fun t => t.boot.reports = rest ∧
           Memory.byte t.mem 0x1050 = 1 ∧ ∀ k < all.length, Memory.byte t.mem (out + k) = all.getD k 0))) ∧
  (∀ (o : Obj) (base : Nat) (r : Reloc), base < 2 ^ 48 → o.fieldOk r = true →
     let syms := o.all 6
     let x := o.sect r.link
     let ix := field syms (24 * r.sym + 4) 2
     let val := field syms (24 * r.sym + 8) 8
     24 * (r.sym + 1) ≤ syms.length → (ix = 0xFFFF ∨ ix < o.sects.length) →
     let V : Nat := ((if ix = 0xFFFF then val else base + (o.sect ix).voff + val) + r.addend) % 2 ^ 64
     let L : Nat := (base + x.voff + r.off) / 64 * 64
     let sV : Int := if V < 2 ^ 63 then (V : Int) else (V : Int) - 2 ^ 64
     let lines : Int := ((V / 64 % 2 ^ 42 : Nat) : Int) - ((L / 64 % 2 ^ 42 : Nat) : Int)
     let near := ∃ d : Int, -16384 ≤ d ∧ d ≤ 16383 ∧ (lines = d ∨ lines = d + 2 ^ 42 ∨ lines = d - 2 ^ 42) ∧ V % 64 ≠ 0 ∧ V % 2 = 0
     let off20 : Nat := (lines % 2 ^ 15).toNat * 32 + (V % 64 - 2) / 2
     let puts := fun (n new : Nat) => ∃ p, o.reloc base r = some p ∧ p.sects.length = o.sects.length ∧ (∀ i, i ≠ r.link → p.sect i = o.sect i) ∧
       (p.sect r.link).kind = x.kind ∧ (p.sect r.link).voff = x.voff ∧ (p.sect r.link).bytes.length = x.bytes.length ∧
       ∀ k < x.bytes.length, (p.sect r.link).bytes.getD k 0 =
         if r.off ≤ k ∧ k < r.off + n then BitVec.ofNat 8 (new / 2 ^ (8 * (k - r.off))) else x.bytes.getD k 0
     (r.typ = 1 → puts 8 V) ∧
     (r.typ = 2 → (V < 2 ^ 48 → puts 8 (field x.bytes r.off 8 / 2 ^ 48 * 2 ^ 48 + V)) ∧ (2 ^ 48 ≤ V → o.reloc base r = none)) ∧
     (r.typ = 3 → (-2 ^ 31 ≤ sV ∧ sV < 2 ^ 31 → puts 4 (V % 2 ^ 32)) ∧ (sV < -2 ^ 31 ∨ 2 ^ 31 ≤ sV → o.reloc base r = none)) ∧
     (r.typ = 4 → (-2 ^ 31 ≤ sV - L ∧ sV - L < 2 ^ 31 → puts 4 ((sV - L) % 2 ^ 32).toNat) ∧
       (sV - L < -2 ^ 31 ∨ 2 ^ 31 ≤ sV - L → o.reloc base r = none)) ∧
     (r.typ = 5 → (near → puts 4 (field x.bytes r.off 4 / 2 ^ 20 * 2 ^ 20 + off20)) ∧ (¬ near → o.reloc base r = none)) ∧
     (r.typ = 6 → (near → puts 4 (field x.bytes r.off 4 % 2 ^ 12 + 2 ^ 12 * off20)) ∧ (¬ near → o.reloc base r = none))) ∧
  (∀ (s u : State) (r : LoadReq) (rest : List LoadReq) (o p : Obj) (bs : List Byte) (bad : Option Nat), s.boot.loads = r :: rest →
     let v := r.req.toNat
     let ctx := BitVec.ofNat 4 (bits v 4 4)
     let base := bits v 192 48
     let trec := bits v 256 50
     requestBad v = false → bits v 0 4 = 1 →
     State.sourceObj { s with boot := { s.boot with loads := rest, judged := r.fuses } } v = (.ok (o, bs), u) → u.revoked o = false → o.tiruc = false →
     u.ctxs[ctx.toNat].valid = true → Memory.wf u.mem = true → (∀ a n, u.refuses [⟨a, n⟩] = none) →
     Obj.relocAll base o.relocs 0 o = (p, bad) →
     (∀ (x : Sect) (e : TlbEntry), o.sects.filter (·.placed) = [x] → 0 < x.bytes.length → x.bytes.length ≤ 4096 →
       let va := base + x.voff
       let pa := e.pa va
       let w := u.devWrite 0 pa x.bytes
       va % 4096 = 0 → va + 4096 ≤ 2 ^ 48 → spaceOf va = .paged → 2 ^ 30 ≤ pa → pa + 4096 ≤ 2 ^ 50 → isHbm pa = true →
       u.pageWalk ctx { w := true } false va = (.ok e, u) → w.pageWalk ctx { w := true } false va = (.ok e, w) →
       (∀ q ∈ o.relocs, q.typ ≠ 5 ∧ q.typ ≠ 6) → p.all 4 = [] →
       Happens (exec .loadObject s) fun t => (∀ a, (a < pa ∨ pa + x.bytes.length ≤ a) → (a < 0x1030 ∨ 0x1038 ≤ a) → Memory.byte t.mem a = Memory.byte u.mem a) ∧
         Memory.read t.mem 0x1030 8 = (match bad with
           | none => 1
           | some i => 5 + 2 ^ 8 * (i % 256)) ∧
         (bad = none → ∀ k < x.bytes.length, Memory.byte t.mem (pa + k) = ((p.sects.filter (·.placed)).flatMap (·.bytes)).getD k 0)) ∧
     (o.sects.filter (·.placed) = [] → bad = none → p.sects.filter (·.placed) = [] → (∀ q ∈ o.relocs, q.typ ≠ 5 ∧ q.typ ≠ 6) → (p.all 4).length = 64 →
       2 ^ 30 ≤ trec → isHbm trec = true →
       Happens (exec .loadObject s) fun t => Memory.read t.mem 0x1030 8 = 1 + 2 ^ 16 ∧
         ∀ a, (a < 0x1030 ∨ 0x1038 ≤ a) → Memory.byte t.mem a = if trec ≤ a ∧ a < trec + 64 then (p.all 4).getD (a - trec) 0 else Memory.byte u.mem a))

/-- Faults, fences and repair (R467, R468, R470 to R473, R475): what the scrubber finds, a retired frame, a fenced core, cluster or die,
the spares that replace them, the record of a correctable error. That a frame is retired by moving the whole leaf page to memory that
lies alike, and only while nothing uses it, is the model's choice (log 65), and so is the time of each of these events (log 57). -/
def Obligations.FaultsAndRepair : Prop :=
  ∀ (s : State),
    (∀ loc, s.badRange loc 1 = false → Happens (exec (.scrubPass loc false) s) fun t => SameBytes s t ∧ t.boot = s.boot ∧ t.badBlocks = s.badBlocks ∧
      t.badWords = s.badWords ∧ (isHbm loc = false → t = s)) ∧
    (∀ loc, isHbm loc = true → 192 ≤ loc → loc < 0x2000 ∨ 0x42000 ≤ loc → Happens (exec (.scrubPass loc true) s) fun t => loc / 64 * 64 ∈ t.badBlocks) ∧
    (∀ f n : BitVec 38, isHbm (f.toNat * 4096) = true → isHbm (n.toNat * 4096) = true → f.toNat ∉ s.retired → f ≠ n →
      s.badRange (f.toNat * 4096) 4096 = true →
      let span := ((List.finRange 16).flatMap fun c => s.mapsFrame c f.toNat).foldl (fun m l => Nat.max m l.2.1) 1
      f.toNat % span = n.toNat % span → (∀ x ∈ s.retired, x / span ≠ n.toNat / span) → s.rangeBusy (f.toNat / span * span * 4096) (f.toNat / span * span * 4096 + span * 4096) = false →
      Happens (exec (.pageRetire f n) s) fun t => f.toNat ∈ t.retired ∧ ∀ x ∈ s.retired, x ∈ t.retired) ∧
    (∀ f n : BitVec 38, f.toNat ∈ s.retired ∨ n.toNat ∈ s.retired → exec (.pageRetire f n) s = .next s) ∧
    (∀ (d : BitVec 4) (l : BitVec 14) (k : BitVec 3), let c : CoreId := ⟨d.toNat, l.toNat, k.toNat⟩
      (s.coreAt c).fenced = false → l.toNat < 8320 → Happens (exec (.coreFence d l k) s) fun t => (t.coreAt c).fenced = true ∧
        t.boot.enext = s.boot.enext + 1 ∧ ∀ i : Fin 4, ((t.coreAt c).th i).status = .empty) ∧
    (∀ (d : BitVec 4) (l : BitVec 14), let c : ClusterId := ⟨d.toNat, l.toNat⟩
      s.deadCl c = false → l.toNat < 8320 → Happens (exec (.clusterFence d l) s) fun t => (t.clAt c).fenced = true ∧ (t.clAt c).window = [] ∧
        (t.clAt c).backlog = []) ∧
    (∀ d : BitVec 4, d.toNat ∉ s.deadDies → Happens (exec (.dieFence d) s) fun t => d.toNat ∈ t.deadDies) ∧
    (∀ (d : BitVec 4) (l : BitVec 14) (k : BitVec 3) (x : CoreId), (s.coreAt ⟨d.toNat, l.toNat, k.toNat⟩).fenced = true →
      s.standIn ⟨d.toNat, l.toNat, k.toNat⟩ = none → s.spareCore ⟨d.toNat, l.toNat, k.toNat⟩ = some x →
      Happens (exec (.coreRepair d l k) s) fun t => t.spares = s.spares ++ [x] ∧
        t.boot.repairs = s.boot.repairs ++ [.core d.toNat l.toNat k.toNat x.clu x.core]) ∧
    (∀ (d : BitVec 4) (l k : BitVec 14), (s.clAt ⟨d.toNat, l.toNat⟩).fenced = true → s.standInCluster ⟨d.toNat, l.toNat⟩ = none → s.spareCluster ⟨d.toNat, l.toNat⟩ = some k.toNat →
      Happens (exec (.clusterRepair d l k) s) fun t => t.spares = s.spares ++ (List.range 8).map (fun n => ⟨d.toNat, k.toNat, n⟩) ∧
        t.boot.repairs = s.boot.repairs ++ [.cluster d.toNat l.toNat k.toNat]) ∧
    (∀ (d : BitVec 4) (hbm : Bool) (n : BitVec 32), Memory.wf s.mem = true → n ≠ 0 →
      (if hbm then (s.histOf d.toNat).hbmLogged else (s.histOf d.toNat).sramLogged) < s.clkOf d.toNat / 2 ^ 24 →
      Happens (exec (.correctableErrorRecord d hbm n) s) fun t => t.boot.enext = s.boot.enext + 1 ∧
        bits (t.read (0x2000 + 64 * (s.boot.enext.toNat % 4096)) 64) 0 8 = (if hbm then 4 else 1) ∧
        bits (t.read (0x2000 + 64 * (s.boot.enext.toNat % 4096)) 64) 32 32 = n.toNat)

/-- Periods and energy budgets (R386 to R388): a period of a die clears the meters of its clusters and lets them issue; a meter that has
reached its budget stops its cluster; what the ports of a die get in a period until budgets are set (Table 16.10). Starts and power
(R464, R478 to R483): a start whose steps end and whose images pass publishes normal operation: each image is an object, its digest is
signed by the key that is fused to slot 0, and no fuse counter is above its version; one that fails counts its failure; a start that
does not end is ended; the record in memory shows each change; the power manager's window and its limit; the thermal trip loses all but
the hub region, and its record names the die. The model's choices in this: memory that nothing has written reads 0 (log 2), the steps of
a start and its counters in one step (log 28), the clock of the hub (log 57), the translation cache that a cold start empties (log 61),
the inputs and limits of the power manager (log 62), an image as an object with its signature block (log 86). -/
def Obligations.StartsAndPower : Prop :=
  (∀ (s : State),
     (∀ d : BitVec 4, (s.histOf d.toNat).period < s.clkOf d.toNat / 4096 → Happens (exec (.periodStart d) s) fun t => SameBytes s t ∧
       (t.histOf d.toNat).period = s.clkOf d.toNat / 4096 ∧ t.budgetsNext = s.budgetsNext.filter (fun b => b.1.1 ≠ d.toNat) ∧
       ∀ c : ClusterId, c.die = d.toNat → (t.clAt c).meter = 0 ∧ (t.clAt c).spent = false) ∧
     (∀ d : BitVec 4, s.clkOf d.toNat / 4096 ≤ (s.histOf d.toNat).period → exec (.periodStart d) s = .next s) ∧
     (s.energyBudget s.cl ≤ s.cl.meter → exec .energyBudgetSpent s = .next { s with cl := { s.cl with spent := true } }) ∧
     (s.cl.meter < s.energyBudget s.cl → exec .energyBudgetSpent s = .next s) ∧
     (∀ die kind (k : Fin 6), (State.reset.budget die k.val kind).toNat = [4096, 4096, 1024, 128, 256, 512].getD k.val 0)) ∧
  (∀ (s : State) (inp : StartInput),
     (∀ i, i = .powerOn inp ∨ i = .coldStartRequest inp → Memory.wf s.mem = true → inp.ends = true → inp.images ≠ [] → inp.hbmTrains = true →
       inp.linksTrain = true →
       (∃ k, inp.keys[0]? = some k ∧ inp.keyDigests[0]? = some (Config.sm3 k) ∧ ∀ m ∈ inp.images, ∃ o key, parseObj m = .ok (o, key) ∧ o.tiruc = false ∧
         ((fuseMax s.boot.fuses inp.fuses)[o.fuse.toNat]).toNat ≤ o.svn ∧ ((fuseMax s.boot.fuses inp.fuses)[0]).toNat ≤ o.svn ∧
         (m.drop (m.length - 96)).take 32 = Config.sm3 (m.take (m.length - 96)) ∧
         Config.sm2Verify k (Config.sm3 (m.take (m.length - 96))) (m.drop (m.length - 64)) = true) →
       Happens (exec i s) fun t => t.running = true ∧ t.boot.state = 1 ∧ t.boot.boots = s.boot.boots + 1 ∧ t.boot.wfail = 0 ∧ t.boot.cfail = 0 ∧
         t.boot.starting = false ∧ t.boot.enext = 0 ∧ t.tcache = [] ∧ t.boot.meas = measure (List.replicate 32 0) inp.images ∧ t.read 0 1 = 1) ∧
     (s.running = true → s.boot.wfail.toNat < 3 → inp.ends = true → inp.images ≠ [] → inp.linksTrain = true →
       (∀ m ∈ inp.images, Config.sm3 (m.take (m.length - 96)) ∈ s.boot.digests ∧ ∃ o key, parseObj m = .ok (o, key) ∧ o.tiruc = false ∧
         ((fuseMax s.boot.fuses inp.fuses)[o.fuse.toNat]).toNat ≤ o.svn ∧ ((fuseMax s.boot.fuses inp.fuses)[0]).toNat ≤ o.svn) →
       Happens (exec (.warmStartRequest inp) s) fun t => t.boot.state = 2 ∧ t.boot.boots = s.boot.boots + 1 ∧ t.boot.wfail = 0 ∧
         t.boot.meas = s.boot.meas ∧ t.tcache = s.tcache) ∧
     (s.running = false → exec (.warmStartRequest inp) s = .next s) ∧
     (inp.ends = true → inp.images = [] → s.boot.cfail.toNat < 2 → Happens (exec (.coldStartRequest inp) s) fun t => t.boot.state = 0 ∧
       t.boot.cfail = s.boot.cfail + 1 ∧ t.boot.starting = false ∧ t.boot.store.length = s.boot.store.length + 1) ∧
     (s.boot.starting = true → s.boot.warm = true → s.boot.since + 2 ^ 34 ≤ s.clkOf 0 → Memory.wf s.mem = true →
       s.badBlocks.elem 0 = false → Happens (exec .startTimeout s) fun t =>
       (∀ a, 8 ≤ a → Memory.byte t.mem a = Memory.byte s.mem a) ∧ Memory.byte t.mem 0 = 0 ∧ Memory.byte t.mem 1 = s.boot.wfail + 1 ∧ t.boot.starting = false ∧ t.boot.state = 0 ∧ t.boot.wfail = s.boot.wfail + 1) ∧
     (∀ p : PowerSense, s.power.window < s.clkOf 0 / 2 ^ 20 → Happens (exec (.powerWindow p) s) fun t => t.power.window = s.clkOf 0 / 2 ^ 20 ∧
       ∀ l, 5600000 < p.milliwatts → (∀ d < 16, p.tempTenths.getD d 0 < 900) → s.power.hot = Vector.replicate 16 false →
         s.cl.limitSet = some l → l * 5600000 / p.milliwatts < s.energyBudget { s.cl with limit := none } →
         t.cl.limitSet = some (l * 5600000 / p.milliwatts)) ∧
     (Memory.wf s.mem = true → Happens (exec .thermalTrip s) fun t => t.running = false ∧ t.boot.state = 0 ∧
       (∀ a, 2 ^ 30 ≤ a → isHost a = false → Memory.byte t.mem a = 0) ∧
       bits (t.read (0x2000 + 64 * (s.boot.enext.toNat % 4096)) 64) 0 8 = 16 ∧
       bits (t.read (0x2000 + 64 * (s.boot.enext.toNat % 4096)) 64) 8 4 = s.cid.die % 16))

/-- Debug and statistics (R488 to R490, R493, R495): halt, run and step of a core, access to its registers, the status whose read clears
ERR, samples of the histogram, and the dump that each interval of 2^20 cycles begins unless the one before is still being written. -/
def Obligations.DebugAndStatistics : Prop :=
  ∀ (s : State),
    let d := s.core.dbg
    (d.halted = false → Happens (exec .debugStop s) fun t => SameBytes s t ∧ t.core.dbg.halted = true ∧ t.core.dbg.reason = 1) ∧
    (d.halted = true → Happens (exec .debugRun s) fun t => SameBytes s t ∧ t.core.dbg.halted = false ∧ t.core.dbg.stepping = none ∧
      t.core.slots = s.core.slots) ∧
    (d.halted = true → Happens (exec .debugStep s) fun t => SameBytes s t ∧ t.core.dbg.halted = false ∧
      t.core.dbg.stepping = some (slotOf d.stepSlot) ∧ t.core.slots = s.core.slots ∧ ∀ k : Fin 4, t.core.lets k = decide (k = slotOf d.stepSlot)) ∧
    (∀ i, d.stepping = some i → d.issued = true → (s.core.th i).fq = [] → (s.core.th i).rep.act = false →
      Happens (exec .stepDone s) fun t => SameBytes s t ∧ t.core.dbg.halted = true ∧ t.core.dbg.reason = 2 ∧ t.core.dbg.slot = BitVec.ofNat 2 i.val) ∧
    (∀ i, d.stepping = some i → d.issued = false → d.since + 2 ^ 16 ≤ s.clkOf s.cid.die →
      Happens (exec .stepTimeout s) fun t => SameBytes s t ∧ t.core.dbg.halted = true ∧ t.core.dbg.reason = 2) ∧
    (d.halted = true → 0x200 ≤ d.num → d.num < 0x220 →
      (Happens (exec .daccRead s) fun t => SameBytes s t ∧ t.core.dbg = { d with ddata := (s.core.th d.aslot).greg (BitVec.ofNat 6 (d.num - 0x200)) }) ∧
      (Happens (exec .daccWrite s) fun t => SameBytes s t ∧ ∀ k : Reg, k.toNat < 32 → (t.core.th d.aslot).greg k =
        if k.toNat = d.num - 0x200 ∧ k ≠ 0 then d.ddata else (s.core.th d.aslot).greg k)) ∧
    (d.halted = true → 0x240 ≤ d.num → d.num < 0x270 →
      (Happens (exec .daccRead s) fun t => SameBytes s t ∧ t.core.dbg = { d with ddata := (s.core.th d.aslot).vreg (d.num - 0x240) }) ∧
      (Happens (exec .daccWrite s) fun t => SameBytes s t ∧ ∀ n < 48, (t.core.th d.aslot).vreg n =
        if n = d.num - 0x240 then d.ddata else (s.core.th d.aslot).vreg n)) ∧
    (d.halted = false → (Happens (exec .daccRead s) fun t => t.core.dbg = { d with err := true }) ∧
      (Happens (exec .daccWrite s) fun t => t.core.dbg = { d with err := true } ∧ t.core.slots = s.core.slots)) ∧
    (Happens (exec .dstatRead s) fun t => SameBytes s t ∧ t.core.dbg = { d with err := false } ∧
      t.hostData = (0#119 ++ BitVec.ofBool d.err ++ d.index ++ d.slot ++ d.reason ++ BitVec.ofBool d.halted).setWidth 128) ∧
    (∀ x : BitVec 4, (s.histOf x.toNat).sampled < s.clkOf x.toNat / 1024 → Happens (exec (.histSample x) s) fun t => SameBytes s t ∧
      (t.histOf x.toNat).sampled = (s.histOf x.toNat).sampled + 1 ∧ ((s.histOf x.toNat).mode = 0 → (t.histOf x.toNat).bins = (s.histOf x.toNat).bins)) ∧
    (∀ x : BitVec 4, let h := s.histOf x.toNat
      h.dumped < s.clkOf x.toNat / 2 ^ 20 → Happens (exec (.intervalDump x) s) fun t =>
      (t.histOf x.toNat).dumped = h.dumped + 1 ∧
      (h.dump = none → SameBytes s t ∧ (t.histOf x.toNat).bins = [] ∧ (t.histOf x.toNat).intervals = 1 ∧
        (∀ g ∈ t.grid, g.1.die = x.toNat → g.2.flits = Vector.replicate 6 0) ∧
        (h.nbuf ≠ 0 → h.bufkb ≠ 0 → (t.histOf x.toNat).seq = h.seq + 1 ∧ ∀ o, (t.histOf x.toNat).dump = some o → o.seq = h.seq ∧
          o.loc = (h.obase.toNat + h.seq.toNat % h.nbuf.toNat * h.bufkb.toNat) * 2 ^ 16 ∧
          o.left.take 5 = [0x56, 0x4F, 0x42, 0x53, BitVec.ofNat 8 x.toNat] ∧ (o.left.drop 8).take 8 = leBytes 8 ((h.dumped + 1) * 2 ^ 20) ∧
          (o.left.drop 20).take 4 = leBytes 4 h.intervals.toNat)) ∧
      (∀ o, h.dump = some o → s.dumpRoom x.toNat o.loc = 0 → SameBytes s t ∧ (t.histOf x.toNat).bins = h.bins ∧
        (t.histOf x.toNat).intervals = h.intervals + 1 ∧ (t.histOf x.toNat).seq = h.seq ∧ t.grid = s.grid))

/-- The module after reset: what the maps give (Tables 1.6 to 1.17, 6.1, R20, R34, R366, R442): slots without a thread, slot 3 in system
mode and sleeping, traps enabled, every register at its reset value, no context valid, no cluster owned, semaphores zero, memory in its
canonical form; the start-up record reads as the Reset column of Table 21.2, every other byte, but the word of slot 3's system vector in
a local store (R476), as zero. Values of registers for which the spec gives none are the model's choice (log 1). -/
def Obligations.ResetValues : Prop :=
  let s := State.reset
  let z := s.core.th 0
  (∀ i : Fin 4, (s.core.th i).status = (if i.val = 3 then .sleeping else .empty) ∧ (s.core.th i).mode = decide (i.val = 3)) ∧
  (z.ie = true ∧ z.pp = false ∧ z.rep.act = false ∧ z.lh = false ∧ z.rm = 0 ∧ z.ten = 0 ∧ z.fflags = 0 ∧ z.srseed = 0 ∧ z.srcount = 0 ∧
    z.tinfo = 0 ∧ z.qval = 0 ∧ z.efd = Vector.replicate 4 0 ∧ z.tpc = 0 ∧ z.tvec = 0 ∧ z.qhpc = 0 ∧ z.gmem = Vector.replicate 4 0) ∧
  (∀ u : Fin 3, (z.unit u.val).cfg.en = false ∧ (z.unit u.val).cfg.go = false) ∧
  (∀ k : Fin 16, s.ctxs[k].valid = false ∧ s.clk[k] = 0) ∧
  (∀ c : ClusterId, (s.clAt c).own = false ∧ (s.clAt c).sems = Vector.replicate 256 0) ∧ s.ksems = Vector.replicate 256 0 ∧
  s.core.evc = Vector.replicate 16 0 ∧ Memory.wf s.mem = true ∧
  Memory.read s.mem 8 8 = 0x1000 ∧ Memory.read s.mem 16 8 = 0x1040 ∧ Memory.read s.mem 24 8 = 0x2000 ∧
  (∀ k < 64, Memory.byte s.mem (100 + k) = Config.idKey.getD k 0) ∧
  (∀ a, a ∉ [9, 16, 17, 25] → (100 ≤ a → 164 ≤ a) → (isLs a = false ∨ (a - lsBase) % 2 ^ 14 < 0x2C40 ∨ 0x2C48 ≤ (a - lsBase) % 2 ^ 14) → Memory.byte s.mem a = 0)

/-- A few words of each family, written out from Tables 2.5 and 2.7 and the entries: what the decoder reads from an opcode, a length
code, D and a tail; and how Table 2.10 refuses what is none. -/
def Obligations.DecodeWords : Prop :=
  decodeWord 0x01 1 5 (7 + 6 * 2 ^ 6) = .ok (.add ⟨5, 7, 6⟩) ∧
  decodeWord 0x1A 2 9 (3 + (2 ^ 26 - 1) * 2 ^ 6) = .ok (.addiL2 ⟨9, 3, -1⟩) ∧
  decodeWord 0x25 2 4 (3 + 8 * 2 ^ 6 + 15 * 2 ^ 12) = .ok (.bext ⟨4, 3, 8, 15⟩) ∧
  decodeWord 0x30 2 1 (5 + 6 * 2 ^ 6 + 0xFFFE1 * 2 ^ 12) = .ok (.bne ⟨5, 6, 0xFFFE1⟩) ∧
  decodeWord 0x40 2 7 (10 + 3 * 2 ^ 6 + 2 ^ 14 + 5 * 2 ^ 15 + 3 * 2 ^ 21) = .ok (.ldL2 ⟨7, 10, 3, 0, 1, 5 + 3 * 2 ^ 6⟩) ∧
  decodeWord 0x4C 0 6 0 = .ok (.fence ⟨6, 0⟩) ∧
  decodeWord 0x5D 0 5 0 = .ok (.sstop ⟨5⟩) ∧
  decodeWord 0x70 1 34 (33 + 35 * 2 ^ 6 + 1 * 2 ^ 12) = .ok (.fadd ⟨34, 33, 35, 1⟩) ∧
  decodeWord 0xB1 1 12 (20 + 2 * 2 ^ 6) = .ok (.recv ⟨12, 20, 2, 0, 0⟩) ∧
  decodeWord 0xC0 1 10 9 = .ok (.gbar ⟨2, 9⟩) ∧
  decodeWord 0xC4 1 5 (6 + 7 * 2 ^ 6 + 2 * 2 ^ 12) = .ok (.semsig ⟨5, 6, 7, 2, 0⟩) ∧
  decodeWord 0xD0 1 2 (10 + 3 * 2 ^ 6 + 5 * 2 ^ 9) = .ok (.vbind ⟨2, 10, 5⟩) ∧
  decodeWord 0xE0 1 8 (0x30 * 2 ^ 6) = .ok (.csrr ⟨8, 0x30⟩) ∧
  decodeWord 0xE4 1 0 0xBEEF = .ok (.trap ⟨0xBEEF⟩) ∧
  decodeWord 0xE7 1 5 (3 + 9 * 2 ^ 8) = .ok (.tlbiPage ⟨5, 0, 3, 9⟩) ∧
  decodeWord 0x01 1 32 (7 + 6 * 2 ^ 6) = .error .register ∧ decodeWord 0x01 1 5 (7 + 6 * 2 ^ 6 + 2 ^ 12) = .error .field ∧
  decodeWord 0x01 2 5 0 = .error .length ∧ decodeWord 0xF0 1 5 0 = .error .opcode

/-- A step runs what stands at the PC: if the head there decodes to an instruction, the step is that instruction's meaning, then the end
of the turn; an instruction that stalls leaves the turn to the next slot. An instruction that a watchpoint halts (R492) has not issued,
and does not end the turn's count; in MODE 2 the end of the turn marks for the samples the slots that would have stalled (R493). -/
def Obligations.StepRunsDecoded : Prop :=
  ∀ (s u : State) (l : Line) (i : Instr), TakesTurn s u → Issues u.onTurn l →
    decodeHead l.bytes (u.onTurn.th.pc.toNat / 2 % 32 - 1) = .ok i →
    (∀ v, exec i u.onTurn = .next v → ((v.core.th u.core.iPtr).status ≠ .stalled ∨ v.cid ≠ u.cid) →
      step s = .next (if u.watchHalted v then v else (v.turnDone u.cid u.core.iPtr 1).markRest [u.core.iPtr + 1, u.core.iPtr + 2, u.core.iPtr + 3])) ∧
    (∀ v, exec i u.onTurn = .next v → (v.core.th u.core.iPtr).status = .stalled → v.cid = u.cid →
      step s = State.turnFrom [u.core.iPtr + 1, u.core.iPtr + 2, u.core.iPtr + 3] (v.modCore (·.leaves u.core.iPtr))) ∧
    (∀ f, exec i u.onTurn = .fault f → step s = .fault f) ∧ (∀ r, exec i u.onTurn = .refused r → step s = .refused r)

/-- Decoding the line of an encoded well-formed instruction gives it back, with every operand. -/
def Obligations.EncodingRoundTrip : Prop :=
  ∀ (i : Instr) (e : Enc), i.wf = true → encode i = some e →
    decode (lineOf e) = .ok i ∧ (∀ j, j.wf = true → encode j = some e → j = i) ∧ (lineOf e).length = 64 ∧ lineLegal (lineOf e) = true

/-- Every step keeps memory in its canonical form: addresses strictly rising, no entry equal to what an unlisted address reads as. -/
def Obligations.MemoryKept : Prop :=
  ∀ (s t : State), Memory.wf s.mem = true → step s = .next t → Memory.wf t.mem = true

/-- When the element instructions of a volume complete (R347, R353, R355 to R358): the slot has a volume, the lookup of the tile finds
it in a look-aside buffer or has its walk's result, an instruction that writes finds the volume not read-only, and the element lies
near, in bytes that the slot may access and that no buffered store of its own overlaps. Each then answers a next state behind it: `cld`
and `cprobe` with what they read, `cst` with the element in the store buffer, each `camo` and `ccas` with the old element in D, `cnbr`
with a mask in D. When binding, allocation and invalidation complete (R354, R359, R360), for a descriptor that the slot may read near,
and trees and a pool in the own scratchpad: `vbind` and `vbind.off` change the slot of a coordinate; `calloc.cut` clears the entry of a
tile that is there; `calloc.node` links a node at any level where there is none, and finds one that is there; `calloc.free` pushes a
block; `cinv` and `cinv.all` of any scope remove look-aside entries once no core of the scope still uses what was removed, nor loads
through it in a cluster of the scope. -/
def Obligations.VolumesComplete : Prop :=
  (∀ (s : State) (o : CamoO) (e : Word), o.d.toNat < 32 → Ready s [o.a, o.d, o.c] → s.Unlisted → Memory.wf s.mem = true →
     let v := s.th.vol o.cs
     let c := s.g o.a
     let n := 2 ^ volEsz v
     let ea := elemAddr v e.toNat c
     let p : CvO := ⟨o.d, o.a, o.cs⟩
     volOn v = true →
     (s.FindsTile v c false e → ∀ sx : BitVec 1,
       (e = 0 → GoesOn (exec (.cld ⟨o.d, o.a, o.cs, sx⟩) s) s fun t => t.GAre (s.gWith o.d (extend n (sx == 0) (volBg v)))) ∧
       (∀ ps, e ≠ 0 → Passes s.orderPoint ea n 1 false ps → s.near ps = true → s.badPart ps = none → s.th.fstAway = false →
         s.th.forward ps = .none →
         GoesOn (exec (.cld ⟨o.d, o.a, o.cs, sx⟩) s) s fun t => t.GAre (s.gWith o.d (extend n (sx == 0) (s.readParts ps))))) ∧
     (s.FindsTile v c false e → GoesOn (exec (.cprobe p) s) s fun t => t.GAre (s.gWith o.d (if e = 0 then 0 else BitVec.ofNat 64 (2 ^ 63 + tileAddr e.toNat)))) ∧
     (s.th.got = [] → (∀ q ∈ nbrTiles c.toNat, (s.clabHit s.th.ctx v (tileKey q.2.toNat)).isSome = true) →
       GoesOn (exec (.cnbr p) s) s fun t => ∃ m, t.GAre (s.gWith o.d m)) ∧
     (volRo v = false → s.FindsTile v c true e → s.th.sb = [] → s.th.fstWaits = false →
       (GoesOn (exec (.callocGet p) s) s fun t => t.GAre (s.gWith o.d (BitVec.ofNat 64 (tileAddr e.toNat)))) ∧
       (∀ loc, Passes s.orderPoint ea n 1 true [⟨loc, n⟩] → loc % 8 + n ≤ 8 →
         ∃ t x, exec (.cst p) s = .next t ∧ t.th.pc = s.th.nextPc ∧ t.th.status = .ready ∧ t.th.g = s.th.g ∧ t.th.sb = [x] ∧
           x.word = loc / 8 * 8 ∧ SameBytes s t) ∧
       (∀ loc, Passes s.orderPoint ea n n true [⟨loc, n⟩] → 2 ≤ volEsz v → spaceOf ea.toNat ≠ .cq → isHost loc = false →
         s.near [⟨loc, n⟩] = true → s.badPart [⟨loc, n⟩] = none →
         ∀ i, CamoForm o i →
           ∃ t, exec i s = .next t ∧ t.th.pc = s.th.nextPc ∧ t.th.status = .ready ∧ s.th.KeepsRegs t.th ∧
             (∀ r : Reg, r.toNat < 32 → t.g r = s.gWith o.d (BitVec.ofNat 64 (s.readParts [⟨loc, n⟩])) r) ∧
             ∀ a, (a < loc ∨ loc + n ≤ a) → Memory.byte t.mem a = Memory.byte s.mem a))) ∧
  (∀ (s : State) (o : CvO), o.d.toNat < 32 → Ready s [o.a, o.d] → s.Unlisted → Memory.wf s.mem = true →
     (∀ (i : Instr) (regs : List Reg) (cs : BitVec 2) (ea : Word) (ps : List Part),
       ((∃ q : VbM, i = .vbind q ∧ regs = [q.base] ∧ cs = q.cs ∧ ea = s.eaM q.base 3 q.off) ∨
        (∃ q : VbX, i = .vbindL2 q ∧ regs = regsX q.base q.ix q.body ∧ cs = q.cs ∧ ea = s.eaX q.base q.ix q.body)) →
       (∀ r ∈ regs, s.pendingG r = false) → s.th.volInUse cs = false →
       let qs := wordParts ps
       Passes s ea 64 64 false ps → s.bankHeld qs (some (s.cid, s.cur)) = false → s.near qs = true → s.badPart qs = none →
       s.th.fstAway = false → s.th.forward qs = .none → descriptorOk (s.readParts qs) = true →
       ∃ t, exec i s = .next t ∧ t.th.pc = s.th.nextPc ∧ t.th.status = .ready ∧ t.th.g = s.th.g ∧ SameBytes s t ∧
         t.th.coord = s.th.coord.set cs.toNat (BitVec.ofNat 256 (s.readParts qs + 2 ^ 57))) ∧
     (∀ cs, s.th.volInUse cs = false → ∃ t, exec (.vbindOff ⟨cs⟩) s = .next t ∧ t.th.pc = s.th.nextPc ∧ t.th.status = .ready ∧
       t.th.g = s.th.g ∧ SameBytes s t ∧ t.th.coord = s.th.coord.set cs.toNat 0) ∧
     (let v := s.th.vol o.cs
      let c := s.g o.a
      let all := [(15, 6), (10, 5), (6, 4)]
      volOn v = true →
       (s.th.sb = [] → s.th.fstWaits = false →
         (volRo v = false →
           (∀ (e : Word) (node loc : Nat), s.FindsTile v c false e → e ≠ 0 →
             s.TreePath c.toNat all (volRoot v) node → s.Holds (node + 8 * nodeIndex c.toNat 3 3) loc 8 e.toNat →
             Updates (exec (.callocCut o) s) s (s.gWith o.d (BitVec.ofNat 64 (tileAddr e.toNat))) loc 8 0) ∧
           (∀ (lvl : Nat) (lo w node loc x : Nat), (lvl, lo, w) ∈ [(3, 15, 6), (2, 10, 5), (1, 6, 4)] →
             s.TreePath c.toNat (all.take (3 - lvl)) (volRoot v) node → s.Holds (node + 8 * nodeIndex c.toNat lo w) loc 8 x →
             treeBad x 1 = false →
             (x = 0 → Updates (exec (.callocNode ⟨o.d, o.a, o.cs, BitVec.ofNat 2 lvl⟩) s) s (s.gWith o.d 1) loc 8 (s.g o.d + 1).toNat) ∧
             (x ≠ 0 → Reads (exec (.callocNode ⟨o.d, o.a, o.cs, BitVec.ofNat 2 lvl⟩) s) s (s.gWith o.d 0))) ∧
           (∀ (l m h : Nat), s.Holds (volPool v) l 16 h → bits h 96 32 = 0 → s.OwnSp (s.g o.d).toNat m →
             s.bankHeld [⟨m, 8⟩] (some (s.cid, s.cur)) = false → s.refuses [⟨m, 8⟩] = none → (s.g o.d).toNat < 2 ^ 48 →
             (s.g o.d).toNat % tileSize v = 0 → (m + 8 ≤ l ∨ l + 16 ≤ m) →
             ∃ t, exec (.callocFree ⟨o.d, o.cs⟩) s = .next t ∧ t.th.pc = s.th.nextPc ∧ t.th.status = .ready ∧ s.th.KeepsRegs t.th ∧
               t.GAre (s.gWith o.d (BitVec.ofNat 64 (bits h 64 32 - 1))))) ∧
         (∀ (sc : BitVec 3) (gm : BitVec 2) (i : Instr) (key : Option Nat),
           ((i = .cinv ⟨sc, gm, o.a, o.cs⟩ ∧ key = some (tileKey c.toNat)) ∨ (i = .cinvAll ⟨sc, gm, o.cs⟩ ∧ key = none)) →
           s.th.shot = none →
           (∀ x, s.inScope sc gm x = true → (s.coreAt x).presented = false ∧ (∀ r ∈ (s.coreAt x).missQ, r.awaited = false) ∧
             ∀ (k : Fin 4) (l : List (Nat × Nat)), ((s.coreAt x).th k).usesTile s.th.ctx l = false) →
           (∀ x, s.clusterInScope sc gm x.home = true → ∀ (k : Fin 4) (l : List (Nat × Nat)), ((s.coreAt x).th k).loadsTile s.th.ctx l = false) →
           ∃ t, exec i s = .next t ∧ t.th.pc = s.th.nextPc ∧ t.th.status = .ready ∧ t.th.g = s.th.g ∧ SameBytes s t ∧
             ∀ x, s.inScope sc gm x = true → (t.coreAt x).clab = (s.coreAt x).clab.filter (fun y => !y.aimed s.th.ctx v key)))))

/-- Look-aside entries (R346): in the machine after reset, and after every step from a state in which it is so, every entry of a core's
or a cluster's buffer has P = 1, so that none stands for an absent tile; and the block that a walk is about to publish starts at an even
address. -/
def Obligations.CachedTiles : Prop :=
  State.reset.TilesNamed ∧ ∀ s t : State, s.TilesNamed → step s = .next t → t.TilesNamed
end

