-- ==== Sys2Proof/Laws/Encoding.lean ====
section
/-! SUPPORT. Fields read back from where the encoder puts them: one lemma per operand form, and per sub-operation code that stands
beside it. -/
namespace Sys2Proof.Laws
set_option linter.unusedSimpArgs false

theorem fld_eq {x lo w : Nat} {v : BitVec w} (h : bits x lo w = v.toNat) : fld x lo w = v := by
  apply BitVec.eq_of_toNat_eq
  simp [fld, h]

/-- A row whose checks pass gives its instruction. -/
theorem row_ok {α β : Type} {regs fields : α → Bool} {res : Bool} {p o : α} {mk : α → β}
    (hw : (regs o && fields o) = true) (hr : res = true) (hp : p = o) : row regs fields res p mk = .ok (mk o) := by
  subst hp
  simp only [Bool.and_eq_true] at hw
  simp [row, hw.1, hw.2, hr]

theorem parse_K16 (o : K16) : K16.parse (K16.encD o) (K16.encT o) = o := by
  obtain ⟨k⟩ := o
  simp only [K16.parse, K16.mk.injEq]
  refine fld_eq ?_
  simp only [bits, K16.encT]
  omega

theorem parse_K32 (o : K32) : K32.parse (K32.encD o) (K32.encT o) = o := by
  obtain ⟨k⟩ := o
  simp only [K32.parse, K32.mk.injEq]
  refine fld_eq ?_
  simp only [bits, K32.encT]
  omega

theorem parse_K64 (o : K64) : K64.parse (K64.encD o) (K64.encT o) = o := by
  obtain ⟨k⟩ := o
  simp only [K64.parse, K64.mk.injEq]
  refine fld_eq ?_
  simp only [bits, K64.encT]
  omega

theorem parse_GGG (o : GGG) : GGG.parse (GGG.encD o) (GGG.encT o) = o := by
  obtain ⟨d, a, b⟩ := o
  simp only [GGG.parse, GGG.mk.injEq]
  refine ⟨fld_eq ?_, fld_eq ?_, fld_eq ?_⟩ <;> simp only [bits, GGG.encD, GGG.encT] <;> omega

theorem parse_GGGG (o : GGGG) : GGGG.parse (GGGG.encD o) (GGGG.encT o) = o := by
  obtain ⟨d, a, b, c⟩ := o
  simp only [GGGG.parse, GGGG.mk.injEq]
  refine ⟨fld_eq ?_, fld_eq ?_, fld_eq ?_, fld_eq ?_⟩ <;> simp only [bits, GGGG.encD, GGGG.encT] <;> omega

theorem parse_GGI10 (o : GGI10) : GGI10.parse (GGI10.encD o) (GGI10.encT o) = o := by
  obtain ⟨d, a, imm⟩ := o
  simp only [GGI10.parse, GGI10.mk.injEq]
  refine ⟨fld_eq ?_, fld_eq ?_, fld_eq ?_⟩ <;> simp only [bits, GGI10.encD, GGI10.encT] <;> omega

theorem parse_GGI26 (o : GGI26) : GGI26.parse (GGI26.encD o) (GGI26.encT o) = o := by
  obtain ⟨d, a, imm⟩ := o
  simp only [GGI26.parse, GGI26.mk.injEq]
  refine ⟨fld_eq ?_, fld_eq ?_, fld_eq ?_⟩ <;> simp only [bits, GGI26.encD, GGI26.encT] <;> omega

theorem parse_ShiftI (o : ShiftI) : ShiftI.parse (ShiftI.encD o) (ShiftI.encT o) = o := by
  obtain ⟨d, a, amt⟩ := o
  simp only [ShiftI.parse, ShiftI.mk.injEq]
  refine ⟨fld_eq ?_, fld_eq ?_, fld_eq ?_⟩ <;> simp only [bits, ShiftI.encD, ShiftI.encT] <;> omega

theorem parse_ShiftI_0_4096 (o : ShiftI) : ShiftI.parse (ShiftI.encD o) (ShiftI.encT o + 4096) = o := by
  obtain ⟨d, a, amt⟩ := o
  simp only [ShiftI.parse, ShiftI.mk.injEq]
  refine ⟨fld_eq ?_, fld_eq ?_, fld_eq ?_⟩ <;> simp only [bits, ShiftI.encD, ShiftI.encT] <;> omega

theorem parse_ShiftI_0_8192 (o : ShiftI) : ShiftI.parse (ShiftI.encD o) (ShiftI.encT o + 8192) = o := by
  obtain ⟨d, a, amt⟩ := o
  simp only [ShiftI.parse, ShiftI.mk.injEq]
  refine ⟨fld_eq ?_, fld_eq ?_, fld_eq ?_⟩ <;> simp only [bits, ShiftI.encD, ShiftI.encT] <;> omega

theorem parse_ShiftI_0_12288 (o : ShiftI) : ShiftI.parse (ShiftI.encD o) (ShiftI.encT o + 12288) = o := by
  obtain ⟨d, a, amt⟩ := o
  simp only [ShiftI.parse, ShiftI.mk.injEq]
  refine ⟨fld_eq ?_, fld_eq ?_, fld_eq ?_⟩ <;> simp only [bits, ShiftI.encD, ShiftI.encT] <;> omega

theorem parse_GK16 (o : GK16) : GK16.parse (GK16.encD o) (GK16.encT o) = o := by
  obtain ⟨d, k⟩ := o
  simp only [GK16.parse, GK16.mk.injEq]
  refine ⟨fld_eq ?_, fld_eq ?_⟩ <;> simp only [bits, GK16.encD, GK16.encT] <;> omega

theorem parse_GK32 (o : GK32) : GK32.parse (GK32.encD o) (GK32.encT o) = o := by
  obtain ⟨d, k⟩ := o
  simp only [GK32.parse, GK32.mk.injEq]
  refine ⟨fld_eq ?_, fld_eq ?_⟩ <;> simp only [bits, GK32.encD, GK32.encT] <;> omega

theorem parse_GK64 (o : GK64) : GK64.parse (GK64.encD o) (GK64.encT o) = o := by
  obtain ⟨d, k⟩ := o
  simp only [GK64.parse, GK64.mk.injEq]
  refine ⟨fld_eq ?_, fld_eq ?_⟩ <;> simp only [bits, GK64.encD, GK64.encT] <;> omega

theorem parse_LeaM (o : LeaM) : LeaM.parse (LeaM.encD o) (LeaM.encT o) = o := by
  obtain ⟨d, base, sz, off⟩ := o
  simp only [LeaM.parse, LeaM.mk.injEq]
  refine ⟨fld_eq ?_, fld_eq ?_, fld_eq ?_, fld_eq ?_⟩ <;> simp only [bits, LeaM.encD, LeaM.encT] <;> omega

theorem parse_LeaX (o : LeaX) : LeaX.parse (LeaX.encD o) (LeaX.encT o) = o := by
  obtain ⟨d, base, ix, body⟩ := o
  simp only [LeaX.parse, LeaX.mk.injEq]
  refine ⟨fld_eq ?_, fld_eq ?_, fld_eq ?_, fld_eq ?_⟩ <;> simp only [bits, LeaX.encD, LeaX.encT] <;> omega

theorem parse_GG (o : GG) : GG.parse (GG.encD o) (GG.encT o) = o := by
  obtain ⟨d, a⟩ := o
  simp only [GG.parse, GG.mk.injEq]
  refine ⟨fld_eq ?_, fld_eq ?_⟩ <;> simp only [bits, GG.encD, GG.encT] <;> omega

theorem parse_GG_0_4096 (o : GG) : GG.parse (GG.encD o) (GG.encT o + 4096) = o := by
  obtain ⟨d, a⟩ := o
  simp only [GG.parse, GG.mk.injEq]
  refine ⟨fld_eq ?_, fld_eq ?_⟩ <;> simp only [bits, GG.encD, GG.encT] <;> omega

theorem parse_GG_0_8192 (o : GG) : GG.parse (GG.encD o) (GG.encT o + 8192) = o := by
  obtain ⟨d, a⟩ := o
  simp only [GG.parse, GG.mk.injEq]
  refine ⟨fld_eq ?_, fld_eq ?_⟩ <;> simp only [bits, GG.encD, GG.encT] <;> omega

theorem parse_BitF (o : BitF) : BitF.parse (BitF.encD o) (BitF.encT o) = o := by
  obtain ⟨d, a, pos, lenm1⟩ := o
  simp only [BitF.parse, BitF.mk.injEq]
  refine ⟨fld_eq ?_, fld_eq ?_, fld_eq ?_, fld_eq ?_⟩ <;> simp only [bits, BitF.encD, BitF.encT] <;> omega

theorem parse_GGI8 (o : GGI8) : GGI8.parse (GGI8.encD o) (GGI8.encT o) = o := by
  obtain ⟨d, a, imm⟩ := o
  simp only [GGI8.parse, GGI8.mk.injEq]
  refine ⟨fld_eq ?_, fld_eq ?_, fld_eq ?_⟩ <;> simp only [bits, GGI8.encD, GGI8.encT] <;> omega

theorem parse_GGI24 (o : GGI24) : GGI24.parse (GGI24.encD o) (GGI24.encT o) = o := by
  obtain ⟨d, a, imm⟩ := o
  simp only [GGI24.parse, GGI24.mk.injEq]
  refine ⟨fld_eq ?_, fld_eq ?_, fld_eq ?_⟩ <;> simp only [bits, GGI24.encD, GGI24.encT] <;> omega

theorem parse_GGI8_0_64 (o : GGI8) : GGI8.parse (GGI8.encD o) (GGI8.encT o + 64) = o := by
  obtain ⟨d, a, imm⟩ := o
  simp only [GGI8.parse, GGI8.mk.injEq]
  refine ⟨fld_eq ?_, fld_eq ?_, fld_eq ?_⟩ <;> simp only [bits, GGI8.encD, GGI8.encT] <;> omega

theorem parse_GGI24_0_64 (o : GGI24) : GGI24.parse (GGI24.encD o) (GGI24.encT o + 64) = o := by
  obtain ⟨d, a, imm⟩ := o
  simp only [GGI24.parse, GGI24.mk.injEq]
  refine ⟨fld_eq ?_, fld_eq ?_, fld_eq ?_⟩ <;> simp only [bits, GGI24.encD, GGI24.encT] <;> omega

theorem parse_GGI8_0_128 (o : GGI8) : GGI8.parse (GGI8.encD o) (GGI8.encT o + 128) = o := by
  obtain ⟨d, a, imm⟩ := o
  simp only [GGI8.parse, GGI8.mk.injEq]
  refine ⟨fld_eq ?_, fld_eq ?_, fld_eq ?_⟩ <;> simp only [bits, GGI8.encD, GGI8.encT] <;> omega

theorem parse_GGI24_0_128 (o : GGI24) : GGI24.parse (GGI24.encD o) (GGI24.encT o + 128) = o := by
  obtain ⟨d, a, imm⟩ := o
  simp only [GGI24.parse, GGI24.mk.injEq]
  refine ⟨fld_eq ?_, fld_eq ?_, fld_eq ?_⟩ <;> simp only [bits, GGI24.encD, GGI24.encT] <;> omega

theorem parse_BrB (o : BrB) : BrB.parse (BrB.encD o) (BrB.encT o) = o := by
  obtain ⟨a, b, off⟩ := o
  simp only [BrB.parse, BrB.mk.injEq]
  refine ⟨fld_eq ?_, fld_eq ?_, fld_eq ?_⟩ <;> simp only [bits, BrB.encD, BrB.encT] <;> omega

theorem parse_BrB_1_0 (o : BrB) : BrB.parse (BrB.encD o + 1) (BrB.encT o) = o := by
  obtain ⟨a, b, off⟩ := o
  simp only [BrB.parse, BrB.mk.injEq]
  refine ⟨fld_eq ?_, fld_eq ?_, fld_eq ?_⟩ <;> simp only [bits, BrB.encD, BrB.encT] <;> omega

theorem parse_BrB_2_0 (o : BrB) : BrB.parse (BrB.encD o + 2) (BrB.encT o) = o := by
  obtain ⟨a, b, off⟩ := o
  simp only [BrB.parse, BrB.mk.injEq]
  refine ⟨fld_eq ?_, fld_eq ?_, fld_eq ?_⟩ <;> simp only [bits, BrB.encD, BrB.encT] <;> omega

theorem parse_BrB_3_0 (o : BrB) : BrB.parse (BrB.encD o + 3) (BrB.encT o) = o := by
  obtain ⟨a, b, off⟩ := o
  simp only [BrB.parse, BrB.mk.injEq]
  refine ⟨fld_eq ?_, fld_eq ?_, fld_eq ?_⟩ <;> simp only [bits, BrB.encD, BrB.encT] <;> omega

theorem parse_BrB_4_0 (o : BrB) : BrB.parse (BrB.encD o + 4) (BrB.encT o) = o := by
  obtain ⟨a, b, off⟩ := o
  simp only [BrB.parse, BrB.mk.injEq]
  refine ⟨fld_eq ?_, fld_eq ?_, fld_eq ?_⟩ <;> simp only [bits, BrB.encD, BrB.encT] <;> omega

theorem parse_BrB_5_0 (o : BrB) : BrB.parse (BrB.encD o + 5) (BrB.encT o) = o := by
  obtain ⟨a, b, off⟩ := o
  simp only [BrB.parse, BrB.mk.injEq]
  refine ⟨fld_eq ?_, fld_eq ?_, fld_eq ?_⟩ <;> simp only [bits, BrB.encD, BrB.encT] <;> omega

theorem parse_BrZ (o : BrZ) : BrZ.parse (BrZ.encD o) (BrZ.encT o) = o := by
  obtain ⟨a, off⟩ := o
  simp only [BrZ.parse, BrZ.mk.injEq]
  refine ⟨fld_eq ?_, fld_eq ?_⟩ <;> simp only [bits, BrZ.encD, BrZ.encT] <;> omega

theorem parse_BrZ_1_0 (o : BrZ) : BrZ.parse (BrZ.encD o + 1) (BrZ.encT o) = o := by
  obtain ⟨a, off⟩ := o
  simp only [BrZ.parse, BrZ.mk.injEq]
  refine ⟨fld_eq ?_, fld_eq ?_⟩ <;> simp only [bits, BrZ.encD, BrZ.encT] <;> omega

theorem parse_BrZ_2_0 (o : BrZ) : BrZ.parse (BrZ.encD o + 2) (BrZ.encT o) = o := by
  obtain ⟨a, off⟩ := o
  simp only [BrZ.parse, BrZ.mk.injEq]
  refine ⟨fld_eq ?_, fld_eq ?_⟩ <;> simp only [bits, BrZ.encD, BrZ.encT] <;> omega

theorem parse_BrZ_3_0 (o : BrZ) : BrZ.parse (BrZ.encD o + 3) (BrZ.encT o) = o := by
  obtain ⟨a, off⟩ := o
  simp only [BrZ.parse, BrZ.mk.injEq]
  refine ⟨fld_eq ?_, fld_eq ?_⟩ <;> simp only [bits, BrZ.encD, BrZ.encT] <;> omega

theorem parse_BrZ_4_0 (o : BrZ) : BrZ.parse (BrZ.encD o + 4) (BrZ.encT o) = o := by
  obtain ⟨a, off⟩ := o
  simp only [BrZ.parse, BrZ.mk.injEq]
  refine ⟨fld_eq ?_, fld_eq ?_⟩ <;> simp only [bits, BrZ.encD, BrZ.encT] <;> omega

theorem parse_BrZ_5_0 (o : BrZ) : BrZ.parse (BrZ.encD o + 5) (BrZ.encT o) = o := by
  obtain ⟨a, off⟩ := o
  simp only [BrZ.parse, BrZ.mk.injEq]
  refine ⟨fld_eq ?_, fld_eq ?_⟩ <;> simp only [bits, BrZ.encD, BrZ.encT] <;> omega

theorem parse_Jmp (o : Jmp) : Jmp.parse (Jmp.encD o) (Jmp.encT o) = o := by
  obtain ⟨off⟩ := o
  simp only [Jmp.parse, Jmp.mk.injEq]
  refine fld_eq ?_
  simp only [bits, Jmp.encT]
  omega

theorem parse_GJmp (o : GJmp) : GJmp.parse (GJmp.encD o) (GJmp.encT o) = o := by
  obtain ⟨d, off⟩ := o
  simp only [GJmp.parse, GJmp.mk.injEq]
  refine ⟨fld_eq ?_, fld_eq ?_⟩ <;> simp only [bits, GJmp.encD, GJmp.encT] <;> omega

theorem parse_GD (o : GD) : GD.parse (GD.encD o) (GD.encT o) = o := by
  obtain ⟨d⟩ := o
  simp only [GD.parse, GD.mk.injEq]
  refine fld_eq ?_
  simp only [bits, GD.encD]
  omega

theorem parse_RepO (o : RepO) : RepO.parse (RepO.encD o) (RepO.encT o) = o := by
  obtain ⟨bl, a, st, wr, mask⟩ := o
  simp only [RepO.parse, RepO.mk.injEq]
  refine ⟨fld_eq ?_, fld_eq ?_, fld_eq ?_, fld_eq ?_, fld_eq ?_⟩ <;> simp only [bits, RepO.encD, RepO.encT] <;> omega

theorem parse_LdM (o : LdM) : LdM.parse (LdM.encD o) (LdM.encT o) = o := by
  obtain ⟨d, base, sz, zx, off⟩ := o
  simp only [LdM.parse, LdM.mk.injEq]
  refine ⟨fld_eq ?_, fld_eq ?_, fld_eq ?_, fld_eq ?_, fld_eq ?_⟩ <;> simp only [bits, LdM.encD, LdM.encT] <;> omega

theorem parse_LdX (o : LdX) : LdX.parse (LdX.encD o) (LdX.encT o) = o := by
  obtain ⟨d, base, sz, zx, ix, body⟩ := o
  simp only [LdX.parse, LdX.mk.injEq]
  refine ⟨fld_eq ?_, fld_eq ?_, fld_eq ?_, fld_eq ?_, fld_eq ?_, fld_eq ?_⟩ <;> simp only [bits, LdX.encD, LdX.encT] <;> omega

theorem parse_LdaX (o : LdaX) : LdaX.parse (LdaX.encD o) (LdaX.encT o) = o := by
  obtain ⟨d, base, sz, zx, sc, gm, ix, body⟩ := o
  simp only [LdaX.parse, LdaX.mk.injEq]
  refine ⟨fld_eq ?_, fld_eq ?_, fld_eq ?_, fld_eq ?_, fld_eq ?_, fld_eq ?_, fld_eq ?_, fld_eq ?_⟩ <;> simp only [bits, LdaX.encD, LdaX.encT] <;> omega

theorem parse_FeX_0_192 (o : FeX) : FeX.parse (FeX.encD o) (FeX.encT o + 192) = o := by
  obtain ⟨d, base, sc, gm, ix, body⟩ := o
  simp only [FeX.parse, FeX.mk.injEq]
  refine ⟨fld_eq ?_, fld_eq ?_, fld_eq ?_, fld_eq ?_, fld_eq ?_, fld_eq ?_⟩ <;> simp only [bits, FeX.encD, FeX.encT] <;> omega

theorem parse_LdffM_0_192 (o : LdffM) : LdffM.parse (LdffM.encD o) (LdffM.encT o + 192) = o := by
  obtain ⟨d, base, off⟩ := o
  simp only [LdffM.parse, LdffM.mk.injEq]
  refine ⟨fld_eq ?_, fld_eq ?_, fld_eq ?_⟩ <;> simp only [bits, LdffM.encD, LdffM.encT] <;> omega

theorem parse_LdffX_0_192 (o : LdffX) : LdffX.parse (LdffX.encD o) (LdffX.encT o + 192) = o := by
  obtain ⟨d, base, sc, gm, ix, body⟩ := o
  simp only [LdffX.parse, LdffX.mk.injEq]
  refine ⟨fld_eq ?_, fld_eq ?_, fld_eq ?_, fld_eq ?_, fld_eq ?_, fld_eq ?_⟩ <;> simp only [bits, LdffX.encD, LdffX.encT] <;> omega

theorem parse_StM (o : StM) : StM.parse (StM.encD o) (StM.encT o) = o := by
  obtain ⟨d, base, sz, off⟩ := o
  simp only [StM.parse, StM.mk.injEq]
  refine ⟨fld_eq ?_, fld_eq ?_, fld_eq ?_, fld_eq ?_⟩ <;> simp only [bits, StM.encD, StM.encT] <;> omega

theorem parse_StX (o : StX) : StX.parse (StX.encD o) (StX.encT o) = o := by
  obtain ⟨d, base, sz, ix, body⟩ := o
  simp only [StX.parse, StX.mk.injEq]
  refine ⟨fld_eq ?_, fld_eq ?_, fld_eq ?_, fld_eq ?_, fld_eq ?_⟩ <;> simp only [bits, StX.encD, StX.encT] <;> omega

theorem parse_StlX (o : StlX) : StlX.parse (StlX.encD o) (StlX.encT o) = o := by
  obtain ⟨d, base, sz, sc, gm, ix, body⟩ := o
  simp only [StlX.parse, StlX.mk.injEq]
  refine ⟨fld_eq ?_, fld_eq ?_, fld_eq ?_, fld_eq ?_, fld_eq ?_, fld_eq ?_, fld_eq ?_⟩ <;> simp only [bits, StlX.encD, StlX.encT] <;> omega

theorem parse_FesetM_0_192 (o : FesetM) : FesetM.parse (FesetM.encD o) (FesetM.encT o + 192) = o := by
  obtain ⟨val, base, off⟩ := o
  simp only [FesetM.parse, FesetM.mk.injEq]
  refine ⟨fld_eq ?_, fld_eq ?_, fld_eq ?_⟩ <;> simp only [bits, FesetM.encD, FesetM.encT] <;> omega

theorem parse_FesetX_0_192 (o : FesetX) : FesetX.parse (FesetX.encD o) (FesetX.encT o + 192) = o := by
  obtain ⟨val, base, ix, body⟩ := o
  simp only [FesetX.parse, FesetX.mk.injEq]
  refine ⟨fld_eq ?_, fld_eq ?_, fld_eq ?_, fld_eq ?_⟩ <;> simp only [bits, FesetX.encD, FesetX.encT] <;> omega

theorem parse_FMemM (o : FMemM) : FMemM.parse (FMemM.encD o) (FMemM.encT o) = o := by
  obtain ⟨d, base, sz, off⟩ := o
  simp only [FMemM.parse, FMemM.mk.injEq]
  refine ⟨fld_eq ?_, fld_eq ?_, fld_eq ?_, fld_eq ?_⟩ <;> simp only [bits, FMemM.encD, FMemM.encT] <;> omega

theorem parse_FMemX (o : FMemX) : FMemX.parse (FMemX.encD o) (FMemX.encT o) = o := by
  obtain ⟨d, base, sz, ix, body⟩ := o
  simp only [FMemX.parse, FMemX.mk.injEq]
  refine ⟨fld_eq ?_, fld_eq ?_, fld_eq ?_, fld_eq ?_, fld_eq ?_⟩ <;> simp only [bits, FMemX.encD, FMemX.encT] <;> omega

theorem parse_PairM_0_192 (o : PairM) : PairM.parse (PairM.encD o) (PairM.encT o + 192) = o := by
  obtain ⟨d, base, off⟩ := o
  simp only [PairM.parse, PairM.mk.injEq]
  refine ⟨fld_eq ?_, fld_eq ?_, fld_eq ?_⟩ <;> simp only [bits, PairM.encD, PairM.encT] <;> omega

theorem parse_PairX_0_192 (o : PairX) : PairX.parse (PairX.encD o) (PairX.encT o + 192) = o := by
  obtain ⟨d, base, ix, body⟩ := o
  simp only [PairX.parse, PairX.mk.injEq]
  refine ⟨fld_eq ?_, fld_eq ?_, fld_eq ?_, fld_eq ?_⟩ <;> simp only [bits, PairX.encD, PairX.encT] <;> omega

theorem parse_FenceO (o : FenceO) : FenceO.parse (FenceO.encD o) (FenceO.encT o) = o := by
  obtain ⟨sc, gm⟩ := o
  simp only [FenceO.parse, FenceO.mk.injEq]
  refine ⟨fld_eq ?_, fld_eq ?_⟩ <;> simp only [bits, FenceO.encD, FenceO.encT] <;> omega

theorem parse_WaitaX (o : WaitaX) : WaitaX.parse (WaitaX.encD o) (WaitaX.encT o) = o := by
  obtain ⟨d, base, sz, zx, sc, gm, ix, body⟩ := o
  simp only [WaitaX.parse, WaitaX.mk.injEq]
  refine ⟨fld_eq ?_, fld_eq ?_, fld_eq ?_, fld_eq ?_, fld_eq ?_, fld_eq ?_, fld_eq ?_, fld_eq ?_⟩ <;> simp only [bits, WaitaX.encD, WaitaX.encT] <;> omega

theorem parse_PrefM (o : PrefM) : PrefM.parse (PrefM.encD o) (PrefM.encT o) = o := by
  obtain ⟨pg, base, sz, off⟩ := o
  simp only [PrefM.parse, PrefM.mk.injEq]
  refine ⟨fld_eq ?_, fld_eq ?_, fld_eq ?_, fld_eq ?_⟩ <;> simp only [bits, PrefM.encD, PrefM.encT] <;> omega

theorem parse_PrefX (o : PrefX) : PrefX.parse (PrefX.encD o) (PrefX.encT o) = o := by
  obtain ⟨pg, base, sz, ix, body⟩ := o
  simp only [PrefX.parse, PrefX.mk.injEq]
  refine ⟨fld_eq ?_, fld_eq ?_, fld_eq ?_, fld_eq ?_, fld_eq ?_⟩ <;> simp only [bits, PrefX.encD, PrefX.encT] <;> omega

theorem parse_AtO (o : AtO) : AtO.parse (AtO.encD o) (AtO.encT o) = o := by
  obtain ⟨d, base, src, sz, sc, gm, acq, rel⟩ := o
  simp only [AtO.parse, AtO.mk.injEq]
  refine ⟨fld_eq ?_, fld_eq ?_, fld_eq ?_, fld_eq ?_, fld_eq ?_, fld_eq ?_, fld_eq ?_, fld_eq ?_⟩ <;> simp only [bits, AtO.encD, AtO.encT] <;> omega

theorem parse_AtO_0_524288 (o : AtO) : AtO.parse (AtO.encD o) (AtO.encT o + 524288) = o := by
  obtain ⟨d, base, src, sz, sc, gm, acq, rel⟩ := o
  simp only [AtO.parse, AtO.mk.injEq]
  refine ⟨fld_eq ?_, fld_eq ?_, fld_eq ?_, fld_eq ?_, fld_eq ?_, fld_eq ?_, fld_eq ?_, fld_eq ?_⟩ <;> simp only [bits, AtO.encD, AtO.encT] <;> omega

theorem parse_AtO_0_1048576 (o : AtO) : AtO.parse (AtO.encD o) (AtO.encT o + 1048576) = o := by
  obtain ⟨d, base, src, sz, sc, gm, acq, rel⟩ := o
  simp only [AtO.parse, AtO.mk.injEq]
  refine ⟨fld_eq ?_, fld_eq ?_, fld_eq ?_, fld_eq ?_, fld_eq ?_, fld_eq ?_, fld_eq ?_, fld_eq ?_⟩ <;> simp only [bits, AtO.encD, AtO.encT] <;> omega

theorem parse_AtO_0_1572864 (o : AtO) : AtO.parse (AtO.encD o) (AtO.encT o + 1572864) = o := by
  obtain ⟨d, base, src, sz, sc, gm, acq, rel⟩ := o
  simp only [AtO.parse, AtO.mk.injEq]
  refine ⟨fld_eq ?_, fld_eq ?_, fld_eq ?_, fld_eq ?_, fld_eq ?_, fld_eq ?_, fld_eq ?_, fld_eq ?_⟩ <;> simp only [bits, AtO.encD, AtO.encT] <;> omega

theorem parse_AtO_0_2097152 (o : AtO) : AtO.parse (AtO.encD o) (AtO.encT o + 2097152) = o := by
  obtain ⟨d, base, src, sz, sc, gm, acq, rel⟩ := o
  simp only [AtO.parse, AtO.mk.injEq]
  refine ⟨fld_eq ?_, fld_eq ?_, fld_eq ?_, fld_eq ?_, fld_eq ?_, fld_eq ?_, fld_eq ?_, fld_eq ?_⟩ <;> simp only [bits, AtO.encD, AtO.encT] <;> omega

theorem parse_AtO_0_2621440 (o : AtO) : AtO.parse (AtO.encD o) (AtO.encT o + 2621440) = o := by
  obtain ⟨d, base, src, sz, sc, gm, acq, rel⟩ := o
  simp only [AtO.parse, AtO.mk.injEq]
  refine ⟨fld_eq ?_, fld_eq ?_, fld_eq ?_, fld_eq ?_, fld_eq ?_, fld_eq ?_, fld_eq ?_, fld_eq ?_⟩ <;> simp only [bits, AtO.encD, AtO.encT] <;> omega

theorem parse_AtO_0_3145728 (o : AtO) : AtO.parse (AtO.encD o) (AtO.encT o + 3145728) = o := by
  obtain ⟨d, base, src, sz, sc, gm, acq, rel⟩ := o
  simp only [AtO.parse, AtO.mk.injEq]
  refine ⟨fld_eq ?_, fld_eq ?_, fld_eq ?_, fld_eq ?_, fld_eq ?_, fld_eq ?_, fld_eq ?_, fld_eq ?_⟩ <;> simp only [bits, AtO.encD, AtO.encT] <;> omega

theorem parse_AtO_0_3670016 (o : AtO) : AtO.parse (AtO.encD o) (AtO.encT o + 3670016) = o := by
  obtain ⟨d, base, src, sz, sc, gm, acq, rel⟩ := o
  simp only [AtO.parse, AtO.mk.injEq]
  refine ⟨fld_eq ?_, fld_eq ?_, fld_eq ?_, fld_eq ?_, fld_eq ?_, fld_eq ?_, fld_eq ?_, fld_eq ?_⟩ <;> simp only [bits, AtO.encD, AtO.encT] <;> omega

theorem parse_AtO_0_4194304 (o : AtO) : AtO.parse (AtO.encD o) (AtO.encT o + 4194304) = o := by
  obtain ⟨d, base, src, sz, sc, gm, acq, rel⟩ := o
  simp only [AtO.parse, AtO.mk.injEq]
  refine ⟨fld_eq ?_, fld_eq ?_, fld_eq ?_, fld_eq ?_, fld_eq ?_, fld_eq ?_, fld_eq ?_, fld_eq ?_⟩ <;> simp only [bits, AtO.encD, AtO.encT] <;> omega

theorem parse_CaspO_0_12288 (o : CaspO) : CaspO.parse (CaspO.encD o) (CaspO.encT o + 12288) = o := by
  obtain ⟨d, base, src, sc, gm, acq, rel⟩ := o
  simp only [CaspO.parse, CaspO.mk.injEq]
  refine ⟨fld_eq ?_, fld_eq ?_, fld_eq ?_, fld_eq ?_, fld_eq ?_, fld_eq ?_, fld_eq ?_⟩ <;> simp only [bits, CaspO.encD, CaspO.encT] <;> omega

theorem parse_SbindO (o : SbindO) : SbindO.parse (SbindO.encD o) (SbindO.encT o) = o := by
  obtain ⟨u, a, kind, dir, esz, dims⟩ := o
  simp only [SbindO.parse, SbindO.mk.injEq]
  refine ⟨fld_eq ?_, fld_eq ?_, fld_eq ?_, fld_eq ?_, fld_eq ?_, fld_eq ?_⟩ <;> simp only [bits, SbindO.encD, SbindO.encT] <;> omega

theorem parse_SdimR (o : SdimR) : SdimR.parse (SdimR.encD o) (SdimR.encT o) = o := by
  obtain ⟨u, a, b, k⟩ := o
  simp only [SdimR.parse, SdimR.mk.injEq]
  refine ⟨fld_eq ?_, fld_eq ?_, fld_eq ?_, fld_eq ?_⟩ <;> simp only [bits, SdimR.encD, SdimR.encT] <;> omega

theorem parse_SdimW (o : SdimW) : SdimW.parse (SdimW.encD o) (SdimW.encT o) = o := by
  obtain ⟨u, k, cnt, stride⟩ := o
  simp only [SdimW.parse, SdimW.mk.injEq]
  refine ⟨fld_eq ?_, fld_eq ?_, fld_eq ?_, fld_eq ?_⟩ <;> simp only [bits, SdimW.encD, SdimW.encT] <;> omega

theorem parse_SidxR (o : SidxR) : SidxR.parse (SidxR.encD o) (SidxR.encT o) = o := by
  obtain ⟨u, a, ish, isz⟩ := o
  simp only [SidxR.parse, SidxR.mk.injEq]
  refine ⟨fld_eq ?_, fld_eq ?_, fld_eq ?_, fld_eq ?_⟩ <;> simp only [bits, SidxR.encD, SidxR.encT] <;> omega

theorem parse_SidxW (o : SidxW) : SidxW.parse (SidxW.encD o) (SidxW.encT o) = o := by
  obtain ⟨u, a, ish, isz, imm⟩ := o
  simp only [SidxW.parse, SidxW.mk.injEq]
  refine ⟨fld_eq ?_, fld_eq ?_, fld_eq ?_, fld_eq ?_, fld_eq ?_⟩ <;> simp only [bits, SidxW.encD, SidxW.encT] <;> omega

theorem parse_SdirO (o : SdirO) : SdirO.parse (SdirO.encD o) (SdirO.encT o) = o := by
  obtain ⟨u, dir, rpt⟩ := o
  simp only [SdirO.parse, SdirO.mk.injEq]
  refine ⟨fld_eq ?_, fld_eq ?_, fld_eq ?_⟩ <;> simp only [bits, SdirO.encD, SdirO.encT] <;> omega

theorem parse_Units (o : Units) : Units.parse (Units.encD o) (Units.encT o) = o := by
  obtain ⟨m⟩ := o
  simp only [Units.parse, Units.mk.injEq]
  refine fld_eq ?_
  simp only [bits, Units.encD]
  omega

theorem parse_UnitG (o : UnitG) : UnitG.parse (UnitG.encD o) (UnitG.encT o) = o := by
  obtain ⟨u, a⟩ := o
  simp only [UnitG.parse, UnitG.mk.injEq]
  refine ⟨fld_eq ?_, fld_eq ?_⟩ <;> simp only [bits, UnitG.encD, UnitG.encT] <;> omega

theorem parse_UnitM_0_192 (o : UnitM) : UnitM.parse (UnitM.encD o) (UnitM.encT o + 192) = o := by
  obtain ⟨u, base, off⟩ := o
  simp only [UnitM.parse, UnitM.mk.injEq]
  refine ⟨fld_eq ?_, fld_eq ?_, fld_eq ?_⟩ <;> simp only [bits, UnitM.encD, UnitM.encT] <;> omega

theorem parse_UnitX_0_192 (o : UnitX) : UnitX.parse (UnitX.encD o) (UnitX.encT o + 192) = o := by
  obtain ⟨u, base, ix, body⟩ := o
  simp only [UnitX.parse, UnitX.mk.injEq]
  refine ⟨fld_eq ?_, fld_eq ?_, fld_eq ?_, fld_eq ?_⟩ <;> simp only [bits, UnitX.encD, UnitX.encT] <;> omega

theorem parse_SetO (o : SetO) : SetO.parse (SetO.encD o) (SetO.encT o) = o := by
  obtain ⟨u, la, lb, cnt⟩ := o
  simp only [SetO.parse, SetO.mk.injEq]
  refine ⟨fld_eq ?_, fld_eq ?_, fld_eq ?_, fld_eq ?_⟩ <;> simp only [bits, SetO.encD, SetO.encT] <;> omega

theorem parse_UnitG_0_64 (o : UnitG) : UnitG.parse (UnitG.encD o) (UnitG.encT o + 64) = o := by
  obtain ⟨u, a⟩ := o
  simp only [UnitG.parse, UnitG.mk.injEq]
  refine ⟨fld_eq ?_, fld_eq ?_⟩ <;> simp only [bits, UnitG.encD, UnitG.encT] <;> omega

theorem parse_ScoordO (o : ScoordO) : ScoordO.parse (ScoordO.encD o) (ScoordO.encT o) = o := by
  obtain ⟨u, a, b, cs, dir⟩ := o
  simp only [ScoordO.parse, ScoordO.mk.injEq]
  refine ⟨fld_eq ?_, fld_eq ?_, fld_eq ?_, fld_eq ?_, fld_eq ?_⟩ <;> simp only [bits, ScoordO.encD, ScoordO.encT] <;> omega

theorem parse_FP3 (o : FP3) : FP3.parse (FP3.encD o) (FP3.encT o) = o := by
  obtain ⟨d, a, b, pr⟩ := o
  simp only [FP3.parse, FP3.mk.injEq]
  refine ⟨fld_eq ?_, fld_eq ?_, fld_eq ?_, fld_eq ?_⟩ <;> simp only [bits, FP3.encD, FP3.encT] <;> omega

theorem parse_FP3R (o : FP3R) : FP3R.parse (FP3R.encD o) (FP3R.encT o) = o := by
  obtain ⟨d, a, b, h, pr, rnd⟩ := o
  simp only [FP3R.parse, FP3R.mk.injEq]
  refine ⟨fld_eq ?_, fld_eq ?_, fld_eq ?_, fld_eq ?_, fld_eq ?_, fld_eq ?_⟩ <;> simp only [bits, FP3R.encD, FP3R.encT] <;> omega

theorem parse_FP4R (o : FP4R) : FP4R.parse (FP4R.encD o) (FP4R.encT o) = o := by
  obtain ⟨d, a, b, c, h, pr, rnd⟩ := o
  simp only [FP4R.parse, FP4R.mk.injEq]
  refine ⟨fld_eq ?_, fld_eq ?_, fld_eq ?_, fld_eq ?_, fld_eq ?_, fld_eq ?_, fld_eq ?_⟩ <;> simp only [bits, FP4R.encD, FP4R.encT] <;> omega

theorem parse_FP4R_0_2097152 (o : FP4R) : FP4R.parse (FP4R.encD o) (FP4R.encT o + 2097152) = o := by
  obtain ⟨d, a, b, c, h, pr, rnd⟩ := o
  simp only [FP4R.parse, FP4R.mk.injEq]
  refine ⟨fld_eq ?_, fld_eq ?_, fld_eq ?_, fld_eq ?_, fld_eq ?_, fld_eq ?_, fld_eq ?_⟩ <;> simp only [bits, FP4R.encD, FP4R.encT] <;> omega

theorem parse_FP4R_0_4194304 (o : FP4R) : FP4R.parse (FP4R.encD o) (FP4R.encT o + 4194304) = o := by
  obtain ⟨d, a, b, c, h, pr, rnd⟩ := o
  simp only [FP4R.parse, FP4R.mk.injEq]
  refine ⟨fld_eq ?_, fld_eq ?_, fld_eq ?_, fld_eq ?_, fld_eq ?_, fld_eq ?_, fld_eq ?_⟩ <;> simp only [bits, FP4R.encD, FP4R.encT] <;> omega

theorem parse_FP4R_0_6291456 (o : FP4R) : FP4R.parse (FP4R.encD o) (FP4R.encT o + 6291456) = o := by
  obtain ⟨d, a, b, c, h, pr, rnd⟩ := o
  simp only [FP4R.parse, FP4R.mk.injEq]
  refine ⟨fld_eq ?_, fld_eq ?_, fld_eq ?_, fld_eq ?_, fld_eq ?_, fld_eq ?_, fld_eq ?_⟩ <;> simp only [bits, FP4R.encD, FP4R.encT] <;> omega

theorem parse_FP3H (o : FP3H) : FP3H.parse (FP3H.encD o) (FP3H.encT o) = o := by
  obtain ⟨d, a, b, h, pr⟩ := o
  simp only [FP3H.parse, FP3H.mk.injEq]
  refine ⟨fld_eq ?_, fld_eq ?_, fld_eq ?_, fld_eq ?_, fld_eq ?_⟩ <;> simp only [bits, FP3H.encD, FP3H.encT] <;> omega

theorem parse_FP2 (o : FP2) : FP2.parse (FP2.encD o) (FP2.encT o) = o := by
  obtain ⟨d, a, pr⟩ := o
  simp only [FP2.parse, FP2.mk.injEq]
  refine ⟨fld_eq ?_, fld_eq ?_, fld_eq ?_⟩ <;> simp only [bits, FP2.encD, FP2.encT] <;> omega

theorem parse_FP2H (o : FP2H) : FP2H.parse (FP2H.encD o) (FP2H.encT o) = o := by
  obtain ⟨d, a, h, pr⟩ := o
  simp only [FP2H.parse, FP2H.mk.injEq]
  refine ⟨fld_eq ?_, fld_eq ?_, fld_eq ?_, fld_eq ?_⟩ <;> simp only [bits, FP2H.encD, FP2H.encT] <;> omega

theorem parse_FP2H_0_2097152 (o : FP2H) : FP2H.parse (FP2H.encD o) (FP2H.encT o + 2097152) = o := by
  obtain ⟨d, a, h, pr⟩ := o
  simp only [FP2H.parse, FP2H.mk.injEq]
  refine ⟨fld_eq ?_, fld_eq ?_, fld_eq ?_, fld_eq ?_⟩ <;> simp only [bits, FP2H.encD, FP2H.encT] <;> omega

theorem parse_FP3H_0_4194304 (o : FP3H) : FP3H.parse (FP3H.encD o) (FP3H.encT o + 4194304) = o := by
  obtain ⟨d, a, b, h, pr⟩ := o
  simp only [FP3H.parse, FP3H.mk.injEq]
  refine ⟨fld_eq ?_, fld_eq ?_, fld_eq ?_, fld_eq ?_, fld_eq ?_⟩ <;> simp only [bits, FP3H.encD, FP3H.encT] <;> omega

theorem parse_FC3 (o : FC3) : FC3.parse (FC3.encD o) (FC3.encT o) = o := by
  obtain ⟨d, a, b, pr⟩ := o
  simp only [FC3.parse, FC3.mk.injEq]
  refine ⟨fld_eq ?_, fld_eq ?_, fld_eq ?_, fld_eq ?_⟩ <;> simp only [bits, FC3.encD, FC3.encT] <;> omega

theorem parse_FC3H (o : FC3H) : FC3H.parse (FC3H.encD o) (FC3H.encT o) = o := by
  obtain ⟨d, a, b, h, pr⟩ := o
  simp only [FC3H.parse, FC3H.mk.injEq]
  refine ⟨fld_eq ?_, fld_eq ?_, fld_eq ?_, fld_eq ?_, fld_eq ?_⟩ <;> simp only [bits, FC3H.encD, FC3H.encT] <;> omega

theorem parse_FC3_0_16384 (o : FC3) : FC3.parse (FC3.encD o) (FC3.encT o + 16384) = o := by
  obtain ⟨d, a, b, pr⟩ := o
  simp only [FC3.parse, FC3.mk.injEq]
  refine ⟨fld_eq ?_, fld_eq ?_, fld_eq ?_, fld_eq ?_⟩ <;> simp only [bits, FC3.encD, FC3.encT] <;> omega

theorem parse_FC3H_0_67108864 (o : FC3H) : FC3H.parse (FC3H.encD o) (FC3H.encT o + 67108864) = o := by
  obtain ⟨d, a, b, h, pr⟩ := o
  simp only [FC3H.parse, FC3H.mk.injEq]
  refine ⟨fld_eq ?_, fld_eq ?_, fld_eq ?_, fld_eq ?_, fld_eq ?_⟩ <;> simp only [bits, FC3H.encD, FC3H.encT] <;> omega

theorem parse_FC3_0_32768 (o : FC3) : FC3.parse (FC3.encD o) (FC3.encT o + 32768) = o := by
  obtain ⟨d, a, b, pr⟩ := o
  simp only [FC3.parse, FC3.mk.injEq]
  refine ⟨fld_eq ?_, fld_eq ?_, fld_eq ?_, fld_eq ?_⟩ <;> simp only [bits, FC3.encD, FC3.encT] <;> omega

theorem parse_FC3H_0_134217728 (o : FC3H) : FC3H.parse (FC3H.encD o) (FC3H.encT o + 134217728) = o := by
  obtain ⟨d, a, b, h, pr⟩ := o
  simp only [FC3H.parse, FC3H.mk.injEq]
  refine ⟨fld_eq ?_, fld_eq ?_, fld_eq ?_, fld_eq ?_, fld_eq ?_⟩ <;> simp only [bits, FC3H.encD, FC3H.encT] <;> omega

theorem parse_FC3_0_49152 (o : FC3) : FC3.parse (FC3.encD o) (FC3.encT o + 49152) = o := by
  obtain ⟨d, a, b, pr⟩ := o
  simp only [FC3.parse, FC3.mk.injEq]
  refine ⟨fld_eq ?_, fld_eq ?_, fld_eq ?_, fld_eq ?_⟩ <;> simp only [bits, FC3.encD, FC3.encT] <;> omega

theorem parse_FC3H_0_201326592 (o : FC3H) : FC3H.parse (FC3H.encD o) (FC3H.encT o + 201326592) = o := by
  obtain ⟨d, a, b, h, pr⟩ := o
  simp only [FC3H.parse, FC3H.mk.injEq]
  refine ⟨fld_eq ?_, fld_eq ?_, fld_eq ?_, fld_eq ?_, fld_eq ?_⟩ <;> simp only [bits, FC3H.encD, FC3H.encT] <;> omega

theorem parse_FC2 (o : FC2) : FC2.parse (FC2.encD o) (FC2.encT o) = o := by
  obtain ⟨d, a, pr⟩ := o
  simp only [FC2.parse, FC2.mk.injEq]
  refine ⟨fld_eq ?_, fld_eq ?_, fld_eq ?_⟩ <;> simp only [bits, FC2.encD, FC2.encT] <;> omega

theorem parse_CvtR (o : CvtR) : CvtR.parse (CvtR.encD o) (CvtR.encT o) = o := by
  obtain ⟨d, a, sf, df⟩ := o
  simp only [CvtR.parse, CvtR.mk.injEq]
  refine ⟨fld_eq ?_, fld_eq ?_, fld_eq ?_, fld_eq ?_⟩ <;> simp only [bits, CvtR.encD, CvtR.encT] <;> omega

theorem parse_CvtX (o : CvtX) : CvtX.parse (CvtX.encD o) (CvtX.encT o) = o := by
  obtain ⟨d, a, h, sf, df, rnd⟩ := o
  simp only [CvtX.parse, CvtX.mk.injEq]
  refine ⟨fld_eq ?_, fld_eq ?_, fld_eq ?_, fld_eq ?_, fld_eq ?_, fld_eq ?_⟩ <;> simp only [bits, CvtX.encD, CvtX.encT] <;> omega

theorem parse_CviR (o : CviR) : CviR.parse (CviR.encD o) (CviR.encT o) = o := by
  obtain ⟨d, a, sf, un⟩ := o
  simp only [CviR.parse, CviR.mk.injEq]
  refine ⟨fld_eq ?_, fld_eq ?_, fld_eq ?_, fld_eq ?_⟩ <;> simp only [bits, CviR.encD, CviR.encT] <;> omega

theorem parse_CviX (o : CviX) : CviX.parse (CviX.encD o) (CviX.encT o) = o := by
  obtain ⟨d, a, h, sf, un, rnd⟩ := o
  simp only [CviX.parse, CviX.mk.injEq]
  refine ⟨fld_eq ?_, fld_eq ?_, fld_eq ?_, fld_eq ?_, fld_eq ?_, fld_eq ?_⟩ <;> simp only [bits, CviX.encD, CviX.encT] <;> omega

theorem parse_IcvR (o : IcvR) : IcvR.parse (IcvR.encD o) (IcvR.encT o) = o := by
  obtain ⟨d, a, df, un⟩ := o
  simp only [IcvR.parse, IcvR.mk.injEq]
  refine ⟨fld_eq ?_, fld_eq ?_, fld_eq ?_, fld_eq ?_⟩ <;> simp only [bits, IcvR.encD, IcvR.encT] <;> omega

theorem parse_IcvX (o : IcvX) : IcvX.parse (IcvX.encD o) (IcvX.encT o) = o := by
  obtain ⟨d, a, h, df, un, rnd⟩ := o
  simp only [IcvX.parse, IcvX.mk.injEq]
  refine ⟨fld_eq ?_, fld_eq ?_, fld_eq ?_, fld_eq ?_, fld_eq ?_, fld_eq ?_⟩ <;> simp only [bits, IcvX.encD, IcvX.encT] <;> omega

theorem parse_GF (o : GF) : GF.parse (GF.encD o) (GF.encT o) = o := by
  obtain ⟨d, a⟩ := o
  simp only [GF.parse, GF.mk.injEq]
  refine ⟨fld_eq ?_, fld_eq ?_⟩ <;> simp only [bits, GF.encD, GF.encT] <;> omega

theorem parse_FG (o : FG) : FG.parse (FG.encD o) (FG.encT o) = o := by
  obtain ⟨d, a⟩ := o
  simp only [FG.parse, FG.mk.injEq]
  refine ⟨fld_eq ?_, fld_eq ?_⟩ <;> simp only [bits, FG.encD, FG.encT] <;> omega

theorem parse_FK16 (o : FK16) : FK16.parse (FK16.encD o) (FK16.encT o) = o := by
  obtain ⟨d, k⟩ := o
  simp only [FK16.parse, FK16.mk.injEq]
  refine ⟨fld_eq ?_, fld_eq ?_⟩ <;> simp only [bits, FK16.encD, FK16.encT] <;> omega

theorem parse_FK32 (o : FK32) : FK32.parse (FK32.encD o) (FK32.encT o) = o := by
  obtain ⟨d, k⟩ := o
  simp only [FK32.parse, FK32.mk.injEq]
  refine ⟨fld_eq ?_, fld_eq ?_⟩ <;> simp only [bits, FK32.encD, FK32.encT] <;> omega

theorem parse_FK64 (o : FK64) : FK64.parse (FK64.encD o) (FK64.encT o) = o := by
  obtain ⟨d, k⟩ := o
  simp only [FK64.parse, FK64.mk.injEq]
  refine ⟨fld_eq ?_, fld_eq ?_⟩ <;> simp only [bits, FK64.encD, FK64.encT] <;> omega

theorem parse_F4H (o : F4H) : F4H.parse (F4H.encD o) (F4H.encT o) = o := by
  obtain ⟨d, a, b, c, h⟩ := o
  simp only [F4H.parse, F4H.mk.injEq]
  refine ⟨fld_eq ?_, fld_eq ?_, fld_eq ?_, fld_eq ?_, fld_eq ?_⟩ <;> simp only [bits, F4H.encD, F4H.encT] <;> omega

theorem parse_PE3 (o : PE3) : PE3.parse (PE3.encD o) (PE3.encT o) = o := by
  obtain ⟨d, a, b, e⟩ := o
  simp only [PE3.parse, PE3.mk.injEq]
  refine ⟨fld_eq ?_, fld_eq ?_, fld_eq ?_, fld_eq ?_⟩ <;> simp only [bits, PE3.encD, PE3.encT] <;> omega

theorem parse_PE3H (o : PE3H) : PE3H.parse (PE3H.encD o) (PE3H.encT o) = o := by
  obtain ⟨d, a, b, h, e⟩ := o
  simp only [PE3H.parse, PE3H.mk.injEq]
  refine ⟨fld_eq ?_, fld_eq ?_, fld_eq ?_, fld_eq ?_, fld_eq ?_⟩ <;> simp only [bits, PE3H.encD, PE3H.encT] <;> omega

theorem parse_PE4H (o : PE4H) : PE4H.parse (PE4H.encD o) (PE4H.encT o) = o := by
  obtain ⟨d, a, b, c, h, e⟩ := o
  simp only [PE4H.parse, PE4H.mk.injEq]
  refine ⟨fld_eq ?_, fld_eq ?_, fld_eq ?_, fld_eq ?_, fld_eq ?_, fld_eq ?_⟩ <;> simp only [bits, PE4H.encD, PE4H.encT] <;> omega

theorem parse_PBc (o : PBc) : PBc.parse (PBc.encD o) (PBc.encT o) = o := by
  obtain ⟨d, a, lane, e⟩ := o
  simp only [PBc.parse, PBc.mk.injEq]
  refine ⟨fld_eq ?_, fld_eq ?_, fld_eq ?_, fld_eq ?_⟩ <;> simp only [bits, PBc.encD, PBc.encT] <;> omega

theorem parse_PBcH (o : PBcH) : PBcH.parse (PBcH.encD o) (PBcH.encT o) = o := by
  obtain ⟨d, a, lane, h, e⟩ := o
  simp only [PBcH.parse, PBcH.mk.injEq]
  refine ⟨fld_eq ?_, fld_eq ?_, fld_eq ?_, fld_eq ?_, fld_eq ?_⟩ <;> simp only [bits, PBcH.encD, PBcH.encT] <;> omega

theorem parse_PW3 (o : PW3) : PW3.parse (PW3.encD o) (PW3.encT o) = o := by
  obtain ⟨d, a, b, e, wf⟩ := o
  simp only [PW3.parse, PW3.mk.injEq]
  refine ⟨fld_eq ?_, fld_eq ?_, fld_eq ?_, fld_eq ?_, fld_eq ?_⟩ <;> simp only [bits, PW3.encD, PW3.encT] <;> omega

theorem parse_PW3H (o : PW3H) : PW3H.parse (PW3H.encD o) (PW3H.encT o) = o := by
  obtain ⟨d, a, b, h, e, wf, part⟩ := o
  simp only [PW3H.parse, PW3H.mk.injEq]
  refine ⟨fld_eq ?_, fld_eq ?_, fld_eq ?_, fld_eq ?_, fld_eq ?_, fld_eq ?_, fld_eq ?_⟩ <;> simp only [bits, PW3H.encD, PW3H.encT] <;> omega

theorem parse_PW2 (o : PW2) : PW2.parse (PW2.encD o) (PW2.encT o) = o := by
  obtain ⟨d, a, e, wf⟩ := o
  simp only [PW2.parse, PW2.mk.injEq]
  refine ⟨fld_eq ?_, fld_eq ?_, fld_eq ?_, fld_eq ?_⟩ <;> simp only [bits, PW2.encD, PW2.encT] <;> omega

theorem parse_PW2H (o : PW2H) : PW2H.parse (PW2H.encD o) (PW2H.encT o) = o := by
  obtain ⟨d, a, h, e, wf, part⟩ := o
  simp only [PW2H.parse, PW2H.mk.injEq]
  refine ⟨fld_eq ?_, fld_eq ?_, fld_eq ?_, fld_eq ?_, fld_eq ?_, fld_eq ?_⟩ <;> simp only [bits, PW2H.encD, PW2H.encT] <;> omega

theorem parse_PW4H (o : PW4H) : PW4H.parse (PW4H.encD o) (PW4H.encT o) = o := by
  obtain ⟨d, a, b, c, h, e, wf, part⟩ := o
  simp only [PW4H.parse, PW4H.mk.injEq]
  refine ⟨fld_eq ?_, fld_eq ?_, fld_eq ?_, fld_eq ?_, fld_eq ?_, fld_eq ?_, fld_eq ?_, fld_eq ?_⟩ <;> simp only [bits, PW4H.encD, PW4H.encT] <;> omega

theorem parse_PWcH (o : PWcH) : PWcH.parse (PWcH.encD o) (PWcH.encT o) = o := by
  obtain ⟨d, a, c, ha, hc, e, wf, part⟩ := o
  simp only [PWcH.parse, PWcH.mk.injEq]
  refine ⟨fld_eq ?_, fld_eq ?_, fld_eq ?_, fld_eq ?_, fld_eq ?_, fld_eq ?_, fld_eq ?_, fld_eq ?_⟩ <;> simp only [bits, PWcH.encD, PWcH.encT] <;> omega

theorem parse_PE3_0_16384 (o : PE3) : PE3.parse (PE3.encD o) (PE3.encT o + 16384) = o := by
  obtain ⟨d, a, b, e⟩ := o
  simp only [PE3.parse, PE3.mk.injEq]
  refine ⟨fld_eq ?_, fld_eq ?_, fld_eq ?_, fld_eq ?_⟩ <;> simp only [bits, PE3.encD, PE3.encT] <;> omega

theorem parse_PE3H_0_67108864 (o : PE3H) : PE3H.parse (PE3H.encD o) (PE3H.encT o + 67108864) = o := by
  obtain ⟨d, a, b, h, e⟩ := o
  simp only [PE3H.parse, PE3H.mk.injEq]
  refine ⟨fld_eq ?_, fld_eq ?_, fld_eq ?_, fld_eq ?_, fld_eq ?_⟩ <;> simp only [bits, PE3H.encD, PE3H.encT] <;> omega

theorem parse_PE3_0_32768 (o : PE3) : PE3.parse (PE3.encD o) (PE3.encT o + 32768) = o := by
  obtain ⟨d, a, b, e⟩ := o
  simp only [PE3.parse, PE3.mk.injEq]
  refine ⟨fld_eq ?_, fld_eq ?_, fld_eq ?_, fld_eq ?_⟩ <;> simp only [bits, PE3.encD, PE3.encT] <;> omega

theorem parse_PE3H_0_134217728 (o : PE3H) : PE3H.parse (PE3H.encD o) (PE3H.encT o + 134217728) = o := by
  obtain ⟨d, a, b, h, e⟩ := o
  simp only [PE3H.parse, PE3H.mk.injEq]
  refine ⟨fld_eq ?_, fld_eq ?_, fld_eq ?_, fld_eq ?_, fld_eq ?_⟩ <;> simp only [bits, PE3H.encD, PE3H.encT] <;> omega

theorem parse_PE3_0_49152 (o : PE3) : PE3.parse (PE3.encD o) (PE3.encT o + 49152) = o := by
  obtain ⟨d, a, b, e⟩ := o
  simp only [PE3.parse, PE3.mk.injEq]
  refine ⟨fld_eq ?_, fld_eq ?_, fld_eq ?_, fld_eq ?_⟩ <;> simp only [bits, PE3.encD, PE3.encT] <;> omega

theorem parse_PE3H_0_201326592 (o : PE3H) : PE3H.parse (PE3H.encD o) (PE3H.encT o + 201326592) = o := by
  obtain ⟨d, a, b, h, e⟩ := o
  simp only [PE3H.parse, PE3H.mk.injEq]
  refine ⟨fld_eq ?_, fld_eq ?_, fld_eq ?_, fld_eq ?_, fld_eq ?_⟩ <;> simp only [bits, PE3H.encD, PE3H.encT] <;> omega

theorem parse_F3 (o : F3) : F3.parse (F3.encD o) (F3.encT o) = o := by
  obtain ⟨d, a, b⟩ := o
  simp only [F3.parse, F3.mk.injEq]
  refine ⟨fld_eq ?_, fld_eq ?_, fld_eq ?_⟩ <;> simp only [bits, F3.encD, F3.encT] <;> omega

theorem parse_F3H (o : F3H) : F3H.parse (F3H.encD o) (F3H.encT o) = o := by
  obtain ⟨d, a, b, h⟩ := o
  simp only [F3H.parse, F3H.mk.injEq]
  refine ⟨fld_eq ?_, fld_eq ?_, fld_eq ?_, fld_eq ?_⟩ <;> simp only [bits, F3H.encD, F3H.encT] <;> omega

theorem parse_F3_0_4096 (o : F3) : F3.parse (F3.encD o) (F3.encT o + 4096) = o := by
  obtain ⟨d, a, b⟩ := o
  simp only [F3.parse, F3.mk.injEq]
  refine ⟨fld_eq ?_, fld_eq ?_, fld_eq ?_⟩ <;> simp only [bits, F3.encD, F3.encT] <;> omega

theorem parse_F3H_0_16777216 (o : F3H) : F3H.parse (F3H.encD o) (F3H.encT o + 16777216) = o := by
  obtain ⟨d, a, b, h⟩ := o
  simp only [F3H.parse, F3H.mk.injEq]
  refine ⟨fld_eq ?_, fld_eq ?_, fld_eq ?_, fld_eq ?_⟩ <;> simp only [bits, F3H.encD, F3H.encT] <;> omega

theorem parse_F3_0_8192 (o : F3) : F3.parse (F3.encD o) (F3.encT o + 8192) = o := by
  obtain ⟨d, a, b⟩ := o
  simp only [F3.parse, F3.mk.injEq]
  refine ⟨fld_eq ?_, fld_eq ?_, fld_eq ?_⟩ <;> simp only [bits, F3.encD, F3.encT] <;> omega

theorem parse_F3H_0_33554432 (o : F3H) : F3H.parse (F3H.encD o) (F3H.encT o + 33554432) = o := by
  obtain ⟨d, a, b, h⟩ := o
  simp only [F3H.parse, F3H.mk.injEq]
  refine ⟨fld_eq ?_, fld_eq ?_, fld_eq ?_, fld_eq ?_⟩ <;> simp only [bits, F3H.encD, F3H.encT] <;> omega

theorem parse_F3_0_12288 (o : F3) : F3.parse (F3.encD o) (F3.encT o + 12288) = o := by
  obtain ⟨d, a, b⟩ := o
  simp only [F3.parse, F3.mk.injEq]
  refine ⟨fld_eq ?_, fld_eq ?_, fld_eq ?_⟩ <;> simp only [bits, F3.encD, F3.encT] <;> omega

theorem parse_F3H_0_50331648 (o : F3H) : F3H.parse (F3H.encD o) (F3H.encT o + 50331648) = o := by
  obtain ⟨d, a, b, h⟩ := o
  simp only [F3H.parse, F3H.mk.injEq]
  refine ⟨fld_eq ?_, fld_eq ?_, fld_eq ?_, fld_eq ?_⟩ <;> simp only [bits, F3H.encD, F3H.encT] <;> omega

theorem parse_F2 (o : F2) : F2.parse (F2.encD o) (F2.encT o) = o := by
  obtain ⟨d, a⟩ := o
  simp only [F2.parse, F2.mk.injEq]
  refine ⟨fld_eq ?_, fld_eq ?_⟩ <;> simp only [bits, F2.encD, F2.encT] <;> omega

theorem parse_F2H (o : F2H) : F2H.parse (F2H.encD o) (F2H.encT o) = o := by
  obtain ⟨d, a, h⟩ := o
  simp only [F2H.parse, F2H.mk.injEq]
  refine ⟨fld_eq ?_, fld_eq ?_, fld_eq ?_⟩ <;> simp only [bits, F2H.encD, F2H.encT] <;> omega

theorem parse_FS2 (o : FS2) : FS2.parse (FS2.encD o) (FS2.encT o) = o := by
  obtain ⟨d, a, pr⟩ := o
  simp only [FS2.parse, FS2.mk.injEq]
  refine ⟨fld_eq ?_, fld_eq ?_, fld_eq ?_⟩ <;> simp only [bits, FS2.encD, FS2.encT] <;> omega

theorem parse_FS2H (o : FS2H) : FS2H.parse (FS2H.encD o) (FS2H.encT o) = o := by
  obtain ⟨d, a, h, pr⟩ := o
  simp only [FS2H.parse, FS2H.mk.injEq]
  refine ⟨fld_eq ?_, fld_eq ?_, fld_eq ?_, fld_eq ?_⟩ <;> simp only [bits, FS2H.encD, FS2H.encT] <;> omega

theorem parse_SendO (o : SendO) : SendO.parse (SendO.encD o) (SendO.encT o) = o := by
  obtain ⟨d, a, cls, nm1, sc, gm⟩ := o
  simp only [SendO.parse, SendO.mk.injEq]
  refine ⟨fld_eq ?_, fld_eq ?_, fld_eq ?_, fld_eq ?_, fld_eq ?_, fld_eq ?_⟩ <;> simp only [bits, SendO.encD, SendO.encT] <;> omega

theorem parse_SendnO (o : SendnO) : SendnO.parse (SendnO.encD o) (SendnO.encT o) = o := by
  obtain ⟨d, cls, nm1, dx, dy, sc, gm⟩ := o
  simp only [SendnO.parse, SendnO.mk.injEq]
  refine ⟨fld_eq ?_, fld_eq ?_, fld_eq ?_, fld_eq ?_, fld_eq ?_, fld_eq ?_, fld_eq ?_⟩ <;> simp only [bits, SendnO.encD, SendnO.encT] <;> omega

theorem parse_RecvR (o : RecvR) : RecvR.parse (RecvR.encD o) (RecvR.encT o) = o := by
  obtain ⟨d, a, cls, sc, gm⟩ := o
  simp only [RecvR.parse, RecvR.mk.injEq]
  refine ⟨fld_eq ?_, fld_eq ?_, fld_eq ?_, fld_eq ?_, fld_eq ?_⟩ <;> simp only [bits, RecvR.encD, RecvR.encT] <;> omega

theorem parse_RecvX (o : RecvX) : RecvX.parse (RecvX.encD o) (RecvX.encT o) = o := by
  obtain ⟨d, a, cls, sc, gm⟩ := o
  simp only [RecvX.parse, RecvX.mk.injEq]
  refine ⟨fld_eq ?_, fld_eq ?_, fld_eq ?_, fld_eq ?_, fld_eq ?_⟩ <;> simp only [bits, RecvX.encD, RecvX.encT] <;> omega

theorem parse_RecvR_0_256 (o : RecvR) : RecvR.parse (RecvR.encD o) (RecvR.encT o + 256) = o := by
  obtain ⟨d, a, cls, sc, gm⟩ := o
  simp only [RecvR.parse, RecvR.mk.injEq]
  refine ⟨fld_eq ?_, fld_eq ?_, fld_eq ?_, fld_eq ?_, fld_eq ?_⟩ <;> simp only [bits, RecvR.encD, RecvR.encT] <;> omega

theorem parse_RecvX_0_256 (o : RecvX) : RecvX.parse (RecvX.encD o) (RecvX.encT o + 256) = o := by
  obtain ⟨d, a, cls, sc, gm⟩ := o
  simp only [RecvX.parse, RecvX.mk.injEq]
  refine ⟨fld_eq ?_, fld_eq ?_, fld_eq ?_, fld_eq ?_, fld_eq ?_⟩ <;> simp only [bits, RecvX.encD, RecvX.encT] <;> omega

theorem parse_GCls (o : GCls) : GCls.parse (GCls.encD o) (GCls.encT o) = o := by
  obtain ⟨d, cls⟩ := o
  simp only [GCls.parse, GCls.mk.injEq]
  refine ⟨fld_eq ?_, fld_eq ?_⟩ <;> simp only [bits, GCls.encD, GCls.encT] <;> omega

theorem parse_GCls_0_4096 (o : GCls) : GCls.parse (GCls.encD o) (GCls.encT o + 4096) = o := by
  obtain ⟨d, cls⟩ := o
  simp only [GCls.parse, GCls.mk.injEq]
  refine ⟨fld_eq ?_, fld_eq ?_⟩ <;> simp only [bits, GCls.encD, GCls.encT] <;> omega

theorem parse_GCls_0_16777216 (o : GCls) : GCls.parse (GCls.encD o) (GCls.encT o + 16777216) = o := by
  obtain ⟨d, cls⟩ := o
  simp only [GCls.parse, GCls.mk.injEq]
  refine ⟨fld_eq ?_, fld_eq ?_⟩ <;> simp only [bits, GCls.encD, GCls.encT] <;> omega

theorem parse_QendO_48_0 (o : QendO) : QendO.parse (QendO.encD o + 48) (QendO.encT o) = o := by
  obtain ⟨port, a⟩ := o
  simp only [QendO.parse, QendO.mk.injEq]
  refine ⟨fld_eq ?_, fld_eq ?_⟩ <;> simp only [bits, QendO.encD, QendO.encT] <;> omega

theorem parse_QctlO (o : QctlO) : QctlO.parse (QctlO.encD o) (QctlO.encT o) = o := by
  obtain ⟨d, a, pc⟩ := o
  simp only [QctlO.parse, QctlO.mk.injEq]
  refine ⟨fld_eq ?_, fld_eq ?_, fld_eq ?_⟩ <;> simp only [bits, QctlO.encD, QctlO.encT] <;> omega

theorem parse_QctlO_0_256 (o : QctlO) : QctlO.parse (QctlO.encD o) (QctlO.encT o + 256) = o := by
  obtain ⟨d, a, pc⟩ := o
  simp only [QctlO.parse, QctlO.mk.injEq]
  refine ⟨fld_eq ?_, fld_eq ?_, fld_eq ?_⟩ <;> simp only [bits, QctlO.encD, QctlO.encT] <;> omega

theorem parse_QctlO_0_512 (o : QctlO) : QctlO.parse (QctlO.encD o) (QctlO.encT o + 512) = o := by
  obtain ⟨d, a, pc⟩ := o
  simp only [QctlO.parse, QctlO.mk.injEq]
  refine ⟨fld_eq ?_, fld_eq ?_, fld_eq ?_⟩ <;> simp only [bits, QctlO.encD, QctlO.encT] <;> omega

theorem parse_XferO (o : XferO) : XferO.parse (XferO.encD o) (XferO.encT o) = o := by
  obtain ⟨d, a, b, ctr, rmod⟩ := o
  simp only [XferO.parse, XferO.mk.injEq]
  refine ⟨fld_eq ?_, fld_eq ?_, fld_eq ?_, fld_eq ?_, fld_eq ?_⟩ <;> simp only [bits, XferO.encD, XferO.encT] <;> omega

theorem parse_XferI (o : XferI) : XferI.parse (XferI.encD o) (XferI.encT o) = o := by
  obtain ⟨d, a, b, c, ctr, esz, rmod, ish, isz⟩ := o
  simp only [XferI.parse, XferI.mk.injEq]
  refine ⟨fld_eq ?_, fld_eq ?_, fld_eq ?_, fld_eq ?_, fld_eq ?_, fld_eq ?_, fld_eq ?_, fld_eq ?_, fld_eq ?_⟩ <;> simp only [bits, XferI.encD, XferI.encT] <;> omega

theorem parse_CtrO (o : CtrO) : CtrO.parse (CtrO.encD o) (CtrO.encT o) = o := by
  obtain ⟨d, a, ctr⟩ := o
  simp only [CtrO.parse, CtrO.mk.injEq]
  refine ⟨fld_eq ?_, fld_eq ?_, fld_eq ?_⟩ <;> simp only [bits, CtrO.encD, CtrO.encT] <;> omega

theorem parse_MbindO (o : MbindO) : MbindO.parse (MbindO.encD o) (MbindO.encT o) = o := by
  obtain ⟨mi, a, b, slot, trig, cls⟩ := o
  simp only [MbindO.parse, MbindO.mk.injEq]
  refine ⟨fld_eq ?_, fld_eq ?_, fld_eq ?_, fld_eq ?_, fld_eq ?_, fld_eq ?_⟩ <;> simp only [bits, MbindO.encD, MbindO.encT] <;> omega

theorem parse_GbarA (o : GbarA) : GbarA.parse (GbarA.encD o) (GbarA.encT o) = o := by
  obtain ⟨gm⟩ := o
  simp only [GbarA.parse, GbarA.mk.injEq]
  refine fld_eq ?_
  simp only [bits, GbarA.encD]
  omega

theorem parse_GbarG_4_0 (o : GbarG) : GbarG.parse (GbarG.encD o + 4) (GbarG.encT o) = o := by
  obtain ⟨gm, a⟩ := o
  simp only [GbarG.parse, GbarG.mk.injEq]
  refine ⟨fld_eq ?_, fld_eq ?_⟩ <;> simp only [bits, GbarG.encD, GbarG.encT] <;> omega

theorem parse_GbarG_8_0 (o : GbarG) : GbarG.parse (GbarG.encD o + 8) (GbarG.encT o) = o := by
  obtain ⟨gm, a⟩ := o
  simp only [GbarG.parse, GbarG.mk.injEq]
  refine ⟨fld_eq ?_, fld_eq ?_⟩ <;> simp only [bits, GbarG.encD, GbarG.encT] <;> omega

theorem parse_GredR (o : GredR) : GredR.parse (GredR.encD o) (GredR.encT o) = o := by
  obtain ⟨d, a, gm, file, ty⟩ := o
  simp only [GredR.parse, GredR.mk.injEq]
  refine ⟨fld_eq ?_, fld_eq ?_, fld_eq ?_, fld_eq ?_, fld_eq ?_⟩ <;> simp only [bits, GredR.encD, GredR.encT] <;> omega

theorem parse_GredX (o : GredX) : GredX.parse (GredX.encD o) (GredX.encT o) = o := by
  obtain ⟨d, a, gm, file, ty⟩ := o
  simp only [GredX.parse, GredX.mk.injEq]
  refine ⟨fld_eq ?_, fld_eq ?_, fld_eq ?_, fld_eq ?_, fld_eq ?_⟩ <;> simp only [bits, GredX.encD, GredX.encT] <;> omega

theorem parse_GredR_0_4096 (o : GredR) : GredR.parse (GredR.encD o) (GredR.encT o + 4096) = o := by
  obtain ⟨d, a, gm, file, ty⟩ := o
  simp only [GredR.parse, GredR.mk.injEq]
  refine ⟨fld_eq ?_, fld_eq ?_, fld_eq ?_, fld_eq ?_, fld_eq ?_⟩ <;> simp only [bits, GredR.encD, GredR.encT] <;> omega

theorem parse_GredX_0_16777216 (o : GredX) : GredX.parse (GredX.encD o) (GredX.encT o + 16777216) = o := by
  obtain ⟨d, a, gm, file, ty⟩ := o
  simp only [GredX.parse, GredX.mk.injEq]
  refine ⟨fld_eq ?_, fld_eq ?_, fld_eq ?_, fld_eq ?_, fld_eq ?_⟩ <;> simp only [bits, GredX.encD, GredX.encT] <;> omega

theorem parse_GredR_0_8192 (o : GredR) : GredR.parse (GredR.encD o) (GredR.encT o + 8192) = o := by
  obtain ⟨d, a, gm, file, ty⟩ := o
  simp only [GredR.parse, GredR.mk.injEq]
  refine ⟨fld_eq ?_, fld_eq ?_, fld_eq ?_, fld_eq ?_, fld_eq ?_⟩ <;> simp only [bits, GredR.encD, GredR.encT] <;> omega

theorem parse_GredX_0_33554432 (o : GredX) : GredX.parse (GredX.encD o) (GredX.encT o + 33554432) = o := by
  obtain ⟨d, a, gm, file, ty⟩ := o
  simp only [GredX.parse, GredX.mk.injEq]
  refine ⟨fld_eq ?_, fld_eq ?_, fld_eq ?_, fld_eq ?_, fld_eq ?_⟩ <;> simp only [bits, GredX.encD, GredX.encT] <;> omega

theorem parse_GredR_0_12288 (o : GredR) : GredR.parse (GredR.encD o) (GredR.encT o + 12288) = o := by
  obtain ⟨d, a, gm, file, ty⟩ := o
  simp only [GredR.parse, GredR.mk.injEq]
  refine ⟨fld_eq ?_, fld_eq ?_, fld_eq ?_, fld_eq ?_, fld_eq ?_⟩ <;> simp only [bits, GredR.encD, GredR.encT] <;> omega

theorem parse_GredX_0_50331648 (o : GredX) : GredX.parse (GredX.encD o) (GredX.encT o + 50331648) = o := by
  obtain ⟨d, a, gm, file, ty⟩ := o
  simp only [GredX.parse, GredX.mk.injEq]
  refine ⟨fld_eq ?_, fld_eq ?_, fld_eq ?_, fld_eq ?_, fld_eq ?_⟩ <;> simp only [bits, GredX.encD, GredX.encT] <;> omega

theorem parse_GredR_0_16384 (o : GredR) : GredR.parse (GredR.encD o) (GredR.encT o + 16384) = o := by
  obtain ⟨d, a, gm, file, ty⟩ := o
  simp only [GredR.parse, GredR.mk.injEq]
  refine ⟨fld_eq ?_, fld_eq ?_, fld_eq ?_, fld_eq ?_, fld_eq ?_⟩ <;> simp only [bits, GredR.encD, GredR.encT] <;> omega

theorem parse_GredX_0_67108864 (o : GredX) : GredX.parse (GredX.encD o) (GredX.encT o + 67108864) = o := by
  obtain ⟨d, a, gm, file, ty⟩ := o
  simp only [GredX.parse, GredX.mk.injEq]
  refine ⟨fld_eq ?_, fld_eq ?_, fld_eq ?_, fld_eq ?_, fld_eq ?_⟩ <;> simp only [bits, GredX.encD, GredX.encT] <;> omega

theorem parse_GcastR (o : GcastR) : GcastR.parse (GcastR.encD o) (GcastR.encT o) = o := by
  obtain ⟨d, a, gm, file⟩ := o
  simp only [GcastR.parse, GcastR.mk.injEq]
  refine ⟨fld_eq ?_, fld_eq ?_, fld_eq ?_, fld_eq ?_⟩ <;> simp only [bits, GcastR.encD, GcastR.encT] <;> omega

theorem parse_GcastX (o : GcastX) : GcastX.parse (GcastX.encD o) (GcastX.encT o) = o := by
  obtain ⟨d, a, c, gm, file⟩ := o
  simp only [GcastX.parse, GcastX.mk.injEq]
  refine ⟨fld_eq ?_, fld_eq ?_, fld_eq ?_, fld_eq ?_, fld_eq ?_⟩ <;> simp only [bits, GcastX.encD, GcastX.encT] <;> omega

theorem parse_GsumO (o : GsumO) : GsumO.parse (GsumO.encD o) (GsumO.encT o) = o := by
  obtain ⟨d, a, gm⟩ := o
  simp only [GsumO.parse, GsumO.mk.injEq]
  refine ⟨fld_eq ?_, fld_eq ?_, fld_eq ?_⟩ <;> simp only [bits, GsumO.encD, GsumO.encT] <;> omega

theorem parse_SemR (o : SemR) : SemR.parse (SemR.encD o) (SemR.encT o) = o := by
  obtain ⟨d, a, b, sc, gm⟩ := o
  simp only [SemR.parse, SemR.mk.injEq]
  refine ⟨fld_eq ?_, fld_eq ?_, fld_eq ?_, fld_eq ?_, fld_eq ?_⟩ <;> simp only [bits, SemR.encD, SemR.encT] <;> omega

theorem parse_SemX (o : SemX) : SemX.parse (SemX.encD o) (SemX.encT o) = o := by
  obtain ⟨d, a, b, sc, gm⟩ := o
  simp only [SemX.parse, SemX.mk.injEq]
  refine ⟨fld_eq ?_, fld_eq ?_, fld_eq ?_, fld_eq ?_, fld_eq ?_⟩ <;> simp only [bits, SemX.encD, SemX.encT] <;> omega

theorem parse_GG_0_64 (o : GG) : GG.parse (GG.encD o) (GG.encT o + 64) = o := by
  obtain ⟨d, a⟩ := o
  simp only [GG.parse, GG.mk.injEq]
  refine ⟨fld_eq ?_, fld_eq ?_⟩ <;> simp only [bits, GG.encD, GG.encT] <;> omega

theorem parse_GG_0_128 (o : GG) : GG.parse (GG.encD o) (GG.encT o + 128) = o := by
  obtain ⟨d, a⟩ := o
  simp only [GG.parse, GG.mk.injEq]
  refine ⟨fld_eq ?_, fld_eq ?_⟩ <;> simp only [bits, GG.encD, GG.encT] <;> omega

theorem parse_GG_0_192 (o : GG) : GG.parse (GG.encD o) (GG.encT o + 192) = o := by
  obtain ⟨d, a⟩ := o
  simp only [GG.parse, GG.mk.injEq]
  refine ⟨fld_eq ?_, fld_eq ?_⟩ <;> simp only [bits, GG.encD, GG.encT] <;> omega

theorem parse_GD_0_256 (o : GD) : GD.parse (GD.encD o) (GD.encT o + 256) = o := by
  obtain ⟨d⟩ := o
  simp only [GD.parse, GD.mk.injEq]
  refine fld_eq ?_
  simp only [bits, GD.encD]
  omega

theorem parse_GD_0_320 (o : GD) : GD.parse (GD.encD o) (GD.encT o + 320) = o := by
  obtain ⟨d⟩ := o
  simp only [GD.parse, GD.mk.injEq]
  refine fld_eq ?_
  simp only [bits, GD.encD]
  omega

theorem parse_EvcN (o : EvcN) : EvcN.parse (EvcN.encD o) (EvcN.encT o) = o := by
  obtain ⟨d, n⟩ := o
  simp only [EvcN.parse, EvcN.mk.injEq]
  refine ⟨fld_eq ?_, fld_eq ?_⟩ <;> simp only [bits, EvcN.encD, EvcN.encT] <;> omega

theorem parse_EvcA_0_1024 (o : EvcA) : EvcA.parse (EvcA.encD o) (EvcA.encT o + 1024) = o := by
  obtain ⟨d, a, n⟩ := o
  simp only [EvcA.parse, EvcA.mk.injEq]
  refine ⟨fld_eq ?_, fld_eq ?_, fld_eq ?_⟩ <;> simp only [bits, EvcA.encD, EvcA.encT] <;> omega

theorem parse_EvcN_0_2048 (o : EvcN) : EvcN.parse (EvcN.encD o) (EvcN.encT o + 2048) = o := by
  obtain ⟨d, n⟩ := o
  simp only [EvcN.parse, EvcN.mk.injEq]
  refine ⟨fld_eq ?_, fld_eq ?_⟩ <;> simp only [bits, EvcN.encD, EvcN.encT] <;> omega

theorem parse_VbM_0_192 (o : VbM) : VbM.parse (VbM.encD o) (VbM.encT o + 192) = o := by
  obtain ⟨cs, base, off⟩ := o
  simp only [VbM.parse, VbM.mk.injEq]
  refine ⟨fld_eq ?_, fld_eq ?_, fld_eq ?_⟩ <;> simp only [bits, VbM.encD, VbM.encT] <;> omega

theorem parse_VbX_0_192 (o : VbX) : VbX.parse (VbX.encD o) (VbX.encT o + 192) = o := by
  obtain ⟨cs, base, ix, body⟩ := o
  simp only [VbX.parse, VbX.mk.injEq]
  refine ⟨fld_eq ?_, fld_eq ?_, fld_eq ?_, fld_eq ?_⟩ <;> simp only [bits, VbX.encD, VbX.encT] <;> omega

theorem parse_VbOff_4_0 (o : VbOff) : VbOff.parse (VbOff.encD o + 4) (VbOff.encT o) = o := by
  obtain ⟨cs⟩ := o
  simp only [VbOff.parse, VbOff.mk.injEq]
  refine fld_eq ?_
  simp only [bits, VbOff.encD]
  omega

theorem parse_CldO (o : CldO) : CldO.parse (CldO.encD o) (CldO.encT o) = o := by
  obtain ⟨d, a, cs, sx⟩ := o
  simp only [CldO.parse, CldO.mk.injEq]
  refine ⟨fld_eq ?_, fld_eq ?_, fld_eq ?_, fld_eq ?_⟩ <;> simp only [bits, CldO.encD, CldO.encT] <;> omega

theorem parse_CvO (o : CvO) : CvO.parse (CvO.encD o) (CvO.encT o) = o := by
  obtain ⟨d, a, cs⟩ := o
  simp only [CvO.parse, CvO.mk.injEq]
  refine ⟨fld_eq ?_, fld_eq ?_, fld_eq ?_⟩ <;> simp only [bits, CvO.encD, CvO.encT] <;> omega

theorem parse_CamoO (o : CamoO) : CamoO.parse (CamoO.encD o) (CamoO.encT o) = o := by
  obtain ⟨d, a, c, cs, acq, rel⟩ := o
  simp only [CamoO.parse, CamoO.mk.injEq]
  refine ⟨fld_eq ?_, fld_eq ?_, fld_eq ?_, fld_eq ?_, fld_eq ?_, fld_eq ?_⟩ <;> simp only [bits, CamoO.encD, CamoO.encT] <;> omega

theorem parse_CamoO_0_16777216 (o : CamoO) : CamoO.parse (CamoO.encD o) (CamoO.encT o + 16777216) = o := by
  obtain ⟨d, a, c, cs, acq, rel⟩ := o
  simp only [CamoO.parse, CamoO.mk.injEq]
  refine ⟨fld_eq ?_, fld_eq ?_, fld_eq ?_, fld_eq ?_, fld_eq ?_, fld_eq ?_⟩ <;> simp only [bits, CamoO.encD, CamoO.encT] <;> omega

theorem parse_CamoO_0_33554432 (o : CamoO) : CamoO.parse (CamoO.encD o) (CamoO.encT o + 33554432) = o := by
  obtain ⟨d, a, c, cs, acq, rel⟩ := o
  simp only [CamoO.parse, CamoO.mk.injEq]
  refine ⟨fld_eq ?_, fld_eq ?_, fld_eq ?_, fld_eq ?_, fld_eq ?_, fld_eq ?_⟩ <;> simp only [bits, CamoO.encD, CamoO.encT] <;> omega

theorem parse_CamoO_0_50331648 (o : CamoO) : CamoO.parse (CamoO.encD o) (CamoO.encT o + 50331648) = o := by
  obtain ⟨d, a, c, cs, acq, rel⟩ := o
  simp only [CamoO.parse, CamoO.mk.injEq]
  refine ⟨fld_eq ?_, fld_eq ?_, fld_eq ?_, fld_eq ?_, fld_eq ?_, fld_eq ?_⟩ <;> simp only [bits, CamoO.encD, CamoO.encT] <;> omega

theorem parse_CamoO_0_67108864 (o : CamoO) : CamoO.parse (CamoO.encD o) (CamoO.encT o + 67108864) = o := by
  obtain ⟨d, a, c, cs, acq, rel⟩ := o
  simp only [CamoO.parse, CamoO.mk.injEq]
  refine ⟨fld_eq ?_, fld_eq ?_, fld_eq ?_, fld_eq ?_, fld_eq ?_, fld_eq ?_⟩ <;> simp only [bits, CamoO.encD, CamoO.encT] <;> omega

theorem parse_CamoO_0_83886080 (o : CamoO) : CamoO.parse (CamoO.encD o) (CamoO.encT o + 83886080) = o := by
  obtain ⟨d, a, c, cs, acq, rel⟩ := o
  simp only [CamoO.parse, CamoO.mk.injEq]
  refine ⟨fld_eq ?_, fld_eq ?_, fld_eq ?_, fld_eq ?_, fld_eq ?_, fld_eq ?_⟩ <;> simp only [bits, CamoO.encD, CamoO.encT] <;> omega

theorem parse_CamoO_0_100663296 (o : CamoO) : CamoO.parse (CamoO.encD o) (CamoO.encT o + 100663296) = o := by
  obtain ⟨d, a, c, cs, acq, rel⟩ := o
  simp only [CamoO.parse, CamoO.mk.injEq]
  refine ⟨fld_eq ?_, fld_eq ?_, fld_eq ?_, fld_eq ?_, fld_eq ?_, fld_eq ?_⟩ <;> simp only [bits, CamoO.encD, CamoO.encT] <;> omega

theorem parse_CamoO_0_117440512 (o : CamoO) : CamoO.parse (CamoO.encD o) (CamoO.encT o + 117440512) = o := by
  obtain ⟨d, a, c, cs, acq, rel⟩ := o
  simp only [CamoO.parse, CamoO.mk.injEq]
  refine ⟨fld_eq ?_, fld_eq ?_, fld_eq ?_, fld_eq ?_, fld_eq ?_, fld_eq ?_⟩ <;> simp only [bits, CamoO.encD, CamoO.encT] <;> omega

theorem parse_CamoO_0_134217728 (o : CamoO) : CamoO.parse (CamoO.encD o) (CamoO.encT o + 134217728) = o := by
  obtain ⟨d, a, c, cs, acq, rel⟩ := o
  simp only [CamoO.parse, CamoO.mk.injEq]
  refine ⟨fld_eq ?_, fld_eq ?_, fld_eq ?_, fld_eq ?_, fld_eq ?_, fld_eq ?_⟩ <;> simp only [bits, CamoO.encD, CamoO.encT] <;> omega

theorem parse_CamoO_0_150994944 (o : CamoO) : CamoO.parse (CamoO.encD o) (CamoO.encT o + 150994944) = o := by
  obtain ⟨d, a, c, cs, acq, rel⟩ := o
  simp only [CamoO.parse, CamoO.mk.injEq]
  refine ⟨fld_eq ?_, fld_eq ?_, fld_eq ?_, fld_eq ?_, fld_eq ?_, fld_eq ?_⟩ <;> simp only [bits, CamoO.encD, CamoO.encT] <;> omega

theorem parse_CinvO (o : CinvO) : CinvO.parse (CinvO.encD o) (CinvO.encT o) = o := by
  obtain ⟨sc, gm, a, cs⟩ := o
  simp only [CinvO.parse, CinvO.mk.injEq]
  refine ⟨fld_eq ?_, fld_eq ?_, fld_eq ?_, fld_eq ?_⟩ <;> simp only [bits, CinvO.encD, CinvO.encT] <;> omega

theorem parse_CinvA_32_0 (o : CinvA) : CinvA.parse (CinvA.encD o + 32) (CinvA.encT o) = o := by
  obtain ⟨sc, gm, cs⟩ := o
  simp only [CinvA.parse, CinvA.mk.injEq]
  refine ⟨fld_eq ?_, fld_eq ?_, fld_eq ?_⟩ <;> simp only [bits, CinvA.encD, CinvA.encT] <;> omega

theorem parse_CvO_0_256 (o : CvO) : CvO.parse (CvO.encD o) (CvO.encT o + 256) = o := by
  obtain ⟨d, a, cs⟩ := o
  simp only [CvO.parse, CvO.mk.injEq]
  refine ⟨fld_eq ?_, fld_eq ?_, fld_eq ?_⟩ <;> simp only [bits, CvO.encD, CvO.encT] <;> omega

theorem parse_CfreeO_0_512 (o : CfreeO) : CfreeO.parse (CfreeO.encD o) (CfreeO.encT o + 512) = o := by
  obtain ⟨d, cs⟩ := o
  simp only [CfreeO.parse, CfreeO.mk.injEq]
  refine ⟨fld_eq ?_, fld_eq ?_⟩ <;> simp only [bits, CfreeO.encD, CfreeO.encT] <;> omega

theorem parse_CnodeO_0_768 (o : CnodeO) : CnodeO.parse (CnodeO.encD o) (CnodeO.encT o + 768) = o := by
  obtain ⟨d, a, cs, lvl⟩ := o
  simp only [CnodeO.parse, CnodeO.mk.injEq]
  refine ⟨fld_eq ?_, fld_eq ?_, fld_eq ?_, fld_eq ?_⟩ <;> simp only [bits, CnodeO.encD, CnodeO.encT] <;> omega

theorem parse_CsrR (o : CsrR) : CsrR.parse (CsrR.encD o) (CsrR.encT o) = o := by
  obtain ⟨d, num⟩ := o
  simp only [CsrR.parse, CsrR.mk.injEq]
  refine ⟨fld_eq ?_, fld_eq ?_⟩ <;> simp only [bits, CsrR.encD, CsrR.encT] <;> omega

theorem parse_CsrA (o : CsrA) : CsrA.parse (CsrA.encD o) (CsrA.encT o) = o := by
  obtain ⟨d, a, num⟩ := o
  simp only [CsrA.parse, CsrA.mk.injEq]
  refine ⟨fld_eq ?_, fld_eq ?_, fld_eq ?_⟩ <;> simp only [bits, CsrA.encD, CsrA.encT] <;> omega

theorem parse_TlbP (o : TlbP) : TlbP.parse (TlbP.encD o) (TlbP.encT o) = o := by
  obtain ⟨sc, gm, a, ctx⟩ := o
  simp only [TlbP.parse, TlbP.mk.injEq]
  refine ⟨fld_eq ?_, fld_eq ?_, fld_eq ?_, fld_eq ?_⟩ <;> simp only [bits, TlbP.encD, TlbP.encT] <;> omega

theorem parse_TlbC_0_64 (o : TlbC) : TlbC.parse (TlbC.encD o) (TlbC.encT o + 64) = o := by
  obtain ⟨sc, gm, ctx⟩ := o
  simp only [TlbC.parse, TlbC.mk.injEq]
  refine ⟨fld_eq ?_, fld_eq ?_, fld_eq ?_⟩ <;> simp only [bits, TlbC.encD, TlbC.encT] <;> omega

theorem parse_TlbA_0_128 (o : TlbA) : TlbA.parse (TlbA.encD o) (TlbA.encT o + 128) = o := by
  obtain ⟨sc, gm⟩ := o
  simp only [TlbA.parse, TlbA.mk.injEq]
  refine ⟨fld_eq ?_, fld_eq ?_⟩ <;> simp only [bits, TlbA.encD, TlbA.encT] <;> omega

theorem parse_TlbR_0_192 (o : TlbR) : TlbR.parse (TlbR.encD o) (TlbR.encT o + 192) = o := by
  obtain ⟨sc, gm, a, c, ctx⟩ := o
  simp only [TlbR.parse, TlbR.mk.injEq]
  refine ⟨fld_eq ?_, fld_eq ?_, fld_eq ?_, fld_eq ?_, fld_eq ?_⟩ <;> simp only [bits, TlbR.encD, TlbR.encT] <;> omega

theorem parse_GD_0_64 (o : GD) : GD.parse (GD.encD o) (GD.encT o + 64) = o := by
  obtain ⟨d⟩ := o
  simp only [GD.parse, GD.mk.injEq]
  refine fld_eq ?_
  simp only [bits, GD.encD]
  omega

theorem lt_K16_L1 (o : K16) : K16.encD o < 64 ∧ K16.encT o < 65536 := by
  obtain ⟨k⟩ := o
  constructor <;> simp only [K16.encD, K16.encT] <;> omega

theorem lt_K32_L2 (o : K32) : K32.encD o < 64 ∧ K32.encT o < 4294967296 := by
  obtain ⟨k⟩ := o
  constructor <;> simp only [K32.encD, K32.encT] <;> omega

theorem lt_K64_L3 (o : K64) : K64.encD o < 64 ∧ K64.encT o < 18446744073709551616 := by
  obtain ⟨k⟩ := o
  constructor <;> simp only [K64.encD, K64.encT] <;> omega

theorem lt_GGG_L1 (o : GGG) : GGG.encD o < 64 ∧ GGG.encT o < 65536 := by
  obtain ⟨d, a, b⟩ := o
  constructor <;> simp only [GGG.encD, GGG.encT] <;> omega

theorem lt_GGGG_L2 (o : GGGG) : GGGG.encD o < 64 ∧ GGGG.encT o < 4294967296 := by
  obtain ⟨d, a, b, c⟩ := o
  constructor <;> simp only [GGGG.encD, GGGG.encT] <;> omega

theorem lt_GGI10_L1 (o : GGI10) : GGI10.encD o < 64 ∧ GGI10.encT o < 65536 := by
  obtain ⟨d, a, imm⟩ := o
  constructor <;> simp only [GGI10.encD, GGI10.encT] <;> omega

theorem lt_GGI26_L2 (o : GGI26) : GGI26.encD o < 64 ∧ GGI26.encT o < 4294967296 := by
  obtain ⟨d, a, imm⟩ := o
  constructor <;> simp only [GGI26.encD, GGI26.encT] <;> omega

theorem lt_ShiftI_L1 (o : ShiftI) : ShiftI.encD o < 64 ∧ ShiftI.encT o < 65536 := by
  obtain ⟨d, a, amt⟩ := o
  constructor <;> simp only [ShiftI.encD, ShiftI.encT] <;> omega

theorem lt_ShiftI_L1_0_4096 (o : ShiftI) : ShiftI.encD o < 64 ∧ ShiftI.encT o + 4096 < 65536 := by
  obtain ⟨d, a, amt⟩ := o
  constructor <;> simp only [ShiftI.encD, ShiftI.encT] <;> omega

theorem lt_ShiftI_L1_0_8192 (o : ShiftI) : ShiftI.encD o < 64 ∧ ShiftI.encT o + 8192 < 65536 := by
  obtain ⟨d, a, amt⟩ := o
  constructor <;> simp only [ShiftI.encD, ShiftI.encT] <;> omega

theorem lt_ShiftI_L1_0_12288 (o : ShiftI) : ShiftI.encD o < 64 ∧ ShiftI.encT o + 12288 < 65536 := by
  obtain ⟨d, a, amt⟩ := o
  constructor <;> simp only [ShiftI.encD, ShiftI.encT] <;> omega

theorem lt_GK16_L1 (o : GK16) : GK16.encD o < 64 ∧ GK16.encT o < 65536 := by
  obtain ⟨d, k⟩ := o
  constructor <;> simp only [GK16.encD, GK16.encT] <;> omega

theorem lt_GK32_L2 (o : GK32) : GK32.encD o < 64 ∧ GK32.encT o < 4294967296 := by
  obtain ⟨d, k⟩ := o
  constructor <;> simp only [GK32.encD, GK32.encT] <;> omega

theorem lt_GK64_L3 (o : GK64) : GK64.encD o < 64 ∧ GK64.encT o < 18446744073709551616 := by
  obtain ⟨d, k⟩ := o
  constructor <;> simp only [GK64.encD, GK64.encT] <;> omega

theorem lt_LeaM_L1 (o : LeaM) : LeaM.encD o < 64 ∧ LeaM.encT o < 65536 := by
  obtain ⟨d, base, sz, off⟩ := o
  constructor <;> simp only [LeaM.encD, LeaM.encT] <;> omega

theorem lt_LeaX_L2 (o : LeaX) : LeaX.encD o < 64 ∧ LeaX.encT o < 4294967296 := by
  obtain ⟨d, base, ix, body⟩ := o
  constructor <;> simp only [LeaX.encD, LeaX.encT] <;> omega

theorem lt_GG_L1 (o : GG) : GG.encD o < 64 ∧ GG.encT o < 65536 := by
  obtain ⟨d, a⟩ := o
  constructor <;> simp only [GG.encD, GG.encT] <;> omega

theorem lt_GG_L1_0_4096 (o : GG) : GG.encD o < 64 ∧ GG.encT o + 4096 < 65536 := by
  obtain ⟨d, a⟩ := o
  constructor <;> simp only [GG.encD, GG.encT] <;> omega

theorem lt_GG_L1_0_8192 (o : GG) : GG.encD o < 64 ∧ GG.encT o + 8192 < 65536 := by
  obtain ⟨d, a⟩ := o
  constructor <;> simp only [GG.encD, GG.encT] <;> omega

theorem lt_BitF_L2 (o : BitF) : BitF.encD o < 64 ∧ BitF.encT o < 4294967296 := by
  obtain ⟨d, a, pos, lenm1⟩ := o
  constructor <;> simp only [BitF.encD, BitF.encT] <;> omega

theorem lt_GGI8_L1 (o : GGI8) : GGI8.encD o < 64 ∧ GGI8.encT o < 65536 := by
  obtain ⟨d, a, imm⟩ := o
  constructor <;> simp only [GGI8.encD, GGI8.encT] <;> omega

theorem lt_GGI24_L2 (o : GGI24) : GGI24.encD o < 64 ∧ GGI24.encT o < 4294967296 := by
  obtain ⟨d, a, imm⟩ := o
  constructor <;> simp only [GGI24.encD, GGI24.encT] <;> omega

theorem lt_GGI8_L1_0_64 (o : GGI8) : GGI8.encD o < 64 ∧ GGI8.encT o + 64 < 65536 := by
  obtain ⟨d, a, imm⟩ := o
  constructor <;> simp only [GGI8.encD, GGI8.encT] <;> omega

theorem lt_GGI24_L2_0_64 (o : GGI24) : GGI24.encD o < 64 ∧ GGI24.encT o + 64 < 4294967296 := by
  obtain ⟨d, a, imm⟩ := o
  constructor <;> simp only [GGI24.encD, GGI24.encT] <;> omega

theorem lt_GGI8_L1_0_128 (o : GGI8) : GGI8.encD o < 64 ∧ GGI8.encT o + 128 < 65536 := by
  obtain ⟨d, a, imm⟩ := o
  constructor <;> simp only [GGI8.encD, GGI8.encT] <;> omega

theorem lt_GGI24_L2_0_128 (o : GGI24) : GGI24.encD o < 64 ∧ GGI24.encT o + 128 < 4294967296 := by
  obtain ⟨d, a, imm⟩ := o
  constructor <;> simp only [GGI24.encD, GGI24.encT] <;> omega

theorem lt_BrB_L2 (o : BrB) : BrB.encD o < 64 ∧ BrB.encT o < 4294967296 := by
  obtain ⟨a, b, off⟩ := o
  constructor <;> simp only [BrB.encD, BrB.encT] <;> omega

theorem lt_BrB_L2_1_0 (o : BrB) : BrB.encD o + 1 < 64 ∧ BrB.encT o < 4294967296 := by
  obtain ⟨a, b, off⟩ := o
  constructor <;> simp only [BrB.encD, BrB.encT] <;> omega

theorem lt_BrB_L2_2_0 (o : BrB) : BrB.encD o + 2 < 64 ∧ BrB.encT o < 4294967296 := by
  obtain ⟨a, b, off⟩ := o
  constructor <;> simp only [BrB.encD, BrB.encT] <;> omega

theorem lt_BrB_L2_3_0 (o : BrB) : BrB.encD o + 3 < 64 ∧ BrB.encT o < 4294967296 := by
  obtain ⟨a, b, off⟩ := o
  constructor <;> simp only [BrB.encD, BrB.encT] <;> omega

theorem lt_BrB_L2_4_0 (o : BrB) : BrB.encD o + 4 < 64 ∧ BrB.encT o < 4294967296 := by
  obtain ⟨a, b, off⟩ := o
  constructor <;> simp only [BrB.encD, BrB.encT] <;> omega

theorem lt_BrB_L2_5_0 (o : BrB) : BrB.encD o + 5 < 64 ∧ BrB.encT o < 4294967296 := by
  obtain ⟨a, b, off⟩ := o
  constructor <;> simp only [BrB.encD, BrB.encT] <;> omega

theorem lt_BrZ_L2 (o : BrZ) : BrZ.encD o < 64 ∧ BrZ.encT o < 4294967296 := by
  obtain ⟨a, off⟩ := o
  constructor <;> simp only [BrZ.encD, BrZ.encT] <;> omega

theorem lt_BrZ_L2_1_0 (o : BrZ) : BrZ.encD o + 1 < 64 ∧ BrZ.encT o < 4294967296 := by
  obtain ⟨a, off⟩ := o
  constructor <;> simp only [BrZ.encD, BrZ.encT] <;> omega

theorem lt_BrZ_L2_2_0 (o : BrZ) : BrZ.encD o + 2 < 64 ∧ BrZ.encT o < 4294967296 := by
  obtain ⟨a, off⟩ := o
  constructor <;> simp only [BrZ.encD, BrZ.encT] <;> omega

theorem lt_BrZ_L2_3_0 (o : BrZ) : BrZ.encD o + 3 < 64 ∧ BrZ.encT o < 4294967296 := by
  obtain ⟨a, off⟩ := o
  constructor <;> simp only [BrZ.encD, BrZ.encT] <;> omega

theorem lt_BrZ_L2_4_0 (o : BrZ) : BrZ.encD o + 4 < 64 ∧ BrZ.encT o < 4294967296 := by
  obtain ⟨a, off⟩ := o
  constructor <;> simp only [BrZ.encD, BrZ.encT] <;> omega

theorem lt_BrZ_L2_5_0 (o : BrZ) : BrZ.encD o + 5 < 64 ∧ BrZ.encT o < 4294967296 := by
  obtain ⟨a, off⟩ := o
  constructor <;> simp only [BrZ.encD, BrZ.encT] <;> omega

theorem lt_Jmp_L2 (o : Jmp) : Jmp.encD o < 64 ∧ Jmp.encT o < 4294967296 := by
  obtain ⟨off⟩ := o
  constructor <;> simp only [Jmp.encD, Jmp.encT] <;> omega

theorem lt_GJmp_L2 (o : GJmp) : GJmp.encD o < 64 ∧ GJmp.encT o < 4294967296 := by
  obtain ⟨d, off⟩ := o
  constructor <;> simp only [GJmp.encD, GJmp.encT] <;> omega

theorem lt_GD_L0 (o : GD) : GD.encD o < 64 ∧ GD.encT o < 1 := by
  obtain ⟨d⟩ := o
  constructor <;> simp only [GD.encD, GD.encT] <;> omega

theorem lt_RepO_L2 (o : RepO) : RepO.encD o < 64 ∧ RepO.encT o < 4294967296 := by
  obtain ⟨bl, a, st, wr, mask⟩ := o
  constructor <;> simp only [RepO.encD, RepO.encT] <;> omega

theorem lt_LdM_L1 (o : LdM) : LdM.encD o < 64 ∧ LdM.encT o < 65536 := by
  obtain ⟨d, base, sz, zx, off⟩ := o
  constructor <;> simp only [LdM.encD, LdM.encT] <;> omega

theorem lt_LdX_L2 (o : LdX) : LdX.encD o < 64 ∧ LdX.encT o < 4294967296 := by
  obtain ⟨d, base, sz, zx, ix, body⟩ := o
  constructor <;> simp only [LdX.encD, LdX.encT] <;> omega

theorem lt_LdaX_L2 (o : LdaX) : LdaX.encD o < 64 ∧ LdaX.encT o < 4294967296 := by
  obtain ⟨d, base, sz, zx, sc, gm, ix, body⟩ := o
  constructor <;> simp only [LdaX.encD, LdaX.encT] <;> omega

theorem lt_FeX_L2_0_192 (o : FeX) : FeX.encD o < 64 ∧ FeX.encT o + 192 < 4294967296 := by
  obtain ⟨d, base, sc, gm, ix, body⟩ := o
  constructor <;> simp only [FeX.encD, FeX.encT] <;> omega

theorem lt_LdffM_L1_0_192 (o : LdffM) : LdffM.encD o < 64 ∧ LdffM.encT o + 192 < 65536 := by
  obtain ⟨d, base, off⟩ := o
  constructor <;> simp only [LdffM.encD, LdffM.encT] <;> omega

theorem lt_LdffX_L2_0_192 (o : LdffX) : LdffX.encD o < 64 ∧ LdffX.encT o + 192 < 4294967296 := by
  obtain ⟨d, base, sc, gm, ix, body⟩ := o
  constructor <;> simp only [LdffX.encD, LdffX.encT] <;> omega

theorem lt_StM_L1 (o : StM) : StM.encD o < 64 ∧ StM.encT o < 65536 := by
  obtain ⟨d, base, sz, off⟩ := o
  constructor <;> simp only [StM.encD, StM.encT] <;> omega

theorem lt_StX_L2 (o : StX) : StX.encD o < 64 ∧ StX.encT o < 4294967296 := by
  obtain ⟨d, base, sz, ix, body⟩ := o
  constructor <;> simp only [StX.encD, StX.encT] <;> omega

theorem lt_StlX_L2 (o : StlX) : StlX.encD o < 64 ∧ StlX.encT o < 4294967296 := by
  obtain ⟨d, base, sz, sc, gm, ix, body⟩ := o
  constructor <;> simp only [StlX.encD, StlX.encT] <;> omega

theorem lt_FesetM_L1_0_192 (o : FesetM) : FesetM.encD o < 64 ∧ FesetM.encT o + 192 < 65536 := by
  obtain ⟨val, base, off⟩ := o
  constructor <;> simp only [FesetM.encD, FesetM.encT] <;> omega

theorem lt_FesetX_L2_0_192 (o : FesetX) : FesetX.encD o < 64 ∧ FesetX.encT o + 192 < 4294967296 := by
  obtain ⟨val, base, ix, body⟩ := o
  constructor <;> simp only [FesetX.encD, FesetX.encT] <;> omega

theorem lt_FMemM_L1 (o : FMemM) : FMemM.encD o < 64 ∧ FMemM.encT o < 65536 := by
  obtain ⟨d, base, sz, off⟩ := o
  constructor <;> simp only [FMemM.encD, FMemM.encT] <;> omega

theorem lt_FMemX_L2 (o : FMemX) : FMemX.encD o < 64 ∧ FMemX.encT o < 4294967296 := by
  obtain ⟨d, base, sz, ix, body⟩ := o
  constructor <;> simp only [FMemX.encD, FMemX.encT] <;> omega

theorem lt_PairM_L1_0_192 (o : PairM) : PairM.encD o < 64 ∧ PairM.encT o + 192 < 65536 := by
  obtain ⟨d, base, off⟩ := o
  constructor <;> simp only [PairM.encD, PairM.encT] <;> omega

theorem lt_PairX_L2_0_192 (o : PairX) : PairX.encD o < 64 ∧ PairX.encT o + 192 < 4294967296 := by
  obtain ⟨d, base, ix, body⟩ := o
  constructor <;> simp only [PairX.encD, PairX.encT] <;> omega

theorem lt_FenceO_L0 (o : FenceO) : FenceO.encD o < 64 ∧ FenceO.encT o < 1 := by
  obtain ⟨sc, gm⟩ := o
  constructor <;> simp only [FenceO.encD, FenceO.encT] <;> omega

theorem lt_WaitaX_L2 (o : WaitaX) : WaitaX.encD o < 64 ∧ WaitaX.encT o < 4294967296 := by
  obtain ⟨d, base, sz, zx, sc, gm, ix, body⟩ := o
  constructor <;> simp only [WaitaX.encD, WaitaX.encT] <;> omega

theorem lt_PrefM_L1 (o : PrefM) : PrefM.encD o < 64 ∧ PrefM.encT o < 65536 := by
  obtain ⟨pg, base, sz, off⟩ := o
  constructor <;> simp only [PrefM.encD, PrefM.encT] <;> omega

theorem lt_PrefX_L2 (o : PrefX) : PrefX.encD o < 64 ∧ PrefX.encT o < 4294967296 := by
  obtain ⟨pg, base, sz, ix, body⟩ := o
  constructor <;> simp only [PrefX.encD, PrefX.encT] <;> omega

theorem lt_AtO_L2 (o : AtO) : AtO.encD o < 64 ∧ AtO.encT o < 4294967296 := by
  obtain ⟨d, base, src, sz, sc, gm, acq, rel⟩ := o
  constructor <;> simp only [AtO.encD, AtO.encT] <;> omega

theorem lt_AtO_L2_0_524288 (o : AtO) : AtO.encD o < 64 ∧ AtO.encT o + 524288 < 4294967296 := by
  obtain ⟨d, base, src, sz, sc, gm, acq, rel⟩ := o
  constructor <;> simp only [AtO.encD, AtO.encT] <;> omega

theorem lt_AtO_L2_0_1048576 (o : AtO) : AtO.encD o < 64 ∧ AtO.encT o + 1048576 < 4294967296 := by
  obtain ⟨d, base, src, sz, sc, gm, acq, rel⟩ := o
  constructor <;> simp only [AtO.encD, AtO.encT] <;> omega

theorem lt_AtO_L2_0_1572864 (o : AtO) : AtO.encD o < 64 ∧ AtO.encT o + 1572864 < 4294967296 := by
  obtain ⟨d, base, src, sz, sc, gm, acq, rel⟩ := o
  constructor <;> simp only [AtO.encD, AtO.encT] <;> omega

theorem lt_AtO_L2_0_2097152 (o : AtO) : AtO.encD o < 64 ∧ AtO.encT o + 2097152 < 4294967296 := by
  obtain ⟨d, base, src, sz, sc, gm, acq, rel⟩ := o
  constructor <;> simp only [AtO.encD, AtO.encT] <;> omega

theorem lt_AtO_L2_0_2621440 (o : AtO) : AtO.encD o < 64 ∧ AtO.encT o + 2621440 < 4294967296 := by
  obtain ⟨d, base, src, sz, sc, gm, acq, rel⟩ := o
  constructor <;> simp only [AtO.encD, AtO.encT] <;> omega

theorem lt_AtO_L2_0_3145728 (o : AtO) : AtO.encD o < 64 ∧ AtO.encT o + 3145728 < 4294967296 := by
  obtain ⟨d, base, src, sz, sc, gm, acq, rel⟩ := o
  constructor <;> simp only [AtO.encD, AtO.encT] <;> omega

theorem lt_AtO_L2_0_3670016 (o : AtO) : AtO.encD o < 64 ∧ AtO.encT o + 3670016 < 4294967296 := by
  obtain ⟨d, base, src, sz, sc, gm, acq, rel⟩ := o
  constructor <;> simp only [AtO.encD, AtO.encT] <;> omega

theorem lt_AtO_L2_0_4194304 (o : AtO) : AtO.encD o < 64 ∧ AtO.encT o + 4194304 < 4294967296 := by
  obtain ⟨d, base, src, sz, sc, gm, acq, rel⟩ := o
  constructor <;> simp only [AtO.encD, AtO.encT] <;> omega

theorem lt_CaspO_L2_0_12288 (o : CaspO) : CaspO.encD o < 64 ∧ CaspO.encT o + 12288 < 4294967296 := by
  obtain ⟨d, base, src, sc, gm, acq, rel⟩ := o
  constructor <;> simp only [CaspO.encD, CaspO.encT] <;> omega

theorem lt_SbindO_L2 (o : SbindO) : SbindO.encD o < 64 ∧ SbindO.encT o < 4294967296 := by
  obtain ⟨u, a, kind, dir, esz, dims⟩ := o
  constructor <;> simp only [SbindO.encD, SbindO.encT] <;> omega

theorem lt_SdimR_L2 (o : SdimR) : SdimR.encD o < 64 ∧ SdimR.encT o < 4294967296 := by
  obtain ⟨u, a, b, k⟩ := o
  constructor <;> simp only [SdimR.encD, SdimR.encT] <;> omega

theorem lt_SdimW_L3 (o : SdimW) : SdimW.encD o < 64 ∧ SdimW.encT o < 18446744073709551616 := by
  obtain ⟨u, k, cnt, stride⟩ := o
  constructor <;> simp only [SdimW.encD, SdimW.encT] <;> omega

theorem lt_SidxR_L2 (o : SidxR) : SidxR.encD o < 64 ∧ SidxR.encT o < 4294967296 := by
  obtain ⟨u, a, ish, isz⟩ := o
  constructor <;> simp only [SidxR.encD, SidxR.encT] <;> omega

theorem lt_SidxW_L3 (o : SidxW) : SidxW.encD o < 64 ∧ SidxW.encT o < 18446744073709551616 := by
  obtain ⟨u, a, ish, isz, imm⟩ := o
  constructor <;> simp only [SidxW.encD, SidxW.encT] <;> omega

theorem lt_SdirO_L1 (o : SdirO) : SdirO.encD o < 64 ∧ SdirO.encT o < 65536 := by
  obtain ⟨u, dir, rpt⟩ := o
  constructor <;> simp only [SdirO.encD, SdirO.encT] <;> omega

theorem lt_Units_L0 (o : Units) : Units.encD o < 64 ∧ Units.encT o < 1 := by
  obtain ⟨m⟩ := o
  constructor <;> simp only [Units.encD, Units.encT] <;> omega

theorem lt_UnitG_L1 (o : UnitG) : UnitG.encD o < 64 ∧ UnitG.encT o < 65536 := by
  obtain ⟨u, a⟩ := o
  constructor <;> simp only [UnitG.encD, UnitG.encT] <;> omega

theorem lt_UnitM_L1_0_192 (o : UnitM) : UnitM.encD o < 64 ∧ UnitM.encT o + 192 < 65536 := by
  obtain ⟨u, base, off⟩ := o
  constructor <;> simp only [UnitM.encD, UnitM.encT] <;> omega

theorem lt_UnitX_L2_0_192 (o : UnitX) : UnitX.encD o < 64 ∧ UnitX.encT o + 192 < 4294967296 := by
  obtain ⟨u, base, ix, body⟩ := o
  constructor <;> simp only [UnitX.encD, UnitX.encT] <;> omega

theorem lt_SetO_L1 (o : SetO) : SetO.encD o < 64 ∧ SetO.encT o < 65536 := by
  obtain ⟨u, la, lb, cnt⟩ := o
  constructor <;> simp only [SetO.encD, SetO.encT] <;> omega

theorem lt_UnitG_L1_0_64 (o : UnitG) : UnitG.encD o < 64 ∧ UnitG.encT o + 64 < 65536 := by
  obtain ⟨u, a⟩ := o
  constructor <;> simp only [UnitG.encD, UnitG.encT] <;> omega

theorem lt_ScoordO_L2 (o : ScoordO) : ScoordO.encD o < 64 ∧ ScoordO.encT o < 4294967296 := by
  obtain ⟨u, a, b, cs, dir⟩ := o
  constructor <;> simp only [ScoordO.encD, ScoordO.encT] <;> omega

theorem lt_FP3_L1 (o : FP3) : FP3.encD o < 64 ∧ FP3.encT o < 65536 := by
  obtain ⟨d, a, b, pr⟩ := o
  constructor <;> simp only [FP3.encD, FP3.encT] <;> omega

theorem lt_FP3R_L2 (o : FP3R) : FP3R.encD o < 64 ∧ FP3R.encT o < 4294967296 := by
  obtain ⟨d, a, b, h, pr, rnd⟩ := o
  constructor <;> simp only [FP3R.encD, FP3R.encT] <;> omega

theorem lt_FP4R_L2 (o : FP4R) : FP4R.encD o < 64 ∧ FP4R.encT o < 4294967296 := by
  obtain ⟨d, a, b, c, h, pr, rnd⟩ := o
  constructor <;> simp only [FP4R.encD, FP4R.encT] <;> omega

theorem lt_FP4R_L2_0_2097152 (o : FP4R) : FP4R.encD o < 64 ∧ FP4R.encT o + 2097152 < 4294967296 := by
  obtain ⟨d, a, b, c, h, pr, rnd⟩ := o
  constructor <;> simp only [FP4R.encD, FP4R.encT] <;> omega

theorem lt_FP4R_L2_0_4194304 (o : FP4R) : FP4R.encD o < 64 ∧ FP4R.encT o + 4194304 < 4294967296 := by
  obtain ⟨d, a, b, c, h, pr, rnd⟩ := o
  constructor <;> simp only [FP4R.encD, FP4R.encT] <;> omega

theorem lt_FP4R_L2_0_6291456 (o : FP4R) : FP4R.encD o < 64 ∧ FP4R.encT o + 6291456 < 4294967296 := by
  obtain ⟨d, a, b, c, h, pr, rnd⟩ := o
  constructor <;> simp only [FP4R.encD, FP4R.encT] <;> omega

theorem lt_FP3H_L2 (o : FP3H) : FP3H.encD o < 64 ∧ FP3H.encT o < 4294967296 := by
  obtain ⟨d, a, b, h, pr⟩ := o
  constructor <;> simp only [FP3H.encD, FP3H.encT] <;> omega

theorem lt_FP2_L1 (o : FP2) : FP2.encD o < 64 ∧ FP2.encT o < 65536 := by
  obtain ⟨d, a, pr⟩ := o
  constructor <;> simp only [FP2.encD, FP2.encT] <;> omega

theorem lt_FP2H_L2 (o : FP2H) : FP2H.encD o < 64 ∧ FP2H.encT o < 4294967296 := by
  obtain ⟨d, a, h, pr⟩ := o
  constructor <;> simp only [FP2H.encD, FP2H.encT] <;> omega

theorem lt_FP2H_L2_0_2097152 (o : FP2H) : FP2H.encD o < 64 ∧ FP2H.encT o + 2097152 < 4294967296 := by
  obtain ⟨d, a, h, pr⟩ := o
  constructor <;> simp only [FP2H.encD, FP2H.encT] <;> omega

theorem lt_FP3H_L2_0_4194304 (o : FP3H) : FP3H.encD o < 64 ∧ FP3H.encT o + 4194304 < 4294967296 := by
  obtain ⟨d, a, b, h, pr⟩ := o
  constructor <;> simp only [FP3H.encD, FP3H.encT] <;> omega

theorem lt_FC3_L1 (o : FC3) : FC3.encD o < 64 ∧ FC3.encT o < 65536 := by
  obtain ⟨d, a, b, pr⟩ := o
  constructor <;> simp only [FC3.encD, FC3.encT] <;> omega

theorem lt_FC3H_L2 (o : FC3H) : FC3H.encD o < 64 ∧ FC3H.encT o < 4294967296 := by
  obtain ⟨d, a, b, h, pr⟩ := o
  constructor <;> simp only [FC3H.encD, FC3H.encT] <;> omega

theorem lt_FC3_L1_0_16384 (o : FC3) : FC3.encD o < 64 ∧ FC3.encT o + 16384 < 65536 := by
  obtain ⟨d, a, b, pr⟩ := o
  constructor <;> simp only [FC3.encD, FC3.encT] <;> omega

theorem lt_FC3H_L2_0_67108864 (o : FC3H) : FC3H.encD o < 64 ∧ FC3H.encT o + 67108864 < 4294967296 := by
  obtain ⟨d, a, b, h, pr⟩ := o
  constructor <;> simp only [FC3H.encD, FC3H.encT] <;> omega

theorem lt_FC3_L1_0_32768 (o : FC3) : FC3.encD o < 64 ∧ FC3.encT o + 32768 < 65536 := by
  obtain ⟨d, a, b, pr⟩ := o
  constructor <;> simp only [FC3.encD, FC3.encT] <;> omega

theorem lt_FC3H_L2_0_134217728 (o : FC3H) : FC3H.encD o < 64 ∧ FC3H.encT o + 134217728 < 4294967296 := by
  obtain ⟨d, a, b, h, pr⟩ := o
  constructor <;> simp only [FC3H.encD, FC3H.encT] <;> omega

theorem lt_FC3_L1_0_49152 (o : FC3) : FC3.encD o < 64 ∧ FC3.encT o + 49152 < 65536 := by
  obtain ⟨d, a, b, pr⟩ := o
  constructor <;> simp only [FC3.encD, FC3.encT] <;> omega

theorem lt_FC3H_L2_0_201326592 (o : FC3H) : FC3H.encD o < 64 ∧ FC3H.encT o + 201326592 < 4294967296 := by
  obtain ⟨d, a, b, h, pr⟩ := o
  constructor <;> simp only [FC3H.encD, FC3H.encT] <;> omega

theorem lt_FC2_L1 (o : FC2) : FC2.encD o < 64 ∧ FC2.encT o < 65536 := by
  obtain ⟨d, a, pr⟩ := o
  constructor <;> simp only [FC2.encD, FC2.encT] <;> omega

theorem lt_CvtR_L1 (o : CvtR) : CvtR.encD o < 64 ∧ CvtR.encT o < 65536 := by
  obtain ⟨d, a, sf, df⟩ := o
  constructor <;> simp only [CvtR.encD, CvtR.encT] <;> omega

theorem lt_CvtX_L2 (o : CvtX) : CvtX.encD o < 64 ∧ CvtX.encT o < 4294967296 := by
  obtain ⟨d, a, h, sf, df, rnd⟩ := o
  constructor <;> simp only [CvtX.encD, CvtX.encT] <;> omega

theorem lt_CviR_L1 (o : CviR) : CviR.encD o < 64 ∧ CviR.encT o < 65536 := by
  obtain ⟨d, a, sf, un⟩ := o
  constructor <;> simp only [CviR.encD, CviR.encT] <;> omega

theorem lt_CviX_L2 (o : CviX) : CviX.encD o < 64 ∧ CviX.encT o < 4294967296 := by
  obtain ⟨d, a, h, sf, un, rnd⟩ := o
  constructor <;> simp only [CviX.encD, CviX.encT] <;> omega

theorem lt_IcvR_L1 (o : IcvR) : IcvR.encD o < 64 ∧ IcvR.encT o < 65536 := by
  obtain ⟨d, a, df, un⟩ := o
  constructor <;> simp only [IcvR.encD, IcvR.encT] <;> omega

theorem lt_IcvX_L2 (o : IcvX) : IcvX.encD o < 64 ∧ IcvX.encT o < 4294967296 := by
  obtain ⟨d, a, h, df, un, rnd⟩ := o
  constructor <;> simp only [IcvX.encD, IcvX.encT] <;> omega

theorem lt_GF_L1 (o : GF) : GF.encD o < 64 ∧ GF.encT o < 65536 := by
  obtain ⟨d, a⟩ := o
  constructor <;> simp only [GF.encD, GF.encT] <;> omega

theorem lt_FG_L1 (o : FG) : FG.encD o < 64 ∧ FG.encT o < 65536 := by
  obtain ⟨d, a⟩ := o
  constructor <;> simp only [FG.encD, FG.encT] <;> omega

theorem lt_FK16_L1 (o : FK16) : FK16.encD o < 64 ∧ FK16.encT o < 65536 := by
  obtain ⟨d, k⟩ := o
  constructor <;> simp only [FK16.encD, FK16.encT] <;> omega

theorem lt_FK32_L2 (o : FK32) : FK32.encD o < 64 ∧ FK32.encT o < 4294967296 := by
  obtain ⟨d, k⟩ := o
  constructor <;> simp only [FK32.encD, FK32.encT] <;> omega

theorem lt_FK64_L3 (o : FK64) : FK64.encD o < 64 ∧ FK64.encT o < 18446744073709551616 := by
  obtain ⟨d, k⟩ := o
  constructor <;> simp only [FK64.encD, FK64.encT] <;> omega

theorem lt_F4H_L2 (o : F4H) : F4H.encD o < 64 ∧ F4H.encT o < 4294967296 := by
  obtain ⟨d, a, b, c, h⟩ := o
  constructor <;> simp only [F4H.encD, F4H.encT] <;> omega

theorem lt_PE3_L1 (o : PE3) : PE3.encD o < 64 ∧ PE3.encT o < 65536 := by
  obtain ⟨d, a, b, e⟩ := o
  constructor <;> simp only [PE3.encD, PE3.encT] <;> omega

theorem lt_PE3H_L2 (o : PE3H) : PE3H.encD o < 64 ∧ PE3H.encT o < 4294967296 := by
  obtain ⟨d, a, b, h, e⟩ := o
  constructor <;> simp only [PE3H.encD, PE3H.encT] <;> omega

theorem lt_PE4H_L2 (o : PE4H) : PE4H.encD o < 64 ∧ PE4H.encT o < 4294967296 := by
  obtain ⟨d, a, b, c, h, e⟩ := o
  constructor <;> simp only [PE4H.encD, PE4H.encT] <;> omega

theorem lt_PBc_L1 (o : PBc) : PBc.encD o < 64 ∧ PBc.encT o < 65536 := by
  obtain ⟨d, a, lane, e⟩ := o
  constructor <;> simp only [PBc.encD, PBc.encT] <;> omega

theorem lt_PBcH_L2 (o : PBcH) : PBcH.encD o < 64 ∧ PBcH.encT o < 4294967296 := by
  obtain ⟨d, a, lane, h, e⟩ := o
  constructor <;> simp only [PBcH.encD, PBcH.encT] <;> omega

theorem lt_PW3_L1 (o : PW3) : PW3.encD o < 64 ∧ PW3.encT o < 65536 := by
  obtain ⟨d, a, b, e, wf⟩ := o
  constructor <;> simp only [PW3.encD, PW3.encT] <;> omega

theorem lt_PW3H_L2 (o : PW3H) : PW3H.encD o < 64 ∧ PW3H.encT o < 4294967296 := by
  obtain ⟨d, a, b, h, e, wf, part⟩ := o
  constructor <;> simp only [PW3H.encD, PW3H.encT] <;> omega

theorem lt_PW2_L1 (o : PW2) : PW2.encD o < 64 ∧ PW2.encT o < 65536 := by
  obtain ⟨d, a, e, wf⟩ := o
  constructor <;> simp only [PW2.encD, PW2.encT] <;> omega

theorem lt_PW2H_L2 (o : PW2H) : PW2H.encD o < 64 ∧ PW2H.encT o < 4294967296 := by
  obtain ⟨d, a, h, e, wf, part⟩ := o
  constructor <;> simp only [PW2H.encD, PW2H.encT] <;> omega

theorem lt_PW4H_L2 (o : PW4H) : PW4H.encD o < 64 ∧ PW4H.encT o < 4294967296 := by
  obtain ⟨d, a, b, c, h, e, wf, part⟩ := o
  constructor <;> simp only [PW4H.encD, PW4H.encT] <;> omega

theorem lt_PWcH_L2 (o : PWcH) : PWcH.encD o < 64 ∧ PWcH.encT o < 4294967296 := by
  obtain ⟨d, a, c, ha, hc, e, wf, part⟩ := o
  constructor <;> simp only [PWcH.encD, PWcH.encT] <;> omega

theorem lt_PE3_L1_0_16384 (o : PE3) : PE3.encD o < 64 ∧ PE3.encT o + 16384 < 65536 := by
  obtain ⟨d, a, b, e⟩ := o
  constructor <;> simp only [PE3.encD, PE3.encT] <;> omega

theorem lt_PE3H_L2_0_67108864 (o : PE3H) : PE3H.encD o < 64 ∧ PE3H.encT o + 67108864 < 4294967296 := by
  obtain ⟨d, a, b, h, e⟩ := o
  constructor <;> simp only [PE3H.encD, PE3H.encT] <;> omega

theorem lt_PE3_L1_0_32768 (o : PE3) : PE3.encD o < 64 ∧ PE3.encT o + 32768 < 65536 := by
  obtain ⟨d, a, b, e⟩ := o
  constructor <;> simp only [PE3.encD, PE3.encT] <;> omega

theorem lt_PE3H_L2_0_134217728 (o : PE3H) : PE3H.encD o < 64 ∧ PE3H.encT o + 134217728 < 4294967296 := by
  obtain ⟨d, a, b, h, e⟩ := o
  constructor <;> simp only [PE3H.encD, PE3H.encT] <;> omega

theorem lt_PE3_L1_0_49152 (o : PE3) : PE3.encD o < 64 ∧ PE3.encT o + 49152 < 65536 := by
  obtain ⟨d, a, b, e⟩ := o
  constructor <;> simp only [PE3.encD, PE3.encT] <;> omega

theorem lt_PE3H_L2_0_201326592 (o : PE3H) : PE3H.encD o < 64 ∧ PE3H.encT o + 201326592 < 4294967296 := by
  obtain ⟨d, a, b, h, e⟩ := o
  constructor <;> simp only [PE3H.encD, PE3H.encT] <;> omega

theorem lt_F3_L1 (o : F3) : F3.encD o < 64 ∧ F3.encT o < 65536 := by
  obtain ⟨d, a, b⟩ := o
  constructor <;> simp only [F3.encD, F3.encT] <;> omega

theorem lt_F3H_L2 (o : F3H) : F3H.encD o < 64 ∧ F3H.encT o < 4294967296 := by
  obtain ⟨d, a, b, h⟩ := o
  constructor <;> simp only [F3H.encD, F3H.encT] <;> omega

theorem lt_F3_L1_0_4096 (o : F3) : F3.encD o < 64 ∧ F3.encT o + 4096 < 65536 := by
  obtain ⟨d, a, b⟩ := o
  constructor <;> simp only [F3.encD, F3.encT] <;> omega

theorem lt_F3H_L2_0_16777216 (o : F3H) : F3H.encD o < 64 ∧ F3H.encT o + 16777216 < 4294967296 := by
  obtain ⟨d, a, b, h⟩ := o
  constructor <;> simp only [F3H.encD, F3H.encT] <;> omega

theorem lt_F3_L1_0_8192 (o : F3) : F3.encD o < 64 ∧ F3.encT o + 8192 < 65536 := by
  obtain ⟨d, a, b⟩ := o
  constructor <;> simp only [F3.encD, F3.encT] <;> omega

theorem lt_F3H_L2_0_33554432 (o : F3H) : F3H.encD o < 64 ∧ F3H.encT o + 33554432 < 4294967296 := by
  obtain ⟨d, a, b, h⟩ := o
  constructor <;> simp only [F3H.encD, F3H.encT] <;> omega

theorem lt_F3_L1_0_12288 (o : F3) : F3.encD o < 64 ∧ F3.encT o + 12288 < 65536 := by
  obtain ⟨d, a, b⟩ := o
  constructor <;> simp only [F3.encD, F3.encT] <;> omega

theorem lt_F3H_L2_0_50331648 (o : F3H) : F3H.encD o < 64 ∧ F3H.encT o + 50331648 < 4294967296 := by
  obtain ⟨d, a, b, h⟩ := o
  constructor <;> simp only [F3H.encD, F3H.encT] <;> omega

theorem lt_F2_L1 (o : F2) : F2.encD o < 64 ∧ F2.encT o < 65536 := by
  obtain ⟨d, a⟩ := o
  constructor <;> simp only [F2.encD, F2.encT] <;> omega

theorem lt_F2H_L2 (o : F2H) : F2H.encD o < 64 ∧ F2H.encT o < 4294967296 := by
  obtain ⟨d, a, h⟩ := o
  constructor <;> simp only [F2H.encD, F2H.encT] <;> omega

theorem lt_FS2_L1 (o : FS2) : FS2.encD o < 64 ∧ FS2.encT o < 65536 := by
  obtain ⟨d, a, pr⟩ := o
  constructor <;> simp only [FS2.encD, FS2.encT] <;> omega

theorem lt_FS2H_L2 (o : FS2H) : FS2H.encD o < 64 ∧ FS2H.encT o < 4294967296 := by
  obtain ⟨d, a, h, pr⟩ := o
  constructor <;> simp only [FS2H.encD, FS2H.encT] <;> omega

theorem lt_SendO_L2 (o : SendO) : SendO.encD o < 64 ∧ SendO.encT o < 4294967296 := by
  obtain ⟨d, a, cls, nm1, sc, gm⟩ := o
  constructor <;> simp only [SendO.encD, SendO.encT] <;> omega

theorem lt_SendnO_L3 (o : SendnO) : SendnO.encD o < 64 ∧ SendnO.encT o < 18446744073709551616 := by
  obtain ⟨d, cls, nm1, dx, dy, sc, gm⟩ := o
  constructor <;> simp only [SendnO.encD, SendnO.encT] <;> omega

theorem lt_RecvR_L1 (o : RecvR) : RecvR.encD o < 64 ∧ RecvR.encT o < 65536 := by
  obtain ⟨d, a, cls, sc, gm⟩ := o
  constructor <;> simp only [RecvR.encD, RecvR.encT] <;> omega

theorem lt_RecvX_L2 (o : RecvX) : RecvX.encD o < 64 ∧ RecvX.encT o < 4294967296 := by
  obtain ⟨d, a, cls, sc, gm⟩ := o
  constructor <;> simp only [RecvX.encD, RecvX.encT] <;> omega

theorem lt_RecvR_L1_0_256 (o : RecvR) : RecvR.encD o < 64 ∧ RecvR.encT o + 256 < 65536 := by
  obtain ⟨d, a, cls, sc, gm⟩ := o
  constructor <;> simp only [RecvR.encD, RecvR.encT] <;> omega

theorem lt_RecvX_L2_0_256 (o : RecvX) : RecvX.encD o < 64 ∧ RecvX.encT o + 256 < 4294967296 := by
  obtain ⟨d, a, cls, sc, gm⟩ := o
  constructor <;> simp only [RecvX.encD, RecvX.encT] <;> omega

theorem lt_GCls_L1 (o : GCls) : GCls.encD o < 64 ∧ GCls.encT o < 65536 := by
  obtain ⟨d, cls⟩ := o
  constructor <;> simp only [GCls.encD, GCls.encT] <;> omega

theorem lt_GCls_L2 (o : GCls) : GCls.encD o < 64 ∧ GCls.encT o < 4294967296 := by
  obtain ⟨d, cls⟩ := o
  constructor <;> simp only [GCls.encD, GCls.encT] <;> omega

theorem lt_GCls_L1_0_4096 (o : GCls) : GCls.encD o < 64 ∧ GCls.encT o + 4096 < 65536 := by
  obtain ⟨d, cls⟩ := o
  constructor <;> simp only [GCls.encD, GCls.encT] <;> omega

theorem lt_GCls_L2_0_16777216 (o : GCls) : GCls.encD o < 64 ∧ GCls.encT o + 16777216 < 4294967296 := by
  obtain ⟨d, cls⟩ := o
  constructor <;> simp only [GCls.encD, GCls.encT] <;> omega

theorem lt_QendO_L1_48_0 (o : QendO) : QendO.encD o + 48 < 64 ∧ QendO.encT o < 65536 := by
  obtain ⟨port, a⟩ := o
  constructor <;> simp only [QendO.encD, QendO.encT] <;> omega

theorem lt_QctlO_L1 (o : QctlO) : QctlO.encD o < 64 ∧ QctlO.encT o < 65536 := by
  obtain ⟨d, a, pc⟩ := o
  constructor <;> simp only [QctlO.encD, QctlO.encT] <;> omega

theorem lt_QctlO_L2 (o : QctlO) : QctlO.encD o < 64 ∧ QctlO.encT o < 4294967296 := by
  obtain ⟨d, a, pc⟩ := o
  constructor <;> simp only [QctlO.encD, QctlO.encT] <;> omega

theorem lt_QctlO_L1_0_256 (o : QctlO) : QctlO.encD o < 64 ∧ QctlO.encT o + 256 < 65536 := by
  obtain ⟨d, a, pc⟩ := o
  constructor <;> simp only [QctlO.encD, QctlO.encT] <;> omega

theorem lt_QctlO_L2_0_256 (o : QctlO) : QctlO.encD o < 64 ∧ QctlO.encT o + 256 < 4294967296 := by
  obtain ⟨d, a, pc⟩ := o
  constructor <;> simp only [QctlO.encD, QctlO.encT] <;> omega

theorem lt_QctlO_L1_0_512 (o : QctlO) : QctlO.encD o < 64 ∧ QctlO.encT o + 512 < 65536 := by
  obtain ⟨d, a, pc⟩ := o
  constructor <;> simp only [QctlO.encD, QctlO.encT] <;> omega

theorem lt_QctlO_L2_0_512 (o : QctlO) : QctlO.encD o < 64 ∧ QctlO.encT o + 512 < 4294967296 := by
  obtain ⟨d, a, pc⟩ := o
  constructor <;> simp only [QctlO.encD, QctlO.encT] <;> omega

theorem lt_XferO_L3 (o : XferO) : XferO.encD o < 64 ∧ XferO.encT o < 18446744073709551616 := by
  obtain ⟨d, a, b, ctr, rmod⟩ := o
  constructor <;> simp only [XferO.encD, XferO.encT] <;> omega

theorem lt_XferI_L3 (o : XferI) : XferI.encD o < 64 ∧ XferI.encT o < 18446744073709551616 := by
  obtain ⟨d, a, b, c, ctr, esz, rmod, ish, isz⟩ := o
  constructor <;> simp only [XferI.encD, XferI.encT] <;> omega

theorem lt_CtrO_L1 (o : CtrO) : CtrO.encD o < 64 ∧ CtrO.encT o < 65536 := by
  obtain ⟨d, a, ctr⟩ := o
  constructor <;> simp only [CtrO.encD, CtrO.encT] <;> omega

theorem lt_CtrO_L2 (o : CtrO) : CtrO.encD o < 64 ∧ CtrO.encT o < 4294967296 := by
  obtain ⟨d, a, ctr⟩ := o
  constructor <;> simp only [CtrO.encD, CtrO.encT] <;> omega

theorem lt_MbindO_L3 (o : MbindO) : MbindO.encD o < 64 ∧ MbindO.encT o < 18446744073709551616 := by
  obtain ⟨mi, a, b, slot, trig, cls⟩ := o
  constructor <;> simp only [MbindO.encD, MbindO.encT] <;> omega

theorem lt_GbarA_L1 (o : GbarA) : GbarA.encD o < 64 ∧ GbarA.encT o < 65536 := by
  obtain ⟨gm⟩ := o
  constructor <;> simp only [GbarA.encD, GbarA.encT] <;> omega

theorem lt_GbarG_L1_4_0 (o : GbarG) : GbarG.encD o + 4 < 64 ∧ GbarG.encT o < 65536 := by
  obtain ⟨gm, a⟩ := o
  constructor <;> simp only [GbarG.encD, GbarG.encT] <;> omega

theorem lt_GbarG_L1_8_0 (o : GbarG) : GbarG.encD o + 8 < 64 ∧ GbarG.encT o < 65536 := by
  obtain ⟨gm, a⟩ := o
  constructor <;> simp only [GbarG.encD, GbarG.encT] <;> omega

theorem lt_GredR_L1 (o : GredR) : GredR.encD o < 64 ∧ GredR.encT o < 65536 := by
  obtain ⟨d, a, gm, file, ty⟩ := o
  constructor <;> simp only [GredR.encD, GredR.encT] <;> omega

theorem lt_GredX_L2 (o : GredX) : GredX.encD o < 64 ∧ GredX.encT o < 4294967296 := by
  obtain ⟨d, a, gm, file, ty⟩ := o
  constructor <;> simp only [GredX.encD, GredX.encT] <;> omega

theorem lt_GredR_L1_0_4096 (o : GredR) : GredR.encD o < 64 ∧ GredR.encT o + 4096 < 65536 := by
  obtain ⟨d, a, gm, file, ty⟩ := o
  constructor <;> simp only [GredR.encD, GredR.encT] <;> omega

theorem lt_GredX_L2_0_16777216 (o : GredX) : GredX.encD o < 64 ∧ GredX.encT o + 16777216 < 4294967296 := by
  obtain ⟨d, a, gm, file, ty⟩ := o
  constructor <;> simp only [GredX.encD, GredX.encT] <;> omega

theorem lt_GredR_L1_0_8192 (o : GredR) : GredR.encD o < 64 ∧ GredR.encT o + 8192 < 65536 := by
  obtain ⟨d, a, gm, file, ty⟩ := o
  constructor <;> simp only [GredR.encD, GredR.encT] <;> omega

theorem lt_GredX_L2_0_33554432 (o : GredX) : GredX.encD o < 64 ∧ GredX.encT o + 33554432 < 4294967296 := by
  obtain ⟨d, a, gm, file, ty⟩ := o
  constructor <;> simp only [GredX.encD, GredX.encT] <;> omega

theorem lt_GredR_L1_0_12288 (o : GredR) : GredR.encD o < 64 ∧ GredR.encT o + 12288 < 65536 := by
  obtain ⟨d, a, gm, file, ty⟩ := o
  constructor <;> simp only [GredR.encD, GredR.encT] <;> omega

theorem lt_GredX_L2_0_50331648 (o : GredX) : GredX.encD o < 64 ∧ GredX.encT o + 50331648 < 4294967296 := by
  obtain ⟨d, a, gm, file, ty⟩ := o
  constructor <;> simp only [GredX.encD, GredX.encT] <;> omega

theorem lt_GredR_L1_0_16384 (o : GredR) : GredR.encD o < 64 ∧ GredR.encT o + 16384 < 65536 := by
  obtain ⟨d, a, gm, file, ty⟩ := o
  constructor <;> simp only [GredR.encD, GredR.encT] <;> omega

theorem lt_GredX_L2_0_67108864 (o : GredX) : GredX.encD o < 64 ∧ GredX.encT o + 67108864 < 4294967296 := by
  obtain ⟨d, a, gm, file, ty⟩ := o
  constructor <;> simp only [GredX.encD, GredX.encT] <;> omega

theorem lt_GcastR_L1 (o : GcastR) : GcastR.encD o < 64 ∧ GcastR.encT o < 65536 := by
  obtain ⟨d, a, gm, file⟩ := o
  constructor <;> simp only [GcastR.encD, GcastR.encT] <;> omega

theorem lt_GcastX_L2 (o : GcastX) : GcastX.encD o < 64 ∧ GcastX.encT o < 4294967296 := by
  obtain ⟨d, a, c, gm, file⟩ := o
  constructor <;> simp only [GcastX.encD, GcastX.encT] <;> omega

theorem lt_GsumO_L2 (o : GsumO) : GsumO.encD o < 64 ∧ GsumO.encT o < 4294967296 := by
  obtain ⟨d, a, gm⟩ := o
  constructor <;> simp only [GsumO.encD, GsumO.encT] <;> omega

theorem lt_SemR_L1 (o : SemR) : SemR.encD o < 64 ∧ SemR.encT o < 65536 := by
  obtain ⟨d, a, b, sc, gm⟩ := o
  constructor <;> simp only [SemR.encD, SemR.encT] <;> omega

theorem lt_SemX_L2 (o : SemX) : SemX.encD o < 64 ∧ SemX.encT o < 4294967296 := by
  obtain ⟨d, a, b, sc, gm⟩ := o
  constructor <;> simp only [SemX.encD, SemX.encT] <;> omega

theorem lt_GG_L2 (o : GG) : GG.encD o < 64 ∧ GG.encT o < 4294967296 := by
  obtain ⟨d, a⟩ := o
  constructor <;> simp only [GG.encD, GG.encT] <;> omega

theorem lt_GG_L1_0_64 (o : GG) : GG.encD o < 64 ∧ GG.encT o + 64 < 65536 := by
  obtain ⟨d, a⟩ := o
  constructor <;> simp only [GG.encD, GG.encT] <;> omega

theorem lt_GG_L2_0_64 (o : GG) : GG.encD o < 64 ∧ GG.encT o + 64 < 4294967296 := by
  obtain ⟨d, a⟩ := o
  constructor <;> simp only [GG.encD, GG.encT] <;> omega

theorem lt_GG_L1_0_128 (o : GG) : GG.encD o < 64 ∧ GG.encT o + 128 < 65536 := by
  obtain ⟨d, a⟩ := o
  constructor <;> simp only [GG.encD, GG.encT] <;> omega

theorem lt_GG_L2_0_128 (o : GG) : GG.encD o < 64 ∧ GG.encT o + 128 < 4294967296 := by
  obtain ⟨d, a⟩ := o
  constructor <;> simp only [GG.encD, GG.encT] <;> omega

theorem lt_GG_L1_0_192 (o : GG) : GG.encD o < 64 ∧ GG.encT o + 192 < 65536 := by
  obtain ⟨d, a⟩ := o
  constructor <;> simp only [GG.encD, GG.encT] <;> omega

theorem lt_GG_L2_0_192 (o : GG) : GG.encD o < 64 ∧ GG.encT o + 192 < 4294967296 := by
  obtain ⟨d, a⟩ := o
  constructor <;> simp only [GG.encD, GG.encT] <;> omega

theorem lt_GD_L1_0_256 (o : GD) : GD.encD o < 64 ∧ GD.encT o + 256 < 65536 := by
  obtain ⟨d⟩ := o
  constructor <;> simp only [GD.encD, GD.encT] <;> omega

theorem lt_GD_L2_0_256 (o : GD) : GD.encD o < 64 ∧ GD.encT o + 256 < 4294967296 := by
  obtain ⟨d⟩ := o
  constructor <;> simp only [GD.encD, GD.encT] <;> omega

theorem lt_GD_L1_0_320 (o : GD) : GD.encD o < 64 ∧ GD.encT o + 320 < 65536 := by
  obtain ⟨d⟩ := o
  constructor <;> simp only [GD.encD, GD.encT] <;> omega

theorem lt_GD_L2_0_320 (o : GD) : GD.encD o < 64 ∧ GD.encT o + 320 < 4294967296 := by
  obtain ⟨d⟩ := o
  constructor <;> simp only [GD.encD, GD.encT] <;> omega

theorem lt_EvcN_L1 (o : EvcN) : EvcN.encD o < 64 ∧ EvcN.encT o < 65536 := by
  obtain ⟨d, n⟩ := o
  constructor <;> simp only [EvcN.encD, EvcN.encT] <;> omega

theorem lt_EvcN_L2 (o : EvcN) : EvcN.encD o < 64 ∧ EvcN.encT o < 4294967296 := by
  obtain ⟨d, n⟩ := o
  constructor <;> simp only [EvcN.encD, EvcN.encT] <;> omega

theorem lt_EvcA_L1_0_1024 (o : EvcA) : EvcA.encD o < 64 ∧ EvcA.encT o + 1024 < 65536 := by
  obtain ⟨d, a, n⟩ := o
  constructor <;> simp only [EvcA.encD, EvcA.encT] <;> omega

theorem lt_EvcA_L2_0_1024 (o : EvcA) : EvcA.encD o < 64 ∧ EvcA.encT o + 1024 < 4294967296 := by
  obtain ⟨d, a, n⟩ := o
  constructor <;> simp only [EvcA.encD, EvcA.encT] <;> omega

theorem lt_EvcN_L1_0_2048 (o : EvcN) : EvcN.encD o < 64 ∧ EvcN.encT o + 2048 < 65536 := by
  obtain ⟨d, n⟩ := o
  constructor <;> simp only [EvcN.encD, EvcN.encT] <;> omega

theorem lt_EvcN_L2_0_2048 (o : EvcN) : EvcN.encD o < 64 ∧ EvcN.encT o + 2048 < 4294967296 := by
  obtain ⟨d, n⟩ := o
  constructor <;> simp only [EvcN.encD, EvcN.encT] <;> omega

theorem lt_VbM_L1_0_192 (o : VbM) : VbM.encD o < 64 ∧ VbM.encT o + 192 < 65536 := by
  obtain ⟨cs, base, off⟩ := o
  constructor <;> simp only [VbM.encD, VbM.encT] <;> omega

theorem lt_VbX_L2_0_192 (o : VbX) : VbX.encD o < 64 ∧ VbX.encT o + 192 < 4294967296 := by
  obtain ⟨cs, base, ix, body⟩ := o
  constructor <;> simp only [VbX.encD, VbX.encT] <;> omega

theorem lt_VbOff_L1_4_0 (o : VbOff) : VbOff.encD o + 4 < 64 ∧ VbOff.encT o < 65536 := by
  obtain ⟨cs⟩ := o
  constructor <;> simp only [VbOff.encD, VbOff.encT] <;> omega

theorem lt_CldO_L2 (o : CldO) : CldO.encD o < 64 ∧ CldO.encT o < 4294967296 := by
  obtain ⟨d, a, cs, sx⟩ := o
  constructor <;> simp only [CldO.encD, CldO.encT] <;> omega

theorem lt_CvO_L2 (o : CvO) : CvO.encD o < 64 ∧ CvO.encT o < 4294967296 := by
  obtain ⟨d, a, cs⟩ := o
  constructor <;> simp only [CvO.encD, CvO.encT] <;> omega

theorem lt_CamoO_L2 (o : CamoO) : CamoO.encD o < 64 ∧ CamoO.encT o < 4294967296 := by
  obtain ⟨d, a, c, cs, acq, rel⟩ := o
  constructor <;> simp only [CamoO.encD, CamoO.encT] <;> omega

theorem lt_CamoO_L2_0_16777216 (o : CamoO) : CamoO.encD o < 64 ∧ CamoO.encT o + 16777216 < 4294967296 := by
  obtain ⟨d, a, c, cs, acq, rel⟩ := o
  constructor <;> simp only [CamoO.encD, CamoO.encT] <;> omega

theorem lt_CamoO_L2_0_33554432 (o : CamoO) : CamoO.encD o < 64 ∧ CamoO.encT o + 33554432 < 4294967296 := by
  obtain ⟨d, a, c, cs, acq, rel⟩ := o
  constructor <;> simp only [CamoO.encD, CamoO.encT] <;> omega

theorem lt_CamoO_L2_0_50331648 (o : CamoO) : CamoO.encD o < 64 ∧ CamoO.encT o + 50331648 < 4294967296 := by
  obtain ⟨d, a, c, cs, acq, rel⟩ := o
  constructor <;> simp only [CamoO.encD, CamoO.encT] <;> omega

theorem lt_CamoO_L2_0_67108864 (o : CamoO) : CamoO.encD o < 64 ∧ CamoO.encT o + 67108864 < 4294967296 := by
  obtain ⟨d, a, c, cs, acq, rel⟩ := o
  constructor <;> simp only [CamoO.encD, CamoO.encT] <;> omega

theorem lt_CamoO_L2_0_83886080 (o : CamoO) : CamoO.encD o < 64 ∧ CamoO.encT o + 83886080 < 4294967296 := by
  obtain ⟨d, a, c, cs, acq, rel⟩ := o
  constructor <;> simp only [CamoO.encD, CamoO.encT] <;> omega

theorem lt_CamoO_L2_0_100663296 (o : CamoO) : CamoO.encD o < 64 ∧ CamoO.encT o + 100663296 < 4294967296 := by
  obtain ⟨d, a, c, cs, acq, rel⟩ := o
  constructor <;> simp only [CamoO.encD, CamoO.encT] <;> omega

theorem lt_CamoO_L2_0_117440512 (o : CamoO) : CamoO.encD o < 64 ∧ CamoO.encT o + 117440512 < 4294967296 := by
  obtain ⟨d, a, c, cs, acq, rel⟩ := o
  constructor <;> simp only [CamoO.encD, CamoO.encT] <;> omega

theorem lt_CamoO_L2_0_134217728 (o : CamoO) : CamoO.encD o < 64 ∧ CamoO.encT o + 134217728 < 4294967296 := by
  obtain ⟨d, a, c, cs, acq, rel⟩ := o
  constructor <;> simp only [CamoO.encD, CamoO.encT] <;> omega

theorem lt_CamoO_L2_0_150994944 (o : CamoO) : CamoO.encD o < 64 ∧ CamoO.encT o + 150994944 < 4294967296 := by
  obtain ⟨d, a, c, cs, acq, rel⟩ := o
  constructor <;> simp only [CamoO.encD, CamoO.encT] <;> omega

theorem lt_CinvO_L1 (o : CinvO) : CinvO.encD o < 64 ∧ CinvO.encT o < 65536 := by
  obtain ⟨sc, gm, a, cs⟩ := o
  constructor <;> simp only [CinvO.encD, CinvO.encT] <;> omega

theorem lt_CinvA_L1_32_0 (o : CinvA) : CinvA.encD o + 32 < 64 ∧ CinvA.encT o < 65536 := by
  obtain ⟨sc, gm, cs⟩ := o
  constructor <;> simp only [CinvA.encD, CinvA.encT] <;> omega

theorem lt_CvO_L1 (o : CvO) : CvO.encD o < 64 ∧ CvO.encT o < 65536 := by
  obtain ⟨d, a, cs⟩ := o
  constructor <;> simp only [CvO.encD, CvO.encT] <;> omega

theorem lt_CvO_L1_0_256 (o : CvO) : CvO.encD o < 64 ∧ CvO.encT o + 256 < 65536 := by
  obtain ⟨d, a, cs⟩ := o
  constructor <;> simp only [CvO.encD, CvO.encT] <;> omega

theorem lt_CfreeO_L1_0_512 (o : CfreeO) : CfreeO.encD o < 64 ∧ CfreeO.encT o + 512 < 65536 := by
  obtain ⟨d, cs⟩ := o
  constructor <;> simp only [CfreeO.encD, CfreeO.encT] <;> omega

theorem lt_CnodeO_L1_0_768 (o : CnodeO) : CnodeO.encD o < 64 ∧ CnodeO.encT o + 768 < 65536 := by
  obtain ⟨d, a, cs, lvl⟩ := o
  constructor <;> simp only [CnodeO.encD, CnodeO.encT] <;> omega

theorem lt_CsrR_L1 (o : CsrR) : CsrR.encD o < 64 ∧ CsrR.encT o < 65536 := by
  obtain ⟨d, num⟩ := o
  constructor <;> simp only [CsrR.encD, CsrR.encT] <;> omega

theorem lt_CsrA_L1 (o : CsrA) : CsrA.encD o < 64 ∧ CsrA.encT o < 65536 := by
  obtain ⟨d, a, num⟩ := o
  constructor <;> simp only [CsrA.encD, CsrA.encT] <;> omega

theorem lt_TlbP_L1 (o : TlbP) : TlbP.encD o < 64 ∧ TlbP.encT o < 65536 := by
  obtain ⟨sc, gm, a, ctx⟩ := o
  constructor <;> simp only [TlbP.encD, TlbP.encT] <;> omega

theorem lt_TlbC_L1_0_64 (o : TlbC) : TlbC.encD o < 64 ∧ TlbC.encT o + 64 < 65536 := by
  obtain ⟨sc, gm, ctx⟩ := o
  constructor <;> simp only [TlbC.encD, TlbC.encT] <;> omega

theorem lt_TlbA_L1_0_128 (o : TlbA) : TlbA.encD o < 64 ∧ TlbA.encT o + 128 < 65536 := by
  obtain ⟨sc, gm⟩ := o
  constructor <;> simp only [TlbA.encD, TlbA.encT] <;> omega

theorem lt_TlbR_L2_0_192 (o : TlbR) : TlbR.encD o < 64 ∧ TlbR.encT o + 192 < 4294967296 := by
  obtain ⟨sc, gm, a, c, ctx⟩ := o
  constructor <;> simp only [TlbR.encD, TlbR.encT] <;> omega

theorem lt_GD_L1_0_64 (o : GD) : GD.encD o < 64 ∧ GD.encT o + 64 < 65536 := by
  obtain ⟨d⟩ := o
  constructor <;> simp only [GD.encD, GD.encT] <;> omega

end Sys2Proof.Laws
end

