-- ==== Sys2Proof/Laws/Exec.lean ====
section
/-! SUPPORT. `exec` at each constructor: the call that its arm makes. -/
namespace Sys2Proof.Machine
theorem exec_nop (s : State) : exec (.nop) s = execNop s := rfl
theorem exec_nopL1 (o : K16) (s : State) : exec (.nopL1 o) s = execNopL1 o s := rfl
theorem exec_nopL2 (o : K32) (s : State) : exec (.nopL2 o) s = execNopL2 o s := rfl
theorem exec_nopL3 (o : K64) (s : State) : exec (.nopL3 o) s = execNopL3 o s := rfl
theorem exec_add (o : GGG) (s : State) : exec (.add o) s = execAdd o s := rfl
theorem exec_sub (o : GGG) (s : State) : exec (.sub o) s = execSub o s := rfl
theorem exec_and (o : GGG) (s : State) : exec (.and o) s = execAnd o s := rfl
theorem exec_or (o : GGG) (s : State) : exec (.or o) s = execOr o s := rfl
theorem exec_xor (o : GGG) (s : State) : exec (.xor o) s = execXor o s := rfl
theorem exec_andn (o : GGG) (s : State) : exec (.andn o) s = execAndn o s := rfl
theorem exec_shl (o : GGG) (s : State) : exec (.shl o) s = execShl o s := rfl
theorem exec_shr (o : GGG) (s : State) : exec (.shr o) s = execShr o s := rfl
theorem exec_sra (o : GGG) (s : State) : exec (.sra o) s = execSra o s := rfl
theorem exec_rotl (o : GGG) (s : State) : exec (.rotl o) s = execRotl o s := rfl
theorem exec_mul (o : GGG) (s : State) : exec (.mul o) s = execMul o s := rfl
theorem exec_mulh (o : GGG) (s : State) : exec (.mulh o) s = execMulh o s := rfl
theorem exec_mulhz (o : GGG) (s : State) : exec (.mulhz o) s = execMulhz o s := rfl
theorem exec_div (o : GGG) (s : State) : exec (.div o) s = execDiv o s := rfl
theorem exec_divz (o : GGG) (s : State) : exec (.divz o) s = execDivz o s := rfl
theorem exec_rem (o : GGG) (s : State) : exec (.rem o) s = execRem o s := rfl
theorem exec_remz (o : GGG) (s : State) : exec (.remz o) s = execRemz o s := rfl
theorem exec_min (o : GGG) (s : State) : exec (.min o) s = execMin o s := rfl
theorem exec_max (o : GGG) (s : State) : exec (.max o) s = execMax o s := rfl
theorem exec_minz (o : GGG) (s : State) : exec (.minz o) s = execMinz o s := rfl
theorem exec_maxz (o : GGG) (s : State) : exec (.maxz o) s = execMaxz o s := rfl
theorem exec_slt (o : GGG) (s : State) : exec (.slt o) s = execSlt o s := rfl
theorem exec_sltz (o : GGG) (s : State) : exec (.sltz o) s = execSltz o s := rfl
theorem exec_seq (o : GGG) (s : State) : exec (.seq o) s = execSeq o s := rfl
theorem exec_sel (o : GGGG) (s : State) : exec (.sel o) s = execSel o s := rfl
theorem exec_addi (o : GGI10) (s : State) : exec (.addi o) s = execAddi o s := rfl
theorem exec_addiL2 (o : GGI26) (s : State) : exec (.addiL2 o) s = execAddiL2 o s := rfl
theorem exec_andi (o : GGI10) (s : State) : exec (.andi o) s = execAndi o s := rfl
theorem exec_andiL2 (o : GGI26) (s : State) : exec (.andiL2 o) s = execAndiL2 o s := rfl
theorem exec_ori (o : GGI10) (s : State) : exec (.ori o) s = execOri o s := rfl
theorem exec_oriL2 (o : GGI26) (s : State) : exec (.oriL2 o) s = execOriL2 o s := rfl
theorem exec_xori (o : GGI10) (s : State) : exec (.xori o) s = execXori o s := rfl
theorem exec_xoriL2 (o : GGI26) (s : State) : exec (.xoriL2 o) s = execXoriL2 o s := rfl
theorem exec_shli (o : ShiftI) (s : State) : exec (.shli o) s = execShli o s := rfl
theorem exec_shri (o : ShiftI) (s : State) : exec (.shri o) s = execShri o s := rfl
theorem exec_srai (o : ShiftI) (s : State) : exec (.srai o) s = execSrai o s := rfl
theorem exec_rotli (o : ShiftI) (s : State) : exec (.rotli o) s = execRotli o s := rfl
theorem exec_li (o : GK16) (s : State) : exec (.li o) s = execLi o s := rfl
theorem exec_liL2 (o : GK32) (s : State) : exec (.liL2 o) s = execLiL2 o s := rfl
theorem exec_liL3 (o : GK64) (s : State) : exec (.liL3 o) s = execLiL3 o s := rfl
theorem exec_addpc (o : GK32) (s : State) : exec (.addpc o) s = execAddpc o s := rfl
theorem exec_lea (o : LeaM) (s : State) : exec (.lea o) s = execLea o s := rfl
theorem exec_leaL2 (o : LeaX) (s : State) : exec (.leaL2 o) s = execLeaL2 o s := rfl
theorem exec_clz (o : GG) (s : State) : exec (.clz o) s = execClz o s := rfl
theorem exec_ctz (o : GG) (s : State) : exec (.ctz o) s = execCtz o s := rfl
theorem exec_popc (o : GG) (s : State) : exec (.popc o) s = execPopc o s := rfl
theorem exec_bswap (o : GG) (s : State) : exec (.bswap o) s = execBswap o s := rfl
theorem exec_sextB (o : GG) (s : State) : exec (.sextB o) s = execSextB o s := rfl
theorem exec_sextH (o : GG) (s : State) : exec (.sextH o) s = execSextH o s := rfl
theorem exec_sextW (o : GG) (s : State) : exec (.sextW o) s = execSextW o s := rfl
theorem exec_bext (o : BitF) (s : State) : exec (.bext o) s = execBext o s := rfl
theorem exec_bins (o : BitF) (s : State) : exec (.bins o) s = execBins o s := rfl
theorem exec_slti (o : GGI8) (s : State) : exec (.slti o) s = execSlti o s := rfl
theorem exec_sltiL2 (o : GGI24) (s : State) : exec (.sltiL2 o) s = execSltiL2 o s := rfl
theorem exec_sltzi (o : GGI8) (s : State) : exec (.sltzi o) s = execSltzi o s := rfl
theorem exec_sltziL2 (o : GGI24) (s : State) : exec (.sltziL2 o) s = execSltziL2 o s := rfl
theorem exec_seqi (o : GGI8) (s : State) : exec (.seqi o) s = execSeqi o s := rfl
theorem exec_seqiL2 (o : GGI24) (s : State) : exec (.seqiL2 o) s = execSeqiL2 o s := rfl
theorem exec_beq (o : BrB) (s : State) : exec (.beq o) s = execBeq o s := rfl
theorem exec_bne (o : BrB) (s : State) : exec (.bne o) s = execBne o s := rfl
theorem exec_blt (o : BrB) (s : State) : exec (.blt o) s = execBlt o s := rfl
theorem exec_bge (o : BrB) (s : State) : exec (.bge o) s = execBge o s := rfl
theorem exec_bltz (o : BrB) (s : State) : exec (.bltz o) s = execBltz o s := rfl
theorem exec_bgez (o : BrB) (s : State) : exec (.bgez o) s = execBgez o s := rfl
theorem exec_bzEqz (o : BrZ) (s : State) : exec (.bzEqz o) s = execBzEqz o s := rfl
theorem exec_bzNez (o : BrZ) (s : State) : exec (.bzNez o) s = execBzNez o s := rfl
theorem exec_bzLtz (o : BrZ) (s : State) : exec (.bzLtz o) s = execBzLtz o s := rfl
theorem exec_bzGez (o : BrZ) (s : State) : exec (.bzGez o) s = execBzGez o s := rfl
theorem exec_bzGtz (o : BrZ) (s : State) : exec (.bzGtz o) s = execBzGtz o s := rfl
theorem exec_bzLez (o : BrZ) (s : State) : exec (.bzLez o) s = execBzLez o s := rfl
theorem exec_jmp (o : Jmp) (s : State) : exec (.jmp o) s = execJmp o s := rfl
theorem exec_call (o : GJmp) (s : State) : exec (.call o) s = execCall o s := rfl
theorem exec_jr (o : GD) (s : State) : exec (.jr o) s = execJr o s := rfl
theorem exec_decb (o : GJmp) (s : State) : exec (.decb o) s = execDecb o s := rfl
theorem exec_rep (o : RepO) (s : State) : exec (.rep o) s = execRep o s := rfl
theorem exec_pause (o : K16) (s : State) : exec (.pause o) s = execPause o s := rfl
theorem exec_yield (s : State) : exec (.yield) s = execYield s := rfl
theorem exec_exit (s : State) : exec (.exit) s = execExit s := rfl
theorem exec_ld (o : LdM) (s : State) : exec (.ld o) s = execLd o s := rfl
theorem exec_ldL2 (o : LdX) (s : State) : exec (.ldL2 o) s = execLdL2 o s := rfl
theorem exec_lda (o : LdaX) (s : State) : exec (.lda o) s = execLda o s := rfl
theorem exec_ldfe (o : FeX) (s : State) : exec (.ldfe o) s = execLdfe o s := rfl
theorem exec_ldff (o : LdffM) (s : State) : exec (.ldff o) s = execLdff o s := rfl
theorem exec_ldffL2 (o : LdffX) (s : State) : exec (.ldffL2 o) s = execLdffL2 o s := rfl
theorem exec_st (o : StM) (s : State) : exec (.st o) s = execSt o s := rfl
theorem exec_stL2 (o : StX) (s : State) : exec (.stL2 o) s = execStL2 o s := rfl
theorem exec_stl (o : StlX) (s : State) : exec (.stl o) s = execStl o s := rfl
theorem exec_stef (o : FeX) (s : State) : exec (.stef o) s = execStef o s := rfl
theorem exec_feset (o : FesetM) (s : State) : exec (.feset o) s = execFeset o s := rfl
theorem exec_fesetL2 (o : FesetX) (s : State) : exec (.fesetL2 o) s = execFesetL2 o s := rfl
theorem exec_fld (o : FMemM) (s : State) : exec (.fld o) s = execFld o s := rfl
theorem exec_fldL2 (o : FMemX) (s : State) : exec (.fldL2 o) s = execFldL2 o s := rfl
theorem exec_fst (o : FMemM) (s : State) : exec (.fst o) s = execFst o s := rfl
theorem exec_fstL2 (o : FMemX) (s : State) : exec (.fstL2 o) s = execFstL2 o s := rfl
theorem exec_ldp (o : PairM) (s : State) : exec (.ldp o) s = execLdp o s := rfl
theorem exec_ldpL2 (o : PairX) (s : State) : exec (.ldpL2 o) s = execLdpL2 o s := rfl
theorem exec_stp (o : PairM) (s : State) : exec (.stp o) s = execStp o s := rfl
theorem exec_stpL2 (o : PairX) (s : State) : exec (.stpL2 o) s = execStpL2 o s := rfl
theorem exec_fence (o : FenceO) (s : State) : exec (.fence o) s = execFence o s := rfl
theorem exec_waita (o : WaitaX) (s : State) : exec (.waita o) s = execWaita o s := rfl
theorem exec_pref (o : PrefM) (s : State) : exec (.pref o) s = execPref o s := rfl
theorem exec_prefL2 (o : PrefX) (s : State) : exec (.prefL2 o) s = execPrefL2 o s := rfl
theorem exec_amoadd (o : AtO) (s : State) : exec (.amoadd o) s = execAmoadd o s := rfl
theorem exec_amoand (o : AtO) (s : State) : exec (.amoand o) s = execAmoand o s := rfl
theorem exec_amoor (o : AtO) (s : State) : exec (.amoor o) s = execAmoor o s := rfl
theorem exec_amoxor (o : AtO) (s : State) : exec (.amoxor o) s = execAmoxor o s := rfl
theorem exec_amomin (o : AtO) (s : State) : exec (.amomin o) s = execAmomin o s := rfl
theorem exec_amomax (o : AtO) (s : State) : exec (.amomax o) s = execAmomax o s := rfl
theorem exec_amominz (o : AtO) (s : State) : exec (.amominz o) s = execAmominz o s := rfl
theorem exec_amomaxz (o : AtO) (s : State) : exec (.amomaxz o) s = execAmomaxz o s := rfl
theorem exec_amoswap (o : AtO) (s : State) : exec (.amoswap o) s = execAmoswap o s := rfl
theorem exec_cas (o : AtO) (s : State) : exec (.cas o) s = execCas o s := rfl
theorem exec_fadda (o : AtO) (s : State) : exec (.fadda o) s = execFadda o s := rfl
theorem exec_casp (o : CaspO) (s : State) : exec (.casp o) s = execCasp o s := rfl
theorem exec_sbind (o : SbindO) (s : State) : exec (.sbind o) s = execSbind o s := rfl
theorem exec_sdim (o : SdimR) (s : State) : exec (.sdim o) s = execSdim o s := rfl
theorem exec_sdimL3 (o : SdimW) (s : State) : exec (.sdimL3 o) s = execSdimL3 o s := rfl
theorem exec_sidx (o : SidxR) (s : State) : exec (.sidx o) s = execSidx o s := rfl
theorem exec_sidxL3 (o : SidxW) (s : State) : exec (.sidxL3 o) s = execSidxL3 o s := rfl
theorem exec_sdir (o : SdirO) (s : State) : exec (.sdir o) s = execSdir o s := rfl
theorem exec_sgo (o : Units) (s : State) : exec (.sgo o) s = execSgo o s := rfl
theorem exec_sstop (o : Units) (s : State) : exec (.sstop o) s = execSstop o s := rfl
theorem exec_sskip (o : UnitG) (s : State) : exec (.sskip o) s = execSskip o s := rfl
theorem exec_spos (o : UnitG) (s : State) : exec (.spos o) s = execSpos o s := rfl
theorem exec_ssave (o : UnitM) (s : State) : exec (.ssave o) s = execSsave o s := rfl
theorem exec_ssaveL2 (o : UnitX) (s : State) : exec (.ssaveL2 o) s = execSsaveL2 o s := rfl
theorem exec_sload (o : UnitM) (s : State) : exec (.sload o) s = execSload o s := rfl
theorem exec_sloadL2 (o : UnitX) (s : State) : exec (.sloadL2 o) s = execSloadL2 o s := rfl
theorem exec_sisect (o : SetO) (s : State) : exec (.sisect o) s = execSisect o s := rfl
theorem exec_sunion (o : SetO) (s : State) : exec (.sunion o) s = execSunion o s := rfl
theorem exec_sstatPos (o : UnitG) (s : State) : exec (.sstatPos o) s = execSstatPos o s := rfl
theorem exec_sstatSt (o : UnitG) (s : State) : exec (.sstatSt o) s = execSstatSt o s := rfl
theorem exec_scoord (o : ScoordO) (s : State) : exec (.scoord o) s = execScoord o s := rfl
theorem exec_fadd (o : FP3) (s : State) : exec (.fadd o) s = execFadd o s := rfl
theorem exec_faddL2 (o : FP3R) (s : State) : exec (.faddL2 o) s = execFaddL2 o s := rfl
theorem exec_fsub (o : FP3) (s : State) : exec (.fsub o) s = execFsub o s := rfl
theorem exec_fsubL2 (o : FP3R) (s : State) : exec (.fsubL2 o) s = execFsubL2 o s := rfl
theorem exec_fmul (o : FP3) (s : State) : exec (.fmul o) s = execFmul o s := rfl
theorem exec_fmulL2 (o : FP3R) (s : State) : exec (.fmulL2 o) s = execFmulL2 o s := rfl
theorem exec_fma (o : FP4R) (s : State) : exec (.fma o) s = execFma o s := rfl
theorem exec_fms (o : FP4R) (s : State) : exec (.fms o) s = execFms o s := rfl
theorem exec_fnma (o : FP4R) (s : State) : exec (.fnma o) s = execFnma o s := rfl
theorem exec_fnms (o : FP4R) (s : State) : exec (.fnms o) s = execFnms o s := rfl
theorem exec_fmin (o : FP3) (s : State) : exec (.fmin o) s = execFmin o s := rfl
theorem exec_fminL2 (o : FP3H) (s : State) : exec (.fminL2 o) s = execFminL2 o s := rfl
theorem exec_fmax (o : FP3) (s : State) : exec (.fmax o) s = execFmax o s := rfl
theorem exec_fmaxL2 (o : FP3H) (s : State) : exec (.fmaxL2 o) s = execFmaxL2 o s := rfl
theorem exec_fneg (o : FP2) (s : State) : exec (.fneg o) s = execFneg o s := rfl
theorem exec_fnegL2 (o : FP2H) (s : State) : exec (.fnegL2 o) s = execFnegL2 o s := rfl
theorem exec_fabs (o : FP2H) (s : State) : exec (.fabs o) s = execFabs o s := rfl
theorem exec_fcpsgn (o : FP3H) (s : State) : exec (.fcpsgn o) s = execFcpsgn o s := rfl
theorem exec_feq (o : FC3) (s : State) : exec (.feq o) s = execFeq o s := rfl
theorem exec_feqL2 (o : FC3H) (s : State) : exec (.feqL2 o) s = execFeqL2 o s := rfl
theorem exec_flt (o : FC3) (s : State) : exec (.flt o) s = execFlt o s := rfl
theorem exec_fltL2 (o : FC3H) (s : State) : exec (.fltL2 o) s = execFltL2 o s := rfl
theorem exec_fle (o : FC3) (s : State) : exec (.fle o) s = execFle o s := rfl
theorem exec_fleL2 (o : FC3H) (s : State) : exec (.fleL2 o) s = execFleL2 o s := rfl
theorem exec_funo (o : FC3) (s : State) : exec (.funo o) s = execFuno o s := rfl
theorem exec_funoL2 (o : FC3H) (s : State) : exec (.funoL2 o) s = execFunoL2 o s := rfl
theorem exec_fclass (o : FC2) (s : State) : exec (.fclass o) s = execFclass o s := rfl
theorem exec_fcvt (o : CvtR) (s : State) : exec (.fcvt o) s = execFcvt o s := rfl
theorem exec_fcvtL2 (o : CvtX) (s : State) : exec (.fcvtL2 o) s = execFcvtL2 o s := rfl
theorem exec_fcvti (o : CviR) (s : State) : exec (.fcvti o) s = execFcvti o s := rfl
theorem exec_fcvtiL2 (o : CviX) (s : State) : exec (.fcvtiL2 o) s = execFcvtiL2 o s := rfl
theorem exec_icvtf (o : IcvR) (s : State) : exec (.icvtf o) s = execIcvtf o s := rfl
theorem exec_icvtfL2 (o : IcvX) (s : State) : exec (.icvtfL2 o) s = execIcvtfL2 o s := rfl
theorem exec_fmvg (o : GF) (s : State) : exec (.fmvg o) s = execFmvg o s := rfl
theorem exec_gmvf (o : FG) (s : State) : exec (.gmvf o) s = execGmvf o s := rfl
theorem exec_fli (o : FK16) (s : State) : exec (.fli o) s = execFli o s := rfl
theorem exec_fliL2 (o : FK32) (s : State) : exec (.fliL2 o) s = execFliL2 o s := rfl
theorem exec_fliL3 (o : FK64) (s : State) : exec (.fliL3 o) s = execFliL3 o s := rfl
theorem exec_fsel (o : F4H) (s : State) : exec (.fsel o) s = execFsel o s := rfl
theorem exec_padd (o : PE3) (s : State) : exec (.padd o) s = execPadd o s := rfl
theorem exec_paddL2 (o : PE3H) (s : State) : exec (.paddL2 o) s = execPaddL2 o s := rfl
theorem exec_psub (o : PE3) (s : State) : exec (.psub o) s = execPsub o s := rfl
theorem exec_psubL2 (o : PE3H) (s : State) : exec (.psubL2 o) s = execPsubL2 o s := rfl
theorem exec_pmul (o : PE3) (s : State) : exec (.pmul o) s = execPmul o s := rfl
theorem exec_pmulL2 (o : PE3H) (s : State) : exec (.pmulL2 o) s = execPmulL2 o s := rfl
theorem exec_pfma (o : PE4H) (s : State) : exec (.pfma o) s = execPfma o s := rfl
theorem exec_pmin (o : PE3) (s : State) : exec (.pmin o) s = execPmin o s := rfl
theorem exec_pminL2 (o : PE3H) (s : State) : exec (.pminL2 o) s = execPminL2 o s := rfl
theorem exec_pmax (o : PE3) (s : State) : exec (.pmax o) s = execPmax o s := rfl
theorem exec_pmaxL2 (o : PE3H) (s : State) : exec (.pmaxL2 o) s = execPmaxL2 o s := rfl
theorem exec_pdot (o : PE4H) (s : State) : exec (.pdot o) s = execPdot o s := rfl
theorem exec_psum (o : PE3) (s : State) : exec (.psum o) s = execPsum o s := rfl
theorem exec_psumL2 (o : PE3H) (s : State) : exec (.psumL2 o) s = execPsumL2 o s := rfl
theorem exec_pshuf (o : PE3) (s : State) : exec (.pshuf o) s = execPshuf o s := rfl
theorem exec_pshufL2 (o : PE3H) (s : State) : exec (.pshufL2 o) s = execPshufL2 o s := rfl
theorem exec_pbcast (o : PBc) (s : State) : exec (.pbcast o) s = execPbcast o s := rfl
theorem exec_pbcastL2 (o : PBcH) (s : State) : exec (.pbcastL2 o) s = execPbcastL2 o s := rfl
theorem exec_ppack (o : PW3) (s : State) : exec (.ppack o) s = execPpack o s := rfl
theorem exec_ppackL2 (o : PW3H) (s : State) : exec (.ppackL2 o) s = execPpackL2 o s := rfl
theorem exec_punpack (o : PW2) (s : State) : exec (.punpack o) s = execPunpack o s := rfl
theorem exec_punpackL2 (o : PW2H) (s : State) : exec (.punpackL2 o) s = execPunpackL2 o s := rfl
theorem exec_pq (o : PW3) (s : State) : exec (.pq o) s = execPq o s := rfl
theorem exec_pqL2 (o : PW4H) (s : State) : exec (.pqL2 o) s = execPqL2 o s := rfl
theorem exec_pdq (o : PW2) (s : State) : exec (.pdq o) s = execPdq o s := rfl
theorem exec_pdqL2 (o : PWcH) (s : State) : exec (.pdqL2 o) s = execPdqL2 o s := rfl
theorem exec_peq (o : PE3) (s : State) : exec (.peq o) s = execPeq o s := rfl
theorem exec_peqL2 (o : PE3H) (s : State) : exec (.peqL2 o) s = execPeqL2 o s := rfl
theorem exec_plt (o : PE3) (s : State) : exec (.plt o) s = execPlt o s := rfl
theorem exec_pltL2 (o : PE3H) (s : State) : exec (.pltL2 o) s = execPltL2 o s := rfl
theorem exec_ple (o : PE3) (s : State) : exec (.ple o) s = execPle o s := rfl
theorem exec_pleL2 (o : PE3H) (s : State) : exec (.pleL2 o) s = execPleL2 o s := rfl
theorem exec_puno (o : PE3) (s : State) : exec (.puno o) s = execPuno o s := rfl
theorem exec_punoL2 (o : PE3H) (s : State) : exec (.punoL2 o) s = execPunoL2 o s := rfl
theorem exec_pand (o : F3) (s : State) : exec (.pand o) s = execPand o s := rfl
theorem exec_pandL2 (o : F3H) (s : State) : exec (.pandL2 o) s = execPandL2 o s := rfl
theorem exec_por (o : F3) (s : State) : exec (.por o) s = execPor o s := rfl
theorem exec_porL2 (o : F3H) (s : State) : exec (.porL2 o) s = execPorL2 o s := rfl
theorem exec_pxor (o : F3) (s : State) : exec (.pxor o) s = execPxor o s := rfl
theorem exec_pxorL2 (o : F3H) (s : State) : exec (.pxorL2 o) s = execPxorL2 o s := rfl
theorem exec_pandn (o : F3) (s : State) : exec (.pandn o) s = execPandn o s := rfl
theorem exec_pandnL2 (o : F3H) (s : State) : exec (.pandnL2 o) s = execPandnL2 o s := rfl
theorem exec_pmov (o : F2) (s : State) : exec (.pmov o) s = execPmov o s := rfl
theorem exec_pmovL2 (o : F2H) (s : State) : exec (.pmovL2 o) s = execPmovL2 o s := rfl
theorem exec_fmt (o : K32) (s : State) : exec (.fmt o) s = execFmt o s := rfl
theorem exec_frcp (o : FP2) (s : State) : exec (.frcp o) s = execFrcp o s := rfl
theorem exec_frcpL2 (o : FP2H) (s : State) : exec (.frcpL2 o) s = execFrcpL2 o s := rfl
theorem exec_frsqrt (o : FP2) (s : State) : exec (.frsqrt o) s = execFrsqrt o s := rfl
theorem exec_frsqrtL2 (o : FP2H) (s : State) : exec (.frsqrtL2 o) s = execFrsqrtL2 o s := rfl
theorem exec_fsqrt (o : FP2) (s : State) : exec (.fsqrt o) s = execFsqrt o s := rfl
theorem exec_fsqrtL2 (o : FP2H) (s : State) : exec (.fsqrtL2 o) s = execFsqrtL2 o s := rfl
theorem exec_fdiv (o : FP3) (s : State) : exec (.fdiv o) s = execFdiv o s := rfl
theorem exec_fdivL2 (o : FP3H) (s : State) : exec (.fdivL2 o) s = execFdivL2 o s := rfl
theorem exec_fexp2 (o : FS2) (s : State) : exec (.fexp2 o) s = execFexp2 o s := rfl
theorem exec_fexp2L2 (o : FS2H) (s : State) : exec (.fexp2L2 o) s = execFexp2L2 o s := rfl
theorem exec_flog2 (o : FS2) (s : State) : exec (.flog2 o) s = execFlog2 o s := rfl
theorem exec_flog2L2 (o : FS2H) (s : State) : exec (.flog2L2 o) s = execFlog2L2 o s := rfl
theorem exec_ftanh (o : FS2) (s : State) : exec (.ftanh o) s = execFtanh o s := rfl
theorem exec_ftanhL2 (o : FS2H) (s : State) : exec (.ftanhL2 o) s = execFtanhL2 o s := rfl
theorem exec_fsigm (o : FS2) (s : State) : exec (.fsigm o) s = execFsigm o s := rfl
theorem exec_fsigmL2 (o : FS2H) (s : State) : exec (.fsigmL2 o) s = execFsigmL2 o s := rfl
theorem exec_send (o : SendO) (s : State) : exec (.send o) s = execSend o s := rfl
theorem exec_sendn (o : SendnO) (s : State) : exec (.sendn o) s = execSendn o s := rfl
theorem exec_recv (o : RecvR) (s : State) : exec (.recv o) s = execRecv o s := rfl
theorem exec_recvL2 (o : RecvX) (s : State) : exec (.recvL2 o) s = execRecvL2 o s := rfl
theorem exec_recvTry (o : RecvR) (s : State) : exec (.recvTry o) s = execRecvTry o s := rfl
theorem exec_recvTryL2 (o : RecvX) (s : State) : exec (.recvTryL2 o) s = execRecvTryL2 o s := rfl
theorem exec_mstat (o : GCls) (s : State) : exec (.mstat o) s = execMstat o s := rfl
theorem exec_mstatL2 (o : GCls) (s : State) : exec (.mstatL2 o) s = execMstatL2 o s := rfl
theorem exec_mstatClr (o : GCls) (s : State) : exec (.mstatClr o) s = execMstatClr o s := rfl
theorem exec_mstatClrL2 (o : GCls) (s : State) : exec (.mstatClrL2 o) s = execMstatClrL2 o s := rfl
theorem exec_qend (o : QendO) (s : State) : exec (.qend o) s = execQend o s := rfl
theorem exec_qctlSt (o : QctlO) (s : State) : exec (.qctlSt o) s = execQctlSt o s := rfl
theorem exec_qctlStL2 (o : QctlO) (s : State) : exec (.qctlStL2 o) s = execQctlStL2 o s := rfl
theorem exec_qctlClr (o : QctlO) (s : State) : exec (.qctlClr o) s = execQctlClr o s := rfl
theorem exec_qctlClrL2 (o : QctlO) (s : State) : exec (.qctlClrL2 o) s = execQctlClrL2 o s := rfl
theorem exec_qctlBind (o : QctlO) (s : State) : exec (.qctlBind o) s = execQctlBind o s := rfl
theorem exec_qctlBindL2 (o : QctlO) (s : State) : exec (.qctlBindL2 o) s = execQctlBindL2 o s := rfl
theorem exec_qret (s : State) : exec (.qret) s = execQret s := rfl
theorem exec_get (o : XferO) (s : State) : exec (.get o) s = execGet o s := rfl
theorem exec_put (o : XferO) (s : State) : exec (.put o) s = execPut o s := rfl
theorem exec_getx (o : XferI) (s : State) : exec (.getx o) s = execGetx o s := rfl
theorem exec_putx (o : XferI) (s : State) : exec (.putx o) s = execPutx o s := rfl
theorem exec_cwait (o : CtrO) (s : State) : exec (.cwait o) s = execCwait o s := rfl
theorem exec_cwaitL2 (o : CtrO) (s : State) : exec (.cwaitL2 o) s = execCwaitL2 o s := rfl
theorem exec_cop (o : CtrO) (s : State) : exec (.cop o) s = execCop o s := rfl
theorem exec_copL2 (o : CtrO) (s : State) : exec (.copL2 o) s = execCopL2 o s := rfl
theorem exec_mbind (o : MbindO) (s : State) : exec (.mbind o) s = execMbind o s := rfl
theorem exec_gbarArr (o : GbarA) (s : State) : exec (.gbarArr o) s = execGbarArr o s := rfl
theorem exec_gbarWait (o : GbarG) (s : State) : exec (.gbarWait o) s = execGbarWait o s := rfl
theorem exec_gbar (o : GbarG) (s : State) : exec (.gbar o) s = execGbar o s := rfl
theorem exec_gredSum (o : GredR) (s : State) : exec (.gredSum o) s = execGredSum o s := rfl
theorem exec_gredSumL2 (o : GredX) (s : State) : exec (.gredSumL2 o) s = execGredSumL2 o s := rfl
theorem exec_gredMin (o : GredR) (s : State) : exec (.gredMin o) s = execGredMin o s := rfl
theorem exec_gredMinL2 (o : GredX) (s : State) : exec (.gredMinL2 o) s = execGredMinL2 o s := rfl
theorem exec_gredMax (o : GredR) (s : State) : exec (.gredMax o) s = execGredMax o s := rfl
theorem exec_gredMaxL2 (o : GredX) (s : State) : exec (.gredMaxL2 o) s = execGredMaxL2 o s := rfl
theorem exec_gredAnd (o : GredR) (s : State) : exec (.gredAnd o) s = execGredAnd o s := rfl
theorem exec_gredAndL2 (o : GredX) (s : State) : exec (.gredAndL2 o) s = execGredAndL2 o s := rfl
theorem exec_gredOr (o : GredR) (s : State) : exec (.gredOr o) s = execGredOr o s := rfl
theorem exec_gredOrL2 (o : GredX) (s : State) : exec (.gredOrL2 o) s = execGredOrL2 o s := rfl
theorem exec_gcast (o : GcastR) (s : State) : exec (.gcast o) s = execGcast o s := rfl
theorem exec_gcastL2 (o : GcastX) (s : State) : exec (.gcastL2 o) s = execGcastL2 o s := rfl
theorem exec_gsum (o : GsumO) (s : State) : exec (.gsum o) s = execGsum o s := rfl
theorem exec_semsig (o : SemR) (s : State) : exec (.semsig o) s = execSemsig o s := rfl
theorem exec_semsigL2 (o : SemX) (s : State) : exec (.semsigL2 o) s = execSemsigL2 o s := rfl
theorem exec_semwait (o : SemR) (s : State) : exec (.semwait o) s = execSemwait o s := rfl
theorem exec_semwaitL2 (o : SemX) (s : State) : exec (.semwaitL2 o) s = execSemwaitL2 o s := rfl
theorem exec_semread (o : GG) (s : State) : exec (.semread o) s = execSemread o s := rfl
theorem exec_semreadL2 (o : GG) (s : State) : exec (.semreadL2 o) s = execSemreadL2 o s := rfl
theorem exec_estatSt (o : GG) (s : State) : exec (.estatSt o) s = execEstatSt o s := rfl
theorem exec_estatStL2 (o : GG) (s : State) : exec (.estatStL2 o) s = execEstatStL2 o s := rfl
theorem exec_estatRec (o : GG) (s : State) : exec (.estatRec o) s = execEstatRec o s := rfl
theorem exec_estatRecL2 (o : GG) (s : State) : exec (.estatRecL2 o) s = execEstatRecL2 o s := rfl
theorem exec_estatRes (o : GG) (s : State) : exec (.estatRes o) s = execEstatRes o s := rfl
theorem exec_estatResL2 (o : GG) (s : State) : exec (.estatResL2 o) s = execEstatResL2 o s := rfl
theorem exec_estatDel (o : GG) (s : State) : exec (.estatDel o) s = execEstatDel o s := rfl
theorem exec_estatDelL2 (o : GG) (s : State) : exec (.estatDelL2 o) s = execEstatDelL2 o s := rfl
theorem exec_estatWin (o : GD) (s : State) : exec (.estatWin o) s = execEstatWin o s := rfl
theorem exec_estatWinL2 (o : GD) (s : State) : exec (.estatWinL2 o) s = execEstatWinL2 o s := rfl
theorem exec_estatQ (o : GD) (s : State) : exec (.estatQ o) s = execEstatQ o s := rfl
theorem exec_estatQL2 (o : GD) (s : State) : exec (.estatQL2 o) s = execEstatQL2 o s := rfl
theorem exec_evcRd (o : EvcN) (s : State) : exec (.evcRd o) s = execEvcRd o s := rfl
theorem exec_evcRdL2 (o : EvcN) (s : State) : exec (.evcRdL2 o) s = execEvcRdL2 o s := rfl
theorem exec_evcSet (o : EvcA) (s : State) : exec (.evcSet o) s = execEvcSet o s := rfl
theorem exec_evcSetL2 (o : EvcA) (s : State) : exec (.evcSetL2 o) s = execEvcSetL2 o s := rfl
theorem exec_evcRc (o : EvcN) (s : State) : exec (.evcRc o) s = execEvcRc o s := rfl
theorem exec_evcRcL2 (o : EvcN) (s : State) : exec (.evcRcL2 o) s = execEvcRcL2 o s := rfl
theorem exec_vbind (o : VbM) (s : State) : exec (.vbind o) s = execVbind o s := rfl
theorem exec_vbindL2 (o : VbX) (s : State) : exec (.vbindL2 o) s = execVbindL2 o s := rfl
theorem exec_vbindOff (o : VbOff) (s : State) : exec (.vbindOff o) s = execVbindOff o s := rfl
theorem exec_cld (o : CldO) (s : State) : exec (.cld o) s = execCld o s := rfl
theorem exec_cst (o : CvO) (s : State) : exec (.cst o) s = execCst o s := rfl
theorem exec_cprobe (o : CvO) (s : State) : exec (.cprobe o) s = execCprobe o s := rfl
theorem exec_camoadd (o : CamoO) (s : State) : exec (.camoadd o) s = execCamoadd o s := rfl
theorem exec_camoand (o : CamoO) (s : State) : exec (.camoand o) s = execCamoand o s := rfl
theorem exec_camoor (o : CamoO) (s : State) : exec (.camoor o) s = execCamoor o s := rfl
theorem exec_camoxor (o : CamoO) (s : State) : exec (.camoxor o) s = execCamoxor o s := rfl
theorem exec_camomin (o : CamoO) (s : State) : exec (.camomin o) s = execCamomin o s := rfl
theorem exec_camomax (o : CamoO) (s : State) : exec (.camomax o) s = execCamomax o s := rfl
theorem exec_camominz (o : CamoO) (s : State) : exec (.camominz o) s = execCamominz o s := rfl
theorem exec_camomaxz (o : CamoO) (s : State) : exec (.camomaxz o) s = execCamomaxz o s := rfl
theorem exec_camoswap (o : CamoO) (s : State) : exec (.camoswap o) s = execCamoswap o s := rfl
theorem exec_ccas (o : CamoO) (s : State) : exec (.ccas o) s = execCcas o s := rfl
theorem exec_cinv (o : CinvO) (s : State) : exec (.cinv o) s = execCinv o s := rfl
theorem exec_cinvAll (o : CinvA) (s : State) : exec (.cinvAll o) s = execCinvAll o s := rfl
theorem exec_callocGet (o : CvO) (s : State) : exec (.callocGet o) s = execCallocGet o s := rfl
theorem exec_callocCut (o : CvO) (s : State) : exec (.callocCut o) s = execCallocCut o s := rfl
theorem exec_callocFree (o : CfreeO) (s : State) : exec (.callocFree o) s = execCallocFree o s := rfl
theorem exec_callocNode (o : CnodeO) (s : State) : exec (.callocNode o) s = execCallocNode o s := rfl
theorem exec_cnbr (o : CvO) (s : State) : exec (.cnbr o) s = execCnbr o s := rfl
theorem exec_csrr (o : CsrR) (s : State) : exec (.csrr o) s = execCsrr o s := rfl
theorem exec_csrw (o : CsrA) (s : State) : exec (.csrw o) s = execCsrw o s := rfl
theorem exec_csrs (o : CsrA) (s : State) : exec (.csrs o) s = execCsrs o s := rfl
theorem exec_csrc (o : CsrA) (s : State) : exec (.csrc o) s = execCsrc o s := rfl
theorem exec_trap (o : K16) (s : State) : exec (.trap o) s = execTrap o s := rfl
theorem exec_tret (s : State) : exec (.tret) s = execTret s := rfl
theorem exec_brk (s : State) : exec (.brk) s = execBrk s := rfl
theorem exec_brkL1 (o : K16) (s : State) : exec (.brkL1 o) s = execBrkL1 o s := rfl
theorem exec_tlbiPage (o : TlbP) (s : State) : exec (.tlbiPage o) s = execTlbiPage o s := rfl
theorem exec_tlbiCtx (o : TlbC) (s : State) : exec (.tlbiCtx o) s = execTlbiCtx o s := rfl
theorem exec_tlbiAll (o : TlbA) (s : State) : exec (.tlbiAll o) s = execTlbiAll o s := rfl
theorem exec_tlbiRange (o : TlbR) (s : State) : exec (.tlbiRange o) s = execTlbiRange o s := rfl
theorem exec_ifence (s : State) : exec (.ifence) s = execIfence s := rfl
theorem exec_wfi (s : State) : exec (.wfi) s = execWfi s := rfl
theorem exec_ctxswReq (s : State) : exec (.ctxswReq) s = execCtxswReq s := rfl
theorem exec_ctxswFlush (s : State) : exec (.ctxswFlush) s = execCtxswFlush s := rfl
theorem exec_syscHold (o : GG) (s : State) : exec (.syscHold o) s = execSyscHold o s := rfl
theorem exec_syscRel (o : GD) (s : State) : exec (.syscRel o) s = execSyscRel o s := rfl
theorem exec_syscWake (o : GG) (s : State) : exec (.syscWake o) s = execSyscWake o s := rfl
theorem exec_syscStop (o : GG) (s : State) : exec (.syscStop o) s = execSyscStop o s := rfl
theorem exec_fIssue (slot : BitVec 2) (s : State) : exec (.fIssue slot) s = execFIssue slot s := rfl
theorem exec_fCommit (slot : BitVec 2) (s : State) : exec (.fCommit slot) s = execFCommit slot s := rfl
theorem exec_sfuServiceStart (s : State) : exec (.sfuServiceStart) s = execSfuServiceStart s := rfl
theorem exec_sfuResultWrite (s : State) : exec (.sfuResultWrite) s = execSfuResultWrite s := rfl
theorem exec_divideComplete (s : State) : exec (.divideComplete) s = execDivideComplete s := rfl
theorem exec_loadDataReturn (slot : BitVec 2) (s : State) : exec (.loadDataReturn slot) s = execLoadDataReturn slot s := rfl
theorem exec_lineFetchReturn (slot : BitVec 2) (s : State) : exec (.lineFetchReturn slot) s = execLineFetchReturn slot s := rfl
theorem exec_storeDrain (slot : BitVec 2) (s : State) : exec (.storeDrain slot) s = execStoreDrain slot s := rfl
theorem exec_repReplayDispatch (slot : BitVec 2) (s : State) : exec (.repReplayDispatch slot) s = execRepReplayDispatch slot s := rfl
theorem exec_pauseExpiry (slot : BitVec 2) (s : State) : exec (.pauseExpiry slot) s = execPauseExpiry slot s := rfl
theorem exec_trapEntry (slot : BitVec 2) (s : State) : exec (.trapEntry slot) s = execTrapEntry slot s := rfl
theorem exec_lightHandlerEntry (slot : BitVec 2) (s : State) : exec (.lightHandlerEntry slot) s = execLightHandlerEntry slot s := rfl
theorem exec_streamRead (slot : BitVec 2) (unit : BitVec 2) (s : State) : exec (.streamRead slot unit) s = execStreamRead slot unit s := rfl
theorem exec_ringFetch (slot : BitVec 2) (unit : BitVec 2) (s : State) : exec (.ringFetch slot unit) s = execRingFetch slot unit s := rfl
theorem exec_setOpPass (slot : BitVec 2) (unit : BitVec 2) (s : State) : exec (.setOpPass slot unit) s = execSetOpPass slot unit s := rfl
theorem exec_feRemoteRetry (slot : BitVec 2) (s : State) : exec (.feRemoteRetry slot) s = execFeRemoteRetry slot s := rfl
theorem exec_waitaPoll (slot : BitVec 2) (s : State) : exec (.waitaPoll slot) s = execWaitaPoll slot s := rfl
theorem exec_syscHoldExpiry (slot : BitVec 2) (s : State) : exec (.syscHoldExpiry slot) s = execSyscHoldExpiry slot s := rfl
theorem exec_messageInject (s : State) : exec (.messageInject) s = execMessageInject s := rfl
theorem exec_messageArrival (k : Nat) (s : State) : exec (.messageArrival k) s = execMessageArrival k s := rfl
theorem exec_messageAck (k : Nat) (s : State) : exec (.messageAck k) s = execMessageAck k s := rfl
theorem exec_messageNack (k : Nat) (s : State) : exec (.messageNack k) s = execMessageNack k s := rfl
theorem exec_messageRetryReady (entry : Nat) (s : State) : exec (.messageRetryReady entry) s = execMessageRetryReady entry s := rfl
theorem exec_queueWordArrival (k : Nat) (s : State) : exec (.queueWordArrival k) s = execQueueWordArrival k s := rfl
theorem exec_transferComplete (ring : BitVec 4) (s : State) : exec (.transferComplete ring) s = execTransferComplete ring s := rfl
theorem exec_transferFailure (ring : BitVec 4) (acause : BitVec 8) (s : State) : exec (.transferFailure ring acause) s = execTransferFailure ring acause s := rfl
theorem exec_mailboxLaunch (slot : BitVec 2) (s : State) : exec (.mailboxLaunch slot) s = execMailboxLaunch slot s := rfl
theorem exec_commandAccept (s : State) : exec (.commandAccept) s = execCommandAccept s := rfl
theorem exec_tumblerAdmit (s : State) : exec (.tumblerAdmit) s = execTumblerAdmit s := rfl
theorem exec_copy1d (job : Nat) (s : State) : exec (.copy1d job) s = execCopy1d job s := rfl
theorem exec_copy2d (job : Nat) (s : State) : exec (.copy2d job) s = execCopy2d job s := rfl
theorem exec_gather (job : Nat) (s : State) : exec (.gather job) s = execGather job s := rfl
theorem exec_scatter (job : Nat) (s : State) : exec (.scatter job) s = execScatter job s := rfl
theorem exec_fill (job : Nat) (s : State) : exec (.fill job) s = execFill job s := rfl
theorem exec_notify (job : Nat) (s : State) : exec (.notify job) s = execNotify job s := rfl
theorem exec_zacc (job : Nat) (s : State) : exec (.zacc job) s = execZacc job s := rfl
theorem exec_lacc (job : Nat) (s : State) : exec (.lacc job) s = execLacc job s := rfl
theorem exec_sacc (job : Nat) (s : State) : exec (.sacc job) s = execSacc job s := rfl
theorem exec_mma (job : Nat) (s : State) : exec (.mma job) s = execMma job s := rfl
theorem exec_mmar (job : Nat) (s : State) : exec (.mmar job) s = execMmar job s := rfl
theorem exec_qtile (job : Nat) (s : State) : exec (.qtile job) s = execQtile job s := rfl
theorem exec_jobComplete (job : Nat) (s : State) : exec (.jobComplete job) s = execJobComplete job s := rfl
theorem exec_jobFail (job : Nat) (s : State) : exec (.jobFail job) s = execJobFail job s := rfl
theorem exec_tumblerStuck (s : State) : exec (.tumblerStuck) s = execTumblerStuck s := rfl
theorem exec_periodStart (die : BitVec 4) (s : State) : exec (.periodStart die) s = execPeriodStart die s := rfl
theorem exec_energyBudgetSpent (s : State) : exec (.energyBudgetSpent) s = execEnergyBudgetSpent s := rfl
theorem exec_teamPlace (team : Nat) (s : State) : exec (.teamPlace team) s = execTeamPlace team s := rfl
theorem exec_teamComplete (team : Nat) (s : State) : exec (.teamComplete team) s = execTeamComplete team s := rfl
theorem exec_teamAged (team : Nat) (s : State) : exec (.teamAged team) s = execTeamAged team s := rfl
theorem exec_switchIn (slot : BitVec 2) (thread : Nat) (s : State) : exec (.switchIn slot thread) s = execSwitchIn slot thread s := rfl
theorem exec_clusterSave (team : Nat) (lcn : BitVec 17) (s : State) : exec (.clusterSave team lcn) s = execClusterSave team lcn s := rfl
theorem exec_missPresent (s : State) : exec (.missPresent) s = execMissPresent s := rfl
theorem exec_missResult (s : State) : exec (.missResult) s = execMissResult s := rfl
theorem exec_pageinRequestArrival (k : Nat) (s : State) : exec (.pageinRequestArrival k) s = execPageinRequestArrival k s := rfl
theorem exec_pageinResolve (k : Nat) (refused : Bool) (tables : List (BitVec 50)) (leaf : BitVec 64) (s : State) : exec (.pageinResolve k refused tables leaf) s = execPageinResolve k refused tables leaf s := rfl
theorem exec_pageinWake (k : Nat) (s : State) : exec (.pageinWake k) s = execPageinWake k s := rfl
theorem exec_doorbellTail (q : BitVec 10) (tail : BitVec 32) (s : State) : exec (.doorbellTail q tail) s = execDoorbellTail q tail s := rfl
theorem exec_qswSwitchIn (q : BitVec 10) (hslot : BitVec 6) (s : State) : exec (.qswSwitchIn q hslot) s = execQswSwitchIn q hslot s := rfl
theorem exec_qswSwitchOut (q : BitVec 10) (s : State) : exec (.qswSwitchOut q) s = execQswSwitchOut q s := rfl
theorem exec_qctlContinue (q : BitVec 10) (s : State) : exec (.qctlContinue q) s = execQctlContinue q s := rfl
theorem exec_qctlSkip (q : BitVec 10) (s : State) : exec (.qctlSkip q) s = execQctlSkip q s := rfl
theorem exec_semvWrite (sem : BitVec 8) (val : BitVec 32) (s : State) : exec (.semvWrite sem val) s = execSemvWrite sem val s := rfl
theorem exec_semaddWrite (sem : BitVec 8) (val : BitVec 32) (s : State) : exec (.semaddWrite sem val) s = execSemaddWrite sem val s := rfl
theorem exec_queueRecordWrite (q : BitVec 10) (word : BitVec 3) (val : BitVec 64) (s : State) : exec (.queueRecordWrite q word val) s = execQueueRecordWrite q word val s := rfl
theorem exec_registerWrite (reg : PlainReg) (val : BitVec 64) (s : State) : exec (.registerWrite reg val) s = execRegisterWrite reg val s := rfl
theorem exec_keywayCommandRead (q : BitVec 10) (bad : Bool) (s : State) : exec (.keywayCommandRead q bad) s = execKeywayCommandRead q bad s := rfl
theorem exec_queueAging (q : BitVec 10) (s : State) : exec (.queueAging q) s = execQueueAging q s := rfl
theorem exec_knop (q : BitVec 10) (s : State) : exec (.knop q) s = execKnop q s := rfl
theorem exec_klaunch (q : BitVec 10) (s : State) : exec (.klaunch q) s = execKlaunch q s := rfl
theorem exec_kcopy (q : BitVec 10) (s : State) : exec (.kcopy q) s = execKcopy q s := rfl
theorem exec_kfill (q : BitVec 10) (s : State) : exec (.kfill q) s = execKfill q s := rfl
theorem exec_kwrite (q : BitVec 10) (s : State) : exec (.kwrite q) s = execKwrite q s := rfl
theorem exec_kintr (q : BitVec 10) (s : State) : exec (.kintr q) s = execKintr q s := rfl
theorem exec_kctx (q : BitVec 10) (s : State) : exec (.kctx q) s = execKctx q s := rfl
theorem exec_kclu (q : BitVec 10) (s : State) : exec (.kclu q) s = execKclu q s := rfl
theorem exec_kbudget (q : BitVec 10) (s : State) : exec (.kbudget q) s = execKbudget q s := rfl
theorem exec_kpool (q : BitVec 10) (s : State) : exec (.kpool q) s = execKpool q s := rfl
theorem exec_kpreempt (q : BitVec 10) (s : State) : exec (.kpreempt q) s = execKpreempt q s := rfl
theorem exec_kevict (q : BitVec 10) (s : State) : exec (.kevict q) s = execKevict q s := rfl
theorem exec_kabort (q : BitVec 10) (s : State) : exec (.kabort q) s = execKabort q s := rfl
theorem exec_msixUnmask (vec : BitVec 11) (s : State) : exec (.msixUnmask vec) s = execMsixUnmask vec s := rfl
theorem exec_bar2Read (addr : BitVec 40) (len : BitVec 4) (s : State) : exec (.bar2Read addr len) s = execBar2Read addr len s := rfl
theorem exec_bar2Write (addr : BitVec 40) (data : List (BitVec 8)) (s : State) : exec (.bar2Write addr data) s = execBar2Write addr data s := rfl
theorem exec_barAtomicop (bar : BitVec 1) (off : BitVec 40) (s : State) : exec (.barAtomicop bar off) s = execBarAtomicop bar off s := rfl
theorem exec_hingeRetrain (port : BitVec 3) (s : State) : exec (.hingeRetrain port) s = execHingeRetrain port s := rfl
theorem exec_hingeCounterRead (port : BitVec 3) (downs : Bool) (s : State) : exec (.hingeCounterRead port downs) s = execHingeCounterRead port downs s := rfl
theorem exec_hingeRequestArrival (port : BitVec 3) (req : HingeReq) (s : State) : exec (.hingeRequestArrival port req) s = execHingeRequestArrival port req s := rfl
theorem exec_loadObject (s : State) : exec (.loadObject) s = execLoadObject s := rfl
theorem exec_translateAndLoad (s : State) : exec (.translateAndLoad) s = execTranslateAndLoad s := rfl
theorem exec_raiseFuseCounter (s : State) : exec (.raiseFuseCounter) s = execRaiseFuseCounter s := rfl
theorem exec_attestationReport (s : State) : exec (.attestationReport) s = execAttestationReport s := rfl
theorem exec_scrubPass (loc : Nat) (bad : Bool) (s : State) : exec (.scrubPass loc bad) s = execScrubPass loc bad s := rfl
theorem exec_pageRetire (frame : BitVec 38) (fresh : BitVec 38) (s : State) : exec (.pageRetire frame fresh) s = execPageRetire frame fresh s := rfl
theorem exec_linkCrcReplay (link : LinkId) (again : Bool) (s : State) : exec (.linkCrcReplay link again) s = execLinkCrcReplay link again s := rfl
theorem exec_linkRetrain (link : LinkId) (ok : Bool) (s : State) : exec (.linkRetrain link ok) s = execLinkRetrain link ok s := rfl
theorem exec_coreFence (die : BitVec 4) (clu : BitVec 14) (core : BitVec 3) (s : State) : exec (.coreFence die clu core) s = execCoreFence die clu core s := rfl
theorem exec_clusterFence (die : BitVec 4) (clu : BitVec 14) (s : State) : exec (.clusterFence die clu) s = execClusterFence die clu s := rfl
theorem exec_dieFence (die : BitVec 4) (s : State) : exec (.dieFence die) s = execDieFence die s := rfl
theorem exec_coreRepair (die : BitVec 4) (clu : BitVec 14) (core : BitVec 3) (s : State) : exec (.coreRepair die clu core) s = execCoreRepair die clu core s := rfl
theorem exec_clusterRepair (die : BitVec 4) (clu : BitVec 14) (spare : BitVec 14) (s : State) : exec (.clusterRepair die clu spare) s = execClusterRepair die clu spare s := rfl
theorem exec_powerWindow (sense : PowerSense) (s : State) : exec (.powerWindow sense) s = execPowerWindow sense s := rfl
theorem exec_thermalTrip (s : State) : exec .thermalTrip s = execThermalTrip s := rfl
theorem exec_powerOn (inp : StartInput) (s : State) : exec (.powerOn inp) s = execPowerOn inp s := rfl
theorem exec_coldStartRequest (inp : StartInput) (s : State) : exec (.coldStartRequest inp) s = execColdStartRequest inp s := rfl
theorem exec_warmStartRequest (inp : StartInput) (s : State) : exec (.warmStartRequest inp) s = execWarmStartRequest inp s := rfl
theorem exec_startTimeout (s : State) : exec (.startTimeout) s = execStartTimeout s := rfl
theorem exec_debugStop (s : State) : exec (.debugStop) s = execDebugStop s := rfl
theorem exec_debugRun (s : State) : exec (.debugRun) s = execDebugRun s := rfl
theorem exec_debugStep (s : State) : exec (.debugStep) s = execDebugStep s := rfl
theorem exec_stepDone (s : State) : exec (.stepDone) s = execStepDone s := rfl
theorem exec_stepTimeout (s : State) : exec (.stepTimeout) s = execStepTimeout s := rfl
theorem exec_daccRead (s : State) : exec (.daccRead) s = execDaccRead s := rfl
theorem exec_daccWrite (s : State) : exec (.daccWrite) s = execDaccWrite s := rfl
theorem exec_dstatRead (s : State) : exec (.dstatRead) s = execDstatRead s := rfl
theorem exec_histSample (die : BitVec 4) (s : State) : exec (.histSample die) s = execHistSample die s := rfl
theorem exec_intervalDump (die : BitVec 4) (s : State) : exec (.intervalDump die) s = execIntervalDump die s := rfl
theorem exec_illegalInstruction (sub : BitVec 8) (head : BitVec 16) (s : State) : exec (.illegalInstruction sub head) s = execIllegalInstruction sub head s := rfl
theorem exec_linkTrainingComplete (link : LinkId) (res : Training) (s : State) : exec (.linkTrainingComplete link res) s = execLinkTrainingComplete link res s := rfl
theorem exec_correctableErrorRecord (die : BitVec 4) (hbm : Bool) (count : BitVec 32) (s : State) : exec (.correctableErrorRecord die hbm count) s = execCorrectableErrorRecord die hbm count s := rfl
end Sys2Proof.Machine
end

