-- ==== Sys2Proof/Laws/State.lean ====
section
/-! SUPPORT. Fields read back after an update: one lemma per field and update, true by unfolding. -/
namespace Sys2Proof.Machine

@[simp] theorem State.setTh_th (s : State) (t : Thread) : (s.setTh t).th = t := by simp [State.setTh, State.th]
@[simp] theorem State.setTh_setTh (s : State) (t u : Thread) : (s.setTh t).setTh u = s.setTh u := by simp [State.setTh]
@[simp] theorem State.setTh_self (s : State) : s.setTh s.th = s := by simp [State.setTh, State.th]
@[simp] theorem State.modTh_th (s : State) (f : Thread → Thread) : (s.modTh f).th = f s.th := by simp [State.modTh]
theorem State.modTh_modTh (s : State) (f g : Thread → Thread) : (s.modTh f).modTh g = s.modTh fun t => g (f t) := by simp [State.modTh]
theorem State.modTh_id (s : State) : (s.modTh fun t => t) = s := by simp [State.modTh]
theorem State.advance_pc (s : State) : s.advance.th.pc = s.th.nextPc ∧ s.advance.th.status = .ready := by simp [State.advance]
theorem State.stall_th (s : State) : s.stall.th = { s.th with status := .stalled, onReg := false } := by simp [State.stall]
theorem State.parkOn_th (s : State) (p : Park) : (s.parkOn p).th = { s.th with status := .parked, park := p } := by simp [State.parkOn]
theorem State.missOn_th (s : State) (m : Miss) : (s.missOn m).th = { s.th with status := .missWait, miss := m } := by simp [State.missOn]

/-! ## setTh -/

@[simp] theorem State.setTh_cid (s : State) (t : Thread) : (s.setTh t).cid = s.cid := rfl
@[simp] theorem State.setTh_cur (s : State) (t : Thread) : (s.setTh t).cur = s.cur := rfl
@[simp] theorem State.setTh_others (s : State) (t : Thread) : (s.setTh t).others = s.others := rfl
@[simp] theorem State.setTh_clid (s : State) (t : Thread) : (s.setTh t).clid = s.clid := rfl
@[simp] theorem State.setTh_cl (s : State) (t : Thread) : (s.setTh t).cl = s.cl := rfl
@[simp] theorem State.setTh_otherCls (s : State) (t : Thread) : (s.setTh t).otherCls = s.otherCls := rfl
@[simp] theorem State.setTh_mem (s : State) (t : Thread) : (s.setTh t).mem = s.mem := rfl
@[simp] theorem State.setTh_full (s : State) (t : Thread) : (s.setTh t).full = s.full := rfl
@[simp] theorem State.setTh_feTaken (s : State) (t : Thread) : (s.setTh t).feTaken = s.feTaken := rfl
@[simp] theorem State.setTh_badWords (s : State) (t : Thread) : (s.setTh t).badWords = s.badWords := rfl
@[simp] theorem State.setTh_badBlocks (s : State) (t : Thread) : (s.setTh t).badBlocks = s.badBlocks := rfl
@[simp] theorem State.setTh_quarantine (s : State) (t : Thread) : (s.setTh t).quarantine = s.quarantine := rfl
@[simp] theorem State.setTh_feWait (s : State) (t : Thread) : (s.setTh t).feWait = s.feWait := rfl
@[simp] theorem State.setTh_waitaQ (s : State) (t : Thread) : (s.setTh t).waitaQ = s.waitaQ := rfl
@[simp] theorem State.setTh_ctxs (s : State) (t : Thread) : (s.setTh t).ctxs = s.ctxs := rfl
@[simp] theorem State.setTh_groups (s : State) (t : Thread) : (s.setTh t).groups = s.groups := rfl
@[simp] theorem State.setTh_remap (s : State) (t : Thread) : (s.setTh t).remap = s.remap := rfl
@[simp] theorem State.setTh_pageFly (s : State) (t : Thread) : (s.setTh t).pageFly = s.pageFly := rfl
@[simp] theorem State.setTh_pageTree (s : State) (t : Thread) : (s.setTh t).pageTree = s.pageTree := rfl
@[simp] theorem State.setTh_qFly (s : State) (t : Thread) : (s.setTh t).qFly = s.qFly := rfl
@[simp] theorem State.setTh_msgFly (s : State) (t : Thread) : (s.setTh t).msgFly = s.msgFly := rfl
@[simp] theorem State.setTh_ackFly (s : State) (t : Thread) : (s.setTh t).ackFly = s.ackFly := rfl
@[simp] theorem State.setTh_modOut (s : State) (t : Thread) : (s.setTh t).modOut = s.modOut := rfl
@[simp] theorem State.setTh_xfers (s : State) (t : Thread) : (s.setTh t).xfers = s.xfers := rfl
@[simp] theorem State.setTh_xferNo (s : State) (t : Thread) : (s.setTh t).xferNo = s.xferNo := rfl
@[simp] theorem State.setTh_xferGot (s : State) (t : Thread) : (s.setTh t).xferGot = s.xferGot := rfl
@[simp] theorem State.setTh_teams (s : State) (t : Thread) : (s.setTh t).teams = s.teams := rfl
@[simp] theorem State.setTh_teamNo (s : State) (t : Thread) : (s.setTh t).teamNo = s.teamNo := rfl
@[simp] theorem State.setTh_launches (s : State) (t : Thread) : (s.setTh t).launches = s.launches := rfl
@[simp] theorem State.setTh_uidNo (s : State) (t : Thread) : (s.setTh t).uidNo = s.uidNo := rfl
@[simp] theorem State.setTh_outs (s : State) (t : Thread) : (s.setTh t).outs = s.outs := rfl
@[simp] theorem State.setTh_reqs (s : State) (t : Thread) : (s.setTh t).reqs = s.reqs := rfl
@[simp] theorem State.setTh_reqNo (s : State) (t : Thread) : (s.setTh t).reqNo = s.reqNo := rfl
@[simp] theorem State.setTh_pools (s : State) (t : Thread) : (s.setTh t).pools = s.pools := rfl
@[simp] theorem State.setTh_queues (s : State) (t : Thread) : (s.setTh t).queues = s.queues := rfl
@[simp] theorem State.setTh_ksems (s : State) (t : Thread) : (s.setTh t).ksems = s.ksems := rfl
@[simp] theorem State.setTh_qswBusy (s : State) (t : Thread) : (s.setTh t).qswBusy = s.qswBusy := rfl
@[simp] theorem State.setTh_qswRefused (s : State) (t : Thread) : (s.setTh t).qswRefused = s.qswRefused := rfl
@[simp] theorem State.setTh_kturn (s : State) (t : Thread) : (s.setTh t).kturn = s.kturn := rfl
@[simp] theorem State.setTh_modId (s : State) (t : Thread) : (s.setTh t).modId = s.modId := rfl
@[simp] theorem State.setTh_gvec (s : State) (t : Thread) : (s.setTh t).gvec = s.gvec := rfl
@[simp] theorem State.setTh_gie (s : State) (t : Thread) : (s.setTh t).gie = s.gie := rfl
@[simp] theorem State.setTh_vecs (s : State) (t : Thread) : (s.setTh t).vecs = s.vecs := rfl
@[simp] theorem State.setTh_vecSent (s : State) (t : Thread) : (s.setTh t).vecSent = s.vecSent := rfl
@[simp] theorem State.setTh_hinges (s : State) (t : Thread) : (s.setTh t).hinges = s.hinges := rfl
@[simp] theorem State.setTh_hingeIn (s : State) (t : Thread) : (s.setTh t).hingeIn = s.hingeIn := rfl
@[simp] theorem State.setTh_hingeNo (s : State) (t : Thread) : (s.setTh t).hingeNo = s.hingeNo := rfl
@[simp] theorem State.setTh_budgets (s : State) (t : Thread) : (s.setTh t).budgets = s.budgets := rfl
@[simp] theorem State.setTh_budgetsNext (s : State) (t : Thread) : (s.setTh t).budgetsNext = s.budgetsNext := rfl
@[simp] theorem State.setTh_boot (s : State) (t : Thread) : (s.setTh t).boot = s.boot := rfl
@[simp] theorem State.setTh_tcache (s : State) (t : Thread) : (s.setTh t).tcache = s.tcache := rfl
@[simp] theorem State.setTh_retired (s : State) (t : Thread) : (s.setTh t).retired = s.retired := rfl
@[simp] theorem State.setTh_deadDies (s : State) (t : Thread) : (s.setTh t).deadDies = s.deadDies := rfl
@[simp] theorem State.setTh_spares (s : State) (t : Thread) : (s.setTh t).spares = s.spares := rfl
@[simp] theorem State.setTh_links (s : State) (t : Thread) : (s.setTh t).links = s.links := rfl
@[simp] theorem State.setTh_grid (s : State) (t : Thread) : (s.setTh t).grid = s.grid := rfl
@[simp] theorem State.setTh_hist (s : State) (t : Thread) : (s.setTh t).hist = s.hist := rfl
@[simp] theorem State.setTh_power (s : State) (t : Thread) : (s.setTh t).power = s.power := rfl
@[simp] theorem State.setTh_hostData (s : State) (t : Thread) : (s.setTh t).hostData = s.hostData := rfl
@[simp] theorem State.setTh_clk (s : State) (t : Thread) : (s.setTh t).clk = s.clk := rfl
@[simp] theorem State.setTh_running (s : State) (t : Thread) : (s.setTh t).running = s.running := rfl
@[simp] theorem State.setTh_agenda (s : State) (t : Thread) : (s.setTh t).agenda = s.agenda := rfl
@[simp] theorem State.setTh_beat (s : State) (t : Thread) : (s.setTh t).beat = s.beat := rfl
@[simp] theorem State.setTh_freeCtr (s : State) (t : Thread) : (s.setTh t).freeCtr = s.freeCtr := rfl

/-! ## modTh -/

@[simp] theorem State.modTh_cid (s : State) (f : Thread → Thread) : (s.modTh f).cid = s.cid := rfl
@[simp] theorem State.modTh_cur (s : State) (f : Thread → Thread) : (s.modTh f).cur = s.cur := rfl
@[simp] theorem State.modTh_others (s : State) (f : Thread → Thread) : (s.modTh f).others = s.others := rfl
@[simp] theorem State.modTh_clid (s : State) (f : Thread → Thread) : (s.modTh f).clid = s.clid := rfl
@[simp] theorem State.modTh_cl (s : State) (f : Thread → Thread) : (s.modTh f).cl = s.cl := rfl
@[simp] theorem State.modTh_otherCls (s : State) (f : Thread → Thread) : (s.modTh f).otherCls = s.otherCls := rfl
@[simp] theorem State.modTh_mem (s : State) (f : Thread → Thread) : (s.modTh f).mem = s.mem := rfl
@[simp] theorem State.modTh_full (s : State) (f : Thread → Thread) : (s.modTh f).full = s.full := rfl
@[simp] theorem State.modTh_feTaken (s : State) (f : Thread → Thread) : (s.modTh f).feTaken = s.feTaken := rfl
@[simp] theorem State.modTh_badWords (s : State) (f : Thread → Thread) : (s.modTh f).badWords = s.badWords := rfl
@[simp] theorem State.modTh_badBlocks (s : State) (f : Thread → Thread) : (s.modTh f).badBlocks = s.badBlocks := rfl
@[simp] theorem State.modTh_quarantine (s : State) (f : Thread → Thread) : (s.modTh f).quarantine = s.quarantine := rfl
@[simp] theorem State.modTh_feWait (s : State) (f : Thread → Thread) : (s.modTh f).feWait = s.feWait := rfl
@[simp] theorem State.modTh_waitaQ (s : State) (f : Thread → Thread) : (s.modTh f).waitaQ = s.waitaQ := rfl
@[simp] theorem State.modTh_ctxs (s : State) (f : Thread → Thread) : (s.modTh f).ctxs = s.ctxs := rfl
@[simp] theorem State.modTh_groups (s : State) (f : Thread → Thread) : (s.modTh f).groups = s.groups := rfl
@[simp] theorem State.modTh_remap (s : State) (f : Thread → Thread) : (s.modTh f).remap = s.remap := rfl
@[simp] theorem State.modTh_pageFly (s : State) (f : Thread → Thread) : (s.modTh f).pageFly = s.pageFly := rfl
@[simp] theorem State.modTh_pageTree (s : State) (f : Thread → Thread) : (s.modTh f).pageTree = s.pageTree := rfl
@[simp] theorem State.modTh_qFly (s : State) (f : Thread → Thread) : (s.modTh f).qFly = s.qFly := rfl
@[simp] theorem State.modTh_msgFly (s : State) (f : Thread → Thread) : (s.modTh f).msgFly = s.msgFly := rfl
@[simp] theorem State.modTh_ackFly (s : State) (f : Thread → Thread) : (s.modTh f).ackFly = s.ackFly := rfl
@[simp] theorem State.modTh_modOut (s : State) (f : Thread → Thread) : (s.modTh f).modOut = s.modOut := rfl
@[simp] theorem State.modTh_xfers (s : State) (f : Thread → Thread) : (s.modTh f).xfers = s.xfers := rfl
@[simp] theorem State.modTh_xferNo (s : State) (f : Thread → Thread) : (s.modTh f).xferNo = s.xferNo := rfl
@[simp] theorem State.modTh_xferGot (s : State) (f : Thread → Thread) : (s.modTh f).xferGot = s.xferGot := rfl
@[simp] theorem State.modTh_teams (s : State) (f : Thread → Thread) : (s.modTh f).teams = s.teams := rfl
@[simp] theorem State.modTh_teamNo (s : State) (f : Thread → Thread) : (s.modTh f).teamNo = s.teamNo := rfl
@[simp] theorem State.modTh_launches (s : State) (f : Thread → Thread) : (s.modTh f).launches = s.launches := rfl
@[simp] theorem State.modTh_uidNo (s : State) (f : Thread → Thread) : (s.modTh f).uidNo = s.uidNo := rfl
@[simp] theorem State.modTh_outs (s : State) (f : Thread → Thread) : (s.modTh f).outs = s.outs := rfl
@[simp] theorem State.modTh_reqs (s : State) (f : Thread → Thread) : (s.modTh f).reqs = s.reqs := rfl
@[simp] theorem State.modTh_reqNo (s : State) (f : Thread → Thread) : (s.modTh f).reqNo = s.reqNo := rfl
@[simp] theorem State.modTh_pools (s : State) (f : Thread → Thread) : (s.modTh f).pools = s.pools := rfl
@[simp] theorem State.modTh_queues (s : State) (f : Thread → Thread) : (s.modTh f).queues = s.queues := rfl
@[simp] theorem State.modTh_ksems (s : State) (f : Thread → Thread) : (s.modTh f).ksems = s.ksems := rfl
@[simp] theorem State.modTh_qswBusy (s : State) (f : Thread → Thread) : (s.modTh f).qswBusy = s.qswBusy := rfl
@[simp] theorem State.modTh_qswRefused (s : State) (f : Thread → Thread) : (s.modTh f).qswRefused = s.qswRefused := rfl
@[simp] theorem State.modTh_kturn (s : State) (f : Thread → Thread) : (s.modTh f).kturn = s.kturn := rfl
@[simp] theorem State.modTh_modId (s : State) (f : Thread → Thread) : (s.modTh f).modId = s.modId := rfl
@[simp] theorem State.modTh_gvec (s : State) (f : Thread → Thread) : (s.modTh f).gvec = s.gvec := rfl
@[simp] theorem State.modTh_gie (s : State) (f : Thread → Thread) : (s.modTh f).gie = s.gie := rfl
@[simp] theorem State.modTh_vecs (s : State) (f : Thread → Thread) : (s.modTh f).vecs = s.vecs := rfl
@[simp] theorem State.modTh_vecSent (s : State) (f : Thread → Thread) : (s.modTh f).vecSent = s.vecSent := rfl
@[simp] theorem State.modTh_hinges (s : State) (f : Thread → Thread) : (s.modTh f).hinges = s.hinges := rfl
@[simp] theorem State.modTh_hingeIn (s : State) (f : Thread → Thread) : (s.modTh f).hingeIn = s.hingeIn := rfl
@[simp] theorem State.modTh_hingeNo (s : State) (f : Thread → Thread) : (s.modTh f).hingeNo = s.hingeNo := rfl
@[simp] theorem State.modTh_budgets (s : State) (f : Thread → Thread) : (s.modTh f).budgets = s.budgets := rfl
@[simp] theorem State.modTh_budgetsNext (s : State) (f : Thread → Thread) : (s.modTh f).budgetsNext = s.budgetsNext := rfl
@[simp] theorem State.modTh_boot (s : State) (f : Thread → Thread) : (s.modTh f).boot = s.boot := rfl
@[simp] theorem State.modTh_tcache (s : State) (f : Thread → Thread) : (s.modTh f).tcache = s.tcache := rfl
@[simp] theorem State.modTh_retired (s : State) (f : Thread → Thread) : (s.modTh f).retired = s.retired := rfl
@[simp] theorem State.modTh_deadDies (s : State) (f : Thread → Thread) : (s.modTh f).deadDies = s.deadDies := rfl
@[simp] theorem State.modTh_spares (s : State) (f : Thread → Thread) : (s.modTh f).spares = s.spares := rfl
@[simp] theorem State.modTh_links (s : State) (f : Thread → Thread) : (s.modTh f).links = s.links := rfl
@[simp] theorem State.modTh_grid (s : State) (f : Thread → Thread) : (s.modTh f).grid = s.grid := rfl
@[simp] theorem State.modTh_hist (s : State) (f : Thread → Thread) : (s.modTh f).hist = s.hist := rfl
@[simp] theorem State.modTh_power (s : State) (f : Thread → Thread) : (s.modTh f).power = s.power := rfl
@[simp] theorem State.modTh_hostData (s : State) (f : Thread → Thread) : (s.modTh f).hostData = s.hostData := rfl
@[simp] theorem State.modTh_clk (s : State) (f : Thread → Thread) : (s.modTh f).clk = s.clk := rfl
@[simp] theorem State.modTh_running (s : State) (f : Thread → Thread) : (s.modTh f).running = s.running := rfl
@[simp] theorem State.modTh_agenda (s : State) (f : Thread → Thread) : (s.modTh f).agenda = s.agenda := rfl
@[simp] theorem State.modTh_beat (s : State) (f : Thread → Thread) : (s.modTh f).beat = s.beat := rfl
@[simp] theorem State.modTh_freeCtr (s : State) (f : Thread → Thread) : (s.modTh f).freeCtr = s.freeCtr := rfl

/-! ## setG -/

@[simp] theorem State.setG_cid (s : State) (d : Reg) (v : Word) : (s.setG d v).cid = s.cid := rfl
@[simp] theorem State.setG_cur (s : State) (d : Reg) (v : Word) : (s.setG d v).cur = s.cur := rfl
@[simp] theorem State.setG_others (s : State) (d : Reg) (v : Word) : (s.setG d v).others = s.others := rfl
@[simp] theorem State.setG_clid (s : State) (d : Reg) (v : Word) : (s.setG d v).clid = s.clid := rfl
@[simp] theorem State.setG_cl (s : State) (d : Reg) (v : Word) : (s.setG d v).cl = s.cl := rfl
@[simp] theorem State.setG_otherCls (s : State) (d : Reg) (v : Word) : (s.setG d v).otherCls = s.otherCls := rfl
@[simp] theorem State.setG_mem (s : State) (d : Reg) (v : Word) : (s.setG d v).mem = s.mem := rfl
@[simp] theorem State.setG_full (s : State) (d : Reg) (v : Word) : (s.setG d v).full = s.full := rfl
@[simp] theorem State.setG_feTaken (s : State) (d : Reg) (v : Word) : (s.setG d v).feTaken = s.feTaken := rfl
@[simp] theorem State.setG_badWords (s : State) (d : Reg) (v : Word) : (s.setG d v).badWords = s.badWords := rfl
@[simp] theorem State.setG_badBlocks (s : State) (d : Reg) (v : Word) : (s.setG d v).badBlocks = s.badBlocks := rfl
@[simp] theorem State.setG_quarantine (s : State) (d : Reg) (v : Word) : (s.setG d v).quarantine = s.quarantine := rfl
@[simp] theorem State.setG_feWait (s : State) (d : Reg) (v : Word) : (s.setG d v).feWait = s.feWait := rfl
@[simp] theorem State.setG_waitaQ (s : State) (d : Reg) (v : Word) : (s.setG d v).waitaQ = s.waitaQ := rfl
@[simp] theorem State.setG_ctxs (s : State) (d : Reg) (v : Word) : (s.setG d v).ctxs = s.ctxs := rfl
@[simp] theorem State.setG_groups (s : State) (d : Reg) (v : Word) : (s.setG d v).groups = s.groups := rfl
@[simp] theorem State.setG_remap (s : State) (d : Reg) (v : Word) : (s.setG d v).remap = s.remap := rfl
@[simp] theorem State.setG_pageFly (s : State) (d : Reg) (v : Word) : (s.setG d v).pageFly = s.pageFly := rfl
@[simp] theorem State.setG_pageTree (s : State) (d : Reg) (v : Word) : (s.setG d v).pageTree = s.pageTree := rfl
@[simp] theorem State.setG_qFly (s : State) (d : Reg) (v : Word) : (s.setG d v).qFly = s.qFly := rfl
@[simp] theorem State.setG_msgFly (s : State) (d : Reg) (v : Word) : (s.setG d v).msgFly = s.msgFly := rfl
@[simp] theorem State.setG_ackFly (s : State) (d : Reg) (v : Word) : (s.setG d v).ackFly = s.ackFly := rfl
@[simp] theorem State.setG_modOut (s : State) (d : Reg) (v : Word) : (s.setG d v).modOut = s.modOut := rfl
@[simp] theorem State.setG_xfers (s : State) (d : Reg) (v : Word) : (s.setG d v).xfers = s.xfers := rfl
@[simp] theorem State.setG_xferNo (s : State) (d : Reg) (v : Word) : (s.setG d v).xferNo = s.xferNo := rfl
@[simp] theorem State.setG_xferGot (s : State) (d : Reg) (v : Word) : (s.setG d v).xferGot = s.xferGot := rfl
@[simp] theorem State.setG_teams (s : State) (d : Reg) (v : Word) : (s.setG d v).teams = s.teams := rfl
@[simp] theorem State.setG_teamNo (s : State) (d : Reg) (v : Word) : (s.setG d v).teamNo = s.teamNo := rfl
@[simp] theorem State.setG_launches (s : State) (d : Reg) (v : Word) : (s.setG d v).launches = s.launches := rfl
@[simp] theorem State.setG_uidNo (s : State) (d : Reg) (v : Word) : (s.setG d v).uidNo = s.uidNo := rfl
@[simp] theorem State.setG_outs (s : State) (d : Reg) (v : Word) : (s.setG d v).outs = s.outs := rfl
@[simp] theorem State.setG_reqs (s : State) (d : Reg) (v : Word) : (s.setG d v).reqs = s.reqs := rfl
@[simp] theorem State.setG_reqNo (s : State) (d : Reg) (v : Word) : (s.setG d v).reqNo = s.reqNo := rfl
@[simp] theorem State.setG_pools (s : State) (d : Reg) (v : Word) : (s.setG d v).pools = s.pools := rfl
@[simp] theorem State.setG_queues (s : State) (d : Reg) (v : Word) : (s.setG d v).queues = s.queues := rfl
@[simp] theorem State.setG_ksems (s : State) (d : Reg) (v : Word) : (s.setG d v).ksems = s.ksems := rfl
@[simp] theorem State.setG_qswBusy (s : State) (d : Reg) (v : Word) : (s.setG d v).qswBusy = s.qswBusy := rfl
@[simp] theorem State.setG_qswRefused (s : State) (d : Reg) (v : Word) : (s.setG d v).qswRefused = s.qswRefused := rfl
@[simp] theorem State.setG_kturn (s : State) (d : Reg) (v : Word) : (s.setG d v).kturn = s.kturn := rfl
@[simp] theorem State.setG_modId (s : State) (d : Reg) (v : Word) : (s.setG d v).modId = s.modId := rfl
@[simp] theorem State.setG_gvec (s : State) (d : Reg) (v : Word) : (s.setG d v).gvec = s.gvec := rfl
@[simp] theorem State.setG_gie (s : State) (d : Reg) (v : Word) : (s.setG d v).gie = s.gie := rfl
@[simp] theorem State.setG_vecs (s : State) (d : Reg) (v : Word) : (s.setG d v).vecs = s.vecs := rfl
@[simp] theorem State.setG_vecSent (s : State) (d : Reg) (v : Word) : (s.setG d v).vecSent = s.vecSent := rfl
@[simp] theorem State.setG_hinges (s : State) (d : Reg) (v : Word) : (s.setG d v).hinges = s.hinges := rfl
@[simp] theorem State.setG_hingeIn (s : State) (d : Reg) (v : Word) : (s.setG d v).hingeIn = s.hingeIn := rfl
@[simp] theorem State.setG_hingeNo (s : State) (d : Reg) (v : Word) : (s.setG d v).hingeNo = s.hingeNo := rfl
@[simp] theorem State.setG_budgets (s : State) (d : Reg) (v : Word) : (s.setG d v).budgets = s.budgets := rfl
@[simp] theorem State.setG_budgetsNext (s : State) (d : Reg) (v : Word) : (s.setG d v).budgetsNext = s.budgetsNext := rfl
@[simp] theorem State.setG_boot (s : State) (d : Reg) (v : Word) : (s.setG d v).boot = s.boot := rfl
@[simp] theorem State.setG_tcache (s : State) (d : Reg) (v : Word) : (s.setG d v).tcache = s.tcache := rfl
@[simp] theorem State.setG_retired (s : State) (d : Reg) (v : Word) : (s.setG d v).retired = s.retired := rfl
@[simp] theorem State.setG_deadDies (s : State) (d : Reg) (v : Word) : (s.setG d v).deadDies = s.deadDies := rfl
@[simp] theorem State.setG_spares (s : State) (d : Reg) (v : Word) : (s.setG d v).spares = s.spares := rfl
@[simp] theorem State.setG_links (s : State) (d : Reg) (v : Word) : (s.setG d v).links = s.links := rfl
@[simp] theorem State.setG_grid (s : State) (d : Reg) (v : Word) : (s.setG d v).grid = s.grid := rfl
@[simp] theorem State.setG_hist (s : State) (d : Reg) (v : Word) : (s.setG d v).hist = s.hist := rfl
@[simp] theorem State.setG_power (s : State) (d : Reg) (v : Word) : (s.setG d v).power = s.power := rfl
@[simp] theorem State.setG_hostData (s : State) (d : Reg) (v : Word) : (s.setG d v).hostData = s.hostData := rfl
@[simp] theorem State.setG_clk (s : State) (d : Reg) (v : Word) : (s.setG d v).clk = s.clk := rfl
@[simp] theorem State.setG_running (s : State) (d : Reg) (v : Word) : (s.setG d v).running = s.running := rfl
@[simp] theorem State.setG_agenda (s : State) (d : Reg) (v : Word) : (s.setG d v).agenda = s.agenda := rfl
@[simp] theorem State.setG_beat (s : State) (d : Reg) (v : Word) : (s.setG d v).beat = s.beat := rfl
@[simp] theorem State.setG_freeCtr (s : State) (d : Reg) (v : Word) : (s.setG d v).freeCtr = s.freeCtr := rfl

/-! ## advance -/

@[simp] theorem State.advance_cid (s : State) : (s.advance).cid = s.cid := rfl
@[simp] theorem State.advance_cur (s : State) : (s.advance).cur = s.cur := rfl
@[simp] theorem State.advance_others (s : State) : (s.advance).others = s.others := rfl
@[simp] theorem State.advance_clid (s : State) : (s.advance).clid = s.clid := rfl
@[simp] theorem State.advance_cl (s : State) : (s.advance).cl = s.cl := rfl
@[simp] theorem State.advance_otherCls (s : State) : (s.advance).otherCls = s.otherCls := rfl
@[simp] theorem State.advance_mem (s : State) : (s.advance).mem = s.mem := rfl
@[simp] theorem State.advance_full (s : State) : (s.advance).full = s.full := rfl
@[simp] theorem State.advance_feTaken (s : State) : (s.advance).feTaken = s.feTaken := rfl
@[simp] theorem State.advance_badWords (s : State) : (s.advance).badWords = s.badWords := rfl
@[simp] theorem State.advance_badBlocks (s : State) : (s.advance).badBlocks = s.badBlocks := rfl
@[simp] theorem State.advance_quarantine (s : State) : (s.advance).quarantine = s.quarantine := rfl
@[simp] theorem State.advance_feWait (s : State) : (s.advance).feWait = s.feWait := rfl
@[simp] theorem State.advance_waitaQ (s : State) : (s.advance).waitaQ = s.waitaQ := rfl
@[simp] theorem State.advance_ctxs (s : State) : (s.advance).ctxs = s.ctxs := rfl
@[simp] theorem State.advance_groups (s : State) : (s.advance).groups = s.groups := rfl
@[simp] theorem State.advance_remap (s : State) : (s.advance).remap = s.remap := rfl
@[simp] theorem State.advance_pageFly (s : State) : (s.advance).pageFly = s.pageFly := rfl
@[simp] theorem State.advance_pageTree (s : State) : (s.advance).pageTree = s.pageTree := rfl
@[simp] theorem State.advance_qFly (s : State) : (s.advance).qFly = s.qFly := rfl
@[simp] theorem State.advance_msgFly (s : State) : (s.advance).msgFly = s.msgFly := rfl
@[simp] theorem State.advance_ackFly (s : State) : (s.advance).ackFly = s.ackFly := rfl
@[simp] theorem State.advance_modOut (s : State) : (s.advance).modOut = s.modOut := rfl
@[simp] theorem State.advance_xfers (s : State) : (s.advance).xfers = s.xfers := rfl
@[simp] theorem State.advance_xferNo (s : State) : (s.advance).xferNo = s.xferNo := rfl
@[simp] theorem State.advance_xferGot (s : State) : (s.advance).xferGot = s.xferGot := rfl
@[simp] theorem State.advance_teams (s : State) : (s.advance).teams = s.teams := rfl
@[simp] theorem State.advance_teamNo (s : State) : (s.advance).teamNo = s.teamNo := rfl
@[simp] theorem State.advance_launches (s : State) : (s.advance).launches = s.launches := rfl
@[simp] theorem State.advance_uidNo (s : State) : (s.advance).uidNo = s.uidNo := rfl
@[simp] theorem State.advance_outs (s : State) : (s.advance).outs = s.outs := rfl
@[simp] theorem State.advance_reqs (s : State) : (s.advance).reqs = s.reqs := rfl
@[simp] theorem State.advance_reqNo (s : State) : (s.advance).reqNo = s.reqNo := rfl
@[simp] theorem State.advance_pools (s : State) : (s.advance).pools = s.pools := rfl
@[simp] theorem State.advance_queues (s : State) : (s.advance).queues = s.queues := rfl
@[simp] theorem State.advance_ksems (s : State) : (s.advance).ksems = s.ksems := rfl
@[simp] theorem State.advance_qswBusy (s : State) : (s.advance).qswBusy = s.qswBusy := rfl
@[simp] theorem State.advance_qswRefused (s : State) : (s.advance).qswRefused = s.qswRefused := rfl
@[simp] theorem State.advance_kturn (s : State) : (s.advance).kturn = s.kturn := rfl
@[simp] theorem State.advance_modId (s : State) : (s.advance).modId = s.modId := rfl
@[simp] theorem State.advance_gvec (s : State) : (s.advance).gvec = s.gvec := rfl
@[simp] theorem State.advance_gie (s : State) : (s.advance).gie = s.gie := rfl
@[simp] theorem State.advance_vecs (s : State) : (s.advance).vecs = s.vecs := rfl
@[simp] theorem State.advance_vecSent (s : State) : (s.advance).vecSent = s.vecSent := rfl
@[simp] theorem State.advance_hinges (s : State) : (s.advance).hinges = s.hinges := rfl
@[simp] theorem State.advance_hingeIn (s : State) : (s.advance).hingeIn = s.hingeIn := rfl
@[simp] theorem State.advance_hingeNo (s : State) : (s.advance).hingeNo = s.hingeNo := rfl
@[simp] theorem State.advance_budgets (s : State) : (s.advance).budgets = s.budgets := rfl
@[simp] theorem State.advance_budgetsNext (s : State) : (s.advance).budgetsNext = s.budgetsNext := rfl
@[simp] theorem State.advance_boot (s : State) : (s.advance).boot = s.boot := rfl
@[simp] theorem State.advance_tcache (s : State) : (s.advance).tcache = s.tcache := rfl
@[simp] theorem State.advance_retired (s : State) : (s.advance).retired = s.retired := rfl
@[simp] theorem State.advance_deadDies (s : State) : (s.advance).deadDies = s.deadDies := rfl
@[simp] theorem State.advance_spares (s : State) : (s.advance).spares = s.spares := rfl
@[simp] theorem State.advance_links (s : State) : (s.advance).links = s.links := rfl
@[simp] theorem State.advance_grid (s : State) : (s.advance).grid = s.grid := rfl
@[simp] theorem State.advance_hist (s : State) : (s.advance).hist = s.hist := rfl
@[simp] theorem State.advance_power (s : State) : (s.advance).power = s.power := rfl
@[simp] theorem State.advance_hostData (s : State) : (s.advance).hostData = s.hostData := rfl
@[simp] theorem State.advance_clk (s : State) : (s.advance).clk = s.clk := rfl
@[simp] theorem State.advance_running (s : State) : (s.advance).running = s.running := rfl
@[simp] theorem State.advance_agenda (s : State) : (s.advance).agenda = s.agenda := rfl
@[simp] theorem State.advance_beat (s : State) : (s.advance).beat = s.beat := rfl
@[simp] theorem State.advance_freeCtr (s : State) : (s.advance).freeCtr = s.freeCtr := rfl

/-! ## stall -/

@[simp] theorem State.stall_cid (s : State) : (s.stall).cid = s.cid := rfl
@[simp] theorem State.stall_cur (s : State) : (s.stall).cur = s.cur := rfl
@[simp] theorem State.stall_others (s : State) : (s.stall).others = s.others := rfl
@[simp] theorem State.stall_clid (s : State) : (s.stall).clid = s.clid := rfl
@[simp] theorem State.stall_cl (s : State) : (s.stall).cl = s.cl := rfl
@[simp] theorem State.stall_otherCls (s : State) : (s.stall).otherCls = s.otherCls := rfl
@[simp] theorem State.stall_mem (s : State) : (s.stall).mem = s.mem := rfl
@[simp] theorem State.stall_full (s : State) : (s.stall).full = s.full := rfl
@[simp] theorem State.stall_feTaken (s : State) : (s.stall).feTaken = s.feTaken := rfl
@[simp] theorem State.stall_badWords (s : State) : (s.stall).badWords = s.badWords := rfl
@[simp] theorem State.stall_badBlocks (s : State) : (s.stall).badBlocks = s.badBlocks := rfl
@[simp] theorem State.stall_quarantine (s : State) : (s.stall).quarantine = s.quarantine := rfl
@[simp] theorem State.stall_feWait (s : State) : (s.stall).feWait = s.feWait := rfl
@[simp] theorem State.stall_waitaQ (s : State) : (s.stall).waitaQ = s.waitaQ := rfl
@[simp] theorem State.stall_ctxs (s : State) : (s.stall).ctxs = s.ctxs := rfl
@[simp] theorem State.stall_groups (s : State) : (s.stall).groups = s.groups := rfl
@[simp] theorem State.stall_remap (s : State) : (s.stall).remap = s.remap := rfl
@[simp] theorem State.stall_pageFly (s : State) : (s.stall).pageFly = s.pageFly := rfl
@[simp] theorem State.stall_pageTree (s : State) : (s.stall).pageTree = s.pageTree := rfl
@[simp] theorem State.stall_qFly (s : State) : (s.stall).qFly = s.qFly := rfl
@[simp] theorem State.stall_msgFly (s : State) : (s.stall).msgFly = s.msgFly := rfl
@[simp] theorem State.stall_ackFly (s : State) : (s.stall).ackFly = s.ackFly := rfl
@[simp] theorem State.stall_modOut (s : State) : (s.stall).modOut = s.modOut := rfl
@[simp] theorem State.stall_xfers (s : State) : (s.stall).xfers = s.xfers := rfl
@[simp] theorem State.stall_xferNo (s : State) : (s.stall).xferNo = s.xferNo := rfl
@[simp] theorem State.stall_xferGot (s : State) : (s.stall).xferGot = s.xferGot := rfl
@[simp] theorem State.stall_teams (s : State) : (s.stall).teams = s.teams := rfl
@[simp] theorem State.stall_teamNo (s : State) : (s.stall).teamNo = s.teamNo := rfl
@[simp] theorem State.stall_launches (s : State) : (s.stall).launches = s.launches := rfl
@[simp] theorem State.stall_uidNo (s : State) : (s.stall).uidNo = s.uidNo := rfl
@[simp] theorem State.stall_outs (s : State) : (s.stall).outs = s.outs := rfl
@[simp] theorem State.stall_reqs (s : State) : (s.stall).reqs = s.reqs := rfl
@[simp] theorem State.stall_reqNo (s : State) : (s.stall).reqNo = s.reqNo := rfl
@[simp] theorem State.stall_pools (s : State) : (s.stall).pools = s.pools := rfl
@[simp] theorem State.stall_queues (s : State) : (s.stall).queues = s.queues := rfl
@[simp] theorem State.stall_ksems (s : State) : (s.stall).ksems = s.ksems := rfl
@[simp] theorem State.stall_qswBusy (s : State) : (s.stall).qswBusy = s.qswBusy := rfl
@[simp] theorem State.stall_qswRefused (s : State) : (s.stall).qswRefused = s.qswRefused := rfl
@[simp] theorem State.stall_kturn (s : State) : (s.stall).kturn = s.kturn := rfl
@[simp] theorem State.stall_modId (s : State) : (s.stall).modId = s.modId := rfl
@[simp] theorem State.stall_gvec (s : State) : (s.stall).gvec = s.gvec := rfl
@[simp] theorem State.stall_gie (s : State) : (s.stall).gie = s.gie := rfl
@[simp] theorem State.stall_vecs (s : State) : (s.stall).vecs = s.vecs := rfl
@[simp] theorem State.stall_vecSent (s : State) : (s.stall).vecSent = s.vecSent := rfl
@[simp] theorem State.stall_hinges (s : State) : (s.stall).hinges = s.hinges := rfl
@[simp] theorem State.stall_hingeIn (s : State) : (s.stall).hingeIn = s.hingeIn := rfl
@[simp] theorem State.stall_hingeNo (s : State) : (s.stall).hingeNo = s.hingeNo := rfl
@[simp] theorem State.stall_budgets (s : State) : (s.stall).budgets = s.budgets := rfl
@[simp] theorem State.stall_budgetsNext (s : State) : (s.stall).budgetsNext = s.budgetsNext := rfl
@[simp] theorem State.stall_boot (s : State) : (s.stall).boot = s.boot := rfl
@[simp] theorem State.stall_tcache (s : State) : (s.stall).tcache = s.tcache := rfl
@[simp] theorem State.stall_retired (s : State) : (s.stall).retired = s.retired := rfl
@[simp] theorem State.stall_deadDies (s : State) : (s.stall).deadDies = s.deadDies := rfl
@[simp] theorem State.stall_spares (s : State) : (s.stall).spares = s.spares := rfl
@[simp] theorem State.stall_links (s : State) : (s.stall).links = s.links := rfl
@[simp] theorem State.stall_grid (s : State) : (s.stall).grid = s.grid := rfl
@[simp] theorem State.stall_hist (s : State) : (s.stall).hist = s.hist := rfl
@[simp] theorem State.stall_power (s : State) : (s.stall).power = s.power := rfl
@[simp] theorem State.stall_hostData (s : State) : (s.stall).hostData = s.hostData := rfl
@[simp] theorem State.stall_clk (s : State) : (s.stall).clk = s.clk := rfl
@[simp] theorem State.stall_running (s : State) : (s.stall).running = s.running := rfl
@[simp] theorem State.stall_agenda (s : State) : (s.stall).agenda = s.agenda := rfl
@[simp] theorem State.stall_beat (s : State) : (s.stall).beat = s.beat := rfl
@[simp] theorem State.stall_freeCtr (s : State) : (s.stall).freeCtr = s.freeCtr := rfl

/-! ## stallReg -/

@[simp] theorem State.stallReg_cid (s : State) : (s.stallReg).cid = s.cid := rfl
@[simp] theorem State.stallReg_cur (s : State) : (s.stallReg).cur = s.cur := rfl
@[simp] theorem State.stallReg_others (s : State) : (s.stallReg).others = s.others := rfl
@[simp] theorem State.stallReg_clid (s : State) : (s.stallReg).clid = s.clid := rfl
@[simp] theorem State.stallReg_cl (s : State) : (s.stallReg).cl = s.cl := rfl
@[simp] theorem State.stallReg_otherCls (s : State) : (s.stallReg).otherCls = s.otherCls := rfl
@[simp] theorem State.stallReg_mem (s : State) : (s.stallReg).mem = s.mem := rfl
@[simp] theorem State.stallReg_full (s : State) : (s.stallReg).full = s.full := rfl
@[simp] theorem State.stallReg_feTaken (s : State) : (s.stallReg).feTaken = s.feTaken := rfl
@[simp] theorem State.stallReg_badWords (s : State) : (s.stallReg).badWords = s.badWords := rfl
@[simp] theorem State.stallReg_badBlocks (s : State) : (s.stallReg).badBlocks = s.badBlocks := rfl
@[simp] theorem State.stallReg_quarantine (s : State) : (s.stallReg).quarantine = s.quarantine := rfl
@[simp] theorem State.stallReg_feWait (s : State) : (s.stallReg).feWait = s.feWait := rfl
@[simp] theorem State.stallReg_waitaQ (s : State) : (s.stallReg).waitaQ = s.waitaQ := rfl
@[simp] theorem State.stallReg_ctxs (s : State) : (s.stallReg).ctxs = s.ctxs := rfl
@[simp] theorem State.stallReg_groups (s : State) : (s.stallReg).groups = s.groups := rfl
@[simp] theorem State.stallReg_remap (s : State) : (s.stallReg).remap = s.remap := rfl
@[simp] theorem State.stallReg_pageFly (s : State) : (s.stallReg).pageFly = s.pageFly := rfl
@[simp] theorem State.stallReg_pageTree (s : State) : (s.stallReg).pageTree = s.pageTree := rfl
@[simp] theorem State.stallReg_qFly (s : State) : (s.stallReg).qFly = s.qFly := rfl
@[simp] theorem State.stallReg_msgFly (s : State) : (s.stallReg).msgFly = s.msgFly := rfl
@[simp] theorem State.stallReg_ackFly (s : State) : (s.stallReg).ackFly = s.ackFly := rfl
@[simp] theorem State.stallReg_modOut (s : State) : (s.stallReg).modOut = s.modOut := rfl
@[simp] theorem State.stallReg_xfers (s : State) : (s.stallReg).xfers = s.xfers := rfl
@[simp] theorem State.stallReg_xferNo (s : State) : (s.stallReg).xferNo = s.xferNo := rfl
@[simp] theorem State.stallReg_xferGot (s : State) : (s.stallReg).xferGot = s.xferGot := rfl
@[simp] theorem State.stallReg_teams (s : State) : (s.stallReg).teams = s.teams := rfl
@[simp] theorem State.stallReg_teamNo (s : State) : (s.stallReg).teamNo = s.teamNo := rfl
@[simp] theorem State.stallReg_launches (s : State) : (s.stallReg).launches = s.launches := rfl
@[simp] theorem State.stallReg_uidNo (s : State) : (s.stallReg).uidNo = s.uidNo := rfl
@[simp] theorem State.stallReg_outs (s : State) : (s.stallReg).outs = s.outs := rfl
@[simp] theorem State.stallReg_reqs (s : State) : (s.stallReg).reqs = s.reqs := rfl
@[simp] theorem State.stallReg_reqNo (s : State) : (s.stallReg).reqNo = s.reqNo := rfl
@[simp] theorem State.stallReg_pools (s : State) : (s.stallReg).pools = s.pools := rfl
@[simp] theorem State.stallReg_queues (s : State) : (s.stallReg).queues = s.queues := rfl
@[simp] theorem State.stallReg_ksems (s : State) : (s.stallReg).ksems = s.ksems := rfl
@[simp] theorem State.stallReg_qswBusy (s : State) : (s.stallReg).qswBusy = s.qswBusy := rfl
@[simp] theorem State.stallReg_qswRefused (s : State) : (s.stallReg).qswRefused = s.qswRefused := rfl
@[simp] theorem State.stallReg_kturn (s : State) : (s.stallReg).kturn = s.kturn := rfl
@[simp] theorem State.stallReg_modId (s : State) : (s.stallReg).modId = s.modId := rfl
@[simp] theorem State.stallReg_gvec (s : State) : (s.stallReg).gvec = s.gvec := rfl
@[simp] theorem State.stallReg_gie (s : State) : (s.stallReg).gie = s.gie := rfl
@[simp] theorem State.stallReg_vecs (s : State) : (s.stallReg).vecs = s.vecs := rfl
@[simp] theorem State.stallReg_vecSent (s : State) : (s.stallReg).vecSent = s.vecSent := rfl
@[simp] theorem State.stallReg_hinges (s : State) : (s.stallReg).hinges = s.hinges := rfl
@[simp] theorem State.stallReg_hingeIn (s : State) : (s.stallReg).hingeIn = s.hingeIn := rfl
@[simp] theorem State.stallReg_hingeNo (s : State) : (s.stallReg).hingeNo = s.hingeNo := rfl
@[simp] theorem State.stallReg_budgets (s : State) : (s.stallReg).budgets = s.budgets := rfl
@[simp] theorem State.stallReg_budgetsNext (s : State) : (s.stallReg).budgetsNext = s.budgetsNext := rfl
@[simp] theorem State.stallReg_boot (s : State) : (s.stallReg).boot = s.boot := rfl
@[simp] theorem State.stallReg_tcache (s : State) : (s.stallReg).tcache = s.tcache := rfl
@[simp] theorem State.stallReg_retired (s : State) : (s.stallReg).retired = s.retired := rfl
@[simp] theorem State.stallReg_deadDies (s : State) : (s.stallReg).deadDies = s.deadDies := rfl
@[simp] theorem State.stallReg_spares (s : State) : (s.stallReg).spares = s.spares := rfl
@[simp] theorem State.stallReg_links (s : State) : (s.stallReg).links = s.links := rfl
@[simp] theorem State.stallReg_grid (s : State) : (s.stallReg).grid = s.grid := rfl
@[simp] theorem State.stallReg_hist (s : State) : (s.stallReg).hist = s.hist := rfl
@[simp] theorem State.stallReg_power (s : State) : (s.stallReg).power = s.power := rfl
@[simp] theorem State.stallReg_hostData (s : State) : (s.stallReg).hostData = s.hostData := rfl
@[simp] theorem State.stallReg_clk (s : State) : (s.stallReg).clk = s.clk := rfl
@[simp] theorem State.stallReg_running (s : State) : (s.stallReg).running = s.running := rfl
@[simp] theorem State.stallReg_agenda (s : State) : (s.stallReg).agenda = s.agenda := rfl
@[simp] theorem State.stallReg_beat (s : State) : (s.stallReg).beat = s.beat := rfl
@[simp] theorem State.stallReg_freeCtr (s : State) : (s.stallReg).freeCtr = s.freeCtr := rfl

/-! ## parkOn -/

@[simp] theorem State.parkOn_cid (s : State) (p : Park) : (s.parkOn p).cid = s.cid := rfl
@[simp] theorem State.parkOn_cur (s : State) (p : Park) : (s.parkOn p).cur = s.cur := rfl
@[simp] theorem State.parkOn_others (s : State) (p : Park) : (s.parkOn p).others = s.others := rfl
@[simp] theorem State.parkOn_clid (s : State) (p : Park) : (s.parkOn p).clid = s.clid := rfl
@[simp] theorem State.parkOn_cl (s : State) (p : Park) : (s.parkOn p).cl = s.cl := rfl
@[simp] theorem State.parkOn_otherCls (s : State) (p : Park) : (s.parkOn p).otherCls = s.otherCls := rfl
@[simp] theorem State.parkOn_mem (s : State) (p : Park) : (s.parkOn p).mem = s.mem := rfl
@[simp] theorem State.parkOn_full (s : State) (p : Park) : (s.parkOn p).full = s.full := rfl
@[simp] theorem State.parkOn_feTaken (s : State) (p : Park) : (s.parkOn p).feTaken = s.feTaken := rfl
@[simp] theorem State.parkOn_badWords (s : State) (p : Park) : (s.parkOn p).badWords = s.badWords := rfl
@[simp] theorem State.parkOn_badBlocks (s : State) (p : Park) : (s.parkOn p).badBlocks = s.badBlocks := rfl
@[simp] theorem State.parkOn_quarantine (s : State) (p : Park) : (s.parkOn p).quarantine = s.quarantine := rfl
@[simp] theorem State.parkOn_feWait (s : State) (p : Park) : (s.parkOn p).feWait = s.feWait := rfl
@[simp] theorem State.parkOn_waitaQ (s : State) (p : Park) : (s.parkOn p).waitaQ = s.waitaQ := rfl
@[simp] theorem State.parkOn_ctxs (s : State) (p : Park) : (s.parkOn p).ctxs = s.ctxs := rfl
@[simp] theorem State.parkOn_groups (s : State) (p : Park) : (s.parkOn p).groups = s.groups := rfl
@[simp] theorem State.parkOn_remap (s : State) (p : Park) : (s.parkOn p).remap = s.remap := rfl
@[simp] theorem State.parkOn_pageFly (s : State) (p : Park) : (s.parkOn p).pageFly = s.pageFly := rfl
@[simp] theorem State.parkOn_pageTree (s : State) (p : Park) : (s.parkOn p).pageTree = s.pageTree := rfl
@[simp] theorem State.parkOn_qFly (s : State) (p : Park) : (s.parkOn p).qFly = s.qFly := rfl
@[simp] theorem State.parkOn_msgFly (s : State) (p : Park) : (s.parkOn p).msgFly = s.msgFly := rfl
@[simp] theorem State.parkOn_ackFly (s : State) (p : Park) : (s.parkOn p).ackFly = s.ackFly := rfl
@[simp] theorem State.parkOn_modOut (s : State) (p : Park) : (s.parkOn p).modOut = s.modOut := rfl
@[simp] theorem State.parkOn_xfers (s : State) (p : Park) : (s.parkOn p).xfers = s.xfers := rfl
@[simp] theorem State.parkOn_xferNo (s : State) (p : Park) : (s.parkOn p).xferNo = s.xferNo := rfl
@[simp] theorem State.parkOn_xferGot (s : State) (p : Park) : (s.parkOn p).xferGot = s.xferGot := rfl
@[simp] theorem State.parkOn_teams (s : State) (p : Park) : (s.parkOn p).teams = s.teams := rfl
@[simp] theorem State.parkOn_teamNo (s : State) (p : Park) : (s.parkOn p).teamNo = s.teamNo := rfl
@[simp] theorem State.parkOn_launches (s : State) (p : Park) : (s.parkOn p).launches = s.launches := rfl
@[simp] theorem State.parkOn_uidNo (s : State) (p : Park) : (s.parkOn p).uidNo = s.uidNo := rfl
@[simp] theorem State.parkOn_outs (s : State) (p : Park) : (s.parkOn p).outs = s.outs := rfl
@[simp] theorem State.parkOn_reqs (s : State) (p : Park) : (s.parkOn p).reqs = s.reqs := rfl
@[simp] theorem State.parkOn_reqNo (s : State) (p : Park) : (s.parkOn p).reqNo = s.reqNo := rfl
@[simp] theorem State.parkOn_pools (s : State) (p : Park) : (s.parkOn p).pools = s.pools := rfl
@[simp] theorem State.parkOn_queues (s : State) (p : Park) : (s.parkOn p).queues = s.queues := rfl
@[simp] theorem State.parkOn_ksems (s : State) (p : Park) : (s.parkOn p).ksems = s.ksems := rfl
@[simp] theorem State.parkOn_qswBusy (s : State) (p : Park) : (s.parkOn p).qswBusy = s.qswBusy := rfl
@[simp] theorem State.parkOn_qswRefused (s : State) (p : Park) : (s.parkOn p).qswRefused = s.qswRefused := rfl
@[simp] theorem State.parkOn_kturn (s : State) (p : Park) : (s.parkOn p).kturn = s.kturn := rfl
@[simp] theorem State.parkOn_modId (s : State) (p : Park) : (s.parkOn p).modId = s.modId := rfl
@[simp] theorem State.parkOn_gvec (s : State) (p : Park) : (s.parkOn p).gvec = s.gvec := rfl
@[simp] theorem State.parkOn_gie (s : State) (p : Park) : (s.parkOn p).gie = s.gie := rfl
@[simp] theorem State.parkOn_vecs (s : State) (p : Park) : (s.parkOn p).vecs = s.vecs := rfl
@[simp] theorem State.parkOn_vecSent (s : State) (p : Park) : (s.parkOn p).vecSent = s.vecSent := rfl
@[simp] theorem State.parkOn_hinges (s : State) (p : Park) : (s.parkOn p).hinges = s.hinges := rfl
@[simp] theorem State.parkOn_hingeIn (s : State) (p : Park) : (s.parkOn p).hingeIn = s.hingeIn := rfl
@[simp] theorem State.parkOn_hingeNo (s : State) (p : Park) : (s.parkOn p).hingeNo = s.hingeNo := rfl
@[simp] theorem State.parkOn_budgets (s : State) (p : Park) : (s.parkOn p).budgets = s.budgets := rfl
@[simp] theorem State.parkOn_budgetsNext (s : State) (p : Park) : (s.parkOn p).budgetsNext = s.budgetsNext := rfl
@[simp] theorem State.parkOn_boot (s : State) (p : Park) : (s.parkOn p).boot = s.boot := rfl
@[simp] theorem State.parkOn_tcache (s : State) (p : Park) : (s.parkOn p).tcache = s.tcache := rfl
@[simp] theorem State.parkOn_retired (s : State) (p : Park) : (s.parkOn p).retired = s.retired := rfl
@[simp] theorem State.parkOn_deadDies (s : State) (p : Park) : (s.parkOn p).deadDies = s.deadDies := rfl
@[simp] theorem State.parkOn_spares (s : State) (p : Park) : (s.parkOn p).spares = s.spares := rfl
@[simp] theorem State.parkOn_links (s : State) (p : Park) : (s.parkOn p).links = s.links := rfl
@[simp] theorem State.parkOn_grid (s : State) (p : Park) : (s.parkOn p).grid = s.grid := rfl
@[simp] theorem State.parkOn_hist (s : State) (p : Park) : (s.parkOn p).hist = s.hist := rfl
@[simp] theorem State.parkOn_power (s : State) (p : Park) : (s.parkOn p).power = s.power := rfl
@[simp] theorem State.parkOn_hostData (s : State) (p : Park) : (s.parkOn p).hostData = s.hostData := rfl
@[simp] theorem State.parkOn_clk (s : State) (p : Park) : (s.parkOn p).clk = s.clk := rfl
@[simp] theorem State.parkOn_running (s : State) (p : Park) : (s.parkOn p).running = s.running := rfl
@[simp] theorem State.parkOn_agenda (s : State) (p : Park) : (s.parkOn p).agenda = s.agenda := rfl
@[simp] theorem State.parkOn_beat (s : State) (p : Park) : (s.parkOn p).beat = s.beat := rfl
@[simp] theorem State.parkOn_freeCtr (s : State) (p : Park) : (s.parkOn p).freeCtr = s.freeCtr := rfl

/-! ## missOn -/

@[simp] theorem State.missOn_cid (s : State) (m : Miss) : (s.missOn m).cid = s.cid := rfl
@[simp] theorem State.missOn_cur (s : State) (m : Miss) : (s.missOn m).cur = s.cur := rfl
@[simp] theorem State.missOn_others (s : State) (m : Miss) : (s.missOn m).others = s.others := rfl
@[simp] theorem State.missOn_clid (s : State) (m : Miss) : (s.missOn m).clid = s.clid := rfl
@[simp] theorem State.missOn_cl (s : State) (m : Miss) : (s.missOn m).cl = s.cl := rfl
@[simp] theorem State.missOn_otherCls (s : State) (m : Miss) : (s.missOn m).otherCls = s.otherCls := rfl
@[simp] theorem State.missOn_mem (s : State) (m : Miss) : (s.missOn m).mem = s.mem := rfl
@[simp] theorem State.missOn_full (s : State) (m : Miss) : (s.missOn m).full = s.full := rfl
@[simp] theorem State.missOn_feTaken (s : State) (m : Miss) : (s.missOn m).feTaken = s.feTaken := rfl
@[simp] theorem State.missOn_badWords (s : State) (m : Miss) : (s.missOn m).badWords = s.badWords := rfl
@[simp] theorem State.missOn_badBlocks (s : State) (m : Miss) : (s.missOn m).badBlocks = s.badBlocks := rfl
@[simp] theorem State.missOn_quarantine (s : State) (m : Miss) : (s.missOn m).quarantine = s.quarantine := rfl
@[simp] theorem State.missOn_feWait (s : State) (m : Miss) : (s.missOn m).feWait = s.feWait := rfl
@[simp] theorem State.missOn_waitaQ (s : State) (m : Miss) : (s.missOn m).waitaQ = s.waitaQ := rfl
@[simp] theorem State.missOn_ctxs (s : State) (m : Miss) : (s.missOn m).ctxs = s.ctxs := rfl
@[simp] theorem State.missOn_groups (s : State) (m : Miss) : (s.missOn m).groups = s.groups := rfl
@[simp] theorem State.missOn_remap (s : State) (m : Miss) : (s.missOn m).remap = s.remap := rfl
@[simp] theorem State.missOn_pageFly (s : State) (m : Miss) : (s.missOn m).pageFly = s.pageFly := rfl
@[simp] theorem State.missOn_pageTree (s : State) (m : Miss) : (s.missOn m).pageTree = s.pageTree := rfl
@[simp] theorem State.missOn_qFly (s : State) (m : Miss) : (s.missOn m).qFly = s.qFly := rfl
@[simp] theorem State.missOn_msgFly (s : State) (m : Miss) : (s.missOn m).msgFly = s.msgFly := rfl
@[simp] theorem State.missOn_ackFly (s : State) (m : Miss) : (s.missOn m).ackFly = s.ackFly := rfl
@[simp] theorem State.missOn_modOut (s : State) (m : Miss) : (s.missOn m).modOut = s.modOut := rfl
@[simp] theorem State.missOn_xfers (s : State) (m : Miss) : (s.missOn m).xfers = s.xfers := rfl
@[simp] theorem State.missOn_xferNo (s : State) (m : Miss) : (s.missOn m).xferNo = s.xferNo := rfl
@[simp] theorem State.missOn_xferGot (s : State) (m : Miss) : (s.missOn m).xferGot = s.xferGot := rfl
@[simp] theorem State.missOn_teams (s : State) (m : Miss) : (s.missOn m).teams = s.teams := rfl
@[simp] theorem State.missOn_teamNo (s : State) (m : Miss) : (s.missOn m).teamNo = s.teamNo := rfl
@[simp] theorem State.missOn_launches (s : State) (m : Miss) : (s.missOn m).launches = s.launches := rfl
@[simp] theorem State.missOn_uidNo (s : State) (m : Miss) : (s.missOn m).uidNo = s.uidNo := rfl
@[simp] theorem State.missOn_outs (s : State) (m : Miss) : (s.missOn m).outs = s.outs := rfl
@[simp] theorem State.missOn_reqs (s : State) (m : Miss) : (s.missOn m).reqs = s.reqs := rfl
@[simp] theorem State.missOn_reqNo (s : State) (m : Miss) : (s.missOn m).reqNo = s.reqNo := rfl
@[simp] theorem State.missOn_pools (s : State) (m : Miss) : (s.missOn m).pools = s.pools := rfl
@[simp] theorem State.missOn_queues (s : State) (m : Miss) : (s.missOn m).queues = s.queues := rfl
@[simp] theorem State.missOn_ksems (s : State) (m : Miss) : (s.missOn m).ksems = s.ksems := rfl
@[simp] theorem State.missOn_qswBusy (s : State) (m : Miss) : (s.missOn m).qswBusy = s.qswBusy := rfl
@[simp] theorem State.missOn_qswRefused (s : State) (m : Miss) : (s.missOn m).qswRefused = s.qswRefused := rfl
@[simp] theorem State.missOn_kturn (s : State) (m : Miss) : (s.missOn m).kturn = s.kturn := rfl
@[simp] theorem State.missOn_modId (s : State) (m : Miss) : (s.missOn m).modId = s.modId := rfl
@[simp] theorem State.missOn_gvec (s : State) (m : Miss) : (s.missOn m).gvec = s.gvec := rfl
@[simp] theorem State.missOn_gie (s : State) (m : Miss) : (s.missOn m).gie = s.gie := rfl
@[simp] theorem State.missOn_vecs (s : State) (m : Miss) : (s.missOn m).vecs = s.vecs := rfl
@[simp] theorem State.missOn_vecSent (s : State) (m : Miss) : (s.missOn m).vecSent = s.vecSent := rfl
@[simp] theorem State.missOn_hinges (s : State) (m : Miss) : (s.missOn m).hinges = s.hinges := rfl
@[simp] theorem State.missOn_hingeIn (s : State) (m : Miss) : (s.missOn m).hingeIn = s.hingeIn := rfl
@[simp] theorem State.missOn_hingeNo (s : State) (m : Miss) : (s.missOn m).hingeNo = s.hingeNo := rfl
@[simp] theorem State.missOn_budgets (s : State) (m : Miss) : (s.missOn m).budgets = s.budgets := rfl
@[simp] theorem State.missOn_budgetsNext (s : State) (m : Miss) : (s.missOn m).budgetsNext = s.budgetsNext := rfl
@[simp] theorem State.missOn_boot (s : State) (m : Miss) : (s.missOn m).boot = s.boot := rfl
@[simp] theorem State.missOn_tcache (s : State) (m : Miss) : (s.missOn m).tcache = s.tcache := rfl
@[simp] theorem State.missOn_retired (s : State) (m : Miss) : (s.missOn m).retired = s.retired := rfl
@[simp] theorem State.missOn_deadDies (s : State) (m : Miss) : (s.missOn m).deadDies = s.deadDies := rfl
@[simp] theorem State.missOn_spares (s : State) (m : Miss) : (s.missOn m).spares = s.spares := rfl
@[simp] theorem State.missOn_links (s : State) (m : Miss) : (s.missOn m).links = s.links := rfl
@[simp] theorem State.missOn_grid (s : State) (m : Miss) : (s.missOn m).grid = s.grid := rfl
@[simp] theorem State.missOn_hist (s : State) (m : Miss) : (s.missOn m).hist = s.hist := rfl
@[simp] theorem State.missOn_power (s : State) (m : Miss) : (s.missOn m).power = s.power := rfl
@[simp] theorem State.missOn_hostData (s : State) (m : Miss) : (s.missOn m).hostData = s.hostData := rfl
@[simp] theorem State.missOn_clk (s : State) (m : Miss) : (s.missOn m).clk = s.clk := rfl
@[simp] theorem State.missOn_running (s : State) (m : Miss) : (s.missOn m).running = s.running := rfl
@[simp] theorem State.missOn_agenda (s : State) (m : Miss) : (s.missOn m).agenda = s.agenda := rfl
@[simp] theorem State.missOn_beat (s : State) (m : Miss) : (s.missOn m).beat = s.beat := rfl
@[simp] theorem State.missOn_freeCtr (s : State) (m : Miss) : (s.missOn m).freeCtr = s.freeCtr := rfl

/-! ## result -/

@[simp] theorem State.result_cid (s : State) (d : Reg) (v : Word) : (s.result d v).cid = s.cid := rfl
@[simp] theorem State.result_cur (s : State) (d : Reg) (v : Word) : (s.result d v).cur = s.cur := rfl
@[simp] theorem State.result_others (s : State) (d : Reg) (v : Word) : (s.result d v).others = s.others := rfl
@[simp] theorem State.result_clid (s : State) (d : Reg) (v : Word) : (s.result d v).clid = s.clid := rfl
@[simp] theorem State.result_cl (s : State) (d : Reg) (v : Word) : (s.result d v).cl = s.cl := rfl
@[simp] theorem State.result_otherCls (s : State) (d : Reg) (v : Word) : (s.result d v).otherCls = s.otherCls := rfl
@[simp] theorem State.result_mem (s : State) (d : Reg) (v : Word) : (s.result d v).mem = s.mem := rfl
@[simp] theorem State.result_full (s : State) (d : Reg) (v : Word) : (s.result d v).full = s.full := rfl
@[simp] theorem State.result_feTaken (s : State) (d : Reg) (v : Word) : (s.result d v).feTaken = s.feTaken := rfl
@[simp] theorem State.result_badWords (s : State) (d : Reg) (v : Word) : (s.result d v).badWords = s.badWords := rfl
@[simp] theorem State.result_badBlocks (s : State) (d : Reg) (v : Word) : (s.result d v).badBlocks = s.badBlocks := rfl
@[simp] theorem State.result_quarantine (s : State) (d : Reg) (v : Word) : (s.result d v).quarantine = s.quarantine := rfl
@[simp] theorem State.result_feWait (s : State) (d : Reg) (v : Word) : (s.result d v).feWait = s.feWait := rfl
@[simp] theorem State.result_waitaQ (s : State) (d : Reg) (v : Word) : (s.result d v).waitaQ = s.waitaQ := rfl
@[simp] theorem State.result_ctxs (s : State) (d : Reg) (v : Word) : (s.result d v).ctxs = s.ctxs := rfl
@[simp] theorem State.result_groups (s : State) (d : Reg) (v : Word) : (s.result d v).groups = s.groups := rfl
@[simp] theorem State.result_remap (s : State) (d : Reg) (v : Word) : (s.result d v).remap = s.remap := rfl
@[simp] theorem State.result_pageFly (s : State) (d : Reg) (v : Word) : (s.result d v).pageFly = s.pageFly := rfl
@[simp] theorem State.result_pageTree (s : State) (d : Reg) (v : Word) : (s.result d v).pageTree = s.pageTree := rfl
@[simp] theorem State.result_qFly (s : State) (d : Reg) (v : Word) : (s.result d v).qFly = s.qFly := rfl
@[simp] theorem State.result_msgFly (s : State) (d : Reg) (v : Word) : (s.result d v).msgFly = s.msgFly := rfl
@[simp] theorem State.result_ackFly (s : State) (d : Reg) (v : Word) : (s.result d v).ackFly = s.ackFly := rfl
@[simp] theorem State.result_modOut (s : State) (d : Reg) (v : Word) : (s.result d v).modOut = s.modOut := rfl
@[simp] theorem State.result_xfers (s : State) (d : Reg) (v : Word) : (s.result d v).xfers = s.xfers := rfl
@[simp] theorem State.result_xferNo (s : State) (d : Reg) (v : Word) : (s.result d v).xferNo = s.xferNo := rfl
@[simp] theorem State.result_xferGot (s : State) (d : Reg) (v : Word) : (s.result d v).xferGot = s.xferGot := rfl
@[simp] theorem State.result_teams (s : State) (d : Reg) (v : Word) : (s.result d v).teams = s.teams := rfl
@[simp] theorem State.result_teamNo (s : State) (d : Reg) (v : Word) : (s.result d v).teamNo = s.teamNo := rfl
@[simp] theorem State.result_launches (s : State) (d : Reg) (v : Word) : (s.result d v).launches = s.launches := rfl
@[simp] theorem State.result_uidNo (s : State) (d : Reg) (v : Word) : (s.result d v).uidNo = s.uidNo := rfl
@[simp] theorem State.result_outs (s : State) (d : Reg) (v : Word) : (s.result d v).outs = s.outs := rfl
@[simp] theorem State.result_reqs (s : State) (d : Reg) (v : Word) : (s.result d v).reqs = s.reqs := rfl
@[simp] theorem State.result_reqNo (s : State) (d : Reg) (v : Word) : (s.result d v).reqNo = s.reqNo := rfl
@[simp] theorem State.result_pools (s : State) (d : Reg) (v : Word) : (s.result d v).pools = s.pools := rfl
@[simp] theorem State.result_queues (s : State) (d : Reg) (v : Word) : (s.result d v).queues = s.queues := rfl
@[simp] theorem State.result_ksems (s : State) (d : Reg) (v : Word) : (s.result d v).ksems = s.ksems := rfl
@[simp] theorem State.result_qswBusy (s : State) (d : Reg) (v : Word) : (s.result d v).qswBusy = s.qswBusy := rfl
@[simp] theorem State.result_qswRefused (s : State) (d : Reg) (v : Word) : (s.result d v).qswRefused = s.qswRefused := rfl
@[simp] theorem State.result_kturn (s : State) (d : Reg) (v : Word) : (s.result d v).kturn = s.kturn := rfl
@[simp] theorem State.result_modId (s : State) (d : Reg) (v : Word) : (s.result d v).modId = s.modId := rfl
@[simp] theorem State.result_gvec (s : State) (d : Reg) (v : Word) : (s.result d v).gvec = s.gvec := rfl
@[simp] theorem State.result_gie (s : State) (d : Reg) (v : Word) : (s.result d v).gie = s.gie := rfl
@[simp] theorem State.result_vecs (s : State) (d : Reg) (v : Word) : (s.result d v).vecs = s.vecs := rfl
@[simp] theorem State.result_vecSent (s : State) (d : Reg) (v : Word) : (s.result d v).vecSent = s.vecSent := rfl
@[simp] theorem State.result_hinges (s : State) (d : Reg) (v : Word) : (s.result d v).hinges = s.hinges := rfl
@[simp] theorem State.result_hingeIn (s : State) (d : Reg) (v : Word) : (s.result d v).hingeIn = s.hingeIn := rfl
@[simp] theorem State.result_hingeNo (s : State) (d : Reg) (v : Word) : (s.result d v).hingeNo = s.hingeNo := rfl
@[simp] theorem State.result_budgets (s : State) (d : Reg) (v : Word) : (s.result d v).budgets = s.budgets := rfl
@[simp] theorem State.result_budgetsNext (s : State) (d : Reg) (v : Word) : (s.result d v).budgetsNext = s.budgetsNext := rfl
@[simp] theorem State.result_boot (s : State) (d : Reg) (v : Word) : (s.result d v).boot = s.boot := rfl
@[simp] theorem State.result_tcache (s : State) (d : Reg) (v : Word) : (s.result d v).tcache = s.tcache := rfl
@[simp] theorem State.result_retired (s : State) (d : Reg) (v : Word) : (s.result d v).retired = s.retired := rfl
@[simp] theorem State.result_deadDies (s : State) (d : Reg) (v : Word) : (s.result d v).deadDies = s.deadDies := rfl
@[simp] theorem State.result_spares (s : State) (d : Reg) (v : Word) : (s.result d v).spares = s.spares := rfl
@[simp] theorem State.result_links (s : State) (d : Reg) (v : Word) : (s.result d v).links = s.links := rfl
@[simp] theorem State.result_grid (s : State) (d : Reg) (v : Word) : (s.result d v).grid = s.grid := rfl
@[simp] theorem State.result_hist (s : State) (d : Reg) (v : Word) : (s.result d v).hist = s.hist := rfl
@[simp] theorem State.result_power (s : State) (d : Reg) (v : Word) : (s.result d v).power = s.power := rfl
@[simp] theorem State.result_hostData (s : State) (d : Reg) (v : Word) : (s.result d v).hostData = s.hostData := rfl
@[simp] theorem State.result_clk (s : State) (d : Reg) (v : Word) : (s.result d v).clk = s.clk := rfl
@[simp] theorem State.result_running (s : State) (d : Reg) (v : Word) : (s.result d v).running = s.running := rfl
@[simp] theorem State.result_agenda (s : State) (d : Reg) (v : Word) : (s.result d v).agenda = s.agenda := rfl
@[simp] theorem State.result_beat (s : State) (d : Reg) (v : Word) : (s.result d v).beat = s.beat := rfl
@[simp] theorem State.result_freeCtr (s : State) (d : Reg) (v : Word) : (s.result d v).freeCtr = s.freeCtr := rfl

/-! ## modCore -/

@[simp] theorem State.modCore_cid (s : State) (f : Core → Core) : (s.modCore f).cid = s.cid := rfl
@[simp] theorem State.modCore_cur (s : State) (f : Core → Core) : (s.modCore f).cur = s.cur := rfl
@[simp] theorem State.modCore_others (s : State) (f : Core → Core) : (s.modCore f).others = s.others := rfl
@[simp] theorem State.modCore_clid (s : State) (f : Core → Core) : (s.modCore f).clid = s.clid := rfl
@[simp] theorem State.modCore_cl (s : State) (f : Core → Core) : (s.modCore f).cl = s.cl := rfl
@[simp] theorem State.modCore_otherCls (s : State) (f : Core → Core) : (s.modCore f).otherCls = s.otherCls := rfl
@[simp] theorem State.modCore_mem (s : State) (f : Core → Core) : (s.modCore f).mem = s.mem := rfl
@[simp] theorem State.modCore_full (s : State) (f : Core → Core) : (s.modCore f).full = s.full := rfl
@[simp] theorem State.modCore_feTaken (s : State) (f : Core → Core) : (s.modCore f).feTaken = s.feTaken := rfl
@[simp] theorem State.modCore_badWords (s : State) (f : Core → Core) : (s.modCore f).badWords = s.badWords := rfl
@[simp] theorem State.modCore_badBlocks (s : State) (f : Core → Core) : (s.modCore f).badBlocks = s.badBlocks := rfl
@[simp] theorem State.modCore_quarantine (s : State) (f : Core → Core) : (s.modCore f).quarantine = s.quarantine := rfl
@[simp] theorem State.modCore_feWait (s : State) (f : Core → Core) : (s.modCore f).feWait = s.feWait := rfl
@[simp] theorem State.modCore_waitaQ (s : State) (f : Core → Core) : (s.modCore f).waitaQ = s.waitaQ := rfl
@[simp] theorem State.modCore_ctxs (s : State) (f : Core → Core) : (s.modCore f).ctxs = s.ctxs := rfl
@[simp] theorem State.modCore_groups (s : State) (f : Core → Core) : (s.modCore f).groups = s.groups := rfl
@[simp] theorem State.modCore_remap (s : State) (f : Core → Core) : (s.modCore f).remap = s.remap := rfl
@[simp] theorem State.modCore_pageFly (s : State) (f : Core → Core) : (s.modCore f).pageFly = s.pageFly := rfl
@[simp] theorem State.modCore_pageTree (s : State) (f : Core → Core) : (s.modCore f).pageTree = s.pageTree := rfl
@[simp] theorem State.modCore_qFly (s : State) (f : Core → Core) : (s.modCore f).qFly = s.qFly := rfl
@[simp] theorem State.modCore_msgFly (s : State) (f : Core → Core) : (s.modCore f).msgFly = s.msgFly := rfl
@[simp] theorem State.modCore_ackFly (s : State) (f : Core → Core) : (s.modCore f).ackFly = s.ackFly := rfl
@[simp] theorem State.modCore_modOut (s : State) (f : Core → Core) : (s.modCore f).modOut = s.modOut := rfl
@[simp] theorem State.modCore_xfers (s : State) (f : Core → Core) : (s.modCore f).xfers = s.xfers := rfl
@[simp] theorem State.modCore_xferNo (s : State) (f : Core → Core) : (s.modCore f).xferNo = s.xferNo := rfl
@[simp] theorem State.modCore_xferGot (s : State) (f : Core → Core) : (s.modCore f).xferGot = s.xferGot := rfl
@[simp] theorem State.modCore_teams (s : State) (f : Core → Core) : (s.modCore f).teams = s.teams := rfl
@[simp] theorem State.modCore_teamNo (s : State) (f : Core → Core) : (s.modCore f).teamNo = s.teamNo := rfl
@[simp] theorem State.modCore_launches (s : State) (f : Core → Core) : (s.modCore f).launches = s.launches := rfl
@[simp] theorem State.modCore_uidNo (s : State) (f : Core → Core) : (s.modCore f).uidNo = s.uidNo := rfl
@[simp] theorem State.modCore_outs (s : State) (f : Core → Core) : (s.modCore f).outs = s.outs := rfl
@[simp] theorem State.modCore_reqs (s : State) (f : Core → Core) : (s.modCore f).reqs = s.reqs := rfl
@[simp] theorem State.modCore_reqNo (s : State) (f : Core → Core) : (s.modCore f).reqNo = s.reqNo := rfl
@[simp] theorem State.modCore_pools (s : State) (f : Core → Core) : (s.modCore f).pools = s.pools := rfl
@[simp] theorem State.modCore_queues (s : State) (f : Core → Core) : (s.modCore f).queues = s.queues := rfl
@[simp] theorem State.modCore_ksems (s : State) (f : Core → Core) : (s.modCore f).ksems = s.ksems := rfl
@[simp] theorem State.modCore_qswBusy (s : State) (f : Core → Core) : (s.modCore f).qswBusy = s.qswBusy := rfl
@[simp] theorem State.modCore_qswRefused (s : State) (f : Core → Core) : (s.modCore f).qswRefused = s.qswRefused := rfl
@[simp] theorem State.modCore_kturn (s : State) (f : Core → Core) : (s.modCore f).kturn = s.kturn := rfl
@[simp] theorem State.modCore_modId (s : State) (f : Core → Core) : (s.modCore f).modId = s.modId := rfl
@[simp] theorem State.modCore_gvec (s : State) (f : Core → Core) : (s.modCore f).gvec = s.gvec := rfl
@[simp] theorem State.modCore_gie (s : State) (f : Core → Core) : (s.modCore f).gie = s.gie := rfl
@[simp] theorem State.modCore_vecs (s : State) (f : Core → Core) : (s.modCore f).vecs = s.vecs := rfl
@[simp] theorem State.modCore_vecSent (s : State) (f : Core → Core) : (s.modCore f).vecSent = s.vecSent := rfl
@[simp] theorem State.modCore_hinges (s : State) (f : Core → Core) : (s.modCore f).hinges = s.hinges := rfl
@[simp] theorem State.modCore_hingeIn (s : State) (f : Core → Core) : (s.modCore f).hingeIn = s.hingeIn := rfl
@[simp] theorem State.modCore_hingeNo (s : State) (f : Core → Core) : (s.modCore f).hingeNo = s.hingeNo := rfl
@[simp] theorem State.modCore_budgets (s : State) (f : Core → Core) : (s.modCore f).budgets = s.budgets := rfl
@[simp] theorem State.modCore_budgetsNext (s : State) (f : Core → Core) : (s.modCore f).budgetsNext = s.budgetsNext := rfl
@[simp] theorem State.modCore_boot (s : State) (f : Core → Core) : (s.modCore f).boot = s.boot := rfl
@[simp] theorem State.modCore_tcache (s : State) (f : Core → Core) : (s.modCore f).tcache = s.tcache := rfl
@[simp] theorem State.modCore_retired (s : State) (f : Core → Core) : (s.modCore f).retired = s.retired := rfl
@[simp] theorem State.modCore_deadDies (s : State) (f : Core → Core) : (s.modCore f).deadDies = s.deadDies := rfl
@[simp] theorem State.modCore_spares (s : State) (f : Core → Core) : (s.modCore f).spares = s.spares := rfl
@[simp] theorem State.modCore_links (s : State) (f : Core → Core) : (s.modCore f).links = s.links := rfl
@[simp] theorem State.modCore_grid (s : State) (f : Core → Core) : (s.modCore f).grid = s.grid := rfl
@[simp] theorem State.modCore_hist (s : State) (f : Core → Core) : (s.modCore f).hist = s.hist := rfl
@[simp] theorem State.modCore_power (s : State) (f : Core → Core) : (s.modCore f).power = s.power := rfl
@[simp] theorem State.modCore_hostData (s : State) (f : Core → Core) : (s.modCore f).hostData = s.hostData := rfl
@[simp] theorem State.modCore_clk (s : State) (f : Core → Core) : (s.modCore f).clk = s.clk := rfl
@[simp] theorem State.modCore_running (s : State) (f : Core → Core) : (s.modCore f).running = s.running := rfl
@[simp] theorem State.modCore_agenda (s : State) (f : Core → Core) : (s.modCore f).agenda = s.agenda := rfl
@[simp] theorem State.modCore_beat (s : State) (f : Core → Core) : (s.modCore f).beat = s.beat := rfl
@[simp] theorem State.modCore_freeCtr (s : State) (f : Core → Core) : (s.modCore f).freeCtr = s.freeCtr := rfl

/-! ## modCl -/

@[simp] theorem State.modCl_cid (s : State) (f : Cluster → Cluster) : (s.modCl f).cid = s.cid := rfl
@[simp] theorem State.modCl_cur (s : State) (f : Cluster → Cluster) : (s.modCl f).cur = s.cur := rfl
@[simp] theorem State.modCl_core (s : State) (f : Cluster → Cluster) : (s.modCl f).core = s.core := rfl
@[simp] theorem State.modCl_others (s : State) (f : Cluster → Cluster) : (s.modCl f).others = s.others := rfl
@[simp] theorem State.modCl_clid (s : State) (f : Cluster → Cluster) : (s.modCl f).clid = s.clid := rfl
@[simp] theorem State.modCl_otherCls (s : State) (f : Cluster → Cluster) : (s.modCl f).otherCls = s.otherCls := rfl
@[simp] theorem State.modCl_mem (s : State) (f : Cluster → Cluster) : (s.modCl f).mem = s.mem := rfl
@[simp] theorem State.modCl_full (s : State) (f : Cluster → Cluster) : (s.modCl f).full = s.full := rfl
@[simp] theorem State.modCl_feTaken (s : State) (f : Cluster → Cluster) : (s.modCl f).feTaken = s.feTaken := rfl
@[simp] theorem State.modCl_badWords (s : State) (f : Cluster → Cluster) : (s.modCl f).badWords = s.badWords := rfl
@[simp] theorem State.modCl_badBlocks (s : State) (f : Cluster → Cluster) : (s.modCl f).badBlocks = s.badBlocks := rfl
@[simp] theorem State.modCl_quarantine (s : State) (f : Cluster → Cluster) : (s.modCl f).quarantine = s.quarantine := rfl
@[simp] theorem State.modCl_feWait (s : State) (f : Cluster → Cluster) : (s.modCl f).feWait = s.feWait := rfl
@[simp] theorem State.modCl_waitaQ (s : State) (f : Cluster → Cluster) : (s.modCl f).waitaQ = s.waitaQ := rfl
@[simp] theorem State.modCl_ctxs (s : State) (f : Cluster → Cluster) : (s.modCl f).ctxs = s.ctxs := rfl
@[simp] theorem State.modCl_groups (s : State) (f : Cluster → Cluster) : (s.modCl f).groups = s.groups := rfl
@[simp] theorem State.modCl_remap (s : State) (f : Cluster → Cluster) : (s.modCl f).remap = s.remap := rfl
@[simp] theorem State.modCl_pageFly (s : State) (f : Cluster → Cluster) : (s.modCl f).pageFly = s.pageFly := rfl
@[simp] theorem State.modCl_pageTree (s : State) (f : Cluster → Cluster) : (s.modCl f).pageTree = s.pageTree := rfl
@[simp] theorem State.modCl_qFly (s : State) (f : Cluster → Cluster) : (s.modCl f).qFly = s.qFly := rfl
@[simp] theorem State.modCl_msgFly (s : State) (f : Cluster → Cluster) : (s.modCl f).msgFly = s.msgFly := rfl
@[simp] theorem State.modCl_ackFly (s : State) (f : Cluster → Cluster) : (s.modCl f).ackFly = s.ackFly := rfl
@[simp] theorem State.modCl_modOut (s : State) (f : Cluster → Cluster) : (s.modCl f).modOut = s.modOut := rfl
@[simp] theorem State.modCl_xfers (s : State) (f : Cluster → Cluster) : (s.modCl f).xfers = s.xfers := rfl
@[simp] theorem State.modCl_xferNo (s : State) (f : Cluster → Cluster) : (s.modCl f).xferNo = s.xferNo := rfl
@[simp] theorem State.modCl_xferGot (s : State) (f : Cluster → Cluster) : (s.modCl f).xferGot = s.xferGot := rfl
@[simp] theorem State.modCl_teams (s : State) (f : Cluster → Cluster) : (s.modCl f).teams = s.teams := rfl
@[simp] theorem State.modCl_teamNo (s : State) (f : Cluster → Cluster) : (s.modCl f).teamNo = s.teamNo := rfl
@[simp] theorem State.modCl_launches (s : State) (f : Cluster → Cluster) : (s.modCl f).launches = s.launches := rfl
@[simp] theorem State.modCl_uidNo (s : State) (f : Cluster → Cluster) : (s.modCl f).uidNo = s.uidNo := rfl
@[simp] theorem State.modCl_outs (s : State) (f : Cluster → Cluster) : (s.modCl f).outs = s.outs := rfl
@[simp] theorem State.modCl_reqs (s : State) (f : Cluster → Cluster) : (s.modCl f).reqs = s.reqs := rfl
@[simp] theorem State.modCl_reqNo (s : State) (f : Cluster → Cluster) : (s.modCl f).reqNo = s.reqNo := rfl
@[simp] theorem State.modCl_pools (s : State) (f : Cluster → Cluster) : (s.modCl f).pools = s.pools := rfl
@[simp] theorem State.modCl_queues (s : State) (f : Cluster → Cluster) : (s.modCl f).queues = s.queues := rfl
@[simp] theorem State.modCl_ksems (s : State) (f : Cluster → Cluster) : (s.modCl f).ksems = s.ksems := rfl
@[simp] theorem State.modCl_qswBusy (s : State) (f : Cluster → Cluster) : (s.modCl f).qswBusy = s.qswBusy := rfl
@[simp] theorem State.modCl_qswRefused (s : State) (f : Cluster → Cluster) : (s.modCl f).qswRefused = s.qswRefused := rfl
@[simp] theorem State.modCl_kturn (s : State) (f : Cluster → Cluster) : (s.modCl f).kturn = s.kturn := rfl
@[simp] theorem State.modCl_modId (s : State) (f : Cluster → Cluster) : (s.modCl f).modId = s.modId := rfl
@[simp] theorem State.modCl_gvec (s : State) (f : Cluster → Cluster) : (s.modCl f).gvec = s.gvec := rfl
@[simp] theorem State.modCl_gie (s : State) (f : Cluster → Cluster) : (s.modCl f).gie = s.gie := rfl
@[simp] theorem State.modCl_vecs (s : State) (f : Cluster → Cluster) : (s.modCl f).vecs = s.vecs := rfl
@[simp] theorem State.modCl_vecSent (s : State) (f : Cluster → Cluster) : (s.modCl f).vecSent = s.vecSent := rfl
@[simp] theorem State.modCl_hinges (s : State) (f : Cluster → Cluster) : (s.modCl f).hinges = s.hinges := rfl
@[simp] theorem State.modCl_hingeIn (s : State) (f : Cluster → Cluster) : (s.modCl f).hingeIn = s.hingeIn := rfl
@[simp] theorem State.modCl_hingeNo (s : State) (f : Cluster → Cluster) : (s.modCl f).hingeNo = s.hingeNo := rfl
@[simp] theorem State.modCl_budgets (s : State) (f : Cluster → Cluster) : (s.modCl f).budgets = s.budgets := rfl
@[simp] theorem State.modCl_budgetsNext (s : State) (f : Cluster → Cluster) : (s.modCl f).budgetsNext = s.budgetsNext := rfl
@[simp] theorem State.modCl_boot (s : State) (f : Cluster → Cluster) : (s.modCl f).boot = s.boot := rfl
@[simp] theorem State.modCl_tcache (s : State) (f : Cluster → Cluster) : (s.modCl f).tcache = s.tcache := rfl
@[simp] theorem State.modCl_retired (s : State) (f : Cluster → Cluster) : (s.modCl f).retired = s.retired := rfl
@[simp] theorem State.modCl_deadDies (s : State) (f : Cluster → Cluster) : (s.modCl f).deadDies = s.deadDies := rfl
@[simp] theorem State.modCl_spares (s : State) (f : Cluster → Cluster) : (s.modCl f).spares = s.spares := rfl
@[simp] theorem State.modCl_links (s : State) (f : Cluster → Cluster) : (s.modCl f).links = s.links := rfl
@[simp] theorem State.modCl_grid (s : State) (f : Cluster → Cluster) : (s.modCl f).grid = s.grid := rfl
@[simp] theorem State.modCl_hist (s : State) (f : Cluster → Cluster) : (s.modCl f).hist = s.hist := rfl
@[simp] theorem State.modCl_power (s : State) (f : Cluster → Cluster) : (s.modCl f).power = s.power := rfl
@[simp] theorem State.modCl_hostData (s : State) (f : Cluster → Cluster) : (s.modCl f).hostData = s.hostData := rfl
@[simp] theorem State.modCl_clk (s : State) (f : Cluster → Cluster) : (s.modCl f).clk = s.clk := rfl
@[simp] theorem State.modCl_running (s : State) (f : Cluster → Cluster) : (s.modCl f).running = s.running := rfl
@[simp] theorem State.modCl_agenda (s : State) (f : Cluster → Cluster) : (s.modCl f).agenda = s.agenda := rfl
@[simp] theorem State.modCl_beat (s : State) (f : Cluster → Cluster) : (s.modCl f).beat = s.beat := rfl
@[simp] theorem State.modCl_freeCtr (s : State) (f : Cluster → Cluster) : (s.modCl f).freeCtr = s.freeCtr := rfl

/-! ## withSlot -/

@[simp] theorem State.withSlot_cid (s : State) (i : Fin 4) : (s.withSlot i).cid = s.cid := rfl
@[simp] theorem State.withSlot_core (s : State) (i : Fin 4) : (s.withSlot i).core = s.core := rfl
@[simp] theorem State.withSlot_others (s : State) (i : Fin 4) : (s.withSlot i).others = s.others := rfl
@[simp] theorem State.withSlot_clid (s : State) (i : Fin 4) : (s.withSlot i).clid = s.clid := rfl
@[simp] theorem State.withSlot_cl (s : State) (i : Fin 4) : (s.withSlot i).cl = s.cl := rfl
@[simp] theorem State.withSlot_otherCls (s : State) (i : Fin 4) : (s.withSlot i).otherCls = s.otherCls := rfl
@[simp] theorem State.withSlot_mem (s : State) (i : Fin 4) : (s.withSlot i).mem = s.mem := rfl
@[simp] theorem State.withSlot_full (s : State) (i : Fin 4) : (s.withSlot i).full = s.full := rfl
@[simp] theorem State.withSlot_feTaken (s : State) (i : Fin 4) : (s.withSlot i).feTaken = s.feTaken := rfl
@[simp] theorem State.withSlot_badWords (s : State) (i : Fin 4) : (s.withSlot i).badWords = s.badWords := rfl
@[simp] theorem State.withSlot_badBlocks (s : State) (i : Fin 4) : (s.withSlot i).badBlocks = s.badBlocks := rfl
@[simp] theorem State.withSlot_quarantine (s : State) (i : Fin 4) : (s.withSlot i).quarantine = s.quarantine := rfl
@[simp] theorem State.withSlot_feWait (s : State) (i : Fin 4) : (s.withSlot i).feWait = s.feWait := rfl
@[simp] theorem State.withSlot_waitaQ (s : State) (i : Fin 4) : (s.withSlot i).waitaQ = s.waitaQ := rfl
@[simp] theorem State.withSlot_ctxs (s : State) (i : Fin 4) : (s.withSlot i).ctxs = s.ctxs := rfl
@[simp] theorem State.withSlot_groups (s : State) (i : Fin 4) : (s.withSlot i).groups = s.groups := rfl
@[simp] theorem State.withSlot_remap (s : State) (i : Fin 4) : (s.withSlot i).remap = s.remap := rfl
@[simp] theorem State.withSlot_pageFly (s : State) (i : Fin 4) : (s.withSlot i).pageFly = s.pageFly := rfl
@[simp] theorem State.withSlot_pageTree (s : State) (i : Fin 4) : (s.withSlot i).pageTree = s.pageTree := rfl
@[simp] theorem State.withSlot_qFly (s : State) (i : Fin 4) : (s.withSlot i).qFly = s.qFly := rfl
@[simp] theorem State.withSlot_msgFly (s : State) (i : Fin 4) : (s.withSlot i).msgFly = s.msgFly := rfl
@[simp] theorem State.withSlot_ackFly (s : State) (i : Fin 4) : (s.withSlot i).ackFly = s.ackFly := rfl
@[simp] theorem State.withSlot_modOut (s : State) (i : Fin 4) : (s.withSlot i).modOut = s.modOut := rfl
@[simp] theorem State.withSlot_xfers (s : State) (i : Fin 4) : (s.withSlot i).xfers = s.xfers := rfl
@[simp] theorem State.withSlot_xferNo (s : State) (i : Fin 4) : (s.withSlot i).xferNo = s.xferNo := rfl
@[simp] theorem State.withSlot_xferGot (s : State) (i : Fin 4) : (s.withSlot i).xferGot = s.xferGot := rfl
@[simp] theorem State.withSlot_teams (s : State) (i : Fin 4) : (s.withSlot i).teams = s.teams := rfl
@[simp] theorem State.withSlot_teamNo (s : State) (i : Fin 4) : (s.withSlot i).teamNo = s.teamNo := rfl
@[simp] theorem State.withSlot_launches (s : State) (i : Fin 4) : (s.withSlot i).launches = s.launches := rfl
@[simp] theorem State.withSlot_uidNo (s : State) (i : Fin 4) : (s.withSlot i).uidNo = s.uidNo := rfl
@[simp] theorem State.withSlot_outs (s : State) (i : Fin 4) : (s.withSlot i).outs = s.outs := rfl
@[simp] theorem State.withSlot_reqs (s : State) (i : Fin 4) : (s.withSlot i).reqs = s.reqs := rfl
@[simp] theorem State.withSlot_reqNo (s : State) (i : Fin 4) : (s.withSlot i).reqNo = s.reqNo := rfl
@[simp] theorem State.withSlot_pools (s : State) (i : Fin 4) : (s.withSlot i).pools = s.pools := rfl
@[simp] theorem State.withSlot_queues (s : State) (i : Fin 4) : (s.withSlot i).queues = s.queues := rfl
@[simp] theorem State.withSlot_ksems (s : State) (i : Fin 4) : (s.withSlot i).ksems = s.ksems := rfl
@[simp] theorem State.withSlot_qswBusy (s : State) (i : Fin 4) : (s.withSlot i).qswBusy = s.qswBusy := rfl
@[simp] theorem State.withSlot_qswRefused (s : State) (i : Fin 4) : (s.withSlot i).qswRefused = s.qswRefused := rfl
@[simp] theorem State.withSlot_kturn (s : State) (i : Fin 4) : (s.withSlot i).kturn = s.kturn := rfl
@[simp] theorem State.withSlot_modId (s : State) (i : Fin 4) : (s.withSlot i).modId = s.modId := rfl
@[simp] theorem State.withSlot_gvec (s : State) (i : Fin 4) : (s.withSlot i).gvec = s.gvec := rfl
@[simp] theorem State.withSlot_gie (s : State) (i : Fin 4) : (s.withSlot i).gie = s.gie := rfl
@[simp] theorem State.withSlot_vecs (s : State) (i : Fin 4) : (s.withSlot i).vecs = s.vecs := rfl
@[simp] theorem State.withSlot_vecSent (s : State) (i : Fin 4) : (s.withSlot i).vecSent = s.vecSent := rfl
@[simp] theorem State.withSlot_hinges (s : State) (i : Fin 4) : (s.withSlot i).hinges = s.hinges := rfl
@[simp] theorem State.withSlot_hingeIn (s : State) (i : Fin 4) : (s.withSlot i).hingeIn = s.hingeIn := rfl
@[simp] theorem State.withSlot_hingeNo (s : State) (i : Fin 4) : (s.withSlot i).hingeNo = s.hingeNo := rfl
@[simp] theorem State.withSlot_budgets (s : State) (i : Fin 4) : (s.withSlot i).budgets = s.budgets := rfl
@[simp] theorem State.withSlot_budgetsNext (s : State) (i : Fin 4) : (s.withSlot i).budgetsNext = s.budgetsNext := rfl
@[simp] theorem State.withSlot_boot (s : State) (i : Fin 4) : (s.withSlot i).boot = s.boot := rfl
@[simp] theorem State.withSlot_tcache (s : State) (i : Fin 4) : (s.withSlot i).tcache = s.tcache := rfl
@[simp] theorem State.withSlot_retired (s : State) (i : Fin 4) : (s.withSlot i).retired = s.retired := rfl
@[simp] theorem State.withSlot_deadDies (s : State) (i : Fin 4) : (s.withSlot i).deadDies = s.deadDies := rfl
@[simp] theorem State.withSlot_spares (s : State) (i : Fin 4) : (s.withSlot i).spares = s.spares := rfl
@[simp] theorem State.withSlot_links (s : State) (i : Fin 4) : (s.withSlot i).links = s.links := rfl
@[simp] theorem State.withSlot_grid (s : State) (i : Fin 4) : (s.withSlot i).grid = s.grid := rfl
@[simp] theorem State.withSlot_hist (s : State) (i : Fin 4) : (s.withSlot i).hist = s.hist := rfl
@[simp] theorem State.withSlot_power (s : State) (i : Fin 4) : (s.withSlot i).power = s.power := rfl
@[simp] theorem State.withSlot_hostData (s : State) (i : Fin 4) : (s.withSlot i).hostData = s.hostData := rfl
@[simp] theorem State.withSlot_clk (s : State) (i : Fin 4) : (s.withSlot i).clk = s.clk := rfl
@[simp] theorem State.withSlot_running (s : State) (i : Fin 4) : (s.withSlot i).running = s.running := rfl
@[simp] theorem State.withSlot_agenda (s : State) (i : Fin 4) : (s.withSlot i).agenda = s.agenda := rfl
@[simp] theorem State.withSlot_beat (s : State) (i : Fin 4) : (s.withSlot i).beat = s.beat := rfl
@[simp] theorem State.withSlot_freeCtr (s : State) (i : Fin 4) : (s.withSlot i).freeCtr = s.freeCtr := rfl

/-! ## modQueue -/

@[simp] theorem State.modQueue_cid (s : State) (q : Nat) (f : Queue → Queue) : (s.modQueue q f).cid = s.cid := rfl
@[simp] theorem State.modQueue_cur (s : State) (q : Nat) (f : Queue → Queue) : (s.modQueue q f).cur = s.cur := rfl
@[simp] theorem State.modQueue_core (s : State) (q : Nat) (f : Queue → Queue) : (s.modQueue q f).core = s.core := rfl
@[simp] theorem State.modQueue_others (s : State) (q : Nat) (f : Queue → Queue) : (s.modQueue q f).others = s.others := rfl
@[simp] theorem State.modQueue_clid (s : State) (q : Nat) (f : Queue → Queue) : (s.modQueue q f).clid = s.clid := rfl
@[simp] theorem State.modQueue_cl (s : State) (q : Nat) (f : Queue → Queue) : (s.modQueue q f).cl = s.cl := rfl
@[simp] theorem State.modQueue_otherCls (s : State) (q : Nat) (f : Queue → Queue) : (s.modQueue q f).otherCls = s.otherCls := rfl
@[simp] theorem State.modQueue_mem (s : State) (q : Nat) (f : Queue → Queue) : (s.modQueue q f).mem = s.mem := rfl
@[simp] theorem State.modQueue_full (s : State) (q : Nat) (f : Queue → Queue) : (s.modQueue q f).full = s.full := rfl
@[simp] theorem State.modQueue_feTaken (s : State) (q : Nat) (f : Queue → Queue) : (s.modQueue q f).feTaken = s.feTaken := rfl
@[simp] theorem State.modQueue_badWords (s : State) (q : Nat) (f : Queue → Queue) : (s.modQueue q f).badWords = s.badWords := rfl
@[simp] theorem State.modQueue_badBlocks (s : State) (q : Nat) (f : Queue → Queue) : (s.modQueue q f).badBlocks = s.badBlocks := rfl
@[simp] theorem State.modQueue_quarantine (s : State) (q : Nat) (f : Queue → Queue) : (s.modQueue q f).quarantine = s.quarantine := rfl
@[simp] theorem State.modQueue_feWait (s : State) (q : Nat) (f : Queue → Queue) : (s.modQueue q f).feWait = s.feWait := rfl
@[simp] theorem State.modQueue_waitaQ (s : State) (q : Nat) (f : Queue → Queue) : (s.modQueue q f).waitaQ = s.waitaQ := rfl
@[simp] theorem State.modQueue_ctxs (s : State) (q : Nat) (f : Queue → Queue) : (s.modQueue q f).ctxs = s.ctxs := rfl
@[simp] theorem State.modQueue_groups (s : State) (q : Nat) (f : Queue → Queue) : (s.modQueue q f).groups = s.groups := rfl
@[simp] theorem State.modQueue_remap (s : State) (q : Nat) (f : Queue → Queue) : (s.modQueue q f).remap = s.remap := rfl
@[simp] theorem State.modQueue_pageFly (s : State) (q : Nat) (f : Queue → Queue) : (s.modQueue q f).pageFly = s.pageFly := rfl
@[simp] theorem State.modQueue_pageTree (s : State) (q : Nat) (f : Queue → Queue) : (s.modQueue q f).pageTree = s.pageTree := rfl
@[simp] theorem State.modQueue_qFly (s : State) (q : Nat) (f : Queue → Queue) : (s.modQueue q f).qFly = s.qFly := rfl
@[simp] theorem State.modQueue_msgFly (s : State) (q : Nat) (f : Queue → Queue) : (s.modQueue q f).msgFly = s.msgFly := rfl
@[simp] theorem State.modQueue_ackFly (s : State) (q : Nat) (f : Queue → Queue) : (s.modQueue q f).ackFly = s.ackFly := rfl
@[simp] theorem State.modQueue_modOut (s : State) (q : Nat) (f : Queue → Queue) : (s.modQueue q f).modOut = s.modOut := rfl
@[simp] theorem State.modQueue_xfers (s : State) (q : Nat) (f : Queue → Queue) : (s.modQueue q f).xfers = s.xfers := rfl
@[simp] theorem State.modQueue_xferNo (s : State) (q : Nat) (f : Queue → Queue) : (s.modQueue q f).xferNo = s.xferNo := rfl
@[simp] theorem State.modQueue_xferGot (s : State) (q : Nat) (f : Queue → Queue) : (s.modQueue q f).xferGot = s.xferGot := rfl
@[simp] theorem State.modQueue_teams (s : State) (q : Nat) (f : Queue → Queue) : (s.modQueue q f).teams = s.teams := rfl
@[simp] theorem State.modQueue_teamNo (s : State) (q : Nat) (f : Queue → Queue) : (s.modQueue q f).teamNo = s.teamNo := rfl
@[simp] theorem State.modQueue_launches (s : State) (q : Nat) (f : Queue → Queue) : (s.modQueue q f).launches = s.launches := rfl
@[simp] theorem State.modQueue_uidNo (s : State) (q : Nat) (f : Queue → Queue) : (s.modQueue q f).uidNo = s.uidNo := rfl
@[simp] theorem State.modQueue_outs (s : State) (q : Nat) (f : Queue → Queue) : (s.modQueue q f).outs = s.outs := rfl
@[simp] theorem State.modQueue_reqs (s : State) (q : Nat) (f : Queue → Queue) : (s.modQueue q f).reqs = s.reqs := rfl
@[simp] theorem State.modQueue_reqNo (s : State) (q : Nat) (f : Queue → Queue) : (s.modQueue q f).reqNo = s.reqNo := rfl
@[simp] theorem State.modQueue_pools (s : State) (q : Nat) (f : Queue → Queue) : (s.modQueue q f).pools = s.pools := rfl
@[simp] theorem State.modQueue_ksems (s : State) (q : Nat) (f : Queue → Queue) : (s.modQueue q f).ksems = s.ksems := rfl
@[simp] theorem State.modQueue_qswBusy (s : State) (q : Nat) (f : Queue → Queue) : (s.modQueue q f).qswBusy = s.qswBusy := rfl
@[simp] theorem State.modQueue_qswRefused (s : State) (q : Nat) (f : Queue → Queue) : (s.modQueue q f).qswRefused = s.qswRefused := rfl
@[simp] theorem State.modQueue_kturn (s : State) (q : Nat) (f : Queue → Queue) : (s.modQueue q f).kturn = s.kturn := rfl
@[simp] theorem State.modQueue_modId (s : State) (q : Nat) (f : Queue → Queue) : (s.modQueue q f).modId = s.modId := rfl
@[simp] theorem State.modQueue_gvec (s : State) (q : Nat) (f : Queue → Queue) : (s.modQueue q f).gvec = s.gvec := rfl
@[simp] theorem State.modQueue_gie (s : State) (q : Nat) (f : Queue → Queue) : (s.modQueue q f).gie = s.gie := rfl
@[simp] theorem State.modQueue_vecs (s : State) (q : Nat) (f : Queue → Queue) : (s.modQueue q f).vecs = s.vecs := rfl
@[simp] theorem State.modQueue_vecSent (s : State) (q : Nat) (f : Queue → Queue) : (s.modQueue q f).vecSent = s.vecSent := rfl
@[simp] theorem State.modQueue_hinges (s : State) (q : Nat) (f : Queue → Queue) : (s.modQueue q f).hinges = s.hinges := rfl
@[simp] theorem State.modQueue_hingeIn (s : State) (q : Nat) (f : Queue → Queue) : (s.modQueue q f).hingeIn = s.hingeIn := rfl
@[simp] theorem State.modQueue_hingeNo (s : State) (q : Nat) (f : Queue → Queue) : (s.modQueue q f).hingeNo = s.hingeNo := rfl
@[simp] theorem State.modQueue_budgets (s : State) (q : Nat) (f : Queue → Queue) : (s.modQueue q f).budgets = s.budgets := rfl
@[simp] theorem State.modQueue_budgetsNext (s : State) (q : Nat) (f : Queue → Queue) : (s.modQueue q f).budgetsNext = s.budgetsNext := rfl
@[simp] theorem State.modQueue_boot (s : State) (q : Nat) (f : Queue → Queue) : (s.modQueue q f).boot = s.boot := rfl
@[simp] theorem State.modQueue_tcache (s : State) (q : Nat) (f : Queue → Queue) : (s.modQueue q f).tcache = s.tcache := rfl
@[simp] theorem State.modQueue_retired (s : State) (q : Nat) (f : Queue → Queue) : (s.modQueue q f).retired = s.retired := rfl
@[simp] theorem State.modQueue_deadDies (s : State) (q : Nat) (f : Queue → Queue) : (s.modQueue q f).deadDies = s.deadDies := rfl
@[simp] theorem State.modQueue_spares (s : State) (q : Nat) (f : Queue → Queue) : (s.modQueue q f).spares = s.spares := rfl
@[simp] theorem State.modQueue_links (s : State) (q : Nat) (f : Queue → Queue) : (s.modQueue q f).links = s.links := rfl
@[simp] theorem State.modQueue_grid (s : State) (q : Nat) (f : Queue → Queue) : (s.modQueue q f).grid = s.grid := rfl
@[simp] theorem State.modQueue_hist (s : State) (q : Nat) (f : Queue → Queue) : (s.modQueue q f).hist = s.hist := rfl
@[simp] theorem State.modQueue_power (s : State) (q : Nat) (f : Queue → Queue) : (s.modQueue q f).power = s.power := rfl
@[simp] theorem State.modQueue_hostData (s : State) (q : Nat) (f : Queue → Queue) : (s.modQueue q f).hostData = s.hostData := rfl
@[simp] theorem State.modQueue_clk (s : State) (q : Nat) (f : Queue → Queue) : (s.modQueue q f).clk = s.clk := rfl
@[simp] theorem State.modQueue_running (s : State) (q : Nat) (f : Queue → Queue) : (s.modQueue q f).running = s.running := rfl
@[simp] theorem State.modQueue_agenda (s : State) (q : Nat) (f : Queue → Queue) : (s.modQueue q f).agenda = s.agenda := rfl
@[simp] theorem State.modQueue_beat (s : State) (q : Nat) (f : Queue → Queue) : (s.modQueue q f).beat = s.beat := rfl
@[simp] theorem State.modQueue_freeCtr (s : State) (q : Nat) (f : Queue → Queue) : (s.modQueue q f).freeCtr = s.freeCtr := rfl

/-! ## write -/

@[simp] theorem State.write_cid (s : State) (a n v : Nat) : (s.write a n v).cid = s.cid := rfl
@[simp] theorem State.write_cur (s : State) (a n v : Nat) : (s.write a n v).cur = s.cur := rfl
@[simp] theorem State.write_core (s : State) (a n v : Nat) : (s.write a n v).core = s.core := rfl
@[simp] theorem State.write_others (s : State) (a n v : Nat) : (s.write a n v).others = s.others := rfl
@[simp] theorem State.write_clid (s : State) (a n v : Nat) : (s.write a n v).clid = s.clid := rfl
@[simp] theorem State.write_cl (s : State) (a n v : Nat) : (s.write a n v).cl = s.cl := rfl
@[simp] theorem State.write_otherCls (s : State) (a n v : Nat) : (s.write a n v).otherCls = s.otherCls := rfl
@[simp] theorem State.write_full (s : State) (a n v : Nat) : (s.write a n v).full = s.full := rfl
@[simp] theorem State.write_feTaken (s : State) (a n v : Nat) : (s.write a n v).feTaken = s.feTaken := rfl
@[simp] theorem State.write_badWords (s : State) (a n v : Nat) : (s.write a n v).badWords = s.badWords := rfl
@[simp] theorem State.write_badBlocks (s : State) (a n v : Nat) : (s.write a n v).badBlocks = s.badBlocks := rfl
@[simp] theorem State.write_quarantine (s : State) (a n v : Nat) : (s.write a n v).quarantine = s.quarantine := rfl
@[simp] theorem State.write_feWait (s : State) (a n v : Nat) : (s.write a n v).feWait = s.feWait := rfl
@[simp] theorem State.write_waitaQ (s : State) (a n v : Nat) : (s.write a n v).waitaQ = s.waitaQ := rfl
@[simp] theorem State.write_ctxs (s : State) (a n v : Nat) : (s.write a n v).ctxs = s.ctxs := rfl
@[simp] theorem State.write_groups (s : State) (a n v : Nat) : (s.write a n v).groups = s.groups := rfl
@[simp] theorem State.write_remap (s : State) (a n v : Nat) : (s.write a n v).remap = s.remap := rfl
@[simp] theorem State.write_pageFly (s : State) (a n v : Nat) : (s.write a n v).pageFly = s.pageFly := rfl
@[simp] theorem State.write_pageTree (s : State) (a n v : Nat) : (s.write a n v).pageTree = s.pageTree := rfl
@[simp] theorem State.write_qFly (s : State) (a n v : Nat) : (s.write a n v).qFly = s.qFly := rfl
@[simp] theorem State.write_msgFly (s : State) (a n v : Nat) : (s.write a n v).msgFly = s.msgFly := rfl
@[simp] theorem State.write_ackFly (s : State) (a n v : Nat) : (s.write a n v).ackFly = s.ackFly := rfl
@[simp] theorem State.write_modOut (s : State) (a n v : Nat) : (s.write a n v).modOut = s.modOut := rfl
@[simp] theorem State.write_xfers (s : State) (a n v : Nat) : (s.write a n v).xfers = s.xfers := rfl
@[simp] theorem State.write_xferNo (s : State) (a n v : Nat) : (s.write a n v).xferNo = s.xferNo := rfl
@[simp] theorem State.write_xferGot (s : State) (a n v : Nat) : (s.write a n v).xferGot = s.xferGot := rfl
@[simp] theorem State.write_teams (s : State) (a n v : Nat) : (s.write a n v).teams = s.teams := rfl
@[simp] theorem State.write_teamNo (s : State) (a n v : Nat) : (s.write a n v).teamNo = s.teamNo := rfl
@[simp] theorem State.write_launches (s : State) (a n v : Nat) : (s.write a n v).launches = s.launches := rfl
@[simp] theorem State.write_uidNo (s : State) (a n v : Nat) : (s.write a n v).uidNo = s.uidNo := rfl
@[simp] theorem State.write_outs (s : State) (a n v : Nat) : (s.write a n v).outs = s.outs := rfl
@[simp] theorem State.write_reqs (s : State) (a n v : Nat) : (s.write a n v).reqs = s.reqs := rfl
@[simp] theorem State.write_reqNo (s : State) (a n v : Nat) : (s.write a n v).reqNo = s.reqNo := rfl
@[simp] theorem State.write_pools (s : State) (a n v : Nat) : (s.write a n v).pools = s.pools := rfl
@[simp] theorem State.write_queues (s : State) (a n v : Nat) : (s.write a n v).queues = s.queues := rfl
@[simp] theorem State.write_ksems (s : State) (a n v : Nat) : (s.write a n v).ksems = s.ksems := rfl
@[simp] theorem State.write_qswBusy (s : State) (a n v : Nat) : (s.write a n v).qswBusy = s.qswBusy := rfl
@[simp] theorem State.write_qswRefused (s : State) (a n v : Nat) : (s.write a n v).qswRefused = s.qswRefused := rfl
@[simp] theorem State.write_kturn (s : State) (a n v : Nat) : (s.write a n v).kturn = s.kturn := rfl
@[simp] theorem State.write_modId (s : State) (a n v : Nat) : (s.write a n v).modId = s.modId := rfl
@[simp] theorem State.write_gvec (s : State) (a n v : Nat) : (s.write a n v).gvec = s.gvec := rfl
@[simp] theorem State.write_gie (s : State) (a n v : Nat) : (s.write a n v).gie = s.gie := rfl
@[simp] theorem State.write_vecs (s : State) (a n v : Nat) : (s.write a n v).vecs = s.vecs := rfl
@[simp] theorem State.write_vecSent (s : State) (a n v : Nat) : (s.write a n v).vecSent = s.vecSent := rfl
@[simp] theorem State.write_hinges (s : State) (a n v : Nat) : (s.write a n v).hinges = s.hinges := rfl
@[simp] theorem State.write_hingeIn (s : State) (a n v : Nat) : (s.write a n v).hingeIn = s.hingeIn := rfl
@[simp] theorem State.write_hingeNo (s : State) (a n v : Nat) : (s.write a n v).hingeNo = s.hingeNo := rfl
@[simp] theorem State.write_budgets (s : State) (a n v : Nat) : (s.write a n v).budgets = s.budgets := rfl
@[simp] theorem State.write_budgetsNext (s : State) (a n v : Nat) : (s.write a n v).budgetsNext = s.budgetsNext := rfl
@[simp] theorem State.write_boot (s : State) (a n v : Nat) : (s.write a n v).boot = s.boot := rfl
@[simp] theorem State.write_tcache (s : State) (a n v : Nat) : (s.write a n v).tcache = s.tcache := rfl
@[simp] theorem State.write_retired (s : State) (a n v : Nat) : (s.write a n v).retired = s.retired := rfl
@[simp] theorem State.write_deadDies (s : State) (a n v : Nat) : (s.write a n v).deadDies = s.deadDies := rfl
@[simp] theorem State.write_spares (s : State) (a n v : Nat) : (s.write a n v).spares = s.spares := rfl
@[simp] theorem State.write_links (s : State) (a n v : Nat) : (s.write a n v).links = s.links := rfl
@[simp] theorem State.write_grid (s : State) (a n v : Nat) : (s.write a n v).grid = s.grid := rfl
@[simp] theorem State.write_hist (s : State) (a n v : Nat) : (s.write a n v).hist = s.hist := rfl
@[simp] theorem State.write_power (s : State) (a n v : Nat) : (s.write a n v).power = s.power := rfl
@[simp] theorem State.write_hostData (s : State) (a n v : Nat) : (s.write a n v).hostData = s.hostData := rfl
@[simp] theorem State.write_clk (s : State) (a n v : Nat) : (s.write a n v).clk = s.clk := rfl
@[simp] theorem State.write_running (s : State) (a n v : Nat) : (s.write a n v).running = s.running := rfl
@[simp] theorem State.write_agenda (s : State) (a n v : Nat) : (s.write a n v).agenda = s.agenda := rfl
@[simp] theorem State.write_beat (s : State) (a n v : Nat) : (s.write a n v).beat = s.beat := rfl
@[simp] theorem State.write_freeCtr (s : State) (a n v : Nat) : (s.write a n v).freeCtr = s.freeCtr := rfl

end Sys2Proof.Machine
end

