-- ==== Sys2Proof/Laws/Issue.lean ====
section
/-! SUPPORT. What an I-class instruction does once nothing stands in its way, and what writing a register does. -/
namespace Sys2Proof.Machine

theorem issue_ready {s : State} {regs : List Reg} {k} (h : Ready s regs) : s.issue regs k = .next (k s) := by
  obtain ⟨h1, h2, h3⟩ := h
  unfold State.issue
  have : regs.any s.pendingG = false := by
    rw [List.any_eq_false]; intro r hr; simp [h3 r hr]
  simp [h1, h2, this]

theorem greg_setG (t : Thread) (d r : Reg) (v : Word) (hd : d.toNat < 32) (hr : r.toNat < 32) :
    (t.setG d v).greg r = if r = d ∧ r ≠ 0 then v else t.greg r := by
    unfold Thread.greg Thread.setG
    by_cases h0 : r.toNat = 0
    · have : r = 0 := BitVec.eq_of_toNat_eq h0
      simp [this]
    · have h0' : r ≠ 0 := fun h => h0 (by simp [h])
      by_cases hd0 : d.toNat = 0
      · have : r ≠ d := fun h => h0 (h ▸ hd0)
        simp [h0, hd0, this]
      · simp only [h0, hd0, ↓reduceIte]
        rw [Vector.getElem_set]
        simp only [Nat.mod_eq_of_lt hr, Nat.mod_eq_of_lt hd]
        by_cases he : d.toNat = r.toNat
        · have : r = d := BitVec.eq_of_toNat_eq he.symm
          simp [this]
          intro h; exact absurd (this.trans h) h0'
        · have : r ≠ d := fun h => he (by rw [h])
          simp [he, this]

theorem result_completes {s : State} {d : Reg} {v w : Word} (hd : d.toNat < 32) (h : v = w) : CompletesG (.next (s.result d v)) s d w := by
  subst h
  refine ⟨_, rfl, ⟨?_, ?_⟩, ?_, ?_⟩
  · simp [State.result, State.advance, State.modTh, State.setG, State.setTh_th, State.setTh_setTh]
  · intro a; simp [State.result, State.advance, State.modTh, State.setG]
  · simp only [State.result, State.advance, State.modTh, State.setG, State.setTh_th, Thread.WentOn, Thread.setG]
    split
    · rfl
    · rfl
  · intro r hr
    have := greg_setG s.th d r v hd hr
    simp only [State.result, State.advance, State.modTh, State.setG, State.setTh_th, State.g]
    exact this
end Sys2Proof.Machine
end

