-- ==== Sys2Proof/Laws/Lines.lean ====
section
/-! SUPPORT. Bytes and lines: little-endian numbers read back, and the line that holds one instruction. -/
namespace Sys2Proof.Laws

theorem leBytes_length (n v : Nat) : (leBytes n v).length = n := by
  induction n generalizing v with
  | zero => rfl
  | succ n ih => simp [leBytes, ih]

theorem leNat_leBytes (n v : Nat) : leNat (leBytes n v) = v % 256 ^ n := by
  induction n generalizing v with
  | zero => simp [leBytes, leNat, Nat.mod_one]
  | succ n ih =>
    simp only [leBytes, leNat, ih, BitVec.toNat_ofNat]
    rw [show (2 : Nat) ^ 8 = 256 from rfl, show 256 ^ (n + 1) = 256 * 256 ^ n by rw [Nat.pow_succ, Nat.mul_comm], Nat.mod_mul]

/-- The fields of a head and a tail are within their widths. -/
def Fits (e : Enc) : Prop := e.op < 256 ∧ e.l < 4 ∧ e.d < 64 ∧ e.tail < 256 ^ tailBytes e.l

theorem tailBytes_le {l : Nat} (h : l < 4) : tailBytes l ≤ 8 := by
  match l, h with
  | 0, _ | 1, _ | 2, _ | 3, _ => decide

theorem head_bits {e : Enc} (h : Fits e) :
    bits e.head 8 8 = e.op ∧ bits e.head 6 2 = e.l ∧ bits e.head 0 6 = e.d ∧ e.head < 65536 := by
  obtain ⟨h1, h2, h3, _⟩ := h
  simp only [bits, Enc.head]
  omega

theorem lineOf_word (e : Enc) : (lineOf e).take 2 = leBytes 2 2048 := by
  simp [lineOf, leBytes]

theorem lineOf_head {e : Enc} (h : Fits e) : lineHead (lineOf e) 0 = e.head := by
  have : ((lineOf e).drop 2).take 2 = leBytes 2 e.head := by simp [lineOf, leBytes]
  show leNat (((lineOf e).drop 2).take 2) = e.head
  rw [this, leNat_leBytes]
  exact Nat.mod_eq_of_lt (head_bits h).2.2.2

theorem lineOf_length {e : Enc} (h : Fits e) : (lineOf e).length = 64 := by
  have := tailBytes_le h.2.1
  simp [lineOf, leBytes_length]
  omega

theorem lineOf_tailSum {e : Enc} (h : Fits e) : tailSum (lineOf e) 1 = tailBytes e.l := by
  simp [tailSum, lineOf_head h, headL, (head_bits h).2.1]

theorem lineOf_tail {e : Enc} (h : Fits e) : lineTail (lineOf e) 0 = e.tail := by
  have ht := tailBytes_le h.2.1
  have : (lineOf e).drop (64 - tailBytes e.l) = leBytes (tailBytes e.l) e.tail := by
    have hl : (leBytes 2 (1 * 2048) ++ leBytes 2 e.head ++ List.replicate (60 - tailBytes e.l) (0 : Byte)).length = 64 - tailBytes e.l := by
      simp [leBytes_length]
      omega
    unfold lineOf
    exact List.drop_left' hl
  unfold lineTail
  rw [lineOf_tailSum h, lineOf_head h, this, headL, (head_bits h).2.1, List.take_of_length_le (by simp [leBytes_length]),
    leNat_leBytes]
  exact Nat.mod_eq_of_lt h.2.2.2

theorem lineOf_legal {e : Enc} (h : Fits e) : lineLegal (lineOf e) = true := by
  have ht := tailBytes_le h.2.1
  have hn : leNat ((lineOf e).take 2) = 2048 := by
    rw [lineOf_word, leNat_leBytes]
    rfl
  have hN : lineN (lineOf e) = 1 := by unfold lineN; rw [hn]; rfl
  unfold lineLegal
  simp only [hn, hN, lineOf_tailSum h]
  have : 2 * 1 + 2 + tailBytes e.l ≤ 64 := by omega
  simp [this, zero, bits]

/-- The decoder reads from the line of one instruction what it reads from its head and tail. -/
theorem decode_lineOf {e : Enc} (h : Fits e) : decode (lineOf e) = decodeWord e.op e.l e.d e.tail := by
  simp [decode, lineOf_length h, lineOf_legal h, decodeHead, decodeWord, parseHead, lineOf_head h, lineOf_tail h, headL,
    (head_bits h).1, (head_bits h).2.1, (head_bits h).2.2.1]

end Sys2Proof.Laws
end

