-- ==== Sys2Proof/Laws/Memory.lean ====
section
/-! SUPPORT. Memory: every operation keeps the canonical form; a byte reads as what was written last; a write changes no other
byte. -/
namespace Sys2Proof.Machine

/-- Canonical form, with every address at or above a bound. -/
def Memory.above : Nat → List Host.Cell → Prop
  | _, [] => True
  | n, c :: r => n ≤ c.1 ∧ c.2 ≠ emptyByte c.1 ∧ Memory.above (c.1 + 1) r

theorem Memory.above_mono {n k : Nat} {m : List Host.Cell} (h : Memory.above n m) (hk : k ≤ n) : Memory.above k m := by
  cases m with
  | nil => trivial
  | cons c r => exact ⟨Nat.le_trans hk h.1, h.2⟩

theorem Memory.wf_cons (c : Host.Cell) (r : List Host.Cell) :
    Memory.wf (c :: r) = true ↔ c.2 ≠ emptyByte c.1 ∧ Memory.above (c.1 + 1) r := by
  induction r generalizing c with
  | nil => simp [Memory.wf, Memory.above]
  | cons d r ih =>
    simp only [Memory.wf, Memory.above, Bool.and_eq_true, decide_eq_true_eq, bne_iff_ne, ne_eq, ih d, Nat.succ_le_iff]
    tauto

theorem Memory.wf_iff (m : List Host.Cell) : Memory.wf m = true ↔ Memory.above 0 m := by
  cases m with
  | nil => simp [Memory.wf, Memory.above]
  | cons c r => simp [Memory.wf_cons, Memory.above]

theorem Memory.byte_below {n a : Nat} {m : List Host.Cell} (h : Memory.above n m) (ha : a < n) : Memory.byte m a = emptyByte a := by
  cases m with
  | nil => rfl
  | cons c r =>
    have h1 : ¬ c.1 = a := by have := h.1; omega
    have h2 : a < c.1 := by have := h.1; omega
    simp [Memory.byte, h1, h2]

theorem Memory.above_setByte {n a : Nat} {m : List Host.Cell} (b : Byte) (h : Memory.above n m) (ha : n ≤ a) :
    Memory.above n (Memory.setByte m a b) := by
  induction m generalizing n with
  | nil => unfold Memory.setByte; split <;> simp_all [Memory.above]
  | cons c r ih =>
    obtain ⟨h1, h2, h3⟩ := h
    unfold Memory.setByte
    split
    · subst_vars
      split
      · exact Memory.above_mono h3 (by omega)
      · exact ⟨h1, ‹_›, h3⟩
    · split
      · split
        · exact ⟨h1, h2, h3⟩
        · exact ⟨ha, ‹_›, by omega, h2, h3⟩
      · exact ⟨h1, h2, ih h3 (by omega)⟩

theorem Memory.byte_setByte_above {n a : Nat} {m : List Host.Cell} (b : Byte) (h : Memory.above n m) (k : Nat) :
    Memory.byte (Memory.setByte m a b) k = if k = a then b else Memory.byte m k := by
  induction m generalizing n with
  | nil =>
    unfold Memory.setByte
    by_cases hb : b = emptyByte a
    · simp +contextual [hb, Memory.byte]
    · by_cases hk : k = a
      · simp [hb, Memory.byte, hk]
      · have : ¬ a = k := fun h => hk h.symm
        simp [hb, Memory.byte, hk, this]
  | cons c r ih =>
    obtain ⟨h1, h2, h3⟩ := h
    unfold Memory.setByte
    split
    · next hc =>
      split
      · next hb =>
        by_cases hk : k = a
        · subst hk
          rw [Memory.byte_below h3 (by omega)]
          simp [hb]
        · simp only [hk, ↓reduceIte, Memory.byte]
          split
          · omega
          · split
            · exact Memory.byte_below h3 (by omega)
            · rfl
      · simp only [Memory.byte]
        by_cases hk : k = a
        · simp [hk]
        · have : ¬ a = k := fun h => hk h.symm
          simp [hk, this, hc]
    · next hc =>
      split
      · next ha =>
        split
        · next hb =>
          by_cases hk : k = a
          · subst hk
            simp [Memory.byte, hc, ha, hb]
          · simp [hk]
        · simp only [Memory.byte]
          by_cases hk : k = a
          · simp [hk]
          · have : ¬ a = k := fun h => hk h.symm
            simp only [this, hk, ↓reduceIte]
            split
            · have h4 : ¬ c.1 = k := by omega
              have h5 : k < c.1 := by omega
              simp [h4, h5]
            · rfl
      · simp only [Memory.byte, ih h3]
        by_cases hk : k = a
        · subst hk
          have : ¬ k < c.1 := by omega
          simp [hc, this]
        · simp [hk]

theorem Memory.wf_setByte {m : List Host.Cell} (h : Memory.wf m = true) (a : Nat) (b : Byte) : Memory.wf (Memory.setByte m a b) = true := by
  rw [Memory.wf_iff] at h ⊢
  exact Memory.above_setByte b h (Nat.zero_le a)

theorem Memory.byte_setByte {m : List Host.Cell} (h : Memory.wf m = true) (a k : Nat) (b : Byte) :
    Memory.byte (Memory.setByte m a b) k = if k = a then b else Memory.byte m k :=
  Memory.byte_setByte_above b ((Memory.wf_iff m).mp h) k

theorem Memory.wf_setBytes {m : List Host.Cell} (h : Memory.wf m = true) (a : Nat) (bs : List Byte) :
    Memory.wf (Memory.setBytes m a bs) = true := by
  induction bs generalizing m a with
  | nil => exact h
  | cons b bs ih => exact ih (Memory.wf_setByte h a b) (a + 1)

theorem Memory.byte_setBytes {m : List Host.Cell} (h : Memory.wf m = true) (a k : Nat) (bs : List Byte) :
    Memory.byte (Memory.setBytes m a bs) k = if a ≤ k then (bs[k - a]?).getD (Memory.byte m k) else Memory.byte m k := by
  induction bs generalizing m a with
  | nil => simp [Memory.setBytes]
  | cons b bs ih =>
    rw [Memory.setBytes, ih (Memory.wf_setByte h a b), Memory.byte_setByte h]
    by_cases h1 : k = a
    · subst h1; simp
    · by_cases h2 : a ≤ k
      · have : k - a = (k - (a + 1)) + 1 := by omega
        simp [h1, h2, show a + 1 ≤ k by omega, this]
      · simp [h1, h2, show ¬ a + 1 ≤ k by omega]

theorem Memory.wf_write {m : List Host.Cell} (h : Memory.wf m = true) (a n v : Nat) : Memory.wf (Memory.write m a n v) = true :=
  Memory.wf_setBytes h a _

theorem Memory.above_filter {n : Nat} {m : List Host.Cell} (p : Host.Cell → Bool) (h : Memory.above n m) :
    Memory.above n (m.filter p) := by
  induction m generalizing n with
  | nil => exact h
  | cons c r ih =>
    obtain ⟨h1, h2, h3⟩ := h
    simp only [List.filter]
    split
    · exact ⟨h1, h2, ih h3⟩
    · exact Memory.above_mono (ih h3) (by omega)

theorem Memory.wf_clear {m : List Host.Cell} (h : Memory.wf m = true) (lo hi : Nat) : Memory.wf (Memory.clear m lo hi) = true := by
  unfold Memory.clear
  have hf : Memory.wf (m.filter fun c => decide (c.1 < lo) || decide (hi ≤ c.1)) = true := by
    rw [Memory.wf_iff] at h ⊢
    exact Memory.above_filter _ h
  generalize emptySpecial lo hi = l
  generalize (m.filter fun c => decide (c.1 < lo) || decide (hi ≤ c.1)) = m' at hf
  induction l generalizing m' with
  | nil => exact hf
  | cons a r ih => exact ih _ (Memory.wf_setByte hf a 0)

end Sys2Proof.Machine
end

