-- ==== Sys2Proof/Laws/Ops.lean ====
section
/-! SUPPORT. What the shared operations can do, each said once: issuing, the checks of an access, cores and clusters by their place,
queues, writes, traps, the step. -/
namespace Sys2Proof.Machine

/-! ## Issuing -/

/-- An I-class instruction traps on a capture or a prefix, waits for a register, or does what it does. -/
theorem issue_cases {s t : State} {regs : List Reg} {k : State → State} (h : s.issue regs k = .next t) :
    (s.th.capture.isSome = true ∧ t = s.illegal 6) ∨ (s.th.capture = none ∧ s.th.pp = true ∧ t = s.badPrefix) ∨
    (s.th.capture = none ∧ s.th.pp = false ∧ (∃ r ∈ regs, s.pendingG r = true) ∧ t = s.stallReg) ∨ (Ready s regs ∧ t = k s) := by
  unfold State.issue at h
  injection h with h
  subst h
  rcases hc : s.th.capture with _ | n
  · rcases hp : s.th.pp with _ | _
    · rcases hr : regs.any s.pendingG with _ | _
      · refine .inr (.inr (.inr ⟨⟨hc, hp, ?_⟩, by simp⟩))
        rw [List.any_eq_false] at hr
        exact fun r h => by simpa using hr r h
      · exact .inr (.inr (.inl ⟨rfl, rfl, by simpa using hr, by simp⟩))
    · exact .inr (.inl ⟨rfl, rfl, by simp⟩)
  · exact .inl ⟨rfl, by simp⟩

theorem issue_total (s : State) (regs : List Reg) (k : State → State) : ∃ t, s.issue regs k = .next t := ⟨_, rfl⟩

/-- An instruction of system code in system mode, and in user mode. -/
theorem issueSystem_system {s : State} {regs : List Reg} {k : State → State} (h : Ready s regs) (hm : s.th.mode = true) :
    s.issueSystem regs k = .next (k s) := by
  have hr : regs.any s.pendingG = false := by rw [List.any_eq_false]; intro r hr; simp [h.2.2 r hr]
  simp [State.issueSystem, State.issue, h.1, h.2.1, hr, hm]

theorem issueSystem_user {s : State} {regs : List Reg} {k : State → State} (h : Ready s regs) (hm : s.th.mode = false) :
    s.issueSystem regs k = .next s.privileged := by
  have hr : regs.any s.pendingG = false := by rw [List.any_eq_false]; intro r hr; simp [h.2.2 r hr]
  simp [State.issueSystem, State.issue, h.1, h.2.1, hr, hm]

/-! ## Cores, clusters and queues by their place -/

theorem assocGet_assocSet {α β : Type} [DecidableEq α] (l : List (α × β)) (a b : α) (v d : β) :
    assocGet (assocSet l a v) b d = if a = b then v else assocGet l b d := by
  induction l with
  | nil => simp [assocSet, assocGet]
  | cons p r ih =>
    obtain ⟨c, w⟩ := p
    unfold assocSet
    by_cases hc : c = a
    · subst hc; by_cases hb : c = b <;> simp [assocGet, hb]
    · by_cases hb : c = b
      · subst hb; simp [assocGet, hc, Ne.symm hc]
      · simp [assocGet, hc, hb, ih]

theorem assocGet_assocDel {α β : Type} [DecidableEq α] (l : List (α × β)) (a b : α) (d : β) :
    assocGet (assocDel l a) b d = if a = b then d else assocGet l b d := by
  induction l with
  | nil => simp [assocDel, assocGet]
  | cons p r ih =>
    obtain ⟨c, w⟩ := p
    unfold assocDel at ih ⊢
    by_cases hc : c = a
    · subst hc; by_cases hb : c = b <;> simp_all [assocGet]
    · by_cases hb : c = b
      · subst hb; simp [assocGet, hc, Ne.symm hc]
      · simp_all [assocGet]

theorem coreAt_putCore (s : State) (c d : CoreId) (k : Core) : (s.putCore c k).coreAt d = if c = d then k else s.coreAt d := by
  unfold State.putCore State.coreAt
  by_cases hc : c = s.cid
  · subst hc; by_cases hd : d = s.cid <;> simp [hd, eq_comm]
  · by_cases hd : d = s.cid
    · subst hd; simp [hc]
    · simp [hc, hd, assocGet_assocSet]

theorem clAt_putCl (s : State) (c d : ClusterId) (k : Cluster) : (s.putCl c k).clAt d = if c = d then k else s.clAt d := by
  unfold State.putCl State.clAt
  by_cases hc : c = s.clid
  · subst hc; by_cases hd : d = s.clid <;> simp [hd, eq_comm, State.newCl]
  · by_cases hd : d = s.clid
    · subst hd; simp [hc]
    · simp [hc, hd, assocGet_assocSet, State.newCl]

theorem queue_modQueue (s : State) (p q : Nat) (f : Queue → Queue) : (s.modQueue p f).queue q = if p = q then f (s.queue p) else s.queue q :=
  assocGet_assocSet ..

theorem putCore_mem (s : State) (c : CoreId) (k : Core) : (s.putCore c k).mem = s.mem := by unfold State.putCore; split <;> rfl
theorem modCoreAt_mem (s : State) (c : CoreId) (f : Core → Core) : (s.modCoreAt c f).mem = s.mem := putCore_mem ..
theorem putCl_mem (s : State) (c : ClusterId) (k : Cluster) : (s.putCl c k).mem = s.mem := by unfold State.putCl; split <;> rfl
theorem modClAt_mem (s : State) (c : ClusterId) (f : Cluster → Cluster) : (s.modClAt c f).mem = s.mem := putCl_mem ..
theorem focus_mem (s : State) (c : CoreId) : (s.focus c).mem = s.mem := by
  unfold State.focus
  split
  · rfl
  · dsimp only; split <;> rfl

/-- Focus on a core: it is the one that moves, and every core is as before. -/
theorem focus_cid (s : State) (c : CoreId) : (s.focus c).cid = c := by
  unfold State.focus
  split
  · exact Eq.symm ‹_›
  · dsimp only; split <;> rfl

/-- A command that completes leaves memory, and is taken off its queue. -/
theorem completeCmd_mem (s : State) (q : Nat) (ix : BitVec 32) (ok : Bool) : (s.completeCmd q ix ok).mem = s.mem := by
  unfold State.completeCmd
  split
  · rfl
  · dsimp only; split <;> rfl

theorem completeCmd_taken (s : State) (q p : Nat) (ix : BitVec 32) (ok : Bool) :
    ((s.completeCmd q ix ok).queue p).taken = if q = p then (s.queue q).taken.filter (·.1 ≠ ix) else (s.queue p).taken := by
  unfold State.completeCmd
  split
  · rename_i h
    split
    · subst p
      symm
      rw [List.filter_eq_self]
      intro x hx
      have := List.find?_eq_none.mp h x hx
      simpa using this
    · rfl
  · dsimp only
    have : ∀ k : Vector (BitVec 32) 256, ∀ t : State, ({ t with ksems := k } : State).queue p = t.queue p := fun _ _ => rfl
    split <;> simp only [this, queue_modQueue] <;> split <;> rfl

/-! ## Writes -/

theorem wakeWhere_mem (s : State) (p : CoreId → Fin 4 → Thread → Bool) : (s.wakeWhere p).mem = s.mem := rfl

theorem charge_mem (d : ClusterId) (n : Nat) (s : State) : (s.charge d n).mem = s.mem := modClAt_mem ..

theorem hop_mem (p : PortDir) (cls : Fin 6) (n : Nat) (s : State) : (s.hop p cls n).mem = s.mem := rfl

theorem pass_mem (cls : Fin 6) (d : Option ClusterId) (loc n : Nat) (s : State) : (s.pass cls d loc n).mem = s.mem := by
  unfold State.pass
  generalize pathOf d loc = l
  induction l generalizing s with
  | nil => rfl
  | cons p r ih => rw [List.foldl_cons, ih, hop_mem]

theorem meterPart_mem (cls : Fin 6) (d : Option ClusterId) (p : Part) (s : State) : (s.meterPart cls d p).mem = s.mem := by
  unfold State.meterPart
  dsimp only
  repeat' split
  all_goals simp only [charge_mem, pass_mem]

theorem meterAt_mem (d : ClusterId) (ps : List Part) (s : State) : (s.meterAt d ps).mem = s.mem := by
  unfold State.meterAt State.meterFor
  induction ps generalizing s with
  | nil => rfl
  | cons p r ih => rw [List.foldl_cons, ih, meterPart_mem]

theorem rereadWaita_mem (s : State) (w : WaitaWaiter) : (s.rereadWaita w).mem = s.mem := by
  unfold State.rereadWaita
  dsimp only
  split
  · exact modCoreAt_mem ..
  · split
    · exact meterAt_mem ..
    · rw [modCoreAt_mem, meterAt_mem]

theorem wakeWaita_mem (s : State) (word : Nat) : (s.wakeWaita word).mem = s.mem := by
  unfold State.wakeWaita
  generalize s.waitaQ.filter (·.word = word) = l
  induction l generalizing s with
  | nil => rfl
  | cons w r ih => rw [List.foldl_cons, ih, rereadWaita_mem]

theorem wakeRange_mem (s : State) (loc n : Nat) : (s.wakeRange loc n).mem = s.mem := by
  unfold State.wakeRange
  split
  · generalize wordsOf loc n = l
    induction l generalizing s with
    | nil => rfl
    | cons w r ih => rw [List.foldl_cons, ih, wakeWaita_mem]
  · rfl

/-- Writing bytes writes just these bytes, as software can write them there. -/
theorem writeBytes_mem (s : State) (loc : Nat) (bs : List Byte) : (s.writeBytes loc bs).mem = Memory.setBytes s.mem loc (s.softBytes loc bs) := by
  unfold State.writeBytes; exact wakeRange_mem ..

/-- Outside the local stores every byte is as it is written. -/
theorem softBytes_away {s : State} {loc : Nat} (h : isLs loc = false) (bs : List Byte) : s.softBytes loc bs = bs := by
  simp [State.softBytes, h]

theorem softBytes_length (s : State) (loc : Nat) (bs : List Byte) : (s.softBytes loc bs).length = bs.length := by
  unfold State.softBytes; split <;> simp

theorem writeBytes_wf {s : State} (h : Memory.wf s.mem = true) (loc : Nat) (bs : List Byte) : Memory.wf (s.writeBytes loc bs).mem = true := by
  rw [writeBytes_mem]; exact Memory.wf_setBytes h loc _

theorem writeBytes_byte {s : State} (h : Memory.wf s.mem = true) (loc k : Nat) (bs : List Byte) :
    Memory.byte (s.writeBytes loc bs).mem k =
      if loc ≤ k then ((s.softBytes loc bs)[k - loc]?).getD (Memory.byte s.mem k) else Memory.byte s.mem k := by
  rw [writeBytes_mem]; exact Memory.byte_setBytes h loc k _

/-! ## Accesses -/

/-- The parts that an access uses: those of eight loads one by one, word by word (R354). -/
def Req.uses (r : Req) (ps : List Part) : List Part :=
  if r.words then ps.flatMap fun p => (chunks 8 p.len p.loc p.len).map fun c => ⟨c.1, c.2⟩ else ps

/-- An access that passes its checks does what it does with its parts. -/
theorem access_passes {s : State} {ea : Word} {r : Req} {ps : List Part} (h : Passes s ea r.len r.align r.wr ps) (hw : s.watchedIn ea.toNat r = none)
    (hu : s.bankHeld (r.uses ps) (some (s.cid, s.cur)) = false) (ha : r.allow ea.toNat = true) (hh : r.host = true ∨ ∀ p ∈ ps, isHost p.loc = false) (k : State → List Part → State) :
    s.access ea r k = k s (r.uses ps) := by
  have h1 : ¬ 2 ^ 48 < ea.toNat + r.len := Nat.not_lt.mpr h.fits
  have h2 : ¬ ea.toNat % r.align ≠ 0 := not_not.mpr h.aligned
  have h3 : (!r.host && ps.any fun p => isHost p.loc) = false := by
    rcases hh with hh | hh
    · simp [hh]
    · simp only [Bool.and_eq_false_iff, List.any_eq_false]
      exact .inr fun p hp => by simp [hh p hp]
  unfold State.access
  rw [Req.uses] at hu ⊢
  rw [if_neg h1, if_neg h2]
  simp [ha, h.leads, h3, hw, hu]

/-- What an access that is near does, and what one that is not does first. -/
theorem performOr_near {s : State} {op : MemOp} {ea : Word} {ps : List Part} (h : s.near ps = true) : s.performOr op ea ps = s.perform op ea ps := by
  simp [State.performOr, h]
theorem performOr_far {s : State} {op : MemOp} {ea : Word} {ps : List Part} (h : s.near ps = false) :
    s.performOr op ea ps = (s.missOn (.data op (ea.setWidth 48) ps)).modTh fun t => { t with via := none } := by simp [State.performOr, h]

/-! ## Traps -/

/-- With nothing issued in the F queue, a trap where traps are enabled is entered as Table 8.5 says. -/
theorem commitIssued_waiting {s : State} (h : ∀ e ∈ s.th.fq, e.st = .waiting) (n : Nat) : State.commitIssued n s = (s, none) := by
  cases n with
  | zero => rfl
  | succ n =>
    unfold State.commitIssued
    split
    · rfl
    · rename_i e _ he
      rw [h e (by simp [he])]

theorem takeTrap_enters {s : State} (h : Enterable s) (tr : Trap) (pre : State → State) : s.takeTrap tr pre = (pre s).enterTrap tr := by
  unfold State.takeTrap
  simp [h.1, commitIssued_waiting h.2.1]

theorem takeTrap_disabled {s : State} (h : s.th.ie = false) (tr : Trap) (pre : State → State) : s.takeTrap tr pre = (pre s).doubleTrap tr := by
  simp [State.takeTrap, h]

/-! ## The step -/

theorem step_agenda {s : State} {a : Agenda} {r : List Agenda} (h : s.agenda = a :: r) : step s = State.meet { s with agenda := r } a := by
  unfold step; rw [h]
theorem step_beat {s : State} (h : s.agenda = []) (hr : s.running = true) : step s = s.beatStep := by
  unfold step; rw [h]; simp [hr]
theorem step_stopped {s : State} (h : s.agenda = []) (hr : s.running = false) : step s = .fault .clockStopped := by
  unfold step; rw [h]; simp [hr]
end Sys2Proof.Machine
end

