-- ==== Sys2Proof/Laws/PerInstr.lean ====
section
/-! SUPPORT. Statements about every instruction, one lemma per constructor: decoding what the encoder writes gives the instruction
back, and what the encoder writes is within a head's and a tail's widths. -/
namespace Sys2Proof.Laws.RoundTrip
set_option linter.unusedSimpArgs false

/-- Decoding the head and tail of a well-formed instruction gives it back. -/
def Statement (i : Instr) : Prop :=
  i.wf = true → ∀ e, encode i = some e → decodeWord e.op e.l e.d e.tail = .ok i

theorem lower_ok {x : Except DecodeError Instr} {i : Instr} (h : x = .ok i) : (x.map Parsed.lower).map Parsed.instr = .ok i := by
  rw [h]; rfl
theorem upper_ok {x : Except DecodeError UpperInstr} {u : UpperInstr} (h : x = .ok u) :
    (x.map Parsed.upper).map Parsed.instr = .ok u.instr := by
  rw [h]; rfl

theorem nop : Statement .nop := by
  intro _ e he
  cases he
  rfl
theorem nopL1 (o : K16) : Statement (.nopL1 o) := by
  intro hw e he
  cases he
  have hr : (zero (K16.encD o) 0 6) = true := by
    obtain ⟨k⟩ := o
    simp only [zero, bits, K16.encD, Bool.and_eq_true, beq_iff_eq]
    omega
  simp only [decodeWord, parseWord, decode0x, Nat.reduceDiv, Nat.reduceEqDiff, ↓reduceIte]
  exact lower_ok (row_ok (regs := K16.regsOk) (fields := K16.fieldsOk) hw hr (parse_K16 o))
theorem nopL2 (o : K32) : Statement (.nopL2 o) := by
  intro hw e he
  cases he
  have hr : (zero (K32.encD o) 0 6) = true := by
    obtain ⟨k⟩ := o
    simp only [zero, bits, K32.encD, Bool.and_eq_true, beq_iff_eq]
    omega
  simp only [decodeWord, parseWord, decode0x, Nat.reduceDiv, Nat.reduceEqDiff, ↓reduceIte]
  exact lower_ok (row_ok (regs := K32.regsOk) (fields := K32.fieldsOk) hw hr (parse_K32 o))
theorem nopL3 (o : K64) : Statement (.nopL3 o) := by
  intro hw e he
  cases he
  have hr : (zero (K64.encD o) 0 6) = true := by
    obtain ⟨k⟩ := o
    simp only [zero, bits, K64.encD, Bool.and_eq_true, beq_iff_eq]
    omega
  simp only [decodeWord, parseWord, decode0x, Nat.reduceDiv, Nat.reduceEqDiff, ↓reduceIte]
  exact lower_ok (row_ok (regs := K64.regsOk) (fields := K64.fieldsOk) hw hr (parse_K64 o))
theorem add (o : GGG) : Statement (.add o) := by
  intro hw e he
  cases he
  have hr : (zero (GGG.encT o) 12 4) = true := by
    obtain ⟨d, a, b⟩ := o
    simp only [zero, bits, GGG.encT, Bool.and_eq_true, beq_iff_eq]
    omega
  simp only [decodeWord, parseWord, decode0x, Nat.reduceDiv, Nat.reduceEqDiff, ↓reduceIte]
  exact lower_ok (row_ok (regs := GGG.regsOk) (fields := GGG.fieldsOk) hw hr (parse_GGG o))
theorem sub (o : GGG) : Statement (.sub o) := by
  intro hw e he
  cases he
  have hr : (zero (GGG.encT o) 12 4) = true := by
    obtain ⟨d, a, b⟩ := o
    simp only [zero, bits, GGG.encT, Bool.and_eq_true, beq_iff_eq]
    omega
  simp only [decodeWord, parseWord, decode0x, Nat.reduceDiv, Nat.reduceEqDiff, ↓reduceIte]
  exact lower_ok (row_ok (regs := GGG.regsOk) (fields := GGG.fieldsOk) hw hr (parse_GGG o))
theorem and (o : GGG) : Statement (.and o) := by
  intro hw e he
  cases he
  have hr : (zero (GGG.encT o) 12 4) = true := by
    obtain ⟨d, a, b⟩ := o
    simp only [zero, bits, GGG.encT, Bool.and_eq_true, beq_iff_eq]
    omega
  simp only [decodeWord, parseWord, decode0x, Nat.reduceDiv, Nat.reduceEqDiff, ↓reduceIte]
  exact lower_ok (row_ok (regs := GGG.regsOk) (fields := GGG.fieldsOk) hw hr (parse_GGG o))
theorem or (o : GGG) : Statement (.or o) := by
  intro hw e he
  cases he
  have hr : (zero (GGG.encT o) 12 4) = true := by
    obtain ⟨d, a, b⟩ := o
    simp only [zero, bits, GGG.encT, Bool.and_eq_true, beq_iff_eq]
    omega
  simp only [decodeWord, parseWord, decode0x, Nat.reduceDiv, Nat.reduceEqDiff, ↓reduceIte]
  exact lower_ok (row_ok (regs := GGG.regsOk) (fields := GGG.fieldsOk) hw hr (parse_GGG o))
theorem xor (o : GGG) : Statement (.xor o) := by
  intro hw e he
  cases he
  have hr : (zero (GGG.encT o) 12 4) = true := by
    obtain ⟨d, a, b⟩ := o
    simp only [zero, bits, GGG.encT, Bool.and_eq_true, beq_iff_eq]
    omega
  simp only [decodeWord, parseWord, decode0x, Nat.reduceDiv, Nat.reduceEqDiff, ↓reduceIte]
  exact lower_ok (row_ok (regs := GGG.regsOk) (fields := GGG.fieldsOk) hw hr (parse_GGG o))
theorem andn (o : GGG) : Statement (.andn o) := by
  intro hw e he
  cases he
  have hr : (zero (GGG.encT o) 12 4) = true := by
    obtain ⟨d, a, b⟩ := o
    simp only [zero, bits, GGG.encT, Bool.and_eq_true, beq_iff_eq]
    omega
  simp only [decodeWord, parseWord, decode0x, Nat.reduceDiv, Nat.reduceEqDiff, ↓reduceIte]
  exact lower_ok (row_ok (regs := GGG.regsOk) (fields := GGG.fieldsOk) hw hr (parse_GGG o))
theorem shl (o : GGG) : Statement (.shl o) := by
  intro hw e he
  cases he
  have hr : (zero (GGG.encT o) 12 4) = true := by
    obtain ⟨d, a, b⟩ := o
    simp only [zero, bits, GGG.encT, Bool.and_eq_true, beq_iff_eq]
    omega
  simp only [decodeWord, parseWord, decode0x, Nat.reduceDiv, Nat.reduceEqDiff, ↓reduceIte]
  exact lower_ok (row_ok (regs := GGG.regsOk) (fields := GGG.fieldsOk) hw hr (parse_GGG o))
theorem shr (o : GGG) : Statement (.shr o) := by
  intro hw e he
  cases he
  have hr : (zero (GGG.encT o) 12 4) = true := by
    obtain ⟨d, a, b⟩ := o
    simp only [zero, bits, GGG.encT, Bool.and_eq_true, beq_iff_eq]
    omega
  simp only [decodeWord, parseWord, decode0x, Nat.reduceDiv, Nat.reduceEqDiff, ↓reduceIte]
  exact lower_ok (row_ok (regs := GGG.regsOk) (fields := GGG.fieldsOk) hw hr (parse_GGG o))
theorem sra (o : GGG) : Statement (.sra o) := by
  intro hw e he
  cases he
  have hr : (zero (GGG.encT o) 12 4) = true := by
    obtain ⟨d, a, b⟩ := o
    simp only [zero, bits, GGG.encT, Bool.and_eq_true, beq_iff_eq]
    omega
  simp only [decodeWord, parseWord, decode0x, Nat.reduceDiv, Nat.reduceEqDiff, ↓reduceIte]
  exact lower_ok (row_ok (regs := GGG.regsOk) (fields := GGG.fieldsOk) hw hr (parse_GGG o))
theorem rotl (o : GGG) : Statement (.rotl o) := by
  intro hw e he
  cases he
  have hr : (zero (GGG.encT o) 12 4) = true := by
    obtain ⟨d, a, b⟩ := o
    simp only [zero, bits, GGG.encT, Bool.and_eq_true, beq_iff_eq]
    omega
  simp only [decodeWord, parseWord, decode0x, Nat.reduceDiv, Nat.reduceEqDiff, ↓reduceIte]
  exact lower_ok (row_ok (regs := GGG.regsOk) (fields := GGG.fieldsOk) hw hr (parse_GGG o))
theorem mul (o : GGG) : Statement (.mul o) := by
  intro hw e he
  cases he
  have hr : (zero (GGG.encT o) 12 4) = true := by
    obtain ⟨d, a, b⟩ := o
    simp only [zero, bits, GGG.encT, Bool.and_eq_true, beq_iff_eq]
    omega
  simp only [decodeWord, parseWord, decode0x, Nat.reduceDiv, Nat.reduceEqDiff, ↓reduceIte]
  exact lower_ok (row_ok (regs := GGG.regsOk) (fields := GGG.fieldsOk) hw hr (parse_GGG o))
theorem mulh (o : GGG) : Statement (.mulh o) := by
  intro hw e he
  cases he
  have hr : (zero (GGG.encT o) 12 4) = true := by
    obtain ⟨d, a, b⟩ := o
    simp only [zero, bits, GGG.encT, Bool.and_eq_true, beq_iff_eq]
    omega
  simp only [decodeWord, parseWord, decode0x, Nat.reduceDiv, Nat.reduceEqDiff, ↓reduceIte]
  exact lower_ok (row_ok (regs := GGG.regsOk) (fields := GGG.fieldsOk) hw hr (parse_GGG o))
theorem mulhz (o : GGG) : Statement (.mulhz o) := by
  intro hw e he
  cases he
  have hr : (zero (GGG.encT o) 12 4) = true := by
    obtain ⟨d, a, b⟩ := o
    simp only [zero, bits, GGG.encT, Bool.and_eq_true, beq_iff_eq]
    omega
  simp only [decodeWord, parseWord, decode0x, Nat.reduceDiv, Nat.reduceEqDiff, ↓reduceIte]
  exact lower_ok (row_ok (regs := GGG.regsOk) (fields := GGG.fieldsOk) hw hr (parse_GGG o))
theorem div (o : GGG) : Statement (.div o) := by
  intro hw e he
  cases he
  have hr : (zero (GGG.encT o) 12 4) = true := by
    obtain ⟨d, a, b⟩ := o
    simp only [zero, bits, GGG.encT, Bool.and_eq_true, beq_iff_eq]
    omega
  simp only [decodeWord, parseWord, decode0x, Nat.reduceDiv, Nat.reduceEqDiff, ↓reduceIte]
  exact lower_ok (row_ok (regs := GGG.regsOk) (fields := GGG.fieldsOk) hw hr (parse_GGG o))
theorem divz (o : GGG) : Statement (.divz o) := by
  intro hw e he
  cases he
  have hr : (zero (GGG.encT o) 12 4) = true := by
    obtain ⟨d, a, b⟩ := o
    simp only [zero, bits, GGG.encT, Bool.and_eq_true, beq_iff_eq]
    omega
  simp only [decodeWord, parseWord, decode0x, Nat.reduceDiv, Nat.reduceEqDiff, ↓reduceIte]
  exact lower_ok (row_ok (regs := GGG.regsOk) (fields := GGG.fieldsOk) hw hr (parse_GGG o))
theorem rem (o : GGG) : Statement (.rem o) := by
  intro hw e he
  cases he
  have hr : (zero (GGG.encT o) 12 4) = true := by
    obtain ⟨d, a, b⟩ := o
    simp only [zero, bits, GGG.encT, Bool.and_eq_true, beq_iff_eq]
    omega
  simp only [decodeWord, parseWord, decode1x, Nat.reduceDiv, Nat.reduceEqDiff, ↓reduceIte]
  exact lower_ok (row_ok (regs := GGG.regsOk) (fields := GGG.fieldsOk) hw hr (parse_GGG o))
theorem remz (o : GGG) : Statement (.remz o) := by
  intro hw e he
  cases he
  have hr : (zero (GGG.encT o) 12 4) = true := by
    obtain ⟨d, a, b⟩ := o
    simp only [zero, bits, GGG.encT, Bool.and_eq_true, beq_iff_eq]
    omega
  simp only [decodeWord, parseWord, decode1x, Nat.reduceDiv, Nat.reduceEqDiff, ↓reduceIte]
  exact lower_ok (row_ok (regs := GGG.regsOk) (fields := GGG.fieldsOk) hw hr (parse_GGG o))
theorem min (o : GGG) : Statement (.min o) := by
  intro hw e he
  cases he
  have hr : (zero (GGG.encT o) 12 4) = true := by
    obtain ⟨d, a, b⟩ := o
    simp only [zero, bits, GGG.encT, Bool.and_eq_true, beq_iff_eq]
    omega
  simp only [decodeWord, parseWord, decode1x, Nat.reduceDiv, Nat.reduceEqDiff, ↓reduceIte]
  exact lower_ok (row_ok (regs := GGG.regsOk) (fields := GGG.fieldsOk) hw hr (parse_GGG o))
theorem max (o : GGG) : Statement (.max o) := by
  intro hw e he
  cases he
  have hr : (zero (GGG.encT o) 12 4) = true := by
    obtain ⟨d, a, b⟩ := o
    simp only [zero, bits, GGG.encT, Bool.and_eq_true, beq_iff_eq]
    omega
  simp only [decodeWord, parseWord, decode1x, Nat.reduceDiv, Nat.reduceEqDiff, ↓reduceIte]
  exact lower_ok (row_ok (regs := GGG.regsOk) (fields := GGG.fieldsOk) hw hr (parse_GGG o))
theorem minz (o : GGG) : Statement (.minz o) := by
  intro hw e he
  cases he
  have hr : (zero (GGG.encT o) 12 4) = true := by
    obtain ⟨d, a, b⟩ := o
    simp only [zero, bits, GGG.encT, Bool.and_eq_true, beq_iff_eq]
    omega
  simp only [decodeWord, parseWord, decode1x, Nat.reduceDiv, Nat.reduceEqDiff, ↓reduceIte]
  exact lower_ok (row_ok (regs := GGG.regsOk) (fields := GGG.fieldsOk) hw hr (parse_GGG o))
theorem maxz (o : GGG) : Statement (.maxz o) := by
  intro hw e he
  cases he
  have hr : (zero (GGG.encT o) 12 4) = true := by
    obtain ⟨d, a, b⟩ := o
    simp only [zero, bits, GGG.encT, Bool.and_eq_true, beq_iff_eq]
    omega
  simp only [decodeWord, parseWord, decode1x, Nat.reduceDiv, Nat.reduceEqDiff, ↓reduceIte]
  exact lower_ok (row_ok (regs := GGG.regsOk) (fields := GGG.fieldsOk) hw hr (parse_GGG o))
theorem slt (o : GGG) : Statement (.slt o) := by
  intro hw e he
  cases he
  have hr : (zero (GGG.encT o) 12 4) = true := by
    obtain ⟨d, a, b⟩ := o
    simp only [zero, bits, GGG.encT, Bool.and_eq_true, beq_iff_eq]
    omega
  simp only [decodeWord, parseWord, decode1x, Nat.reduceDiv, Nat.reduceEqDiff, ↓reduceIte]
  exact lower_ok (row_ok (regs := GGG.regsOk) (fields := GGG.fieldsOk) hw hr (parse_GGG o))
theorem sltz (o : GGG) : Statement (.sltz o) := by
  intro hw e he
  cases he
  have hr : (zero (GGG.encT o) 12 4) = true := by
    obtain ⟨d, a, b⟩ := o
    simp only [zero, bits, GGG.encT, Bool.and_eq_true, beq_iff_eq]
    omega
  simp only [decodeWord, parseWord, decode1x, Nat.reduceDiv, Nat.reduceEqDiff, ↓reduceIte]
  exact lower_ok (row_ok (regs := GGG.regsOk) (fields := GGG.fieldsOk) hw hr (parse_GGG o))
theorem seq (o : GGG) : Statement (.seq o) := by
  intro hw e he
  cases he
  have hr : (zero (GGG.encT o) 12 4) = true := by
    obtain ⟨d, a, b⟩ := o
    simp only [zero, bits, GGG.encT, Bool.and_eq_true, beq_iff_eq]
    omega
  simp only [decodeWord, parseWord, decode1x, Nat.reduceDiv, Nat.reduceEqDiff, ↓reduceIte]
  exact lower_ok (row_ok (regs := GGG.regsOk) (fields := GGG.fieldsOk) hw hr (parse_GGG o))
theorem sel (o : GGGG) : Statement (.sel o) := by
  intro hw e he
  cases he
  have hr : (zero (GGGG.encT o) 18 14) = true := by
    obtain ⟨d, a, b, c⟩ := o
    simp only [zero, bits, GGGG.encT, Bool.and_eq_true, beq_iff_eq]
    omega
  simp only [decodeWord, parseWord, decode1x, Nat.reduceDiv, Nat.reduceEqDiff, ↓reduceIte]
  exact lower_ok (row_ok (regs := GGGG.regsOk) (fields := GGGG.fieldsOk) hw hr (parse_GGGG o))
theorem addi (o : GGI10) : Statement (.addi o) := by
  intro hw e he
  cases he
  simp only [decodeWord, parseWord, decode1x, Nat.reduceDiv, Nat.reduceEqDiff, ↓reduceIte]
  exact lower_ok (row_ok (regs := GGI10.regsOk) (fields := GGI10.fieldsOk) hw rfl (parse_GGI10 o))
theorem addiL2 (o : GGI26) : Statement (.addiL2 o) := by
  intro hw e he
  cases he
  simp only [decodeWord, parseWord, decode1x, Nat.reduceDiv, Nat.reduceEqDiff, ↓reduceIte]
  exact lower_ok (row_ok (regs := GGI26.regsOk) (fields := GGI26.fieldsOk) hw rfl (parse_GGI26 o))
theorem andi (o : GGI10) : Statement (.andi o) := by
  intro hw e he
  cases he
  simp only [decodeWord, parseWord, decode1x, Nat.reduceDiv, Nat.reduceEqDiff, ↓reduceIte]
  exact lower_ok (row_ok (regs := GGI10.regsOk) (fields := GGI10.fieldsOk) hw rfl (parse_GGI10 o))
theorem andiL2 (o : GGI26) : Statement (.andiL2 o) := by
  intro hw e he
  cases he
  simp only [decodeWord, parseWord, decode1x, Nat.reduceDiv, Nat.reduceEqDiff, ↓reduceIte]
  exact lower_ok (row_ok (regs := GGI26.regsOk) (fields := GGI26.fieldsOk) hw rfl (parse_GGI26 o))
theorem ori (o : GGI10) : Statement (.ori o) := by
  intro hw e he
  cases he
  simp only [decodeWord, parseWord, decode1x, Nat.reduceDiv, Nat.reduceEqDiff, ↓reduceIte]
  exact lower_ok (row_ok (regs := GGI10.regsOk) (fields := GGI10.fieldsOk) hw rfl (parse_GGI10 o))
theorem oriL2 (o : GGI26) : Statement (.oriL2 o) := by
  intro hw e he
  cases he
  simp only [decodeWord, parseWord, decode1x, Nat.reduceDiv, Nat.reduceEqDiff, ↓reduceIte]
  exact lower_ok (row_ok (regs := GGI26.regsOk) (fields := GGI26.fieldsOk) hw rfl (parse_GGI26 o))
theorem xori (o : GGI10) : Statement (.xori o) := by
  intro hw e he
  cases he
  simp only [decodeWord, parseWord, decode1x, Nat.reduceDiv, Nat.reduceEqDiff, ↓reduceIte]
  exact lower_ok (row_ok (regs := GGI10.regsOk) (fields := GGI10.fieldsOk) hw rfl (parse_GGI10 o))
theorem xoriL2 (o : GGI26) : Statement (.xoriL2 o) := by
  intro hw e he
  cases he
  simp only [decodeWord, parseWord, decode1x, Nat.reduceDiv, Nat.reduceEqDiff, ↓reduceIte]
  exact lower_ok (row_ok (regs := GGI26.regsOk) (fields := GGI26.fieldsOk) hw rfl (parse_GGI26 o))
theorem shli (o : ShiftI) : Statement (.shli o) := by
  intro hw e he
  cases he
  have hr : (zero (ShiftI.encT o) 14 2) = true := by
    obtain ⟨d, a, amt⟩ := o
    simp only [zero, bits, ShiftI.encT, Bool.and_eq_true, beq_iff_eq]
    omega
  have h : bits (ShiftI.encT o) 12 2 = 0 := by
    obtain ⟨d, a, amt⟩ := o
    simp only [bits, ShiftI.encT]
    omega
  simp only [decodeWord, parseWord, decode1x, Nat.reduceDiv, Nat.reduceEqDiff, ↓reduceIte, h]
  exact lower_ok (row_ok (regs := ShiftI.regsOk) (fields := ShiftI.fieldsOk) hw hr (parse_ShiftI o))
theorem shri (o : ShiftI) : Statement (.shri o) := by
  intro hw e he
  cases he
  have hr : (zero (ShiftI.encT o + 4096) 14 2) = true := by
    obtain ⟨d, a, amt⟩ := o
    simp only [zero, bits, ShiftI.encT, Bool.and_eq_true, beq_iff_eq]
    omega
  have h : bits (ShiftI.encT o + 4096) 12 2 = 1 := by
    obtain ⟨d, a, amt⟩ := o
    simp only [bits, ShiftI.encT]
    omega
  simp only [decodeWord, parseWord, decode1x, Nat.reduceDiv, Nat.reduceEqDiff, ↓reduceIte, h, one_ne_zero]
  exact lower_ok (row_ok (regs := ShiftI.regsOk) (fields := ShiftI.fieldsOk) hw hr (parse_ShiftI_0_4096 o))
theorem srai (o : ShiftI) : Statement (.srai o) := by
  intro hw e he
  cases he
  have hr : (zero (ShiftI.encT o + 8192) 14 2) = true := by
    obtain ⟨d, a, amt⟩ := o
    simp only [zero, bits, ShiftI.encT, Bool.and_eq_true, beq_iff_eq]
    omega
  have h : bits (ShiftI.encT o + 8192) 12 2 = 2 := by
    obtain ⟨d, a, amt⟩ := o
    simp only [bits, ShiftI.encT]
    omega
  simp only [decodeWord, parseWord, decode1x, Nat.reduceDiv, Nat.reduceEqDiff, ↓reduceIte, h, OfNat.ofNat_ne_zero, OfNat.ofNat_ne_one]
  exact lower_ok (row_ok (regs := ShiftI.regsOk) (fields := ShiftI.fieldsOk) hw hr (parse_ShiftI_0_8192 o))
theorem rotli (o : ShiftI) : Statement (.rotli o) := by
  intro hw e he
  cases he
  have hr : (zero (ShiftI.encT o + 12288) 14 2) = true := by
    obtain ⟨d, a, amt⟩ := o
    simp only [zero, bits, ShiftI.encT, Bool.and_eq_true, beq_iff_eq]
    omega
  have h : bits (ShiftI.encT o + 12288) 12 2 = 3 := by
    obtain ⟨d, a, amt⟩ := o
    simp only [bits, ShiftI.encT]
    omega
  simp only [decodeWord, parseWord, decode1x, Nat.reduceDiv, Nat.reduceEqDiff, ↓reduceIte, h, OfNat.ofNat_ne_zero, OfNat.ofNat_ne_one]
  exact lower_ok (row_ok (regs := ShiftI.regsOk) (fields := ShiftI.fieldsOk) hw hr (parse_ShiftI_0_12288 o))
theorem li (o : GK16) : Statement (.li o) := by
  intro hw e he
  cases he
  simp only [decodeWord, parseWord, decode1x, Nat.reduceDiv, Nat.reduceEqDiff, ↓reduceIte]
  exact lower_ok (row_ok (regs := GK16.regsOk) (fields := GK16.fieldsOk) hw rfl (parse_GK16 o))
theorem liL2 (o : GK32) : Statement (.liL2 o) := by
  intro hw e he
  cases he
  simp only [decodeWord, parseWord, decode1x, Nat.reduceDiv, Nat.reduceEqDiff, ↓reduceIte]
  exact lower_ok (row_ok (regs := GK32.regsOk) (fields := GK32.fieldsOk) hw rfl (parse_GK32 o))
theorem liL3 (o : GK64) : Statement (.liL3 o) := by
  intro hw e he
  cases he
  simp only [decodeWord, parseWord, decode1x, Nat.reduceDiv, Nat.reduceEqDiff, ↓reduceIte]
  exact lower_ok (row_ok (regs := GK64.regsOk) (fields := GK64.fieldsOk) hw rfl (parse_GK64 o))
theorem addpc (o : GK32) : Statement (.addpc o) := by
  intro hw e he
  cases he
  simp only [decodeWord, parseWord, decode2x, Nat.reduceDiv, Nat.reduceEqDiff, ↓reduceIte]
  exact lower_ok (row_ok (regs := GK32.regsOk) (fields := GK32.fieldsOk) hw rfl (parse_GK32 o))
theorem lea (o : LeaM) : Statement (.lea o) := by
  intro hw e he
  cases he
  have hr : (zero (LeaM.encT o) 8 1) = true := by
    obtain ⟨d, base, sz, off⟩ := o
    simp only [zero, bits, LeaM.encT, Bool.and_eq_true, beq_iff_eq]
    omega
  simp only [decodeWord, parseWord, decode2x, Nat.reduceDiv, Nat.reduceEqDiff, ↓reduceIte]
  exact lower_ok (row_ok (regs := LeaM.regsOk) (fields := LeaM.fieldsOk) hw hr (parse_LeaM o))
theorem leaL2 (o : LeaX) : Statement (.leaL2 o) := by
  intro hw e he
  cases he
  have hr : (zero (LeaX.encT o) 6 8) = true := by
    obtain ⟨d, base, ix, body⟩ := o
    simp only [zero, bits, LeaX.encT, Bool.and_eq_true, beq_iff_eq]
    omega
  simp only [decodeWord, parseWord, decode2x, Nat.reduceDiv, Nat.reduceEqDiff, ↓reduceIte]
  exact lower_ok (row_ok (regs := LeaX.regsOk) (fields := LeaX.fieldsOk) hw hr (parse_LeaX o))
theorem clz (o : GG) : Statement (.clz o) := by
  intro hw e he
  cases he
  have hr : (zero (GG.encT o) 6 10) = true := by
    obtain ⟨d, a⟩ := o
    simp only [zero, bits, GG.encT, Bool.and_eq_true, beq_iff_eq]
    omega
  simp only [decodeWord, parseWord, decode2x, Nat.reduceDiv, Nat.reduceEqDiff, ↓reduceIte]
  exact lower_ok (row_ok (regs := GG.regsOk) (fields := GG.fieldsOk) hw hr (parse_GG o))
theorem ctz (o : GG) : Statement (.ctz o) := by
  intro hw e he
  cases he
  have hr : (zero (GG.encT o) 6 10) = true := by
    obtain ⟨d, a⟩ := o
    simp only [zero, bits, GG.encT, Bool.and_eq_true, beq_iff_eq]
    omega
  simp only [decodeWord, parseWord, decode2x, Nat.reduceDiv, Nat.reduceEqDiff, ↓reduceIte]
  exact lower_ok (row_ok (regs := GG.regsOk) (fields := GG.fieldsOk) hw hr (parse_GG o))
theorem popc (o : GG) : Statement (.popc o) := by
  intro hw e he
  cases he
  have hr : (zero (GG.encT o) 6 10) = true := by
    obtain ⟨d, a⟩ := o
    simp only [zero, bits, GG.encT, Bool.and_eq_true, beq_iff_eq]
    omega
  simp only [decodeWord, parseWord, decode2x, Nat.reduceDiv, Nat.reduceEqDiff, ↓reduceIte]
  exact lower_ok (row_ok (regs := GG.regsOk) (fields := GG.fieldsOk) hw hr (parse_GG o))
theorem bswap (o : GG) : Statement (.bswap o) := by
  intro hw e he
  cases he
  have hr : (zero (GG.encT o) 6 10) = true := by
    obtain ⟨d, a⟩ := o
    simp only [zero, bits, GG.encT, Bool.and_eq_true, beq_iff_eq]
    omega
  simp only [decodeWord, parseWord, decode2x, Nat.reduceDiv, Nat.reduceEqDiff, ↓reduceIte]
  exact lower_ok (row_ok (regs := GG.regsOk) (fields := GG.fieldsOk) hw hr (parse_GG o))
theorem sextB (o : GG) : Statement (.sextB o) := by
  intro hw e he
  cases he
  have hr : (zero (GG.encT o) 6 6) = true := by
    obtain ⟨d, a⟩ := o
    simp only [zero, bits, GG.encT, Bool.and_eq_true, beq_iff_eq]
    omega
  have h : bits (GG.encT o) 12 4 = 0 := by
    obtain ⟨d, a⟩ := o
    simp only [bits, GG.encT]
    omega
  simp only [decodeWord, parseWord, decode2x, Nat.reduceDiv, Nat.reduceEqDiff, ↓reduceIte, h]
  exact lower_ok (row_ok (regs := GG.regsOk) (fields := GG.fieldsOk) hw hr (parse_GG o))
theorem sextH (o : GG) : Statement (.sextH o) := by
  intro hw e he
  cases he
  have hr : (zero (GG.encT o + 4096) 6 6) = true := by
    obtain ⟨d, a⟩ := o
    simp only [zero, bits, GG.encT, Bool.and_eq_true, beq_iff_eq]
    omega
  have h : bits (GG.encT o + 4096) 12 4 = 1 := by
    obtain ⟨d, a⟩ := o
    simp only [bits, GG.encT]
    omega
  simp only [decodeWord, parseWord, decode2x, Nat.reduceDiv, Nat.reduceEqDiff, ↓reduceIte, h, one_ne_zero]
  exact lower_ok (row_ok (regs := GG.regsOk) (fields := GG.fieldsOk) hw hr (parse_GG_0_4096 o))
theorem sextW (o : GG) : Statement (.sextW o) := by
  intro hw e he
  cases he
  have hr : (zero (GG.encT o + 8192) 6 6) = true := by
    obtain ⟨d, a⟩ := o
    simp only [zero, bits, GG.encT, Bool.and_eq_true, beq_iff_eq]
    omega
  have h : bits (GG.encT o + 8192) 12 4 = 2 := by
    obtain ⟨d, a⟩ := o
    simp only [bits, GG.encT]
    omega
  simp only [decodeWord, parseWord, decode2x, Nat.reduceDiv, Nat.reduceEqDiff, ↓reduceIte, h, OfNat.ofNat_ne_zero, OfNat.ofNat_ne_one]
  exact lower_ok (row_ok (regs := GG.regsOk) (fields := GG.fieldsOk) hw hr (parse_GG_0_8192 o))
theorem bext (o : BitF) : Statement (.bext o) := by
  intro hw e he
  cases he
  have hr : (zero (BitF.encT o) 18 14) = true := by
    obtain ⟨d, a, pos, lenm1⟩ := o
    simp only [zero, bits, BitF.encT, Bool.and_eq_true, beq_iff_eq]
    omega
  simp only [decodeWord, parseWord, decode2x, Nat.reduceDiv, Nat.reduceEqDiff, ↓reduceIte]
  exact lower_ok (row_ok (regs := BitF.regsOk) (fields := BitF.fieldsOk) hw hr (parse_BitF o))
theorem bins (o : BitF) : Statement (.bins o) := by
  intro hw e he
  cases he
  have hr : (zero (BitF.encT o) 18 14) = true := by
    obtain ⟨d, a, pos, lenm1⟩ := o
    simp only [zero, bits, BitF.encT, Bool.and_eq_true, beq_iff_eq]
    omega
  simp only [decodeWord, parseWord, decode2x, Nat.reduceDiv, Nat.reduceEqDiff, ↓reduceIte]
  exact lower_ok (row_ok (regs := BitF.regsOk) (fields := BitF.fieldsOk) hw hr (parse_BitF o))
theorem slti (o : GGI8) : Statement (.slti o) := by
  intro hw e he
  cases he
  have h : bits (GGI8.encT o) 6 2 = 0 := by
    obtain ⟨d, a, imm⟩ := o
    simp only [bits, GGI8.encT]
    omega
  simp only [decodeWord, parseWord, decode2x, Nat.reduceDiv, Nat.reduceEqDiff, ↓reduceIte, h]
  exact lower_ok (row_ok (regs := GGI8.regsOk) (fields := GGI8.fieldsOk) hw rfl (parse_GGI8 o))
theorem sltiL2 (o : GGI24) : Statement (.sltiL2 o) := by
  intro hw e he
  cases he
  have h : bits (GGI24.encT o) 6 2 = 0 := by
    obtain ⟨d, a, imm⟩ := o
    simp only [bits, GGI24.encT]
    omega
  simp only [decodeWord, parseWord, decode2x, Nat.reduceDiv, Nat.reduceEqDiff, ↓reduceIte, h]
  exact lower_ok (row_ok (regs := GGI24.regsOk) (fields := GGI24.fieldsOk) hw rfl (parse_GGI24 o))
theorem sltzi (o : GGI8) : Statement (.sltzi o) := by
  intro hw e he
  cases he
  have h : bits (GGI8.encT o + 64) 6 2 = 1 := by
    obtain ⟨d, a, imm⟩ := o
    simp only [bits, GGI8.encT]
    omega
  simp only [decodeWord, parseWord, decode2x, Nat.reduceDiv, Nat.reduceEqDiff, ↓reduceIte, h, one_ne_zero]
  exact lower_ok (row_ok (regs := GGI8.regsOk) (fields := GGI8.fieldsOk) hw rfl (parse_GGI8_0_64 o))
theorem sltziL2 (o : GGI24) : Statement (.sltziL2 o) := by
  intro hw e he
  cases he
  have h : bits (GGI24.encT o + 64) 6 2 = 1 := by
    obtain ⟨d, a, imm⟩ := o
    simp only [bits, GGI24.encT]
    omega
  simp only [decodeWord, parseWord, decode2x, Nat.reduceDiv, Nat.reduceEqDiff, ↓reduceIte, h, one_ne_zero]
  exact lower_ok (row_ok (regs := GGI24.regsOk) (fields := GGI24.fieldsOk) hw rfl (parse_GGI24_0_64 o))
theorem seqi (o : GGI8) : Statement (.seqi o) := by
  intro hw e he
  cases he
  have h : bits (GGI8.encT o + 128) 6 2 = 2 := by
    obtain ⟨d, a, imm⟩ := o
    simp only [bits, GGI8.encT]
    omega
  simp only [decodeWord, parseWord, decode2x, Nat.reduceDiv, Nat.reduceEqDiff, ↓reduceIte, h, OfNat.ofNat_ne_zero, OfNat.ofNat_ne_one]
  exact lower_ok (row_ok (regs := GGI8.regsOk) (fields := GGI8.fieldsOk) hw rfl (parse_GGI8_0_128 o))
theorem seqiL2 (o : GGI24) : Statement (.seqiL2 o) := by
  intro hw e he
  cases he
  have h : bits (GGI24.encT o + 128) 6 2 = 2 := by
    obtain ⟨d, a, imm⟩ := o
    simp only [bits, GGI24.encT]
    omega
  simp only [decodeWord, parseWord, decode2x, Nat.reduceDiv, Nat.reduceEqDiff, ↓reduceIte, h, OfNat.ofNat_ne_zero, OfNat.ofNat_ne_one]
  exact lower_ok (row_ok (regs := GGI24.regsOk) (fields := GGI24.fieldsOk) hw rfl (parse_GGI24_0_128 o))
theorem beq (o : BrB) : Statement (.beq o) := by
  intro hw e he
  cases he
  have h : bits (BrB.encD o) 0 6 = 0 := by
    obtain ⟨a, b, off⟩ := o
    simp only [bits, BrB.encD]
    omega
  simp only [decodeWord, parseWord, decode3x, Nat.reduceDiv, Nat.reduceEqDiff, ↓reduceIte, h]
  exact lower_ok (row_ok (regs := BrB.regsOk) (fields := BrB.fieldsOk) hw rfl (parse_BrB o))
theorem bne (o : BrB) : Statement (.bne o) := by
  intro hw e he
  cases he
  have h : bits (BrB.encD o + 1) 0 6 = 1 := by
    obtain ⟨a, b, off⟩ := o
    simp only [bits, BrB.encD]
    omega
  simp only [decodeWord, parseWord, decode3x, Nat.reduceDiv, Nat.reduceEqDiff, ↓reduceIte, h, one_ne_zero]
  exact lower_ok (row_ok (regs := BrB.regsOk) (fields := BrB.fieldsOk) hw rfl (parse_BrB_1_0 o))
theorem blt (o : BrB) : Statement (.blt o) := by
  intro hw e he
  cases he
  have h : bits (BrB.encD o + 2) 0 6 = 2 := by
    obtain ⟨a, b, off⟩ := o
    simp only [bits, BrB.encD]
    omega
  simp only [decodeWord, parseWord, decode3x, Nat.reduceDiv, Nat.reduceEqDiff, ↓reduceIte, h, OfNat.ofNat_ne_zero, OfNat.ofNat_ne_one]
  exact lower_ok (row_ok (regs := BrB.regsOk) (fields := BrB.fieldsOk) hw rfl (parse_BrB_2_0 o))
theorem bge (o : BrB) : Statement (.bge o) := by
  intro hw e he
  cases he
  have h : bits (BrB.encD o + 3) 0 6 = 3 := by
    obtain ⟨a, b, off⟩ := o
    simp only [bits, BrB.encD]
    omega
  simp only [decodeWord, parseWord, decode3x, Nat.reduceDiv, Nat.reduceEqDiff, ↓reduceIte, h, OfNat.ofNat_ne_zero, OfNat.ofNat_ne_one]
  exact lower_ok (row_ok (regs := BrB.regsOk) (fields := BrB.fieldsOk) hw rfl (parse_BrB_3_0 o))
theorem bltz (o : BrB) : Statement (.bltz o) := by
  intro hw e he
  cases he
  have h : bits (BrB.encD o + 4) 0 6 = 4 := by
    obtain ⟨a, b, off⟩ := o
    simp only [bits, BrB.encD]
    omega
  simp only [decodeWord, parseWord, decode3x, Nat.reduceDiv, Nat.reduceEqDiff, ↓reduceIte, h, OfNat.ofNat_ne_zero, OfNat.ofNat_ne_one]
  exact lower_ok (row_ok (regs := BrB.regsOk) (fields := BrB.fieldsOk) hw rfl (parse_BrB_4_0 o))
theorem bgez (o : BrB) : Statement (.bgez o) := by
  intro hw e he
  cases he
  have h : bits (BrB.encD o + 5) 0 6 = 5 := by
    obtain ⟨a, b, off⟩ := o
    simp only [bits, BrB.encD]
    omega
  simp only [decodeWord, parseWord, decode3x, Nat.reduceDiv, Nat.reduceEqDiff, ↓reduceIte, h, OfNat.ofNat_ne_zero, OfNat.ofNat_ne_one]
  exact lower_ok (row_ok (regs := BrB.regsOk) (fields := BrB.fieldsOk) hw rfl (parse_BrB_5_0 o))
theorem bzEqz (o : BrZ) : Statement (.bzEqz o) := by
  intro hw e he
  cases he
  have hr : (zero (BrZ.encT o) 6 6) = true := by
    obtain ⟨a, off⟩ := o
    simp only [zero, bits, BrZ.encT, Bool.and_eq_true, beq_iff_eq]
    omega
  have h : bits (BrZ.encD o) 0 6 = 0 := by
    obtain ⟨a, off⟩ := o
    simp only [bits, BrZ.encD]
    omega
  simp only [decodeWord, parseWord, decode3x, Nat.reduceDiv, Nat.reduceEqDiff, ↓reduceIte, h]
  exact lower_ok (row_ok (regs := BrZ.regsOk) (fields := BrZ.fieldsOk) hw hr (parse_BrZ o))
theorem bzNez (o : BrZ) : Statement (.bzNez o) := by
  intro hw e he
  cases he
  have hr : (zero (BrZ.encT o) 6 6) = true := by
    obtain ⟨a, off⟩ := o
    simp only [zero, bits, BrZ.encT, Bool.and_eq_true, beq_iff_eq]
    omega
  have h : bits (BrZ.encD o + 1) 0 6 = 1 := by
    obtain ⟨a, off⟩ := o
    simp only [bits, BrZ.encD]
    omega
  simp only [decodeWord, parseWord, decode3x, Nat.reduceDiv, Nat.reduceEqDiff, ↓reduceIte, h, one_ne_zero]
  exact lower_ok (row_ok (regs := BrZ.regsOk) (fields := BrZ.fieldsOk) hw hr (parse_BrZ_1_0 o))
theorem bzLtz (o : BrZ) : Statement (.bzLtz o) := by
  intro hw e he
  cases he
  have hr : (zero (BrZ.encT o) 6 6) = true := by
    obtain ⟨a, off⟩ := o
    simp only [zero, bits, BrZ.encT, Bool.and_eq_true, beq_iff_eq]
    omega
  have h : bits (BrZ.encD o + 2) 0 6 = 2 := by
    obtain ⟨a, off⟩ := o
    simp only [bits, BrZ.encD]
    omega
  simp only [decodeWord, parseWord, decode3x, Nat.reduceDiv, Nat.reduceEqDiff, ↓reduceIte, h, OfNat.ofNat_ne_zero, OfNat.ofNat_ne_one]
  exact lower_ok (row_ok (regs := BrZ.regsOk) (fields := BrZ.fieldsOk) hw hr (parse_BrZ_2_0 o))
theorem bzGez (o : BrZ) : Statement (.bzGez o) := by
  intro hw e he
  cases he
  have hr : (zero (BrZ.encT o) 6 6) = true := by
    obtain ⟨a, off⟩ := o
    simp only [zero, bits, BrZ.encT, Bool.and_eq_true, beq_iff_eq]
    omega
  have h : bits (BrZ.encD o + 3) 0 6 = 3 := by
    obtain ⟨a, off⟩ := o
    simp only [bits, BrZ.encD]
    omega
  simp only [decodeWord, parseWord, decode3x, Nat.reduceDiv, Nat.reduceEqDiff, ↓reduceIte, h, OfNat.ofNat_ne_zero, OfNat.ofNat_ne_one]
  exact lower_ok (row_ok (regs := BrZ.regsOk) (fields := BrZ.fieldsOk) hw hr (parse_BrZ_3_0 o))
theorem bzGtz (o : BrZ) : Statement (.bzGtz o) := by
  intro hw e he
  cases he
  have hr : (zero (BrZ.encT o) 6 6) = true := by
    obtain ⟨a, off⟩ := o
    simp only [zero, bits, BrZ.encT, Bool.and_eq_true, beq_iff_eq]
    omega
  have h : bits (BrZ.encD o + 4) 0 6 = 4 := by
    obtain ⟨a, off⟩ := o
    simp only [bits, BrZ.encD]
    omega
  simp only [decodeWord, parseWord, decode3x, Nat.reduceDiv, Nat.reduceEqDiff, ↓reduceIte, h, OfNat.ofNat_ne_zero, OfNat.ofNat_ne_one]
  exact lower_ok (row_ok (regs := BrZ.regsOk) (fields := BrZ.fieldsOk) hw hr (parse_BrZ_4_0 o))
theorem bzLez (o : BrZ) : Statement (.bzLez o) := by
  intro hw e he
  cases he
  have hr : (zero (BrZ.encT o) 6 6) = true := by
    obtain ⟨a, off⟩ := o
    simp only [zero, bits, BrZ.encT, Bool.and_eq_true, beq_iff_eq]
    omega
  have h : bits (BrZ.encD o + 5) 0 6 = 5 := by
    obtain ⟨a, off⟩ := o
    simp only [bits, BrZ.encD]
    omega
  simp only [decodeWord, parseWord, decode3x, Nat.reduceDiv, Nat.reduceEqDiff, ↓reduceIte, h, OfNat.ofNat_ne_zero, OfNat.ofNat_ne_one]
  exact lower_ok (row_ok (regs := BrZ.regsOk) (fields := BrZ.fieldsOk) hw hr (parse_BrZ_5_0 o))
theorem jmp (o : Jmp) : Statement (.jmp o) := by
  intro hw e he
  cases he
  have hr : (zero (Jmp.encD o) 0 6 && zero (Jmp.encT o) 20 12) = true := by
    obtain ⟨off⟩ := o
    simp only [zero, bits, Jmp.encD, Jmp.encT, Bool.and_eq_true, beq_iff_eq]
    omega
  simp only [decodeWord, parseWord, decode3x, Nat.reduceDiv, Nat.reduceEqDiff, ↓reduceIte]
  exact lower_ok (row_ok (regs := Jmp.regsOk) (fields := Jmp.fieldsOk) hw hr (parse_Jmp o))
theorem call (o : GJmp) : Statement (.call o) := by
  intro hw e he
  cases he
  have hr : (zero (GJmp.encT o) 20 12) = true := by
    obtain ⟨d, off⟩ := o
    simp only [zero, bits, GJmp.encT, Bool.and_eq_true, beq_iff_eq]
    omega
  simp only [decodeWord, parseWord, decode3x, Nat.reduceDiv, Nat.reduceEqDiff, ↓reduceIte]
  exact lower_ok (row_ok (regs := GJmp.regsOk) (fields := GJmp.fieldsOk) hw hr (parse_GJmp o))
theorem jr (o : GD) : Statement (.jr o) := by
  intro hw e he
  cases he
  simp only [decodeWord, parseWord, decode3x, Nat.reduceDiv, Nat.reduceEqDiff, ↓reduceIte]
  exact lower_ok (row_ok (regs := GD.regsOk) (fields := GD.fieldsOk) hw rfl (parse_GD o))
theorem decb (o : GJmp) : Statement (.decb o) := by
  intro hw e he
  cases he
  have hr : (zero (GJmp.encT o) 20 12) = true := by
    obtain ⟨d, off⟩ := o
    simp only [zero, bits, GJmp.encT, Bool.and_eq_true, beq_iff_eq]
    omega
  simp only [decodeWord, parseWord, decode3x, Nat.reduceDiv, Nat.reduceEqDiff, ↓reduceIte]
  exact lower_ok (row_ok (regs := GJmp.regsOk) (fields := GJmp.fieldsOk) hw hr (parse_GJmp o))
theorem rep (o : RepO) : Statement (.rep o) := by
  intro hw e he
  cases he
  have hr : (zero (RepO.encD o) 4 2 && zero (RepO.encT o) 9 3 && zero (RepO.encT o) 16 8 && zero (RepO.encT o) 28 4) = true := by
    obtain ⟨bl, a, st, wr, mask⟩ := o
    simp only [zero, bits, RepO.encD, RepO.encT, Bool.and_eq_true, beq_iff_eq]
    omega
  simp only [decodeWord, parseWord, decode3x, Nat.reduceDiv, Nat.reduceEqDiff, ↓reduceIte]
  exact lower_ok (row_ok (regs := RepO.regsOk) (fields := RepO.fieldsOk) hw hr (parse_RepO o))
theorem pause (o : K16) : Statement (.pause o) := by
  intro hw e he
  cases he
  have hr : (zero (K16.encD o) 0 6) = true := by
    obtain ⟨k⟩ := o
    simp only [zero, bits, K16.encD, Bool.and_eq_true, beq_iff_eq]
    omega
  simp only [decodeWord, parseWord, decode3x, Nat.reduceDiv, Nat.reduceEqDiff, ↓reduceIte]
  exact lower_ok (row_ok (regs := K16.regsOk) (fields := K16.fieldsOk) hw hr (parse_K16 o))
theorem yield : Statement .yield := by
  intro _ e he
  cases he
  rfl
theorem exit : Statement .exit := by
  intro _ e he
  cases he
  rfl
theorem ld (o : LdM) : Statement (.ld o) := by
  intro hw e he
  cases he
  simp only [decodeWord, parseWord, decode4x, Nat.reduceDiv, Nat.reduceEqDiff, ↓reduceIte]
  exact lower_ok (row_ok (regs := LdM.regsOk) (fields := LdM.fieldsOk) hw rfl (parse_LdM o))
theorem ldL2 (o : LdX) : Statement (.ldL2 o) := by
  intro hw e he
  cases he
  have hr : (zero (LdX.encT o) 9 5) = true := by
    obtain ⟨d, base, sz, zx, ix, body⟩ := o
    simp only [zero, bits, LdX.encT, Bool.and_eq_true, beq_iff_eq]
    omega
  simp only [decodeWord, parseWord, decode4x, Nat.reduceDiv, Nat.reduceEqDiff, ↓reduceIte]
  exact lower_ok (row_ok (regs := LdX.regsOk) (fields := LdX.fieldsOk) hw hr (parse_LdX o))
theorem lda (o : LdaX) : Statement (.lda o) := by
  intro hw e he
  cases he
  simp only [decodeWord, parseWord, decode4x, Nat.reduceDiv, Nat.reduceEqDiff, ↓reduceIte]
  exact lower_ok (row_ok (regs := LdaX.regsOk) (fields := LdaX.fieldsOk) hw rfl (parse_LdaX o))
theorem ldfe (o : FeX) : Statement (.ldfe o) := by
  intro hw e he
  cases he
  have hr : (zero (FeX.encT o + 192) 8 1 && (bits (FeX.encT o + 192) 6 2 == 3)) = true := by
    obtain ⟨d, base, sc, gm, ix, body⟩ := o
    simp only [zero, bits, FeX.encT, Bool.and_eq_true, beq_iff_eq]
    omega
  simp only [decodeWord, parseWord, decode4x, Nat.reduceDiv, Nat.reduceEqDiff, ↓reduceIte]
  exact lower_ok (row_ok (regs := FeX.regsOk) (fields := FeX.fieldsOk) hw hr (parse_FeX_0_192 o))
theorem ldff (o : LdffM) : Statement (.ldff o) := by
  intro hw e he
  cases he
  have hr : (zero (LdffM.encT o + 192) 8 1 && (bits (LdffM.encT o + 192) 6 2 == 3)) = true := by
    obtain ⟨d, base, off⟩ := o
    simp only [zero, bits, LdffM.encT, Bool.and_eq_true, beq_iff_eq]
    omega
  simp only [decodeWord, parseWord, decode4x, Nat.reduceDiv, Nat.reduceEqDiff, ↓reduceIte]
  exact lower_ok (row_ok (regs := LdffM.regsOk) (fields := LdffM.fieldsOk) hw hr (parse_LdffM_0_192 o))
theorem ldffL2 (o : LdffX) : Statement (.ldffL2 o) := by
  intro hw e he
  cases he
  have hr : (zero (LdffX.encT o + 192) 8 1 && (bits (LdffX.encT o + 192) 6 2 == 3)) = true := by
    obtain ⟨d, base, sc, gm, ix, body⟩ := o
    simp only [zero, bits, LdffX.encT, Bool.and_eq_true, beq_iff_eq]
    omega
  simp only [decodeWord, parseWord, decode4x, Nat.reduceDiv, Nat.reduceEqDiff, ↓reduceIte]
  exact lower_ok (row_ok (regs := LdffX.regsOk) (fields := LdffX.fieldsOk) hw hr (parse_LdffX_0_192 o))
theorem st (o : StM) : Statement (.st o) := by
  intro hw e he
  cases he
  have hr : (zero (StM.encT o) 8 1) = true := by
    obtain ⟨d, base, sz, off⟩ := o
    simp only [zero, bits, StM.encT, Bool.and_eq_true, beq_iff_eq]
    omega
  simp only [decodeWord, parseWord, decode4x, Nat.reduceDiv, Nat.reduceEqDiff, ↓reduceIte]
  exact lower_ok (row_ok (regs := StM.regsOk) (fields := StM.fieldsOk) hw hr (parse_StM o))
theorem stL2 (o : StX) : Statement (.stL2 o) := by
  intro hw e he
  cases he
  have hr : (zero (StX.encT o) 8 6) = true := by
    obtain ⟨d, base, sz, ix, body⟩ := o
    simp only [zero, bits, StX.encT, Bool.and_eq_true, beq_iff_eq]
    omega
  simp only [decodeWord, parseWord, decode4x, Nat.reduceDiv, Nat.reduceEqDiff, ↓reduceIte]
  exact lower_ok (row_ok (regs := StX.regsOk) (fields := StX.fieldsOk) hw hr (parse_StX o))
theorem stl (o : StlX) : Statement (.stl o) := by
  intro hw e he
  cases he
  have hr : (zero (StlX.encT o) 8 1) = true := by
    obtain ⟨d, base, sz, sc, gm, ix, body⟩ := o
    simp only [zero, bits, StlX.encT, Bool.and_eq_true, beq_iff_eq]
    omega
  simp only [decodeWord, parseWord, decode4x, Nat.reduceDiv, Nat.reduceEqDiff, ↓reduceIte]
  exact lower_ok (row_ok (regs := StlX.regsOk) (fields := StlX.fieldsOk) hw hr (parse_StlX o))
theorem stef (o : FeX) : Statement (.stef o) := by
  intro hw e he
  cases he
  have hr : (zero (FeX.encT o + 192) 8 1 && (bits (FeX.encT o + 192) 6 2 == 3)) = true := by
    obtain ⟨d, base, sc, gm, ix, body⟩ := o
    simp only [zero, bits, FeX.encT, Bool.and_eq_true, beq_iff_eq]
    omega
  simp only [decodeWord, parseWord, decode4x, Nat.reduceDiv, Nat.reduceEqDiff, ↓reduceIte]
  exact lower_ok (row_ok (regs := FeX.regsOk) (fields := FeX.fieldsOk) hw hr (parse_FeX_0_192 o))
theorem feset (o : FesetM) : Statement (.feset o) := by
  intro hw e he
  cases he
  have hr : (zero (FesetM.encD o) 1 5 && zero (FesetM.encT o + 192) 8 1 && (bits (FesetM.encT o + 192) 6 2 == 3)) = true := by
    obtain ⟨val, base, off⟩ := o
    simp only [zero, bits, FesetM.encD, FesetM.encT, Bool.and_eq_true, beq_iff_eq]
    omega
  simp only [decodeWord, parseWord, decode4x, Nat.reduceDiv, Nat.reduceEqDiff, ↓reduceIte]
  exact lower_ok (row_ok (regs := FesetM.regsOk) (fields := FesetM.fieldsOk) hw hr (parse_FesetM_0_192 o))
theorem fesetL2 (o : FesetX) : Statement (.fesetL2 o) := by
  intro hw e he
  cases he
  have hr : (zero (FesetX.encD o) 1 5 && zero (FesetX.encT o + 192) 8 6 && (bits (FesetX.encT o + 192) 6 2 == 3)) = true := by
    obtain ⟨val, base, ix, body⟩ := o
    simp only [zero, bits, FesetX.encD, FesetX.encT, Bool.and_eq_true, beq_iff_eq]
    omega
  simp only [decodeWord, parseWord, decode4x, Nat.reduceDiv, Nat.reduceEqDiff, ↓reduceIte]
  exact lower_ok (row_ok (regs := FesetX.regsOk) (fields := FesetX.fieldsOk) hw hr (parse_FesetX_0_192 o))
theorem fld (o : FMemM) : Statement (.fld o) := by
  intro hw e he
  cases he
  have hr : (zero (FMemM.encT o) 8 1) = true := by
    obtain ⟨d, base, sz, off⟩ := o
    simp only [zero, bits, FMemM.encT, Bool.and_eq_true, beq_iff_eq]
    omega
  simp only [decodeWord, parseWord, decode4x, Nat.reduceDiv, Nat.reduceEqDiff, ↓reduceIte]
  exact lower_ok (row_ok (regs := FMemM.regsOk) (fields := FMemM.fieldsOk) hw hr (parse_FMemM o))
theorem fldL2 (o : FMemX) : Statement (.fldL2 o) := by
  intro hw e he
  cases he
  have hr : (zero (FMemX.encT o) 8 6) = true := by
    obtain ⟨d, base, sz, ix, body⟩ := o
    simp only [zero, bits, FMemX.encT, Bool.and_eq_true, beq_iff_eq]
    omega
  simp only [decodeWord, parseWord, decode4x, Nat.reduceDiv, Nat.reduceEqDiff, ↓reduceIte]
  exact lower_ok (row_ok (regs := FMemX.regsOk) (fields := FMemX.fieldsOk) hw hr (parse_FMemX o))
theorem fst (o : FMemM) : Statement (.fst o) := by
  intro hw e he
  cases he
  have hr : (zero (FMemM.encT o) 8 1) = true := by
    obtain ⟨d, base, sz, off⟩ := o
    simp only [zero, bits, FMemM.encT, Bool.and_eq_true, beq_iff_eq]
    omega
  simp only [decodeWord, parseWord, decode4x, Nat.reduceDiv, Nat.reduceEqDiff, ↓reduceIte]
  exact lower_ok (row_ok (regs := FMemM.regsOk) (fields := FMemM.fieldsOk) hw hr (parse_FMemM o))
theorem fstL2 (o : FMemX) : Statement (.fstL2 o) := by
  intro hw e he
  cases he
  have hr : (zero (FMemX.encT o) 8 6) = true := by
    obtain ⟨d, base, sz, ix, body⟩ := o
    simp only [zero, bits, FMemX.encT, Bool.and_eq_true, beq_iff_eq]
    omega
  simp only [decodeWord, parseWord, decode4x, Nat.reduceDiv, Nat.reduceEqDiff, ↓reduceIte]
  exact lower_ok (row_ok (regs := FMemX.regsOk) (fields := FMemX.fieldsOk) hw hr (parse_FMemX o))
theorem ldp (o : PairM) : Statement (.ldp o) := by
  intro hw e he
  cases he
  have hr : (zero (PairM.encT o + 192) 8 1 && (bits (PairM.encT o + 192) 6 2 == 3)) = true := by
    obtain ⟨d, base, off⟩ := o
    simp only [zero, bits, PairM.encT, Bool.and_eq_true, beq_iff_eq]
    omega
  simp only [decodeWord, parseWord, decode4x, Nat.reduceDiv, Nat.reduceEqDiff, ↓reduceIte]
  exact lower_ok (row_ok (regs := PairM.regsOk) (fields := PairM.fieldsOk) hw hr (parse_PairM_0_192 o))
theorem ldpL2 (o : PairX) : Statement (.ldpL2 o) := by
  intro hw e he
  cases he
  have hr : (zero (PairX.encT o + 192) 8 6 && (bits (PairX.encT o + 192) 6 2 == 3)) = true := by
    obtain ⟨d, base, ix, body⟩ := o
    simp only [zero, bits, PairX.encT, Bool.and_eq_true, beq_iff_eq]
    omega
  simp only [decodeWord, parseWord, decode4x, Nat.reduceDiv, Nat.reduceEqDiff, ↓reduceIte]
  exact lower_ok (row_ok (regs := PairX.regsOk) (fields := PairX.fieldsOk) hw hr (parse_PairX_0_192 o))
theorem stp (o : PairM) : Statement (.stp o) := by
  intro hw e he
  cases he
  have hr : (zero (PairM.encT o + 192) 8 1 && (bits (PairM.encT o + 192) 6 2 == 3)) = true := by
    obtain ⟨d, base, off⟩ := o
    simp only [zero, bits, PairM.encT, Bool.and_eq_true, beq_iff_eq]
    omega
  simp only [decodeWord, parseWord, decode4x, Nat.reduceDiv, Nat.reduceEqDiff, ↓reduceIte]
  exact lower_ok (row_ok (regs := PairM.regsOk) (fields := PairM.fieldsOk) hw hr (parse_PairM_0_192 o))
theorem stpL2 (o : PairX) : Statement (.stpL2 o) := by
  intro hw e he
  cases he
  have hr : (zero (PairX.encT o + 192) 8 6 && (bits (PairX.encT o + 192) 6 2 == 3)) = true := by
    obtain ⟨d, base, ix, body⟩ := o
    simp only [zero, bits, PairX.encT, Bool.and_eq_true, beq_iff_eq]
    omega
  simp only [decodeWord, parseWord, decode4x, Nat.reduceDiv, Nat.reduceEqDiff, ↓reduceIte]
  exact lower_ok (row_ok (regs := PairX.regsOk) (fields := PairX.fieldsOk) hw hr (parse_PairX_0_192 o))
theorem fence (o : FenceO) : Statement (.fence o) := by
  intro hw e he
  cases he
  have hr : (zero (FenceO.encD o) 5 1) = true := by
    obtain ⟨sc, gm⟩ := o
    simp only [zero, bits, FenceO.encD, Bool.and_eq_true, beq_iff_eq]
    omega
  simp only [decodeWord, parseWord, decode4x, Nat.reduceDiv, Nat.reduceEqDiff, ↓reduceIte]
  exact lower_ok (row_ok (regs := FenceO.regsOk) (fields := FenceO.fieldsOk) hw hr (parse_FenceO o))
theorem waita (o : WaitaX) : Statement (.waita o) := by
  intro hw e he
  cases he
  simp only [decodeWord, parseWord, decode4x, Nat.reduceDiv, Nat.reduceEqDiff, ↓reduceIte]
  exact lower_ok (row_ok (regs := WaitaX.regsOk) (fields := WaitaX.fieldsOk) hw rfl (parse_WaitaX o))
theorem pref (o : PrefM) : Statement (.pref o) := by
  intro hw e he
  cases he
  have hr : (zero (PrefM.encD o) 1 5 && zero (PrefM.encT o) 8 1) = true := by
    obtain ⟨pg, base, sz, off⟩ := o
    simp only [zero, bits, PrefM.encD, PrefM.encT, Bool.and_eq_true, beq_iff_eq]
    omega
  simp only [decodeWord, parseWord, decode4x, Nat.reduceDiv, Nat.reduceEqDiff, ↓reduceIte]
  exact lower_ok (row_ok (regs := PrefM.regsOk) (fields := PrefM.fieldsOk) hw hr (parse_PrefM o))
theorem prefL2 (o : PrefX) : Statement (.prefL2 o) := by
  intro hw e he
  cases he
  have hr : (zero (PrefX.encD o) 1 5 && zero (PrefX.encT o) 8 6) = true := by
    obtain ⟨pg, base, sz, ix, body⟩ := o
    simp only [zero, bits, PrefX.encD, PrefX.encT, Bool.and_eq_true, beq_iff_eq]
    omega
  simp only [decodeWord, parseWord, decode4x, Nat.reduceDiv, Nat.reduceEqDiff, ↓reduceIte]
  exact lower_ok (row_ok (regs := PrefX.regsOk) (fields := PrefX.fieldsOk) hw hr (parse_PrefX o))
theorem amoadd (o : AtO) : Statement (.amoadd o) := by
  intro hw e he
  cases he
  have hr : (zero (AtO.encT o) 25 7) = true := by
    obtain ⟨d, base, src, sz, sc, gm, acq, rel⟩ := o
    simp only [zero, bits, AtO.encT, Bool.and_eq_true, beq_iff_eq]
    omega
  have h : bits (AtO.encT o) 19 4 = 0 := by
    obtain ⟨d, base, src, sz, sc, gm, acq, rel⟩ := o
    simp only [bits, AtO.encT]
    omega
  simp only [decodeWord, parseWord, decode5x, Nat.reduceDiv, Nat.reduceEqDiff, ↓reduceIte, h]
  exact lower_ok (row_ok (regs := AtO.regsOk) (fields := AtO.fieldsOk) hw hr (parse_AtO o))
theorem amoand (o : AtO) : Statement (.amoand o) := by
  intro hw e he
  cases he
  have hr : (zero (AtO.encT o + 524288) 25 7) = true := by
    obtain ⟨d, base, src, sz, sc, gm, acq, rel⟩ := o
    simp only [zero, bits, AtO.encT, Bool.and_eq_true, beq_iff_eq]
    omega
  have h : bits (AtO.encT o + 524288) 19 4 = 1 := by
    obtain ⟨d, base, src, sz, sc, gm, acq, rel⟩ := o
    simp only [bits, AtO.encT]
    omega
  simp only [decodeWord, parseWord, decode5x, Nat.reduceDiv, Nat.reduceEqDiff, ↓reduceIte, h, one_ne_zero]
  exact lower_ok (row_ok (regs := AtO.regsOk) (fields := AtO.fieldsOk) hw hr (parse_AtO_0_524288 o))
theorem amoor (o : AtO) : Statement (.amoor o) := by
  intro hw e he
  cases he
  have hr : (zero (AtO.encT o + 1048576) 25 7) = true := by
    obtain ⟨d, base, src, sz, sc, gm, acq, rel⟩ := o
    simp only [zero, bits, AtO.encT, Bool.and_eq_true, beq_iff_eq]
    omega
  have h : bits (AtO.encT o + 1048576) 19 4 = 2 := by
    obtain ⟨d, base, src, sz, sc, gm, acq, rel⟩ := o
    simp only [bits, AtO.encT]
    omega
  simp only [decodeWord, parseWord, decode5x, Nat.reduceDiv, Nat.reduceEqDiff, ↓reduceIte, h, OfNat.ofNat_ne_zero, OfNat.ofNat_ne_one]
  exact lower_ok (row_ok (regs := AtO.regsOk) (fields := AtO.fieldsOk) hw hr (parse_AtO_0_1048576 o))
theorem amoxor (o : AtO) : Statement (.amoxor o) := by
  intro hw e he
  cases he
  have hr : (zero (AtO.encT o + 1572864) 25 7) = true := by
    obtain ⟨d, base, src, sz, sc, gm, acq, rel⟩ := o
    simp only [zero, bits, AtO.encT, Bool.and_eq_true, beq_iff_eq]
    omega
  have h : bits (AtO.encT o + 1572864) 19 4 = 3 := by
    obtain ⟨d, base, src, sz, sc, gm, acq, rel⟩ := o
    simp only [bits, AtO.encT]
    omega
  simp only [decodeWord, parseWord, decode5x, Nat.reduceDiv, Nat.reduceEqDiff, ↓reduceIte, h, OfNat.ofNat_ne_zero, OfNat.ofNat_ne_one]
  exact lower_ok (row_ok (regs := AtO.regsOk) (fields := AtO.fieldsOk) hw hr (parse_AtO_0_1572864 o))
theorem amomin (o : AtO) : Statement (.amomin o) := by
  intro hw e he
  cases he
  have hr : (zero (AtO.encT o + 2097152) 25 7) = true := by
    obtain ⟨d, base, src, sz, sc, gm, acq, rel⟩ := o
    simp only [zero, bits, AtO.encT, Bool.and_eq_true, beq_iff_eq]
    omega
  have h : bits (AtO.encT o + 2097152) 19 4 = 4 := by
    obtain ⟨d, base, src, sz, sc, gm, acq, rel⟩ := o
    simp only [bits, AtO.encT]
    omega
  simp only [decodeWord, parseWord, decode5x, Nat.reduceDiv, Nat.reduceEqDiff, ↓reduceIte, h, OfNat.ofNat_ne_zero, OfNat.ofNat_ne_one]
  exact lower_ok (row_ok (regs := AtO.regsOk) (fields := AtO.fieldsOk) hw hr (parse_AtO_0_2097152 o))
theorem amomax (o : AtO) : Statement (.amomax o) := by
  intro hw e he
  cases he
  have hr : (zero (AtO.encT o + 2621440) 25 7) = true := by
    obtain ⟨d, base, src, sz, sc, gm, acq, rel⟩ := o
    simp only [zero, bits, AtO.encT, Bool.and_eq_true, beq_iff_eq]
    omega
  have h : bits (AtO.encT o + 2621440) 19 4 = 5 := by
    obtain ⟨d, base, src, sz, sc, gm, acq, rel⟩ := o
    simp only [bits, AtO.encT]
    omega
  simp only [decodeWord, parseWord, decode5x, Nat.reduceDiv, Nat.reduceEqDiff, ↓reduceIte, h, OfNat.ofNat_ne_zero, OfNat.ofNat_ne_one]
  exact lower_ok (row_ok (regs := AtO.regsOk) (fields := AtO.fieldsOk) hw hr (parse_AtO_0_2621440 o))
theorem amominz (o : AtO) : Statement (.amominz o) := by
  intro hw e he
  cases he
  have hr : (zero (AtO.encT o + 3145728) 25 7) = true := by
    obtain ⟨d, base, src, sz, sc, gm, acq, rel⟩ := o
    simp only [zero, bits, AtO.encT, Bool.and_eq_true, beq_iff_eq]
    omega
  have h : bits (AtO.encT o + 3145728) 19 4 = 6 := by
    obtain ⟨d, base, src, sz, sc, gm, acq, rel⟩ := o
    simp only [bits, AtO.encT]
    omega
  simp only [decodeWord, parseWord, decode5x, Nat.reduceDiv, Nat.reduceEqDiff, ↓reduceIte, h, OfNat.ofNat_ne_zero, OfNat.ofNat_ne_one]
  exact lower_ok (row_ok (regs := AtO.regsOk) (fields := AtO.fieldsOk) hw hr (parse_AtO_0_3145728 o))
theorem amomaxz (o : AtO) : Statement (.amomaxz o) := by
  intro hw e he
  cases he
  have hr : (zero (AtO.encT o + 3670016) 25 7) = true := by
    obtain ⟨d, base, src, sz, sc, gm, acq, rel⟩ := o
    simp only [zero, bits, AtO.encT, Bool.and_eq_true, beq_iff_eq]
    omega
  have h : bits (AtO.encT o + 3670016) 19 4 = 7 := by
    obtain ⟨d, base, src, sz, sc, gm, acq, rel⟩ := o
    simp only [bits, AtO.encT]
    omega
  simp only [decodeWord, parseWord, decode5x, Nat.reduceDiv, Nat.reduceEqDiff, ↓reduceIte, h, OfNat.ofNat_ne_zero, OfNat.ofNat_ne_one]
  exact lower_ok (row_ok (regs := AtO.regsOk) (fields := AtO.fieldsOk) hw hr (parse_AtO_0_3670016 o))
theorem amoswap (o : AtO) : Statement (.amoswap o) := by
  intro hw e he
  cases he
  have hr : (zero (AtO.encT o + 4194304) 25 7) = true := by
    obtain ⟨d, base, src, sz, sc, gm, acq, rel⟩ := o
    simp only [zero, bits, AtO.encT, Bool.and_eq_true, beq_iff_eq]
    omega
  have h : bits (AtO.encT o + 4194304) 19 4 = 8 := by
    obtain ⟨d, base, src, sz, sc, gm, acq, rel⟩ := o
    simp only [bits, AtO.encT]
    omega
  simp only [decodeWord, parseWord, decode5x, Nat.reduceDiv, Nat.reduceEqDiff, ↓reduceIte, h, OfNat.ofNat_ne_zero, OfNat.ofNat_ne_one]
  exact lower_ok (row_ok (regs := AtO.regsOk) (fields := AtO.fieldsOk) hw hr (parse_AtO_0_4194304 o))
theorem cas (o : AtO) : Statement (.cas o) := by
  intro hw e he
  cases he
  have hr : (zero (AtO.encT o) 25 7 && (bits (AtO.encT o) 19 4 == 0)) = true := by
    obtain ⟨d, base, src, sz, sc, gm, acq, rel⟩ := o
    simp only [zero, bits, AtO.encT, Bool.and_eq_true, beq_iff_eq]
    omega
  simp only [decodeWord, parseWord, decode5x, Nat.reduceDiv, Nat.reduceEqDiff, ↓reduceIte]
  exact lower_ok (row_ok (regs := AtO.regsOk) (fields := AtO.fieldsOk) hw hr (parse_AtO o))
theorem fadda (o : AtO) : Statement (.fadda o) := by
  intro hw e he
  cases he
  have hr : (zero (AtO.encT o) 25 7 && (bits (AtO.encT o) 19 4 == 0)) = true := by
    obtain ⟨d, base, src, sz, sc, gm, acq, rel⟩ := o
    simp only [zero, bits, AtO.encT, Bool.and_eq_true, beq_iff_eq]
    omega
  simp only [decodeWord, parseWord, decode5x, Nat.reduceDiv, Nat.reduceEqDiff, ↓reduceIte]
  exact lower_ok (row_ok (regs := AtO.regsOk) (fields := AtO.fieldsOk) hw hr (parse_AtO o))
theorem casp (o : CaspO) : Statement (.casp o) := by
  intro hw e he
  cases he
  have hr : (zero (CaspO.encT o + 12288) 25 7 && (bits (CaspO.encT o + 12288) 12 2 == 3) && (bits (CaspO.encT o + 12288) 19 4 == 0)) = true := by
    obtain ⟨d, base, src, sc, gm, acq, rel⟩ := o
    simp only [zero, bits, CaspO.encT, Bool.and_eq_true, beq_iff_eq]
    omega
  simp only [decodeWord, parseWord, decode5x, Nat.reduceDiv, Nat.reduceEqDiff, ↓reduceIte]
  exact lower_ok (row_ok (regs := CaspO.regsOk) (fields := CaspO.fieldsOk) hw hr (parse_CaspO_0_12288 o))
theorem sbind (o : SbindO) : Statement (.sbind o) := by
  intro hw e he
  cases he
  have hr : (zero (SbindO.encD o) 2 4 && zero (SbindO.encT o) 11 1 && zero (SbindO.encT o) 14 18) = true := by
    obtain ⟨u, a, kind, dir, esz, dims⟩ := o
    simp only [zero, bits, SbindO.encD, SbindO.encT, Bool.and_eq_true, beq_iff_eq]
    omega
  simp only [decodeWord, parseWord, decode5x, Nat.reduceDiv, Nat.reduceEqDiff, ↓reduceIte]
  exact lower_ok (row_ok (regs := SbindO.regsOk) (fields := SbindO.fieldsOk) hw hr (parse_SbindO o))
theorem sdim (o : SdimR) : Statement (.sdim o) := by
  intro hw e he
  cases he
  have hr : (zero (SdimR.encD o) 2 4 && zero (SdimR.encT o) 14 18) = true := by
    obtain ⟨u, a, b, k⟩ := o
    simp only [zero, bits, SdimR.encD, SdimR.encT, Bool.and_eq_true, beq_iff_eq]
    omega
  simp only [decodeWord, parseWord, decode5x, Nat.reduceDiv, Nat.reduceEqDiff, ↓reduceIte]
  exact lower_ok (row_ok (regs := SdimR.regsOk) (fields := SdimR.fieldsOk) hw hr (parse_SdimR o))
theorem sdimL3 (o : SdimW) : Statement (.sdimL3 o) := by
  intro hw e he
  cases he
  have hr : (zero (SdimW.encD o) 2 4 && zero (SdimW.encT o) 0 18 && zero (SdimW.encT o) 20 4) = true := by
    obtain ⟨u, k, cnt, stride⟩ := o
    simp only [zero, bits, SdimW.encD, SdimW.encT, Bool.and_eq_true, beq_iff_eq]
    omega
  simp only [decodeWord, parseWord, decode5x, Nat.reduceDiv, Nat.reduceEqDiff, ↓reduceIte]
  exact lower_ok (row_ok (regs := SdimW.regsOk) (fields := SdimW.fieldsOk) hw hr (parse_SdimW o))
theorem sidx (o : SidxR) : Statement (.sidx o) := by
  intro hw e he
  cases he
  have hr : (zero (SidxR.encD o) 2 4 && zero (SidxR.encT o) 10 22) = true := by
    obtain ⟨u, a, ish, isz⟩ := o
    simp only [zero, bits, SidxR.encD, SidxR.encT, Bool.and_eq_true, beq_iff_eq]
    omega
  simp only [decodeWord, parseWord, decode5x, Nat.reduceDiv, Nat.reduceEqDiff, ↓reduceIte]
  exact lower_ok (row_ok (regs := SidxR.regsOk) (fields := SidxR.fieldsOk) hw hr (parse_SidxR o))
theorem sidxL3 (o : SidxW) : Statement (.sidxL3 o) := by
  intro hw e he
  cases he
  have hr : (zero (SidxW.encD o) 2 4 && zero (SidxW.encT o) 10 14) = true := by
    obtain ⟨u, a, ish, isz, imm⟩ := o
    simp only [zero, bits, SidxW.encD, SidxW.encT, Bool.and_eq_true, beq_iff_eq]
    omega
  simp only [decodeWord, parseWord, decode5x, Nat.reduceDiv, Nat.reduceEqDiff, ↓reduceIte]
  exact lower_ok (row_ok (regs := SidxW.regsOk) (fields := SidxW.fieldsOk) hw hr (parse_SidxW o))
theorem sdir (o : SdirO) : Statement (.sdir o) := by
  intro hw e he
  cases he
  have hr : (zero (SdirO.encD o) 2 4 && zero (SdirO.encT o) 1 5 && zero (SdirO.encT o) 8 8) = true := by
    obtain ⟨u, dir, rpt⟩ := o
    simp only [zero, bits, SdirO.encD, SdirO.encT, Bool.and_eq_true, beq_iff_eq]
    omega
  simp only [decodeWord, parseWord, decode5x, Nat.reduceDiv, Nat.reduceEqDiff, ↓reduceIte]
  exact lower_ok (row_ok (regs := SdirO.regsOk) (fields := SdirO.fieldsOk) hw hr (parse_SdirO o))
theorem sgo (o : Units) : Statement (.sgo o) := by
  intro hw e he
  cases he
  have hr : (zero (Units.encD o) 3 3) = true := by
    obtain ⟨m⟩ := o
    simp only [zero, bits, Units.encD, Bool.and_eq_true, beq_iff_eq]
    omega
  simp only [decodeWord, parseWord, decode5x, Nat.reduceDiv, Nat.reduceEqDiff, ↓reduceIte]
  exact lower_ok (row_ok (regs := Units.regsOk) (fields := Units.fieldsOk) hw hr (parse_Units o))
theorem sstop (o : Units) : Statement (.sstop o) := by
  intro hw e he
  cases he
  have hr : (zero (Units.encD o) 3 3) = true := by
    obtain ⟨m⟩ := o
    simp only [zero, bits, Units.encD, Bool.and_eq_true, beq_iff_eq]
    omega
  simp only [decodeWord, parseWord, decode5x, Nat.reduceDiv, Nat.reduceEqDiff, ↓reduceIte]
  exact lower_ok (row_ok (regs := Units.regsOk) (fields := Units.fieldsOk) hw hr (parse_Units o))
theorem sskip (o : UnitG) : Statement (.sskip o) := by
  intro hw e he
  cases he
  have hr : (zero (UnitG.encD o) 2 4 && zero (UnitG.encT o) 6 10) = true := by
    obtain ⟨u, a⟩ := o
    simp only [zero, bits, UnitG.encD, UnitG.encT, Bool.and_eq_true, beq_iff_eq]
    omega
  simp only [decodeWord, parseWord, decode5x, Nat.reduceDiv, Nat.reduceEqDiff, ↓reduceIte]
  exact lower_ok (row_ok (regs := UnitG.regsOk) (fields := UnitG.fieldsOk) hw hr (parse_UnitG o))
theorem spos (o : UnitG) : Statement (.spos o) := by
  intro hw e he
  cases he
  have hr : (zero (UnitG.encD o) 2 4 && zero (UnitG.encT o) 6 10) = true := by
    obtain ⟨u, a⟩ := o
    simp only [zero, bits, UnitG.encD, UnitG.encT, Bool.and_eq_true, beq_iff_eq]
    omega
  simp only [decodeWord, parseWord, decode5x, Nat.reduceDiv, Nat.reduceEqDiff, ↓reduceIte]
  exact lower_ok (row_ok (regs := UnitG.regsOk) (fields := UnitG.fieldsOk) hw hr (parse_UnitG o))
theorem ssave (o : UnitM) : Statement (.ssave o) := by
  intro hw e he
  cases he
  have hr : (zero (UnitM.encD o) 2 4 && zero (UnitM.encT o + 192) 8 1 && (bits (UnitM.encT o + 192) 6 2 == 3)) = true := by
    obtain ⟨u, base, off⟩ := o
    simp only [zero, bits, UnitM.encD, UnitM.encT, Bool.and_eq_true, beq_iff_eq]
    omega
  simp only [decodeWord, parseWord, decode6x, Nat.reduceDiv, Nat.reduceEqDiff, ↓reduceIte]
  exact lower_ok (row_ok (regs := UnitM.regsOk) (fields := UnitM.fieldsOk) hw hr (parse_UnitM_0_192 o))
theorem ssaveL2 (o : UnitX) : Statement (.ssaveL2 o) := by
  intro hw e he
  cases he
  have hr : (zero (UnitX.encD o) 2 4 && zero (UnitX.encT o + 192) 8 6 && (bits (UnitX.encT o + 192) 6 2 == 3)) = true := by
    obtain ⟨u, base, ix, body⟩ := o
    simp only [zero, bits, UnitX.encD, UnitX.encT, Bool.and_eq_true, beq_iff_eq]
    omega
  simp only [decodeWord, parseWord, decode6x, Nat.reduceDiv, Nat.reduceEqDiff, ↓reduceIte]
  exact lower_ok (row_ok (regs := UnitX.regsOk) (fields := UnitX.fieldsOk) hw hr (parse_UnitX_0_192 o))
theorem sload (o : UnitM) : Statement (.sload o) := by
  intro hw e he
  cases he
  have hr : (zero (UnitM.encD o) 2 4 && zero (UnitM.encT o + 192) 8 1 && (bits (UnitM.encT o + 192) 6 2 == 3)) = true := by
    obtain ⟨u, base, off⟩ := o
    simp only [zero, bits, UnitM.encD, UnitM.encT, Bool.and_eq_true, beq_iff_eq]
    omega
  simp only [decodeWord, parseWord, decode6x, Nat.reduceDiv, Nat.reduceEqDiff, ↓reduceIte]
  exact lower_ok (row_ok (regs := UnitM.regsOk) (fields := UnitM.fieldsOk) hw hr (parse_UnitM_0_192 o))
theorem sloadL2 (o : UnitX) : Statement (.sloadL2 o) := by
  intro hw e he
  cases he
  have hr : (zero (UnitX.encD o) 2 4 && zero (UnitX.encT o + 192) 8 6 && (bits (UnitX.encT o + 192) 6 2 == 3)) = true := by
    obtain ⟨u, base, ix, body⟩ := o
    simp only [zero, bits, UnitX.encD, UnitX.encT, Bool.and_eq_true, beq_iff_eq]
    omega
  simp only [decodeWord, parseWord, decode6x, Nat.reduceDiv, Nat.reduceEqDiff, ↓reduceIte]
  exact lower_ok (row_ok (regs := UnitX.regsOk) (fields := UnitX.fieldsOk) hw hr (parse_UnitX_0_192 o))
theorem sisect (o : SetO) : Statement (.sisect o) := by
  intro hw e he
  cases he
  have hr : (zero (SetO.encD o) 2 4 && zero (SetO.encT o) 2 4 && zero (SetO.encT o) 8 4 && zero (SetO.encT o) 13 3) = true := by
    obtain ⟨u, la, lb, cnt⟩ := o
    simp only [zero, bits, SetO.encD, SetO.encT, Bool.and_eq_true, beq_iff_eq]
    omega
  simp only [decodeWord, parseWord, decode6x, Nat.reduceDiv, Nat.reduceEqDiff, ↓reduceIte]
  exact lower_ok (row_ok (regs := SetO.regsOk) (fields := SetO.fieldsOk) hw hr (parse_SetO o))
theorem sunion (o : SetO) : Statement (.sunion o) := by
  intro hw e he
  cases he
  have hr : (zero (SetO.encD o) 2 4 && zero (SetO.encT o) 2 4 && zero (SetO.encT o) 8 4 && zero (SetO.encT o) 13 3) = true := by
    obtain ⟨u, la, lb, cnt⟩ := o
    simp only [zero, bits, SetO.encD, SetO.encT, Bool.and_eq_true, beq_iff_eq]
    omega
  simp only [decodeWord, parseWord, decode6x, Nat.reduceDiv, Nat.reduceEqDiff, ↓reduceIte]
  exact lower_ok (row_ok (regs := SetO.regsOk) (fields := SetO.fieldsOk) hw hr (parse_SetO o))
theorem sstatPos (o : UnitG) : Statement (.sstatPos o) := by
  intro hw e he
  cases he
  have hr : (zero (UnitG.encD o) 2 4 && zero (UnitG.encT o) 8 8) = true := by
    obtain ⟨u, a⟩ := o
    simp only [zero, bits, UnitG.encD, UnitG.encT, Bool.and_eq_true, beq_iff_eq]
    omega
  have h : bits (UnitG.encT o) 6 2 = 0 := by
    obtain ⟨u, a⟩ := o
    simp only [bits, UnitG.encT]
    omega
  simp only [decodeWord, parseWord, decode6x, Nat.reduceDiv, Nat.reduceEqDiff, ↓reduceIte, h]
  exact lower_ok (row_ok (regs := UnitG.regsOk) (fields := UnitG.fieldsOk) hw hr (parse_UnitG o))
theorem sstatSt (o : UnitG) : Statement (.sstatSt o) := by
  intro hw e he
  cases he
  have hr : (zero (UnitG.encD o) 2 4 && zero (UnitG.encT o + 64) 8 8) = true := by
    obtain ⟨u, a⟩ := o
    simp only [zero, bits, UnitG.encD, UnitG.encT, Bool.and_eq_true, beq_iff_eq]
    omega
  have h : bits (UnitG.encT o + 64) 6 2 = 1 := by
    obtain ⟨u, a⟩ := o
    simp only [bits, UnitG.encT]
    omega
  simp only [decodeWord, parseWord, decode6x, Nat.reduceDiv, Nat.reduceEqDiff, ↓reduceIte, h, one_ne_zero]
  exact lower_ok (row_ok (regs := UnitG.regsOk) (fields := UnitG.fieldsOk) hw hr (parse_UnitG_0_64 o))
theorem scoord (o : ScoordO) : Statement (.scoord o) := by
  intro hw e he
  cases he
  have hr : (zero (ScoordO.encD o) 2 4 && zero (ScoordO.encT o) 15 17) = true := by
    obtain ⟨u, a, b, cs, dir⟩ := o
    simp only [zero, bits, ScoordO.encD, ScoordO.encT, Bool.and_eq_true, beq_iff_eq]
    omega
  simp only [decodeWord, parseWord, decode6x, Nat.reduceDiv, Nat.reduceEqDiff, ↓reduceIte]
  exact lower_ok (row_ok (regs := ScoordO.regsOk) (fields := ScoordO.fieldsOk) hw hr (parse_ScoordO o))
theorem fadd (o : FP3) : Statement (.fadd o) := by
  intro hw e he
  cases he
  have hr : (zero (FP3.encT o) 14 2) = true := by
    obtain ⟨d, a, b, pr⟩ := o
    simp only [zero, bits, FP3.encT, Bool.and_eq_true, beq_iff_eq]
    omega
  simp only [decodeWord, parseWord, decode7x, Nat.reduceDiv, Nat.reduceEqDiff, ↓reduceIte]
  exact lower_ok (row_ok (regs := FP3.regsOk) (fields := FP3.fieldsOk) hw hr (parse_FP3 o))
theorem faddL2 (o : FP3R) : Statement (.faddL2 o) := by
  intro hw e he
  cases he
  have hr : (zero (FP3R.encT o) 12 6 && zero (FP3R.encT o) 20 4 && zero (FP3R.encT o) 26 2 && zero (FP3R.encT o) 31 1) = true := by
    obtain ⟨d, a, b, h, pr, rnd⟩ := o
    simp only [zero, bits, FP3R.encT, Bool.and_eq_true, beq_iff_eq]
    omega
  simp only [decodeWord, parseWord, decode7x, Nat.reduceDiv, Nat.reduceEqDiff, ↓reduceIte]
  exact lower_ok (row_ok (regs := FP3R.regsOk) (fields := FP3R.fieldsOk) hw hr (parse_FP3R o))
theorem fsub (o : FP3) : Statement (.fsub o) := by
  intro hw e he
  cases he
  have hr : (zero (FP3.encT o) 14 2) = true := by
    obtain ⟨d, a, b, pr⟩ := o
    simp only [zero, bits, FP3.encT, Bool.and_eq_true, beq_iff_eq]
    omega
  simp only [decodeWord, parseWord, decode7x, Nat.reduceDiv, Nat.reduceEqDiff, ↓reduceIte]
  exact lower_ok (row_ok (regs := FP3.regsOk) (fields := FP3.fieldsOk) hw hr (parse_FP3 o))
theorem fsubL2 (o : FP3R) : Statement (.fsubL2 o) := by
  intro hw e he
  cases he
  have hr : (zero (FP3R.encT o) 12 6 && zero (FP3R.encT o) 20 4 && zero (FP3R.encT o) 26 2 && zero (FP3R.encT o) 31 1) = true := by
    obtain ⟨d, a, b, h, pr, rnd⟩ := o
    simp only [zero, bits, FP3R.encT, Bool.and_eq_true, beq_iff_eq]
    omega
  simp only [decodeWord, parseWord, decode7x, Nat.reduceDiv, Nat.reduceEqDiff, ↓reduceIte]
  exact lower_ok (row_ok (regs := FP3R.regsOk) (fields := FP3R.fieldsOk) hw hr (parse_FP3R o))
theorem fmul (o : FP3) : Statement (.fmul o) := by
  intro hw e he
  cases he
  have hr : (zero (FP3.encT o) 14 2) = true := by
    obtain ⟨d, a, b, pr⟩ := o
    simp only [zero, bits, FP3.encT, Bool.and_eq_true, beq_iff_eq]
    omega
  simp only [decodeWord, parseWord, decode7x, Nat.reduceDiv, Nat.reduceEqDiff, ↓reduceIte]
  exact lower_ok (row_ok (regs := FP3.regsOk) (fields := FP3.fieldsOk) hw hr (parse_FP3 o))
theorem fmulL2 (o : FP3R) : Statement (.fmulL2 o) := by
  intro hw e he
  cases he
  have hr : (zero (FP3R.encT o) 12 6 && zero (FP3R.encT o) 20 4 && zero (FP3R.encT o) 26 2 && zero (FP3R.encT o) 31 1) = true := by
    obtain ⟨d, a, b, h, pr, rnd⟩ := o
    simp only [zero, bits, FP3R.encT, Bool.and_eq_true, beq_iff_eq]
    omega
  simp only [decodeWord, parseWord, decode7x, Nat.reduceDiv, Nat.reduceEqDiff, ↓reduceIte]
  exact lower_ok (row_ok (regs := FP3R.regsOk) (fields := FP3R.fieldsOk) hw hr (parse_FP3R o))
theorem fma (o : FP4R) : Statement (.fma o) := by
  intro hw e he
  cases he
  have hr : (zero (FP4R.encT o) 26 2 && zero (FP4R.encT o) 31 1) = true := by
    obtain ⟨d, a, b, c, h, pr, rnd⟩ := o
    simp only [zero, bits, FP4R.encT, Bool.and_eq_true, beq_iff_eq]
    omega
  have h : bits (FP4R.encT o) 21 3 = 0 := by
    obtain ⟨d, a, b, c, h, pr, rnd⟩ := o
    simp only [bits, FP4R.encT]
    omega
  simp only [decodeWord, parseWord, decode7x, Nat.reduceDiv, Nat.reduceEqDiff, ↓reduceIte, h]
  exact lower_ok (row_ok (regs := FP4R.regsOk) (fields := FP4R.fieldsOk) hw hr (parse_FP4R o))
theorem fms (o : FP4R) : Statement (.fms o) := by
  intro hw e he
  cases he
  have hr : (zero (FP4R.encT o + 2097152) 26 2 && zero (FP4R.encT o + 2097152) 31 1) = true := by
    obtain ⟨d, a, b, c, h, pr, rnd⟩ := o
    simp only [zero, bits, FP4R.encT, Bool.and_eq_true, beq_iff_eq]
    omega
  have h : bits (FP4R.encT o + 2097152) 21 3 = 1 := by
    obtain ⟨d, a, b, c, h, pr, rnd⟩ := o
    simp only [bits, FP4R.encT]
    omega
  simp only [decodeWord, parseWord, decode7x, Nat.reduceDiv, Nat.reduceEqDiff, ↓reduceIte, h, one_ne_zero]
  exact lower_ok (row_ok (regs := FP4R.regsOk) (fields := FP4R.fieldsOk) hw hr (parse_FP4R_0_2097152 o))
theorem fnma (o : FP4R) : Statement (.fnma o) := by
  intro hw e he
  cases he
  have hr : (zero (FP4R.encT o + 4194304) 26 2 && zero (FP4R.encT o + 4194304) 31 1) = true := by
    obtain ⟨d, a, b, c, h, pr, rnd⟩ := o
    simp only [zero, bits, FP4R.encT, Bool.and_eq_true, beq_iff_eq]
    omega
  have h : bits (FP4R.encT o + 4194304) 21 3 = 2 := by
    obtain ⟨d, a, b, c, h, pr, rnd⟩ := o
    simp only [bits, FP4R.encT]
    omega
  simp only [decodeWord, parseWord, decode7x, Nat.reduceDiv, Nat.reduceEqDiff, ↓reduceIte, h, OfNat.ofNat_ne_zero, OfNat.ofNat_ne_one]
  exact lower_ok (row_ok (regs := FP4R.regsOk) (fields := FP4R.fieldsOk) hw hr (parse_FP4R_0_4194304 o))
theorem fnms (o : FP4R) : Statement (.fnms o) := by
  intro hw e he
  cases he
  have hr : (zero (FP4R.encT o + 6291456) 26 2 && zero (FP4R.encT o + 6291456) 31 1) = true := by
    obtain ⟨d, a, b, c, h, pr, rnd⟩ := o
    simp only [zero, bits, FP4R.encT, Bool.and_eq_true, beq_iff_eq]
    omega
  have h : bits (FP4R.encT o + 6291456) 21 3 = 3 := by
    obtain ⟨d, a, b, c, h, pr, rnd⟩ := o
    simp only [bits, FP4R.encT]
    omega
  simp only [decodeWord, parseWord, decode7x, Nat.reduceDiv, Nat.reduceEqDiff, ↓reduceIte, h, OfNat.ofNat_ne_zero, OfNat.ofNat_ne_one]
  exact lower_ok (row_ok (regs := FP4R.regsOk) (fields := FP4R.fieldsOk) hw hr (parse_FP4R_0_6291456 o))
theorem fmin (o : FP3) : Statement (.fmin o) := by
  intro hw e he
  cases he
  have hr : (zero (FP3.encT o) 14 2) = true := by
    obtain ⟨d, a, b, pr⟩ := o
    simp only [zero, bits, FP3.encT, Bool.and_eq_true, beq_iff_eq]
    omega
  simp only [decodeWord, parseWord, decode7x, Nat.reduceDiv, Nat.reduceEqDiff, ↓reduceIte]
  exact lower_ok (row_ok (regs := FP3.regsOk) (fields := FP3.fieldsOk) hw hr (parse_FP3 o))
theorem fminL2 (o : FP3H) : Statement (.fminL2 o) := by
  intro hw e he
  cases he
  have hr : (zero (FP3H.encT o) 12 6 && zero (FP3H.encT o) 20 4 && zero (FP3H.encT o) 26 6) = true := by
    obtain ⟨d, a, b, h, pr⟩ := o
    simp only [zero, bits, FP3H.encT, Bool.and_eq_true, beq_iff_eq]
    omega
  simp only [decodeWord, parseWord, decode7x, Nat.reduceDiv, Nat.reduceEqDiff, ↓reduceIte]
  exact lower_ok (row_ok (regs := FP3H.regsOk) (fields := FP3H.fieldsOk) hw hr (parse_FP3H o))
theorem fmax (o : FP3) : Statement (.fmax o) := by
  intro hw e he
  cases he
  have hr : (zero (FP3.encT o) 14 2) = true := by
    obtain ⟨d, a, b, pr⟩ := o
    simp only [zero, bits, FP3.encT, Bool.and_eq_true, beq_iff_eq]
    omega
  simp only [decodeWord, parseWord, decode7x, Nat.reduceDiv, Nat.reduceEqDiff, ↓reduceIte]
  exact lower_ok (row_ok (regs := FP3.regsOk) (fields := FP3.fieldsOk) hw hr (parse_FP3 o))
theorem fmaxL2 (o : FP3H) : Statement (.fmaxL2 o) := by
  intro hw e he
  cases he
  have hr : (zero (FP3H.encT o) 12 6 && zero (FP3H.encT o) 20 4 && zero (FP3H.encT o) 26 6) = true := by
    obtain ⟨d, a, b, h, pr⟩ := o
    simp only [zero, bits, FP3H.encT, Bool.and_eq_true, beq_iff_eq]
    omega
  simp only [decodeWord, parseWord, decode7x, Nat.reduceDiv, Nat.reduceEqDiff, ↓reduceIte]
  exact lower_ok (row_ok (regs := FP3H.regsOk) (fields := FP3H.fieldsOk) hw hr (parse_FP3H o))
theorem fneg (o : FP2) : Statement (.fneg o) := by
  intro hw e he
  cases he
  have hr : (zero (FP2.encT o) 6 6 && zero (FP2.encT o) 14 2) = true := by
    obtain ⟨d, a, pr⟩ := o
    simp only [zero, bits, FP2.encT, Bool.and_eq_true, beq_iff_eq]
    omega
  simp only [decodeWord, parseWord, decode7x, Nat.reduceDiv, Nat.reduceEqDiff, ↓reduceIte]
  exact lower_ok (row_ok (regs := FP2.regsOk) (fields := FP2.fieldsOk) hw hr (parse_FP2 o))
theorem fnegL2 (o : FP2H) : Statement (.fnegL2 o) := by
  intro hw e he
  cases he
  have hr : (zero (FP2H.encT o) 6 12 && zero (FP2H.encT o) 19 2 && zero (FP2H.encT o) 26 6) = true := by
    obtain ⟨d, a, h, pr⟩ := o
    simp only [zero, bits, FP2H.encT, Bool.and_eq_true, beq_iff_eq]
    omega
  have h : bits (FP2H.encT o) 21 3 = 0 := by
    obtain ⟨d, a, h, pr⟩ := o
    simp only [bits, FP2H.encT]
    omega
  simp only [decodeWord, parseWord, decode7x, Nat.reduceDiv, Nat.reduceEqDiff, ↓reduceIte, h]
  exact lower_ok (row_ok (regs := FP2H.regsOk) (fields := FP2H.fieldsOk) hw hr (parse_FP2H o))
theorem fabs (o : FP2H) : Statement (.fabs o) := by
  intro hw e he
  cases he
  have hr : (zero (FP2H.encT o + 2097152) 6 12 && zero (FP2H.encT o + 2097152) 19 2 && zero (FP2H.encT o + 2097152) 26 6) = true := by
    obtain ⟨d, a, h, pr⟩ := o
    simp only [zero, bits, FP2H.encT, Bool.and_eq_true, beq_iff_eq]
    omega
  have h : bits (FP2H.encT o + 2097152) 21 3 = 1 := by
    obtain ⟨d, a, h, pr⟩ := o
    simp only [bits, FP2H.encT]
    omega
  simp only [decodeWord, parseWord, decode7x, Nat.reduceDiv, Nat.reduceEqDiff, ↓reduceIte, h, one_ne_zero]
  exact lower_ok (row_ok (regs := FP2H.regsOk) (fields := FP2H.fieldsOk) hw hr (parse_FP2H_0_2097152 o))
theorem fcpsgn (o : FP3H) : Statement (.fcpsgn o) := by
  intro hw e he
  cases he
  have hr : (zero (FP3H.encT o + 4194304) 12 6 && zero (FP3H.encT o + 4194304) 20 1 && zero (FP3H.encT o + 4194304) 26 6) = true := by
    obtain ⟨d, a, b, h, pr⟩ := o
    simp only [zero, bits, FP3H.encT, Bool.and_eq_true, beq_iff_eq]
    omega
  have h : bits (FP3H.encT o + 4194304) 21 3 = 2 := by
    obtain ⟨d, a, b, h, pr⟩ := o
    simp only [bits, FP3H.encT]
    omega
  simp only [decodeWord, parseWord, decode7x, Nat.reduceDiv, Nat.reduceEqDiff, ↓reduceIte, h, OfNat.ofNat_ne_zero, OfNat.ofNat_ne_one]
  exact lower_ok (row_ok (regs := FP3H.regsOk) (fields := FP3H.fieldsOk) hw hr (parse_FP3H_0_4194304 o))
theorem feq (o : FC3) : Statement (.feq o) := by
  intro hw e he
  cases he
  have h : bits (FC3.encT o) 14 2 = 0 := by
    obtain ⟨d, a, b, pr⟩ := o
    simp only [bits, FC3.encT]
    omega
  simp only [decodeWord, parseWord, decode7x, Nat.reduceDiv, Nat.reduceEqDiff, ↓reduceIte, h]
  exact lower_ok (row_ok (regs := FC3.regsOk) (fields := FC3.fieldsOk) hw rfl (parse_FC3 o))
theorem feqL2 (o : FC3H) : Statement (.feqL2 o) := by
  intro hw e he
  cases he
  have hr : (zero (FC3H.encT o) 12 6 && zero (FC3H.encT o) 20 4 && zero (FC3H.encT o) 28 4) = true := by
    obtain ⟨d, a, b, h, pr⟩ := o
    simp only [zero, bits, FC3H.encT, Bool.and_eq_true, beq_iff_eq]
    omega
  have h : bits (FC3H.encT o) 26 2 = 0 := by
    obtain ⟨d, a, b, h, pr⟩ := o
    simp only [bits, FC3H.encT]
    omega
  simp only [decodeWord, parseWord, decode7x, Nat.reduceDiv, Nat.reduceEqDiff, ↓reduceIte, h]
  exact lower_ok (row_ok (regs := FC3H.regsOk) (fields := FC3H.fieldsOk) hw hr (parse_FC3H o))
theorem flt (o : FC3) : Statement (.flt o) := by
  intro hw e he
  cases he
  have h : bits (FC3.encT o + 16384) 14 2 = 1 := by
    obtain ⟨d, a, b, pr⟩ := o
    simp only [bits, FC3.encT]
    omega
  simp only [decodeWord, parseWord, decode7x, Nat.reduceDiv, Nat.reduceEqDiff, ↓reduceIte, h, one_ne_zero]
  exact lower_ok (row_ok (regs := FC3.regsOk) (fields := FC3.fieldsOk) hw rfl (parse_FC3_0_16384 o))
theorem fltL2 (o : FC3H) : Statement (.fltL2 o) := by
  intro hw e he
  cases he
  have hr : (zero (FC3H.encT o + 67108864) 12 6 && zero (FC3H.encT o + 67108864) 20 4 && zero (FC3H.encT o + 67108864) 28 4) = true := by
    obtain ⟨d, a, b, h, pr⟩ := o
    simp only [zero, bits, FC3H.encT, Bool.and_eq_true, beq_iff_eq]
    omega
  have h : bits (FC3H.encT o + 67108864) 26 2 = 1 := by
    obtain ⟨d, a, b, h, pr⟩ := o
    simp only [bits, FC3H.encT]
    omega
  simp only [decodeWord, parseWord, decode7x, Nat.reduceDiv, Nat.reduceEqDiff, ↓reduceIte, h, one_ne_zero]
  exact lower_ok (row_ok (regs := FC3H.regsOk) (fields := FC3H.fieldsOk) hw hr (parse_FC3H_0_67108864 o))
theorem fle (o : FC3) : Statement (.fle o) := by
  intro hw e he
  cases he
  have h : bits (FC3.encT o + 32768) 14 2 = 2 := by
    obtain ⟨d, a, b, pr⟩ := o
    simp only [bits, FC3.encT]
    omega
  simp only [decodeWord, parseWord, decode7x, Nat.reduceDiv, Nat.reduceEqDiff, ↓reduceIte, h, OfNat.ofNat_ne_zero, OfNat.ofNat_ne_one]
  exact lower_ok (row_ok (regs := FC3.regsOk) (fields := FC3.fieldsOk) hw rfl (parse_FC3_0_32768 o))
theorem fleL2 (o : FC3H) : Statement (.fleL2 o) := by
  intro hw e he
  cases he
  have hr : (zero (FC3H.encT o + 134217728) 12 6 && zero (FC3H.encT o + 134217728) 20 4 && zero (FC3H.encT o + 134217728) 28 4) = true := by
    obtain ⟨d, a, b, h, pr⟩ := o
    simp only [zero, bits, FC3H.encT, Bool.and_eq_true, beq_iff_eq]
    omega
  have h : bits (FC3H.encT o + 134217728) 26 2 = 2 := by
    obtain ⟨d, a, b, h, pr⟩ := o
    simp only [bits, FC3H.encT]
    omega
  simp only [decodeWord, parseWord, decode7x, Nat.reduceDiv, Nat.reduceEqDiff, ↓reduceIte, h, OfNat.ofNat_ne_zero, OfNat.ofNat_ne_one]
  exact lower_ok (row_ok (regs := FC3H.regsOk) (fields := FC3H.fieldsOk) hw hr (parse_FC3H_0_134217728 o))
theorem funo (o : FC3) : Statement (.funo o) := by
  intro hw e he
  cases he
  have h : bits (FC3.encT o + 49152) 14 2 = 3 := by
    obtain ⟨d, a, b, pr⟩ := o
    simp only [bits, FC3.encT]
    omega
  simp only [decodeWord, parseWord, decode7x, Nat.reduceDiv, Nat.reduceEqDiff, ↓reduceIte, h, OfNat.ofNat_ne_zero, OfNat.ofNat_ne_one]
  exact lower_ok (row_ok (regs := FC3.regsOk) (fields := FC3.fieldsOk) hw rfl (parse_FC3_0_49152 o))
theorem funoL2 (o : FC3H) : Statement (.funoL2 o) := by
  intro hw e he
  cases he
  have hr : (zero (FC3H.encT o + 201326592) 12 6 && zero (FC3H.encT o + 201326592) 20 4 && zero (FC3H.encT o + 201326592) 28 4) = true := by
    obtain ⟨d, a, b, h, pr⟩ := o
    simp only [zero, bits, FC3H.encT, Bool.and_eq_true, beq_iff_eq]
    omega
  have h : bits (FC3H.encT o + 201326592) 26 2 = 3 := by
    obtain ⟨d, a, b, h, pr⟩ := o
    simp only [bits, FC3H.encT]
    omega
  simp only [decodeWord, parseWord, decode7x, Nat.reduceDiv, Nat.reduceEqDiff, ↓reduceIte, h, OfNat.ofNat_ne_zero, OfNat.ofNat_ne_one]
  exact lower_ok (row_ok (regs := FC3H.regsOk) (fields := FC3H.fieldsOk) hw hr (parse_FC3H_0_201326592 o))
theorem fclass (o : FC2) : Statement (.fclass o) := by
  intro hw e he
  cases he
  have hr : (zero (FC2.encT o) 6 6 && zero (FC2.encT o) 14 2) = true := by
    obtain ⟨d, a, pr⟩ := o
    simp only [zero, bits, FC2.encT, Bool.and_eq_true, beq_iff_eq]
    omega
  simp only [decodeWord, parseWord, decode7x, Nat.reduceDiv, Nat.reduceEqDiff, ↓reduceIte]
  exact lower_ok (row_ok (regs := FC2.regsOk) (fields := FC2.fieldsOk) hw hr (parse_FC2 o))
theorem fcvt (o : CvtR) : Statement (.fcvt o) := by
  intro hw e he
  cases he
  have hr : (zero (CvtR.encT o) 6 6) = true := by
    obtain ⟨d, a, sf, df⟩ := o
    simp only [zero, bits, CvtR.encT, Bool.and_eq_true, beq_iff_eq]
    omega
  simp only [decodeWord, parseWord, decode7x, Nat.reduceDiv, Nat.reduceEqDiff, ↓reduceIte]
  exact lower_ok (row_ok (regs := CvtR.regsOk) (fields := CvtR.fieldsOk) hw hr (parse_CvtR o))
theorem fcvtL2 (o : CvtX) : Statement (.fcvtL2 o) := by
  intro hw e he
  cases he
  have hr : (zero (CvtX.encT o) 6 12 && zero (CvtX.encT o) 19 5 && zero (CvtX.encT o) 31 1) = true := by
    obtain ⟨d, a, h, sf, df, rnd⟩ := o
    simp only [zero, bits, CvtX.encT, Bool.and_eq_true, beq_iff_eq]
    omega
  simp only [decodeWord, parseWord, decode7x, Nat.reduceDiv, Nat.reduceEqDiff, ↓reduceIte]
  exact lower_ok (row_ok (regs := CvtX.regsOk) (fields := CvtX.fieldsOk) hw hr (parse_CvtX o))
theorem fcvti (o : CviR) : Statement (.fcvti o) := by
  intro hw e he
  cases he
  have hr : (zero (CviR.encT o) 6 6 && zero (CviR.encT o) 15 1) = true := by
    obtain ⟨d, a, sf, un⟩ := o
    simp only [zero, bits, CviR.encT, Bool.and_eq_true, beq_iff_eq]
    omega
  simp only [decodeWord, parseWord, decode7x, Nat.reduceDiv, Nat.reduceEqDiff, ↓reduceIte]
  exact lower_ok (row_ok (regs := CviR.regsOk) (fields := CviR.fieldsOk) hw hr (parse_CviR o))
theorem fcvtiL2 (o : CviX) : Statement (.fcvtiL2 o) := by
  intro hw e he
  cases he
  have hr : (zero (CviX.encT o) 6 12 && zero (CviX.encT o) 19 5 && zero (CviX.encT o) 27 1 && zero (CviX.encT o) 31 1) = true := by
    obtain ⟨d, a, h, sf, un, rnd⟩ := o
    simp only [zero, bits, CviX.encT, Bool.and_eq_true, beq_iff_eq]
    omega
  simp only [decodeWord, parseWord, decode7x, Nat.reduceDiv, Nat.reduceEqDiff, ↓reduceIte]
  exact lower_ok (row_ok (regs := CviX.regsOk) (fields := CviX.fieldsOk) hw hr (parse_CviX o))
theorem icvtf (o : IcvR) : Statement (.icvtf o) := by
  intro hw e he
  cases he
  have hr : (zero (IcvR.encT o) 6 6 && zero (IcvR.encT o) 15 1) = true := by
    obtain ⟨d, a, df, un⟩ := o
    simp only [zero, bits, IcvR.encT, Bool.and_eq_true, beq_iff_eq]
    omega
  simp only [decodeWord, parseWord, decode7x, Nat.reduceDiv, Nat.reduceEqDiff, ↓reduceIte]
  exact lower_ok (row_ok (regs := IcvR.regsOk) (fields := IcvR.fieldsOk) hw hr (parse_IcvR o))
theorem icvtfL2 (o : IcvX) : Statement (.icvtfL2 o) := by
  intro hw e he
  cases he
  have hr : (zero (IcvX.encT o) 6 12 && zero (IcvX.encT o) 19 5 && zero (IcvX.encT o) 27 1 && zero (IcvX.encT o) 31 1) = true := by
    obtain ⟨d, a, h, df, un, rnd⟩ := o
    simp only [zero, bits, IcvX.encT, Bool.and_eq_true, beq_iff_eq]
    omega
  simp only [decodeWord, parseWord, decode7x, Nat.reduceDiv, Nat.reduceEqDiff, ↓reduceIte]
  exact lower_ok (row_ok (regs := IcvX.regsOk) (fields := IcvX.fieldsOk) hw hr (parse_IcvX o))
theorem fmvg (o : GF) : Statement (.fmvg o) := by
  intro hw e he
  cases he
  have hr : (zero (GF.encT o) 6 10) = true := by
    obtain ⟨d, a⟩ := o
    simp only [zero, bits, GF.encT, Bool.and_eq_true, beq_iff_eq]
    omega
  simp only [decodeWord, parseWord, decode7x, Nat.reduceDiv, Nat.reduceEqDiff, ↓reduceIte]
  exact lower_ok (row_ok (regs := GF.regsOk) (fields := GF.fieldsOk) hw hr (parse_GF o))
theorem gmvf (o : FG) : Statement (.gmvf o) := by
  intro hw e he
  cases he
  have hr : (zero (FG.encT o) 6 10) = true := by
    obtain ⟨d, a⟩ := o
    simp only [zero, bits, FG.encT, Bool.and_eq_true, beq_iff_eq]
    omega
  simp only [decodeWord, parseWord, decode7x, Nat.reduceDiv, Nat.reduceEqDiff, ↓reduceIte]
  exact lower_ok (row_ok (regs := FG.regsOk) (fields := FG.fieldsOk) hw hr (parse_FG o))
theorem fli (o : FK16) : Statement (.fli o) := by
  intro hw e he
  cases he
  simp only [decodeWord, parseWord, decode7x, Nat.reduceDiv, Nat.reduceEqDiff, ↓reduceIte]
  exact lower_ok (row_ok (regs := FK16.regsOk) (fields := FK16.fieldsOk) hw rfl (parse_FK16 o))
theorem fliL2 (o : FK32) : Statement (.fliL2 o) := by
  intro hw e he
  cases he
  simp only [decodeWord, parseWord, decode7x, Nat.reduceDiv, Nat.reduceEqDiff, ↓reduceIte]
  exact lower_ok (row_ok (regs := FK32.regsOk) (fields := FK32.fieldsOk) hw rfl (parse_FK32 o))
theorem fliL3 (o : FK64) : Statement (.fliL3 o) := by
  intro hw e he
  cases he
  simp only [decodeWord, parseWord, decode7x, Nat.reduceDiv, Nat.reduceEqDiff, ↓reduceIte]
  exact lower_ok (row_ok (regs := FK64.regsOk) (fields := FK64.fieldsOk) hw rfl (parse_FK64 o))
theorem fsel (o : F4H) : Statement (.fsel o) := by
  intro hw e he
  cases he
  have hr : (zero (F4H.encT o) 21 11) = true := by
    obtain ⟨d, a, b, c, h⟩ := o
    simp only [zero, bits, F4H.encT, Bool.and_eq_true, beq_iff_eq]
    omega
  simp only [decodeWord, parseWord, decode7x, Nat.reduceDiv, Nat.reduceEqDiff, ↓reduceIte]
  exact lower_ok (row_ok (regs := F4H.regsOk) (fields := F4H.fieldsOk) hw hr (parse_F4H o))
theorem padd (o : PE3) : Statement (.padd o) := by
  intro hw e he
  cases he
  have hr : (zero (PE3.encT o) 14 2) = true := by
    obtain ⟨d, a, b, e⟩ := o
    simp only [zero, bits, PE3.encT, Bool.and_eq_true, beq_iff_eq]
    omega
  simp only [decodeWord, parseWord, decode8x, Nat.reduceDiv, Nat.reduceEqDiff, ↓reduceIte]
  exact lower_ok (row_ok (regs := PE3.regsOk) (fields := PE3.fieldsOk) hw hr (parse_PE3 o))
theorem paddL2 (o : PE3H) : Statement (.paddL2 o) := by
  intro hw e he
  cases he
  have hr : (zero (PE3H.encT o) 12 6 && zero (PE3H.encT o) 20 4 && zero (PE3H.encT o) 26 6) = true := by
    obtain ⟨d, a, b, h, e⟩ := o
    simp only [zero, bits, PE3H.encT, Bool.and_eq_true, beq_iff_eq]
    omega
  simp only [decodeWord, parseWord, decode8x, Nat.reduceDiv, Nat.reduceEqDiff, ↓reduceIte]
  exact lower_ok (row_ok (regs := PE3H.regsOk) (fields := PE3H.fieldsOk) hw hr (parse_PE3H o))
theorem psub (o : PE3) : Statement (.psub o) := by
  intro hw e he
  cases he
  have hr : (zero (PE3.encT o) 14 2) = true := by
    obtain ⟨d, a, b, e⟩ := o
    simp only [zero, bits, PE3.encT, Bool.and_eq_true, beq_iff_eq]
    omega
  simp only [decodeWord, parseWord, decode8x, Nat.reduceDiv, Nat.reduceEqDiff, ↓reduceIte]
  exact lower_ok (row_ok (regs := PE3.regsOk) (fields := PE3.fieldsOk) hw hr (parse_PE3 o))
theorem psubL2 (o : PE3H) : Statement (.psubL2 o) := by
  intro hw e he
  cases he
  have hr : (zero (PE3H.encT o) 12 6 && zero (PE3H.encT o) 20 4 && zero (PE3H.encT o) 26 6) = true := by
    obtain ⟨d, a, b, h, e⟩ := o
    simp only [zero, bits, PE3H.encT, Bool.and_eq_true, beq_iff_eq]
    omega
  simp only [decodeWord, parseWord, decode8x, Nat.reduceDiv, Nat.reduceEqDiff, ↓reduceIte]
  exact lower_ok (row_ok (regs := PE3H.regsOk) (fields := PE3H.fieldsOk) hw hr (parse_PE3H o))
theorem pmul (o : PE3) : Statement (.pmul o) := by
  intro hw e he
  cases he
  have hr : (zero (PE3.encT o) 14 2) = true := by
    obtain ⟨d, a, b, e⟩ := o
    simp only [zero, bits, PE3.encT, Bool.and_eq_true, beq_iff_eq]
    omega
  simp only [decodeWord, parseWord, decode8x, Nat.reduceDiv, Nat.reduceEqDiff, ↓reduceIte]
  exact lower_ok (row_ok (regs := PE3.regsOk) (fields := PE3.fieldsOk) hw hr (parse_PE3 o))
theorem pmulL2 (o : PE3H) : Statement (.pmulL2 o) := by
  intro hw e he
  cases he
  have hr : (zero (PE3H.encT o) 12 6 && zero (PE3H.encT o) 20 4 && zero (PE3H.encT o) 26 6) = true := by
    obtain ⟨d, a, b, h, e⟩ := o
    simp only [zero, bits, PE3H.encT, Bool.and_eq_true, beq_iff_eq]
    omega
  simp only [decodeWord, parseWord, decode8x, Nat.reduceDiv, Nat.reduceEqDiff, ↓reduceIte]
  exact lower_ok (row_ok (regs := PE3H.regsOk) (fields := PE3H.fieldsOk) hw hr (parse_PE3H o))
theorem pfma (o : PE4H) : Statement (.pfma o) := by
  intro hw e he
  cases he
  have hr : (zero (PE4H.encT o) 21 3 && zero (PE4H.encT o) 26 6) = true := by
    obtain ⟨d, a, b, c, h, e⟩ := o
    simp only [zero, bits, PE4H.encT, Bool.and_eq_true, beq_iff_eq]
    omega
  simp only [decodeWord, parseWord, decode8x, Nat.reduceDiv, Nat.reduceEqDiff, ↓reduceIte]
  exact lower_ok (row_ok (regs := PE4H.regsOk) (fields := PE4H.fieldsOk) hw hr (parse_PE4H o))
theorem pmin (o : PE3) : Statement (.pmin o) := by
  intro hw e he
  cases he
  have hr : (zero (PE3.encT o) 14 2) = true := by
    obtain ⟨d, a, b, e⟩ := o
    simp only [zero, bits, PE3.encT, Bool.and_eq_true, beq_iff_eq]
    omega
  simp only [decodeWord, parseWord, decode8x, Nat.reduceDiv, Nat.reduceEqDiff, ↓reduceIte]
  exact lower_ok (row_ok (regs := PE3.regsOk) (fields := PE3.fieldsOk) hw hr (parse_PE3 o))
theorem pminL2 (o : PE3H) : Statement (.pminL2 o) := by
  intro hw e he
  cases he
  have hr : (zero (PE3H.encT o) 12 6 && zero (PE3H.encT o) 20 4 && zero (PE3H.encT o) 26 6) = true := by
    obtain ⟨d, a, b, h, e⟩ := o
    simp only [zero, bits, PE3H.encT, Bool.and_eq_true, beq_iff_eq]
    omega
  simp only [decodeWord, parseWord, decode8x, Nat.reduceDiv, Nat.reduceEqDiff, ↓reduceIte]
  exact lower_ok (row_ok (regs := PE3H.regsOk) (fields := PE3H.fieldsOk) hw hr (parse_PE3H o))
theorem pmax (o : PE3) : Statement (.pmax o) := by
  intro hw e he
  cases he
  have hr : (zero (PE3.encT o) 14 2) = true := by
    obtain ⟨d, a, b, e⟩ := o
    simp only [zero, bits, PE3.encT, Bool.and_eq_true, beq_iff_eq]
    omega
  simp only [decodeWord, parseWord, decode8x, Nat.reduceDiv, Nat.reduceEqDiff, ↓reduceIte]
  exact lower_ok (row_ok (regs := PE3.regsOk) (fields := PE3.fieldsOk) hw hr (parse_PE3 o))
theorem pmaxL2 (o : PE3H) : Statement (.pmaxL2 o) := by
  intro hw e he
  cases he
  have hr : (zero (PE3H.encT o) 12 6 && zero (PE3H.encT o) 20 4 && zero (PE3H.encT o) 26 6) = true := by
    obtain ⟨d, a, b, h, e⟩ := o
    simp only [zero, bits, PE3H.encT, Bool.and_eq_true, beq_iff_eq]
    omega
  simp only [decodeWord, parseWord, decode8x, Nat.reduceDiv, Nat.reduceEqDiff, ↓reduceIte]
  exact lower_ok (row_ok (regs := PE3H.regsOk) (fields := PE3H.fieldsOk) hw hr (parse_PE3H o))
theorem pdot (o : PE4H) : Statement (.pdot o) := by
  intro hw e he
  cases he
  have hr : (zero (PE4H.encT o) 21 3 && zero (PE4H.encT o) 26 6) = true := by
    obtain ⟨d, a, b, c, h, e⟩ := o
    simp only [zero, bits, PE4H.encT, Bool.and_eq_true, beq_iff_eq]
    omega
  simp only [decodeWord, parseWord, decode8x, Nat.reduceDiv, Nat.reduceEqDiff, ↓reduceIte]
  exact lower_ok (row_ok (regs := PE4H.regsOk) (fields := PE4H.fieldsOk) hw hr (parse_PE4H o))
theorem psum (o : PE3) : Statement (.psum o) := by
  intro hw e he
  cases he
  have hr : (zero (PE3.encT o) 14 2) = true := by
    obtain ⟨d, a, b, e⟩ := o
    simp only [zero, bits, PE3.encT, Bool.and_eq_true, beq_iff_eq]
    omega
  simp only [decodeWord, parseWord, decode8x, Nat.reduceDiv, Nat.reduceEqDiff, ↓reduceIte]
  exact lower_ok (row_ok (regs := PE3.regsOk) (fields := PE3.fieldsOk) hw hr (parse_PE3 o))
theorem psumL2 (o : PE3H) : Statement (.psumL2 o) := by
  intro hw e he
  cases he
  have hr : (zero (PE3H.encT o) 12 6 && zero (PE3H.encT o) 20 4 && zero (PE3H.encT o) 26 6) = true := by
    obtain ⟨d, a, b, h, e⟩ := o
    simp only [zero, bits, PE3H.encT, Bool.and_eq_true, beq_iff_eq]
    omega
  simp only [decodeWord, parseWord, decode8x, Nat.reduceDiv, Nat.reduceEqDiff, ↓reduceIte]
  exact lower_ok (row_ok (regs := PE3H.regsOk) (fields := PE3H.fieldsOk) hw hr (parse_PE3H o))
theorem pshuf (o : PE3) : Statement (.pshuf o) := by
  intro hw e he
  cases he
  have hr : (zero (PE3.encT o) 14 2) = true := by
    obtain ⟨d, a, b, e⟩ := o
    simp only [zero, bits, PE3.encT, Bool.and_eq_true, beq_iff_eq]
    omega
  simp only [decodeWord, parseWord, decode8x, Nat.reduceDiv, Nat.reduceEqDiff, ↓reduceIte]
  exact lower_ok (row_ok (regs := PE3.regsOk) (fields := PE3.fieldsOk) hw hr (parse_PE3 o))
theorem pshufL2 (o : PE3H) : Statement (.pshufL2 o) := by
  intro hw e he
  cases he
  have hr : (zero (PE3H.encT o) 12 6 && zero (PE3H.encT o) 20 4 && zero (PE3H.encT o) 26 6) = true := by
    obtain ⟨d, a, b, h, e⟩ := o
    simp only [zero, bits, PE3H.encT, Bool.and_eq_true, beq_iff_eq]
    omega
  simp only [decodeWord, parseWord, decode8x, Nat.reduceDiv, Nat.reduceEqDiff, ↓reduceIte]
  exact lower_ok (row_ok (regs := PE3H.regsOk) (fields := PE3H.fieldsOk) hw hr (parse_PE3H o))
theorem pbcast (o : PBc) : Statement (.pbcast o) := by
  intro hw e he
  cases he
  have hr : (zero (PBc.encT o) 10 2 && zero (PBc.encT o) 14 2) = true := by
    obtain ⟨d, a, lane, e⟩ := o
    simp only [zero, bits, PBc.encT, Bool.and_eq_true, beq_iff_eq]
    omega
  simp only [decodeWord, parseWord, decode8x, Nat.reduceDiv, Nat.reduceEqDiff, ↓reduceIte]
  exact lower_ok (row_ok (regs := PBc.regsOk) (fields := PBc.fieldsOk) hw hr (parse_PBc o))
theorem pbcastL2 (o : PBcH) : Statement (.pbcastL2 o) := by
  intro hw e he
  cases he
  have hr : (zero (PBcH.encT o) 10 8 && zero (PBcH.encT o) 19 5 && zero (PBcH.encT o) 26 6) = true := by
    obtain ⟨d, a, lane, h, e⟩ := o
    simp only [zero, bits, PBcH.encT, Bool.and_eq_true, beq_iff_eq]
    omega
  simp only [decodeWord, parseWord, decode8x, Nat.reduceDiv, Nat.reduceEqDiff, ↓reduceIte]
  exact lower_ok (row_ok (regs := PBcH.regsOk) (fields := PBcH.fieldsOk) hw hr (parse_PBcH o))
theorem ppack (o : PW3) : Statement (.ppack o) := by
  intro hw e he
  cases he
  simp only [decodeWord, parseWord, decode8x, Nat.reduceDiv, Nat.reduceEqDiff, ↓reduceIte]
  exact lower_ok (row_ok (regs := PW3.regsOk) (fields := PW3.fieldsOk) hw rfl (parse_PW3 o))
theorem ppackL2 (o : PW3H) : Statement (.ppackL2 o) := by
  intro hw e he
  cases he
  have hr : (zero (PW3H.encT o) 12 6 && zero (PW3H.encT o) 20 4) = true := by
    obtain ⟨d, a, b, h, e, wf, part⟩ := o
    simp only [zero, bits, PW3H.encT, Bool.and_eq_true, beq_iff_eq]
    omega
  simp only [decodeWord, parseWord, decode8x, Nat.reduceDiv, Nat.reduceEqDiff, ↓reduceIte]
  exact lower_ok (row_ok (regs := PW3H.regsOk) (fields := PW3H.fieldsOk) hw hr (parse_PW3H o))
theorem punpack (o : PW2) : Statement (.punpack o) := by
  intro hw e he
  cases he
  have hr : (zero (PW2.encT o) 6 6) = true := by
    obtain ⟨d, a, e, wf⟩ := o
    simp only [zero, bits, PW2.encT, Bool.and_eq_true, beq_iff_eq]
    omega
  simp only [decodeWord, parseWord, decode8x, Nat.reduceDiv, Nat.reduceEqDiff, ↓reduceIte]
  exact lower_ok (row_ok (regs := PW2.regsOk) (fields := PW2.fieldsOk) hw hr (parse_PW2 o))
theorem punpackL2 (o : PW2H) : Statement (.punpackL2 o) := by
  intro hw e he
  cases he
  have hr : (zero (PW2H.encT o) 6 12 && zero (PW2H.encT o) 19 5) = true := by
    obtain ⟨d, a, h, e, wf, part⟩ := o
    simp only [zero, bits, PW2H.encT, Bool.and_eq_true, beq_iff_eq]
    omega
  simp only [decodeWord, parseWord, decode8x, Nat.reduceDiv, Nat.reduceEqDiff, ↓reduceIte]
  exact lower_ok (row_ok (regs := PW2H.regsOk) (fields := PW2H.fieldsOk) hw hr (parse_PW2H o))
theorem pq (o : PW3) : Statement (.pq o) := by
  intro hw e he
  cases he
  simp only [decodeWord, parseWord, decode8x, Nat.reduceDiv, Nat.reduceEqDiff, ↓reduceIte]
  exact lower_ok (row_ok (regs := PW3.regsOk) (fields := PW3.fieldsOk) hw rfl (parse_PW3 o))
theorem pqL2 (o : PW4H) : Statement (.pqL2 o) := by
  intro hw e he
  cases he
  have hr : (zero (PW4H.encT o) 21 3) = true := by
    obtain ⟨d, a, b, c, h, e, wf, part⟩ := o
    simp only [zero, bits, PW4H.encT, Bool.and_eq_true, beq_iff_eq]
    omega
  simp only [decodeWord, parseWord, decode8x, Nat.reduceDiv, Nat.reduceEqDiff, ↓reduceIte]
  exact lower_ok (row_ok (regs := PW4H.regsOk) (fields := PW4H.fieldsOk) hw hr (parse_PW4H o))
theorem pdq (o : PW2) : Statement (.pdq o) := by
  intro hw e he
  cases he
  have hr : (zero (PW2.encT o) 6 6) = true := by
    obtain ⟨d, a, e, wf⟩ := o
    simp only [zero, bits, PW2.encT, Bool.and_eq_true, beq_iff_eq]
    omega
  simp only [decodeWord, parseWord, decode8x, Nat.reduceDiv, Nat.reduceEqDiff, ↓reduceIte]
  exact lower_ok (row_ok (regs := PW2.regsOk) (fields := PW2.fieldsOk) hw hr (parse_PW2 o))
theorem pdqL2 (o : PWcH) : Statement (.pdqL2 o) := by
  intro hw e he
  cases he
  have hr : (zero (PWcH.encT o) 6 6 && zero (PWcH.encT o) 19 1 && zero (PWcH.encT o) 21 3) = true := by
    obtain ⟨d, a, c, ha, hc, e, wf, part⟩ := o
    simp only [zero, bits, PWcH.encT, Bool.and_eq_true, beq_iff_eq]
    omega
  simp only [decodeWord, parseWord, decode8x, Nat.reduceDiv, Nat.reduceEqDiff, ↓reduceIte]
  exact lower_ok (row_ok (regs := PWcH.regsOk) (fields := PWcH.fieldsOk) hw hr (parse_PWcH o))
theorem peq (o : PE3) : Statement (.peq o) := by
  intro hw e he
  cases he
  have h : bits (PE3.encT o) 14 2 = 0 := by
    obtain ⟨d, a, b, e⟩ := o
    simp only [bits, PE3.encT]
    omega
  simp only [decodeWord, parseWord, decode8x, Nat.reduceDiv, Nat.reduceEqDiff, ↓reduceIte, h]
  exact lower_ok (row_ok (regs := PE3.regsOk) (fields := PE3.fieldsOk) hw rfl (parse_PE3 o))
theorem peqL2 (o : PE3H) : Statement (.peqL2 o) := by
  intro hw e he
  cases he
  have hr : (zero (PE3H.encT o) 12 6 && zero (PE3H.encT o) 20 4 && zero (PE3H.encT o) 28 4) = true := by
    obtain ⟨d, a, b, h, e⟩ := o
    simp only [zero, bits, PE3H.encT, Bool.and_eq_true, beq_iff_eq]
    omega
  have h : bits (PE3H.encT o) 26 2 = 0 := by
    obtain ⟨d, a, b, h, e⟩ := o
    simp only [bits, PE3H.encT]
    omega
  simp only [decodeWord, parseWord, decode8x, Nat.reduceDiv, Nat.reduceEqDiff, ↓reduceIte, h]
  exact lower_ok (row_ok (regs := PE3H.regsOk) (fields := PE3H.fieldsOk) hw hr (parse_PE3H o))
theorem plt (o : PE3) : Statement (.plt o) := by
  intro hw e he
  cases he
  have h : bits (PE3.encT o + 16384) 14 2 = 1 := by
    obtain ⟨d, a, b, e⟩ := o
    simp only [bits, PE3.encT]
    omega
  simp only [decodeWord, parseWord, decode8x, Nat.reduceDiv, Nat.reduceEqDiff, ↓reduceIte, h, one_ne_zero]
  exact lower_ok (row_ok (regs := PE3.regsOk) (fields := PE3.fieldsOk) hw rfl (parse_PE3_0_16384 o))
theorem pltL2 (o : PE3H) : Statement (.pltL2 o) := by
  intro hw e he
  cases he
  have hr : (zero (PE3H.encT o + 67108864) 12 6 && zero (PE3H.encT o + 67108864) 20 4 && zero (PE3H.encT o + 67108864) 28 4) = true := by
    obtain ⟨d, a, b, h, e⟩ := o
    simp only [zero, bits, PE3H.encT, Bool.and_eq_true, beq_iff_eq]
    omega
  have h : bits (PE3H.encT o + 67108864) 26 2 = 1 := by
    obtain ⟨d, a, b, h, e⟩ := o
    simp only [bits, PE3H.encT]
    omega
  simp only [decodeWord, parseWord, decode8x, Nat.reduceDiv, Nat.reduceEqDiff, ↓reduceIte, h, one_ne_zero]
  exact lower_ok (row_ok (regs := PE3H.regsOk) (fields := PE3H.fieldsOk) hw hr (parse_PE3H_0_67108864 o))
theorem ple (o : PE3) : Statement (.ple o) := by
  intro hw e he
  cases he
  have h : bits (PE3.encT o + 32768) 14 2 = 2 := by
    obtain ⟨d, a, b, e⟩ := o
    simp only [bits, PE3.encT]
    omega
  simp only [decodeWord, parseWord, decode8x, Nat.reduceDiv, Nat.reduceEqDiff, ↓reduceIte, h, OfNat.ofNat_ne_zero, OfNat.ofNat_ne_one]
  exact lower_ok (row_ok (regs := PE3.regsOk) (fields := PE3.fieldsOk) hw rfl (parse_PE3_0_32768 o))
theorem pleL2 (o : PE3H) : Statement (.pleL2 o) := by
  intro hw e he
  cases he
  have hr : (zero (PE3H.encT o + 134217728) 12 6 && zero (PE3H.encT o + 134217728) 20 4 && zero (PE3H.encT o + 134217728) 28 4) = true := by
    obtain ⟨d, a, b, h, e⟩ := o
    simp only [zero, bits, PE3H.encT, Bool.and_eq_true, beq_iff_eq]
    omega
  have h : bits (PE3H.encT o + 134217728) 26 2 = 2 := by
    obtain ⟨d, a, b, h, e⟩ := o
    simp only [bits, PE3H.encT]
    omega
  simp only [decodeWord, parseWord, decode8x, Nat.reduceDiv, Nat.reduceEqDiff, ↓reduceIte, h, OfNat.ofNat_ne_zero, OfNat.ofNat_ne_one]
  exact lower_ok (row_ok (regs := PE3H.regsOk) (fields := PE3H.fieldsOk) hw hr (parse_PE3H_0_134217728 o))
theorem puno (o : PE3) : Statement (.puno o) := by
  intro hw e he
  cases he
  have h : bits (PE3.encT o + 49152) 14 2 = 3 := by
    obtain ⟨d, a, b, e⟩ := o
    simp only [bits, PE3.encT]
    omega
  simp only [decodeWord, parseWord, decode8x, Nat.reduceDiv, Nat.reduceEqDiff, ↓reduceIte, h, OfNat.ofNat_ne_zero, OfNat.ofNat_ne_one]
  exact lower_ok (row_ok (regs := PE3.regsOk) (fields := PE3.fieldsOk) hw rfl (parse_PE3_0_49152 o))
theorem punoL2 (o : PE3H) : Statement (.punoL2 o) := by
  intro hw e he
  cases he
  have hr : (zero (PE3H.encT o + 201326592) 12 6 && zero (PE3H.encT o + 201326592) 20 4 && zero (PE3H.encT o + 201326592) 28 4) = true := by
    obtain ⟨d, a, b, h, e⟩ := o
    simp only [zero, bits, PE3H.encT, Bool.and_eq_true, beq_iff_eq]
    omega
  have h : bits (PE3H.encT o + 201326592) 26 2 = 3 := by
    obtain ⟨d, a, b, h, e⟩ := o
    simp only [bits, PE3H.encT]
    omega
  simp only [decodeWord, parseWord, decode8x, Nat.reduceDiv, Nat.reduceEqDiff, ↓reduceIte, h, OfNat.ofNat_ne_zero, OfNat.ofNat_ne_one]
  exact lower_ok (row_ok (regs := PE3H.regsOk) (fields := PE3H.fieldsOk) hw hr (parse_PE3H_0_201326592 o))
theorem pand (o : F3) : Statement (.pand o) := by
  intro hw e he
  cases he
  have hr : (zero (F3.encT o) 14 2) = true := by
    obtain ⟨d, a, b⟩ := o
    simp only [zero, bits, F3.encT, Bool.and_eq_true, beq_iff_eq]
    omega
  have h : bits (F3.encT o) 12 2 = 0 := by
    obtain ⟨d, a, b⟩ := o
    simp only [bits, F3.encT]
    omega
  simp only [decodeWord, parseWord, decode8x, Nat.reduceDiv, Nat.reduceEqDiff, ↓reduceIte, h]
  exact lower_ok (row_ok (regs := F3.regsOk) (fields := F3.fieldsOk) hw hr (parse_F3 o))
theorem pandL2 (o : F3H) : Statement (.pandL2 o) := by
  intro hw e he
  cases he
  have hr : (zero (F3H.encT o) 12 6 && zero (F3H.encT o) 20 4 && zero (F3H.encT o) 26 6) = true := by
    obtain ⟨d, a, b, h⟩ := o
    simp only [zero, bits, F3H.encT, Bool.and_eq_true, beq_iff_eq]
    omega
  have h : bits (F3H.encT o) 24 2 = 0 := by
    obtain ⟨d, a, b, h⟩ := o
    simp only [bits, F3H.encT]
    omega
  simp only [decodeWord, parseWord, decode8x, Nat.reduceDiv, Nat.reduceEqDiff, ↓reduceIte, h]
  exact lower_ok (row_ok (regs := F3H.regsOk) (fields := F3H.fieldsOk) hw hr (parse_F3H o))
theorem por (o : F3) : Statement (.por o) := by
  intro hw e he
  cases he
  have hr : (zero (F3.encT o + 4096) 14 2) = true := by
    obtain ⟨d, a, b⟩ := o
    simp only [zero, bits, F3.encT, Bool.and_eq_true, beq_iff_eq]
    omega
  have h : bits (F3.encT o + 4096) 12 2 = 1 := by
    obtain ⟨d, a, b⟩ := o
    simp only [bits, F3.encT]
    omega
  simp only [decodeWord, parseWord, decode8x, Nat.reduceDiv, Nat.reduceEqDiff, ↓reduceIte, h, one_ne_zero]
  exact lower_ok (row_ok (regs := F3.regsOk) (fields := F3.fieldsOk) hw hr (parse_F3_0_4096 o))
theorem porL2 (o : F3H) : Statement (.porL2 o) := by
  intro hw e he
  cases he
  have hr : (zero (F3H.encT o + 16777216) 12 6 && zero (F3H.encT o + 16777216) 20 4 && zero (F3H.encT o + 16777216) 26 6) = true := by
    obtain ⟨d, a, b, h⟩ := o
    simp only [zero, bits, F3H.encT, Bool.and_eq_true, beq_iff_eq]
    omega
  have h : bits (F3H.encT o + 16777216) 24 2 = 1 := by
    obtain ⟨d, a, b, h⟩ := o
    simp only [bits, F3H.encT]
    omega
  simp only [decodeWord, parseWord, decode8x, Nat.reduceDiv, Nat.reduceEqDiff, ↓reduceIte, h, one_ne_zero]
  exact lower_ok (row_ok (regs := F3H.regsOk) (fields := F3H.fieldsOk) hw hr (parse_F3H_0_16777216 o))
theorem pxor (o : F3) : Statement (.pxor o) := by
  intro hw e he
  cases he
  have hr : (zero (F3.encT o + 8192) 14 2) = true := by
    obtain ⟨d, a, b⟩ := o
    simp only [zero, bits, F3.encT, Bool.and_eq_true, beq_iff_eq]
    omega
  have h : bits (F3.encT o + 8192) 12 2 = 2 := by
    obtain ⟨d, a, b⟩ := o
    simp only [bits, F3.encT]
    omega
  simp only [decodeWord, parseWord, decode8x, Nat.reduceDiv, Nat.reduceEqDiff, ↓reduceIte, h, OfNat.ofNat_ne_zero, OfNat.ofNat_ne_one]
  exact lower_ok (row_ok (regs := F3.regsOk) (fields := F3.fieldsOk) hw hr (parse_F3_0_8192 o))
theorem pxorL2 (o : F3H) : Statement (.pxorL2 o) := by
  intro hw e he
  cases he
  have hr : (zero (F3H.encT o + 33554432) 12 6 && zero (F3H.encT o + 33554432) 20 4 && zero (F3H.encT o + 33554432) 26 6) = true := by
    obtain ⟨d, a, b, h⟩ := o
    simp only [zero, bits, F3H.encT, Bool.and_eq_true, beq_iff_eq]
    omega
  have h : bits (F3H.encT o + 33554432) 24 2 = 2 := by
    obtain ⟨d, a, b, h⟩ := o
    simp only [bits, F3H.encT]
    omega
  simp only [decodeWord, parseWord, decode8x, Nat.reduceDiv, Nat.reduceEqDiff, ↓reduceIte, h, OfNat.ofNat_ne_zero, OfNat.ofNat_ne_one]
  exact lower_ok (row_ok (regs := F3H.regsOk) (fields := F3H.fieldsOk) hw hr (parse_F3H_0_33554432 o))
theorem pandn (o : F3) : Statement (.pandn o) := by
  intro hw e he
  cases he
  have hr : (zero (F3.encT o + 12288) 14 2) = true := by
    obtain ⟨d, a, b⟩ := o
    simp only [zero, bits, F3.encT, Bool.and_eq_true, beq_iff_eq]
    omega
  have h : bits (F3.encT o + 12288) 12 2 = 3 := by
    obtain ⟨d, a, b⟩ := o
    simp only [bits, F3.encT]
    omega
  simp only [decodeWord, parseWord, decode8x, Nat.reduceDiv, Nat.reduceEqDiff, ↓reduceIte, h, OfNat.ofNat_ne_zero, OfNat.ofNat_ne_one]
  exact lower_ok (row_ok (regs := F3.regsOk) (fields := F3.fieldsOk) hw hr (parse_F3_0_12288 o))
theorem pandnL2 (o : F3H) : Statement (.pandnL2 o) := by
  intro hw e he
  cases he
  have hr : (zero (F3H.encT o + 50331648) 12 6 && zero (F3H.encT o + 50331648) 20 4 && zero (F3H.encT o + 50331648) 26 6) = true := by
    obtain ⟨d, a, b, h⟩ := o
    simp only [zero, bits, F3H.encT, Bool.and_eq_true, beq_iff_eq]
    omega
  have h : bits (F3H.encT o + 50331648) 24 2 = 3 := by
    obtain ⟨d, a, b, h⟩ := o
    simp only [bits, F3H.encT]
    omega
  simp only [decodeWord, parseWord, decode8x, Nat.reduceDiv, Nat.reduceEqDiff, ↓reduceIte, h, OfNat.ofNat_ne_zero, OfNat.ofNat_ne_one]
  exact lower_ok (row_ok (regs := F3H.regsOk) (fields := F3H.fieldsOk) hw hr (parse_F3H_0_50331648 o))
theorem pmov (o : F2) : Statement (.pmov o) := by
  intro hw e he
  cases he
  have hr : (zero (F2.encT o) 6 10) = true := by
    obtain ⟨d, a⟩ := o
    simp only [zero, bits, F2.encT, Bool.and_eq_true, beq_iff_eq]
    omega
  simp only [decodeWord, parseWord, decode9x, Nat.reduceDiv, Nat.reduceEqDiff, ↓reduceIte]
  exact lower_ok (row_ok (regs := F2.regsOk) (fields := F2.fieldsOk) hw hr (parse_F2 o))
theorem pmovL2 (o : F2H) : Statement (.pmovL2 o) := by
  intro hw e he
  cases he
  have hr : (zero (F2H.encT o) 6 12 && zero (F2H.encT o) 19 13) = true := by
    obtain ⟨d, a, h⟩ := o
    simp only [zero, bits, F2H.encT, Bool.and_eq_true, beq_iff_eq]
    omega
  simp only [decodeWord, parseWord, decode9x, Nat.reduceDiv, Nat.reduceEqDiff, ↓reduceIte]
  exact lower_ok (row_ok (regs := F2H.regsOk) (fields := F2H.fieldsOk) hw hr (parse_F2H o))
theorem fmt (o : K32) : Statement (.fmt o) := by
  intro hw e he
  cases he
  have hr : (zero (K32.encD o) 0 6) = true := by
    obtain ⟨k⟩ := o
    simp only [zero, bits, K32.encD, Bool.and_eq_true, beq_iff_eq]
    omega
  simp only [decodeWord, parseWord, decode9x, Nat.reduceDiv, Nat.reduceEqDiff, ↓reduceIte]
  exact lower_ok (row_ok (regs := K32.regsOk) (fields := K32.fieldsOk) hw hr (parse_K32 o))
theorem frcp (o : FP2) : Statement (.frcp o) := by
  intro hw e he
  cases he
  have hr : (zero (FP2.encT o) 6 6 && zero (FP2.encT o) 14 2) = true := by
    obtain ⟨d, a, pr⟩ := o
    simp only [zero, bits, FP2.encT, Bool.and_eq_true, beq_iff_eq]
    omega
  simp only [decodeWord, parseWord, decodeAx, Nat.reduceDiv, Nat.reduceEqDiff, ↓reduceIte]
  exact lower_ok (row_ok (regs := FP2.regsOk) (fields := FP2.fieldsOk) hw hr (parse_FP2 o))
theorem frcpL2 (o : FP2H) : Statement (.frcpL2 o) := by
  intro hw e he
  cases he
  have hr : (zero (FP2H.encT o) 6 12 && zero (FP2H.encT o) 19 5 && zero (FP2H.encT o) 26 6) = true := by
    obtain ⟨d, a, h, pr⟩ := o
    simp only [zero, bits, FP2H.encT, Bool.and_eq_true, beq_iff_eq]
    omega
  simp only [decodeWord, parseWord, decodeAx, Nat.reduceDiv, Nat.reduceEqDiff, ↓reduceIte]
  exact lower_ok (row_ok (regs := FP2H.regsOk) (fields := FP2H.fieldsOk) hw hr (parse_FP2H o))
theorem frsqrt (o : FP2) : Statement (.frsqrt o) := by
  intro hw e he
  cases he
  have hr : (zero (FP2.encT o) 6 6 && zero (FP2.encT o) 14 2) = true := by
    obtain ⟨d, a, pr⟩ := o
    simp only [zero, bits, FP2.encT, Bool.and_eq_true, beq_iff_eq]
    omega
  simp only [decodeWord, parseWord, decodeAx, Nat.reduceDiv, Nat.reduceEqDiff, ↓reduceIte]
  exact lower_ok (row_ok (regs := FP2.regsOk) (fields := FP2.fieldsOk) hw hr (parse_FP2 o))
theorem frsqrtL2 (o : FP2H) : Statement (.frsqrtL2 o) := by
  intro hw e he
  cases he
  have hr : (zero (FP2H.encT o) 6 12 && zero (FP2H.encT o) 19 5 && zero (FP2H.encT o) 26 6) = true := by
    obtain ⟨d, a, h, pr⟩ := o
    simp only [zero, bits, FP2H.encT, Bool.and_eq_true, beq_iff_eq]
    omega
  simp only [decodeWord, parseWord, decodeAx, Nat.reduceDiv, Nat.reduceEqDiff, ↓reduceIte]
  exact lower_ok (row_ok (regs := FP2H.regsOk) (fields := FP2H.fieldsOk) hw hr (parse_FP2H o))
theorem fsqrt (o : FP2) : Statement (.fsqrt o) := by
  intro hw e he
  cases he
  have hr : (zero (FP2.encT o) 6 6 && zero (FP2.encT o) 14 2) = true := by
    obtain ⟨d, a, pr⟩ := o
    simp only [zero, bits, FP2.encT, Bool.and_eq_true, beq_iff_eq]
    omega
  simp only [decodeWord, parseWord, decodeAx, Nat.reduceDiv, Nat.reduceEqDiff, ↓reduceIte]
  exact lower_ok (row_ok (regs := FP2.regsOk) (fields := FP2.fieldsOk) hw hr (parse_FP2 o))
theorem fsqrtL2 (o : FP2H) : Statement (.fsqrtL2 o) := by
  intro hw e he
  cases he
  have hr : (zero (FP2H.encT o) 6 12 && zero (FP2H.encT o) 19 5 && zero (FP2H.encT o) 26 6) = true := by
    obtain ⟨d, a, h, pr⟩ := o
    simp only [zero, bits, FP2H.encT, Bool.and_eq_true, beq_iff_eq]
    omega
  simp only [decodeWord, parseWord, decodeAx, Nat.reduceDiv, Nat.reduceEqDiff, ↓reduceIte]
  exact lower_ok (row_ok (regs := FP2H.regsOk) (fields := FP2H.fieldsOk) hw hr (parse_FP2H o))
theorem fdiv (o : FP3) : Statement (.fdiv o) := by
  intro hw e he
  cases he
  have hr : (zero (FP3.encT o) 14 2) = true := by
    obtain ⟨d, a, b, pr⟩ := o
    simp only [zero, bits, FP3.encT, Bool.and_eq_true, beq_iff_eq]
    omega
  simp only [decodeWord, parseWord, decodeAx, Nat.reduceDiv, Nat.reduceEqDiff, ↓reduceIte]
  exact lower_ok (row_ok (regs := FP3.regsOk) (fields := FP3.fieldsOk) hw hr (parse_FP3 o))
theorem fdivL2 (o : FP3H) : Statement (.fdivL2 o) := by
  intro hw e he
  cases he
  have hr : (zero (FP3H.encT o) 12 6 && zero (FP3H.encT o) 20 4 && zero (FP3H.encT o) 26 6) = true := by
    obtain ⟨d, a, b, h, pr⟩ := o
    simp only [zero, bits, FP3H.encT, Bool.and_eq_true, beq_iff_eq]
    omega
  simp only [decodeWord, parseWord, decodeAx, Nat.reduceDiv, Nat.reduceEqDiff, ↓reduceIte]
  exact lower_ok (row_ok (regs := FP3H.regsOk) (fields := FP3H.fieldsOk) hw hr (parse_FP3H o))
theorem fexp2 (o : FS2) : Statement (.fexp2 o) := by
  intro hw e he
  cases he
  have hr : (zero (FS2.encT o) 6 6 && zero (FS2.encT o) 14 2) = true := by
    obtain ⟨d, a, pr⟩ := o
    simp only [zero, bits, FS2.encT, Bool.and_eq_true, beq_iff_eq]
    omega
  simp only [decodeWord, parseWord, decodeAx, Nat.reduceDiv, Nat.reduceEqDiff, ↓reduceIte]
  exact lower_ok (row_ok (regs := FS2.regsOk) (fields := FS2.fieldsOk) hw hr (parse_FS2 o))
theorem fexp2L2 (o : FS2H) : Statement (.fexp2L2 o) := by
  intro hw e he
  cases he
  have hr : (zero (FS2H.encT o) 6 12 && zero (FS2H.encT o) 19 5 && zero (FS2H.encT o) 26 6) = true := by
    obtain ⟨d, a, h, pr⟩ := o
    simp only [zero, bits, FS2H.encT, Bool.and_eq_true, beq_iff_eq]
    omega
  simp only [decodeWord, parseWord, decodeAx, Nat.reduceDiv, Nat.reduceEqDiff, ↓reduceIte]
  exact lower_ok (row_ok (regs := FS2H.regsOk) (fields := FS2H.fieldsOk) hw hr (parse_FS2H o))
theorem flog2 (o : FS2) : Statement (.flog2 o) := by
  intro hw e he
  cases he
  have hr : (zero (FS2.encT o) 6 6 && zero (FS2.encT o) 14 2) = true := by
    obtain ⟨d, a, pr⟩ := o
    simp only [zero, bits, FS2.encT, Bool.and_eq_true, beq_iff_eq]
    omega
  simp only [decodeWord, parseWord, decodeAx, Nat.reduceDiv, Nat.reduceEqDiff, ↓reduceIte]
  exact lower_ok (row_ok (regs := FS2.regsOk) (fields := FS2.fieldsOk) hw hr (parse_FS2 o))
theorem flog2L2 (o : FS2H) : Statement (.flog2L2 o) := by
  intro hw e he
  cases he
  have hr : (zero (FS2H.encT o) 6 12 && zero (FS2H.encT o) 19 5 && zero (FS2H.encT o) 26 6) = true := by
    obtain ⟨d, a, h, pr⟩ := o
    simp only [zero, bits, FS2H.encT, Bool.and_eq_true, beq_iff_eq]
    omega
  simp only [decodeWord, parseWord, decodeAx, Nat.reduceDiv, Nat.reduceEqDiff, ↓reduceIte]
  exact lower_ok (row_ok (regs := FS2H.regsOk) (fields := FS2H.fieldsOk) hw hr (parse_FS2H o))
theorem ftanh (o : FS2) : Statement (.ftanh o) := by
  intro hw e he
  cases he
  have hr : (zero (FS2.encT o) 6 6 && zero (FS2.encT o) 14 2) = true := by
    obtain ⟨d, a, pr⟩ := o
    simp only [zero, bits, FS2.encT, Bool.and_eq_true, beq_iff_eq]
    omega
  simp only [decodeWord, parseWord, decodeAx, Nat.reduceDiv, Nat.reduceEqDiff, ↓reduceIte]
  exact lower_ok (row_ok (regs := FS2.regsOk) (fields := FS2.fieldsOk) hw hr (parse_FS2 o))
theorem ftanhL2 (o : FS2H) : Statement (.ftanhL2 o) := by
  intro hw e he
  cases he
  have hr : (zero (FS2H.encT o) 6 12 && zero (FS2H.encT o) 19 5 && zero (FS2H.encT o) 26 6) = true := by
    obtain ⟨d, a, h, pr⟩ := o
    simp only [zero, bits, FS2H.encT, Bool.and_eq_true, beq_iff_eq]
    omega
  simp only [decodeWord, parseWord, decodeAx, Nat.reduceDiv, Nat.reduceEqDiff, ↓reduceIte]
  exact lower_ok (row_ok (regs := FS2H.regsOk) (fields := FS2H.fieldsOk) hw hr (parse_FS2H o))
theorem fsigm (o : FS2) : Statement (.fsigm o) := by
  intro hw e he
  cases he
  have hr : (zero (FS2.encT o) 6 6 && zero (FS2.encT o) 14 2) = true := by
    obtain ⟨d, a, pr⟩ := o
    simp only [zero, bits, FS2.encT, Bool.and_eq_true, beq_iff_eq]
    omega
  simp only [decodeWord, parseWord, decodeAx, Nat.reduceDiv, Nat.reduceEqDiff, ↓reduceIte]
  exact lower_ok (row_ok (regs := FS2.regsOk) (fields := FS2.fieldsOk) hw hr (parse_FS2 o))
theorem fsigmL2 (o : FS2H) : Statement (.fsigmL2 o) := by
  intro hw e he
  cases he
  have hr : (zero (FS2H.encT o) 6 12 && zero (FS2H.encT o) 19 5 && zero (FS2H.encT o) 26 6) = true := by
    obtain ⟨d, a, h, pr⟩ := o
    simp only [zero, bits, FS2H.encT, Bool.and_eq_true, beq_iff_eq]
    omega
  simp only [decodeWord, parseWord, decodeAx, Nat.reduceDiv, Nat.reduceEqDiff, ↓reduceIte]
  exact lower_ok (row_ok (regs := FS2H.regsOk) (fields := FS2H.fieldsOk) hw hr (parse_FS2H o))
theorem send (o : SendO) : Statement (.send o) := by
  intro hw e he
  cases he
  have hr : (zero (SendO.encT o) 10 14 && zero (SendO.encT o) 29 3) = true := by
    obtain ⟨d, a, cls, nm1, sc, gm⟩ := o
    simp only [zero, bits, SendO.encT, Bool.and_eq_true, beq_iff_eq]
    omega
  simp only [decodeWord, parseWord, decodeBx, Nat.reduceDiv, Nat.reduceEqDiff, ↓reduceIte]
  exact upper_ok (row_ok (regs := SendO.regsOk) (fields := SendO.fieldsOk) hw hr (parse_SendO o))
theorem sendn (o : SendnO) : Statement (.sendn o) := by
  intro hw e he
  cases he
  have hr : (zero (SendnO.encT o) 0 18 && zero (SendnO.encT o) 22 2 && zero (SendnO.encT o) 49 15) = true := by
    obtain ⟨d, cls, nm1, dx, dy, sc, gm⟩ := o
    simp only [zero, bits, SendnO.encT, Bool.and_eq_true, beq_iff_eq]
    omega
  simp only [decodeWord, parseWord, decodeBx, Nat.reduceDiv, Nat.reduceEqDiff, ↓reduceIte]
  exact upper_ok (row_ok (regs := SendnO.regsOk) (fields := SendnO.fieldsOk) hw hr (parse_SendnO o))
theorem recv (o : RecvR) : Statement (.recv o) := by
  intro hw e he
  cases he
  have hr : (zero (RecvR.encT o) 9 3) = true := by
    obtain ⟨d, a, cls, sc, gm⟩ := o
    simp only [zero, bits, RecvR.encT, Bool.and_eq_true, beq_iff_eq]
    omega
  have h : bits (RecvR.encT o) 8 1 = 0 := by
    obtain ⟨d, a, cls, sc, gm⟩ := o
    simp only [bits, RecvR.encT]
    omega
  simp only [decodeWord, parseWord, decodeBx, Nat.reduceDiv, Nat.reduceEqDiff, ↓reduceIte, h]
  exact upper_ok (row_ok (regs := RecvR.regsOk) (fields := RecvR.fieldsOk) hw hr (parse_RecvR o))
theorem recvL2 (o : RecvX) : Statement (.recvL2 o) := by
  intro hw e he
  cases he
  have hr : (zero (RecvX.encT o) 9 15 && zero (RecvX.encT o) 29 3) = true := by
    obtain ⟨d, a, cls, sc, gm⟩ := o
    simp only [zero, bits, RecvX.encT, Bool.and_eq_true, beq_iff_eq]
    omega
  have h : bits (RecvX.encT o) 8 1 = 0 := by
    obtain ⟨d, a, cls, sc, gm⟩ := o
    simp only [bits, RecvX.encT]
    omega
  simp only [decodeWord, parseWord, decodeBx, Nat.reduceDiv, Nat.reduceEqDiff, ↓reduceIte, h]
  exact upper_ok (row_ok (regs := RecvX.regsOk) (fields := RecvX.fieldsOk) hw hr (parse_RecvX o))
theorem recvTry (o : RecvR) : Statement (.recvTry o) := by
  intro hw e he
  cases he
  have hr : (zero (RecvR.encT o + 256) 9 3) = true := by
    obtain ⟨d, a, cls, sc, gm⟩ := o
    simp only [zero, bits, RecvR.encT, Bool.and_eq_true, beq_iff_eq]
    omega
  have h : bits (RecvR.encT o + 256) 8 1 = 1 := by
    obtain ⟨d, a, cls, sc, gm⟩ := o
    simp only [bits, RecvR.encT]
    omega
  simp only [decodeWord, parseWord, decodeBx, Nat.reduceDiv, Nat.reduceEqDiff, ↓reduceIte, h, one_ne_zero]
  exact upper_ok (row_ok (regs := RecvR.regsOk) (fields := RecvR.fieldsOk) hw hr (parse_RecvR_0_256 o))
theorem recvTryL2 (o : RecvX) : Statement (.recvTryL2 o) := by
  intro hw e he
  cases he
  have hr : (zero (RecvX.encT o + 256) 9 15 && zero (RecvX.encT o + 256) 29 3) = true := by
    obtain ⟨d, a, cls, sc, gm⟩ := o
    simp only [zero, bits, RecvX.encT, Bool.and_eq_true, beq_iff_eq]
    omega
  have h : bits (RecvX.encT o + 256) 8 1 = 1 := by
    obtain ⟨d, a, cls, sc, gm⟩ := o
    simp only [bits, RecvX.encT]
    omega
  simp only [decodeWord, parseWord, decodeBx, Nat.reduceDiv, Nat.reduceEqDiff, ↓reduceIte, h, one_ne_zero]
  exact upper_ok (row_ok (regs := RecvX.regsOk) (fields := RecvX.fieldsOk) hw hr (parse_RecvX_0_256 o))
theorem mstat (o : GCls) : Statement (.mstat o) := by
  intro hw e he
  cases he
  have hr : (zero (GCls.encT o) 0 6 && zero (GCls.encT o) 8 4 && zero (GCls.encT o) 13 3) = true := by
    obtain ⟨d, cls⟩ := o
    simp only [zero, bits, GCls.encT, Bool.and_eq_true, beq_iff_eq]
    omega
  have h : bits (GCls.encT o) 12 1 = 0 := by
    obtain ⟨d, cls⟩ := o
    simp only [bits, GCls.encT]
    omega
  simp only [decodeWord, parseWord, decodeBx, Nat.reduceDiv, Nat.reduceEqDiff, ↓reduceIte, h]
  exact upper_ok (row_ok (regs := GCls.regsOk) (fields := GCls.fieldsOk) hw hr (parse_GCls o))
theorem mstatL2 (o : GCls) : Statement (.mstatL2 o) := by
  intro hw e he
  cases he
  have hr : (zero (GCls.encT o) 0 6 && zero (GCls.encT o) 8 16 && zero (GCls.encT o) 25 7) = true := by
    obtain ⟨d, cls⟩ := o
    simp only [zero, bits, GCls.encT, Bool.and_eq_true, beq_iff_eq]
    omega
  have h : bits (GCls.encT o) 24 1 = 0 := by
    obtain ⟨d, cls⟩ := o
    simp only [bits, GCls.encT]
    omega
  simp only [decodeWord, parseWord, decodeBx, Nat.reduceDiv, Nat.reduceEqDiff, ↓reduceIte, h]
  exact upper_ok (row_ok (regs := GCls.regsOk) (fields := GCls.fieldsOk) hw hr (parse_GCls o))
theorem mstatClr (o : GCls) : Statement (.mstatClr o) := by
  intro hw e he
  cases he
  have hr : (zero (GCls.encT o + 4096) 0 6 && zero (GCls.encT o + 4096) 8 4 && zero (GCls.encT o + 4096) 13 3) = true := by
    obtain ⟨d, cls⟩ := o
    simp only [zero, bits, GCls.encT, Bool.and_eq_true, beq_iff_eq]
    omega
  have h : bits (GCls.encT o + 4096) 12 1 = 1 := by
    obtain ⟨d, cls⟩ := o
    simp only [bits, GCls.encT]
    omega
  simp only [decodeWord, parseWord, decodeBx, Nat.reduceDiv, Nat.reduceEqDiff, ↓reduceIte, h, one_ne_zero]
  exact upper_ok (row_ok (regs := GCls.regsOk) (fields := GCls.fieldsOk) hw hr (parse_GCls_0_4096 o))
theorem mstatClrL2 (o : GCls) : Statement (.mstatClrL2 o) := by
  intro hw e he
  cases he
  have hr : (zero (GCls.encT o + 16777216) 0 6 && zero (GCls.encT o + 16777216) 8 16 && zero (GCls.encT o + 16777216) 25 7) = true := by
    obtain ⟨d, cls⟩ := o
    simp only [zero, bits, GCls.encT, Bool.and_eq_true, beq_iff_eq]
    omega
  have h : bits (GCls.encT o + 16777216) 24 1 = 1 := by
    obtain ⟨d, cls⟩ := o
    simp only [bits, GCls.encT]
    omega
  simp only [decodeWord, parseWord, decodeBx, Nat.reduceDiv, Nat.reduceEqDiff, ↓reduceIte, h, one_ne_zero]
  exact upper_ok (row_ok (regs := GCls.regsOk) (fields := GCls.fieldsOk) hw hr (parse_GCls_0_16777216 o))
theorem qend (o : QendO) : Statement (.qend o) := by
  intro hw e he
  cases he
  have hr : (zero (QendO.encT o) 6 10 && (bits (QendO.encD o + 48) 2 4 == 12)) = true := by
    obtain ⟨port, a⟩ := o
    simp only [zero, bits, QendO.encD, QendO.encT, Bool.and_eq_true, beq_iff_eq]
    omega
  have h : ¬ 52 ≤ QendO.encD o + 48 := by
    simp only [QendO.encD]; omega
  simp only [decodeWord, parseWord, decodeBx, Nat.reduceDiv, Nat.reduceEqDiff, ↓reduceIte, h]
  exact upper_ok (row_ok (regs := QendO.regsOk) (fields := QendO.fieldsOk) hw hr (parse_QendO_48_0 o))
theorem qctlSt (o : QctlO) : Statement (.qctlSt o) := by
  intro hw e he
  cases he
  have hr : (zero (QctlO.encT o) 11 5) = true := by
    obtain ⟨d, a, pc⟩ := o
    simp only [zero, bits, QctlO.encT, Bool.and_eq_true, beq_iff_eq]
    omega
  have h : bits (QctlO.encT o) 8 3 = 0 := by
    obtain ⟨d, a, pc⟩ := o
    simp only [bits, QctlO.encT]
    omega
  simp only [decodeWord, parseWord, decodeBx, Nat.reduceDiv, Nat.reduceEqDiff, ↓reduceIte, h]
  exact upper_ok (row_ok (regs := QctlO.regsOk) (fields := QctlO.fieldsOk) hw hr (parse_QctlO o))
theorem qctlStL2 (o : QctlO) : Statement (.qctlStL2 o) := by
  intro hw e he
  cases he
  have hr : (zero (QctlO.encT o) 11 21) = true := by
    obtain ⟨d, a, pc⟩ := o
    simp only [zero, bits, QctlO.encT, Bool.and_eq_true, beq_iff_eq]
    omega
  have h : bits (QctlO.encT o) 8 3 = 0 := by
    obtain ⟨d, a, pc⟩ := o
    simp only [bits, QctlO.encT]
    omega
  simp only [decodeWord, parseWord, decodeBx, Nat.reduceDiv, Nat.reduceEqDiff, ↓reduceIte, h]
  exact upper_ok (row_ok (regs := QctlO.regsOk) (fields := QctlO.fieldsOk) hw hr (parse_QctlO o))
theorem qctlClr (o : QctlO) : Statement (.qctlClr o) := by
  intro hw e he
  cases he
  have hr : (zero (QctlO.encT o + 256) 11 5) = true := by
    obtain ⟨d, a, pc⟩ := o
    simp only [zero, bits, QctlO.encT, Bool.and_eq_true, beq_iff_eq]
    omega
  have h : bits (QctlO.encT o + 256) 8 3 = 1 := by
    obtain ⟨d, a, pc⟩ := o
    simp only [bits, QctlO.encT]
    omega
  simp only [decodeWord, parseWord, decodeBx, Nat.reduceDiv, Nat.reduceEqDiff, ↓reduceIte, h, one_ne_zero]
  exact upper_ok (row_ok (regs := QctlO.regsOk) (fields := QctlO.fieldsOk) hw hr (parse_QctlO_0_256 o))
theorem qctlClrL2 (o : QctlO) : Statement (.qctlClrL2 o) := by
  intro hw e he
  cases he
  have hr : (zero (QctlO.encT o + 256) 11 21) = true := by
    obtain ⟨d, a, pc⟩ := o
    simp only [zero, bits, QctlO.encT, Bool.and_eq_true, beq_iff_eq]
    omega
  have h : bits (QctlO.encT o + 256) 8 3 = 1 := by
    obtain ⟨d, a, pc⟩ := o
    simp only [bits, QctlO.encT]
    omega
  simp only [decodeWord, parseWord, decodeBx, Nat.reduceDiv, Nat.reduceEqDiff, ↓reduceIte, h, one_ne_zero]
  exact upper_ok (row_ok (regs := QctlO.regsOk) (fields := QctlO.fieldsOk) hw hr (parse_QctlO_0_256 o))
theorem qctlBind (o : QctlO) : Statement (.qctlBind o) := by
  intro hw e he
  cases he
  have hr : (zero (QctlO.encT o + 512) 11 5) = true := by
    obtain ⟨d, a, pc⟩ := o
    simp only [zero, bits, QctlO.encT, Bool.and_eq_true, beq_iff_eq]
    omega
  have h : bits (QctlO.encT o + 512) 8 3 = 2 := by
    obtain ⟨d, a, pc⟩ := o
    simp only [bits, QctlO.encT]
    omega
  simp only [decodeWord, parseWord, decodeBx, Nat.reduceDiv, Nat.reduceEqDiff, ↓reduceIte, h, OfNat.ofNat_ne_zero, OfNat.ofNat_ne_one]
  exact upper_ok (row_ok (regs := QctlO.regsOk) (fields := QctlO.fieldsOk) hw hr (parse_QctlO_0_512 o))
theorem qctlBindL2 (o : QctlO) : Statement (.qctlBindL2 o) := by
  intro hw e he
  cases he
  have hr : (zero (QctlO.encT o + 512) 11 21) = true := by
    obtain ⟨d, a, pc⟩ := o
    simp only [zero, bits, QctlO.encT, Bool.and_eq_true, beq_iff_eq]
    omega
  have h : bits (QctlO.encT o + 512) 8 3 = 2 := by
    obtain ⟨d, a, pc⟩ := o
    simp only [bits, QctlO.encT]
    omega
  simp only [decodeWord, parseWord, decodeBx, Nat.reduceDiv, Nat.reduceEqDiff, ↓reduceIte, h, OfNat.ofNat_ne_zero, OfNat.ofNat_ne_one]
  exact upper_ok (row_ok (regs := QctlO.regsOk) (fields := QctlO.fieldsOk) hw hr (parse_QctlO_0_512 o))
theorem qret : Statement .qret := by
  intro _ e he
  cases he
  rfl
theorem get (o : XferO) : Statement (.get o) := by
  intro hw e he
  cases he
  have hr : (zero (XferO.encT o) 12 6 && zero (XferO.encT o) 22 2 && zero (XferO.encT o) 32 32) = true := by
    obtain ⟨d, a, b, ctr, rmod⟩ := o
    simp only [zero, bits, XferO.encT, Bool.and_eq_true, beq_iff_eq]
    omega
  simp only [decodeWord, parseWord, decodeBx, Nat.reduceDiv, Nat.reduceEqDiff, ↓reduceIte]
  exact upper_ok (row_ok (regs := XferO.regsOk) (fields := XferO.fieldsOk) hw hr (parse_XferO o))
theorem put (o : XferO) : Statement (.put o) := by
  intro hw e he
  cases he
  have hr : (zero (XferO.encT o) 12 6 && zero (XferO.encT o) 22 2 && zero (XferO.encT o) 32 32) = true := by
    obtain ⟨d, a, b, ctr, rmod⟩ := o
    simp only [zero, bits, XferO.encT, Bool.and_eq_true, beq_iff_eq]
    omega
  simp only [decodeWord, parseWord, decodeBx, Nat.reduceDiv, Nat.reduceEqDiff, ↓reduceIte]
  exact upper_ok (row_ok (regs := XferO.regsOk) (fields := XferO.fieldsOk) hw hr (parse_XferO o))
theorem getx (o : XferI) : Statement (.getx o) := by
  intro hw e he
  cases he
  have hr : (zero (XferI.encT o) 36 28) = true := by
    obtain ⟨d, a, b, c, ctr, esz, rmod, ish, isz⟩ := o
    simp only [zero, bits, XferI.encT, Bool.and_eq_true, beq_iff_eq]
    omega
  simp only [decodeWord, parseWord, decodeBx, Nat.reduceDiv, Nat.reduceEqDiff, ↓reduceIte]
  exact upper_ok (row_ok (regs := XferI.regsOk) (fields := XferI.fieldsOk) hw hr (parse_XferI o))
theorem putx (o : XferI) : Statement (.putx o) := by
  intro hw e he
  cases he
  have hr : (zero (XferI.encT o) 36 28) = true := by
    obtain ⟨d, a, b, c, ctr, esz, rmod, ish, isz⟩ := o
    simp only [zero, bits, XferI.encT, Bool.and_eq_true, beq_iff_eq]
    omega
  simp only [decodeWord, parseWord, decodeBx, Nat.reduceDiv, Nat.reduceEqDiff, ↓reduceIte]
  exact upper_ok (row_ok (regs := XferI.regsOk) (fields := XferI.fieldsOk) hw hr (parse_XferI o))
theorem cwait (o : CtrO) : Statement (.cwait o) := by
  intro hw e he
  cases he
  have hr : (zero (CtrO.encT o) 10 6) = true := by
    obtain ⟨d, a, ctr⟩ := o
    simp only [zero, bits, CtrO.encT, Bool.and_eq_true, beq_iff_eq]
    omega
  simp only [decodeWord, parseWord, decodeBx, Nat.reduceDiv, Nat.reduceEqDiff, ↓reduceIte]
  exact upper_ok (row_ok (regs := CtrO.regsOk) (fields := CtrO.fieldsOk) hw hr (parse_CtrO o))
theorem cwaitL2 (o : CtrO) : Statement (.cwaitL2 o) := by
  intro hw e he
  cases he
  have hr : (zero (CtrO.encT o) 10 22) = true := by
    obtain ⟨d, a, ctr⟩ := o
    simp only [zero, bits, CtrO.encT, Bool.and_eq_true, beq_iff_eq]
    omega
  simp only [decodeWord, parseWord, decodeBx, Nat.reduceDiv, Nat.reduceEqDiff, ↓reduceIte]
  exact upper_ok (row_ok (regs := CtrO.regsOk) (fields := CtrO.fieldsOk) hw hr (parse_CtrO o))
theorem cop (o : CtrO) : Statement (.cop o) := by
  intro hw e he
  cases he
  have hr : (zero (CtrO.encT o) 10 6) = true := by
    obtain ⟨d, a, ctr⟩ := o
    simp only [zero, bits, CtrO.encT, Bool.and_eq_true, beq_iff_eq]
    omega
  simp only [decodeWord, parseWord, decodeBx, Nat.reduceDiv, Nat.reduceEqDiff, ↓reduceIte]
  exact upper_ok (row_ok (regs := CtrO.regsOk) (fields := CtrO.fieldsOk) hw hr (parse_CtrO o))
theorem copL2 (o : CtrO) : Statement (.copL2 o) := by
  intro hw e he
  cases he
  have hr : (zero (CtrO.encT o) 10 22) = true := by
    obtain ⟨d, a, ctr⟩ := o
    simp only [zero, bits, CtrO.encT, Bool.and_eq_true, beq_iff_eq]
    omega
  simp only [decodeWord, parseWord, decodeBx, Nat.reduceDiv, Nat.reduceEqDiff, ↓reduceIte]
  exact upper_ok (row_ok (regs := CtrO.regsOk) (fields := CtrO.fieldsOk) hw hr (parse_CtrO o))
theorem mbind (o : MbindO) : Statement (.mbind o) := by
  intro hw e he
  cases he
  have hr : (zero (MbindO.encD o) 2 4 && zero (MbindO.encT o) 12 6 && zero (MbindO.encT o) 22 2 && zero (MbindO.encT o) 26 38) = true := by
    obtain ⟨mi, a, b, slot, trig, cls⟩ := o
    simp only [zero, bits, MbindO.encD, MbindO.encT, Bool.and_eq_true, beq_iff_eq]
    omega
  simp only [decodeWord, parseWord, decodeBx, Nat.reduceDiv, Nat.reduceEqDiff, ↓reduceIte]
  exact upper_ok (row_ok (regs := MbindO.regsOk) (fields := MbindO.fieldsOk) hw hr (parse_MbindO o))
theorem gbarArr (o : GbarA) : Statement (.gbarArr o) := by
  intro hw e he
  cases he
  have hr : (zero (GbarA.encD o) 4 2 && zero (GbarA.encT o) 0 16) = true := by
    obtain ⟨gm⟩ := o
    simp only [zero, bits, GbarA.encD, GbarA.encT, Bool.and_eq_true, beq_iff_eq]
    omega
  have h : bits (GbarA.encD o) 2 2 = 0 := by
    obtain ⟨gm⟩ := o
    simp only [bits, GbarA.encD]
    omega
  simp only [decodeWord, parseWord, decodeCx, Nat.reduceDiv, Nat.reduceEqDiff, ↓reduceIte, h]
  exact upper_ok (row_ok (regs := GbarA.regsOk) (fields := GbarA.fieldsOk) hw hr (parse_GbarA o))
theorem gbarWait (o : GbarG) : Statement (.gbarWait o) := by
  intro hw e he
  cases he
  have hr : (zero (GbarG.encD o + 4) 4 2 && zero (GbarG.encT o) 6 10) = true := by
    obtain ⟨gm, a⟩ := o
    simp only [zero, bits, GbarG.encD, GbarG.encT, Bool.and_eq_true, beq_iff_eq]
    omega
  have h : bits (GbarG.encD o + 4) 2 2 = 1 := by
    obtain ⟨gm, a⟩ := o
    simp only [bits, GbarG.encD]
    omega
  simp only [decodeWord, parseWord, decodeCx, Nat.reduceDiv, Nat.reduceEqDiff, ↓reduceIte, h, one_ne_zero]
  exact upper_ok (row_ok (regs := GbarG.regsOk) (fields := GbarG.fieldsOk) hw hr (parse_GbarG_4_0 o))
theorem gbar (o : GbarG) : Statement (.gbar o) := by
  intro hw e he
  cases he
  have hr : (zero (GbarG.encD o + 8) 4 2 && zero (GbarG.encT o) 6 10) = true := by
    obtain ⟨gm, a⟩ := o
    simp only [zero, bits, GbarG.encD, GbarG.encT, Bool.and_eq_true, beq_iff_eq]
    omega
  have h : bits (GbarG.encD o + 8) 2 2 = 2 := by
    obtain ⟨gm, a⟩ := o
    simp only [bits, GbarG.encD]
    omega
  simp only [decodeWord, parseWord, decodeCx, Nat.reduceDiv, Nat.reduceEqDiff, ↓reduceIte, h, OfNat.ofNat_ne_zero, OfNat.ofNat_ne_one]
  exact upper_ok (row_ok (regs := GbarG.regsOk) (fields := GbarG.fieldsOk) hw hr (parse_GbarG_8_0 o))
theorem gredSum (o : GredR) : Statement (.gredSum o) := by
  intro hw e he
  cases he
  have hr : (zero (GredR.encT o) 9 3) = true := by
    obtain ⟨d, a, gm, file, ty⟩ := o
    simp only [zero, bits, GredR.encT, Bool.and_eq_true, beq_iff_eq]
    omega
  have h : bits (GredR.encT o) 12 3 = 0 := by
    obtain ⟨d, a, gm, file, ty⟩ := o
    simp only [bits, GredR.encT]
    omega
  simp only [decodeWord, parseWord, decodeCx, Nat.reduceDiv, Nat.reduceEqDiff, ↓reduceIte, h]
  exact upper_ok (row_ok (regs := GredR.regsOk) (fields := GredR.fieldsOk) hw hr (parse_GredR o))
theorem gredSumL2 (o : GredX) : Statement (.gredSumL2 o) := by
  intro hw e he
  cases he
  have hr : (zero (GredX.encT o) 9 15 && zero (GredX.encT o) 28 4) = true := by
    obtain ⟨d, a, gm, file, ty⟩ := o
    simp only [zero, bits, GredX.encT, Bool.and_eq_true, beq_iff_eq]
    omega
  have h : bits (GredX.encT o) 24 3 = 0 := by
    obtain ⟨d, a, gm, file, ty⟩ := o
    simp only [bits, GredX.encT]
    omega
  simp only [decodeWord, parseWord, decodeCx, Nat.reduceDiv, Nat.reduceEqDiff, ↓reduceIte, h]
  exact upper_ok (row_ok (regs := GredX.regsOk) (fields := GredX.fieldsOk) hw hr (parse_GredX o))
theorem gredMin (o : GredR) : Statement (.gredMin o) := by
  intro hw e he
  cases he
  have hr : (zero (GredR.encT o + 4096) 9 3) = true := by
    obtain ⟨d, a, gm, file, ty⟩ := o
    simp only [zero, bits, GredR.encT, Bool.and_eq_true, beq_iff_eq]
    omega
  have h : bits (GredR.encT o + 4096) 12 3 = 1 := by
    obtain ⟨d, a, gm, file, ty⟩ := o
    simp only [bits, GredR.encT]
    omega
  simp only [decodeWord, parseWord, decodeCx, Nat.reduceDiv, Nat.reduceEqDiff, ↓reduceIte, h, one_ne_zero]
  exact upper_ok (row_ok (regs := GredR.regsOk) (fields := GredR.fieldsOk) hw hr (parse_GredR_0_4096 o))
theorem gredMinL2 (o : GredX) : Statement (.gredMinL2 o) := by
  intro hw e he
  cases he
  have hr : (zero (GredX.encT o + 16777216) 9 15 && zero (GredX.encT o + 16777216) 28 4) = true := by
    obtain ⟨d, a, gm, file, ty⟩ := o
    simp only [zero, bits, GredX.encT, Bool.and_eq_true, beq_iff_eq]
    omega
  have h : bits (GredX.encT o + 16777216) 24 3 = 1 := by
    obtain ⟨d, a, gm, file, ty⟩ := o
    simp only [bits, GredX.encT]
    omega
  simp only [decodeWord, parseWord, decodeCx, Nat.reduceDiv, Nat.reduceEqDiff, ↓reduceIte, h, one_ne_zero]
  exact upper_ok (row_ok (regs := GredX.regsOk) (fields := GredX.fieldsOk) hw hr (parse_GredX_0_16777216 o))
theorem gredMax (o : GredR) : Statement (.gredMax o) := by
  intro hw e he
  cases he
  have hr : (zero (GredR.encT o + 8192) 9 3) = true := by
    obtain ⟨d, a, gm, file, ty⟩ := o
    simp only [zero, bits, GredR.encT, Bool.and_eq_true, beq_iff_eq]
    omega
  have h : bits (GredR.encT o + 8192) 12 3 = 2 := by
    obtain ⟨d, a, gm, file, ty⟩ := o
    simp only [bits, GredR.encT]
    omega
  simp only [decodeWord, parseWord, decodeCx, Nat.reduceDiv, Nat.reduceEqDiff, ↓reduceIte, h, OfNat.ofNat_ne_zero, OfNat.ofNat_ne_one]
  exact upper_ok (row_ok (regs := GredR.regsOk) (fields := GredR.fieldsOk) hw hr (parse_GredR_0_8192 o))
theorem gredMaxL2 (o : GredX) : Statement (.gredMaxL2 o) := by
  intro hw e he
  cases he
  have hr : (zero (GredX.encT o + 33554432) 9 15 && zero (GredX.encT o + 33554432) 28 4) = true := by
    obtain ⟨d, a, gm, file, ty⟩ := o
    simp only [zero, bits, GredX.encT, Bool.and_eq_true, beq_iff_eq]
    omega
  have h : bits (GredX.encT o + 33554432) 24 3 = 2 := by
    obtain ⟨d, a, gm, file, ty⟩ := o
    simp only [bits, GredX.encT]
    omega
  simp only [decodeWord, parseWord, decodeCx, Nat.reduceDiv, Nat.reduceEqDiff, ↓reduceIte, h, OfNat.ofNat_ne_zero, OfNat.ofNat_ne_one]
  exact upper_ok (row_ok (regs := GredX.regsOk) (fields := GredX.fieldsOk) hw hr (parse_GredX_0_33554432 o))
theorem gredAnd (o : GredR) : Statement (.gredAnd o) := by
  intro hw e he
  cases he
  have hr : (zero (GredR.encT o + 12288) 9 3) = true := by
    obtain ⟨d, a, gm, file, ty⟩ := o
    simp only [zero, bits, GredR.encT, Bool.and_eq_true, beq_iff_eq]
    omega
  have h : bits (GredR.encT o + 12288) 12 3 = 3 := by
    obtain ⟨d, a, gm, file, ty⟩ := o
    simp only [bits, GredR.encT]
    omega
  simp only [decodeWord, parseWord, decodeCx, Nat.reduceDiv, Nat.reduceEqDiff, ↓reduceIte, h, OfNat.ofNat_ne_zero, OfNat.ofNat_ne_one]
  exact upper_ok (row_ok (regs := GredR.regsOk) (fields := GredR.fieldsOk) hw hr (parse_GredR_0_12288 o))
theorem gredAndL2 (o : GredX) : Statement (.gredAndL2 o) := by
  intro hw e he
  cases he
  have hr : (zero (GredX.encT o + 50331648) 9 15 && zero (GredX.encT o + 50331648) 28 4) = true := by
    obtain ⟨d, a, gm, file, ty⟩ := o
    simp only [zero, bits, GredX.encT, Bool.and_eq_true, beq_iff_eq]
    omega
  have h : bits (GredX.encT o + 50331648) 24 3 = 3 := by
    obtain ⟨d, a, gm, file, ty⟩ := o
    simp only [bits, GredX.encT]
    omega
  simp only [decodeWord, parseWord, decodeCx, Nat.reduceDiv, Nat.reduceEqDiff, ↓reduceIte, h, OfNat.ofNat_ne_zero, OfNat.ofNat_ne_one]
  exact upper_ok (row_ok (regs := GredX.regsOk) (fields := GredX.fieldsOk) hw hr (parse_GredX_0_50331648 o))
theorem gredOr (o : GredR) : Statement (.gredOr o) := by
  intro hw e he
  cases he
  have hr : (zero (GredR.encT o + 16384) 9 3) = true := by
    obtain ⟨d, a, gm, file, ty⟩ := o
    simp only [zero, bits, GredR.encT, Bool.and_eq_true, beq_iff_eq]
    omega
  have h : bits (GredR.encT o + 16384) 12 3 = 4 := by
    obtain ⟨d, a, gm, file, ty⟩ := o
    simp only [bits, GredR.encT]
    omega
  simp only [decodeWord, parseWord, decodeCx, Nat.reduceDiv, Nat.reduceEqDiff, ↓reduceIte, h, OfNat.ofNat_ne_zero, OfNat.ofNat_ne_one]
  exact upper_ok (row_ok (regs := GredR.regsOk) (fields := GredR.fieldsOk) hw hr (parse_GredR_0_16384 o))
theorem gredOrL2 (o : GredX) : Statement (.gredOrL2 o) := by
  intro hw e he
  cases he
  have hr : (zero (GredX.encT o + 67108864) 9 15 && zero (GredX.encT o + 67108864) 28 4) = true := by
    obtain ⟨d, a, gm, file, ty⟩ := o
    simp only [zero, bits, GredX.encT, Bool.and_eq_true, beq_iff_eq]
    omega
  have h : bits (GredX.encT o + 67108864) 24 3 = 4 := by
    obtain ⟨d, a, gm, file, ty⟩ := o
    simp only [bits, GredX.encT]
    omega
  simp only [decodeWord, parseWord, decodeCx, Nat.reduceDiv, Nat.reduceEqDiff, ↓reduceIte, h, OfNat.ofNat_ne_zero, OfNat.ofNat_ne_one]
  exact upper_ok (row_ok (regs := GredX.regsOk) (fields := GredX.fieldsOk) hw hr (parse_GredX_0_67108864 o))
theorem gcast (o : GcastR) : Statement (.gcast o) := by
  intro hw e he
  cases he
  have hr : (zero (GcastR.encT o) 9 7) = true := by
    obtain ⟨d, a, gm, file⟩ := o
    simp only [zero, bits, GcastR.encT, Bool.and_eq_true, beq_iff_eq]
    omega
  simp only [decodeWord, parseWord, decodeCx, Nat.reduceDiv, Nat.reduceEqDiff, ↓reduceIte]
  exact upper_ok (row_ok (regs := GcastR.regsOk) (fields := GcastR.fieldsOk) hw hr (parse_GcastR o))
theorem gcastL2 (o : GcastX) : Statement (.gcastL2 o) := by
  intro hw e he
  cases he
  have hr : (zero (GcastX.encT o) 9 3 && zero (GcastX.encT o) 18 14) = true := by
    obtain ⟨d, a, c, gm, file⟩ := o
    simp only [zero, bits, GcastX.encT, Bool.and_eq_true, beq_iff_eq]
    omega
  simp only [decodeWord, parseWord, decodeCx, Nat.reduceDiv, Nat.reduceEqDiff, ↓reduceIte]
  exact upper_ok (row_ok (regs := GcastX.regsOk) (fields := GcastX.fieldsOk) hw hr (parse_GcastX o))
theorem gsum (o : GsumO) : Statement (.gsum o) := by
  intro hw e he
  cases he
  have hr : (zero (GsumO.encT o) 8 24) = true := by
    obtain ⟨d, a, gm⟩ := o
    simp only [zero, bits, GsumO.encT, Bool.and_eq_true, beq_iff_eq]
    omega
  simp only [decodeWord, parseWord, decodeCx, Nat.reduceDiv, Nat.reduceEqDiff, ↓reduceIte]
  exact upper_ok (row_ok (regs := GsumO.regsOk) (fields := GsumO.fieldsOk) hw hr (parse_GsumO o))
theorem semsig (o : SemR) : Statement (.semsig o) := by
  intro hw e he
  cases he
  simp only [decodeWord, parseWord, decodeCx, Nat.reduceDiv, Nat.reduceEqDiff, ↓reduceIte]
  exact upper_ok (row_ok (regs := SemR.regsOk) (fields := SemR.fieldsOk) hw rfl (parse_SemR o))
theorem semsigL2 (o : SemX) : Statement (.semsigL2 o) := by
  intro hw e he
  cases he
  have hr : (zero (SemX.encT o) 12 12 && zero (SemX.encT o) 29 3) = true := by
    obtain ⟨d, a, b, sc, gm⟩ := o
    simp only [zero, bits, SemX.encT, Bool.and_eq_true, beq_iff_eq]
    omega
  simp only [decodeWord, parseWord, decodeCx, Nat.reduceDiv, Nat.reduceEqDiff, ↓reduceIte]
  exact upper_ok (row_ok (regs := SemX.regsOk) (fields := SemX.fieldsOk) hw hr (parse_SemX o))
theorem semwait (o : SemR) : Statement (.semwait o) := by
  intro hw e he
  cases he
  simp only [decodeWord, parseWord, decodeCx, Nat.reduceDiv, Nat.reduceEqDiff, ↓reduceIte]
  exact upper_ok (row_ok (regs := SemR.regsOk) (fields := SemR.fieldsOk) hw rfl (parse_SemR o))
theorem semwaitL2 (o : SemX) : Statement (.semwaitL2 o) := by
  intro hw e he
  cases he
  have hr : (zero (SemX.encT o) 12 12 && zero (SemX.encT o) 29 3) = true := by
    obtain ⟨d, a, b, sc, gm⟩ := o
    simp only [zero, bits, SemX.encT, Bool.and_eq_true, beq_iff_eq]
    omega
  simp only [decodeWord, parseWord, decodeCx, Nat.reduceDiv, Nat.reduceEqDiff, ↓reduceIte]
  exact upper_ok (row_ok (regs := SemX.regsOk) (fields := SemX.fieldsOk) hw hr (parse_SemX o))
theorem semread (o : GG) : Statement (.semread o) := by
  intro hw e he
  cases he
  have hr : (zero (GG.encT o) 6 10) = true := by
    obtain ⟨d, a⟩ := o
    simp only [zero, bits, GG.encT, Bool.and_eq_true, beq_iff_eq]
    omega
  simp only [decodeWord, parseWord, decodeCx, Nat.reduceDiv, Nat.reduceEqDiff, ↓reduceIte]
  exact upper_ok (row_ok (regs := GG.regsOk) (fields := GG.fieldsOk) hw hr (parse_GG o))
theorem semreadL2 (o : GG) : Statement (.semreadL2 o) := by
  intro hw e he
  cases he
  have hr : (zero (GG.encT o) 6 26) = true := by
    obtain ⟨d, a⟩ := o
    simp only [zero, bits, GG.encT, Bool.and_eq_true, beq_iff_eq]
    omega
  simp only [decodeWord, parseWord, decodeCx, Nat.reduceDiv, Nat.reduceEqDiff, ↓reduceIte]
  exact upper_ok (row_ok (regs := GG.regsOk) (fields := GG.fieldsOk) hw hr (parse_GG o))
theorem estatSt (o : GG) : Statement (.estatSt o) := by
  intro hw e he
  cases he
  have hr : (zero (GG.encT o) 9 7) = true := by
    obtain ⟨d, a⟩ := o
    simp only [zero, bits, GG.encT, Bool.and_eq_true, beq_iff_eq]
    omega
  have h : bits (GG.encT o) 6 3 = 0 := by
    obtain ⟨d, a⟩ := o
    simp only [bits, GG.encT]
    omega
  simp only [decodeWord, parseWord, decodeCx, Nat.reduceDiv, Nat.reduceEqDiff, ↓reduceIte, h]
  exact upper_ok (row_ok (regs := GG.regsOk) (fields := GG.fieldsOk) hw hr (parse_GG o))
theorem estatStL2 (o : GG) : Statement (.estatStL2 o) := by
  intro hw e he
  cases he
  have hr : (zero (GG.encT o) 9 23) = true := by
    obtain ⟨d, a⟩ := o
    simp only [zero, bits, GG.encT, Bool.and_eq_true, beq_iff_eq]
    omega
  have h : bits (GG.encT o) 6 3 = 0 := by
    obtain ⟨d, a⟩ := o
    simp only [bits, GG.encT]
    omega
  simp only [decodeWord, parseWord, decodeCx, Nat.reduceDiv, Nat.reduceEqDiff, ↓reduceIte, h]
  exact upper_ok (row_ok (regs := GG.regsOk) (fields := GG.fieldsOk) hw hr (parse_GG o))
theorem estatRec (o : GG) : Statement (.estatRec o) := by
  intro hw e he
  cases he
  have hr : (zero (GG.encT o + 64) 9 7) = true := by
    obtain ⟨d, a⟩ := o
    simp only [zero, bits, GG.encT, Bool.and_eq_true, beq_iff_eq]
    omega
  have h : bits (GG.encT o + 64) 6 3 = 1 := by
    obtain ⟨d, a⟩ := o
    simp only [bits, GG.encT]
    omega
  simp only [decodeWord, parseWord, decodeCx, Nat.reduceDiv, Nat.reduceEqDiff, ↓reduceIte, h, one_ne_zero]
  exact upper_ok (row_ok (regs := GG.regsOk) (fields := GG.fieldsOk) hw hr (parse_GG_0_64 o))
theorem estatRecL2 (o : GG) : Statement (.estatRecL2 o) := by
  intro hw e he
  cases he
  have hr : (zero (GG.encT o + 64) 9 23) = true := by
    obtain ⟨d, a⟩ := o
    simp only [zero, bits, GG.encT, Bool.and_eq_true, beq_iff_eq]
    omega
  have h : bits (GG.encT o + 64) 6 3 = 1 := by
    obtain ⟨d, a⟩ := o
    simp only [bits, GG.encT]
    omega
  simp only [decodeWord, parseWord, decodeCx, Nat.reduceDiv, Nat.reduceEqDiff, ↓reduceIte, h, one_ne_zero]
  exact upper_ok (row_ok (regs := GG.regsOk) (fields := GG.fieldsOk) hw hr (parse_GG_0_64 o))
theorem estatRes (o : GG) : Statement (.estatRes o) := by
  intro hw e he
  cases he
  have hr : (zero (GG.encT o + 128) 9 7) = true := by
    obtain ⟨d, a⟩ := o
    simp only [zero, bits, GG.encT, Bool.and_eq_true, beq_iff_eq]
    omega
  have h : bits (GG.encT o + 128) 6 3 = 2 := by
    obtain ⟨d, a⟩ := o
    simp only [bits, GG.encT]
    omega
  simp only [decodeWord, parseWord, decodeCx, Nat.reduceDiv, Nat.reduceEqDiff, ↓reduceIte, h, OfNat.ofNat_ne_zero, OfNat.ofNat_ne_one]
  exact upper_ok (row_ok (regs := GG.regsOk) (fields := GG.fieldsOk) hw hr (parse_GG_0_128 o))
theorem estatResL2 (o : GG) : Statement (.estatResL2 o) := by
  intro hw e he
  cases he
  have hr : (zero (GG.encT o + 128) 9 23) = true := by
    obtain ⟨d, a⟩ := o
    simp only [zero, bits, GG.encT, Bool.and_eq_true, beq_iff_eq]
    omega
  have h : bits (GG.encT o + 128) 6 3 = 2 := by
    obtain ⟨d, a⟩ := o
    simp only [bits, GG.encT]
    omega
  simp only [decodeWord, parseWord, decodeCx, Nat.reduceDiv, Nat.reduceEqDiff, ↓reduceIte, h, OfNat.ofNat_ne_zero, OfNat.ofNat_ne_one]
  exact upper_ok (row_ok (regs := GG.regsOk) (fields := GG.fieldsOk) hw hr (parse_GG_0_128 o))
theorem estatDel (o : GG) : Statement (.estatDel o) := by
  intro hw e he
  cases he
  have hr : (zero (GG.encT o + 192) 9 7) = true := by
    obtain ⟨d, a⟩ := o
    simp only [zero, bits, GG.encT, Bool.and_eq_true, beq_iff_eq]
    omega
  have h : bits (GG.encT o + 192) 6 3 = 3 := by
    obtain ⟨d, a⟩ := o
    simp only [bits, GG.encT]
    omega
  simp only [decodeWord, parseWord, decodeCx, Nat.reduceDiv, Nat.reduceEqDiff, ↓reduceIte, h, OfNat.ofNat_ne_zero, OfNat.ofNat_ne_one]
  exact upper_ok (row_ok (regs := GG.regsOk) (fields := GG.fieldsOk) hw hr (parse_GG_0_192 o))
theorem estatDelL2 (o : GG) : Statement (.estatDelL2 o) := by
  intro hw e he
  cases he
  have hr : (zero (GG.encT o + 192) 9 23) = true := by
    obtain ⟨d, a⟩ := o
    simp only [zero, bits, GG.encT, Bool.and_eq_true, beq_iff_eq]
    omega
  have h : bits (GG.encT o + 192) 6 3 = 3 := by
    obtain ⟨d, a⟩ := o
    simp only [bits, GG.encT]
    omega
  simp only [decodeWord, parseWord, decodeCx, Nat.reduceDiv, Nat.reduceEqDiff, ↓reduceIte, h, OfNat.ofNat_ne_zero, OfNat.ofNat_ne_one]
  exact upper_ok (row_ok (regs := GG.regsOk) (fields := GG.fieldsOk) hw hr (parse_GG_0_192 o))
theorem estatWin (o : GD) : Statement (.estatWin o) := by
  intro hw e he
  cases he
  have hr : (zero (GD.encT o + 256) 0 6 && zero (GD.encT o + 256) 9 7) = true := by
    obtain ⟨d⟩ := o
    simp only [zero, bits, GD.encT, Bool.and_eq_true, beq_iff_eq]
    omega
  have h : bits (GD.encT o + 256) 6 3 = 4 := by
    obtain ⟨d⟩ := o
    simp only [bits, GD.encT]
    omega
  simp only [decodeWord, parseWord, decodeCx, Nat.reduceDiv, Nat.reduceEqDiff, ↓reduceIte, h, OfNat.ofNat_ne_zero, OfNat.ofNat_ne_one]
  exact upper_ok (row_ok (regs := GD.regsOk) (fields := GD.fieldsOk) hw hr (parse_GD_0_256 o))
theorem estatWinL2 (o : GD) : Statement (.estatWinL2 o) := by
  intro hw e he
  cases he
  have hr : (zero (GD.encT o + 256) 0 6 && zero (GD.encT o + 256) 9 23) = true := by
    obtain ⟨d⟩ := o
    simp only [zero, bits, GD.encT, Bool.and_eq_true, beq_iff_eq]
    omega
  have h : bits (GD.encT o + 256) 6 3 = 4 := by
    obtain ⟨d⟩ := o
    simp only [bits, GD.encT]
    omega
  simp only [decodeWord, parseWord, decodeCx, Nat.reduceDiv, Nat.reduceEqDiff, ↓reduceIte, h, OfNat.ofNat_ne_zero, OfNat.ofNat_ne_one]
  exact upper_ok (row_ok (regs := GD.regsOk) (fields := GD.fieldsOk) hw hr (parse_GD_0_256 o))
theorem estatQ (o : GD) : Statement (.estatQ o) := by
  intro hw e he
  cases he
  have hr : (zero (GD.encT o + 320) 0 6 && zero (GD.encT o + 320) 9 7) = true := by
    obtain ⟨d⟩ := o
    simp only [zero, bits, GD.encT, Bool.and_eq_true, beq_iff_eq]
    omega
  have h : bits (GD.encT o + 320) 6 3 = 5 := by
    obtain ⟨d⟩ := o
    simp only [bits, GD.encT]
    omega
  simp only [decodeWord, parseWord, decodeCx, Nat.reduceDiv, Nat.reduceEqDiff, ↓reduceIte, h, OfNat.ofNat_ne_zero, OfNat.ofNat_ne_one]
  exact upper_ok (row_ok (regs := GD.regsOk) (fields := GD.fieldsOk) hw hr (parse_GD_0_320 o))
theorem estatQL2 (o : GD) : Statement (.estatQL2 o) := by
  intro hw e he
  cases he
  have hr : (zero (GD.encT o + 320) 0 6 && zero (GD.encT o + 320) 9 23) = true := by
    obtain ⟨d⟩ := o
    simp only [zero, bits, GD.encT, Bool.and_eq_true, beq_iff_eq]
    omega
  have h : bits (GD.encT o + 320) 6 3 = 5 := by
    obtain ⟨d⟩ := o
    simp only [bits, GD.encT]
    omega
  simp only [decodeWord, parseWord, decodeCx, Nat.reduceDiv, Nat.reduceEqDiff, ↓reduceIte, h, OfNat.ofNat_ne_zero, OfNat.ofNat_ne_one]
  exact upper_ok (row_ok (regs := GD.regsOk) (fields := GD.fieldsOk) hw hr (parse_GD_0_320 o))
theorem evcRd (o : EvcN) : Statement (.evcRd o) := by
  intro hw e he
  cases he
  have hr : (zero (EvcN.encT o) 0 6 && zero (EvcN.encT o) 12 4) = true := by
    obtain ⟨d, n⟩ := o
    simp only [zero, bits, EvcN.encT, Bool.and_eq_true, beq_iff_eq]
    omega
  have h : bits (EvcN.encT o) 10 2 = 0 := by
    obtain ⟨d, n⟩ := o
    simp only [bits, EvcN.encT]
    omega
  simp only [decodeWord, parseWord, decodeCx, Nat.reduceDiv, Nat.reduceEqDiff, ↓reduceIte, h]
  exact upper_ok (row_ok (regs := EvcN.regsOk) (fields := EvcN.fieldsOk) hw hr (parse_EvcN o))
theorem evcRdL2 (o : EvcN) : Statement (.evcRdL2 o) := by
  intro hw e he
  cases he
  have hr : (zero (EvcN.encT o) 0 6 && zero (EvcN.encT o) 12 20) = true := by
    obtain ⟨d, n⟩ := o
    simp only [zero, bits, EvcN.encT, Bool.and_eq_true, beq_iff_eq]
    omega
  have h : bits (EvcN.encT o) 10 2 = 0 := by
    obtain ⟨d, n⟩ := o
    simp only [bits, EvcN.encT]
    omega
  simp only [decodeWord, parseWord, decodeCx, Nat.reduceDiv, Nat.reduceEqDiff, ↓reduceIte, h]
  exact upper_ok (row_ok (regs := EvcN.regsOk) (fields := EvcN.fieldsOk) hw hr (parse_EvcN o))
theorem evcSet (o : EvcA) : Statement (.evcSet o) := by
  intro hw e he
  cases he
  have hr : (zero (EvcA.encT o + 1024) 12 4) = true := by
    obtain ⟨d, a, n⟩ := o
    simp only [zero, bits, EvcA.encT, Bool.and_eq_true, beq_iff_eq]
    omega
  have h : bits (EvcA.encT o + 1024) 10 2 = 1 := by
    obtain ⟨d, a, n⟩ := o
    simp only [bits, EvcA.encT]
    omega
  simp only [decodeWord, parseWord, decodeCx, Nat.reduceDiv, Nat.reduceEqDiff, ↓reduceIte, h, one_ne_zero]
  exact upper_ok (row_ok (regs := EvcA.regsOk) (fields := EvcA.fieldsOk) hw hr (parse_EvcA_0_1024 o))
theorem evcSetL2 (o : EvcA) : Statement (.evcSetL2 o) := by
  intro hw e he
  cases he
  have hr : (zero (EvcA.encT o + 1024) 12 20) = true := by
    obtain ⟨d, a, n⟩ := o
    simp only [zero, bits, EvcA.encT, Bool.and_eq_true, beq_iff_eq]
    omega
  have h : bits (EvcA.encT o + 1024) 10 2 = 1 := by
    obtain ⟨d, a, n⟩ := o
    simp only [bits, EvcA.encT]
    omega
  simp only [decodeWord, parseWord, decodeCx, Nat.reduceDiv, Nat.reduceEqDiff, ↓reduceIte, h, one_ne_zero]
  exact upper_ok (row_ok (regs := EvcA.regsOk) (fields := EvcA.fieldsOk) hw hr (parse_EvcA_0_1024 o))
theorem evcRc (o : EvcN) : Statement (.evcRc o) := by
  intro hw e he
  cases he
  have hr : (zero (EvcN.encT o + 2048) 0 6 && zero (EvcN.encT o + 2048) 12 4) = true := by
    obtain ⟨d, n⟩ := o
    simp only [zero, bits, EvcN.encT, Bool.and_eq_true, beq_iff_eq]
    omega
  have h : bits (EvcN.encT o + 2048) 10 2 = 2 := by
    obtain ⟨d, n⟩ := o
    simp only [bits, EvcN.encT]
    omega
  simp only [decodeWord, parseWord, decodeCx, Nat.reduceDiv, Nat.reduceEqDiff, ↓reduceIte, h, OfNat.ofNat_ne_zero, OfNat.ofNat_ne_one]
  exact upper_ok (row_ok (regs := EvcN.regsOk) (fields := EvcN.fieldsOk) hw hr (parse_EvcN_0_2048 o))
theorem evcRcL2 (o : EvcN) : Statement (.evcRcL2 o) := by
  intro hw e he
  cases he
  have hr : (zero (EvcN.encT o + 2048) 0 6 && zero (EvcN.encT o + 2048) 12 20) = true := by
    obtain ⟨d, n⟩ := o
    simp only [zero, bits, EvcN.encT, Bool.and_eq_true, beq_iff_eq]
    omega
  have h : bits (EvcN.encT o + 2048) 10 2 = 2 := by
    obtain ⟨d, n⟩ := o
    simp only [bits, EvcN.encT]
    omega
  simp only [decodeWord, parseWord, decodeCx, Nat.reduceDiv, Nat.reduceEqDiff, ↓reduceIte, h, OfNat.ofNat_ne_zero, OfNat.ofNat_ne_one]
  exact upper_ok (row_ok (regs := EvcN.regsOk) (fields := EvcN.fieldsOk) hw hr (parse_EvcN_0_2048 o))
theorem vbind (o : VbM) : Statement (.vbind o) := by
  intro hw e he
  cases he
  have hr : (zero (VbM.encD o) 3 3 && zero (VbM.encT o + 192) 8 1 && (bits (VbM.encT o + 192) 6 2 == 3)) = true := by
    obtain ⟨cs, base, off⟩ := o
    simp only [zero, bits, VbM.encD, VbM.encT, Bool.and_eq_true, beq_iff_eq]
    omega
  have h : bits (VbM.encD o) 2 1 = 0 := by
    obtain ⟨cs, base, off⟩ := o
    simp only [bits, VbM.encD]
    omega
  simp only [decodeWord, parseWord, decodeDx, Nat.reduceDiv, Nat.reduceEqDiff, ↓reduceIte, h]
  exact upper_ok (row_ok (regs := VbM.regsOk) (fields := VbM.fieldsOk) hw hr (parse_VbM_0_192 o))
theorem vbindL2 (o : VbX) : Statement (.vbindL2 o) := by
  intro hw e he
  cases he
  have hr : (zero (VbX.encD o) 2 4 && zero (VbX.encT o + 192) 8 6 && (bits (VbX.encT o + 192) 6 2 == 3)) = true := by
    obtain ⟨cs, base, ix, body⟩ := o
    simp only [zero, bits, VbX.encD, VbX.encT, Bool.and_eq_true, beq_iff_eq]
    omega
  simp only [decodeWord, parseWord, decodeDx, Nat.reduceDiv, Nat.reduceEqDiff, ↓reduceIte]
  exact upper_ok (row_ok (regs := VbX.regsOk) (fields := VbX.fieldsOk) hw hr (parse_VbX_0_192 o))
theorem vbindOff (o : VbOff) : Statement (.vbindOff o) := by
  intro hw e he
  cases he
  have hr : (zero (VbOff.encD o + 4) 3 3 && zero (VbOff.encT o) 0 16) = true := by
    obtain ⟨cs⟩ := o
    simp only [zero, bits, VbOff.encD, VbOff.encT, Bool.and_eq_true, beq_iff_eq]
    omega
  have h : bits (VbOff.encD o + 4) 2 1 = 1 := by
    obtain ⟨cs⟩ := o
    simp only [bits, VbOff.encD]
    omega
  simp only [decodeWord, parseWord, decodeDx, Nat.reduceDiv, Nat.reduceEqDiff, ↓reduceIte, h, one_ne_zero]
  exact upper_ok (row_ok (regs := VbOff.regsOk) (fields := VbOff.fieldsOk) hw hr (parse_VbOff_4_0 o))
theorem cld (o : CldO) : Statement (.cld o) := by
  intro hw e he
  cases he
  have hr : (zero (CldO.encT o) 8 16 && zero (CldO.encT o) 25 7) = true := by
    obtain ⟨d, a, cs, sx⟩ := o
    simp only [zero, bits, CldO.encT, Bool.and_eq_true, beq_iff_eq]
    omega
  simp only [decodeWord, parseWord, decodeDx, Nat.reduceDiv, Nat.reduceEqDiff, ↓reduceIte]
  exact upper_ok (row_ok (regs := CldO.regsOk) (fields := CldO.fieldsOk) hw hr (parse_CldO o))
theorem cst (o : CvO) : Statement (.cst o) := by
  intro hw e he
  cases he
  have hr : (zero (CvO.encT o) 8 24) = true := by
    obtain ⟨d, a, cs⟩ := o
    simp only [zero, bits, CvO.encT, Bool.and_eq_true, beq_iff_eq]
    omega
  simp only [decodeWord, parseWord, decodeDx, Nat.reduceDiv, Nat.reduceEqDiff, ↓reduceIte]
  exact upper_ok (row_ok (regs := CvO.regsOk) (fields := CvO.fieldsOk) hw hr (parse_CvO o))
theorem cprobe (o : CvO) : Statement (.cprobe o) := by
  intro hw e he
  cases he
  have hr : (zero (CvO.encT o) 8 24) = true := by
    obtain ⟨d, a, cs⟩ := o
    simp only [zero, bits, CvO.encT, Bool.and_eq_true, beq_iff_eq]
    omega
  simp only [decodeWord, parseWord, decodeDx, Nat.reduceDiv, Nat.reduceEqDiff, ↓reduceIte]
  exact upper_ok (row_ok (regs := CvO.regsOk) (fields := CvO.fieldsOk) hw hr (parse_CvO o))
theorem camoadd (o : CamoO) : Statement (.camoadd o) := by
  intro hw e he
  cases he
  have hr : (zero (CamoO.encT o) 8 4 && zero (CamoO.encT o) 18 6 && zero (CamoO.encT o) 30 2) = true := by
    obtain ⟨d, a, c, cs, acq, rel⟩ := o
    simp only [zero, bits, CamoO.encT, Bool.and_eq_true, beq_iff_eq]
    omega
  have h : bits (CamoO.encT o) 24 4 = 0 := by
    obtain ⟨d, a, c, cs, acq, rel⟩ := o
    simp only [bits, CamoO.encT]
    omega
  simp only [decodeWord, parseWord, decodeDx, Nat.reduceDiv, Nat.reduceEqDiff, ↓reduceIte, h]
  exact upper_ok (row_ok (regs := CamoO.regsOk) (fields := CamoO.fieldsOk) hw hr (parse_CamoO o))
theorem camoand (o : CamoO) : Statement (.camoand o) := by
  intro hw e he
  cases he
  have hr : (zero (CamoO.encT o + 16777216) 8 4 && zero (CamoO.encT o + 16777216) 18 6 && zero (CamoO.encT o + 16777216) 30 2) = true := by
    obtain ⟨d, a, c, cs, acq, rel⟩ := o
    simp only [zero, bits, CamoO.encT, Bool.and_eq_true, beq_iff_eq]
    omega
  have h : bits (CamoO.encT o + 16777216) 24 4 = 1 := by
    obtain ⟨d, a, c, cs, acq, rel⟩ := o
    simp only [bits, CamoO.encT]
    omega
  simp only [decodeWord, parseWord, decodeDx, Nat.reduceDiv, Nat.reduceEqDiff, ↓reduceIte, h, one_ne_zero]
  exact upper_ok (row_ok (regs := CamoO.regsOk) (fields := CamoO.fieldsOk) hw hr (parse_CamoO_0_16777216 o))
theorem camoor (o : CamoO) : Statement (.camoor o) := by
  intro hw e he
  cases he
  have hr : (zero (CamoO.encT o + 33554432) 8 4 && zero (CamoO.encT o + 33554432) 18 6 && zero (CamoO.encT o + 33554432) 30 2) = true := by
    obtain ⟨d, a, c, cs, acq, rel⟩ := o
    simp only [zero, bits, CamoO.encT, Bool.and_eq_true, beq_iff_eq]
    omega
  have h : bits (CamoO.encT o + 33554432) 24 4 = 2 := by
    obtain ⟨d, a, c, cs, acq, rel⟩ := o
    simp only [bits, CamoO.encT]
    omega
  simp only [decodeWord, parseWord, decodeDx, Nat.reduceDiv, Nat.reduceEqDiff, ↓reduceIte, h, OfNat.ofNat_ne_zero, OfNat.ofNat_ne_one]
  exact upper_ok (row_ok (regs := CamoO.regsOk) (fields := CamoO.fieldsOk) hw hr (parse_CamoO_0_33554432 o))
theorem camoxor (o : CamoO) : Statement (.camoxor o) := by
  intro hw e he
  cases he
  have hr : (zero (CamoO.encT o + 50331648) 8 4 && zero (CamoO.encT o + 50331648) 18 6 && zero (CamoO.encT o + 50331648) 30 2) = true := by
    obtain ⟨d, a, c, cs, acq, rel⟩ := o
    simp only [zero, bits, CamoO.encT, Bool.and_eq_true, beq_iff_eq]
    omega
  have h : bits (CamoO.encT o + 50331648) 24 4 = 3 := by
    obtain ⟨d, a, c, cs, acq, rel⟩ := o
    simp only [bits, CamoO.encT]
    omega
  simp only [decodeWord, parseWord, decodeDx, Nat.reduceDiv, Nat.reduceEqDiff, ↓reduceIte, h, OfNat.ofNat_ne_zero, OfNat.ofNat_ne_one]
  exact upper_ok (row_ok (regs := CamoO.regsOk) (fields := CamoO.fieldsOk) hw hr (parse_CamoO_0_50331648 o))
theorem camomin (o : CamoO) : Statement (.camomin o) := by
  intro hw e he
  cases he
  have hr : (zero (CamoO.encT o + 67108864) 8 4 && zero (CamoO.encT o + 67108864) 18 6 && zero (CamoO.encT o + 67108864) 30 2) = true := by
    obtain ⟨d, a, c, cs, acq, rel⟩ := o
    simp only [zero, bits, CamoO.encT, Bool.and_eq_true, beq_iff_eq]
    omega
  have h : bits (CamoO.encT o + 67108864) 24 4 = 4 := by
    obtain ⟨d, a, c, cs, acq, rel⟩ := o
    simp only [bits, CamoO.encT]
    omega
  simp only [decodeWord, parseWord, decodeDx, Nat.reduceDiv, Nat.reduceEqDiff, ↓reduceIte, h, OfNat.ofNat_ne_zero, OfNat.ofNat_ne_one]
  exact upper_ok (row_ok (regs := CamoO.regsOk) (fields := CamoO.fieldsOk) hw hr (parse_CamoO_0_67108864 o))
theorem camomax (o : CamoO) : Statement (.camomax o) := by
  intro hw e he
  cases he
  have hr : (zero (CamoO.encT o + 83886080) 8 4 && zero (CamoO.encT o + 83886080) 18 6 && zero (CamoO.encT o + 83886080) 30 2) = true := by
    obtain ⟨d, a, c, cs, acq, rel⟩ := o
    simp only [zero, bits, CamoO.encT, Bool.and_eq_true, beq_iff_eq]
    omega
  have h : bits (CamoO.encT o + 83886080) 24 4 = 5 := by
    obtain ⟨d, a, c, cs, acq, rel⟩ := o
    simp only [bits, CamoO.encT]
    omega
  simp only [decodeWord, parseWord, decodeDx, Nat.reduceDiv, Nat.reduceEqDiff, ↓reduceIte, h, OfNat.ofNat_ne_zero, OfNat.ofNat_ne_one]
  exact upper_ok (row_ok (regs := CamoO.regsOk) (fields := CamoO.fieldsOk) hw hr (parse_CamoO_0_83886080 o))
theorem camominz (o : CamoO) : Statement (.camominz o) := by
  intro hw e he
  cases he
  have hr : (zero (CamoO.encT o + 100663296) 8 4 && zero (CamoO.encT o + 100663296) 18 6 && zero (CamoO.encT o + 100663296) 30 2) = true := by
    obtain ⟨d, a, c, cs, acq, rel⟩ := o
    simp only [zero, bits, CamoO.encT, Bool.and_eq_true, beq_iff_eq]
    omega
  have h : bits (CamoO.encT o + 100663296) 24 4 = 6 := by
    obtain ⟨d, a, c, cs, acq, rel⟩ := o
    simp only [bits, CamoO.encT]
    omega
  simp only [decodeWord, parseWord, decodeDx, Nat.reduceDiv, Nat.reduceEqDiff, ↓reduceIte, h, OfNat.ofNat_ne_zero, OfNat.ofNat_ne_one]
  exact upper_ok (row_ok (regs := CamoO.regsOk) (fields := CamoO.fieldsOk) hw hr (parse_CamoO_0_100663296 o))
theorem camomaxz (o : CamoO) : Statement (.camomaxz o) := by
  intro hw e he
  cases he
  have hr : (zero (CamoO.encT o + 117440512) 8 4 && zero (CamoO.encT o + 117440512) 18 6 && zero (CamoO.encT o + 117440512) 30 2) = true := by
    obtain ⟨d, a, c, cs, acq, rel⟩ := o
    simp only [zero, bits, CamoO.encT, Bool.and_eq_true, beq_iff_eq]
    omega
  have h : bits (CamoO.encT o + 117440512) 24 4 = 7 := by
    obtain ⟨d, a, c, cs, acq, rel⟩ := o
    simp only [bits, CamoO.encT]
    omega
  simp only [decodeWord, parseWord, decodeDx, Nat.reduceDiv, Nat.reduceEqDiff, ↓reduceIte, h, OfNat.ofNat_ne_zero, OfNat.ofNat_ne_one]
  exact upper_ok (row_ok (regs := CamoO.regsOk) (fields := CamoO.fieldsOk) hw hr (parse_CamoO_0_117440512 o))
theorem camoswap (o : CamoO) : Statement (.camoswap o) := by
  intro hw e he
  cases he
  have hr : (zero (CamoO.encT o + 134217728) 8 4 && zero (CamoO.encT o + 134217728) 18 6 && zero (CamoO.encT o + 134217728) 30 2) = true := by
    obtain ⟨d, a, c, cs, acq, rel⟩ := o
    simp only [zero, bits, CamoO.encT, Bool.and_eq_true, beq_iff_eq]
    omega
  have h : bits (CamoO.encT o + 134217728) 24 4 = 8 := by
    obtain ⟨d, a, c, cs, acq, rel⟩ := o
    simp only [bits, CamoO.encT]
    omega
  simp only [decodeWord, parseWord, decodeDx, Nat.reduceDiv, Nat.reduceEqDiff, ↓reduceIte, h, OfNat.ofNat_ne_zero, OfNat.ofNat_ne_one]
  exact upper_ok (row_ok (regs := CamoO.regsOk) (fields := CamoO.fieldsOk) hw hr (parse_CamoO_0_134217728 o))
theorem ccas (o : CamoO) : Statement (.ccas o) := by
  intro hw e he
  cases he
  have hr : (zero (CamoO.encT o + 150994944) 8 4 && zero (CamoO.encT o + 150994944) 18 6 && zero (CamoO.encT o + 150994944) 30 2) = true := by
    obtain ⟨d, a, c, cs, acq, rel⟩ := o
    simp only [zero, bits, CamoO.encT, Bool.and_eq_true, beq_iff_eq]
    omega
  have h : bits (CamoO.encT o + 150994944) 24 4 = 9 := by
    obtain ⟨d, a, c, cs, acq, rel⟩ := o
    simp only [bits, CamoO.encT]
    omega
  simp only [decodeWord, parseWord, decodeDx, Nat.reduceDiv, Nat.reduceEqDiff, ↓reduceIte, h, OfNat.ofNat_ne_zero, OfNat.ofNat_ne_one]
  exact upper_ok (row_ok (regs := CamoO.regsOk) (fields := CamoO.fieldsOk) hw hr (parse_CamoO_0_150994944 o))
theorem cinv (o : CinvO) : Statement (.cinv o) := by
  intro hw e he
  cases he
  have hr : (zero (CinvO.encT o) 8 8) = true := by
    obtain ⟨sc, gm, a, cs⟩ := o
    simp only [zero, bits, CinvO.encT, Bool.and_eq_true, beq_iff_eq]
    omega
  have h : bits (CinvO.encD o) 5 1 = 0 := by
    obtain ⟨sc, gm, a, cs⟩ := o
    simp only [bits, CinvO.encD]
    omega
  simp only [decodeWord, parseWord, decodeDx, Nat.reduceDiv, Nat.reduceEqDiff, ↓reduceIte, h]
  exact upper_ok (row_ok (regs := CinvO.regsOk) (fields := CinvO.fieldsOk) hw hr (parse_CinvO o))
theorem cinvAll (o : CinvA) : Statement (.cinvAll o) := by
  intro hw e he
  cases he
  have hr : (zero (CinvA.encT o) 0 6 && zero (CinvA.encT o) 8 8) = true := by
    obtain ⟨sc, gm, cs⟩ := o
    simp only [zero, bits, CinvA.encT, Bool.and_eq_true, beq_iff_eq]
    omega
  have h : bits (CinvA.encD o + 32) 5 1 = 1 := by
    obtain ⟨sc, gm, cs⟩ := o
    simp only [bits, CinvA.encD]
    omega
  simp only [decodeWord, parseWord, decodeDx, Nat.reduceDiv, Nat.reduceEqDiff, ↓reduceIte, h, one_ne_zero]
  exact upper_ok (row_ok (regs := CinvA.regsOk) (fields := CinvA.fieldsOk) hw hr (parse_CinvA_32_0 o))
theorem callocGet (o : CvO) : Statement (.callocGet o) := by
  intro hw e he
  cases he
  have hr : (zero (CvO.encT o) 10 6) = true := by
    obtain ⟨d, a, cs⟩ := o
    simp only [zero, bits, CvO.encT, Bool.and_eq_true, beq_iff_eq]
    omega
  have h : bits (CvO.encT o) 8 2 = 0 := by
    obtain ⟨d, a, cs⟩ := o
    simp only [bits, CvO.encT]
    omega
  simp only [decodeWord, parseWord, decodeDx, Nat.reduceDiv, Nat.reduceEqDiff, ↓reduceIte, h]
  exact upper_ok (row_ok (regs := CvO.regsOk) (fields := CvO.fieldsOk) hw hr (parse_CvO o))
theorem callocCut (o : CvO) : Statement (.callocCut o) := by
  intro hw e he
  cases he
  have hr : (zero (CvO.encT o + 256) 10 6) = true := by
    obtain ⟨d, a, cs⟩ := o
    simp only [zero, bits, CvO.encT, Bool.and_eq_true, beq_iff_eq]
    omega
  have h : bits (CvO.encT o + 256) 8 2 = 1 := by
    obtain ⟨d, a, cs⟩ := o
    simp only [bits, CvO.encT]
    omega
  simp only [decodeWord, parseWord, decodeDx, Nat.reduceDiv, Nat.reduceEqDiff, ↓reduceIte, h, one_ne_zero]
  exact upper_ok (row_ok (regs := CvO.regsOk) (fields := CvO.fieldsOk) hw hr (parse_CvO_0_256 o))
theorem callocFree (o : CfreeO) : Statement (.callocFree o) := by
  intro hw e he
  cases he
  have hr : (zero (CfreeO.encT o + 512) 0 6 && zero (CfreeO.encT o + 512) 10 6) = true := by
    obtain ⟨d, cs⟩ := o
    simp only [zero, bits, CfreeO.encT, Bool.and_eq_true, beq_iff_eq]
    omega
  have h : bits (CfreeO.encT o + 512) 8 2 = 2 := by
    obtain ⟨d, cs⟩ := o
    simp only [bits, CfreeO.encT]
    omega
  simp only [decodeWord, parseWord, decodeDx, Nat.reduceDiv, Nat.reduceEqDiff, ↓reduceIte, h, OfNat.ofNat_ne_zero, OfNat.ofNat_ne_one]
  exact upper_ok (row_ok (regs := CfreeO.regsOk) (fields := CfreeO.fieldsOk) hw hr (parse_CfreeO_0_512 o))
theorem callocNode (o : CnodeO) : Statement (.callocNode o) := by
  intro hw e he
  cases he
  have hr : (zero (CnodeO.encT o + 768) 10 2 && zero (CnodeO.encT o + 768) 14 2) = true := by
    obtain ⟨d, a, cs, lvl⟩ := o
    simp only [zero, bits, CnodeO.encT, Bool.and_eq_true, beq_iff_eq]
    omega
  have h : bits (CnodeO.encT o + 768) 8 2 = 3 := by
    obtain ⟨d, a, cs, lvl⟩ := o
    simp only [bits, CnodeO.encT]
    omega
  simp only [decodeWord, parseWord, decodeDx, Nat.reduceDiv, Nat.reduceEqDiff, ↓reduceIte, h, OfNat.ofNat_ne_zero, OfNat.ofNat_ne_one]
  exact upper_ok (row_ok (regs := CnodeO.regsOk) (fields := CnodeO.fieldsOk) hw hr (parse_CnodeO_0_768 o))
theorem cnbr (o : CvO) : Statement (.cnbr o) := by
  intro hw e he
  cases he
  have hr : (zero (CvO.encT o) 8 24) = true := by
    obtain ⟨d, a, cs⟩ := o
    simp only [zero, bits, CvO.encT, Bool.and_eq_true, beq_iff_eq]
    omega
  simp only [decodeWord, parseWord, decodeDx, Nat.reduceDiv, Nat.reduceEqDiff, ↓reduceIte]
  exact upper_ok (row_ok (regs := CvO.regsOk) (fields := CvO.fieldsOk) hw hr (parse_CvO o))
theorem csrr (o : CsrR) : Statement (.csrr o) := by
  intro hw e he
  cases he
  have hr : (zero (CsrR.encT o) 0 6) = true := by
    obtain ⟨d, num⟩ := o
    simp only [zero, bits, CsrR.encT, Bool.and_eq_true, beq_iff_eq]
    omega
  simp only [decodeWord, parseWord, decodeEx, Nat.reduceDiv, Nat.reduceEqDiff, ↓reduceIte]
  exact upper_ok (row_ok (regs := CsrR.regsOk) (fields := CsrR.fieldsOk) hw hr (parse_CsrR o))
theorem csrw (o : CsrA) : Statement (.csrw o) := by
  intro hw e he
  cases he
  simp only [decodeWord, parseWord, decodeEx, Nat.reduceDiv, Nat.reduceEqDiff, ↓reduceIte]
  exact upper_ok (row_ok (regs := CsrA.regsOk) (fields := CsrA.fieldsOk) hw rfl (parse_CsrA o))
theorem csrs (o : CsrA) : Statement (.csrs o) := by
  intro hw e he
  cases he
  simp only [decodeWord, parseWord, decodeEx, Nat.reduceDiv, Nat.reduceEqDiff, ↓reduceIte]
  exact upper_ok (row_ok (regs := CsrA.regsOk) (fields := CsrA.fieldsOk) hw rfl (parse_CsrA o))
theorem csrc (o : CsrA) : Statement (.csrc o) := by
  intro hw e he
  cases he
  simp only [decodeWord, parseWord, decodeEx, Nat.reduceDiv, Nat.reduceEqDiff, ↓reduceIte]
  exact upper_ok (row_ok (regs := CsrA.regsOk) (fields := CsrA.fieldsOk) hw rfl (parse_CsrA o))
theorem trap (o : K16) : Statement (.trap o) := by
  intro hw e he
  cases he
  have hr : (zero (K16.encD o) 0 6) = true := by
    obtain ⟨k⟩ := o
    simp only [zero, bits, K16.encD, Bool.and_eq_true, beq_iff_eq]
    omega
  simp only [decodeWord, parseWord, decodeEx, Nat.reduceDiv, Nat.reduceEqDiff, ↓reduceIte]
  exact upper_ok (row_ok (regs := K16.regsOk) (fields := K16.fieldsOk) hw hr (parse_K16 o))
theorem tret : Statement .tret := by
  intro _ e he
  cases he
  rfl
theorem brk : Statement .brk := by
  intro _ e he
  cases he
  rfl
theorem brkL1 (o : K16) : Statement (.brkL1 o) := by
  intro hw e he
  cases he
  have hr : (zero (K16.encD o) 0 6) = true := by
    obtain ⟨k⟩ := o
    simp only [zero, bits, K16.encD, Bool.and_eq_true, beq_iff_eq]
    omega
  simp only [decodeWord, parseWord, decodeEx, Nat.reduceDiv, Nat.reduceEqDiff, ↓reduceIte]
  exact upper_ok (row_ok (regs := K16.regsOk) (fields := K16.fieldsOk) hw hr (parse_K16 o))
theorem tlbiPage (o : TlbP) : Statement (.tlbiPage o) := by
  intro hw e he
  cases he
  have hr : (zero (TlbP.encD o) 5 1 && zero (TlbP.encT o) 12 4) = true := by
    obtain ⟨sc, gm, a, ctx⟩ := o
    simp only [zero, bits, TlbP.encD, TlbP.encT, Bool.and_eq_true, beq_iff_eq]
    omega
  have h : bits (TlbP.encT o) 6 2 = 0 := by
    obtain ⟨sc, gm, a, ctx⟩ := o
    simp only [bits, TlbP.encT]
    omega
  simp only [decodeWord, parseWord, decodeEx, Nat.reduceDiv, Nat.reduceEqDiff, ↓reduceIte, h]
  exact upper_ok (row_ok (regs := TlbP.regsOk) (fields := TlbP.fieldsOk) hw hr (parse_TlbP o))
theorem tlbiCtx (o : TlbC) : Statement (.tlbiCtx o) := by
  intro hw e he
  cases he
  have hr : (zero (TlbC.encD o) 5 1 && zero (TlbC.encT o + 64) 0 6 && zero (TlbC.encT o + 64) 12 4) = true := by
    obtain ⟨sc, gm, ctx⟩ := o
    simp only [zero, bits, TlbC.encD, TlbC.encT, Bool.and_eq_true, beq_iff_eq]
    omega
  have h : bits (TlbC.encT o + 64) 6 2 = 1 := by
    obtain ⟨sc, gm, ctx⟩ := o
    simp only [bits, TlbC.encT]
    omega
  simp only [decodeWord, parseWord, decodeEx, Nat.reduceDiv, Nat.reduceEqDiff, ↓reduceIte, h, one_ne_zero]
  exact upper_ok (row_ok (regs := TlbC.regsOk) (fields := TlbC.fieldsOk) hw hr (parse_TlbC_0_64 o))
theorem tlbiAll (o : TlbA) : Statement (.tlbiAll o) := by
  intro hw e he
  cases he
  have hr : (zero (TlbA.encD o) 5 1 && zero (TlbA.encT o + 128) 0 6 && zero (TlbA.encT o + 128) 8 8) = true := by
    obtain ⟨sc, gm⟩ := o
    simp only [zero, bits, TlbA.encD, TlbA.encT, Bool.and_eq_true, beq_iff_eq]
    omega
  have h : bits (TlbA.encT o + 128) 6 2 = 2 := by
    obtain ⟨sc, gm⟩ := o
    simp only [bits, TlbA.encT]
    omega
  simp only [decodeWord, parseWord, decodeEx, Nat.reduceDiv, Nat.reduceEqDiff, ↓reduceIte, h, OfNat.ofNat_ne_zero, OfNat.ofNat_ne_one]
  exact upper_ok (row_ok (regs := TlbA.regsOk) (fields := TlbA.fieldsOk) hw hr (parse_TlbA_0_128 o))
theorem tlbiRange (o : TlbR) : Statement (.tlbiRange o) := by
  intro hw e he
  cases he
  have hr : (zero (TlbR.encD o) 5 1 && zero (TlbR.encT o + 192) 18 14) = true := by
    obtain ⟨sc, gm, a, c, ctx⟩ := o
    simp only [zero, bits, TlbR.encD, TlbR.encT, Bool.and_eq_true, beq_iff_eq]
    omega
  have h : bits (TlbR.encT o + 192) 6 2 = 3 := by
    obtain ⟨sc, gm, a, c, ctx⟩ := o
    simp only [bits, TlbR.encT]
    omega
  simp only [decodeWord, parseWord, decodeEx, Nat.reduceDiv, Nat.reduceEqDiff, ↓reduceIte, h, OfNat.ofNat_ne_zero, OfNat.ofNat_ne_one]
  exact upper_ok (row_ok (regs := TlbR.regsOk) (fields := TlbR.fieldsOk) hw hr (parse_TlbR_0_192 o))
theorem ifence : Statement .ifence := by
  intro _ e he
  cases he
  rfl
theorem wfi : Statement .wfi := by
  intro _ e he
  cases he
  rfl
theorem ctxswReq : Statement .ctxswReq := by
  intro _ e he
  cases he
  rfl
theorem ctxswFlush : Statement .ctxswFlush := by
  intro _ e he
  cases he
  rfl
theorem syscHold (o : GG) : Statement (.syscHold o) := by
  intro hw e he
  cases he
  have hr : (zero (GG.encT o) 8 8) = true := by
    obtain ⟨d, a⟩ := o
    simp only [zero, bits, GG.encT, Bool.and_eq_true, beq_iff_eq]
    omega
  have h : bits (GG.encT o) 6 2 = 0 := by
    obtain ⟨d, a⟩ := o
    simp only [bits, GG.encT]
    omega
  simp only [decodeWord, parseWord, decodeEx, Nat.reduceDiv, Nat.reduceEqDiff, ↓reduceIte, h]
  exact upper_ok (row_ok (regs := GG.regsOk) (fields := GG.fieldsOk) hw hr (parse_GG o))
theorem syscRel (o : GD) : Statement (.syscRel o) := by
  intro hw e he
  cases he
  have hr : (zero (GD.encT o + 64) 0 6 && zero (GD.encT o + 64) 8 8) = true := by
    obtain ⟨d⟩ := o
    simp only [zero, bits, GD.encT, Bool.and_eq_true, beq_iff_eq]
    omega
  have h : bits (GD.encT o + 64) 6 2 = 1 := by
    obtain ⟨d⟩ := o
    simp only [bits, GD.encT]
    omega
  simp only [decodeWord, parseWord, decodeEx, Nat.reduceDiv, Nat.reduceEqDiff, ↓reduceIte, h, one_ne_zero]
  exact upper_ok (row_ok (regs := GD.regsOk) (fields := GD.fieldsOk) hw hr (parse_GD_0_64 o))
theorem syscWake (o : GG) : Statement (.syscWake o) := by
  intro hw e he
  cases he
  have hr : (zero (GG.encT o + 128) 8 8) = true := by
    obtain ⟨d, a⟩ := o
    simp only [zero, bits, GG.encT, Bool.and_eq_true, beq_iff_eq]
    omega
  have h : bits (GG.encT o + 128) 6 2 = 2 := by
    obtain ⟨d, a⟩ := o
    simp only [bits, GG.encT]
    omega
  simp only [decodeWord, parseWord, decodeEx, Nat.reduceDiv, Nat.reduceEqDiff, ↓reduceIte, h, OfNat.ofNat_ne_zero, OfNat.ofNat_ne_one]
  exact upper_ok (row_ok (regs := GG.regsOk) (fields := GG.fieldsOk) hw hr (parse_GG_0_128 o))
theorem syscStop (o : GG) : Statement (.syscStop o) := by
  intro hw e he
  cases he
  have hr : (zero (GG.encT o + 192) 8 8) = true := by
    obtain ⟨d, a⟩ := o
    simp only [zero, bits, GG.encT, Bool.and_eq_true, beq_iff_eq]
    omega
  have h : bits (GG.encT o + 192) 6 2 = 3 := by
    obtain ⟨d, a⟩ := o
    simp only [bits, GG.encT]
    omega
  simp only [decodeWord, parseWord, decodeEx, Nat.reduceDiv, Nat.reduceEqDiff, ↓reduceIte, h, OfNat.ofNat_ne_zero, OfNat.ofNat_ne_one]
  exact upper_ok (row_ok (regs := GG.regsOk) (fields := GG.fieldsOk) hw hr (parse_GG_0_192 o))
theorem fIssue (slot : BitVec 2) : Statement (.fIssue slot) := fun _ _ he => nomatch he
theorem fCommit (slot : BitVec 2) : Statement (.fCommit slot) := fun _ _ he => nomatch he
theorem sfuServiceStart : Statement (.sfuServiceStart) := fun _ _ he => nomatch he
theorem sfuResultWrite : Statement (.sfuResultWrite) := fun _ _ he => nomatch he
theorem divideComplete : Statement (.divideComplete) := fun _ _ he => nomatch he
theorem loadDataReturn (slot : BitVec 2) : Statement (.loadDataReturn slot) := fun _ _ he => nomatch he
theorem lineFetchReturn (slot : BitVec 2) : Statement (.lineFetchReturn slot) := fun _ _ he => nomatch he
theorem storeDrain (slot : BitVec 2) : Statement (.storeDrain slot) := fun _ _ he => nomatch he
theorem repReplayDispatch (slot : BitVec 2) : Statement (.repReplayDispatch slot) := fun _ _ he => nomatch he
theorem pauseExpiry (slot : BitVec 2) : Statement (.pauseExpiry slot) := fun _ _ he => nomatch he
theorem trapEntry (slot : BitVec 2) : Statement (.trapEntry slot) := fun _ _ he => nomatch he
theorem lightHandlerEntry (slot : BitVec 2) : Statement (.lightHandlerEntry slot) := fun _ _ he => nomatch he
theorem streamRead (slot : BitVec 2) (unit : BitVec 2) : Statement (.streamRead slot unit) := fun _ _ he => nomatch he
theorem ringFetch (slot : BitVec 2) (unit : BitVec 2) : Statement (.ringFetch slot unit) := fun _ _ he => nomatch he
theorem setOpPass (slot : BitVec 2) (unit : BitVec 2) : Statement (.setOpPass slot unit) := fun _ _ he => nomatch he
theorem feRemoteRetry (slot : BitVec 2) : Statement (.feRemoteRetry slot) := fun _ _ he => nomatch he
theorem waitaPoll (slot : BitVec 2) : Statement (.waitaPoll slot) := fun _ _ he => nomatch he
theorem syscHoldExpiry (slot : BitVec 2) : Statement (.syscHoldExpiry slot) := fun _ _ he => nomatch he
theorem messageInject : Statement (.messageInject) := fun _ _ he => nomatch he
theorem messageArrival (k : Nat) : Statement (.messageArrival k) := fun _ _ he => nomatch he
theorem messageAck (k : Nat) : Statement (.messageAck k) := fun _ _ he => nomatch he
theorem messageNack (k : Nat) : Statement (.messageNack k) := fun _ _ he => nomatch he
theorem messageRetryReady (entry : Nat) : Statement (.messageRetryReady entry) := fun _ _ he => nomatch he
theorem queueWordArrival (k : Nat) : Statement (.queueWordArrival k) := fun _ _ he => nomatch he
theorem transferComplete (ring : BitVec 4) : Statement (.transferComplete ring) := fun _ _ he => nomatch he
theorem transferFailure (ring : BitVec 4) (acause : BitVec 8) : Statement (.transferFailure ring acause) := fun _ _ he => nomatch he
theorem mailboxLaunch (slot : BitVec 2) : Statement (.mailboxLaunch slot) := fun _ _ he => nomatch he
theorem commandAccept : Statement (.commandAccept) := fun _ _ he => nomatch he
theorem tumblerAdmit : Statement (.tumblerAdmit) := fun _ _ he => nomatch he
theorem copy1d (job : Nat) : Statement (.copy1d job) := fun _ _ he => nomatch he
theorem copy2d (job : Nat) : Statement (.copy2d job) := fun _ _ he => nomatch he
theorem gather (job : Nat) : Statement (.gather job) := fun _ _ he => nomatch he
theorem scatter (job : Nat) : Statement (.scatter job) := fun _ _ he => nomatch he
theorem fill (job : Nat) : Statement (.fill job) := fun _ _ he => nomatch he
theorem notify (job : Nat) : Statement (.notify job) := fun _ _ he => nomatch he
theorem zacc (job : Nat) : Statement (.zacc job) := fun _ _ he => nomatch he
theorem lacc (job : Nat) : Statement (.lacc job) := fun _ _ he => nomatch he
theorem sacc (job : Nat) : Statement (.sacc job) := fun _ _ he => nomatch he
theorem mma (job : Nat) : Statement (.mma job) := fun _ _ he => nomatch he
theorem mmar (job : Nat) : Statement (.mmar job) := fun _ _ he => nomatch he
theorem qtile (job : Nat) : Statement (.qtile job) := fun _ _ he => nomatch he
theorem jobComplete (job : Nat) : Statement (.jobComplete job) := fun _ _ he => nomatch he
theorem jobFail (job : Nat) : Statement (.jobFail job) := fun _ _ he => nomatch he
theorem tumblerStuck : Statement (.tumblerStuck) := fun _ _ he => nomatch he
theorem periodStart (die : BitVec 4) : Statement (.periodStart die) := fun _ _ he => nomatch he
theorem energyBudgetSpent : Statement (.energyBudgetSpent) := fun _ _ he => nomatch he
theorem teamPlace (team : Nat) : Statement (.teamPlace team) := fun _ _ he => nomatch he
theorem teamComplete (team : Nat) : Statement (.teamComplete team) := fun _ _ he => nomatch he
theorem teamAged (team : Nat) : Statement (.teamAged team) := fun _ _ he => nomatch he
theorem switchIn (slot : BitVec 2) (thread : Nat) : Statement (.switchIn slot thread) := fun _ _ he => nomatch he
theorem clusterSave (team : Nat) (lcn : BitVec 17) : Statement (.clusterSave team lcn) := fun _ _ he => nomatch he
theorem missPresent : Statement (.missPresent) := fun _ _ he => nomatch he
theorem missResult : Statement (.missResult) := fun _ _ he => nomatch he
theorem pageinRequestArrival (k : Nat) : Statement (.pageinRequestArrival k) := fun _ _ he => nomatch he
theorem pageinResolve (k : Nat) (refused : Bool) (tables : List (BitVec 50)) (leaf : BitVec 64) : Statement (.pageinResolve k refused tables leaf) := fun _ _ he => nomatch he
theorem pageinWake (k : Nat) : Statement (.pageinWake k) := fun _ _ he => nomatch he
theorem doorbellTail (q : BitVec 10) (tail : BitVec 32) : Statement (.doorbellTail q tail) := fun _ _ he => nomatch he
theorem qswSwitchIn (q : BitVec 10) (hslot : BitVec 6) : Statement (.qswSwitchIn q hslot) := fun _ _ he => nomatch he
theorem qswSwitchOut (q : BitVec 10) : Statement (.qswSwitchOut q) := fun _ _ he => nomatch he
theorem qctlContinue (q : BitVec 10) : Statement (.qctlContinue q) := fun _ _ he => nomatch he
theorem qctlSkip (q : BitVec 10) : Statement (.qctlSkip q) := fun _ _ he => nomatch he
theorem semvWrite (sem : BitVec 8) (val : BitVec 32) : Statement (.semvWrite sem val) := fun _ _ he => nomatch he
theorem semaddWrite (sem : BitVec 8) (val : BitVec 32) : Statement (.semaddWrite sem val) := fun _ _ he => nomatch he
theorem queueRecordWrite (q : BitVec 10) (word : BitVec 3) (val : BitVec 64) : Statement (.queueRecordWrite q word val) := fun _ _ he => nomatch he
theorem registerWrite (reg : PlainReg) (val : BitVec 64) : Statement (.registerWrite reg val) := fun _ _ he => nomatch he
theorem keywayCommandRead (q : BitVec 10) (bad : Bool) : Statement (.keywayCommandRead q bad) := fun _ _ he => nomatch he
theorem queueAging (q : BitVec 10) : Statement (.queueAging q) := fun _ _ he => nomatch he
theorem knop (q : BitVec 10) : Statement (.knop q) := fun _ _ he => nomatch he
theorem klaunch (q : BitVec 10) : Statement (.klaunch q) := fun _ _ he => nomatch he
theorem kcopy (q : BitVec 10) : Statement (.kcopy q) := fun _ _ he => nomatch he
theorem kfill (q : BitVec 10) : Statement (.kfill q) := fun _ _ he => nomatch he
theorem kwrite (q : BitVec 10) : Statement (.kwrite q) := fun _ _ he => nomatch he
theorem kintr (q : BitVec 10) : Statement (.kintr q) := fun _ _ he => nomatch he
theorem kctx (q : BitVec 10) : Statement (.kctx q) := fun _ _ he => nomatch he
theorem kclu (q : BitVec 10) : Statement (.kclu q) := fun _ _ he => nomatch he
theorem kbudget (q : BitVec 10) : Statement (.kbudget q) := fun _ _ he => nomatch he
theorem kpool (q : BitVec 10) : Statement (.kpool q) := fun _ _ he => nomatch he
theorem kpreempt (q : BitVec 10) : Statement (.kpreempt q) := fun _ _ he => nomatch he
theorem kevict (q : BitVec 10) : Statement (.kevict q) := fun _ _ he => nomatch he
theorem kabort (q : BitVec 10) : Statement (.kabort q) := fun _ _ he => nomatch he
theorem msixUnmask (vec : BitVec 11) : Statement (.msixUnmask vec) := fun _ _ he => nomatch he
theorem bar2Read (addr : BitVec 40) (len : BitVec 4) : Statement (.bar2Read addr len) := fun _ _ he => nomatch he
theorem bar2Write (addr : BitVec 40) (data : List (BitVec 8)) : Statement (.bar2Write addr data) := fun _ _ he => nomatch he
theorem barAtomicop (bar : BitVec 1) (off : BitVec 40) : Statement (.barAtomicop bar off) := fun _ _ he => nomatch he
theorem hingeRetrain (port : BitVec 3) : Statement (.hingeRetrain port) := fun _ _ he => nomatch he
theorem hingeCounterRead (port : BitVec 3) (downs : Bool) : Statement (.hingeCounterRead port downs) := fun _ _ he => nomatch he
theorem hingeRequestArrival (port : BitVec 3) (req : HingeReq) : Statement (.hingeRequestArrival port req) := fun _ _ he => nomatch he
theorem loadObject : Statement (.loadObject) := fun _ _ he => nomatch he
theorem translateAndLoad : Statement (.translateAndLoad) := fun _ _ he => nomatch he
theorem raiseFuseCounter : Statement (.raiseFuseCounter) := fun _ _ he => nomatch he
theorem attestationReport : Statement (.attestationReport) := fun _ _ he => nomatch he
theorem scrubPass (loc : Nat) (bad : Bool) : Statement (.scrubPass loc bad) := fun _ _ he => nomatch he
theorem pageRetire (frame : BitVec 38) (fresh : BitVec 38) : Statement (.pageRetire frame fresh) := fun _ _ he => nomatch he
theorem linkCrcReplay (link : LinkId) (again : Bool) : Statement (.linkCrcReplay link again) := fun _ _ he => nomatch he
theorem linkRetrain (link : LinkId) (ok : Bool) : Statement (.linkRetrain link ok) := fun _ _ he => nomatch he
theorem coreFence (die : BitVec 4) (clu : BitVec 14) (core : BitVec 3) : Statement (.coreFence die clu core) := fun _ _ he => nomatch he
theorem clusterFence (die : BitVec 4) (clu : BitVec 14) : Statement (.clusterFence die clu) := fun _ _ he => nomatch he
theorem dieFence (die : BitVec 4) : Statement (.dieFence die) := fun _ _ he => nomatch he
theorem coreRepair (die : BitVec 4) (clu : BitVec 14) (core : BitVec 3) : Statement (.coreRepair die clu core) := fun _ _ he => nomatch he
theorem clusterRepair (die : BitVec 4) (clu : BitVec 14) (spare : BitVec 14) : Statement (.clusterRepair die clu spare) := fun _ _ he => nomatch he
theorem powerWindow (sense : PowerSense) : Statement (.powerWindow sense) := fun _ _ he => nomatch he
theorem thermalTrip : Statement .thermalTrip := fun _ _ he => nomatch he
theorem powerOn (inp : StartInput) : Statement (.powerOn inp) := fun _ _ he => nomatch he
theorem coldStartRequest (inp : StartInput) : Statement (.coldStartRequest inp) := fun _ _ he => nomatch he
theorem warmStartRequest (inp : StartInput) : Statement (.warmStartRequest inp) := fun _ _ he => nomatch he
theorem startTimeout : Statement (.startTimeout) := fun _ _ he => nomatch he
theorem debugStop : Statement (.debugStop) := fun _ _ he => nomatch he
theorem debugRun : Statement (.debugRun) := fun _ _ he => nomatch he
theorem debugStep : Statement (.debugStep) := fun _ _ he => nomatch he
theorem stepDone : Statement (.stepDone) := fun _ _ he => nomatch he
theorem stepTimeout : Statement (.stepTimeout) := fun _ _ he => nomatch he
theorem daccRead : Statement (.daccRead) := fun _ _ he => nomatch he
theorem daccWrite : Statement (.daccWrite) := fun _ _ he => nomatch he
theorem dstatRead : Statement (.dstatRead) := fun _ _ he => nomatch he
theorem histSample (die : BitVec 4) : Statement (.histSample die) := fun _ _ he => nomatch he
theorem intervalDump (die : BitVec 4) : Statement (.intervalDump die) := fun _ _ he => nomatch he
theorem illegalInstruction (sub : BitVec 8) (head : BitVec 16) : Statement (.illegalInstruction sub head) := fun _ _ he => nomatch he
theorem linkTrainingComplete (link : LinkId) (res : Training) : Statement (.linkTrainingComplete link res) := fun _ _ he => nomatch he
theorem correctableErrorRecord (die : BitVec 4) (hbm : Bool) (count : BitVec 32) : Statement (.correctableErrorRecord die hbm count) := fun _ _ he => nomatch he
end Sys2Proof.Laws.RoundTrip

namespace Sys2Proof.Laws.Widths

/-- What the encoder writes is within the widths of a head and a tail. -/
def Statement (i : Instr) : Prop := ∀ e, encode i = some e → Fits e

theorem intro {i : Instr} {op l d t : Nat} (h : encode i = some ⟨op, l, d, t⟩) (ho : op < 256) (hl : l < 4)
    (hd : d < 64 ∧ t < 256 ^ tailBytes l) : Statement i := by
  intro e' h'
  cases h.symm.trans h'
  exact ⟨ho, hl, hd.1, hd.2⟩

theorem nop : Statement .nop := intro rfl (by decide) (by decide) (by decide)
theorem nopL1 (o : K16) : Statement (.nopL1 o) := intro rfl (by decide) (by decide) (lt_K16_L1 o)
theorem nopL2 (o : K32) : Statement (.nopL2 o) := intro rfl (by decide) (by decide) (lt_K32_L2 o)
theorem nopL3 (o : K64) : Statement (.nopL3 o) := intro rfl (by decide) (by decide) (lt_K64_L3 o)
theorem add (o : GGG) : Statement (.add o) := intro rfl (by decide) (by decide) (lt_GGG_L1 o)
theorem sub (o : GGG) : Statement (.sub o) := intro rfl (by decide) (by decide) (lt_GGG_L1 o)
theorem and (o : GGG) : Statement (.and o) := intro rfl (by decide) (by decide) (lt_GGG_L1 o)
theorem or (o : GGG) : Statement (.or o) := intro rfl (by decide) (by decide) (lt_GGG_L1 o)
theorem xor (o : GGG) : Statement (.xor o) := intro rfl (by decide) (by decide) (lt_GGG_L1 o)
theorem andn (o : GGG) : Statement (.andn o) := intro rfl (by decide) (by decide) (lt_GGG_L1 o)
theorem shl (o : GGG) : Statement (.shl o) := intro rfl (by decide) (by decide) (lt_GGG_L1 o)
theorem shr (o : GGG) : Statement (.shr o) := intro rfl (by decide) (by decide) (lt_GGG_L1 o)
theorem sra (o : GGG) : Statement (.sra o) := intro rfl (by decide) (by decide) (lt_GGG_L1 o)
theorem rotl (o : GGG) : Statement (.rotl o) := intro rfl (by decide) (by decide) (lt_GGG_L1 o)
theorem mul (o : GGG) : Statement (.mul o) := intro rfl (by decide) (by decide) (lt_GGG_L1 o)
theorem mulh (o : GGG) : Statement (.mulh o) := intro rfl (by decide) (by decide) (lt_GGG_L1 o)
theorem mulhz (o : GGG) : Statement (.mulhz o) := intro rfl (by decide) (by decide) (lt_GGG_L1 o)
theorem div (o : GGG) : Statement (.div o) := intro rfl (by decide) (by decide) (lt_GGG_L1 o)
theorem divz (o : GGG) : Statement (.divz o) := intro rfl (by decide) (by decide) (lt_GGG_L1 o)
theorem rem (o : GGG) : Statement (.rem o) := intro rfl (by decide) (by decide) (lt_GGG_L1 o)
theorem remz (o : GGG) : Statement (.remz o) := intro rfl (by decide) (by decide) (lt_GGG_L1 o)
theorem min (o : GGG) : Statement (.min o) := intro rfl (by decide) (by decide) (lt_GGG_L1 o)
theorem max (o : GGG) : Statement (.max o) := intro rfl (by decide) (by decide) (lt_GGG_L1 o)
theorem minz (o : GGG) : Statement (.minz o) := intro rfl (by decide) (by decide) (lt_GGG_L1 o)
theorem maxz (o : GGG) : Statement (.maxz o) := intro rfl (by decide) (by decide) (lt_GGG_L1 o)
theorem slt (o : GGG) : Statement (.slt o) := intro rfl (by decide) (by decide) (lt_GGG_L1 o)
theorem sltz (o : GGG) : Statement (.sltz o) := intro rfl (by decide) (by decide) (lt_GGG_L1 o)
theorem seq (o : GGG) : Statement (.seq o) := intro rfl (by decide) (by decide) (lt_GGG_L1 o)
theorem sel (o : GGGG) : Statement (.sel o) := intro rfl (by decide) (by decide) (lt_GGGG_L2 o)
theorem addi (o : GGI10) : Statement (.addi o) := intro rfl (by decide) (by decide) (lt_GGI10_L1 o)
theorem addiL2 (o : GGI26) : Statement (.addiL2 o) := intro rfl (by decide) (by decide) (lt_GGI26_L2 o)
theorem andi (o : GGI10) : Statement (.andi o) := intro rfl (by decide) (by decide) (lt_GGI10_L1 o)
theorem andiL2 (o : GGI26) : Statement (.andiL2 o) := intro rfl (by decide) (by decide) (lt_GGI26_L2 o)
theorem ori (o : GGI10) : Statement (.ori o) := intro rfl (by decide) (by decide) (lt_GGI10_L1 o)
theorem oriL2 (o : GGI26) : Statement (.oriL2 o) := intro rfl (by decide) (by decide) (lt_GGI26_L2 o)
theorem xori (o : GGI10) : Statement (.xori o) := intro rfl (by decide) (by decide) (lt_GGI10_L1 o)
theorem xoriL2 (o : GGI26) : Statement (.xoriL2 o) := intro rfl (by decide) (by decide) (lt_GGI26_L2 o)
theorem shli (o : ShiftI) : Statement (.shli o) := intro rfl (by decide) (by decide) (lt_ShiftI_L1 o)
theorem shri (o : ShiftI) : Statement (.shri o) := intro rfl (by decide) (by decide) (lt_ShiftI_L1_0_4096 o)
theorem srai (o : ShiftI) : Statement (.srai o) := intro rfl (by decide) (by decide) (lt_ShiftI_L1_0_8192 o)
theorem rotli (o : ShiftI) : Statement (.rotli o) := intro rfl (by decide) (by decide) (lt_ShiftI_L1_0_12288 o)
theorem li (o : GK16) : Statement (.li o) := intro rfl (by decide) (by decide) (lt_GK16_L1 o)
theorem liL2 (o : GK32) : Statement (.liL2 o) := intro rfl (by decide) (by decide) (lt_GK32_L2 o)
theorem liL3 (o : GK64) : Statement (.liL3 o) := intro rfl (by decide) (by decide) (lt_GK64_L3 o)
theorem addpc (o : GK32) : Statement (.addpc o) := intro rfl (by decide) (by decide) (lt_GK32_L2 o)
theorem lea (o : LeaM) : Statement (.lea o) := intro rfl (by decide) (by decide) (lt_LeaM_L1 o)
theorem leaL2 (o : LeaX) : Statement (.leaL2 o) := intro rfl (by decide) (by decide) (lt_LeaX_L2 o)
theorem clz (o : GG) : Statement (.clz o) := intro rfl (by decide) (by decide) (lt_GG_L1 o)
theorem ctz (o : GG) : Statement (.ctz o) := intro rfl (by decide) (by decide) (lt_GG_L1 o)
theorem popc (o : GG) : Statement (.popc o) := intro rfl (by decide) (by decide) (lt_GG_L1 o)
theorem bswap (o : GG) : Statement (.bswap o) := intro rfl (by decide) (by decide) (lt_GG_L1 o)
theorem sextB (o : GG) : Statement (.sextB o) := intro rfl (by decide) (by decide) (lt_GG_L1 o)
theorem sextH (o : GG) : Statement (.sextH o) := intro rfl (by decide) (by decide) (lt_GG_L1_0_4096 o)
theorem sextW (o : GG) : Statement (.sextW o) := intro rfl (by decide) (by decide) (lt_GG_L1_0_8192 o)
theorem bext (o : BitF) : Statement (.bext o) := intro rfl (by decide) (by decide) (lt_BitF_L2 o)
theorem bins (o : BitF) : Statement (.bins o) := intro rfl (by decide) (by decide) (lt_BitF_L2 o)
theorem slti (o : GGI8) : Statement (.slti o) := intro rfl (by decide) (by decide) (lt_GGI8_L1 o)
theorem sltiL2 (o : GGI24) : Statement (.sltiL2 o) := intro rfl (by decide) (by decide) (lt_GGI24_L2 o)
theorem sltzi (o : GGI8) : Statement (.sltzi o) := intro rfl (by decide) (by decide) (lt_GGI8_L1_0_64 o)
theorem sltziL2 (o : GGI24) : Statement (.sltziL2 o) := intro rfl (by decide) (by decide) (lt_GGI24_L2_0_64 o)
theorem seqi (o : GGI8) : Statement (.seqi o) := intro rfl (by decide) (by decide) (lt_GGI8_L1_0_128 o)
theorem seqiL2 (o : GGI24) : Statement (.seqiL2 o) := intro rfl (by decide) (by decide) (lt_GGI24_L2_0_128 o)
theorem beq (o : BrB) : Statement (.beq o) := intro rfl (by decide) (by decide) (lt_BrB_L2 o)
theorem bne (o : BrB) : Statement (.bne o) := intro rfl (by decide) (by decide) (lt_BrB_L2_1_0 o)
theorem blt (o : BrB) : Statement (.blt o) := intro rfl (by decide) (by decide) (lt_BrB_L2_2_0 o)
theorem bge (o : BrB) : Statement (.bge o) := intro rfl (by decide) (by decide) (lt_BrB_L2_3_0 o)
theorem bltz (o : BrB) : Statement (.bltz o) := intro rfl (by decide) (by decide) (lt_BrB_L2_4_0 o)
theorem bgez (o : BrB) : Statement (.bgez o) := intro rfl (by decide) (by decide) (lt_BrB_L2_5_0 o)
theorem bzEqz (o : BrZ) : Statement (.bzEqz o) := intro rfl (by decide) (by decide) (lt_BrZ_L2 o)
theorem bzNez (o : BrZ) : Statement (.bzNez o) := intro rfl (by decide) (by decide) (lt_BrZ_L2_1_0 o)
theorem bzLtz (o : BrZ) : Statement (.bzLtz o) := intro rfl (by decide) (by decide) (lt_BrZ_L2_2_0 o)
theorem bzGez (o : BrZ) : Statement (.bzGez o) := intro rfl (by decide) (by decide) (lt_BrZ_L2_3_0 o)
theorem bzGtz (o : BrZ) : Statement (.bzGtz o) := intro rfl (by decide) (by decide) (lt_BrZ_L2_4_0 o)
theorem bzLez (o : BrZ) : Statement (.bzLez o) := intro rfl (by decide) (by decide) (lt_BrZ_L2_5_0 o)
theorem jmp (o : Jmp) : Statement (.jmp o) := intro rfl (by decide) (by decide) (lt_Jmp_L2 o)
theorem call (o : GJmp) : Statement (.call o) := intro rfl (by decide) (by decide) (lt_GJmp_L2 o)
theorem jr (o : GD) : Statement (.jr o) := intro rfl (by decide) (by decide) (lt_GD_L0 o)
theorem decb (o : GJmp) : Statement (.decb o) := intro rfl (by decide) (by decide) (lt_GJmp_L2 o)
theorem rep (o : RepO) : Statement (.rep o) := intro rfl (by decide) (by decide) (lt_RepO_L2 o)
theorem pause (o : K16) : Statement (.pause o) := intro rfl (by decide) (by decide) (lt_K16_L1 o)
theorem yield : Statement .yield := intro rfl (by decide) (by decide) (by decide)
theorem exit : Statement .exit := intro rfl (by decide) (by decide) (by decide)
theorem ld (o : LdM) : Statement (.ld o) := intro rfl (by decide) (by decide) (lt_LdM_L1 o)
theorem ldL2 (o : LdX) : Statement (.ldL2 o) := intro rfl (by decide) (by decide) (lt_LdX_L2 o)
theorem lda (o : LdaX) : Statement (.lda o) := intro rfl (by decide) (by decide) (lt_LdaX_L2 o)
theorem ldfe (o : FeX) : Statement (.ldfe o) := intro rfl (by decide) (by decide) (lt_FeX_L2_0_192 o)
theorem ldff (o : LdffM) : Statement (.ldff o) := intro rfl (by decide) (by decide) (lt_LdffM_L1_0_192 o)
theorem ldffL2 (o : LdffX) : Statement (.ldffL2 o) := intro rfl (by decide) (by decide) (lt_LdffX_L2_0_192 o)
theorem st (o : StM) : Statement (.st o) := intro rfl (by decide) (by decide) (lt_StM_L1 o)
theorem stL2 (o : StX) : Statement (.stL2 o) := intro rfl (by decide) (by decide) (lt_StX_L2 o)
theorem stl (o : StlX) : Statement (.stl o) := intro rfl (by decide) (by decide) (lt_StlX_L2 o)
theorem stef (o : FeX) : Statement (.stef o) := intro rfl (by decide) (by decide) (lt_FeX_L2_0_192 o)
theorem feset (o : FesetM) : Statement (.feset o) := intro rfl (by decide) (by decide) (lt_FesetM_L1_0_192 o)
theorem fesetL2 (o : FesetX) : Statement (.fesetL2 o) := intro rfl (by decide) (by decide) (lt_FesetX_L2_0_192 o)
theorem fld (o : FMemM) : Statement (.fld o) := intro rfl (by decide) (by decide) (lt_FMemM_L1 o)
theorem fldL2 (o : FMemX) : Statement (.fldL2 o) := intro rfl (by decide) (by decide) (lt_FMemX_L2 o)
theorem fst (o : FMemM) : Statement (.fst o) := intro rfl (by decide) (by decide) (lt_FMemM_L1 o)
theorem fstL2 (o : FMemX) : Statement (.fstL2 o) := intro rfl (by decide) (by decide) (lt_FMemX_L2 o)
theorem ldp (o : PairM) : Statement (.ldp o) := intro rfl (by decide) (by decide) (lt_PairM_L1_0_192 o)
theorem ldpL2 (o : PairX) : Statement (.ldpL2 o) := intro rfl (by decide) (by decide) (lt_PairX_L2_0_192 o)
theorem stp (o : PairM) : Statement (.stp o) := intro rfl (by decide) (by decide) (lt_PairM_L1_0_192 o)
theorem stpL2 (o : PairX) : Statement (.stpL2 o) := intro rfl (by decide) (by decide) (lt_PairX_L2_0_192 o)
theorem fence (o : FenceO) : Statement (.fence o) := intro rfl (by decide) (by decide) (lt_FenceO_L0 o)
theorem waita (o : WaitaX) : Statement (.waita o) := intro rfl (by decide) (by decide) (lt_WaitaX_L2 o)
theorem pref (o : PrefM) : Statement (.pref o) := intro rfl (by decide) (by decide) (lt_PrefM_L1 o)
theorem prefL2 (o : PrefX) : Statement (.prefL2 o) := intro rfl (by decide) (by decide) (lt_PrefX_L2 o)
theorem amoadd (o : AtO) : Statement (.amoadd o) := intro rfl (by decide) (by decide) (lt_AtO_L2 o)
theorem amoand (o : AtO) : Statement (.amoand o) := intro rfl (by decide) (by decide) (lt_AtO_L2_0_524288 o)
theorem amoor (o : AtO) : Statement (.amoor o) := intro rfl (by decide) (by decide) (lt_AtO_L2_0_1048576 o)
theorem amoxor (o : AtO) : Statement (.amoxor o) := intro rfl (by decide) (by decide) (lt_AtO_L2_0_1572864 o)
theorem amomin (o : AtO) : Statement (.amomin o) := intro rfl (by decide) (by decide) (lt_AtO_L2_0_2097152 o)
theorem amomax (o : AtO) : Statement (.amomax o) := intro rfl (by decide) (by decide) (lt_AtO_L2_0_2621440 o)
theorem amominz (o : AtO) : Statement (.amominz o) := intro rfl (by decide) (by decide) (lt_AtO_L2_0_3145728 o)
theorem amomaxz (o : AtO) : Statement (.amomaxz o) := intro rfl (by decide) (by decide) (lt_AtO_L2_0_3670016 o)
theorem amoswap (o : AtO) : Statement (.amoswap o) := intro rfl (by decide) (by decide) (lt_AtO_L2_0_4194304 o)
theorem cas (o : AtO) : Statement (.cas o) := intro rfl (by decide) (by decide) (lt_AtO_L2 o)
theorem fadda (o : AtO) : Statement (.fadda o) := intro rfl (by decide) (by decide) (lt_AtO_L2 o)
theorem casp (o : CaspO) : Statement (.casp o) := intro rfl (by decide) (by decide) (lt_CaspO_L2_0_12288 o)
theorem sbind (o : SbindO) : Statement (.sbind o) := intro rfl (by decide) (by decide) (lt_SbindO_L2 o)
theorem sdim (o : SdimR) : Statement (.sdim o) := intro rfl (by decide) (by decide) (lt_SdimR_L2 o)
theorem sdimL3 (o : SdimW) : Statement (.sdimL3 o) := intro rfl (by decide) (by decide) (lt_SdimW_L3 o)
theorem sidx (o : SidxR) : Statement (.sidx o) := intro rfl (by decide) (by decide) (lt_SidxR_L2 o)
theorem sidxL3 (o : SidxW) : Statement (.sidxL3 o) := intro rfl (by decide) (by decide) (lt_SidxW_L3 o)
theorem sdir (o : SdirO) : Statement (.sdir o) := intro rfl (by decide) (by decide) (lt_SdirO_L1 o)
theorem sgo (o : Units) : Statement (.sgo o) := intro rfl (by decide) (by decide) (lt_Units_L0 o)
theorem sstop (o : Units) : Statement (.sstop o) := intro rfl (by decide) (by decide) (lt_Units_L0 o)
theorem sskip (o : UnitG) : Statement (.sskip o) := intro rfl (by decide) (by decide) (lt_UnitG_L1 o)
theorem spos (o : UnitG) : Statement (.spos o) := intro rfl (by decide) (by decide) (lt_UnitG_L1 o)
theorem ssave (o : UnitM) : Statement (.ssave o) := intro rfl (by decide) (by decide) (lt_UnitM_L1_0_192 o)
theorem ssaveL2 (o : UnitX) : Statement (.ssaveL2 o) := intro rfl (by decide) (by decide) (lt_UnitX_L2_0_192 o)
theorem sload (o : UnitM) : Statement (.sload o) := intro rfl (by decide) (by decide) (lt_UnitM_L1_0_192 o)
theorem sloadL2 (o : UnitX) : Statement (.sloadL2 o) := intro rfl (by decide) (by decide) (lt_UnitX_L2_0_192 o)
theorem sisect (o : SetO) : Statement (.sisect o) := intro rfl (by decide) (by decide) (lt_SetO_L1 o)
theorem sunion (o : SetO) : Statement (.sunion o) := intro rfl (by decide) (by decide) (lt_SetO_L1 o)
theorem sstatPos (o : UnitG) : Statement (.sstatPos o) := intro rfl (by decide) (by decide) (lt_UnitG_L1 o)
theorem sstatSt (o : UnitG) : Statement (.sstatSt o) := intro rfl (by decide) (by decide) (lt_UnitG_L1_0_64 o)
theorem scoord (o : ScoordO) : Statement (.scoord o) := intro rfl (by decide) (by decide) (lt_ScoordO_L2 o)
theorem fadd (o : FP3) : Statement (.fadd o) := intro rfl (by decide) (by decide) (lt_FP3_L1 o)
theorem faddL2 (o : FP3R) : Statement (.faddL2 o) := intro rfl (by decide) (by decide) (lt_FP3R_L2 o)
theorem fsub (o : FP3) : Statement (.fsub o) := intro rfl (by decide) (by decide) (lt_FP3_L1 o)
theorem fsubL2 (o : FP3R) : Statement (.fsubL2 o) := intro rfl (by decide) (by decide) (lt_FP3R_L2 o)
theorem fmul (o : FP3) : Statement (.fmul o) := intro rfl (by decide) (by decide) (lt_FP3_L1 o)
theorem fmulL2 (o : FP3R) : Statement (.fmulL2 o) := intro rfl (by decide) (by decide) (lt_FP3R_L2 o)
theorem fma (o : FP4R) : Statement (.fma o) := intro rfl (by decide) (by decide) (lt_FP4R_L2 o)
theorem fms (o : FP4R) : Statement (.fms o) := intro rfl (by decide) (by decide) (lt_FP4R_L2_0_2097152 o)
theorem fnma (o : FP4R) : Statement (.fnma o) := intro rfl (by decide) (by decide) (lt_FP4R_L2_0_4194304 o)
theorem fnms (o : FP4R) : Statement (.fnms o) := intro rfl (by decide) (by decide) (lt_FP4R_L2_0_6291456 o)
theorem fmin (o : FP3) : Statement (.fmin o) := intro rfl (by decide) (by decide) (lt_FP3_L1 o)
theorem fminL2 (o : FP3H) : Statement (.fminL2 o) := intro rfl (by decide) (by decide) (lt_FP3H_L2 o)
theorem fmax (o : FP3) : Statement (.fmax o) := intro rfl (by decide) (by decide) (lt_FP3_L1 o)
theorem fmaxL2 (o : FP3H) : Statement (.fmaxL2 o) := intro rfl (by decide) (by decide) (lt_FP3H_L2 o)
theorem fneg (o : FP2) : Statement (.fneg o) := intro rfl (by decide) (by decide) (lt_FP2_L1 o)
theorem fnegL2 (o : FP2H) : Statement (.fnegL2 o) := intro rfl (by decide) (by decide) (lt_FP2H_L2 o)
theorem fabs (o : FP2H) : Statement (.fabs o) := intro rfl (by decide) (by decide) (lt_FP2H_L2_0_2097152 o)
theorem fcpsgn (o : FP3H) : Statement (.fcpsgn o) := intro rfl (by decide) (by decide) (lt_FP3H_L2_0_4194304 o)
theorem feq (o : FC3) : Statement (.feq o) := intro rfl (by decide) (by decide) (lt_FC3_L1 o)
theorem feqL2 (o : FC3H) : Statement (.feqL2 o) := intro rfl (by decide) (by decide) (lt_FC3H_L2 o)
theorem flt (o : FC3) : Statement (.flt o) := intro rfl (by decide) (by decide) (lt_FC3_L1_0_16384 o)
theorem fltL2 (o : FC3H) : Statement (.fltL2 o) := intro rfl (by decide) (by decide) (lt_FC3H_L2_0_67108864 o)
theorem fle (o : FC3) : Statement (.fle o) := intro rfl (by decide) (by decide) (lt_FC3_L1_0_32768 o)
theorem fleL2 (o : FC3H) : Statement (.fleL2 o) := intro rfl (by decide) (by decide) (lt_FC3H_L2_0_134217728 o)
theorem funo (o : FC3) : Statement (.funo o) := intro rfl (by decide) (by decide) (lt_FC3_L1_0_49152 o)
theorem funoL2 (o : FC3H) : Statement (.funoL2 o) := intro rfl (by decide) (by decide) (lt_FC3H_L2_0_201326592 o)
theorem fclass (o : FC2) : Statement (.fclass o) := intro rfl (by decide) (by decide) (lt_FC2_L1 o)
theorem fcvt (o : CvtR) : Statement (.fcvt o) := intro rfl (by decide) (by decide) (lt_CvtR_L1 o)
theorem fcvtL2 (o : CvtX) : Statement (.fcvtL2 o) := intro rfl (by decide) (by decide) (lt_CvtX_L2 o)
theorem fcvti (o : CviR) : Statement (.fcvti o) := intro rfl (by decide) (by decide) (lt_CviR_L1 o)
theorem fcvtiL2 (o : CviX) : Statement (.fcvtiL2 o) := intro rfl (by decide) (by decide) (lt_CviX_L2 o)
theorem icvtf (o : IcvR) : Statement (.icvtf o) := intro rfl (by decide) (by decide) (lt_IcvR_L1 o)
theorem icvtfL2 (o : IcvX) : Statement (.icvtfL2 o) := intro rfl (by decide) (by decide) (lt_IcvX_L2 o)
theorem fmvg (o : GF) : Statement (.fmvg o) := intro rfl (by decide) (by decide) (lt_GF_L1 o)
theorem gmvf (o : FG) : Statement (.gmvf o) := intro rfl (by decide) (by decide) (lt_FG_L1 o)
theorem fli (o : FK16) : Statement (.fli o) := intro rfl (by decide) (by decide) (lt_FK16_L1 o)
theorem fliL2 (o : FK32) : Statement (.fliL2 o) := intro rfl (by decide) (by decide) (lt_FK32_L2 o)
theorem fliL3 (o : FK64) : Statement (.fliL3 o) := intro rfl (by decide) (by decide) (lt_FK64_L3 o)
theorem fsel (o : F4H) : Statement (.fsel o) := intro rfl (by decide) (by decide) (lt_F4H_L2 o)
theorem padd (o : PE3) : Statement (.padd o) := intro rfl (by decide) (by decide) (lt_PE3_L1 o)
theorem paddL2 (o : PE3H) : Statement (.paddL2 o) := intro rfl (by decide) (by decide) (lt_PE3H_L2 o)
theorem psub (o : PE3) : Statement (.psub o) := intro rfl (by decide) (by decide) (lt_PE3_L1 o)
theorem psubL2 (o : PE3H) : Statement (.psubL2 o) := intro rfl (by decide) (by decide) (lt_PE3H_L2 o)
theorem pmul (o : PE3) : Statement (.pmul o) := intro rfl (by decide) (by decide) (lt_PE3_L1 o)
theorem pmulL2 (o : PE3H) : Statement (.pmulL2 o) := intro rfl (by decide) (by decide) (lt_PE3H_L2 o)
theorem pfma (o : PE4H) : Statement (.pfma o) := intro rfl (by decide) (by decide) (lt_PE4H_L2 o)
theorem pmin (o : PE3) : Statement (.pmin o) := intro rfl (by decide) (by decide) (lt_PE3_L1 o)
theorem pminL2 (o : PE3H) : Statement (.pminL2 o) := intro rfl (by decide) (by decide) (lt_PE3H_L2 o)
theorem pmax (o : PE3) : Statement (.pmax o) := intro rfl (by decide) (by decide) (lt_PE3_L1 o)
theorem pmaxL2 (o : PE3H) : Statement (.pmaxL2 o) := intro rfl (by decide) (by decide) (lt_PE3H_L2 o)
theorem pdot (o : PE4H) : Statement (.pdot o) := intro rfl (by decide) (by decide) (lt_PE4H_L2 o)
theorem psum (o : PE3) : Statement (.psum o) := intro rfl (by decide) (by decide) (lt_PE3_L1 o)
theorem psumL2 (o : PE3H) : Statement (.psumL2 o) := intro rfl (by decide) (by decide) (lt_PE3H_L2 o)
theorem pshuf (o : PE3) : Statement (.pshuf o) := intro rfl (by decide) (by decide) (lt_PE3_L1 o)
theorem pshufL2 (o : PE3H) : Statement (.pshufL2 o) := intro rfl (by decide) (by decide) (lt_PE3H_L2 o)
theorem pbcast (o : PBc) : Statement (.pbcast o) := intro rfl (by decide) (by decide) (lt_PBc_L1 o)
theorem pbcastL2 (o : PBcH) : Statement (.pbcastL2 o) := intro rfl (by decide) (by decide) (lt_PBcH_L2 o)
theorem ppack (o : PW3) : Statement (.ppack o) := intro rfl (by decide) (by decide) (lt_PW3_L1 o)
theorem ppackL2 (o : PW3H) : Statement (.ppackL2 o) := intro rfl (by decide) (by decide) (lt_PW3H_L2 o)
theorem punpack (o : PW2) : Statement (.punpack o) := intro rfl (by decide) (by decide) (lt_PW2_L1 o)
theorem punpackL2 (o : PW2H) : Statement (.punpackL2 o) := intro rfl (by decide) (by decide) (lt_PW2H_L2 o)
theorem pq (o : PW3) : Statement (.pq o) := intro rfl (by decide) (by decide) (lt_PW3_L1 o)
theorem pqL2 (o : PW4H) : Statement (.pqL2 o) := intro rfl (by decide) (by decide) (lt_PW4H_L2 o)
theorem pdq (o : PW2) : Statement (.pdq o) := intro rfl (by decide) (by decide) (lt_PW2_L1 o)
theorem pdqL2 (o : PWcH) : Statement (.pdqL2 o) := intro rfl (by decide) (by decide) (lt_PWcH_L2 o)
theorem peq (o : PE3) : Statement (.peq o) := intro rfl (by decide) (by decide) (lt_PE3_L1 o)
theorem peqL2 (o : PE3H) : Statement (.peqL2 o) := intro rfl (by decide) (by decide) (lt_PE3H_L2 o)
theorem plt (o : PE3) : Statement (.plt o) := intro rfl (by decide) (by decide) (lt_PE3_L1_0_16384 o)
theorem pltL2 (o : PE3H) : Statement (.pltL2 o) := intro rfl (by decide) (by decide) (lt_PE3H_L2_0_67108864 o)
theorem ple (o : PE3) : Statement (.ple o) := intro rfl (by decide) (by decide) (lt_PE3_L1_0_32768 o)
theorem pleL2 (o : PE3H) : Statement (.pleL2 o) := intro rfl (by decide) (by decide) (lt_PE3H_L2_0_134217728 o)
theorem puno (o : PE3) : Statement (.puno o) := intro rfl (by decide) (by decide) (lt_PE3_L1_0_49152 o)
theorem punoL2 (o : PE3H) : Statement (.punoL2 o) := intro rfl (by decide) (by decide) (lt_PE3H_L2_0_201326592 o)
theorem pand (o : F3) : Statement (.pand o) := intro rfl (by decide) (by decide) (lt_F3_L1 o)
theorem pandL2 (o : F3H) : Statement (.pandL2 o) := intro rfl (by decide) (by decide) (lt_F3H_L2 o)
theorem por (o : F3) : Statement (.por o) := intro rfl (by decide) (by decide) (lt_F3_L1_0_4096 o)
theorem porL2 (o : F3H) : Statement (.porL2 o) := intro rfl (by decide) (by decide) (lt_F3H_L2_0_16777216 o)
theorem pxor (o : F3) : Statement (.pxor o) := intro rfl (by decide) (by decide) (lt_F3_L1_0_8192 o)
theorem pxorL2 (o : F3H) : Statement (.pxorL2 o) := intro rfl (by decide) (by decide) (lt_F3H_L2_0_33554432 o)
theorem pandn (o : F3) : Statement (.pandn o) := intro rfl (by decide) (by decide) (lt_F3_L1_0_12288 o)
theorem pandnL2 (o : F3H) : Statement (.pandnL2 o) := intro rfl (by decide) (by decide) (lt_F3H_L2_0_50331648 o)
theorem pmov (o : F2) : Statement (.pmov o) := intro rfl (by decide) (by decide) (lt_F2_L1 o)
theorem pmovL2 (o : F2H) : Statement (.pmovL2 o) := intro rfl (by decide) (by decide) (lt_F2H_L2 o)
theorem fmt (o : K32) : Statement (.fmt o) := intro rfl (by decide) (by decide) (lt_K32_L2 o)
theorem frcp (o : FP2) : Statement (.frcp o) := intro rfl (by decide) (by decide) (lt_FP2_L1 o)
theorem frcpL2 (o : FP2H) : Statement (.frcpL2 o) := intro rfl (by decide) (by decide) (lt_FP2H_L2 o)
theorem frsqrt (o : FP2) : Statement (.frsqrt o) := intro rfl (by decide) (by decide) (lt_FP2_L1 o)
theorem frsqrtL2 (o : FP2H) : Statement (.frsqrtL2 o) := intro rfl (by decide) (by decide) (lt_FP2H_L2 o)
theorem fsqrt (o : FP2) : Statement (.fsqrt o) := intro rfl (by decide) (by decide) (lt_FP2_L1 o)
theorem fsqrtL2 (o : FP2H) : Statement (.fsqrtL2 o) := intro rfl (by decide) (by decide) (lt_FP2H_L2 o)
theorem fdiv (o : FP3) : Statement (.fdiv o) := intro rfl (by decide) (by decide) (lt_FP3_L1 o)
theorem fdivL2 (o : FP3H) : Statement (.fdivL2 o) := intro rfl (by decide) (by decide) (lt_FP3H_L2 o)
theorem fexp2 (o : FS2) : Statement (.fexp2 o) := intro rfl (by decide) (by decide) (lt_FS2_L1 o)
theorem fexp2L2 (o : FS2H) : Statement (.fexp2L2 o) := intro rfl (by decide) (by decide) (lt_FS2H_L2 o)
theorem flog2 (o : FS2) : Statement (.flog2 o) := intro rfl (by decide) (by decide) (lt_FS2_L1 o)
theorem flog2L2 (o : FS2H) : Statement (.flog2L2 o) := intro rfl (by decide) (by decide) (lt_FS2H_L2 o)
theorem ftanh (o : FS2) : Statement (.ftanh o) := intro rfl (by decide) (by decide) (lt_FS2_L1 o)
theorem ftanhL2 (o : FS2H) : Statement (.ftanhL2 o) := intro rfl (by decide) (by decide) (lt_FS2H_L2 o)
theorem fsigm (o : FS2) : Statement (.fsigm o) := intro rfl (by decide) (by decide) (lt_FS2_L1 o)
theorem fsigmL2 (o : FS2H) : Statement (.fsigmL2 o) := intro rfl (by decide) (by decide) (lt_FS2H_L2 o)
theorem send (o : SendO) : Statement (.send o) := intro rfl (by decide) (by decide) (lt_SendO_L2 o)
theorem sendn (o : SendnO) : Statement (.sendn o) := intro rfl (by decide) (by decide) (lt_SendnO_L3 o)
theorem recv (o : RecvR) : Statement (.recv o) := intro rfl (by decide) (by decide) (lt_RecvR_L1 o)
theorem recvL2 (o : RecvX) : Statement (.recvL2 o) := intro rfl (by decide) (by decide) (lt_RecvX_L2 o)
theorem recvTry (o : RecvR) : Statement (.recvTry o) := intro rfl (by decide) (by decide) (lt_RecvR_L1_0_256 o)
theorem recvTryL2 (o : RecvX) : Statement (.recvTryL2 o) := intro rfl (by decide) (by decide) (lt_RecvX_L2_0_256 o)
theorem mstat (o : GCls) : Statement (.mstat o) := intro rfl (by decide) (by decide) (lt_GCls_L1 o)
theorem mstatL2 (o : GCls) : Statement (.mstatL2 o) := intro rfl (by decide) (by decide) (lt_GCls_L2 o)
theorem mstatClr (o : GCls) : Statement (.mstatClr o) := intro rfl (by decide) (by decide) (lt_GCls_L1_0_4096 o)
theorem mstatClrL2 (o : GCls) : Statement (.mstatClrL2 o) := intro rfl (by decide) (by decide) (lt_GCls_L2_0_16777216 o)
theorem qend (o : QendO) : Statement (.qend o) := intro rfl (by decide) (by decide) (lt_QendO_L1_48_0 o)
theorem qctlSt (o : QctlO) : Statement (.qctlSt o) := intro rfl (by decide) (by decide) (lt_QctlO_L1 o)
theorem qctlStL2 (o : QctlO) : Statement (.qctlStL2 o) := intro rfl (by decide) (by decide) (lt_QctlO_L2 o)
theorem qctlClr (o : QctlO) : Statement (.qctlClr o) := intro rfl (by decide) (by decide) (lt_QctlO_L1_0_256 o)
theorem qctlClrL2 (o : QctlO) : Statement (.qctlClrL2 o) := intro rfl (by decide) (by decide) (lt_QctlO_L2_0_256 o)
theorem qctlBind (o : QctlO) : Statement (.qctlBind o) := intro rfl (by decide) (by decide) (lt_QctlO_L1_0_512 o)
theorem qctlBindL2 (o : QctlO) : Statement (.qctlBindL2 o) := intro rfl (by decide) (by decide) (lt_QctlO_L2_0_512 o)
theorem qret : Statement .qret := intro rfl (by decide) (by decide) (by decide)
theorem get (o : XferO) : Statement (.get o) := intro rfl (by decide) (by decide) (lt_XferO_L3 o)
theorem put (o : XferO) : Statement (.put o) := intro rfl (by decide) (by decide) (lt_XferO_L3 o)
theorem getx (o : XferI) : Statement (.getx o) := intro rfl (by decide) (by decide) (lt_XferI_L3 o)
theorem putx (o : XferI) : Statement (.putx o) := intro rfl (by decide) (by decide) (lt_XferI_L3 o)
theorem cwait (o : CtrO) : Statement (.cwait o) := intro rfl (by decide) (by decide) (lt_CtrO_L1 o)
theorem cwaitL2 (o : CtrO) : Statement (.cwaitL2 o) := intro rfl (by decide) (by decide) (lt_CtrO_L2 o)
theorem cop (o : CtrO) : Statement (.cop o) := intro rfl (by decide) (by decide) (lt_CtrO_L1 o)
theorem copL2 (o : CtrO) : Statement (.copL2 o) := intro rfl (by decide) (by decide) (lt_CtrO_L2 o)
theorem mbind (o : MbindO) : Statement (.mbind o) := intro rfl (by decide) (by decide) (lt_MbindO_L3 o)
theorem gbarArr (o : GbarA) : Statement (.gbarArr o) := intro rfl (by decide) (by decide) (lt_GbarA_L1 o)
theorem gbarWait (o : GbarG) : Statement (.gbarWait o) := intro rfl (by decide) (by decide) (lt_GbarG_L1_4_0 o)
theorem gbar (o : GbarG) : Statement (.gbar o) := intro rfl (by decide) (by decide) (lt_GbarG_L1_8_0 o)
theorem gredSum (o : GredR) : Statement (.gredSum o) := intro rfl (by decide) (by decide) (lt_GredR_L1 o)
theorem gredSumL2 (o : GredX) : Statement (.gredSumL2 o) := intro rfl (by decide) (by decide) (lt_GredX_L2 o)
theorem gredMin (o : GredR) : Statement (.gredMin o) := intro rfl (by decide) (by decide) (lt_GredR_L1_0_4096 o)
theorem gredMinL2 (o : GredX) : Statement (.gredMinL2 o) := intro rfl (by decide) (by decide) (lt_GredX_L2_0_16777216 o)
theorem gredMax (o : GredR) : Statement (.gredMax o) := intro rfl (by decide) (by decide) (lt_GredR_L1_0_8192 o)
theorem gredMaxL2 (o : GredX) : Statement (.gredMaxL2 o) := intro rfl (by decide) (by decide) (lt_GredX_L2_0_33554432 o)
theorem gredAnd (o : GredR) : Statement (.gredAnd o) := intro rfl (by decide) (by decide) (lt_GredR_L1_0_12288 o)
theorem gredAndL2 (o : GredX) : Statement (.gredAndL2 o) := intro rfl (by decide) (by decide) (lt_GredX_L2_0_50331648 o)
theorem gredOr (o : GredR) : Statement (.gredOr o) := intro rfl (by decide) (by decide) (lt_GredR_L1_0_16384 o)
theorem gredOrL2 (o : GredX) : Statement (.gredOrL2 o) := intro rfl (by decide) (by decide) (lt_GredX_L2_0_67108864 o)
theorem gcast (o : GcastR) : Statement (.gcast o) := intro rfl (by decide) (by decide) (lt_GcastR_L1 o)
theorem gcastL2 (o : GcastX) : Statement (.gcastL2 o) := intro rfl (by decide) (by decide) (lt_GcastX_L2 o)
theorem gsum (o : GsumO) : Statement (.gsum o) := intro rfl (by decide) (by decide) (lt_GsumO_L2 o)
theorem semsig (o : SemR) : Statement (.semsig o) := intro rfl (by decide) (by decide) (lt_SemR_L1 o)
theorem semsigL2 (o : SemX) : Statement (.semsigL2 o) := intro rfl (by decide) (by decide) (lt_SemX_L2 o)
theorem semwait (o : SemR) : Statement (.semwait o) := intro rfl (by decide) (by decide) (lt_SemR_L1 o)
theorem semwaitL2 (o : SemX) : Statement (.semwaitL2 o) := intro rfl (by decide) (by decide) (lt_SemX_L2 o)
theorem semread (o : GG) : Statement (.semread o) := intro rfl (by decide) (by decide) (lt_GG_L1 o)
theorem semreadL2 (o : GG) : Statement (.semreadL2 o) := intro rfl (by decide) (by decide) (lt_GG_L2 o)
theorem estatSt (o : GG) : Statement (.estatSt o) := intro rfl (by decide) (by decide) (lt_GG_L1 o)
theorem estatStL2 (o : GG) : Statement (.estatStL2 o) := intro rfl (by decide) (by decide) (lt_GG_L2 o)
theorem estatRec (o : GG) : Statement (.estatRec o) := intro rfl (by decide) (by decide) (lt_GG_L1_0_64 o)
theorem estatRecL2 (o : GG) : Statement (.estatRecL2 o) := intro rfl (by decide) (by decide) (lt_GG_L2_0_64 o)
theorem estatRes (o : GG) : Statement (.estatRes o) := intro rfl (by decide) (by decide) (lt_GG_L1_0_128 o)
theorem estatResL2 (o : GG) : Statement (.estatResL2 o) := intro rfl (by decide) (by decide) (lt_GG_L2_0_128 o)
theorem estatDel (o : GG) : Statement (.estatDel o) := intro rfl (by decide) (by decide) (lt_GG_L1_0_192 o)
theorem estatDelL2 (o : GG) : Statement (.estatDelL2 o) := intro rfl (by decide) (by decide) (lt_GG_L2_0_192 o)
theorem estatWin (o : GD) : Statement (.estatWin o) := intro rfl (by decide) (by decide) (lt_GD_L1_0_256 o)
theorem estatWinL2 (o : GD) : Statement (.estatWinL2 o) := intro rfl (by decide) (by decide) (lt_GD_L2_0_256 o)
theorem estatQ (o : GD) : Statement (.estatQ o) := intro rfl (by decide) (by decide) (lt_GD_L1_0_320 o)
theorem estatQL2 (o : GD) : Statement (.estatQL2 o) := intro rfl (by decide) (by decide) (lt_GD_L2_0_320 o)
theorem evcRd (o : EvcN) : Statement (.evcRd o) := intro rfl (by decide) (by decide) (lt_EvcN_L1 o)
theorem evcRdL2 (o : EvcN) : Statement (.evcRdL2 o) := intro rfl (by decide) (by decide) (lt_EvcN_L2 o)
theorem evcSet (o : EvcA) : Statement (.evcSet o) := intro rfl (by decide) (by decide) (lt_EvcA_L1_0_1024 o)
theorem evcSetL2 (o : EvcA) : Statement (.evcSetL2 o) := intro rfl (by decide) (by decide) (lt_EvcA_L2_0_1024 o)
theorem evcRc (o : EvcN) : Statement (.evcRc o) := intro rfl (by decide) (by decide) (lt_EvcN_L1_0_2048 o)
theorem evcRcL2 (o : EvcN) : Statement (.evcRcL2 o) := intro rfl (by decide) (by decide) (lt_EvcN_L2_0_2048 o)
theorem vbind (o : VbM) : Statement (.vbind o) := intro rfl (by decide) (by decide) (lt_VbM_L1_0_192 o)
theorem vbindL2 (o : VbX) : Statement (.vbindL2 o) := intro rfl (by decide) (by decide) (lt_VbX_L2_0_192 o)
theorem vbindOff (o : VbOff) : Statement (.vbindOff o) := intro rfl (by decide) (by decide) (lt_VbOff_L1_4_0 o)
theorem cld (o : CldO) : Statement (.cld o) := intro rfl (by decide) (by decide) (lt_CldO_L2 o)
theorem cst (o : CvO) : Statement (.cst o) := intro rfl (by decide) (by decide) (lt_CvO_L2 o)
theorem cprobe (o : CvO) : Statement (.cprobe o) := intro rfl (by decide) (by decide) (lt_CvO_L2 o)
theorem camoadd (o : CamoO) : Statement (.camoadd o) := intro rfl (by decide) (by decide) (lt_CamoO_L2 o)
theorem camoand (o : CamoO) : Statement (.camoand o) := intro rfl (by decide) (by decide) (lt_CamoO_L2_0_16777216 o)
theorem camoor (o : CamoO) : Statement (.camoor o) := intro rfl (by decide) (by decide) (lt_CamoO_L2_0_33554432 o)
theorem camoxor (o : CamoO) : Statement (.camoxor o) := intro rfl (by decide) (by decide) (lt_CamoO_L2_0_50331648 o)
theorem camomin (o : CamoO) : Statement (.camomin o) := intro rfl (by decide) (by decide) (lt_CamoO_L2_0_67108864 o)
theorem camomax (o : CamoO) : Statement (.camomax o) := intro rfl (by decide) (by decide) (lt_CamoO_L2_0_83886080 o)
theorem camominz (o : CamoO) : Statement (.camominz o) := intro rfl (by decide) (by decide) (lt_CamoO_L2_0_100663296 o)
theorem camomaxz (o : CamoO) : Statement (.camomaxz o) := intro rfl (by decide) (by decide) (lt_CamoO_L2_0_117440512 o)
theorem camoswap (o : CamoO) : Statement (.camoswap o) := intro rfl (by decide) (by decide) (lt_CamoO_L2_0_134217728 o)
theorem ccas (o : CamoO) : Statement (.ccas o) := intro rfl (by decide) (by decide) (lt_CamoO_L2_0_150994944 o)
theorem cinv (o : CinvO) : Statement (.cinv o) := intro rfl (by decide) (by decide) (lt_CinvO_L1 o)
theorem cinvAll (o : CinvA) : Statement (.cinvAll o) := intro rfl (by decide) (by decide) (lt_CinvA_L1_32_0 o)
theorem callocGet (o : CvO) : Statement (.callocGet o) := intro rfl (by decide) (by decide) (lt_CvO_L1 o)
theorem callocCut (o : CvO) : Statement (.callocCut o) := intro rfl (by decide) (by decide) (lt_CvO_L1_0_256 o)
theorem callocFree (o : CfreeO) : Statement (.callocFree o) := intro rfl (by decide) (by decide) (lt_CfreeO_L1_0_512 o)
theorem callocNode (o : CnodeO) : Statement (.callocNode o) := intro rfl (by decide) (by decide) (lt_CnodeO_L1_0_768 o)
theorem cnbr (o : CvO) : Statement (.cnbr o) := intro rfl (by decide) (by decide) (lt_CvO_L2 o)
theorem csrr (o : CsrR) : Statement (.csrr o) := intro rfl (by decide) (by decide) (lt_CsrR_L1 o)
theorem csrw (o : CsrA) : Statement (.csrw o) := intro rfl (by decide) (by decide) (lt_CsrA_L1 o)
theorem csrs (o : CsrA) : Statement (.csrs o) := intro rfl (by decide) (by decide) (lt_CsrA_L1 o)
theorem csrc (o : CsrA) : Statement (.csrc o) := intro rfl (by decide) (by decide) (lt_CsrA_L1 o)
theorem trap (o : K16) : Statement (.trap o) := intro rfl (by decide) (by decide) (lt_K16_L1 o)
theorem tret : Statement .tret := intro rfl (by decide) (by decide) (by decide)
theorem brk : Statement .brk := intro rfl (by decide) (by decide) (by decide)
theorem brkL1 (o : K16) : Statement (.brkL1 o) := intro rfl (by decide) (by decide) (lt_K16_L1 o)
theorem tlbiPage (o : TlbP) : Statement (.tlbiPage o) := intro rfl (by decide) (by decide) (lt_TlbP_L1 o)
theorem tlbiCtx (o : TlbC) : Statement (.tlbiCtx o) := intro rfl (by decide) (by decide) (lt_TlbC_L1_0_64 o)
theorem tlbiAll (o : TlbA) : Statement (.tlbiAll o) := intro rfl (by decide) (by decide) (lt_TlbA_L1_0_128 o)
theorem tlbiRange (o : TlbR) : Statement (.tlbiRange o) := intro rfl (by decide) (by decide) (lt_TlbR_L2_0_192 o)
theorem ifence : Statement .ifence := intro rfl (by decide) (by decide) (by decide)
theorem wfi : Statement .wfi := intro rfl (by decide) (by decide) (by decide)
theorem ctxswReq : Statement .ctxswReq := intro rfl (by decide) (by decide) (by decide)
theorem ctxswFlush : Statement .ctxswFlush := intro rfl (by decide) (by decide) (by decide)
theorem syscHold (o : GG) : Statement (.syscHold o) := intro rfl (by decide) (by decide) (lt_GG_L1 o)
theorem syscRel (o : GD) : Statement (.syscRel o) := intro rfl (by decide) (by decide) (lt_GD_L1_0_64 o)
theorem syscWake (o : GG) : Statement (.syscWake o) := intro rfl (by decide) (by decide) (lt_GG_L1_0_128 o)
theorem syscStop (o : GG) : Statement (.syscStop o) := intro rfl (by decide) (by decide) (lt_GG_L1_0_192 o)
theorem fIssue (slot : BitVec 2) : Statement (.fIssue slot) := fun _ he => nomatch he
theorem fCommit (slot : BitVec 2) : Statement (.fCommit slot) := fun _ he => nomatch he
theorem sfuServiceStart : Statement (.sfuServiceStart) := fun _ he => nomatch he
theorem sfuResultWrite : Statement (.sfuResultWrite) := fun _ he => nomatch he
theorem divideComplete : Statement (.divideComplete) := fun _ he => nomatch he
theorem loadDataReturn (slot : BitVec 2) : Statement (.loadDataReturn slot) := fun _ he => nomatch he
theorem lineFetchReturn (slot : BitVec 2) : Statement (.lineFetchReturn slot) := fun _ he => nomatch he
theorem storeDrain (slot : BitVec 2) : Statement (.storeDrain slot) := fun _ he => nomatch he
theorem repReplayDispatch (slot : BitVec 2) : Statement (.repReplayDispatch slot) := fun _ he => nomatch he
theorem pauseExpiry (slot : BitVec 2) : Statement (.pauseExpiry slot) := fun _ he => nomatch he
theorem trapEntry (slot : BitVec 2) : Statement (.trapEntry slot) := fun _ he => nomatch he
theorem lightHandlerEntry (slot : BitVec 2) : Statement (.lightHandlerEntry slot) := fun _ he => nomatch he
theorem streamRead (slot : BitVec 2) (unit : BitVec 2) : Statement (.streamRead slot unit) := fun _ he => nomatch he
theorem ringFetch (slot : BitVec 2) (unit : BitVec 2) : Statement (.ringFetch slot unit) := fun _ he => nomatch he
theorem setOpPass (slot : BitVec 2) (unit : BitVec 2) : Statement (.setOpPass slot unit) := fun _ he => nomatch he
theorem feRemoteRetry (slot : BitVec 2) : Statement (.feRemoteRetry slot) := fun _ he => nomatch he
theorem waitaPoll (slot : BitVec 2) : Statement (.waitaPoll slot) := fun _ he => nomatch he
theorem syscHoldExpiry (slot : BitVec 2) : Statement (.syscHoldExpiry slot) := fun _ he => nomatch he
theorem messageInject : Statement (.messageInject) := fun _ he => nomatch he
theorem messageArrival (k : Nat) : Statement (.messageArrival k) := fun _ he => nomatch he
theorem messageAck (k : Nat) : Statement (.messageAck k) := fun _ he => nomatch he
theorem messageNack (k : Nat) : Statement (.messageNack k) := fun _ he => nomatch he
theorem messageRetryReady (entry : Nat) : Statement (.messageRetryReady entry) := fun _ he => nomatch he
theorem queueWordArrival (k : Nat) : Statement (.queueWordArrival k) := fun _ he => nomatch he
theorem transferComplete (ring : BitVec 4) : Statement (.transferComplete ring) := fun _ he => nomatch he
theorem transferFailure (ring : BitVec 4) (acause : BitVec 8) : Statement (.transferFailure ring acause) := fun _ he => nomatch he
theorem mailboxLaunch (slot : BitVec 2) : Statement (.mailboxLaunch slot) := fun _ he => nomatch he
theorem commandAccept : Statement (.commandAccept) := fun _ he => nomatch he
theorem tumblerAdmit : Statement (.tumblerAdmit) := fun _ he => nomatch he
theorem copy1d (job : Nat) : Statement (.copy1d job) := fun _ he => nomatch he
theorem copy2d (job : Nat) : Statement (.copy2d job) := fun _ he => nomatch he
theorem gather (job : Nat) : Statement (.gather job) := fun _ he => nomatch he
theorem scatter (job : Nat) : Statement (.scatter job) := fun _ he => nomatch he
theorem fill (job : Nat) : Statement (.fill job) := fun _ he => nomatch he
theorem notify (job : Nat) : Statement (.notify job) := fun _ he => nomatch he
theorem zacc (job : Nat) : Statement (.zacc job) := fun _ he => nomatch he
theorem lacc (job : Nat) : Statement (.lacc job) := fun _ he => nomatch he
theorem sacc (job : Nat) : Statement (.sacc job) := fun _ he => nomatch he
theorem mma (job : Nat) : Statement (.mma job) := fun _ he => nomatch he
theorem mmar (job : Nat) : Statement (.mmar job) := fun _ he => nomatch he
theorem qtile (job : Nat) : Statement (.qtile job) := fun _ he => nomatch he
theorem jobComplete (job : Nat) : Statement (.jobComplete job) := fun _ he => nomatch he
theorem jobFail (job : Nat) : Statement (.jobFail job) := fun _ he => nomatch he
theorem tumblerStuck : Statement (.tumblerStuck) := fun _ he => nomatch he
theorem periodStart (die : BitVec 4) : Statement (.periodStart die) := fun _ he => nomatch he
theorem energyBudgetSpent : Statement (.energyBudgetSpent) := fun _ he => nomatch he
theorem teamPlace (team : Nat) : Statement (.teamPlace team) := fun _ he => nomatch he
theorem teamComplete (team : Nat) : Statement (.teamComplete team) := fun _ he => nomatch he
theorem teamAged (team : Nat) : Statement (.teamAged team) := fun _ he => nomatch he
theorem switchIn (slot : BitVec 2) (thread : Nat) : Statement (.switchIn slot thread) := fun _ he => nomatch he
theorem clusterSave (team : Nat) (lcn : BitVec 17) : Statement (.clusterSave team lcn) := fun _ he => nomatch he
theorem missPresent : Statement (.missPresent) := fun _ he => nomatch he
theorem missResult : Statement (.missResult) := fun _ he => nomatch he
theorem pageinRequestArrival (k : Nat) : Statement (.pageinRequestArrival k) := fun _ he => nomatch he
theorem pageinResolve (k : Nat) (refused : Bool) (tables : List (BitVec 50)) (leaf : BitVec 64) : Statement (.pageinResolve k refused tables leaf) := fun _ he => nomatch he
theorem pageinWake (k : Nat) : Statement (.pageinWake k) := fun _ he => nomatch he
theorem doorbellTail (q : BitVec 10) (tail : BitVec 32) : Statement (.doorbellTail q tail) := fun _ he => nomatch he
theorem qswSwitchIn (q : BitVec 10) (hslot : BitVec 6) : Statement (.qswSwitchIn q hslot) := fun _ he => nomatch he
theorem qswSwitchOut (q : BitVec 10) : Statement (.qswSwitchOut q) := fun _ he => nomatch he
theorem qctlContinue (q : BitVec 10) : Statement (.qctlContinue q) := fun _ he => nomatch he
theorem qctlSkip (q : BitVec 10) : Statement (.qctlSkip q) := fun _ he => nomatch he
theorem semvWrite (sem : BitVec 8) (val : BitVec 32) : Statement (.semvWrite sem val) := fun _ he => nomatch he
theorem semaddWrite (sem : BitVec 8) (val : BitVec 32) : Statement (.semaddWrite sem val) := fun _ he => nomatch he
theorem queueRecordWrite (q : BitVec 10) (word : BitVec 3) (val : BitVec 64) : Statement (.queueRecordWrite q word val) := fun _ he => nomatch he
theorem registerWrite (reg : PlainReg) (val : BitVec 64) : Statement (.registerWrite reg val) := fun _ he => nomatch he
theorem keywayCommandRead (q : BitVec 10) (bad : Bool) : Statement (.keywayCommandRead q bad) := fun _ he => nomatch he
theorem queueAging (q : BitVec 10) : Statement (.queueAging q) := fun _ he => nomatch he
theorem knop (q : BitVec 10) : Statement (.knop q) := fun _ he => nomatch he
theorem klaunch (q : BitVec 10) : Statement (.klaunch q) := fun _ he => nomatch he
theorem kcopy (q : BitVec 10) : Statement (.kcopy q) := fun _ he => nomatch he
theorem kfill (q : BitVec 10) : Statement (.kfill q) := fun _ he => nomatch he
theorem kwrite (q : BitVec 10) : Statement (.kwrite q) := fun _ he => nomatch he
theorem kintr (q : BitVec 10) : Statement (.kintr q) := fun _ he => nomatch he
theorem kctx (q : BitVec 10) : Statement (.kctx q) := fun _ he => nomatch he
theorem kclu (q : BitVec 10) : Statement (.kclu q) := fun _ he => nomatch he
theorem kbudget (q : BitVec 10) : Statement (.kbudget q) := fun _ he => nomatch he
theorem kpool (q : BitVec 10) : Statement (.kpool q) := fun _ he => nomatch he
theorem kpreempt (q : BitVec 10) : Statement (.kpreempt q) := fun _ he => nomatch he
theorem kevict (q : BitVec 10) : Statement (.kevict q) := fun _ he => nomatch he
theorem kabort (q : BitVec 10) : Statement (.kabort q) := fun _ he => nomatch he
theorem msixUnmask (vec : BitVec 11) : Statement (.msixUnmask vec) := fun _ he => nomatch he
theorem bar2Read (addr : BitVec 40) (len : BitVec 4) : Statement (.bar2Read addr len) := fun _ he => nomatch he
theorem bar2Write (addr : BitVec 40) (data : List (BitVec 8)) : Statement (.bar2Write addr data) := fun _ he => nomatch he
theorem barAtomicop (bar : BitVec 1) (off : BitVec 40) : Statement (.barAtomicop bar off) := fun _ he => nomatch he
theorem hingeRetrain (port : BitVec 3) : Statement (.hingeRetrain port) := fun _ he => nomatch he
theorem hingeCounterRead (port : BitVec 3) (downs : Bool) : Statement (.hingeCounterRead port downs) := fun _ he => nomatch he
theorem hingeRequestArrival (port : BitVec 3) (req : HingeReq) : Statement (.hingeRequestArrival port req) := fun _ he => nomatch he
theorem loadObject : Statement (.loadObject) := fun _ he => nomatch he
theorem translateAndLoad : Statement (.translateAndLoad) := fun _ he => nomatch he
theorem raiseFuseCounter : Statement (.raiseFuseCounter) := fun _ he => nomatch he
theorem attestationReport : Statement (.attestationReport) := fun _ he => nomatch he
theorem scrubPass (loc : Nat) (bad : Bool) : Statement (.scrubPass loc bad) := fun _ he => nomatch he
theorem pageRetire (frame : BitVec 38) (fresh : BitVec 38) : Statement (.pageRetire frame fresh) := fun _ he => nomatch he
theorem linkCrcReplay (link : LinkId) (again : Bool) : Statement (.linkCrcReplay link again) := fun _ he => nomatch he
theorem linkRetrain (link : LinkId) (ok : Bool) : Statement (.linkRetrain link ok) := fun _ he => nomatch he
theorem coreFence (die : BitVec 4) (clu : BitVec 14) (core : BitVec 3) : Statement (.coreFence die clu core) := fun _ he => nomatch he
theorem clusterFence (die : BitVec 4) (clu : BitVec 14) : Statement (.clusterFence die clu) := fun _ he => nomatch he
theorem dieFence (die : BitVec 4) : Statement (.dieFence die) := fun _ he => nomatch he
theorem coreRepair (die : BitVec 4) (clu : BitVec 14) (core : BitVec 3) : Statement (.coreRepair die clu core) := fun _ he => nomatch he
theorem clusterRepair (die : BitVec 4) (clu : BitVec 14) (spare : BitVec 14) : Statement (.clusterRepair die clu spare) := fun _ he => nomatch he
theorem powerWindow (sense : PowerSense) : Statement (.powerWindow sense) := fun _ he => nomatch he
theorem thermalTrip : Statement .thermalTrip := fun _ he => nomatch he
theorem powerOn (inp : StartInput) : Statement (.powerOn inp) := fun _ he => nomatch he
theorem coldStartRequest (inp : StartInput) : Statement (.coldStartRequest inp) := fun _ he => nomatch he
theorem warmStartRequest (inp : StartInput) : Statement (.warmStartRequest inp) := fun _ he => nomatch he
theorem startTimeout : Statement (.startTimeout) := fun _ he => nomatch he
theorem debugStop : Statement (.debugStop) := fun _ he => nomatch he
theorem debugRun : Statement (.debugRun) := fun _ he => nomatch he
theorem debugStep : Statement (.debugStep) := fun _ he => nomatch he
theorem stepDone : Statement (.stepDone) := fun _ he => nomatch he
theorem stepTimeout : Statement (.stepTimeout) := fun _ he => nomatch he
theorem daccRead : Statement (.daccRead) := fun _ he => nomatch he
theorem daccWrite : Statement (.daccWrite) := fun _ he => nomatch he
theorem dstatRead : Statement (.dstatRead) := fun _ he => nomatch he
theorem histSample (die : BitVec 4) : Statement (.histSample die) := fun _ he => nomatch he
theorem intervalDump (die : BitVec 4) : Statement (.intervalDump die) := fun _ he => nomatch he
theorem illegalInstruction (sub : BitVec 8) (head : BitVec 16) : Statement (.illegalInstruction sub head) := fun _ he => nomatch he
theorem linkTrainingComplete (link : LinkId) (res : Training) : Statement (.linkTrainingComplete link res) := fun _ he => nomatch he
theorem correctableErrorRecord (die : BitVec 4) (hbm : Bool) (count : BitVec 32) : Statement (.correctableErrorRecord die hbm count) := fun _ he => nomatch he
end Sys2Proof.Laws.Widths
end

