-- ==== Sys2Proof/Tests/Slice0.lean ====
section
/-! SUPPORT. Tests: for every statement states and operands that meet its hypotheses (wit_), the words of the spec's examples, ill-formed
terms, and a few values and steps whose results are the spec's or are calculated by hand (test_). -/
namespace Sys2Proof.Tests
-- One theorem at a time: each evaluation waits for everything before it.
set_option Elab.async false
open Sys2Proof.Machine

/-! ## States -/

/-- A line of 30 heads without tails, every one of them the head of opcode 0. -/
def fullLine : List Byte := leBytes 2 (30 * 2048) ++ List.replicate 62 0

def nopLine : Line := ⟨0, fullLine⟩

/-- A user thread that runs at head 0 of the line at 0. -/
def runner : Thread := { status := .ready, pc := 2, line := some nopLine }

/-- The machine with one thread, in slot 0 of the first core; the page at 0 is in its TLBs, and the lines at 0 and 64 in its line cache. -/
def withThread (t : Thread) : State :=
  let e : TlbEntry := ⟨0, 0, 0, 0, true, true, true, true⟩
  { State.reset with
    core := { ({} : Core).setTh 0 t with itlb := [e], dtlb := [e], lines := [⟨lineTag 0 0, fullLine⟩, ⟨lineTag 0 64, fullLine⟩] }
    boot := { State.reset.boot with state := 1 }, running := true }

def w0 : State := withThread runner

/-- A thread whose `g5` is an address of its local store, whose `g6` is one of paged memory, and whose `g7` and `g8` are numbers. -/
def addrs : Thread := (((runner.setG 5 0xF00000000100).setG 6 0x800).setG 7 1).setG 8 7

def w1 : State := withThread addrs

/-- Nothing captures the thread, no probe is pending, and none of the registers awaits a result. -/
theorem readyNow {s : State} {regs : List Reg} (capture : s.th.capture = none) (pp : s.th.pp = false)
    (results : ∀ r ∈ regs, s.pendingG r = false) : Ready s regs := ⟨capture, pp, results⟩

/-! ## Chapters 01 and 04 -/

theorem wit_zero_register : (31 : Reg) ≠ 0 ∧ (31 : Reg).toNat < 32 ∧ (1 : Reg).toNat < 32 ∧ ((63 : Nat) < 64 ∧ 32 ≤ 63) ∧
    ((32 : Nat) < 64 ∧ 32 ≤ 32) := by decide

theorem wit_load_immediate :
    (∃ (s : State) (d : Reg), d = 31 ∧ d.toNat < 32 ∧ Ready s [d]) ∧ (∃ (s : State) (d : Reg), d = 0 ∧ d.toNat < 32 ∧ Ready s [d]) ∧
    (∃ v : Word, v = 0x80000000 ∧ v.extractLsb' 31 33 ≠ 0 ∧ v.extractLsb' 31 33 ≠ BitVec.allOnes 33) ∧
    (∃ v : Word, v = 0xFFFFFFFF7FFFFFFF ∧ v.extractLsb' 31 33 ≠ 0 ∧ v.extractLsb' 31 33 ≠ BitVec.allOnes 33) :=
  ⟨⟨w0, 31, rfl, by decide, rfl, rfl, by decide⟩, ⟨w0, 0, rfl, by decide, rfl, rfl, by decide⟩, ⟨_, rfl, by decide⟩, ⟨_, rfl, by decide⟩⟩

theorem wit_integer_register_forms :
    (∃ (s : State) (o : GGG), o = ⟨31, 1, 2⟩ ∧ o.d.toNat < 32 ∧ Ready s [o.a, o.b, o.d]) ∧
    (∃ (s : State) (o : GGG), o = ⟨0, 31, 31⟩ ∧ o.d.toNat < 32 ∧ Ready s [o.a, o.b, o.d]) :=
  ⟨⟨w0, _, rfl, by decide, rfl, rfl, by decide⟩, ⟨w0, _, rfl, by decide, rfl, rfl, by decide⟩⟩

theorem wit_immediate_forms :
    (∃ (s : State) (o : GGI10), o = ⟨31, 0, -512⟩ ∧ o.d.toNat < 32 ∧ Ready s [o.a, o.d]) ∧
    (∃ (s : State) (o : GGI26), o = ⟨0, 31, -1⟩ ∧ o.d.toNat < 32 ∧ Ready s [o.a, o.d]) ∧
    (∃ (s : State) (o : ShiftI), o = ⟨31, 31, 63⟩ ∧ o.d.toNat < 32 ∧ Ready s [o.a, o.d]) ∧
    (∃ (s : State) (o : GGI8), o = ⟨1, 31, 127⟩ ∧ o.d.toNat < 32 ∧ Ready s [o.a, o.d]) ∧
    (∃ (s : State) (o : GGI24), o = ⟨31, 1, 0⟩ ∧ o.d.toNat < 32 ∧ Ready s [o.a, o.d]) ∧
    (∃ (s : State) (o : GGGG), o = ⟨31, 1, 2, 0⟩ ∧ o.d.toNat < 32 ∧ Ready s [o.a, o.b, o.c, o.d]) ∧
    (∃ (s : State) (o : GK32), o = ⟨31, -1⟩ ∧ o.d.toNat < 32 ∧ Ready s [o.d]) ∧
    (∃ (s : State) (o : LeaM), o = ⟨31, 5, 3, 127⟩ ∧ o.d.toNat < 32 ∧ Ready s [o.base, o.d]) ∧
    (∃ (s : State) (o : LeaX), o = ⟨31, 5, 0, -1⟩ ∧ o.d.toNat < 32 ∧ o.ix = 0 ∧ Ready s [o.d, o.base]) ∧
    (∃ (s : State) (o : LeaX), o = ⟨31, 5, 1, 31⟩ ∧ o.d.toNat < 32 ∧ o.ix = 1 ∧ Ready s [o.d, o.base, o.body.extractLsb' 0 6]) := by
  refine ⟨⟨w0, _, rfl, ?_⟩, ⟨w0, _, rfl, ?_⟩, ⟨w0, _, rfl, ?_⟩, ⟨w0, _, rfl, ?_⟩, ⟨w0, _, rfl, ?_⟩, ⟨w0, _, rfl, ?_⟩, ⟨w0, _, rfl, ?_⟩,
    ⟨w0, _, rfl, ?_⟩, ⟨w0, _, rfl, ?_⟩, ⟨w0, _, rfl, ?_⟩⟩ <;> (unfold Ready; decide)

theorem wit_bit_instructions :
    (∃ (s : State) (o : GG), o = ⟨31, 31⟩ ∧ o.d.toNat < 32 ∧ Ready s [o.a, o.d]) ∧
    (∃ (s : State) (o : BitF), o = ⟨31, 1, 63, 0⟩ ∧ o.d.toNat < 32 ∧ o.pos.toNat + o.lenm1.toNat ≤ 63 ∧ Ready s [o.a, o.d]) ∧
    (∃ (s : State) (o : BitF), o = ⟨0, 1, 0, 63⟩ ∧ o.d.toNat < 32 ∧ o.pos.toNat + o.lenm1.toNat ≤ 63 ∧ Ready s [o.a, o.d]) := by
  refine ⟨⟨w0, _, rfl, ?_⟩, ⟨w0, _, rfl, ?_⟩, ⟨w0, _, rfl, ?_⟩⟩ <;> (unfold Ready; decide)

/-- A division by 0, one by -1, and the state in which the divider is busy. -/
theorem wit_division :
    (∃ (s : State) (o : GGG), o = ⟨31, 7, 0⟩ ∧ s.g o.b = 0 ∧ o.d.toNat < 32 ∧ Ready s [o.a, o.b, o.d] ∧ s.core.divider = none) ∧
    (∃ (s : State) (o : GGG), o = ⟨31, 5, 7⟩ ∧ s.g o.b = BitVec.allOnes 64 ∧ s.g o.a = 0x8000000000000000 ∧ o.d.toNat < 32 ∧
      Ready s [o.a, o.b, o.d] ∧ s.core.divider = none) ∧
    (∃ (s : State) (o : GGG), o = ⟨31, 1, 2⟩ ∧ o.d.toNat < 32 ∧ Ready s [o.a, o.b, o.d] ∧ s.core.divider.isSome = true) := by
  refine ⟨⟨w1, _, rfl, ?_⟩, ⟨withThread ((runner.setG 5 0x8000000000000000).setG 7 (BitVec.allOnes 64)), _, rfl, ?_⟩,
    ⟨{ w0 with core := { w0.core with divider := some ⟨1, 3, 5⟩ } }, _, rfl, ?_⟩⟩ <;> (unfold Ready; decide)

/-- The line at 64, entered at its last head. -/
theorem lands_w1 : Lands w1 64 29 ⟨64, fullLine⟩ := ⟨by decide, rfl, by decide⟩

/-- OFF20 names head 29 of the next line; -1 lines from the line at 64 is the line at 0. -/
theorem wit_conditional_branches :
    (∃ (s : State) (o : BrB), o = ⟨7, 8, 0x3D⟩ ∧ Ready s [o.a, o.b] ∧ s.g o.a ≠ s.g o.b ∧ (s.g o.a).toInt < (s.g o.b).toInt ∧
      ((64 : Nat) : Int) = branchLine s.th.pc o.off ∧ 64 < 2 ^ 48 ∧ Lands s 64 (branchHead o.off) ⟨64, fullLine⟩) ∧
    (∃ (s : State) (o : BrB), o = ⟨7, 7, 0x3D⟩ ∧ Ready s [o.a, o.b] ∧ s.g o.a = s.g o.b ∧ s.g o.a ≥ s.g o.b ∧
      ((64 : Nat) : Int) = branchLine s.th.pc o.off ∧ Lands s 64 (branchHead o.off) ⟨64, fullLine⟩) ∧
    (∃ (s : State) (o : BrZ), o = ⟨7, 0x3D⟩ ∧ Ready s [o.a] ∧ (s.g o.a).toInt > 0 ∧
      ((64 : Nat) : Int) = branchLine s.th.pc o.off ∧ Lands s 64 (branchHead o.off) ⟨64, fullLine⟩) ∧
    (∃ (s : State) (o : BrZ), o = ⟨0, 0x3D⟩ ∧ Ready s [o.a] ∧ (s.g o.a).toInt = 0 ∧
      ((64 : Nat) : Int) = branchLine s.th.pc o.off ∧ Lands s 64 (branchHead o.off) ⟨64, fullLine⟩) ∧
    (∃ (s : State) (o : BrZ), o = ⟨9, -32⟩ ∧ Ready s [o.a] ∧ (s.g o.a).toInt < 0 ∧
      ((0 : Nat) : Int) = branchLine s.th.pc o.off ∧ Lands s 0 (branchHead o.off) ⟨0, fullLine⟩) := by
  refine ⟨⟨w1, _, rfl, readyNow rfl rfl (by decide), by decide, by decide, by decide, by decide, lands_w1⟩,
    ⟨w1, _, rfl, readyNow rfl rfl (by decide), by decide, by decide, by decide, lands_w1⟩,
    ⟨w1, _, rfl, readyNow rfl rfl (by decide), by decide, by decide, lands_w1⟩,
    ⟨w1, _, rfl, readyNow rfl rfl (by decide), by decide, by decide, lands_w1⟩,
    ⟨withThread { runner.setG 9 0x8000000000000000 with pc := 66, line := some ⟨64, fullLine⟩ }, _, rfl, readyNow rfl rfl (by decide), by decide, by decide, by decide, rfl, by decide⟩⟩

theorem wit_jump_transfers :
    (∃ (s : State) (o : Jmp), o = ⟨0x3D⟩ ∧ Ready s [] ∧ ((64 : Nat) : Int) = branchLine s.th.pc o.off ∧
      Lands s 64 (branchHead o.off) ⟨64, fullLine⟩) ∧
    (∃ (s : State) (o : GJmp), o = ⟨31, 0x3D⟩ ∧ o.d.toNat < 32 ∧ Ready s [o.d] ∧ ((64 : Nat) : Int) = branchLine s.th.pc o.off ∧
      Lands s 64 (branchHead o.off) ⟨64, fullLine⟩ ∧ s.g o.d ≠ 1) ∧
    (∃ (s : State) (o : GJmp), o = ⟨7, 0x3D⟩ ∧ o.d.toNat < 32 ∧ Ready s [o.d] ∧ s.g o.d = 1) ∧
    (∃ (s : State) (o : GD), o = ⟨9⟩ ∧ Ready s [o.d] ∧ 64 % 64 = 0 ∧ (s.g o.d).toNat = 64 + 2 + 2 * 29 ∧ Lands s 64 29 ⟨64, fullLine⟩) ∧
    (∃ (s : State) (o : GD), Ready s [o.d] ∧ (s.g o.d).toNat = 2 ^ 48) ∧
    (∃ (s : State) (o : GD), Ready s [o.d] ∧ (s.g o.d).toNat % 64 = 0) ∧
    (∃ (s : State) (o : GD), Ready s [o.d] ∧ (s.g o.d).toNat % 2 = 1) ∧
    (∃ (s : State) (o : GD), Ready s [o.d] ∧ (s.g o.d).toNat / 2 ^ 44 = 15) ∧
    (∃ (s : State) (o : GD) (l : Line), Ready s [o.d] ∧ (s.g o.d).toNat = 64 + 62 ∧ s.fetchLine 64 = (.ok l, s) ∧ lineLegal l.bytes = true ∧
      lineN l.bytes ≤ (s.g o.d).toNat % 64 / 2 - 1) :=
  ⟨⟨w1, _, rfl, readyNow rfl rfl (by decide), by decide, lands_w1⟩,
   ⟨w1, _, rfl, by decide, readyNow rfl rfl (by decide), by decide, lands_w1, by decide⟩,
   ⟨w1, _, rfl, by decide, readyNow rfl rfl (by decide), by decide⟩,
   ⟨withThread (runner.setG 9 124), _, rfl, readyNow rfl rfl (by decide), by decide, by decide, by decide, rfl, by decide⟩,
   ⟨withThread (runner.setG 9 0x1000000000000), ⟨9⟩, readyNow rfl rfl (by decide), by decide⟩,
   ⟨w1, ⟨6⟩, readyNow rfl rfl (by decide), by decide⟩,
   ⟨w1, ⟨7⟩, readyNow rfl rfl (by decide), by decide⟩,
   ⟨w1, ⟨5⟩, readyNow rfl rfl (by decide), by decide⟩,
   ⟨withThread (runner.setG 9 126), ⟨9⟩, ⟨64, fullLine⟩, readyNow rfl rfl (by decide), by decide, rfl, by decide⟩⟩

/-- A repetition of two body instructions, whose next instance is the last of the first of 2 iterations. -/
def repeating : Thread :=
  { runner with rep := { bodyPc := 4, count := 2, iter := 0, pos := 1, blm1 := 1, act := true }
                body := [⟨{ op := 0x70, d := 4, a := 5, b := 6, m8 := 3 }, 0, 0, 4, none⟩, ⟨{ op := 0x70, d := 7, a := 8, b := 9, m8 := 3 }, 0, 0, 6, none⟩] }

def repLast : Thread := { repeating with rep := { repeating.rep with iter := 1 } }

def repFirst : Thread := { repeating with rep := { repeating.rep with pos := 0 } }

theorem wit_control_instructions :
    (∃ s : State, Ready s []) ∧ (∃ (o o' : K16), o.k = 0 ∧ o'.k ≠ 0) ∧
    (∃ (s : State) (o : RepO), Ready s [o.a] ∧ s.th.rep.act = false) ∧
    (∃ (s : State) (o : RepO), Ready s [o.a] ∧ s.th.rep.act = true) ∧
    (∃ s : State, Ready s [] ∧ s.th.rep.act = false ∧ s.th.fq = [] ∧ s.core.divider = none ∧ s.transferring = false ∧ s.th.sb = []) ∧
    (∃ (t : Thread) (b : BodyInstr), t.rep.pos = t.rep.blm1 ∧ t.rep.iter.toNat + 1 < t.rep.count.toNat ∧
      (let s := withThread t
       s.th.status ≠ .empty ∧ s.th.status ≠ .halted ∧ s.th.rep.act = true ∧ s.th.capture = none ∧ s.th.room = true ∧ s.core.lets s.cur = true ∧
       s.th.body[s.th.rep.pos.toNat]? = some b ∧ b.bad = none ∧ s.dispatchFails (s.th.rep.rename b.raw) = none)) ∧
    (∃ (t : Thread) (b : BodyInstr), t.rep.pos = t.rep.blm1 ∧ ¬ t.rep.iter.toNat + 1 < t.rep.count.toNat ∧
      (let s := withThread t
       s.th.status ≠ .empty ∧ s.th.status ≠ .halted ∧ s.th.rep.act = true ∧ s.th.capture = none ∧ s.th.room = true ∧ s.core.lets s.cur = true ∧
       s.th.body[s.th.rep.pos.toNat]? = some b ∧ b.bad = none ∧ s.dispatchFails (s.th.rep.rename b.raw) = none)) ∧
    (∃ (t : Thread) (b : BodyInstr), t.rep.pos ≠ t.rep.blm1 ∧
      (let s := withThread t
       s.th.status ≠ .empty ∧ s.th.status ≠ .halted ∧ s.th.rep.act = true ∧ s.th.capture = none ∧ s.th.room = true ∧ s.core.lets s.cur = true ∧
       s.th.body[s.th.rep.pos.toNat]? = some b ∧ b.bad = none ∧ s.dispatchFails (s.th.rep.rename b.raw) = none)) :=
  ⟨⟨w0, rfl, rfl, by decide⟩, ⟨⟨0⟩, ⟨1⟩, by decide⟩, ⟨w1, ⟨1, 8, 1, 0, 15⟩, readyNow rfl rfl (by decide), rfl⟩,
   ⟨withThread repeating, ⟨1, 8, 1, 0, 15⟩, readyNow rfl rfl (by decide), rfl⟩,
   ⟨w0, readyNow rfl rfl (by decide), rfl, rfl, rfl, by decide, rfl⟩,
   ⟨repeating, _, by decide, by decide, by decide, by decide, rfl, rfl, by decide, by decide, rfl, rfl, by decide⟩,
   ⟨repLast, _, by decide, by decide, by decide, by decide, rfl, rfl, by decide, by decide, rfl, rfl, by decide⟩,
   ⟨repFirst, _, by decide, by decide, by decide, rfl, rfl, by decide, by decide, rfl, rfl, by decide⟩⟩

/-! ## Chapter 05 -/

theorem passes_ls : Passes w1 0xF00000000100 8 1 false [⟨lsLoc 0 0 0 0x100, 8⟩] := Passes.mk (by decide) (by decide) rfl rfl (by decide)

/-- The last byte of the local store a user thread reaches; the word at 0x800 of paged memory; the pair over two words. -/
theorem wit_loads :
    (∃ (s : State) (o : LdM) (loc : Nat), o = ⟨31, 9, 0, 1, 127⟩ ∧ o.d.toNat < 32 ∧ Ready s [o.d, o.base] ∧
      Passes s (s.eaM o.base o.sz o.off) (2 ^ o.sz.toNat) 1 false [⟨loc, 2 ^ o.sz.toNat⟩] ∧ (s.badPart [⟨loc, 2 ^ o.sz.toNat⟩] = none ∧ s.th.fstAway = false) ∧
      s.th.forward [⟨loc, 2 ^ o.sz.toNat⟩] = .none ∧ s.near [⟨loc, 2 ^ o.sz.toNat⟩] = true) ∧
    (∃ (s : State) (o : LdX) (loc : Nat), o = ⟨0, 6, 3, 0, 0, 0⟩ ∧ o.d.toNat < 32 ∧ Ready s (o.d :: regsX o.base o.ix o.body) ∧
      Passes s (s.eaX o.base o.ix o.body) (2 ^ o.sz.toNat) 1 false [⟨loc, 2 ^ o.sz.toNat⟩] ∧ (s.badPart [⟨loc, 2 ^ o.sz.toNat⟩] = none ∧ s.th.fstAway = false) ∧
      s.th.forward [⟨loc, 2 ^ o.sz.toNat⟩] = .none ∧ s.near [⟨loc, 2 ^ o.sz.toNat⟩] = false) ∧
    (∃ (s : State) (o : LdaX) (loc : Nat), o = ⟨5, 5, 2, 0, 1, 0, 1, 7⟩ ∧ o.d.toNat < 32 ∧ Ready s (o.d :: regsX o.base o.ix o.body) ∧
      Passes s (s.eaX o.base o.ix o.body) (2 ^ o.sz.toNat) (2 ^ o.sz.toNat) false [⟨loc, 2 ^ o.sz.toNat⟩] ∧
      (s.badPart [⟨loc, 2 ^ o.sz.toNat⟩] = none ∧ s.th.fstAway = false) ∧ s.th.forward [⟨loc, 2 ^ o.sz.toNat⟩] = .none) ∧
    (∃ (s : State) (o : PairM) (ps : List Part), o = ⟨30, 5, 1⟩ ∧ o.d.toNat < 31 ∧ Ready s [o.d, o.d + 1, o.base] ∧
      Passes s (s.eaM o.base 3 o.off) 16 1 false ps ∧ (s.badPart ps = none ∧ s.th.fstAway = false) ∧ s.th.forward ps = .none) ∧
    (∃ (s : State) (o : PairX) (ps : List Part), o = ⟨1, 6, 0, 0⟩ ∧ o.d.toNat < 31 ∧ Ready s (o.d :: (o.d + 1) :: regsX o.base o.ix o.body) ∧
      Passes s (s.eaX o.base o.ix o.body) 16 1 false ps ∧ (s.badPart ps = none ∧ s.th.fstAway = false) ∧ s.th.forward ps = .none) :=
  ⟨⟨withThread (runner.setG 9 0xF00000001F80), _, lsLoc 0 0 0 0x1FFF, rfl, by decide, readyNow rfl rfl (by decide),
      Passes.mk (by decide) (by decide) rfl rfl (by decide), by decide⟩,
   ⟨w1, _, 0x800, rfl, by decide, readyNow rfl rfl (by decide), Passes.mk (by decide) (by decide) rfl rfl (by decide), by decide⟩,
   ⟨withThread (addrs.setG 7 4), _, lsLoc 0 0 0 0x104, rfl, by decide, readyNow rfl rfl (by decide), Passes.mk (by decide) (by decide) rfl rfl (by decide), by decide⟩,
   ⟨w1, _, [⟨lsLoc 0 0 0 0x108, 8⟩, ⟨lsLoc 0 0 0 0x110, 8⟩], rfl, by decide, readyNow rfl rfl (by decide),
      Passes.mk (by decide) (by decide) rfl rfl (by decide), by decide⟩,
   ⟨w1, _, [⟨0x800, 16⟩], rfl, by decide, readyNow rfl rfl (by decide), Passes.mk (by decide) (by decide) rfl rfl (by decide), by decide⟩⟩

theorem wit_stores :
    (∃ (s : State) (o : StM) (loc : Nat), o = ⟨7, 5, 0, 127⟩ ∧ Memory.wf s.mem = true ∧ Ready s [o.d, o.base] ∧ s.th.sb = [] ∧
      Passes s (s.eaM o.base o.sz o.off) (2 ^ o.sz.toNat) 1 true [⟨loc, 2 ^ o.sz.toNat⟩] ∧ loc % 8 + 2 ^ o.sz.toNat ≤ 8 ∧ (Plain loc ∧ s.th.fstWaits = false) ∧ s.Unlisted ∧ s.refuses [⟨loc, 2 ^ o.sz.toNat⟩] = none ∧
      s.bankHeld [⟨loc / 8 * 8, 8⟩] (some (s.cid, s.cur)) = false) ∧
    (∃ (s : State) (o : StX) (loc : Nat), o = ⟨0, 6, 1, 0, 6⟩ ∧ Memory.wf s.mem = true ∧ Ready s (o.d :: regsX o.base o.ix o.body) ∧
      s.th.sb = [] ∧ Passes s (s.eaX o.base o.ix o.body) (2 ^ o.sz.toNat) 1 true [⟨loc, 2 ^ o.sz.toNat⟩] ∧ loc % 8 + 2 ^ o.sz.toNat ≤ 8 ∧
      (Plain loc ∧ s.th.fstWaits = false) ∧ s.Unlisted ∧ s.refuses [⟨loc, 2 ^ o.sz.toNat⟩] = none ∧
      s.bankHeld [⟨loc / 8 * 8, 8⟩] (some (s.cid, s.cur)) = false) ∧
    (∃ (s : State) (o : StlX) (loc : Nat), o = ⟨31, 5, 3, 1, 0, 0, 8⟩ ∧ Memory.wf s.mem = true ∧ Ready s (o.d :: regsX o.base o.ix o.body) ∧
      s.th.sb = [] ∧ Passes s (s.eaX o.base o.ix o.body) (2 ^ o.sz.toNat) (2 ^ o.sz.toNat) true [⟨loc, 2 ^ o.sz.toNat⟩] ∧
      loc % 8 + 2 ^ o.sz.toNat ≤ 8 ∧ (Plain loc ∧ s.th.fstWaits = false) ∧ s.Unlisted ∧
      s.refuses [⟨loc, 2 ^ o.sz.toNat⟩] = none ∧ s.bankHeld [⟨loc / 8 * 8, 8⟩] (some (s.cid, s.cur)) = false) ∧
    (∃ (s : State) (o : PairM) (loc : Nat), o = ⟨30, 5, 127⟩ ∧ Ready s [o.d, o.d + 1, o.base] ∧ s.th.sb = [] ∧ (s.th.fstWaits = false ∧ loc % 8 = 0) ∧
      Passes s (s.eaM o.base 3 o.off) 16 1 true [⟨loc, 8⟩, ⟨loc + 8, 8⟩]) ∧
    (∃ (s : State) (o : PairX) (loc : Nat), o = ⟨1, 5, 1, 0x1C7⟩ ∧ Ready s (o.d :: (o.d + 1) :: regsX o.base o.ix o.body) ∧ s.th.sb = [] ∧
      (s.th.fstWaits = false ∧ loc % 8 = 0) ∧ Passes s (s.eaX o.base o.ix o.body) 16 1 true [⟨loc, 8⟩, ⟨loc + 8, 8⟩]) :=
  ⟨⟨w1, _, lsLoc 0 0 0 0x17F, rfl, by decide, readyNow rfl rfl (by decide), rfl, Passes.mk (by decide) (by decide) rfl rfl (by decide), by decide⟩,
   ⟨w1, _, 0x806, rfl, by decide, readyNow rfl rfl (by decide), rfl, Passes.mk (by decide) (by decide) rfl rfl (by decide), by decide⟩,
   ⟨w1, _, lsLoc 0 0 0 0x108, rfl, by decide, readyNow rfl rfl (by decide), rfl, Passes.mk (by decide) (by decide) rfl rfl (by decide), by decide⟩,
   ⟨w1, _, lsLoc 0 0 0 0x4F8, rfl, readyNow rfl rfl (by decide), rfl, by decide, Passes.mk (by decide) (by decide) rfl rfl (by decide)⟩,
   ⟨w1, _, lsLoc 0 0 0 0x180, rfl, readyNow rfl rfl (by decide), rfl, by decide, Passes.mk (by decide) (by decide) rfl rfl (by decide)⟩⟩

/-- A buffered store of 0x0807060504030201 at 0x100 of the local store. -/
def buffered : Thread := { addrs with sb := [{ word := lsLoc 0 0 0 0x100, mask := 0xFF, data := 0x0807060504030201, ea := 0xF00000000100 }] }

theorem wit_access_rules :
    (∃ (s : State) (o : LdM) (loc v : Nat), o = ⟨31, 5, 1, 0, 3⟩ ∧ v = 0x0807 ∧ o.d.toNat < 32 ∧ Ready s [o.d, o.base] ∧
      Passes s (s.eaM o.base o.sz o.off) (2 ^ o.sz.toNat) 1 false [⟨loc, 2 ^ o.sz.toNat⟩] ∧ (s.th.fstAway = false ∧ s.th.forward [⟨loc, 2 ^ o.sz.toNat⟩] = .all v)) ∧
    (∃ (s : State) (o : LdaX), o = ⟨31, 9, 3, 0, 0, 0, 0, 1⟩ ∧ Ready s (o.d :: regsX o.base o.ix o.body) ∧
      (s.eaX o.base o.ix o.body).toNat + 2 ^ o.sz.toNat = 2 ^ 48 + 1) ∧
    (∃ (s : State) (o : LdaX), o = ⟨31, 9, 2, 0, 0, 0, 0, 3⟩ ∧ Ready s (o.d :: regsX o.base o.ix o.body) ∧
      (s.eaX o.base o.ix o.body).toNat + 2 ^ o.sz.toNat ≤ 2 ^ 48 ∧ (s.eaX o.base o.ix o.body).toNat % 2 ^ o.sz.toNat ≠ 0) :=
  ⟨⟨withThread buffered, _, lsLoc 0 0 0 0x106, _, rfl, rfl, by decide, readyNow rfl rfl (by decide), Passes.mk (by decide) (by decide) rfl rfl (by decide), by decide⟩,
   ⟨withThread (runner.setG 9 0xFFFFFFFFFFF8), _, rfl, readyNow rfl rfl (by decide), by decide⟩,
   ⟨withThread (runner.setG 9 0xFFFFFFFFFFF8), _, rfl, readyNow rfl rfl (by decide), by decide⟩⟩

theorem fIdle_w1 : FIdle w1 := by constructor <;> first | rfl | decide

theorem wit_float_memory :
    (∃ (s : State) (o : FMemM) (ps : List Part), o = ⟨47, 5, 3, 0⟩ ∧ o.d.toNat < 48 ∧ FIdle s ∧ Ready s [o.base] ∧
      Passes s (s.eaM o.base o.sz o.off) (2 ^ o.sz.toNat) 1 false ps ∧ s.badPart ps = none ∧ s.th.forward ps = .none ∧ s.near ps = true) ∧
    (∃ (s : State) (o : FMemX) (ps : List Part), o = ⟨0, 6, 0, 0, 0⟩ ∧ o.d.toNat < 48 ∧ FIdle s ∧ Ready s (regsX o.base o.ix o.body) ∧
      Passes s (s.eaX o.base o.ix o.body) (2 ^ o.sz.toNat) 1 false ps ∧ s.badPart ps = none ∧ s.th.forward ps = .none ∧ s.near ps = false) ∧
    (∃ (s : State) (o : FMemM) (loc : Nat), o = ⟨47, 5, 3, 0⟩ ∧ o.d.toNat < 48 ∧ Memory.wf s.mem = true ∧ FIdle s ∧ Ready s [o.base] ∧
      s.th.sb = [] ∧ Passes s (s.eaM o.base o.sz o.off) (2 ^ o.sz.toNat) 1 true [⟨loc, 2 ^ o.sz.toNat⟩] ∧ loc % 8 + 2 ^ o.sz.toNat ≤ 8 ∧
      Plain loc ∧ s.Unlisted ∧ s.refuses [⟨loc, 2 ^ o.sz.toNat⟩] = none ∧
      s.bankHeld [⟨loc / 8 * 8, 8⟩] (some (s.cid, s.cur)) = false) ∧
    (∃ (s : State) (o : FMemX) (loc : Nat), o = ⟨0, 6, 1, 0, 6⟩ ∧ o.d.toNat < 48 ∧ Memory.wf s.mem = true ∧ FIdle s ∧
      Ready s (regsX o.base o.ix o.body) ∧
      s.th.sb = [] ∧ Passes s (s.eaX o.base o.ix o.body) (2 ^ o.sz.toNat) 1 true [⟨loc, 2 ^ o.sz.toNat⟩] ∧ loc % 8 + 2 ^ o.sz.toNat ≤ 8 ∧
      Plain loc ∧ s.Unlisted ∧ s.refuses [⟨loc, 2 ^ o.sz.toNat⟩] = none ∧
      s.bankHeld [⟨loc / 8 * 8, 8⟩] (some (s.cid, s.cur)) = false) :=
  ⟨⟨w1, _, [⟨lsLoc 0 0 0 0x100, 8⟩], rfl, by decide, fIdle_w1, readyNow rfl rfl (by decide), Passes.mk (by decide) (by decide) rfl rfl (by decide),
      by decide⟩,
   ⟨w1, _, [⟨0x800, 1⟩], rfl, by decide, fIdle_w1, readyNow rfl rfl (by decide), Passes.mk (by decide) (by decide) rfl rfl (by decide),
      by decide⟩,
   ⟨w1, _, lsLoc 0 0 0 0x100, rfl, by decide, by decide, fIdle_w1, readyNow rfl rfl (by decide), rfl, Passes.mk (by decide) (by decide) rfl rfl (by decide),
      by decide⟩,
   ⟨w1, _, 0x806, rfl, by decide, by decide, fIdle_w1, readyNow rfl rfl (by decide), rfl, Passes.mk (by decide) (by decide) rfl rfl (by decide),
      by decide⟩⟩

/-- A unit of the local store, one of paged memory, and one of the host (whose page is in the TLB). -/
def hostState : State :=
  { w1 with core := { w1.core with dtlb := [⟨0, 0, 0, BitVec.ofNat 38 (2 ^ 49 / 4096), true, true, true, true⟩] } }

theorem wit_atomics :
    (∃ (s : State) (o : AtO) (loc : Nat), o = ⟨31, 5, 7, 0, 1, 0, 0, 0⟩ ∧ o.d.toNat < 32 ∧ (Memory.wf s.mem = true ∧ s.Unlisted ∧ s.th.fstWaits = false ∧ Plain loc) ∧ Ready s [o.d, o.base, o.src] ∧
      s.th.sb = [] ∧ Passes s (s.g o.base) (2 ^ o.sz.toNat) (2 ^ o.sz.toNat) true [⟨loc, 2 ^ o.sz.toNat⟩] ∧
      spaceOf (s.g o.base).toNat ≠ .cq ∧ isHost loc = false ∧ s.badPart [⟨loc, 2 ^ o.sz.toNat⟩] = none) ∧
    (∃ (s : State) (o : AtO) (loc : Nat), o = ⟨0, 6, 31, 3, 1, 0, 1, 1⟩ ∧ o.d.toNat < 32 ∧ (Memory.wf s.mem = true ∧ s.Unlisted ∧ s.th.fstWaits = false ∧ Plain loc) ∧
      Ready s [o.d, o.base, o.src] ∧ s.th.sb = [] ∧ Passes s (s.g o.base) (2 ^ o.sz.toNat) (2 ^ o.sz.toNat) true [⟨loc, 2 ^ o.sz.toNat⟩] ∧
      spaceOf (s.g o.base).toNat ≠ .cq ∧ isHost loc = false ∧ s.badPart [⟨loc, 2 ^ o.sz.toNat⟩] = none) ∧
    (∃ (s : State) (o : AtO) (loc : Nat), o = ⟨1, 6, 7, 3, 1, 0, 0, 0⟩ ∧ o.d.toNat < 32 ∧ (Memory.wf s.mem = true ∧ s.Unlisted ∧ s.th.fstWaits = false ∧ Plain loc) ∧ Ready s [o.d, o.base, o.src] ∧
      s.th.sb = [] ∧ Passes s (s.g o.base) (2 ^ o.sz.toNat) (2 ^ o.sz.toNat) true [⟨loc, 2 ^ o.sz.toNat⟩] ∧
      spaceOf (s.g o.base).toNat ≠ .cq ∧ isHost loc = true ∧ s.badPart [⟨loc, 2 ^ o.sz.toNat⟩] = none) ∧
    (∃ (s : State) (o : CaspO) (loc : Nat), o = ⟨30, 6, 8, 1, 0, 0, 0⟩ ∧ o.d.toNat < 31 ∧ (Memory.wf s.mem = true ∧ s.Unlisted ∧ s.th.fstWaits = false ∧ isLs loc = false) ∧
      Ready s [o.d, o.d + 1, o.base, o.src, o.src + 1] ∧ s.th.sb = [] ∧ Passes s (s.g o.base) 16 16 true [⟨loc, 16⟩] ∧
      spaceOf (s.g o.base).toNat ≠ .cq ∧ spaceOf (s.g o.base).toNat ≠ .ls ∧ isHost loc = false ∧ s.badPart [⟨loc, 16⟩] = none) :=
  ⟨⟨w1, _, lsLoc 0 0 0 0x100, rfl, by decide, by decide, readyNow rfl rfl (by decide), rfl, Passes.mk (by decide) (by decide) rfl rfl (by decide), by decide⟩,
   ⟨w1, _, 0x800, rfl, by decide, by decide, readyNow rfl rfl (by decide), rfl, Passes.mk (by decide) (by decide) rfl rfl (by decide), by decide⟩,
   ⟨hostState, _, 2 ^ 49 + 0x800, rfl, by decide, by decide, readyNow rfl rfl (by decide), rfl, Passes.mk (by decide) (by decide) rfl rfl (by decide), by decide⟩,
   ⟨w1, _, 0x800, rfl, by decide, by decide, readyNow rfl rfl (by decide), rfl, Passes.mk (by decide) (by decide) rfl rfl (by decide), by decide⟩⟩

/-- The word at 0x100 of the local store is full. -/
def fullState : State := { w1 with full := [lsLoc 0 0 0 0x100] }

def parkedOn (p : Park) : State := withThread { addrs with status := .parked, park := p }

theorem wit_synchronized_memory :
    (∃ (s : State) (ea : Word) (loc : Nat) (o : FeX), o = ⟨31, 5, 1, 0, 0, 0⟩ ∧ (Memory.wf s.mem = true ∧ s.th.fstWaits = false ∧ s.Unlisted ∧ Plain loc ∧ s.th.poisoned = false) ∧ s.th.sb = [] ∧ s.feWait = [] ∧
      Passes s ea 8 8 true [⟨loc, 8⟩] ∧ Passes s ea 8 8 false [⟨loc, 8⟩] ∧ isFeAddr ea.toNat = true ∧ s.badRange loc 8 = false ∧
      o.d.toNat < 32 ∧ Ready s (o.d :: regsX o.base o.ix o.body) ∧ ea = s.eaX o.base o.ix o.body ∧ s.isFull loc = false ∧ s.remoteFull loc = false) ∧
    (∃ (s : State) (ea : Word) (loc : Nat) (o : FeX) (p : LdffM) (q : LdffX), o = ⟨0, 5, 1, 0, 0, 0⟩ ∧ p = ⟨31, 5, 0⟩ ∧ q = ⟨31, 5, 1, 0, 0, 0⟩ ∧
      (Memory.wf s.mem = true ∧ s.th.fstWaits = false ∧ s.Unlisted ∧ Plain loc ∧ s.th.poisoned = false) ∧ s.th.sb = [] ∧ s.feWait = [] ∧
      Passes s ea 8 8 true [⟨loc, 8⟩] ∧ Passes s ea 8 8 false [⟨loc, 8⟩] ∧ isFeAddr ea.toNat = true ∧ s.badRange loc 8 = false ∧
      o.d.toNat < 32 ∧ Ready s (o.d :: regsX o.base o.ix o.body) ∧ ea = s.eaX o.base o.ix o.body ∧ s.isFull loc = true ∧ s.remoteFull loc = false ∧
      Ready s [p.d, p.base] ∧ ea = s.eaM p.base 3 p.off ∧ Ready s (q.d :: regsX q.base q.ix q.body) ∧ ea = s.eaX q.base q.ix q.body) ∧
    (∃ (s : State) (ea : Word) (loc : Nat) (p : FesetM) (q : FesetX), p = ⟨1, 5, 0⟩ ∧ q = ⟨0, 5, 0, 0⟩ ∧
      (Memory.wf s.mem = true ∧ s.th.fstWaits = false ∧ s.Unlisted ∧ Plain loc ∧ s.th.poisoned = false) ∧ s.th.sb = [] ∧ s.feWait = [] ∧
      Passes s ea 8 8 true [⟨loc, 8⟩] ∧ Passes s ea 8 8 false [⟨loc, 8⟩] ∧ isFeAddr ea.toNat = true ∧ s.badRange loc 8 = false ∧
      Ready s [p.base] ∧ ea = s.eaM p.base 3 p.off ∧ Ready s (regsX q.base q.ix q.body) ∧ ea = s.eaX q.base q.ix q.body) ∧
    (Ready w1 [] ∧ w1.th.sb = [] ∧ w1.th.fstWaits = false) ∧ (Ready (withThread buffered) [] ∧ (withThread buffered).th.sb ≠ []) ∧
    (∃ (s : State) (o : WaitaX) (loc : Nat), o = ⟨7, 5, 3, 1, 0, 0, 0, 0⟩ ∧ o.d.toNat < 32 ∧ Ready s (o.d :: regsX o.base o.ix o.body) ∧ s.th.sb = [] ∧
      Passes s (s.eaX o.base o.ix o.body) (2 ^ o.sz.toNat) (2 ^ o.sz.toNat) false [⟨loc, 2 ^ o.sz.toNat⟩] ∧
      (s.badPart [⟨loc, 2 ^ o.sz.toNat⟩] = none ∧ s.th.fstWaits = false) ∧ s.near [⟨loc, 2 ^ o.sz.toNat⟩] = true ∧
      s.read loc (2 ^ o.sz.toNat) ≠ (s.g o.d).toNat % 2 ^ (8 * 2 ^ o.sz.toNat)) ∧
    (∃ (s : State) (o : WaitaX) (loc : Nat), o = ⟨0, 5, 0, 0, 0, 0, 0, 0⟩ ∧ o.d.toNat < 32 ∧ Ready s (o.d :: regsX o.base o.ix o.body) ∧ s.th.sb = [] ∧
      Passes s (s.eaX o.base o.ix o.body) (2 ^ o.sz.toNat) (2 ^ o.sz.toNat) false [⟨loc, 2 ^ o.sz.toNat⟩] ∧
      (s.badPart [⟨loc, 2 ^ o.sz.toNat⟩] = none ∧ s.th.fstWaits = false) ∧ s.near [⟨loc, 2 ^ o.sz.toNat⟩] = true ∧
      s.read loc (2 ^ o.sz.toNat) = (s.g o.d).toNat % 2 ^ (8 * 2 ^ o.sz.toNat)) ∧
    (∃ o : PrefM, Ready w1 [o.base]) ∧ (∃ o : PrefX, Ready w1 (regsX o.base o.ix o.body)) ∧
    (∃ (s : State) (w : Nat), s.th.status = .parked ∧ s.th.park = .waita w true) ∧
    (∃ (s : State) (w : Nat), s.th.status = .parked ∧ s.th.park = .fullEmpty w ∧ s.feWait = []) ∧
    (∃ (s : State) (la pa : Nat), s.th.status = .missWait ∧ s.th.miss = .line la ∧ s.xlate s.fetcher { x := true } la = (.ok pa, s) ∧
      s.badRange pa 64 = false) :=
  ⟨⟨w1, 0xF00000000100, lsLoc 0 0 0 0x100, _, rfl, by decide, rfl, rfl, Passes.mk (by decide) (by decide) rfl rfl (by decide), Passes.mk (by decide) (by decide) rfl rfl (by decide), by decide,
     by decide, by decide, readyNow rfl rfl (by decide), by decide⟩,
   ⟨fullState, 0xF00000000100, lsLoc 0 0 0 0x100, _, _, _, rfl, rfl, rfl, by decide, rfl, rfl, Passes.mk (by decide) (by decide) rfl rfl (by decide), Passes.mk (by decide) (by decide) rfl rfl (by decide), by decide,
     by decide, by decide, readyNow rfl rfl (by decide), by decide, by decide, by decide, readyNow rfl rfl (by decide), by decide, readyNow rfl rfl (by decide), by decide⟩,
   ⟨w1, 0xF00000000100, lsLoc 0 0 0 0x100, _, _, rfl, rfl, by decide, rfl, rfl, Passes.mk (by decide) (by decide) rfl rfl (by decide), Passes.mk (by decide) (by decide) rfl rfl (by decide), by decide,
     by decide, readyNow rfl rfl (by decide), by decide, readyNow rfl rfl (by decide), by decide⟩,
   ⟨readyNow rfl rfl (by decide), rfl, rfl⟩, ⟨readyNow rfl rfl (by decide), by decide⟩,
   ⟨w1, _, lsLoc 0 0 0 0x100, rfl, by decide, readyNow rfl rfl (by decide), rfl, Passes.mk (by decide) (by decide) rfl rfl (by decide), by decide⟩,
   ⟨w1, _, lsLoc 0 0 0 0x100, rfl, by decide, readyNow rfl rfl (by decide), rfl, Passes.mk (by decide) (by decide) rfl rfl (by decide), by decide⟩,
   ⟨⟨1, 5, 0, 0⟩, rfl, rfl, by decide⟩, ⟨⟨1, 5, 0, 1, 7⟩, rfl, rfl, by decide⟩,
   ⟨parkedOn (.waita 0x800 true), 0x800, rfl, rfl⟩,
   ⟨parkedOn (.fullEmpty (lsLoc 0 0 0 0x100)), lsLoc 0 0 0 0x100, rfl, rfl, rfl⟩,
   ⟨withThread { addrs with status := .missWait, miss := .line 128 }, 128, 128, rfl, rfl, rfl, by decide⟩⟩

/-! ## Chapter 06 -/

def withUnits (a b c : StreamUnit) : State := withThread { addrs with units := #v[a, b, c] }

/-- 4 elements of 8 bytes from 0x100 of the local store, the second of them the next. -/
def affine : StreamRec := { addr := 0xF00000000100, kind := 1, esz := 3, bound0 := 3, aux := 8, idx0 := 1 }
def gatherRec : StreamRec := { affine with kind := 2, dims := 1 }
def ringRec : StreamRec := { addr := 0xF00000000100, kind := 3, esz := 3, bound0 := 7 }

theorem wit_stream_setup :
    (∃ (s : State) (o : SbindO), o = ⟨2, 5, 1, 1, 3, 3⟩ ∧ o.u.toNat < 3 ∧ Ready s [o.a] ∧ (s.th.unit o.u.toNat).cfg.go = false) ∧
    (∃ (s : State) (o : SbindO), o = ⟨0, 5, 1, 0, 3, 0⟩ ∧ Ready s [o.a] ∧ (s.th.unit o.u.toNat).cfg.go = true) ∧
    (∃ (s : State) (o : SdimR), o = ⟨0, 7, 8, 3⟩ ∧ o.u.toNat < 3 ∧ Ready s [o.a, o.b] ∧
      (let r := (s.th.unit o.u.toNat).cfg; r.go = false ∧ (r.kind = 1 ∨ r.kind = 3 ∨ (r.kind = 2 ∧ o.k.toNat < 2)))) ∧
    (∃ (s : State) (o : SdimR), o = ⟨2, 0, 8, 0⟩ ∧ o.u.toNat < 3 ∧ Ready s [o.a, o.b] ∧
      (let r := (s.th.unit o.u.toNat).cfg; r.kind = 3 ∧ r.go = false)) ∧
    (∃ (s : State) (o : SdimW), o = ⟨1, 1, 65535, -1⟩ ∧ o.u.toNat < 3 ∧ Ready s [] ∧
      (let r := (s.th.unit o.u.toNat).cfg; r.go = false ∧ r.kind = 2 ∧ o.k.toNat < 2)) ∧
    (∃ (s : State) (o : SidxR), o = ⟨1, 6, 7, 1⟩ ∧ o.u.toNat < 3 ∧ Ready s [o.a] ∧
      (let r := (s.th.unit o.u.toNat).cfg; r.go = false ∧ r.kind = 2)) ∧
    (∃ (s : State) (o : SidxW), o = ⟨1, 6, 0, 0, -8⟩ ∧ o.u.toNat < 3 ∧ Ready s [o.a] ∧
      (let r := (s.th.unit o.u.toNat).cfg; r.go = false ∧ r.kind = 2)) ∧
    (∃ (s : State) (o : SdirO), o = ⟨2, 1, 3⟩ ∧ o.u.toNat < 3 ∧ Ready s [] ∧
      (let r := (s.th.unit o.u.toNat).cfg; r.go = false ∧ (r.kind = 1 ∨ r.kind = 2 ∨ r.kind = 3 ∨ r.kind = 6))) ∧
    (∃ (s : State) (o : ScoordO), o = ⟨2, 5, 7, 3, 1⟩ ∧ o.u.toNat < 3 ∧ Ready s [o.a, o.b] ∧ (s.th.unit o.u.toNat).cfg.go = false) ∧
    (∃ (s : State) (o : SetO), o = ⟨2, 0, 1, 1⟩ ∧ o.u.toNat < 3 ∧ o.la.toNat < 3 ∧ o.lb.toNat < 3 ∧ o.u ≠ o.la ∧ o.u ≠ o.lb ∧ o.la ≠ o.lb ∧
      Ready s [] ∧ (∀ k < 3, (s.th.unit k).cfg.go = false) ∧ (s.th.unit o.la.toNat).cfg.legOk = true ∧ (s.th.unit o.lb.toNat).cfg.legOk = true) ∧
    (∃ (s : State) (o : Units), o = ⟨5⟩ ∧ Ready s [] ∧
      (∀ u < 3, o.m.getLsbD u = true → (s.th.unit u).cfg.go = false ∧ s.th.startFails u = 0 ∧ isOutput (s.th.unit u).cfg = false ∧
         (s.th.unit u).cfg.kind ≠ 6) ∧ s.th.inHandler = false) ∧
    (∃ (s : State) (o : Units), o = ⟨7⟩ ∧ Ready s [] ∧ (∀ u < 3, isOutput (s.th.unit u).cfg = false) ∧ s.th.rep.act = false ∧ s.th.fq = []) :=
  let s := withUnits { cfg := affine } { cfg := gatherRec } { cfg := ringRec }
  ⟨⟨s, _, rfl, by decide, readyNow rfl rfl (by decide), by decide⟩,
   ⟨withUnits { cfg := { affine with go := true } } {} {}, _, rfl, readyNow rfl rfl (by decide), by decide⟩,
   ⟨s, _, rfl, by decide, readyNow rfl rfl (by decide), by decide⟩,
   ⟨s, _, rfl, by decide, readyNow rfl rfl (by decide), by decide⟩,
   ⟨s, _, rfl, by decide, readyNow rfl rfl (by decide), by decide⟩,
   ⟨s, _, rfl, by decide, readyNow rfl rfl (by decide), by decide⟩,
   ⟨s, _, rfl, by decide, readyNow rfl rfl (by decide), by decide⟩,
   ⟨s, _, rfl, by decide, readyNow rfl rfl (by decide), by decide⟩,
   ⟨s, _, rfl, by decide, readyNow rfl rfl (by decide), by decide⟩,
   ⟨withUnits { cfg := affine } { cfg := { affine with esz := 2 } } {}, _, rfl, by decide, by decide, by decide, by decide, by decide, by decide, readyNow rfl rfl (by decide), by decide⟩,
   ⟨s, _, rfl, readyNow rfl rfl (by decide), by decide⟩,
   ⟨s, _, rfl, readyNow rfl rfl (by decide), by decide, by decide, rfl⟩⟩

theorem wit_stream_records :
    (∃ (s : State) (o : UnitG), o = ⟨0, 7⟩ ∧ o.u.toNat < 3 ∧ Ready s [o.a] ∧ s.th.rep.act = false ∧ s.th.fq = [] ∧
      (let x := s.th.unit o.u.toNat
       x.cfg.kind = 1 ∧ x.cfg.leg = false ∧ x.cfg.dir = 0 ∧ x.cfg.done = false ∧ s.g o.a ≠ 0 ∧ o.a.toNat < 32)) ∧
    (∃ (s : State) (u : BitVec 2) (o : UnitM) (ps : List Part) (l : Nat → Nat), o = ⟨2, 5, 0⟩ ∧ u.toNat < 3 ∧ Ready s [o.base] ∧ u = o.u ∧
      wordParts ps = (List.range 5).map (fun k => ⟨l k, 8⟩) ∧ ((∀ k < 5, l k % 8 = 0) ∧ s.bankHeld (wordParts ps) (some (s.cid, s.cur)) = false) ∧ Passes s (s.eaM o.base 3 o.off) 40 8 true ps ∧
      s.th.rep.act = false ∧ s.th.fq = [] ∧ s.th.sb = []) ∧
    (∃ (s : State) (u : BitVec 2) (o : UnitX) (ps : List Part), o = ⟨1, 5, 0, 8⟩ ∧ u.toNat < 3 ∧ Ready s (regsX o.base o.ix o.body) ∧ u = o.u ∧
      Passes s (s.eaX o.base o.ix o.body) 40 8 false ps ∧ (s.badPart (wordParts ps) = none ∧ s.bankHeld (wordParts ps) (some (s.cid, s.cur)) = false ∧ s.th.fstAway = false) ∧ s.th.forward (wordParts ps) = .none ∧ (s.th.unit u.toNat).cfg.go = false ∧
      recordOk (s.readParts (wordParts ps)) = true ∧ s.near (wordParts ps) = true) ∧
    (∃ (s : State) (u : BitVec 2) (o : UnitM) (ps : List Part), o = ⟨0, 6, 0⟩ ∧ u.toNat < 3 ∧ Ready s [o.base] ∧ u = o.u ∧
      Passes s (s.eaM o.base 3 o.off) 40 8 false ps ∧ (s.badPart (wordParts ps) = none ∧ s.bankHeld (wordParts ps) (some (s.cid, s.cur)) = false ∧ s.th.fstAway = false) ∧ s.th.forward (wordParts ps) = .none ∧ (s.th.unit u.toNat).cfg.go = false ∧
      recordOk (s.readParts (wordParts ps)) = true ∧ s.near (wordParts ps) = false) ∧
    (∃ (s : State) (u : BitVec 2) (o : UnitM) (ps : List Part), o = ⟨0, 5, 0⟩ ∧ u.toNat < 3 ∧ Ready s [o.base] ∧ u = o.u ∧
      Passes s (s.eaM o.base 3 o.off) 40 8 false ps ∧ (s.badPart (wordParts ps) = none ∧ s.bankHeld (wordParts ps) (some (s.cid, s.cur)) = false ∧ s.th.fstAway = false) ∧ s.th.forward (wordParts ps) = .none ∧ (s.th.unit u.toNat).cfg.go = false ∧
      recordOk (s.readParts (wordParts ps)) = false ∧ s.near (wordParts ps) = true) :=
  ⟨⟨withUnits { cfg := affine } {} {}, _, rfl, by decide, readyNow rfl rfl (by decide), rfl, rfl, by decide⟩,
   ⟨w1, 2, _, (List.range 5).map (fun k => ⟨lsLoc 0 0 0 0x100 + 8 * k, 8⟩), (lsLoc 0 0 0 0x100 + 8 * ·), rfl, by decide, readyNow rfl rfl (by decide), rfl, rfl, by decide, Passes.mk (by decide) (by decide) rfl rfl (by decide), rfl, rfl, rfl⟩,
   ⟨w1, 1, _, (List.range 5).map (fun k => ⟨lsLoc 0 0 0 0x108 + 8 * k, 8⟩), rfl, by decide, readyNow rfl rfl (by decide), rfl, Passes.mk (by decide) (by decide) rfl rfl (by decide),
     by decide⟩,
   ⟨w1, 0, _, [⟨0x800, 40⟩], rfl, by decide, readyNow rfl rfl (by decide), rfl, Passes.mk (by decide) (by decide) rfl rfl (by decide),
     by decide⟩,
   ⟨{ w1 with mem := [(lsLoc 0 0 0 0x106, 7)] }, 0, _, (List.range 5).map (fun k => ⟨lsLoc 0 0 0 0x100 + 8 * k, 8⟩), rfl, by decide, readyNow rfl rfl (by decide), rfl, Passes.mk (by decide) (by decide) rfl rfl (by decide),
     by decide⟩⟩

def live (r : StreamRec) (es : List Elem := []) : StreamUnit := { cfg := { r with go := true, en := true }, live := true, fetched := es }

/-- A move of the next element of unit 0 to `v4`, in the F queue. -/
def popEntry : FEntry := { ring := 0, raw := { op := 0x90, d := 4, a := 0 }, x := 0, pc := 2, bound := 1 }

def popState : State := withThread { addrs with fq := [popEntry], next := 1, units := #v[live affine [⟨77, none, 0, 0, 0, 0⟩, ⟨78, none, 0, 0, 0, 0⟩], {}, {}] }

theorem wit_stream_elements :
    (∃ (s : State) (u : BitVec 2) (ea loc : Nat), u.toNat < 3 ∧ (let x := s.th.unit u.toNat
      s.reads u.toNat (fun _ => true) = true ∧ x.cfg.done = false ∧ x.fetched = [] ∧ x.consumed = 0 ∧ x.cfg.kind = 1 ∧ x.faulted = none ∧
      x.cfg.affineAddr = (ea : Int) ∧ ea + 2 ^ x.cfg.esz.toNat ≤ 2 ^ 48 ∧ ea % 2 ^ x.cfg.esz.toNat = 0 ∧
      s.find (s.streamWho u.toNat) {} ea (2 ^ x.cfg.esz.toNat) = (.parts [⟨loc, 2 ^ x.cfg.esz.toNat⟩], s) ∧
      s.badPart [⟨loc, 2 ^ x.cfg.esz.toNat⟩] = none ∧ s.bankHeld [⟨loc, 2 ^ x.cfg.esz.toNat⟩] (some (s.cid, s.cur)) = false)) ∧
    (∀ full, full = [] ∨ full = [lsLoc 0 0 0 0x100] →
      ∃ (s : State) (u : BitVec 2) (loc : Nat), s.full = full ∧ u.toNat < 3 ∧ (let x := s.th.unit u.toNat
      s.reads u.toNat (fun _ => true) = true ∧ x.cfg.done = false ∧ x.fetched = [] ∧ x.cfg.kind = 3 ∧ x.faulted = none ∧
      s.find (s.streamWho u.toNat) {} (x.cfg.addr.toNat + 8 * x.cfg.idx0.toNat) 8 = (.parts [⟨loc, 8⟩], s) ∧
      x.cfg.addr.toNat + 8 * x.cfg.idx0.toNat + 8 ≤ 2 ^ 48 ∧ (x.cfg.addr.toNat + 8 * x.cfg.idx0.toNat) % 8 = 0 ∧
      (s.badPart [⟨loc, 8⟩] = none ∧ s.bankHeld [⟨loc, 8⟩] (some (s.cid, s.cur)) = false ∧
        ∀ k < 3, isOutput (s.th.unit k).cfg = true → (s.th.unit k).cfg.legA % 3 ≠ u.toNat ∧ (s.th.unit k).cfg.legB % 3 ≠ u.toNat) ∧ s.isFull loc = (full != []))) ∧
    (∃ (s : State) (u : BitVec 2) (v : Nat), u.toNat < 3 ∧ (let x := s.th.unit u.toNat
      s.reads u.toNat (fun _ => true) = true ∧ x.cfg.done = false ∧ x.fetched = [] ∧ x.cfg.kind = 4 ∧ x.cfg.cnt = false ∧
       (s.th.unit x.cfg.legA).legAt = .next v ∧ (s.th.unit x.cfg.legB).legAt = .next v ∧ x.cfg.legA ≠ x.cfg.legB ∧
       x.cfg.legA ≠ u.toNat ∧ x.cfg.legB ≠ u.toNat ∧ x.cfg.legA < 3 ∧ x.cfg.legB < 3)) ∧
    (∃ (s : State) (e : FEntry) (x : Elem) (rest : List Elem) (d a : Reg), d.toNat < 48 ∧ 3 ≤ d.toNat ∧ a.toNat < 3 ∧
     e.raw = { op := 0x90, d := d, a := a } ∧ e.st = .waiting ∧ e.bound.getLsbD a.toNat = true ∧
     (∀ k < 3, k ≠ a.toNat → e.bound.getLsbD k = false) ∧
     FIdle { s.modTh (fun t => { t with fq := [], units := t.units.map fun u => { u with cfg := { u.cfg with en := false } } }) with } ∧
     s.th.fq = [e] ∧ (let u := s.th.unit a.toNat
     u.cfg.kind = 1 ∧ u.cfg.done = false ∧ u.cfg.rpt = 0 ∧ u.cfg.rcnt = 0 ∧ u.taken = 0 ∧ u.fetched = x :: rest ∧ x.fault = none)) :=
  ⟨⟨withUnits (live affine) {} {}, 0, 0xF00000000108, lsLoc 0 0 0 0x108, by and_intros <;> first | rfl | decide⟩,
   fun full h => ⟨{ withUnits {} {} (live ringRec) with full := full }, 2, lsLoc 0 0 0 0x100, rfl, by decide, by
      rcases h with rfl | rfl <;> refine ⟨by rfl, by rfl, rfl, rfl, rfl, by rfl, ?_⟩ <;> decide⟩,
   ⟨withUnits (live { affine with leg := true } [⟨5, none, 0, 0, 0, 0⟩]) (live { affine with leg := true } [⟨5, none, 0, 0, 0, 0⟩]) (live { kind := 4, esz := 3, aux := 4 }),
      2, 5, by decide⟩,
   ⟨popState, popEntry, ⟨77, none, 0, 0, 0, 0⟩, [⟨78, none, 0, 0, 0, 0⟩], 4, 0, by decide, by decide, by decide, rfl, rfl, by decide, by decide,
      ⟨rfl, rfl, rfl, rfl, rfl, rfl, rfl, fun u hu => by
          obtain rfl | rfl | rfl : u = 0 ∨ u = 1 ∨ u = 2 := by omega
          all_goals simp [popState, withThread, State.modTh, State.th, State.setTh, Core.setTh, Thread.unit, live], rfl, rfl, by decide, rfl, by decide, rfl, by decide⟩, rfl, by decide⟩⟩

/-! ## Chapter 07 -/

/-- The EFD registers describe BF16 lanes. -/
def packing : Thread := { addrs with efd := Vector.replicate 4 0x6 }

def wF : State := withThread packing

theorem fIdle_wF : FIdle wF := by constructor <;> first | rfl | decide

theorem wit_scalar_float :
    FIdle wF ∧ (∃ o : FP3, o = ⟨47, 0, 3, 3⟩ ∧ FRegs [o.d, o.a, o.b]) ∧ (∃ o : FP3R, o = ⟨0, 47, 47, 3, 0, 4⟩ ∧ FRegs [o.d, o.a, o.b]) ∧
    (∃ o : FP4R, o = ⟨47, 1, 2, 47, 7, 2, 0⟩ ∧ FRegs [o.d, o.a, o.b, o.c]) ∧ (∃ o : FP3H, o = ⟨47, 3, 4, 1, 3⟩ ∧ FRegs [o.d, o.a, o.b]) ∧
    (∃ o : FP2, o = ⟨47, 3, 1⟩ ∧ FRegs [o.d, o.a]) ∧ (∃ o : FP2H, o = ⟨3, 47, 1, 1⟩ ∧ FRegs [o.d, o.a]) ∧
    (∃ o : FC3, o = ⟨31, 47, 0, 3⟩ ∧ FRegs [o.a, o.b] ∧ o.d.toNat < 32) ∧ (∃ o : FC3H, o = ⟨0, 47, 0, 3, 3⟩ ∧ FRegs [o.a, o.b] ∧ o.d.toNat < 32) ∧
    (∃ o : FC2, o = ⟨31, 47, 3⟩ ∧ FRegs [o.a] ∧ o.d.toNat < 32) := by
  simp only [exists_eq_left]
  exact ⟨fIdle_wF, by unfold FRegs; decide⟩

theorem wit_scalar_moves :
    FIdle wF ∧ (∃ o : CvtR, FRegs [o.d, o.a] ∧ o.d = 47) ∧ (∃ o : CvtX, FRegs [o.d, o.a] ∧ o.a = 47) ∧
    (∃ o : CviR, FRegs [o.a] ∧ o.d.toNat < 32 ∧ o.d = 31) ∧ (∃ o : CviX, FRegs [o.a] ∧ o.d.toNat < 32 ∧ o.a = 47) ∧
    (∃ o : IcvR, FRegs [o.d] ∧ o.a.toNat < 32 ∧ o.a = 31) ∧ (∃ o : IcvX, FRegs [o.d] ∧ o.a.toNat < 32 ∧ o.d = 47) ∧
    (∃ o : GF, FRegs [o.a] ∧ o.d.toNat < 32 ∧ o.d = 0) ∧ (∃ o : FG, FRegs [o.d] ∧ o.a.toNat < 32 ∧ o.a = 5) ∧
    (∃ o : F4H, FRegs [o.d, o.a, o.b, o.c] ∧ o.c = 47) ∧
    (∃ o : FK16, FRegs [o.d] ∧ o.d = 47) ∧ (∃ o : FK32, FRegs [o.d] ∧ o.d = 0) ∧ (∃ o : FK64, FRegs [o.d] ∧ o.d = 3) ∧
    (∃ (s : State) (o : K32), Ready s [] ∧ s.th.rep.act = false ∧ descValid o.k.toNat = true) ∧
    (∃ (s : State) (o : K32), Ready s [] ∧ s.th.rep.act = false ∧ descValid o.k.toNat = false) ∧
    (∃ (s : State) (p : PE3), FRegs [p.d, p.a, p.b] ∧ s.th.pp = true ∧ FIdle (s.modTh fun t => { t with pp := false })) ∧
    (∃ s : State, s.th.pp = true ∧ s.th.capture = none) := by
  refine ⟨fIdle_wF, ⟨⟨47, 0, 0, 3⟩, ?_, rfl⟩, ⟨⟨0, 47, 1, 0, 3, 0⟩, ?_, rfl⟩, ⟨⟨31, 0, 1, 3⟩, ?_, by decide, rfl⟩, ⟨⟨0, 47, 1, 1, 0, 0⟩, ?_, by decide, rfl⟩,
    ⟨⟨0, 31, 1, 3⟩, ?_, by decide, rfl⟩, ⟨⟨47, 1, 1, 0, 0, 1⟩, ?_, by decide, rfl⟩, ⟨⟨0, 47⟩, ?_, by decide, rfl⟩, ⟨⟨47, 5⟩, ?_, by decide, rfl⟩,
    ⟨⟨0, 1, 2, 47, 7⟩, ?_, rfl⟩, ⟨⟨47, 1⟩, ?_, rfl⟩, ⟨⟨0, 1⟩, ?_, rfl⟩, ⟨⟨3, 1⟩, ?_, rfl⟩,
    ⟨wF, ⟨6⟩, readyNow rfl rfl (by decide), rfl, by decide⟩, ⟨wF, ⟨0x80000000⟩, readyNow rfl rfl (by decide), rfl, by decide⟩,
    ⟨withThread { packing with pp := true, prefixD := 3 }, ⟨1, 2, 3, 0⟩, ?_, rfl, rfl, rfl, rfl, rfl, rfl, rfl, rfl, by decide, rfl, rfl, by decide, rfl, by decide, rfl, by decide⟩,
    ⟨withThread { packing with pp := true, prefixD := 3 }, rfl, rfl⟩⟩ <;> unfold FRegs <;> decide

theorem wit_packed_float :
    FIdle wF ∧ (∃ o : PE3, FRegs [o.d, o.a, o.b] ∧ o.e = 3) ∧ (∃ o : PE3H, FRegs [o.d, o.a, o.b] ∧ o.d = 47) ∧ (∃ o : PE4H, FRegs [o.d, o.a, o.b, o.c] ∧ o.c = 47) ∧
    (∃ o : PBc, FRegs [o.d, o.a] ∧ o.lane = 3 ∧ partFails { op := 0x89, d := o.d, a := o.a, b := o.lane.setWidth 6, m8 := o.e.setWidth 8 } (wF.efdOf o.e) = false) ∧
    (∃ o : PBcH, FRegs [o.d, o.a] ∧ o.lane = 0 ∧
      partFails { op := 0x89, d := o.d, a := o.a, b := o.lane.setWidth 6, m8 := o.e.setWidth 8, hold := o.h.setWidth 3 } (wF.efdOf o.e) = false) ∧
    (∃ o : PW3, FRegs [o.d, o.a, o.b] ∧ partFails { op := 0x8A, d := o.d, a := o.a, b := o.b, m8 := 0#4 ++ o.wf ++ o.e } (wF.efdOf o.e) = false ∧
      partFails { op := 0x8C, d := o.d, a := o.a, b := o.b, m8 := 0#4 ++ o.wf ++ o.e } (wF.efdOf o.e) = false) ∧
    (∃ o : PW3H, FRegs [o.d, o.a, o.b] ∧ o.part = 1 ∧
      partFails { op := 0x8A, d := o.d, a := o.a, b := o.b, m8 := o.part ++ o.wf ++ o.e, hold := o.h.setWidth 3 } (wF.efdOf o.e) = false) ∧
    (∃ o : PW2, FRegs [o.d, o.a] ∧ partFails { op := 0x8B, d := o.d, a := o.a, m8 := 0#4 ++ o.wf ++ o.e } (wF.efdOf o.e) = false ∧
      partFails { op := 0x8D, d := o.d, a := o.a, m8 := 0#4 ++ o.wf ++ o.e } (wF.efdOf o.e) = false) ∧
    (∃ o : PW2H, FRegs [o.d, o.a] ∧ o.part = 1 ∧
      partFails { op := 0x8B, d := o.d, a := o.a, m8 := o.part ++ o.wf ++ o.e, hold := o.h.setWidth 3 } (wF.efdOf o.e) = false) ∧
    (∃ o : PW4H, FRegs [o.d, o.a, o.b, o.c] ∧ o.part = 1 ∧
      partFails { op := 0x8C, d := o.d, a := o.a, b := o.b, c := o.c, m8 := o.part ++ o.wf ++ o.e, hold := o.h.setWidth 3 } (wF.efdOf o.e) = false) ∧
    (∃ o : PWcH, FRegs [o.d, o.a, o.c] ∧ o.part = 1 ∧
      partFails { op := 0x8D, d := o.d, a := o.a, c := o.c, m8 := o.part ++ o.wf ++ o.e, hold := o.hc ++ 0#1 ++ o.ha } (wF.efdOf o.e) = false) ∧
    (∃ o : F3, FRegs [o.d, o.a, o.b] ∧ o.d = 47) ∧ (∃ o : F3H, FRegs [o.d, o.a, o.b] ∧ o.a = 47) ∧ (∃ o : F2, FRegs [o.d, o.a] ∧ o.d = 47) ∧
    (∃ o : F2H, FRegs [o.d, o.a] ∧ o.a = 47) := by
  refine ⟨fIdle_wF, ⟨⟨1, 2, 3, 3⟩, ?_, rfl⟩, ⟨⟨47, 1, 2, 3, 0⟩, ?_, rfl⟩, ⟨⟨3, 4, 5, 47, 7, 2⟩, ?_, rfl⟩, ⟨⟨1, 2, 3, 0⟩, ?_, rfl, by decide⟩, ⟨⟨1, 2, 0, 1, 3⟩, ?_, rfl, by decide⟩,
    ⟨⟨1, 2, 3, 0, 2⟩, ?_, by decide⟩, ⟨⟨1, 2, 3, 0, 0, 2, 1⟩, ?_, rfl, by decide⟩, ⟨⟨1, 2, 0, 2⟩, ?_, by decide⟩, ⟨⟨1, 2, 1, 0, 2, 1⟩, ?_, rfl, by decide⟩,
    ⟨⟨1, 2, 3, 4, 0, 0, 2, 1⟩, ?_, rfl, by decide⟩, ⟨⟨1, 2, 3, 0, 0, 0, 2, 1⟩, ?_, rfl, by decide⟩, ⟨⟨47, 0, 0⟩, ?_, rfl⟩, ⟨⟨0, 47, 0, 3⟩, ?_, rfl⟩, ⟨⟨47, 0⟩, ?_, rfl⟩,
    ⟨⟨0, 47, 1⟩, ?_, rfl⟩⟩ <;> unfold FRegs <;> decide

theorem wit_special_functions :
    FIdle wF ∧ (∃ o : FP2, o = ⟨47, 0, 3⟩ ∧ FRegs [o.d, o.a]) ∧ (∃ o : FP2H, o = ⟨0, 47, 1, 3⟩ ∧ FRegs [o.d, o.a]) ∧
    (∃ o : FP3, o = ⟨47, 0, 3, 3⟩ ∧ FRegs [o.d, o.a, o.b]) ∧ (∃ o : FP3H, o = ⟨47, 3, 4, 1, 3⟩ ∧ FRegs [o.d, o.a, o.b]) ∧
    (∃ o : FS2, o = ⟨47, 0, 2⟩ ∧ FRegs [o.d, o.a]) ∧ (∃ o : FS2H, o = ⟨0, 47, 1, 0⟩ ∧ FRegs [o.d, o.a]) := by
  simp only [exists_eq_left]
  exact ⟨fIdle_wF, by unfold FRegs; decide⟩

/-! ## Chapter 10: messages, queues, transfers -/

/-- A context of 2 positions: (0, 0) is core 0 of cluster 0 of die 0, (1, 0) its core 1; module 1 has a route. -/
def netState (t : Thread) (k : Core → Core := id) : State :=
  let s := withThread t
  { s with
    mem := [(0x2000, 1), (0x2004, 1), (0x3000, 1), (0x4000, 1)]
    ctxs := s.ctxs.set 0 { valid := true, rtab := 0x3000, ctab := 0x2000, twm1 := 1, mtab := 0x4000, mcnt := 1 }
    core := k { s.core with bind := #v[some ⟨0, none⟩, none, none, some ⟨1, none⟩] } }

def aMsg (cls : BitVec 2) : Msg := ⟨1, 0, 0, cls, [11, 12]⟩
def anEntry (id : Nat) : RetryEntry := { id := id, slot := 0, ctx := 0, target := 1, msg := aMsg 0 }

theorem wit_messages :
    (∃ (s : State) (o : SendO), o = ⟨31, 7, 0, 0, 0, 0⟩ ∧ Ready s (o.a :: sendRegs o.d o.nm1) ∧ o.d.toNat + o.nm1.toNat < 32 ∧
      s.targetOk s.th.ctx (s.g o.a).toNat = true ∧ s.core.retry.length < 8) ∧
    (∃ (s : State) (o : SendO), o = ⟨28, 7, 3, 3, 2, 0⟩ ∧ Ready s (o.a :: sendRegs o.d o.nm1) ∧ o.d.toNat + o.nm1.toNat < 32 ∧
      s.targetOk s.th.ctx (s.g o.a).toNat = true ∧ s.core.retry.length ≥ 8) ∧
    (∃ (s : State) (o : SendO), o = ⟨1, 8, 0, 0, 0, 0⟩ ∧ Ready s (o.a :: sendRegs o.d o.nm1) ∧ o.d.toNat + o.nm1.toNat < 32 ∧
      s.targetOk s.th.ctx (s.g o.a).toNat = false) ∧
    (∃ (s : State) (o : SendnO) (target : Nat), o = ⟨1, 1, 1, -1, 1, 1, 0⟩ ∧ target = 1 ∧ Ready s (sendRegs o.d o.nm1) ∧ o.d.toNat + o.nm1.toNat < 32 ∧
      target = (((s.th.lx : Int) + o.dx.toInt) % (s.ctxs[s.th.ctx.toNat].twm1.toNat + 1)).toNat +
           2 ^ 10 * (((s.th.ly : Int) + o.dy.toInt) % (s.ctxs[s.th.ctx.toNat].thm1.toNat + 1)).toNat ∧
      s.targetOk s.th.ctx target = true ∧ s.core.retry.length < 8) ∧
    (∃ (s : State) (d a : Reg) (cls : BitVec 2) (m : Msg) (rest : List Msg), d = 28 ∧ a = 27 ∧ d.toNat < 29 ∧ 0 < d.toNat ∧ 0 < a.toNat ∧ a.toNat < 32 ∧
      (a.toNat < d.toNat ∨ d.toNat + 3 < a.toNat) ∧ Ready s [a, d, d + 1, d + 2, d + 3] ∧ s.ownClass cls = true ∧ inboxOf s.core cls = m :: rest) ∧
    (∃ (s : State) (d a : Reg) (cls : BitVec 2), d = 1 ∧ a = 31 ∧ d.toNat < 29 ∧ 0 < d.toNat ∧ 0 < a.toNat ∧ a.toNat < 32 ∧
      (a.toNat < d.toNat ∨ d.toNat + 3 < a.toNat) ∧ Ready s [a, d, d + 1, d + 2, d + 3] ∧ s.th.mode = true ∧ inboxOf s.core cls = []) ∧
    (∃ (s : State) (d a : Reg) (cls : BitVec 2), d = 1 ∧ a = 5 ∧ d.toNat < 29 ∧ 0 < d.toNat ∧ 0 < a.toNat ∧ a.toNat < 32 ∧
      (a.toNat < d.toNat ∨ d.toNat + 3 < a.toNat) ∧ Ready s [a, d, d + 1, d + 2, d + 3] ∧ s.th.mode = false ∧ s.ownClass cls = false) :=
  ⟨⟨netState addrs, _, rfl, readyNow rfl rfl (by decide), by decide⟩,
   ⟨netState addrs fun k => { k with retry := (List.range 8).map anEntry }, _, rfl, readyNow rfl rfl (by decide), by decide⟩,
   ⟨netState addrs, _, rfl, readyNow rfl rfl (by decide), by decide⟩,
   ⟨netState addrs, _, _, rfl, rfl, readyNow rfl rfl (by decide), by decide⟩,
   ⟨netState addrs fun k => { k with inbox := #v[[aMsg 0], [], [], []] }, 28, 27, 0, aMsg 0, [], rfl, rfl, by decide, by decide, by decide, by decide, by decide,
     readyNow rfl rfl (by decide), by decide, rfl⟩,
   ⟨netState { addrs with mode := true }, 1, 31, 3, rfl, rfl, by decide, by decide, by decide, by decide, by decide, readyNow rfl rfl (by decide), rfl, rfl⟩,
   ⟨netState addrs, 1, 5, 3, rfl, rfl, by decide, by decide, by decide, by decide, by decide, readyNow rfl rfl (by decide), rfl, by decide⟩⟩

def flyTo (cls : BitVec 2) (n : Nat := 0) (mode : Thread := addrs) : State :=
  { netState mode (fun k => { k with inbox := #v[List.replicate n (aMsg 0), [], [], []] }) with
    msgFly := [⟨some (⟨0, 0, 1⟩, 4), ⟨0, 0, 0⟩, 0, aMsg cls⟩], ackFly := [⟨⟨0, 0, 0⟩, 4, false, false⟩, ⟨⟨0, 0, 0⟩, 4, true, false⟩] }

theorem wit_message_network :
    (∃ (s : State) (o : GCls), o = ⟨31, 3⟩ ∧ o.d.toNat < 32 ∧ Ready s [o.d] ∧ (s.core.bind[o.cls.toNat]).isSome = true) ∧
    (∃ (s : State) (o : GCls), o = ⟨0, 1⟩ ∧ o.d.toNat < 32 ∧ Ready s [o.d] ∧ (s.core.bind[o.cls.toNat]).isSome = false) ∧
    (∃ (s : State) (r : RetryEntry) (c : CoreId), s.nextInject = some r ∧ bits r.target.toNat 20 8 = 0 ∧
      s.placeOf r.ctx (bits r.target.toNat 0 10) (bits r.target.toNat 10 10) = .core c) ∧
    (∃ (s : State) (f : MsgFly) (src : CoreId × Nat) (c : Core), s.msgFly[0]? = some f ∧ f.src = some src ∧ s.arrival f.dest f.msg = .accepted c) ∧
    (∃ (s : State) (f : MsgFly) (src : CoreId × Nat), s.msgFly[0]? = some f ∧ f.src = some src ∧ s.arrival f.dest f.msg = .nack) ∧
    (∃ (s : State) (f : MsgFly) (src : CoreId × Nat), s.msgFly[0]? = some f ∧ f.src = some src ∧ s.arrival f.dest f.msg = .dead) ∧
    (∃ (s : State) (c : CoreId) (m : Msg) (b : ClassBind), (s.coreAt c).bind[m.cls.toNat] = some b ∧ (s.coreAt c).dbg.halted = false ∧
       ((s.coreAt c).th b.slot).status = .ready ∧ ((s.coreAt c).th b.slot).held = none ∧ s.outOf c b.slot b.team = false ∧
       (inboxOf (s.coreAt c) m.cls).length = 7 ∧ (s.coreAt c).recvWait = []) ∧
    (∃ (s : State) (a : AckFly), s.ackFly[0]? = some a ∧ a.dest = s.cid ∧ a.nack = false) ∧
    (∃ (s : State) (a : AckFly), s.ackFly[1]? = some a ∧ a.dest = s.cid ∧ a.nack = true) :=
  ⟨⟨netState addrs, _, rfl, by decide, readyNow rfl rfl (by decide), by decide⟩, ⟨netState addrs, _, rfl, by decide, readyNow rfl rfl (by decide), by decide⟩,
   ⟨netState addrs fun k => { k with retry := [anEntry 4] }, anEntry 4, ⟨0, 0, 1⟩, rfl, by decide⟩,
   ⟨flyTo 0, _, _, _, rfl, rfl, rfl⟩,
   ⟨flyTo 0 8, _, _, rfl, rfl, rfl⟩,
   ⟨flyTo 1, _, _, rfl, rfl, rfl⟩,
   ⟨flyTo 0 7, ⟨0, 0, 0⟩, aMsg 0, ⟨0, none⟩, by decide, rfl, rfl, rfl, by decide, by decide, rfl⟩,
   ⟨flyTo 0, _, rfl, rfl, rfl⟩, ⟨flyTo 0, _, rfl, rfl, rfl⟩⟩

/-- Core 0 with its east and west ports connected, a control value at the head of the west one. -/
def portState (t : Thread) : State :=
  netState t fun k => (k.setPort 0 1 { con := true }).setPort 0 3 { con := true, words := [⟨9, true⟩] }

/-- An instruction that reads the west port. -/
def westEntry : FEntry := { ring := 0, raw := { op := 0x90, d := 4, a := 51 }, x := 0, pc := 2, bound := 0 }

def lightState (lh : Bool) : State :=
  portState { addrs with fq := if lh then [] else [westEntry], next := 1, qhpc := 66, lh := lh, qlinkPc := 66
                         lhHeld := if lh then some ⟨[westEntry], 66, false, 0, {}, none, []⟩ else none }

theorem wit_neighbour_queues :
    (∃ (s : State) (o : QendO) (c : CoreId), o = ⟨1, 7⟩ ∧ Ready s [o.a] ∧ s.th.writesPort o.port.toNat = false ∧ 0 < s.portSpace o.port.toNat ∧
      (s.core.port s.cur o.port.toNat).con = true ∧
      s.placeOf s.th.ctx (s.neighbour s.th o.port.toNat).1 (s.neighbour s.th o.port.toNat).2 = .core c) ∧
    (∃ (s : State) (o : QctlO), o = ⟨31, 7, 3⟩ ∧ o.d.toNat < 32 ∧ Ready s [o.d, o.a] ∧ s.th.writesPort o.pc.toNat = false ∧
      (s.core.port s.cur o.pc.toNat).taken = 0 ∧ s.th.mode = false) ∧
    (∃ (s : State) (o : QctlO), o = ⟨0, 7, 0⟩ ∧ o.d.toNat < 32 ∧ Ready s [o.d, o.a] ∧ s.th.mode = true) ∧
    (∃ (s : State) (f : QFlight), s.qFly[1]? = some f ∧ (∀ g ∈ s.qFly.take 1, g.dest ≠ f.dest ∨ g.slot ≠ f.slot ∨ g.port ≠ f.port)) ∧
    (∃ (s : State) (e : FEntry) (p : Nat) (w : QWord) (l : Line), p = 3 ∧ p < 4 ∧
     s.th.status = .ready ∧ s.th.lh = false ∧ s.core.lets s.cur = true ∧ s.th.fq = [e] ∧ e.st = .waiting ∧ s.controlPort e = some p ∧
     (s.core.port s.cur p).head = some w ∧ s.arriveReg (s.th.qhpc.setWidth 64) = (.go s.th.qhpc l, s)) ∧
    (∃ (u : State) (h : Held) (l : Line), Ready u [] ∧ u.th.lh = true ∧ u.th.fq = [] ∧ u.th.rep.act = false ∧ u.th.lhHeld = some h ∧
       u.arriveReg (u.th.qlinkPc.setWidth 64) = (.go u.th.qlinkPc l, u)) ∧
    (∃ u : State, Ready u [] ∧ u.th.lh = false) :=
  ⟨⟨portState addrs, _, ⟨0, 0, 1⟩, rfl, readyNow rfl rfl (by decide), by decide⟩,
   ⟨portState addrs, _, rfl, by decide, readyNow rfl rfl (by decide), by decide, by decide, rfl⟩,
   ⟨portState { addrs with mode := true }, _, rfl, by decide, readyNow rfl rfl (by decide), rfl⟩,
   ⟨{ portState addrs with qFly := [⟨⟨0, 0, 0⟩, 0, 1, ⟨1, false⟩⟩, ⟨⟨0, 0, 0⟩, 0, 3, ⟨2, false⟩⟩] }, _, rfl, by decide⟩,
   ⟨lightState false, westEntry, 3, ⟨9, true⟩, ⟨64, fullLine⟩, rfl, by decide, rfl, rfl, by decide, rfl, rfl, by decide, by decide, rfl⟩,
   ⟨lightState true, _, ⟨64, fullLine⟩, readyNow rfl rfl (by decide), rfl, rfl, rfl, rfl, rfl⟩,
   ⟨portState addrs, readyNow rfl rfl (by decide), rfl⟩⟩

/-- A transfer of 8 bytes between the local store and paged memory. -/
def aTransfer : Transfer :=
  { id := 0, at_ := ⟨0, 0, 0⟩, slot := 0, uid := 1, ctx := 0, user := true, put := false, indexed := false, loc := 0xF00000000100
    rem := 0x800, count := 8, ctr := 15, rmod := 0, ring := 15 }

def xferState (x : Transfer) (t : Thread := { addrs with uid := 1 }) : State :=
  let s := netState t fun k => { k with ring := k.ring.set 15 (.transfer 0 0) }
  { s with xfers := [x], xferNo := 1, cl := { s.cl with tlb := [⟨0, 0, 0, 0, true, true, true, true⟩] } }

theorem wit_transfers :
    (∃ (s : State) (o : XferO) (r : Fin 16) (more : List (Fin 16)), o = ⟨5, 6, 8, 15, 0⟩ ∧ Ready s [o.d, o.a, o.b, 0] ∧
      s.sideFails [⟨(s.g o.d).toNat, (s.g o.b).toNat % 2 ^ 24, localEnd, .store, false⟩, ⟨(s.g o.a).toNat, (s.g o.b).toNat % 2 ^ 24, remoteEnd, .load, o.rmod != 0⟩] = none ∧
      s.core.freeRing = r :: more ∧ s.core.submitted.length ≤ more.length ∧ s.th.sb = [] ∧ s.th.fstWaits = false) ∧
    (∃ (s : State) (o : XferI) (r : Fin 16) (more : List (Fin 16)), o = ⟨5, 6, 5, 7, 0, 3, 1, 7, 1⟩ ∧ Ready s [o.d, o.a, o.c, o.b] ∧
      s.sideFails [⟨(s.g o.d).toNat, (s.g o.c).toNat % 2 ^ 24 * 2 ^ o.esz.toNat, localEnd, .load, false⟩, ⟨(s.g o.a).toNat, 1, remoteEnd, .store, o.rmod != 0⟩,
        ⟨(s.g o.b).toNat, (s.g o.c).toNat % 2 ^ 24 * 2 ^ (2 + o.isz.toNat), localEnd, .load, false⟩] = none ∧
      (s.modRoute s.th.ctx o.rmod.toNat).isSome = true ∧ s.core.freeRing = r :: more ∧ s.core.submitted.length ≤ more.length ∧ s.th.sb = [] ∧ s.th.fstWaits = false) ∧
    (∃ (s : State) (o : XferO), o = ⟨5, 6, 0, 0, 0⟩ ∧ Ready s [o.d, o.a, o.b, 0] ∧
      s.sideFails [⟨(s.g o.d).toNat, (s.g o.b).toNat % 2 ^ 24, localEnd, .store, false⟩, ⟨(s.g o.a).toNat, (s.g o.b).toNat % 2 ^ 24, remoteEnd, .load, o.rmod != 0⟩] = none ∧
      s.core.freeRing = []) ∧
    (∃ (s : State) (o : XferO), o = ⟨5, 6, 8, 0, 0⟩ ∧ Ready s [o.d, o.a, o.b, 0] ∧
      s.sideFails [⟨(s.g o.d).toNat, (s.g o.b).toNat % 2 ^ 24, localEnd, .store, false⟩, ⟨(s.g o.a).toNat, (s.g o.b).toNat % 2 ^ 24, remoteEnd, .load, o.rmod != 0⟩] = none ∧
      s.th.sb ≠ []) ∧
    (∀ put : Bool, ∃ (s : State) (ring : BitVec 4) (x : Transfer) (a b n : Nat), x.put = put ∧ s.transferOf ring = some x ∧ x.at_ = s.cid ∧ x.ring = ring ∧
      x.waiting = false ∧ x.fail = none ∧ x.rmod = 0 ∧ x.indexed = false ∧ n = x.count.toNat ∧ 0 < n ∧
      (let src := if x.put then x.loc.toNat else x.rem.toNat
       let dst := if x.put then x.rem.toNat else x.loc.toNat
       src + n ≤ 2 ^ 48 ∧ dst + n ≤ 2 ^ 48 ∧ localEnd (spaceOf x.loc.toNat) = true ∧ remoteEnd (spaceOf x.rem.toNat) = true ∧
       s.find (s.xferWho x) {} src n = (.parts [⟨a, n⟩], s) ∧ s.find (s.xferWho x) { w := true } dst n = (.parts [⟨b, n⟩], s)) ∧
      s.bankHeld [⟨a, n⟩] none = false ∧ s.bankHeld [⟨b, n⟩] none = false ∧ s.badPart [⟨a, n⟩] = none ∧ s.refuses [⟨b, n⟩] = none ∧
      (Memory.wf s.mem = true ∧ (∀ k < n, Plain (b + k)) ∧ (s.servedBy x = some (s.clusterOf x.at_) → (s.clAt (s.clusterOf x.at_)).spent = false)) ∧ (s.core.th x.slot).uid = x.uid ∧ (s.core.th x.slot).status ≠ .empty) ∧
    (∃ (s : State) (ring : BitVec 4) (x : Transfer) (c : BitVec 8), s.transferOf ring = some x ∧ x.at_ = s.cid ∧ x.ring = ring ∧
      x.slot = s.cur ∧ x.fail = some c ∧ s.th.uid = x.uid ∧ s.th.status ≠ .empty ∧
      (∀ i, i ≠ s.cur → (s.core.th i).uid ≠ x.uid ∨ (s.core.th i).status = .empty)) :=
  ⟨⟨netState addrs, _, 0, _, rfl, readyNow rfl rfl (by decide), by decide, rfl, by decide, rfl, rfl⟩,
   ⟨netState addrs, _, 0, _, rfl, readyNow rfl rfl (by decide), by decide, by decide, rfl, by decide, rfl, rfl⟩,
   ⟨netState addrs fun k => { k with ring := Vector.replicate 16 (.transfer 1 9) }, _, rfl, readyNow rfl rfl (by decide), by decide⟩,
   ⟨netState buffered, _, rfl, readyNow rfl rfl (by decide), by decide⟩,
   fun
   | false => ⟨xferState aTransfer, 15, aTransfer, 0x800, lsLoc 0 0 0 0x100, 8, rfl, rfl, rfl, rfl, rfl, rfl, rfl, rfl, rfl, by decide,
      ⟨by decide, by decide, by decide, by decide, rfl, rfl⟩, by decide⟩
   | true => ⟨xferState { aTransfer with put := true }, 15, { aTransfer with put := true }, lsLoc 0 0 0 0x100, 0x800, 8, rfl, rfl, rfl, rfl, rfl, rfl, rfl, rfl, rfl, by decide,
      ⟨by decide, by decide, by decide, by decide, rfl, rfl⟩, by decide⟩,
   ⟨xferState { aTransfer with fail := some 6 }, 15, { aTransfer with fail := some 6 }, 6, rfl, rfl, rfl, rfl, rfl, rfl, by decide⟩⟩

/-- A running team with one seat: user slot 1 of core 0. -/
def aTeam : Team :=
  { id := 7, no := 7, ctx := 0, queue := 16, cmd := 0, prio := 0, rcd := 0, st := .running
    seats := [{ x := 0, y := 0, at_ := ⟨0, 0, 0⟩, slot := 1, ts := 1 }] }

/-- A mailbox of slot 1 with two pending launches. -/
def mailState : State :=
  { netState addrs (fun k => { k with mail := k.mail.set 3 (some { loc := lsLoc 0 0 0 0x100, pc := 66, slot := 1, trig := 1, cls := 0, team := some 7, g31 := 5, pending := [8, 9] }) }) with
    teams := [aTeam] }

theorem wit_counters_and_mailboxes :
    (∃ (s : State) (o : CtrO), o = ⟨31, 7, 15⟩ ∧ o.d.toNat < 32 ∧ Ready s [o.d, o.a] ∧ (s.th.ctrs[o.ctr.toNat] - (s.g o.a).setWidth 32).toNat = 2 ^ 31 - 1) ∧
    (∃ (s : State) (o : CtrO), o = ⟨0, 7, 0⟩ ∧ o.d.toNat < 32 ∧ Ready s [o.d, o.a] ∧ (s.th.ctrs[o.ctr.toNat] - (s.g o.a).setWidth 32).toNat = 2 ^ 31) ∧
    (∃ (s : State) (o : MbindO) (loc : Nat), o = ⟨3, 5, 9, 1, 1, 0⟩ ∧ Ready s [o.a, o.b, 31] ∧ s.mailWord (s.g o.a).toNat = .inl loc ∧ handlerBad (s.g o.b).toNat = false) ∧
    (∃ (s : State) (o : MbindO), o = ⟨0, 0, 9, 0, 0, 0⟩ ∧ Ready s [o.a, o.b, 31] ∧ o.trig ≠ 1 ∧ o.trig ≠ 2 ∧ handlerBad (s.g o.b).toNat = false) ∧
    (∃ (s : State) (o : MbindO), o = ⟨1, 0, 9, 1, 2, 3⟩ ∧ Ready s [o.a, o.b, 31] ∧ (s.core.bind[o.cls.toNat]).map (·.slot) = some (slotOf o.slot) ∧
      handlerBad (s.g o.b).toNat = false) ∧
    (∃ (s : State) (o : MbindO) (loc : Nat), o = ⟨3, 5, 6, 1, 1, 0⟩ ∧ Ready s [o.a, o.b, 31] ∧ s.mailWord (s.g o.a).toNat = .inl loc ∧ handlerBad (s.g o.b).toNat = true) ∧
    (∃ (s : State) (slot : BitVec 2) (n : Fin 4) (b : Mailbox) (v : Word) (more : List Word) (id : Nat) (tm : Team) (p : Seat),
     (s.core.th (slotOf slot)).status = .empty ∧ s.core.fenced = false ∧ s.core.mail[n.val] = some b ∧ b.slot = slotOf slot ∧
     b.pending = v :: more ∧ s.outOf s.cid b.slot b.team = false ∧
     (∀ m : Fin 4, m < n → ∀ c, s.core.mail[m.val] = some c → c.slot ≠ slotOf slot ∨ c.pending = []) ∧
     b.team = some id ∧ s.team id = some tm ∧ tm.st = .running ∧ tm.aborted = false ∧ tm.seatAt s.cid b.slot = some p) :=
  ⟨⟨withThread { addrs with ctrs := Vector.replicate 16 0x80000000 }, _, rfl, by decide, readyNow rfl rfl (by decide), by decide⟩,
   ⟨withThread { addrs with ctrs := Vector.replicate 16 0x80000001 }, _, rfl, by decide, readyNow rfl rfl (by decide), by decide⟩,
   ⟨netState (addrs.setG 9 66), _, lsLoc 0 0 0 0x100, rfl, readyNow rfl rfl (by decide), rfl, by decide⟩,
   ⟨netState (addrs.setG 9 66), _, rfl, readyNow rfl rfl (by decide), by decide⟩,
   ⟨netState (addrs.setG 9 66), _, rfl, readyNow rfl rfl (by decide), by decide⟩,
   ⟨netState (addrs.setG 9 66), _, lsLoc 0 0 0 0x100, rfl, readyNow rfl rfl (by decide), rfl, by decide⟩,
   ⟨mailState, 1, 3, { loc := lsLoc 0 0 0 0x100, pc := 66, slot := 1, trig := 1, cls := 0, team := some 7, g31 := 5, pending := [8, 9] }, 8, [9], 7, aTeam, _, by decide, rfl, rfl, rfl, rfl, by decide,
     by decide, rfl, rfl, rfl, rfl, rfl⟩⟩

/-- The thread is member 1 of a group of three, whose members are given. -/
def groupState (ms : List Member) (t : Thread := addrs) : State :=
  let s := netState { t with gmem := t.gmem.set 3 0x300001100 }
  { s with mem := s.mem ++ [(0x5000, 3), (0x5002, 0x20)], ctxs := s.ctxs.set 0 { s.ctxs[0] with gtab := 0x5000 }
           groups := [{ ctx := 0, gid := 0, members := ms, bc := 0xFFFFFFFF }] }

def mem (x : Nat) (b : Barrier := .idle) (c : Collective := .idle) : Member := ⟨x, 0, b, c⟩

theorem inGroup (ms : List Member) (m : Member) (h : ms[1]? = some m) :
    InGroup (groupState ms) 3 ⟨0, 0, ms, 0xFFFFFFFF⟩ 1 m := by
  refine ⟨?_, ?_, ?_, ?_, ?_, h⟩
  · show gmemV (groupState []).th.gmem[3] = true; decide
  · show bits ((groupState []).groupEntry 0 (gmemGid (groupState []).th.gmem[3])) 21 1 = 1; decide
  · show 1 < bits ((groupState []).groupEntry 0 (gmemGid (groupState []).th.gmem[3])) 0 21; decide
  · show gmemIdx (groupState []).th.gmem[3] = 1; decide
  · have g : gmemGid (groupState []).th.gmem[3] = 0 := by decide
    show (groupState ms).group 0 (gmemGid (groupState []).th.gmem[3]) = _
    rw [g]; rfl

theorem wit_group_barriers :
    ∀ l : Barrier × Barrier × Barrier, l ∈ [(Barrier.arrived, Barrier.idle, Barrier.arrived), (.arrived, .idle, .idle), (.idle, .arrived, .idle), (.released, .released, .idle)] →
    ∃ (s : State) (o : GbarG) (g : Group) (m : Member), m.bar = l.2.1 ∧ g.members.map (·.bar) = [l.1, l.2.1, l.2.2] ∧ o = ⟨3, 31⟩ ∧
      o.a.toNat < 32 ∧ Ready s [o.a] ∧ InGroup s o.gm g 1 m ∧ s.th.sb = [] ∧ s.th.fstWaits = false := by
  intro l h
  refine ⟨groupState [mem 0 l.1, mem 1 l.2.1, mem 2 l.2.2], ⟨3, 31⟩, ⟨0, 0, [mem 0 l.1, mem 1 l.2.1, mem 2 l.2.2], 0xFFFFFFFF⟩, mem 1 l.2.1, rfl, rfl, rfl, by decide,
    ⟨rfl, rfl, by revert l; decide⟩, inGroup _ _ rfl, rfl, rfl⟩

def given (what key : Nat) (v : Word) : Collective := .contributed { what := what, key := key, val := v }

theorem wit_group_reductions :
    (∀ (op : Nat) (ty : BitVec 1), op < 5 → ∃ (s : State) (d a : Reg) (gm : BitVec 2) (g : Group) (i : Nat) (m : Member), d = 31 ∧
      d.toNat < 32 ∧ 0 < d.toNat ∧ a.toNat < 32 ∧ Ready s [d, a] ∧ InGroup s gm g i m ∧ (s.th.sb = [] ∧ s.th.fstWaits = false) ∧ m.col = .idle ∧
      ∀ j x, g.members[j]? = some x → j ≠ i → ∃ v, x.col = .contributed { what := 0, key := op + 8 * ty.toNat, val := v }) ∧
    (∃ (s : State) (d a : Reg) (gm : BitVec 2) (g : Group) (i : Nat) (m : Member), d.toNat < 32 ∧ 0 < d.toNat ∧ a.toNat < 32 ∧ Ready s [d, a] ∧ InGroup s gm g i m ∧
      (s.th.sb = [] ∧ s.th.fstWaits = false) ∧ m.col = .idle ∧ ∃ j x, g.members[j]? = some x ∧ j ≠ i ∧ x.contribution = none) ∧
    (∃ (s : State) (d a : Reg) (gm : BitVec 2) (g : Group) (i : Nat) (m : Member) (v : Word) (fl : Nat), d.toNat < 32 ∧ 0 < d.toNat ∧ a.toNat < 32 ∧ Ready s [d, a] ∧
      InGroup s gm g i m ∧ (s.th.sb = [] ∧ s.th.fstWaits = false) ∧ m.col = .done v fl) ∧
    (∃ (s : State) (o : GredR) (p : GcastX) (g : Group) (i : Nat) (m : Member) (v : Word) (fl : Nat), o = ⟨47, 0, 3, 1, 0⟩ ∧ p = ⟨47, 1, 7, 3, 1⟩ ∧ o.file = 1 ∧ p.file = 1 ∧
      s.pendingG p.c = false ∧ o.d.toNat < 48 ∧ Ready s [] ∧ InGroup s o.gm g i m ∧ m.col = .done v fl ∧ FIdle s) :=
  ⟨fun op ty _ => ⟨groupState [mem 0 .idle (given 0 (op + 8 * ty.toNat) 4), mem 1, mem 2 .idle (given 0 (op + 8 * ty.toNat) (-1))], 31, 7, 3, _, 1, mem 1, rfl, by decide, by decide,
      by decide, ⟨rfl, rfl, fun _ _ => Bool.and_false _⟩, inGroup _ _ rfl, ⟨rfl, rfl⟩, rfl, fun j x hj hi => by
        match j, hj with
        | 0, hj => cases hj; exact ⟨_, rfl⟩
        | 1, _ => exact absurd rfl hi
        | 2, hj => cases hj; exact ⟨_, rfl⟩⟩,
   ⟨groupState [mem 0, mem 1, mem 2], 31, 7, 3, _, 1, mem 1, by decide, by decide, by decide, readyNow rfl rfl (by decide), inGroup _ _ rfl, ⟨rfl, rfl⟩, rfl, 2, _, rfl, by decide, rfl⟩,
   ⟨groupState [mem 0, mem 1 .idle (.done 9 0), mem 2], 1, 7, 3, _, 1, mem 1 .idle (.done 9 0), 9, 0, by decide, by decide, by decide, readyNow rfl rfl (by decide), inGroup _ _ rfl, ⟨rfl, rfl⟩, rfl⟩,
   ⟨groupState [mem 0, mem 1 .idle (.done 9 1), mem 2], _, _, _, 1, mem 1 .idle (.done 9 1), 9, 1, rfl, rfl, rfl, rfl, by decide, by decide, readyNow rfl rfl (by decide), inGroup _ _ rfl, rfl,
     by constructor <;> first | rfl | decide⟩⟩

theorem wit_group_exchange :
    (∃ (s : State) (d a c : Reg) (gm : BitVec 2) (g : Group) (i : Nat) (m : Member), c = 0 ∧ d.toNat < 32 ∧ Ready s [c, d, a] ∧ InGroup s gm g i m ∧ (s.th.sb = [] ∧ s.th.fstWaits = false) ∧ m.col = .idle ∧
      (let root := (s.g c).toNat % 2 ^ 20
       let own : Contribution := { what := 1, key := 32 * root, val := s.g a }
       (∀ j x, g.members[j]? = some x → j ≠ i → ∃ v, x.col = .contributed { own with val := v }) ∧ root < g.members.length)) ∧
    (∃ (s : State) (d a c : Reg) (gm : BitVec 2) (g : Group) (i : Nat) (m : Member), c = 9 ∧ s.g c = 2 ∧ d.toNat < 32 ∧ Ready s [c, d, a] ∧ InGroup s gm g i m ∧ (s.th.sb = [] ∧ s.th.fstWaits = false) ∧ m.col = .idle ∧
      (let root := (s.g c).toNat % 2 ^ 20
       let own : Contribution := { what := 1, key := 32 * root, val := s.g a }
       (∀ j x, g.members[j]? = some x → j ≠ i → ∃ v, x.col = .contributed { own with val := v }) ∧ root < g.members.length)) ∧
    (∃ (s : State) (o : GsumO) (g : Group) (i : Nat) (m : Member) (loc : Nat) (f : Nat → Contribution), o = ⟨31, 5, 3⟩ ∧
     o.d.toNat < 32 ∧ Ready s [o.d, o.a] ∧ InGroup s o.gm g i m ∧ (s.th.sb = [] ∧ s.th.fstWaits = false) ∧ m.col = .idle ∧ 0 < i ∧ (Memory.wf s.mem = true ∧ s.Unlisted ∧ ∀ k < 144, Plain (loc + k)) ∧
     (∀ j x, g.members[j]? = some x → j ≠ i → x.col = .contributed (f j)) ∧ (∀ j, (f j).what = 2 ∧ (f j).key = 0) ∧
     (f 0).loc = [⟨loc, 144⟩] ∧ s.refuses [⟨loc, 144⟩] = none) :=
  ⟨⟨groupState [mem 0 .idle (given 1 0 4), mem 1, mem 2 .idle (given 1 0 5)], 31, 7, 0, 3, _, 1, mem 1, rfl, by decide, readyNow rfl rfl (by decide), inGroup _ _ rfl, ⟨rfl, rfl⟩, rfl,
      fun j x hj hi => by
        match j, hj with
        | 0, hj => cases hj; exact ⟨4, rfl⟩
        | 1, _ => exact absurd rfl hi
        | 2, hj => cases hj; exact ⟨5, rfl⟩, by decide⟩,
   ⟨groupState [mem 0 .idle (given 1 64 4), mem 1, mem 2 .idle (given 1 64 5)] (addrs.setG 9 2), 0, 7, 9, 3, _, 1, mem 1, rfl, by decide, by decide, readyNow rfl rfl (by decide),
      ⟨rfl, rfl, by decide, rfl, rfl, rfl⟩, ⟨rfl, rfl⟩, rfl,
      fun j x hj hi => by
        match j, hj with
        | 0, hj => cases hj; exact ⟨4, rfl⟩
        | 1, _ => exact absurd rfl hi
        | 2, hj => cases hj; exact ⟨5, rfl⟩, by decide⟩,
   ⟨groupState [mem 0 .idle (.contributed { what := 2, key := 0, val := 0, counts := [1], loc := [⟨spLoc 0 0 0x40, 144⟩] }), mem 1,
        mem 2 .idle (.contributed { what := 2, key := 0, val := 0, counts := [1], loc := [⟨spLoc 0 0 0x40, 144⟩] })], _, _, 1, mem 1, spLoc 0 0 0x40,
      fun _ => { what := 2, key := 0, val := 0, counts := [1], loc := [⟨spLoc 0 0 0x40, 144⟩] }, rfl, by decide, readyNow rfl rfl (by decide), inGroup _ _ rfl, ⟨rfl, rfl⟩, rfl, by decide, by decide +kernel,
      fun j x hj hi => by
        match j, hj with
        | 0, hj => cases hj; rfl
        | 1, _ => exact absurd rfl hi
        | 2, hj => cases hj; rfl, fun _ => ⟨rfl, rfl⟩, rfl, by decide⟩⟩

/-! ## Chapter 11 -/

/-- Semaphore 255 holds 0xFFFF, and slot 1 waits for it to come to 0. -/
def semState (ws : List SemWaiter) : State :=
  let s := netState ((addrs.setG 9 255).setG 10 0xFFFF)
  { s with cl := { s.cl with sems := s.cl.sems.set 255 0xFFFF, semWait := ws }
           core := s.core.setTh 1 { addrs with status := .parked, park := .semaphore 255 } }

theorem wit_semaphore_condition :
    ∃ (s : State) (o : SemR), o = ⟨31, 9, 7, 0, 0⟩ ∧ Ready s [o.d, o.a, o.b] ∧ o.d.toNat < 32 ∧ o.sc = 0 ∧ s.cl.semWait = [] ∧
      (s.g o.b).toNat % 2 ^ 16 = (2 ^ 16 - (s.sem ((s.g o.a).toNat % 256)).toNat) % 2 ^ 16 :=
  ⟨semState [], _, rfl, readyNow rfl rfl (by decide), by decide, rfl, rfl, by decide⟩

/-- Ring entry 0 is free, 1 holds a transfer, 15 a command of the slot, 14 one of slot 1. -/
def ringState (st : JobState) (mode : Bool := false) : State :=
  let s := netState { (addrs.setG 9 15).setG 10 14 with mode := mode } fun k =>
    { k with ring := ((k.ring.set 1 (.transfer 2 0)).set 15 (.command 1 7 0 4)).set 14 (.command 0 0 1 5) }
  { s with cl := { s.cl with window := [{ id := 4, core := some ⟨0, 0, 0⟩, engine := 1, slotIx := 7, ring := 15, rcd := 0x05, ctx := 0, user := true, st := st, acause := 6 },
                                        { id := 5, core := some ⟨0, 0, 0⟩, engine := 0, ring := 14, rcd := 0x01, ctx := 0, user := true }] } }

theorem wit_semaphores_and_status :
    (∃ (s : State) (d a b : Reg), d = 31 ∧ a = 9 ∧ b = 7 ∧ d.toNat < 32 ∧ Ready s [d, a, b] ∧ (s.th.sb = [] ∧ s.th.fstWaits = false) ∧ (∀ w ∈ s.cl.semWait, w.sem ≠ (s.g a).toNat % 256)) ∧
    (∃ (s : State) (d a b : Reg) (w : SemWaiter), d = 0 ∧ a = 9 ∧ b = 7 ∧ d.toNat < 32 ∧ Ready s [d, a, b] ∧ (s.th.sb = [] ∧ s.th.fstWaits = false) ∧ s.cl.semWait = [w] ∧ w.sem = (s.g a).toNat % 256 ∧
      semMeets (s.sem ((s.g a).toNat % 256) + (s.g b).setWidth 16) w.thr = true ∧ w.at_ = s.cid ∧ w.slot ≠ s.cur ∧ w.d.toNat < 32 ∧ 0 < w.d.toNat) ∧
    (∃ (s : State) (d a b : Reg), d = 31 ∧ a = 9 ∧ b = 10 ∧ d.toNat < 32 ∧ Ready s [d, a, b] ∧ (s.sem ((s.g a).toNat % 256) - (s.g b).setWidth 16).toNat = 0) ∧
    (∃ (s : State) (d a b : Reg), d = 31 ∧ a = 9 ∧ b = 7 ∧ d.toNat < 32 ∧ Ready s [d, a, b] ∧ (s.sem ((s.g a).toNat % 256) - (s.g b).setWidth 16).toNat ≥ 2 ^ 15) ∧
    (∃ (s : State) (o : GG), o = ⟨31, 0⟩ ∧ o.d.toNat < 32 ∧ Ready s [o.d, o.a] ∧ s.ringAt ((s.g o.a).toNat % 16) = .free) ∧
    (∃ (s : State) (o : GG) (slot : Fin 4) (id : Nat), o = ⟨31, 7⟩ ∧ o.d.toNat < 32 ∧ Ready s [o.d, o.a] ∧ s.ringAt ((s.g o.a).toNat % 16) = .transfer slot id) ∧
    (∀ (st : JobState), ∃ (s : State) (o : GG) (eng : BitVec 1) (ix : BitVec 3) (slot : Fin 4) (id : Nat) (j : Job), j.st = st ∧ o = ⟨31, 9⟩ ∧ o.d.toNat < 32 ∧ Ready s [o.d, o.a] ∧
      s.ringAt ((s.g o.a).toNat % 16) = .command eng ix slot id ∧ s.anyJob id = some j ∧ (∀ k, s.ringSlot ((s.g o.a).toNat % 16) = some k → k = s.cur)) ∧
    (∃ (s : State) (o : GG) (k : Fin 4), o = ⟨31, 10⟩ ∧ o.d.toNat < 32 ∧ Ready s [o.d, o.a] ∧ s.th.mode = false ∧ s.ringSlot ((s.g o.a).toNat % 16) = some k ∧ k ≠ s.cur) ∧
    (∃ (s : State) (o : GG), Ready s [o.d, o.a] ∧ s.th.mode = true) :=
  ⟨⟨semState [], 31, 9, 7, rfl, rfl, rfl, by decide, readyNow rfl rfl (by decide), ⟨rfl, rfl⟩, by decide⟩,
   ⟨semState [⟨255, ⟨0, 0, 0⟩, 1, 0, 3, 0⟩], 0, 9, 7, _, rfl, rfl, rfl, by decide, readyNow rfl rfl (by decide), ⟨rfl, rfl⟩, rfl, by decide, by decide, rfl, by decide⟩,
   ⟨semState [], 31, 9, 10, rfl, rfl, rfl, by decide, readyNow rfl rfl (by decide), by decide⟩,
   ⟨semState [], 31, 9, 7, rfl, rfl, rfl, by decide, readyNow rfl rfl (by decide), by decide⟩,
   ⟨ringState .waiting, _, rfl, by decide, readyNow rfl rfl (by decide), by decide⟩,
   ⟨ringState .waiting, _, 2, 0, rfl, by decide, readyNow rfl rfl (by decide), by decide⟩,
   fun st => by cases st <;> exact ⟨ringState _, _, 1, 7, 0, 4, _, rfl, rfl, by decide, readyNow rfl rfl (by decide), rfl, rfl, fun k h => by cases h; rfl⟩,
   ⟨ringState .waiting, _, 1, rfl, by decide, readyNow rfl rfl (by decide), rfl, by decide⟩,
   ⟨ringState .waiting true, ⟨31, 10⟩, readyNow rfl rfl (by decide), rfl⟩⟩

/-! ## Chapter 13 -/

/-- The coordinate of the tile with the lowest coordinates, and the key of the tile. -/
def corner : Word := 0x100000 * (1 + 2 ^ 21 + 2 ^ 42)

/-- A volume of 8-byte elements with its root at 0 of the cluster's scratchpad and its pool at 0x10000. -/
def aVolume (ro : Bool := false) : BitVec 256 :=
  BitVec.ofNat 256 (0xF10000000000 + 3 * 2 ^ 48 + (if ro then 2 ^ 56 else 0) + 2 ^ 57 + 2 ^ 64 * 7 + 2 ^ 128 * 0xF10000010000 + 2 ^ 176 * 5)

/-- The nodes of the corner tile, whose block is at 0x4000 of the scratchpad; a pool with two blocks in use. -/
def volState (v : BitVec 256) (l : List ClabEntry) (node : Bool := true) : State :=
  let s := netState { ((addrs.setG 9 corner).setG 10 0xF10000008000) with coord := addrs.coord.set 3 v }
  let word := fun (loc hi : Nat) => [(loc, (1 : Byte)), (loc + 1, BitVec.ofNat 8 hi), (loc + 5, (0xF1 : Byte))]
  { s with core := { s.core with clab := l }
           mem := s.mem ++ (if node then word (spLoc 0 0 0) 0x10 ++ word (spLoc 0 0 0x1000) 0x20 ++ word (spLoc 0 0 0x2000) 0x30 ++
             word (spLoc 0 0 0x3000) 0x40 else []) ++ [(spLoc 0 0 0x10008, (2 : Byte))] }

def tileIs (e : Word) : List ClabEntry := [⟨0, 5, 0, e⟩]

/-- A descriptor of a volume with SC 2, at 0x800 of paged memory and at 0x100 of the local store. -/
def descrState (t : Thread := addrs) : State :=
  let bytes := fun (loc : Nat) => [(loc + 5, (0xF1 : Byte)), (loc + 6, (0x0B : Byte)), (loc + 21, (0xF1 : Byte))]
  { withThread t with mem := bytes 0x800 ++ bytes (lsLoc 0 0 0 0x100) }

/-- The walk of the lookup of the corner tile has brought this entry. -/
def walkedTo (s : State) (alloc : Bool) (e : Word) : State :=
  s.modTh fun t => { t with got := [⟨true, walkKey (s.th.vol 3) (s.g 9).toNat alloc, .entry e⟩] }

/-- With no other core and no other cluster in the state, a look at the core and its cluster shows that every entry names a tile. -/
theorem namedTiles {s : State} (h1 : s.others = []) (h2 : s.otherCls = []) (h3 : ∀ e ∈ s.core.clab, e.entry.getLsbD 0 = true)
    (h4 : s.core.missQ = []) (h5 : s.cl.clab = []) : s.TilesNamed := by
  refine ⟨fun k hk => ?_, fun d hd => ?_⟩
  · rcases hk with rfl | ⟨c, hc⟩
    · exact ⟨h3, fun r hr => by rw [h4] at hr; cases hr⟩
    · rw [h1] at hc; cases hc
  · rcases hd with rfl | ⟨c, hc⟩
    · intro e he; rw [h5] at he; cases he
    · rw [h2] at hc; cases hc

theorem wit_cached_tiles : ∃ s t : State, s.TilesNamed ∧ step s = .next t := by
  have h : (match step w0 with
    | .next _ => true
    | _ => false) = true := by decide +kernel
  rcases e : step w0 with t | f | f <;> rw [e] at h
  · exact ⟨w0, t, namedTiles rfl rfl (fun _ h => by cases h) rfl rfl, e⟩
  all_goals cases h

/-- The corner tile, at 0x4000 of the scratchpad. -/
abbrev tileEntry : Word := 0xF10000004001

theorem named_vol (v : BitVec 256) (node : Bool) : (volState v (tileIs tileEntry) node).TilesNamed :=
  namedTiles rfl rfl (fun e h => by rw [List.mem_singleton.mp h]; decide) rfl rfl

theorem named_walked (v : BitVec 256) (node alloc : Bool) (e : Word) : (walkedTo (volState v [] node) alloc e).TilesNamed :=
  namedTiles rfl rfl (fun _ h => by cases h) rfl rfl

theorem finds_cached (alloc : Bool) : (volState aVolume (tileIs tileEntry)).FindsTile ((volState aVolume (tileIs tileEntry)).th.vol 3) ((volState aVolume (tileIs tileEntry)).g 9) alloc tileEntry :=
  ⟨named_vol _ _, .inr ⟨rfl, by decide⟩, fun _ => by decide⟩

theorem finds_walked (node alloc : Bool) (e : Word) (h : alloc = true → e ≠ 0) :
    (walkedTo (volState aVolume [] node) alloc e).FindsTile ((walkedTo (volState aVolume [] node) alloc e).th.vol 3) ((walkedTo (volState aVolume [] node) alloc e).g 9) alloc e :=
  ⟨named_walked _ _ _ _, .inl rfl, h⟩

/-- The way to the nodes of the corner tile. -/
theorem path_vol : (volState aVolume (tileIs tileEntry)).TreePath corner.toNat [(15, 6), (10, 5), (6, 4)] 0xF10000000000 0xF10000003000 :=
  ⟨spLoc 0 0 0, 0xF10000001001, by constructor <;> decide, by decide, by decide,
    spLoc 0 0 0x1000, 0xF10000002001, by constructor <;> decide, by decide, by decide,
    spLoc 0 0 0x2000, 0xF10000003001, by constructor <;> decide, by decide, by decide, rfl⟩

/-- What binding needs, with a descriptor that is good or bad, at the two places. -/
abbrev Binds (s : State) (regs : List Reg) (cs : BitVec 2) (ea : Word) (ps : List Part) (bad near : Bool) : Prop :=
  Ready s regs ∧ s.th.volInUse cs = false ∧ Passes s ea 64 64 false ps ∧ s.bankHeld (wordParts ps) (some (s.cid, s.cur)) = false ∧
  s.badPart (wordParts ps) = none ∧ s.th.fstAway = false ∧ s.th.forward (wordParts ps) = .none ∧ s.near (wordParts ps) = near ∧ Enterable s ∧
  (let x := s.readParts (wordParts ps)
   (x / 2 ^ 224 ≠ 0 ∨ bits x 57 7 ≠ 0 ∨ bits x 50 3 ∈ [0, 1, 7] ∨ (bits x 50 3 ≠ 3 ∧ bits x 53 2 ≠ 0) ∨ bits x 0 6 ≠ 0 ∨ bits x 128 4 ≠ 0) ↔ bad = true)

theorem wit_volume_binding :
    (∀ bad : Bool, ∃ (s : State) (o : VbM) (ps : List Part), o = ⟨3, 6, 0⟩ ∧ Binds s [o.base] o.cs (s.eaM o.base 3 o.off) ps bad false) ∧
    (∀ bad : Bool, ∃ (s : State) (o : VbX) (ps : List Part), o = ⟨0, 5, 0, 0⟩ ∧ Binds s (regsX o.base o.ix o.body) o.cs (s.eaX o.base o.ix o.body) ps bad true) ∧
    (∃ (s : State) (o : VbM), o = ⟨1, 6, 0⟩ ∧ Ready s [o.base] ∧ s.th.volInUse o.cs = true) := by
  refine ⟨fun bad => ⟨if bad then withThread addrs else descrState, _, [⟨0x800, 64⟩], rfl, ?_⟩,
    fun bad => ⟨if bad then withThread addrs else descrState, _, (List.range 8).map (fun k => ⟨lsLoc 0 0 0 0x100 + 8 * k, 8⟩), rfl, ?_⟩,
    ⟨withUnits { cfg := { kind := 6, go := true, aux := 1#128 <<< 64 } } {} {}, _, rfl, readyNow rfl rfl (by decide), by decide⟩⟩ <;>
  cases bad <;>
  exact ⟨readyNow rfl rfl (by decide), by decide, Passes.mk (by decide) (by decide) rfl rfl (by decide), by decide +kernel, by decide +kernel, by decide, by decide, by decide +kernel,
    ⟨rfl, by decide, rfl⟩, by decide +kernel⟩

/-- What the instructions that change a volume's tree need of its slot. -/
abbrev Tends (s : State) (o : CvO) : Prop :=
  o.d.toNat < 32 ∧ Ready s [o.a, o.d] ∧ s.th.sb = [] ∧ s.th.fstWaits = false ∧ s.Unlisted ∧ Memory.wf s.mem = true ∧ volOn (s.th.vol o.cs) = true ∧
  volRo (s.th.vol o.cs) = false

theorem tends (s : State) (o : CvO) (h : o.d.toNat < 32 ∧ Ready s [o.a, o.d] ∧ s.th.sb = [] ∧ s.th.fstWaits = false) (u : s.waitaQ = [])
    (m : Memory.wf s.mem = true) (v : volOn (s.th.vol o.cs) = true ∧ volRo (s.th.vol o.cs) = false) : Tends s o :=
  ⟨h.1, h.2.1, h.2.2.1, h.2.2.2, (fun w hw => by rw [u] at hw; cases hw), m, v⟩

/-- No thread of the core waits for data, and no store of its buffers has an address from a tile. -/
theorem unused (k : Core) (h : ∀ i : Fin 4, (k.th i).miss = .none ∧ (k.th i).sb = []) (ctx : BitVec 4) (i : Fin 4) (l : List (Nat × Nat)) :
    (k.th i).usesTile ctx l = false ∧ (k.th i).loadsTile ctx l = false := by
  have e : (k.th i).loadsTile ctx l = false := by unfold Thread.loadsTile; rw [(h i).1]; exact Bool.and_false _
  refine ⟨?_, e⟩
  unfold Thread.usesTile
  rw [e, (h i).2]
  exact Bool.and_false _

theorem wit_volumes :
    (∃ (s : State) (o : CvO) (e : Word), o = ⟨31, 9, 3⟩ ∧ Tends s o ∧ s.FindsTile (s.th.vol o.cs) (s.g o.a) true e) ∧
    (∃ (s : State) (o : CvO) (e : Word), o = ⟨31, 9, 3⟩ ∧ e = 0 ∧ Tends s o ∧ s.FindsTile (s.th.vol o.cs) (s.g o.a) false e) ∧
    (∀ same : Bool, ∃ (s : State) (o : CvO) (e : Word) (node loc x : Nat), o = ⟨0, 9, 3⟩ ∧ e ≠ 0 ∧ (x = e.toNat ↔ same = true) ∧ Tends s o ∧
      s.FindsTile (s.th.vol o.cs) (s.g o.a) false e ∧ s.TreePath (s.g o.a).toNat [(15, 6), (10, 5), (6, 4)] (volRoot (s.th.vol o.cs)) node ∧
      s.Holds (node + 8 * nodeIndex (s.g o.a).toNat 3 3) loc 8 x) ∧
    (∀ lw ∈ [(3, 15, 6), (1, 6, 4)], ∃ (s : State) (o : CvO) (node loc x : Nat), o = ⟨10, 9, 3⟩ ∧ (x = 0 ↔ lw.1 = 3) ∧ Tends s o ∧
      (let v := s.th.vol o.cs
       let c := s.g o.a
       s.TreePath c.toNat ([(15, 6), (10, 5), (6, 4)].take (3 - lw.1)) (volRoot v) node ∧ s.Holds (node + 8 * nodeIndex c.toNat lw.2.1 lw.2.2) loc 8 x ∧ treeBad x 1 = false)) ∧
    (∃ (s : State) (o : CvO) (l m h : Nat), o = ⟨10, 9, 3⟩ ∧ Tends s o ∧
      (let v := s.th.vol o.cs
       let va := (s.g o.d).toNat
       s.Holds (volPool v) l 16 h ∧ bits h 96 32 = 0 ∧ s.OwnSp va m ∧ s.bankHeld [⟨m, 8⟩] (some (s.cid, s.cur)) = false ∧ s.refuses [⟨m, 8⟩] = none ∧
       va < 2 ^ 48 ∧ va % tileSize v = 0 ∧ (m + 8 ≤ l ∨ l + 16 ≤ m))) ∧
    (∀ sc : BitVec 3, ∃ (s : State) (o : CvO), o = ⟨31, 9, 3⟩ ∧ Tends s o ∧ s.th.shot = none ∧ s.cid.core < 8 ∧ s.core.presented = false ∧
      (∀ r ∈ s.core.missQ, r.awaited = false) ∧ (∀ (k : Fin 4) (l : List (Nat × Nat)), (s.core.th k).usesTile s.th.ctx l = false) ∧
      (∀ x ∈ s.coreIds, x.home = s.cid.home → ∀ (k : Fin 4) (l : List (Nat × Nat)), ((s.coreAt x).th k).loadsTile s.th.ctx l = false) ∧
      (∀ x, s.inScope sc 0 x = true → (s.coreAt x).presented = false ∧ (∀ r ∈ (s.coreAt x).missQ, r.awaited = false) ∧
        ∀ (k : Fin 4) (l : List (Nat × Nat)), ((s.coreAt x).th k).usesTile s.th.ctx l = false) ∧
      (∀ x, s.clusterInScope sc 0 x.home = true → ∀ (k : Fin 4) (l : List (Nat × Nat)), ((s.coreAt x).th k).loadsTile s.th.ctx l = false)) := by
  have here : ∀ i : Fin 4, ((volState aVolume []).core.th i).miss = .none ∧ ((volState aVolume []).core.th i).sb = [] := by decide
  have all : ∀ x, ∀ i : Fin 4, (((volState aVolume []).coreAt x).th i).miss = .none ∧ (((volState aVolume []).coreAt x).th i).sb = [] := by
    intro x i
    unfold State.coreAt
    split
    · exact here i
    · exact (by decide : ∀ i : Fin 4, (({} : Core).th i).miss = .none ∧ (({} : Core).th i).sb = []) i
  refine ⟨⟨walkedTo (volState aVolume []) true tileEntry, _, tileEntry, rfl, tends _ _ (by unfold Ready; decide) rfl (by decide) (by decide), finds_walked _ _ _ (fun _ => by decide)⟩,
    ⟨walkedTo (volState aVolume []) false 0, _, 0, rfl, rfl, tends _ _ (by unfold Ready; decide) rfl (by decide) (by decide), finds_walked _ _ _ (fun h => by cases h)⟩,
    fun same => ?_, fun lw h => ?_,
    ⟨volState aVolume [], _, spLoc 0 0 0x10000, spLoc 0 0 0x8000, 2 * 2 ^ 64, rfl, tends _ _ (by unfold Ready; decide) rfl (by decide) (by decide),
      by constructor <;> decide, by decide⟩,
    fun sc => ⟨volState aVolume [], _, rfl, tends _ _ (by unfold Ready; decide) rfl (by decide) (by decide), rfl, by decide, rfl, (fun _ h => by cases h), fun k l => (unused _ here _ k l).1,
      fun x _ _ k l => (unused _ (all x) _ k l).2, fun x _ => ⟨?_, ?_, fun k l => (unused _ (all x) _ k l).1⟩, fun x _ k l => (unused _ (all x) _ k l).2⟩⟩
  · cases same
    · exact ⟨walkedTo (volState aVolume []) false 0xF10000005001, _, 0xF10000005001, 0xF10000003000, spLoc 0 0 0x3000, tileEntry.toNat, rfl, by decide, by decide,
        tends _ _ (by unfold Ready; decide) rfl (by decide) (by decide), finds_walked _ _ _ (fun h => by cases h),
        ⟨spLoc 0 0 0, 0xF10000001001, by constructor <;> decide, by decide, by decide,
          spLoc 0 0 0x1000, 0xF10000002001, by constructor <;> decide, by decide, by decide,
          spLoc 0 0 0x2000, 0xF10000003001, by constructor <;> decide, by decide, by decide, rfl⟩, by constructor <;> decide⟩
    · exact ⟨volState aVolume (tileIs tileEntry), _, tileEntry, 0xF10000003000, spLoc 0 0 0x3000, tileEntry.toNat, rfl, by decide, by decide,
        tends _ _ (by unfold Ready; decide) rfl (by decide) (by decide), finds_cached false, path_vol, by constructor <;> decide⟩
  · simp only [List.mem_cons, List.not_mem_nil, or_false] at h
    rcases h with rfl | rfl
    · exact ⟨volState aVolume [] false, _, 0xF10000000000, spLoc 0 0 0, 0, rfl, by decide, tends _ _ (by unfold Ready; decide) rfl (by decide) (by decide), rfl,
        by constructor <;> decide, by decide⟩
    · exact ⟨volState aVolume [], _, 0xF10000002000, spLoc 0 0 0x2000, 0xF10000003001, rfl, by decide, tends _ _ (by unfold Ready; decide) rfl (by decide) (by decide),
        ⟨spLoc 0 0 0, 0xF10000001001, by constructor <;> decide, by decide, by decide,
          spLoc 0 0 0x1000, 0xF10000002001, by constructor <;> decide, by decide, by decide, rfl⟩, by constructor <;> decide, by decide⟩
  · unfold State.coreAt; split <;> rfl
  · unfold State.coreAt; split <;> exact fun _ h => by cases h

/-- What the element instructions need of their registers and the slot. -/
abbrev Elemental (s : State) (o : CamoO) : Prop :=
  o.d.toNat < 32 ∧ Ready s [o.a, o.d, o.c] ∧ s.Unlisted ∧ Memory.wf s.mem = true ∧ volOn (s.th.vol o.cs) = true

/-- The corner tile is absent for one lookup, and found by a walk, and by one that goes before it: all ways for `cnbr` to have the tiles around. -/
def around (got : List Got) (l : List ClabEntry) : State := (volState aVolume l).modTh fun t => { t with got := got }

theorem wit_volume_elements :
    (∃ (s : State) (o : CamoO), o = ⟨31, 9, 7, 0, 1, 1⟩ ∧ o.d.toNat < 32 ∧ Ready s [o.a, o.d, o.c] ∧ volOn (s.th.vol o.cs) = false) ∧
    (∃ (s : State) (o : CamoO) (e : Word), o = ⟨31, 9, 7, 3, 0, 0⟩ ∧ e = 0 ∧ Elemental s o ∧ s.FindsTile (s.th.vol o.cs) (s.g o.a) false e) ∧
    (∃ (s : State) (o : CamoO) (e : Word) (loc : Nat), o = ⟨31, 9, 7, 3, 0, 0⟩ ∧ e ≠ 0 ∧ Elemental s o ∧
      (let v := s.th.vol o.cs
       let ea := elemAddr v e.toNat (s.g o.a)
       let n := 2 ^ volEsz v
       let ps : List Part := [⟨loc, n⟩]
       (∀ alloc, s.FindsTile v (s.g o.a) alloc e) ∧ Passes s.orderPoint ea n 1 false ps ∧
       (s.near ps = true ∧ s.badPart ps = none ∧ s.th.fstAway = false ∧ s.th.forward ps = .none) ∧
       (volRo v = false ∧ s.th.sb = [] ∧ s.th.fstWaits = false ∧ Plain loc) ∧ Passes s.orderPoint ea n 1 true ps ∧ loc % 8 + n ≤ 8 ∧ Passes s.orderPoint ea n n true ps ∧
       2 ≤ volEsz v ∧ spaceOf ea.toNat ≠ .cq ∧ isHost loc = false)) ∧
    (∃ (s : State) (o : CamoO) (f : Nat → Word), o = ⟨31, 9, 7, 3, 0, 0⟩ ∧ Elemental s o ∧ s.TilesNamed ∧ s.th.got = [] ∧
      (∀ q ∈ nbrTiles (s.g o.a).toNat, s.clabHit s.th.ctx (s.th.vol o.cs) (tileKey q.2.toNat) = some (f q.1))) ∧
    (∃ (s : State) (o : CamoO) (f : Nat → Word), o = ⟨31, 9, 7, 3, 0, 0⟩ ∧ Elemental s o ∧ s.TilesNamed ∧ s.core.clab = [] ∧
      (∀ q ∈ nbrTiles (s.g o.a).toNat,
         s.th.got.find? (fun g => g.for true (nbrKey (s.th.vol o.cs) q.2)) = some ⟨true, nbrKey (s.th.vol o.cs) q.2, .entry (f q.1)⟩)) ∧
    (∃ (s : State) (o : CamoO) (f : Nat → Word), o = ⟨31, 9, 7, 3, 0, 0⟩ ∧ Elemental s o ∧ s.TilesNamed ∧ s.core.clab = [] ∧
      (∀ q ∈ nbrTiles (s.g o.a).toNat, s.th.got.find? (fun g => g.for true (nbrKey (s.th.vol o.cs) q.2)) = none ∧
         s.th.got.find? (fun g => g.for true (walkKey (s.th.vol o.cs) q.2.toNat false)) = some ⟨true, walkKey (s.th.vol o.cs) q.2.toNat false, .entry (f q.1)⟩)) ∧
    (∃ (s : State) (o : CamoO), o = ⟨31, 9, 7, 3, 0, 0⟩ ∧ Elemental s o ∧ volRo (s.th.vol o.cs) = true) ∧
    (∃ (s : State) (o : CamoO), o = ⟨31, 9, 7, 3, 0, 0⟩ ∧ Elemental s o ∧ volRo (s.th.vol o.cs) = false ∧ volEsz (s.th.vol o.cs) = 1) := by
  have el : ∀ s : State, s.waitaQ = [] → s.Unlisted := fun s h w hw => by rw [h] at hw; cases hw
  refine ⟨⟨volState aVolume [], _, rfl, by decide, readyNow rfl rfl (by decide), by decide⟩,
    ⟨walkedTo (volState aVolume []) false 0, _, 0, rfl, rfl, ⟨by decide, readyNow rfl rfl (by decide), el _ rfl, by decide, by decide⟩, finds_walked _ _ _ (fun h => by cases h)⟩,
    ⟨volState aVolume (tileIs tileEntry), _, tileEntry, spLoc 0 0 0x4000, rfl, by decide, ⟨by decide, readyNow rfl rfl (by decide), el _ rfl, by decide, by decide⟩, finds_cached,
      Passes.mk (by decide) (by decide) rfl rfl (by decide), by decide, by decide, Passes.mk (by decide) (by decide) rfl rfl (by decide), by decide,
      Passes.mk (by decide) (by decide) rfl rfl (by decide), by decide⟩,
    ⟨around [] ((nbrTiles corner.toNat).map fun q => ⟨0, 5, tileKey q.2.toNat, tileEntry⟩), _, fun _ => tileEntry, rfl,
      ⟨by decide, readyNow rfl rfl (by decide), el _ rfl, by decide, by decide⟩, namedTiles rfl rfl (by decide) rfl rfl, rfl, by decide⟩,
    ⟨around ((nbrTiles corner.toNat).map fun q => ⟨true, nbrKey aVolume q.2, .entry 0⟩) [], _, fun _ => 0, rfl,
      ⟨by decide, readyNow rfl rfl (by decide), el _ rfl, by decide, by decide⟩, namedTiles rfl rfl (fun _ h => by cases h) rfl rfl, rfl, by decide +kernel⟩,
    ⟨around ((nbrTiles corner.toNat).map fun q => ⟨true, walkKey aVolume q.2.toNat false, .entry 0⟩) [], _, fun _ => 0, rfl,
      ⟨by decide, readyNow rfl rfl (by decide), el _ rfl, by decide, by decide⟩, namedTiles rfl rfl (fun _ h => by cases h) rfl rfl, rfl, by decide +kernel⟩,
    ⟨volState (aVolume true) [], _, rfl, ⟨by decide, readyNow rfl rfl (by decide), el _ rfl, by decide, by decide⟩, by decide⟩,
    ⟨volState (aVolume - 2 ^ 49) [], _, rfl, ⟨by decide, readyNow rfl rfl (by decide), el _ rfl, by decide, by decide⟩, by decide, by decide⟩⟩

/-! ## Chapters 08 and 22: registers, traps, system instructions -/

def sysState (t : Thread := addrs) : State := netState { t with mode := true }

theorem wit_system_registers :
    (∃ (s : State) (o : CsrA), o = ⟨31, 7, 6⟩ ∧ o.d.toNat < 32 ∧ Ready s [o.d, o.a] ∧ csrKnown o.num = false) ∧
    (∃ (s : State) (o : CsrA), o = ⟨31, 7, 0x111⟩ ∧ o.d.toNat < 32 ∧ Ready s [o.d, o.a] ∧ csrKnown o.num = false) ∧
    (∃ (s : State) (o : CsrA), o = ⟨31, 7, 0⟩ ∧ o.d.toNat < 32 ∧ Ready s [o.d, o.a] ∧ csrKnown o.num = true ∧ s.th.mode = false ∧ csrUserWrites o.num.toNat = false) ∧
    (∃ (s : State) (o : CsrA), o = ⟨31, 7, 0x110⟩ ∧ o.d.toNat < 32 ∧ Ready s [o.d, o.a] ∧ csrKnown o.num = true ∧ csrDrains o.num.toNat = false) ∧
    (∃ (s : State) (o : CsrA), o = ⟨31, 7, 5⟩ ∧ o.d.toNat < 32 ∧ Ready s [o.d, o.a] ∧ csrKnown o.num = true ∧ csrDrains o.num.toNat = true ∧ s.th.rep.act = false ∧ s.th.fq = []) ∧
    (∃ (s : State) (o : CsrA), o = ⟨31, 7, 5⟩ ∧ o.d.toNat < 32 ∧ Ready s [o.d, o.a] ∧ csrKnown o.num = true ∧ csrDrains o.num.toNat = true ∧ s.th.fq ≠ []) ∧
    (∀ n ∈ [0, 2, 3, 4, 0x10, 0x13, 0x14, 0x15, 0x16, 0x25], ∃ (s : State) (o : CsrA), o.num.toNat = n ∧ o.d.toNat < 32 ∧ Ready s [o.d, o.a] ∧ s.th.rep.act = false ∧ s.th.fq = [] ∧
      s.th.mode = true) ∧
    (∃ (s : State) (o : CsrA), o = ⟨31, 9, 1⟩ ∧ o.d.toNat < 32 ∧ Ready s [o.d, o.a] ∧ s.th.rep.act = false ∧ s.th.fq = [] ∧ (s.g o.a).toNat % 8 = 5) ∧
    (∃ (s : State) (o : CsrA), o = ⟨31, 10, 1⟩ ∧ o.d.toNat < 32 ∧ Ready s [o.d, o.a] ∧ s.th.rep.act = false ∧ s.th.fq = [] ∧ (s.g o.a).toNat % 8 = 6) ∧
    (∃ (s : State) (o : CsrA), o = ⟨31, 9, 9⟩ ∧ o.d.toNat < 32 ∧ Ready s [o.d, o.a] ∧ s.th.rep.act = false ∧ s.th.fq = [] ∧ descValid ((s.g o.a).setWidth 32).toNat = true) ∧
    (∃ (s : State) (o : EvcA), o = ⟨31, 0, 15⟩ ∧ o.d.toNat < 32 ∧ Ready s [o.d, o.a] ∧ s.th.rep.act = false ∧ s.th.fq = [] ∧
      eventKnown ((s.g o.a).extractLsb' 32 8).toNat = true) ∧
    (∃ (s : State) (o : EvcA), o = ⟨0, 9, 0⟩ ∧ o.d.toNat < 32 ∧ Ready s [o.d, o.a] ∧ s.th.rep.act = false ∧ s.th.fq = [] ∧
      eventKnown ((s.g o.a).extractLsb' 32 8).toNat = false) := by
  refine ⟨⟨w1, _, rfl, ?_⟩, ⟨w1, _, rfl, ?_⟩, ⟨w1, _, rfl, ?_⟩, ⟨w1, _, rfl, ?_⟩, ⟨w1, _, rfl, ?_⟩, ⟨popState, _, rfl, ?_⟩, fun n h => ?_,
    ⟨withThread (addrs.setG 9 5), _, rfl, ?_⟩, ⟨withThread (addrs.setG 10 6), _, rfl, ?_⟩, ⟨withThread (addrs.setG 9 6), _, rfl, ?_⟩, ⟨w1, _, rfl, ?_⟩,
    ⟨withThread (addrs.setG 9 0xFF00000000), _, rfl, ?_⟩⟩
  case refine_7 =>
    have h : n < 1024 := by revert n; decide
    exact ⟨sysState, ⟨31, 7, BitVec.ofNat 10 n⟩, by simp [Nat.mod_eq_of_lt h], (by decide : (31 : Reg).toNat < 32), ⟨rfl, rfl, fun _ _ => Bool.and_false _⟩, rfl, rfl, rfl⟩
  all_goals (unfold Ready; decide)

theorem enterable_w1 : Enterable w1 := ⟨rfl, by decide, rfl⟩

theorem wit_traps :
    (Enterable w1 ∧ Ready w1 [] ∧ w1.core.dbg.haltBrk = false) ∧
    (∃ s : State, Enterable s ∧ Ready s [] ∧ s.core.dbg.haltBrk = true) ∧ (Enterable w1 ∧ w1.th.pp = false) ∧
    (∃ (s : State) (a : AsyncCause), Enterable s ∧ s.th.async = [a] ∧ ¬(a.cause = 6 ∧ a.sub = 1) ∧ s.th.status = .ready ∧ s.core.lets s.cur = true ∧ s.core.stepped s.cur = false) ∧
    (∃ s u : State, Enterable s ∧ u = s.setTh { s.th with ie := false } ∧ Ready u [] ∧ u.cur.val < 3) ∧
    (Ready w1 [] ∧ w1.th.ie = true) ∧
    (∀ fside : Bool, ∃ (s : State) (h : Held) (pc : BitVec 48) (l : Line), s.th.tcause.fside = fside ∧ pc = (if fside then 66 else 124) ∧ Ready s [] ∧ s.th.ie = false ∧ s.th.held = some h ∧
      s.th.rep.act = false ∧ s.th.fq = [] ∧ s.endHold.arriveReg ((if s.th.tcause.fside then h.resume else s.th.tpc).setWidth 64) = (.go pc l, s.endHold)) :=
  ⟨⟨enterable_w1, readyNow rfl rfl (by decide), rfl⟩,
   ⟨{ w1 with core := { w1.core with dbg := { haltBrk := true } } }, ⟨rfl, by decide, rfl⟩, readyNow rfl rfl (by decide), rfl⟩, ⟨enterable_w1, rfl⟩,
   ⟨withThread { addrs with async := [⟨0x0F, 1, 0⟩] }, ⟨0x0F, 1, 0⟩, ⟨rfl, by decide, rfl⟩, rfl, by decide, rfl, by decide, by decide⟩,
   ⟨w1, _, enterable_w1, rfl, readyNow rfl rfl (by decide), by decide⟩, ⟨readyNow rfl rfl (by decide), rfl⟩,
   fun
   | false => ⟨sysState { addrs with ie := false, tpc := 124, held := some ⟨[], 66, false, 0, {}, none, []⟩ }, ⟨[], 66, false, 0, {}, none, []⟩, 124, ⟨64, fullLine⟩, rfl, rfl, readyNow rfl rfl (by decide),
      rfl, rfl, rfl, rfl, rfl⟩
   | true => ⟨sysState { addrs with ie := false, tpc := 124, tcause := { fside := true }, held := some ⟨[], 66, false, 0, {}, none, []⟩ }, ⟨[], 66, false, 0, {}, none, []⟩, 66, ⟨64, fullLine⟩, rfl, rfl,
      readyNow rfl rfl (by decide), rfl, rfl, rfl, rfl, rfl⟩⟩

theorem wit_privileged_instructions : ∃ s : State, s.th.mode = false ∧ Ready s [5, 6, 31] ∧ Ready s [] := ⟨w1, rfl, readyNow rfl rfl (by decide), rfl, rfl, by decide⟩

/-- Slot 1 sleeps, slot 2 has halted; the address of `g9` is in the scratchpad. -/
def slotsState : State :=
  let s := sysState (addrs.setG 9 0xF1000001FFFF)
  { s with core := (s.core.setTh 1 { addrs with status := .sleeping }).setTh 2 { addrs with status := .halted } }

theorem asleep_w1 : w1.wakePending = false := by
  have h : w1.core.mail = Vector.replicate 4 none := rfl
  unfold State.wakePending
  rw [h, Vector.any_replicate]
  decide

theorem quiet_slots (z : Shoot) (k : Fin 4) (gone : List TlbEntry) :
    (∀ e ∈ gone, z.entry e = true ∧ (e ∈ slotsState.core.itlb ∨ e ∈ slotsState.core.dtlb ∨ ∃ d ∈ slotsState.clusterIds, e ∈ (slotsState.clAt d).tlb)) → z.busy gone (slotsState.core.th k) = false :=
  fun _ => match k with
  | 0 | 1 | 2 | 3 => rfl

theorem wit_system_instructions :
    (∃ (s : State) (o : TlbR) (z : Shoot), o = ⟨1, 0, 6, 7, 0⟩ ∧ s.th.mode = true ∧ (s.th.sb = [] ∧ s.th.fstWaits = false ∧ s.th.shot = none) ∧ o.sc = 1 ∧
      z = ⟨some o.ctx, some (pageOf (s.g o.a), (s.g o.c).toNat % 2 ^ 16)⟩ ∧ Ready s [o.a, o.c] ∧ (∀ (k : Fin 4) (gone : List TlbEntry), (∀ e ∈ gone, z.entry e = true ∧ (e ∈ s.core.itlb ∨ e ∈ s.core.dtlb ∨ ∃ d ∈ s.clusterIds, e ∈ (s.clAt d).tlb)) → z.busy gone (s.core.th k) = false)) ∧
    (∃ (s : State) (o : TlbP) (z : Shoot), o = ⟨1, 0, 6, 15⟩ ∧ s.th.mode = true ∧ (s.th.sb = [] ∧ s.th.fstWaits = false ∧ s.th.shot = none) ∧ o.sc = 1 ∧
      z = ⟨some o.ctx, some (pageOf (s.g o.a), 1)⟩ ∧ Ready s [o.a] ∧ (∀ (k : Fin 4) (gone : List TlbEntry), (∀ e ∈ gone, z.entry e = true ∧ (e ∈ s.core.itlb ∨ e ∈ s.core.dtlb ∨ ∃ d ∈ s.clusterIds, e ∈ (s.clAt d).tlb)) → z.busy gone (s.core.th k) = false)) ∧
    (∃ (s : State) (o : TlbC) (z : Shoot), o = ⟨1, 0, 0⟩ ∧ s.th.mode = true ∧ (s.th.sb = [] ∧ s.th.fstWaits = false ∧ s.th.shot = none) ∧ o.sc = 1 ∧ z = ⟨some o.ctx, none⟩ ∧ Ready s [] ∧
      (∀ (k : Fin 4) (gone : List TlbEntry), (∀ e ∈ gone, z.entry e = true ∧ (e ∈ s.core.itlb ∨ e ∈ s.core.dtlb ∨ ∃ d ∈ s.clusterIds, e ∈ (s.clAt d).tlb)) → z.busy gone (s.core.th k) = false)) ∧
    (∃ (s : State) (o : TlbA) (z : Shoot), o = ⟨1, 0⟩ ∧ s.th.mode = true ∧ (s.th.sb = [] ∧ s.th.fstWaits = false ∧ s.th.shot = none) ∧ o.sc = 1 ∧ z = ⟨none, none⟩ ∧ Ready s [] ∧
      (∀ (k : Fin 4) (gone : List TlbEntry), (∀ e ∈ gone, z.entry e = true ∧ (e ∈ s.core.itlb ∨ e ∈ s.core.dtlb ∨ ∃ d ∈ s.clusterIds, e ∈ (s.clAt d).tlb)) → z.busy gone (s.core.th k) = false)) ∧
    (Ready w1 [] ∧ w1.wakePending = false) ∧ (∃ s : State, Ready s [] ∧ s.wakePending = true) ∧
    (∃ (s : State) (o : GG), o = ⟨31, 9⟩ ∧ s.th.mode = true ∧ o.d.toNat < 32 ∧ Ready s [o.d, o.a] ∧ spaceOf (s.g o.a).toNat = .sp ∧ bits (s.g o.a).toNat 17 23 = 0 ∧
      (s.g o.a).toNat < 2 ^ 48 ∧ s.cl.holds = [] ∧ s.cl.holdWait = []) ∧
    (∀ a : Reg, a ∈ [(0 : Reg), 7, 10] → ∃ (s : State) (o : GG), o = ⟨31, a⟩ ∧ s.th.mode = true ∧ o.d.toNat < 32 ∧ Ready s [o.d, o.a] ∧
      (s.core.th (Fin.ofNat 4 ((s.g o.a).toNat % 4))).status = (if a = 7 then .sleeping else if a = 10 then .halted else .ready)) ∧
    (∃ (s : State) (o : GG), o = ⟨31, 10⟩ ∧ s.th.mode = true ∧ o.d.toNat < 32 ∧ Ready s [o.d, o.a] ∧ (let k : Fin 4 := Fin.ofNat 4 ((s.g o.a).toNat % 4)
      (s.core.th k).status = .halted ∧ k ≠ s.cur ∧ k.val < 3 ∧ (s.core.th k).sb = [])) :=
  ⟨⟨slotsState, _, _, rfl, rfl, ⟨rfl, rfl, rfl⟩, rfl, rfl, readyNow rfl rfl (by decide), quiet_slots _⟩, ⟨slotsState, _, _, rfl, rfl, ⟨rfl, rfl, rfl⟩, rfl, rfl, readyNow rfl rfl (by decide), quiet_slots _⟩,
   ⟨slotsState, _, _, rfl, rfl, ⟨rfl, rfl, rfl⟩, rfl, rfl, readyNow rfl rfl (by decide), quiet_slots _⟩, ⟨slotsState, _, _, rfl, rfl, ⟨rfl, rfl, rfl⟩, rfl, rfl, readyNow rfl rfl (by decide), quiet_slots _⟩,
   ⟨readyNow rfl rfl (by decide), asleep_w1⟩, ⟨withThread { addrs with async := [⟨0x0F, 1, 0⟩] }, readyNow rfl rfl (by decide), by decide⟩,
   ⟨slotsState, _, rfl, rfl, by decide, readyNow rfl rfl (by decide), by decide, by decide, by decide, rfl, rfl⟩,
   fun a h => ⟨{ slotsState with core := slotsState.core.modTh 0 fun t => t.setG 10 2 }, ⟨31, a⟩, rfl, rfl, (by decide : (31 : Reg).toNat < 32), by revert a; unfold Ready; decide, by revert a; decide⟩,
   ⟨{ slotsState with core := slotsState.core.modTh 0 fun t => t.setG 10 2 }, _, rfl, rfl, by decide, readyNow rfl rfl (by decide), by decide⟩⟩

/-- A thread that has entered its context-switch interrupt, on a request of a kind. -/
def leaving (kind : ReqKind) (fq : List FEntry := []) : State :=
  let s := sysState { addrs with ie := false, tcause := { cause := 0x0F, sub := 1 }, tinfo := 9, team := some 7, uid := 3, fq := fq }
  { s with reqs := [⟨9, kind, ⟨0, 0, 0⟩, 0, 3, none⟩], teams := [aTeam], pools := s.pools.set 0 { base := 0x10000, len := 0x10000 } }

/-- Entries of the thread-context cache that are dirty, for save blocks at 2^30 and above. -/
def dirtyState (two : Bool) : State :=
  let s := sysState
  let a := CoreId.tccTag ⟨0, 0, 0⟩
  { s with mem := s.mem ++ [(a 0, 3), (a 0 + 3, 0x40)] ++ if two then [(a 1, 3), (a 1 + 2, 0x10), (a 1 + 3, 0x40)] else [] }

/-- A thread of the same team that is switched out. -/
def away : OutThread := ⟨5, 7, 0, 0, 0, 2, 0, 0x10400, [], [], none, [], 0, []⟩

def swapping (more : Bool) : State := { leaving .swap with outs := if more then [away] else [] }

theorem wit_thread_switch :
    (∃ s : State, s.th.mode = true ∧ Ready s [] ∧ s.cur.val < 3 ∧ s.standing = none ∧ (∀ e < 2, tagDirty (s.tag s.cid e) = false)) ∧
    (∃ (s : State) (r : KRequest), s.th.mode = true ∧ Ready s [] ∧ s.cur.val < 3 ∧ s.standing = some r ∧ s.unsettled = true) ∧
    (∃ (s : State) (r : KRequest), s.th.mode = true ∧ Ready s [] ∧ s.cur.val < 3 ∧ s.standing = some r ∧ s.unsettled = false ∧ r.kind = .abort) ∧
    (∃ (s u : State) (r : KRequest) (b : Nat), s.th.mode = true ∧ Ready s [] ∧ s.cur.val < 3 ∧ s.standing = some r ∧ s.unsettled = false ∧ r.kind = .out ∧
      (∃ tm ∈ s.teams, some tm.id = s.th.team ∧ tm.aborted = false) ∧ s.allocBlock s.th.ctx threadBlock = some (b, u) ∧
      Memory.wf s.mem = true ∧ b % 64 = 0 ∧ b < 2 ^ 50 ∧ s.quarantine = [] ∧ ∀ q ∈ s.reqs, q.at_ = s.cid → q.slot = s.cur → q.cmd = none) ∧
    (∀ more : Bool, ∃ (s u : State) (r : KRequest) (b : Nat), s.th.mode = true ∧ Ready s [] ∧ s.cur.val < 3 ∧ s.standing = some r ∧ s.unsettled = false ∧ r.kind = .swap ∧
      (∃ tm ∈ s.teams, some tm.id = s.th.team ∧ tm.aborted = false) ∧ s.allocBlock s.th.ctx threadBlock = some (b, u) ∧
      ((∃ o ∈ s.outs, o.uid ≠ s.th.uid ∧ o.ctx = s.th.ctx ∧ s.resumable o = true ∧ s.mapsTo o s.cid = true) ↔ more = true)) ∧
    (∀ two : Bool, ∃ s : State, s.th.mode = true ∧ Ready s [] ∧ s.cur.val < 3 ∧ Memory.wf s.mem = true ∧ s.Unlisted ∧ s.badWords = [] ∧ s.badBlocks = [] ∧ s.quarantine = [] ∧
      (∀ e < 2, tagDirty (s.tag s.cid e) = true → 2 ^ 30 ≤ tagBlock (s.tag s.cid e) ∧ tagBlock (s.tag s.cid e) + 1472 ≤ 2 ^ 40) ∧
      tagDirty (s.tag s.cid 0) = true ∧ tagDirty (s.tag s.cid 1) = two ∧
      (two = true → tagBlock (s.tag s.cid 0) + 1472 ≤ tagBlock (s.tag s.cid 1))) := by
  refine ⟨⟨sysState, rfl, readyNow rfl rfl (by decide), by decide, rfl, by decide⟩,
   ⟨leaving .out [popEntry], _, rfl, readyNow rfl rfl (by decide), by decide, rfl, by decide⟩,
   ⟨leaving .abort, _, rfl, readyNow rfl rfl (by decide), by decide, rfl, by decide, rfl⟩,
   ⟨leaving .out, _, _, _, rfl, readyNow rfl rfl (by decide), by decide, rfl, by decide, rfl, ⟨aTeam, List.mem_singleton.mpr rfl, rfl, rfl⟩, rfl, by decide, by decide, by decide, rfl,
     fun q hq _ _ => ?_⟩,
   fun more => ?_,
   fun two => ?_⟩
  · rw [List.mem_singleton.mp (hq : q ∈ [(⟨9, .out, ⟨0, 0, 0⟩, 0, 3, none⟩ : KRequest)])]
  · cases more
    · exact ⟨swapping false, _, _, _, rfl, readyNow rfl rfl (by decide), by decide, rfl, by decide, rfl, ⟨aTeam, List.mem_singleton.mpr rfl, rfl, rfl⟩, rfl,
        fun ⟨_, h, _⟩ => (by cases h), fun h => by cases h⟩
    · exact ⟨swapping true, _, _, _, rfl, readyNow rfl rfl (by decide), by decide, rfl, by decide, rfl, ⟨aTeam, List.mem_singleton.mpr rfl, rfl, rfl⟩, rfl,
        fun _ => rfl, fun _ => ⟨away, List.mem_singleton.mpr rfl, by decide, rfl, by decide, by decide⟩⟩
  · have h : ∀ two : Bool, Memory.wf (dirtyState two).mem = true ∧
        (∀ e < 2, tagDirty ((dirtyState two).tag ⟨0, 0, 0⟩ e) = true → 2 ^ 30 ≤ tagBlock ((dirtyState two).tag ⟨0, 0, 0⟩ e) ∧ tagBlock ((dirtyState two).tag ⟨0, 0, 0⟩ e) + 1472 ≤ 2 ^ 40) ∧
        tagDirty ((dirtyState two).tag ⟨0, 0, 0⟩ 0) = true ∧ tagDirty ((dirtyState two).tag ⟨0, 0, 0⟩ 1) = two ∧
        (two = true → tagBlock ((dirtyState two).tag ⟨0, 0, 0⟩ 0) + 1472 ≤ tagBlock ((dirtyState two).tag ⟨0, 0, 0⟩ 1)) := by decide +kernel
    exact ⟨dirtyState two, rfl, readyNow rfl rfl (fun _ h => by cases h), (by decide : (0 : Fin 4).val < 3), (h two).1, (fun _ h => by cases h), rfl, rfl, rfl, (h two).2⟩

/-! ## Chapter 11: jobs -/

/-- A command's record: its first word, its three ranges, its type words. -/
def rcd (w0 p0 p1 p2 : BitVec 64) : BitVec 512 := 0#64 ++ p2 ++ p1 ++ p0 ++ 0#192 ++ w0

/-- A command of core 0 with its declared ranges: all of the cluster's scratchpad, read and written. -/
def aJob (r : BitVec 512) (st : JobState) : Job :=
  { id := 4, core := some ⟨0, 0, 0⟩, engine := if 8 ≤ bits r.toNat 0 4 then 1 else 0, rcd := r, ctx := 0, user := true, st := st, uid := 3
    decl := [⟨.sp, 0, 0x20000, false⟩, ⟨.sp, 0, 0x20000, true⟩] }

def copyRcd : BitVec 512 := rcd 1 0xF10000000104 0xF10000000200 8
def fillRcd : BitVec 512 := rcd 5 0xF1000001FFFF 1 0x0807060504030201
def notifyRcd : BitVec 512 := rcd 6 0xF10000000040 99 0
def zaccRcd : BitVec 512 := rcd 8 0 0 0

def jobState (window : List Job) (backlog : List Job := []) (sub : List Submission := []) (uid : Nat := 3) : State :=
  let s := netState { addrs with uid := uid }
  { s with cl := { s.cl with window := window, backlog := backlog, jobNo := 50 }, core := { s.core with submitted := sub } }

theorem wit_command_admission :
    (∃ (s : State) (u : Submission) (rest : List Submission) (r : Fin 16) (more : List (Fin 16)), s.core.submitted = u :: rest ∧ s.core.freeRing = r :: more) ∧
    (∀ r ∈ [copyRcd, fillRcd, notifyRcd, zaccRcd], ∃ (s : State) (j : Job) (rest : List Job), j.rcd = r ∧ s.cl.backlog = j :: rest ∧ s.cl.window.length = 31 ∧
      s.cl.window.length < 32 ∧ s.ordered j = true ∧ (s.admission j).st = .waiting) ∧
    (∃ (s : State) (j : Job) (rest : List Job), s.cl.backlog = j :: rest ∧ s.cl.window.length = 32) ∧
    (∃ (s : State) (j : Job) (rest : List Job), s.cl.backlog = j :: rest ∧ s.ordered j = false) ∧ (∃ a b : Job, a.accepted = b.accepted ∧ a.rank < b.rank) ∧
    (∃ (s : State) (j : Job), s.recordBad j = true) ∧
    (∃ (s : State) (i : Instr) (id typ : Nat) (plan : Job → JobM Plan) (j : Job), JobIs i id typ plan ∧ s.job id = some j ∧ j.typ = typ ∧ s.cl.spent = false ∧
      s.cl.fenced = false ∧ s.startable j = true ∧ j.engine = 0 ∧ s.copyReady j = true) ∧
    (∃ (s : State) (i : Instr) (id typ : Nat) (plan : Job → JobM Plan) (j : Job), JobIs i id typ plan ∧ s.job id = some j ∧ j.typ = typ ∧ s.cl.spent = false ∧
      s.cl.fenced = false ∧ s.startable j = true ∧ j.engine = 0 ∧ s.copyReady j = false) ∧
    (∃ (s : State) (i : Instr) (id typ : Nat) (plan : Job → JobM Plan) (j : Job), JobIs i id typ plan ∧ s.job id = some j ∧ j.typ = typ ∧ s.cl.spent = false ∧
      s.cl.fenced = false ∧ s.startable j = true ∧ j.engine ≠ 0 ∧ s.arrayGate j = .wait) ∧
    (∃ (s : State) (i : Instr) (id typ : Nat) (plan : Job → JobM Plan) (j : Job), JobIs i id typ plan ∧ s.job id = some j ∧ j.typ = typ ∧ s.cl.spent = false ∧
      s.cl.fenced = false ∧ s.startable j = true ∧ j.engine ≠ 0 ∧ s.arrayGate j = .go false false) := by
  refine ⟨⟨jobState [] [] [⟨0, 1, 7, 3, 0, true, Vector.replicate 4 0, 5⟩], _, _, 0, _, rfl, rfl⟩, fun r h => ?_, ⟨jobState (List.replicate 32 (aJob copyRcd .waiting)) [aJob copyRcd .waiting], _, _, rfl, rfl⟩,
    ⟨jobState [] [aJob copyRcd .waiting], aJob copyRcd .waiting, [], rfl, by decide +kernel⟩,
    ⟨{ aJob copyRcd .waiting with engine := 0 }, { aJob zaccRcd .waiting with engine := 1 }, rfl, by decide⟩,
    ⟨jobState [], aJob 7 .waiting, by decide +kernel⟩,
    ⟨jobState [aJob copyRcd .waiting], .copy1d 4, 4, 1, planMoves, aJob copyRcd .waiting, .inl ⟨rfl, rfl, rfl⟩, by decide +kernel⟩,
    ⟨jobState (aJob copyRcd .waiting :: List.replicate 4 { aJob fillRcd .running with id := 3 }), .copy1d 4, 4, 1, planMoves, aJob copyRcd .waiting, .inl ⟨rfl, rfl, rfl⟩, by decide +kernel⟩,
    ⟨jobState [aJob zaccRcd .waiting, { aJob zaccRcd .running with id := 3 }], .zacc 4, 4, 8, planZacc, aJob zaccRcd .waiting,
      .inr (.inr (.inr (.inr (.inr (.inr (.inl ⟨rfl, rfl, rfl⟩)))))), by decide +kernel⟩,
    ⟨let s := jobState [aJob zaccRcd .waiting]; { s with cl := { s.cl with bound := some 0 } }, .zacc 4, 4, 8, planZacc, aJob zaccRcd .waiting,
      .inr (.inr (.inr (.inr (.inr (.inr (.inl ⟨rfl, rfl, rfl⟩)))))), by decide +kernel⟩⟩
  refine ⟨{ jobState (List.replicate 31 { aJob 0 .running with id := 9 }) [aJob r .waiting] with clk := Vector.replicate 16 1 }, aJob r .waiting, [], rfl, rfl, rfl, (by decide : 31 < 32),
    (by simp only [List.mem_cons, List.not_mem_nil, or_false] at h; rcases h with rfl | rfl | rfl | rfl <;> decide +kernel), ?_⟩
  simp only [List.mem_cons, List.not_mem_nil, or_false] at h
  rcases h with rfl | rfl | rfl | rfl <;> decide +kernel

/-- A copy from a page that no TLB has. -/
def farJob : Job := { aJob (rcd 1 0x5000 0xF10000000200 8) .running with decl := [⟨.va, 0x5000, 64, false⟩, ⟨.sp, 0x200, 64, true⟩] }

theorem waits (f : Except JobStop Plan × State) (h : (match f.1 with
    | .error .wait => true
    | _ => false) = true) : f = (.error .wait, f.2) := by
  rcases f with ⟨(_ | _) | _, _⟩ <;> simp_all

theorem planned (f : Except JobStop Plan × State) (a : BitVec 8) (h : (match f.1 with
    | .ok p => p.fail == some (a, none) && p.fe.isEmpty
    | _ => false) = true) : ∃ p, f = (.ok p, f.2) ∧ p.fail = some (a, none) ∧ p.fe = [] := by
  rcases f with ⟨_ | p, _⟩
  · cases h
  · exact ⟨p, rfl, eq_of_beq (Bool.and_eq_true _ _ ▸ h).1, List.isEmpty_iff.mp (Bool.and_eq_true _ _ ▸ h).2⟩

theorem stops (f : Except JobStop Plan × State) (a : BitVec 8) (h : (match f.1 with
    | .error (.fail b none) => b == a
    | _ => false) = true) : f = (.error (.fail a none), f.2) := by
  obtain ⟨(⟨b, _ | _⟩ | _) | _, _⟩ := f
  · rw [eq_of_beq h]
  all_goals cases h

/-- A job whose plan succeeds (`zacc`), one whose source is outside its ranges, one whose page is not translated. -/
theorem wit_jobs :
    (∃ (s u : State) (i : Instr) (id typ : Nat) (plan : Job → JobM Plan) (j : Job) (p : Plan), JobIs i id typ plan ∧ Running s id typ j ∧ u.job id = some j ∧
      (plan j).run.run s = (.ok p, u) ∧ p.fail = none ∧ p.fe = []) ∧
    (∃ (s u : State) (i : Instr) (id typ : Nat) (plan : Job → JobM Plan) (j : Job) (p : Plan) (a : BitVec 8), JobIs i id typ plan ∧ Running s id typ j ∧ u.job id = some j ∧
      (plan j).run.run s = (.ok p, u) ∧ p.fail = some (a, none) ∧ p.fe = []) ∧
    (∃ (s u : State) (i : Instr) (id typ : Nat) (plan : Job → JobM Plan) (j : Job) (a : BitVec 8), JobIs i id typ plan ∧ Running s id typ j ∧ u.job id = some j ∧
      (plan j).run.run s = (.error (.fail a none), u)) ∧
    (∃ (s u : State) (i : Instr) (id typ : Nat) (plan : Job → JobM Plan) (j : Job), JobIs i id typ plan ∧ Running s id typ j ∧ u.job id = some j ∧
      (plan j).run.run s = (.error .wait, u)) ∧
    (∃ (s : State) (id : Nat) (j : Job) (a b : Nat), Memory.wf s.mem = true ∧ Running s id 1 j ∧ j.fem = 0 ∧ 0 < j.p 2 0 24 ∧
      Reaches s j (j.p 0 0 48) (j.p 2 0 24) false true a ∧ Reaches s j (j.p 1 0 48) (j.p 2 0 24) true true b ∧ ∀ k < j.p 2 0 24, Plain (b + k)) ∧
    (∃ (s : State) (id : Nat) (j : Job) (b : Nat), Memory.wf s.mem = true ∧ Running s id 5 j ∧ j.fem = 0 ∧ 0 < j.p 1 0 24 ∧
      Reaches s j (j.p 0 0 48) (j.p 1 0 24) true true b ∧ ∀ k < j.p 1 0 24, Plain (b + k)) ∧
    (∃ (s : State) (id : Nat) (j : Job) (b : Nat), Memory.wf s.mem = true ∧ Running s id 6 j ∧ j.p 2 0 1 = 0 ∧ Reaches s j (j.p 0 0 48) 8 true false b ∧ ∀ k < 8, Plain (b + k)) ∧
    (∃ (s : State) (id : Nat) (j : Job), Memory.wf s.mem = true ∧ Running s id 8 j) := by
  have run : ∀ r t, t = (aJob r .running).typ → Running (jobState [aJob r .running]) 4 t (aJob r .running) := fun r t h => ⟨rfl, h.symm, rfl, rfl, rfl⟩
  refine ⟨⟨_, _, .zacc 4, 4, 8, planZacc, _, _, .inr (.inr (.inr (.inr (.inr (.inr (.inl ⟨rfl, rfl, rfl⟩)))))), run zaccRcd 8 (by decide +kernel), rfl, rfl, rfl, rfl⟩,
    (let j := { aJob copyRcd .running with decl := [] }
     let ⟨p, h, hf⟩ := planned ((planMoves j).run.run (jobState [j])) 5 (by decide +kernel)
     ⟨jobState [j], _, .copy1d 4, 4, 1, planMoves, j, p, 5, .inl ⟨rfl, rfl, rfl⟩, ⟨rfl, by decide +kernel, rfl, rfl, rfl⟩, by decide +kernel, h, hf⟩),
    (let j := aJob (rcd 6 0xFFFFFFFFFFFC 99 0) .running
     ⟨jobState [j], _, .notify 4, 4, 6, planNotify, j, 5, .inr (.inr (.inr (.inr (.inr (.inl ⟨rfl, rfl, rfl⟩))))), ⟨rfl, by decide +kernel, rfl, rfl, rfl⟩, by decide +kernel,
      stops _ 5 (by decide +kernel)⟩),
    ⟨jobState [farJob], _, .copy1d 4, 4, 1, planMoves, farJob, .inl ⟨rfl, rfl, rfl⟩, ⟨rfl, by decide +kernel, rfl, rfl, rfl⟩, by decide +kernel, waits _ (by decide +kernel)⟩,
    ⟨_, _, _, spLoc 0 0 0x104, spLoc 0 0 0x200, by decide, run copyRcd 1 (by decide +kernel), by decide +kernel, by decide +kernel, by constructor <;> first | rfl | decide +kernel, by constructor <;> first | rfl | decide +kernel, by decide +kernel⟩,
    ⟨_, _, _, spLoc 0 0 0x1FFFF, by decide, run fillRcd 5 (by decide +kernel), by decide +kernel, by decide +kernel, by constructor <;> first | rfl | decide +kernel, by decide +kernel⟩,
    ⟨_, _, _, spLoc 0 0 0x40, by decide, run notifyRcd 6 (by decide +kernel), by decide +kernel, by constructor <;> first | rfl | decide +kernel, by decide⟩,
    ⟨_, _, _, by decide, run zaccRcd 8 (by decide +kernel)⟩⟩

/-- The record of a `notify` that also signals semaphore 7 by 1 and writes a completion record. -/
def doneRcd : BitVec 512 := rcd (6 + 2 ^ 5 + 2 ^ 6 + 7 * 2 ^ 32 + 2 ^ 40 + 3 * 2 ^ 48) 0xF10000000040 99 0

theorem wit_job_end :
    (∀ r ∈ [doneRcd, notifyRcd], ∃ (s : State) (id : Nat) (j : Job), j.rcd = r ∧ j.sv = j.cv ∧ j.cv = (r == doneRcd) ∧ s.job id = some j ∧ j.core = some s.cid ∧ j.kw = none ∧ j.solo = false ∧ j.typ ≠ 10 ∧
      Memory.wf s.mem = true ∧ j.st = .done ∧ (j.sv = true → ∀ w ∈ s.cl.semWait, w.sem ≠ j.bits 32 8) ∧
      (j.cv = true → s.bankHeld [⟨spLoc s.clid.die s.clid.clu (j.bits 48 13 * 16), 16⟩] none = false)) ∧
    (∃ (s : State) (id : Nat) (j : Job), s.job id = some j ∧ j.core = some s.cid ∧ j.kw = none ∧ j.solo = false ∧ j.typ ≠ 10 ∧
      Memory.wf s.mem = true ∧ j.st = .discarded ∧ j.cv = false) ∧
    (∃ (s : State) (id : Nat) (j : Job), s.job id = some j ∧ j.core = some s.cid ∧ j.kw = none ∧ j.solo = false ∧ j.typ ≠ 10 ∧
      Memory.wf s.mem = true ∧ j.st = .failing ∧ j.cv = false ∧ j.slot = s.cur ∧ s.th.uid = j.uid ∧ s.th.status ≠ .empty ∧
      (∀ k, k ≠ s.cur → (s.core.th k).uid ≠ j.uid ∨ (s.core.th k).status = .empty)) ∧
    (∃ (s : State) (id : Nat) (j : Job), s.job id = some j ∧ j.core = some s.cid ∧ j.kw = none ∧ j.solo = false ∧ j.typ ≠ 10 ∧
      Memory.wf s.mem = true ∧ s.cl.window.length = 32 ∧ (∀ x ∈ s.cl.window, s.startable x = true → s.engineTakes x = false) ∧
      s.cl.lastStart + 65536 ≤ s.clockOf ∧ s.cl.fullSince + 65536 ≤ s.clockOf) ∧
    (∃ (s : State) (id : Nat) (j : Job), s.job id = some j ∧ j.core = some s.cid ∧ j.kw = none ∧ j.solo = false ∧ j.typ ≠ 10 ∧
      Memory.wf s.mem = true ∧ ∃ x ∈ s.cl.window, s.startable x = true ∧ s.engineTakes x = true) := by
  refine ⟨fun r h => ⟨jobState [aJob r .done], 4, aJob r .done, rfl, ?_, ?_, rfl, rfl, rfl, rfl, ?_, (by decide : Memory.wf (jobState []).mem = true), rfl, (fun _ _ h => by cases h), ?_⟩,
    ⟨jobState [aJob notifyRcd .discarded], 4, _, rfl, rfl, rfl, rfl, by decide +kernel, by decide, rfl, by decide +kernel⟩,
    ⟨jobState [aJob notifyRcd .failing], 4, _, rfl, rfl, rfl, rfl, by decide +kernel, by decide, rfl, by decide +kernel, rfl, rfl, by decide +kernel⟩,
    ⟨{ jobState (List.replicate 32 (aJob notifyRcd .failed)) with clk := Vector.replicate 16 65536 }, 4, _, rfl, rfl, rfl, rfl, by decide +kernel, by decide, rfl, by decide +kernel⟩,
    ⟨jobState [aJob notifyRcd .waiting], 4, _, rfl, rfl, rfl, rfl, by decide +kernel, by decide, _, List.mem_singleton.mpr rfl, by decide +kernel⟩⟩
  all_goals
    simp only [List.mem_cons, List.not_mem_nil, or_false] at h
    rcases h with rfl | rfl <;> decide +kernel

/-! ## Chapter 19 -/

/-- A command of Keyway: its header, Q1, Q2 and Q3. -/
def cmd (h q1 q2 q3 : BitVec 64) : KCmd := ⟨0xFFFFFFFF, q3 ++ q2 ++ q1 ++ h, false⟩

/-- A privileged system queue, or a plain one, with the command at its head; its indices wrap around behind it. -/
def keywayState (c : KCmd) (k : BitVec 1 := 0) : State :=
  let s := netState addrs
  { s with
    mem := s.mem ++ [(0x6000, 1), (0x6030, 3), (0x6031, 4)]
    queues := [(16, { en := true, kind := k, priv := true, prio := 3, lsize := 4, base := 0x20000, head := 0xFFFFFFFF, shadow := 0, tail := 0, resident := true, ahead := [c] })] }

theorem served (c : KCmd) (k : BitVec 1) (typ : Nat) (h : c.ix = 0xFFFFFFFF ∧ (keywayState c k).headCmd 16 = some c ∧ (keywayState c k).headCheck ((keywayState c k).queue 16) c = none ∧
    c.typ = typ ∧ (keywayState c k).pick = some 16) : Served (keywayState c k) 16 typ c :=
  ⟨h.2.1, h.2.2.1, h.2.2.2.1, h.2.2.2.2, fun _ h => by cases h⟩

theorem wit_keyway_commands :
    (∃ (s : State) (c : KCmd), Served s 16 0 c) ∧
    (∃ (s : State) (c : KCmd), Served s 16 4 c ∧ 2 ^ 30 ≤ c.q1 0 50 ∧ s.refuses [⟨c.q1 0 50, 8⟩] = none ∧ Memory.wf s.mem = true) ∧
    (∃ (s : State) (c : KCmd), Served s 16 5 c ∧ (assocGet s.vecs (c.q1 0 11) {}).mask = true) ∧ (∃ (s : State) (c : KCmd), Served s 16 8 c) ∧
    (∃ (s : State) (c : KCmd), Served s 16 9 c ∧ c.q2 0 1 = 1 ∧ (s.clAt ⟨c.q1 0 4, c.q1 4 14⟩).lastCtx ≠ some (BitVec.ofNat 4 (c.q2 1 4))) ∧ (∃ (s : State) (c : KCmd), Served s 16 9 c ∧ c.q2 0 1 = 0) ∧
    (∃ (s : State) (c : KCmd), Served s 16 10 c) ∧ (∃ (s : State) (c : KCmd), Served s 16 11 c) ∧ (∃ (s : State) (c : KCmd), Served s 16 2 c) ∧ (∃ (s : State) (c : KCmd), Served s 16 3 c) :=
  ⟨⟨_, cmd 0x01010040 0 0 0, served (cmd 0x01010040 0 0 0) 0 0 (by decide +kernel)⟩, ⟨_, cmd 4 0x40000000 99 0, served (cmd 4 0x40000000 99 0) 1 4 (by decide +kernel), by decide +kernel⟩,
   ⟨_, cmd 5 2047 0 0, served (cmd 5 2047 0 0) 0 5 (by decide +kernel), by decide +kernel⟩, ⟨_, cmd 8 0x6000 0 0, served (cmd 8 0x6000 0 0) 0 8 (by decide +kernel)⟩,
   ⟨_, cmd 9 0x10 1 0, served (cmd 9 0x10 1 0) 0 9 (by decide +kernel), by decide +kernel⟩, ⟨_, cmd 9 0x10 0 0, served (cmd 9 0x10 0 0) 0 9 (by decide +kernel), by decide +kernel⟩,
   ⟨_, cmd 10 (5 * 16 + 2 ^ 22) 0 0, served (cmd 10 (5 * 16 + 2 ^ 22) 0 0) 0 10 (by decide +kernel)⟩, ⟨_, cmd 11 0x40000 0x10000 0, served (cmd 11 0x40000 0x10000 0) 0 11 (by decide +kernel)⟩,
   ⟨_, cmd 2 0xF10000000000 0xF10000000100 16, served (cmd 2 0xF10000000000 0xF10000000100 16) 1 2 (by decide +kernel)⟩, ⟨_, cmd 3 0xF10000000000 1 16, served (cmd 3 0xF10000000000 1 16) 1 3 (by decide +kernel)⟩⟩

/-- A context of 4 by 2 positions on cluster 0 of die 0, a launch record at 0x8000, and a queue with a command at its head. -/
def teamState (c : KCmd) (tms : List Team) (k : Core → Core := id) (q : Queue → Queue := id) : State :=
  let s := keywayState c
  { s with
    mem := [0x2000, 0x2004, 0x2008, 0x200C, 0x3000, 0x3004, 0x3008, 0x300C, 0x7000].map (fun a => (a, (1 : Byte))) ++ [(0x8000, 0x42), (0x8006, 1)]
    ctxs := s.ctxs.set 0 { valid := true, rtab := 0x7000, ctab := 0x2000, twm1 := 3, thm1 := 1 }
    core := k s.core, teams := tms, queues := s.queues.map fun p => (p.1, q p.2) }

/-- Slot 1 holds the thread of the team's seat. -/
def seated (k : Core) : Core := k.setTh 1 { runner with team := some 7, ts := 1, uid := 9 }

/-- The core has its slots free. -/
def vacant (k : Core) : Core := k.setTh 0 {}

def named (typ extra : BitVec 64) : KCmd := cmd typ (7 * 16 + extra) 0 0

theorem served_team (c : KCmd) (tms : List Team) (k : Core → Core) (typ : Nat) (h : (teamState c tms k).headCmd 16 = some c ∧
    (teamState c tms k).headCheck ((teamState c tms k).queue 16) c = none ∧ c.typ = typ ∧ (teamState c tms k).pick = some 16) : Served (teamState c tms k) 16 typ c :=
  ⟨h.1, h.2.1, h.2.2.1, h.2.2.2, fun _ h => by cases h⟩

theorem wit_team_commands :
    (∃ (s : State) (q : BitVec 10) (c : KCmd), s.headCmd q.toNat = some c ∧ s.headCheck (s.queue q.toNat) c = none ∧ c.typ = 1 ∧ (s.queue q.toNat).waiting = none ∧
      s.waitMet (s.queue q.toNat) c = true ∧ s.badRange (c.q1 0 50) 64 = false ∧ physTarget (c.q1 0 50) = true ∧
      (let tm : Team := { id := s.teamNo, no := s.launches[(BitVec.ofNat 4 c.ctx).toNat], ctx := BitVec.ofNat 4 c.ctx, queue := q.toNat, cmd := c.ix
                          prio := (s.queue q.toNat).prio, rcd := BitVec.ofNat 512 (s.read (c.q1 0 50) 64), since := s.clkOf 0 }
       s.recordRefused (BitVec.ofNat 4 c.ctx) tm = false ∧ tm.bits 368 8 = 0)) ∧
    (∃ (s : State) (c : KCmd), Served s 16 12 c ∧ s.namedTeam c = none) ∧ (∃ (s : State) (c : KCmd), Served s 16 13 c ∧ s.namedTeam c = none) ∧
    (∃ (s : State) (c : KCmd), Served s 16 14 c ∧ s.namedTeam c = none) ∧
    (∃ (s : State) (c : KCmd) (tm : Team) (d : CoreId) (i : Fin 4), Served s 16 12 c ∧ s.namedTeam c = some tm ∧
      s.placeOf (BitVec.ofNat 4 c.ctx) (c.q1 20 10) (c.q1 30 10) = .core d ∧
      (let holds := fun (k : Fin 4) => ((s.coreAt d).th k).status ≠ .empty ∧ ((s.coreAt d).th k).team = some tm.id ∧
        ((s.coreAt d).th k).ts.toNat = c.q1 40 2
       i.val < 3 ∧ holds i ∧ (∀ k : Fin 4, k.val < 3 → holds k → k = i))) ∧
    (∃ (s : State) (c : KCmd) (tm : Team), Served s 16 13 c ∧ s.namedTeam c = some tm ∧ tm.st = .running ∧ tm.aborted = false) ∧
    (∃ (s : State) (c : KCmd) (tm : Team), Served s 16 13 c ∧ s.namedTeam c = some tm ∧ tm.st = .evicting ∧ tm.aborted = false) ∧
    (∃ (s : State) (c : KCmd) (tm : Team), Served s 16 13 c ∧ s.namedTeam c = some tm ∧ tm.aborted = true) ∧
    (∃ (s : State) (c : KCmd) (tm : Team), Served s 16 13 c ∧ s.namedTeam c = some tm ∧ tm.st ≠ .running ∧ tm.st ≠ .evicting) ∧
    (∃ (s : State) (c : KCmd) (tm : Team), Served s 16 14 c ∧ s.namedTeam c = some tm ∧ s.threadsOf tm.id ≠ []) :=
  ⟨⟨teamState (cmd 1 0x8000 0 0) [], 16, cmd 1 0x8000 0 0, by decide +kernel⟩,
   ⟨_, named 12 0, served_team (named 12 0) [] id 12 (by decide +kernel), by decide +kernel⟩,
   ⟨_, named 13 0, served_team (named 13 0) [] id 13 (by decide +kernel), by decide +kernel⟩,
   ⟨_, named 14 0, served_team (named 14 0) [] id 14 (by decide +kernel), by decide +kernel⟩,
   ⟨_, named 12 0x50000000000, aTeam, ⟨0, 0, 0⟩, 1, served_team (named 12 0x50000000000) [aTeam] seated 12 (by decide +kernel), by decide +kernel⟩,
   ⟨_, named 13 0, aTeam, served_team (named 13 0) [aTeam] seated 13 (by decide +kernel), by decide +kernel, rfl, rfl⟩,
   ⟨_, named 13 0, { aTeam with st := .evicting }, served_team (named 13 0) [{ aTeam with st := .evicting }] seated 13 (by decide +kernel), by decide +kernel, rfl, rfl⟩,
   ⟨_, named 13 0, { aTeam with aborted := true }, served_team (named 13 0) [{ aTeam with aborted := true }] seated 13 (by decide +kernel), by decide +kernel, rfl⟩,
   ⟨_, named 13 0, { aTeam with st := .placing }, served_team (named 13 0) [{ aTeam with st := .placing }] seated 13 (by decide +kernel), by decide +kernel⟩,
   ⟨_, named 14 0, aTeam, served_team (named 14 0) [aTeam] seated 14 (by decide +kernel), by decide +kernel⟩⟩

def queueState (f : Queue → Queue) (c : KCmd := cmd 0 0 0 0) : State := teamState c [] id f

theorem wit_queue_control :
    (∃ (s : State) (c : KCmd) (e : BitVec 8), s.headCmd 16 = some c ∧ s.headCheck (s.queue 16) c = some e) ∧
    (∃ (s : State) (tail : BitVec 32), (let x := s.queue 16; s.hostUp = true ∧ x.resident = true ∧ x.switching = false ∧ (tail - x.head).toNat = 2 ^ x.lsize.toNat)) ∧
    (∃ (s : State) (tail : BitVec 32), (let x := s.queue 16; s.hostUp = true ∧ x.resident = true ∧ x.switching = false ∧ (tail - x.head).toNat = 2 ^ x.lsize.toNat + 1)) ∧
    (∃ s : State, s.hostUp = true ∧ (s.queue 16).resident = false) ∧
    (∃ (s : State) (h : BitVec 6), (let x := s.queue 16
      s.hostUp = true ∧ s.qswBusy = false ∧ x.en = true ∧ x.lsizeOk = true ∧ x.resident = false ∧ x.switching = false ∧
        (∀ p ∈ s.queues, p.2.resident = true → p.2.hslot ≠ h) ∧ (x.shadow - x.head).toNat ≤ 2 ^ x.lsize.toNat)) ∧
    (∃ s : State, s.hostUp = true ∧ s.qswBusy = true) ∧
    (∀ l ∈ [[], [((0xFFFFFFFE : BitVec 32), (0 : BitVec 64))]], ∃ s : State, (let x := s.queue 16; s.hostUp = true ∧ x.resident = true ∧ x.switching = false ∧ s.qswBusy = false ∧ x.taken.map (·.1) = l.map (·.1))) ∧
    (∃ s : State, (let x := s.queue 16; x.switching = true ∧ x.taken = [])) ∧
    (∀ b : Bool, ∃ s : State, (let x := s.queue 16
      let next := if x.refused then x.head + 1 else x.head
      s.hostUp = true ∧ x.refused = b ∧ x.halted = true ∧ (x.shadow - x.head).toNat ≤ 2 ^ x.lsize.toNat ∧ (x.shadow - next).toNat ≤ 2 ^ x.lsize.toNat)) ∧
    (∃ s : State, (let x := s.queue 16; s.hostUp = true ∧ x.resident = false ∧ x.switching = false)) ∧
    (∃ s : State, (let x := s.queue 16
      let k := x.ahead.length
      let ix := x.head + BitVec.ofNat 32 k
      let a := x.base.toNat + 32 * (ix.toNat % 2 ^ x.lsize.toNat)
      x.resident = true ∧ x.switching = false ∧ x.halted = false ∧ k < 8 ∧ k < x.pending ∧ isHost a = false ∧ physTarget a = true ∧ s.badRange a 32 = false)) ∧
    (∃ s : State, s.ready 16 = true ∧ (s.queue 16).since + 2 ^ 16 ≤ s.clkOf 0) ∧ (∃ s : State, s.hostUp = false) :=
  ⟨⟨queueState id (cmd 7 0 0 0), cmd 7 0 0 0, 1, by decide +kernel⟩, ⟨queueState id, 15, by decide +kernel⟩, ⟨queueState id, 16, by decide +kernel⟩,
   ⟨queueState fun x => { x with resident := false }, rfl, rfl⟩, ⟨queueState fun x => { x with resident := false }, 63, rfl, rfl, rfl, rfl, rfl, rfl, by decide⟩,
   ⟨{ queueState id with qswBusy := true }, rfl, rfl⟩,
   fun l h => by
     simp only [List.mem_cons, List.not_mem_nil, or_false] at h
     rcases h with rfl | rfl
     · exact ⟨queueState id, by decide +kernel⟩
     · exact ⟨queueState fun x => { x with taken := [(0xFFFFFFFE, 0)] }, by decide +kernel⟩,
   ⟨queueState fun x => { x with switching := true }, by decide +kernel⟩,
   fun b => ⟨queueState fun x => { x with halted := true, err := 1, refused := b, shadow := 0 }, by cases b <;> decide +kernel⟩,
   ⟨queueState fun x => { x with resident := false }, by decide +kernel⟩, ⟨queueState fun x => { x with tail := 7, ahead := List.replicate 7 (cmd 0 0 0 0) }, by decide +kernel⟩,
   ⟨{ queueState id with clk := Vector.replicate 16 65536 }, by decide +kernel⟩, ⟨{ queueState id with links := [(⟨.hostLink, 0, 0⟩, { up := false })] }, by decide⟩⟩

theorem wit_host_interface :
    (∃ (s : State) (addr : BitVec 40) (len : BitVec 5), addr = 0xFFFFFFFFF0 ∧ len = 16 ∧ s.hostUp = true ∧ s.badRange addr.toNat len.toNat = false) ∧
    (∃ (s : State) (addr : BitVec 40) (b : List (BitVec 8)), addr = 0x40000000 ∧ s.hostUp = true ∧ Memory.wf s.mem = true ∧ 2 ^ 30 ≤ addr.toNat ∧ addr.toNat % 8 + b.length = 8 ∧ 0 < b.length ∧
       s.refuses [⟨addr.toNat, b.length⟩] = none) ∧
    (∃ (addr : BitVec 40) (b : List (BitVec 8)), addr.toNat + b.length = 0x1000) ∧
    (∃ (addr : BitVec 40) (b : List (BitVec 8)), addr.toNat = 0x1080 ∧ addr.toNat + b.length ≤ 2 ^ 30) ∧
    (∃ (addr : BitVec 40) (b : List (BitVec 8)), 0x1080 ≤ addr.toNat ∧ addr.toNat + b.length = 2 ^ 30) ∧
    (∀ p ∈ [(0, 1), (4, 8), (0x7FFFFC, 8)], (p.2 ≠ 4 ∧ p.2 ≠ 8) ∨ p.1 % p.2 ≠ 0 ∨ 2 ^ 23 < p.1 + p.2) ∧
    (∃ (s : State) (v : BitVec 11), s.hostUp = true ∧ (assocGet s.vecs v.toNat {}).pending = true) ∧
    (∃ (s : State) (p : BitVec 3) (v : BitVec 64), s.hostUp = true ∧ v.getLsbD 0 = true ∧ (s.hinge p).en = false) ∧ (∃ (s : State) (v : BitVec 64), s.hostUp = true ∧ v.getLsbD 0 = false) :=
  ⟨⟨w1, _, _, rfl, rfl, rfl, by decide⟩, ⟨w1, _, List.replicate 8 255, rfl, by decide⟩, ⟨0xFF8, List.replicate 8 0, by decide⟩,
   ⟨0x1080, [1], by decide⟩, ⟨0x3FFFFFFF, [1], by decide⟩, by decide, ⟨{ w1 with vecs := [(2047, { pending := true })] }, 2047, by decide⟩, ⟨w1, 7, 1, by decide⟩, ⟨w1, 0, by decide⟩⟩

def hingeState (h : Hinge) (l : Link := {}) : State :=
  let s := netState addrs
  { s with hinges := s.hinges.set 0 h, links := [(⟨.modulePort, 0, 0⟩, l)] }

theorem hinge_write : ∃ (s u : State) (r : HingeReq) (m : Nat) (addr : BitVec 48) (bs : List (BitVec 8)) (ps : List Part), (s.hinge 0).up = true ∧ (s.hinge 0).rid = r.fromMod ∧
    s.routeFrom 0 r = some m ∧ r.op = .write addr bs ∧ u = { s with hingeNo := s.hingeNo + 1 } ∧ u.hingeFind ⟨s.hingeNo, 0, r, []⟩ true addr bs.length = (.parts ps, u) ∧
    u.refuses ps = none :=
  ⟨hingeState { en := true, up := true }, _, ⟨0, 0, 0, .write 0xF20000000040 [1, 2]⟩, 1, 0xF20000000040, [1, 2], [⟨spLoc 0 0 0x40, 2⟩], rfl, rfl, rfl, rfl, rfl, rfl, by decide +kernel⟩

theorem wit_hinge_and_links :
    (∃ s : State, s.hostUp = true ∧ (s.hinge 0).en = true ∧ (s.hinge 0).up = true) ∧
    (∃ (s : State) (l : LinkId) (r : Training), l.kind = .modulePort ∧ (s.hinge (linkPort l)).training = true ∧ (s.link l).fenced = false ∧ r.up = true ∧ r.lanes.toNat = 8) ∧
    (∃ (s : State) (l : LinkId) (r : Training), l.kind = .hostLink ∧ (s.link l).fenced = false ∧ r.up = true ∧ r.flit = true ∧ [1, 2, 4, 8, 16].contains r.lanes.toNat = true) ∧
    (∀ n ∈ [1, 4], ∃ (s : State) (r : HingeReq) (m : Nat) (sx sy x y : BitVec 10) (c : CoreId) (k : BitVec 2) (ws : List Word), (s.hinge 0).up = true ∧ (s.hinge 0).rid = r.fromMod ∧
      s.routeFrom 0 r = some m ∧ 0 < ws.length ∧ ws.length = n ∧ r.op = .message sx sy x y k ws ∧ s.placeOf r.ctx x.toNat y.toNat = .core c) ∧
    (∃ (s u : State) (r : HingeReq) (m : Nat) (addr : BitVec 48) (bs : List (BitVec 8)) (ps : List Part), (s.hinge 0).up = true ∧ (s.hinge 0).rid = r.fromMod ∧
      s.routeFrom 0 r = some m ∧ r.op = .write addr bs ∧ u = { s with hingeNo := s.hingeNo + 1 } ∧ u.hingeFind ⟨s.hingeNo, 0, r, []⟩ true addr bs.length = (.parts ps, u) ∧
      u.refuses ps = none) ∧
    (∃ s : State, (s.hinge 0).up = false) ∧
    (∃ (s : State) (l : LinkId), (s.link l).up = true ∧ (s.link l).fenced = false ∧ Memory.wf s.mem = true ∧ s.badBlocks.elem 0 = false ∧ (s.link l).attempts = 8 ∧ (s.link l).replays = 4095) ∧
    (∃ (s : State) (l : LinkId), (s.link l).up = true ∧ (s.link l).fenced = false ∧ Memory.wf s.mem = true ∧ s.badBlocks.elem 0 = false ∧ (s.link l).attempts = 7 ∧ (s.link l).replays = 4096) ∧
    (∀ n ∈ [0, 1, 2], ∃ (s : State) (l : LinkId), (s.link l).up = false ∧ (s.link l).fenced = false ∧ (s.link l).tries = n) :=
  ⟨⟨hingeState { en := true, up := true }, rfl, rfl, rfl⟩, ⟨hingeState { en := true, training := true }, ⟨.modulePort, 0, 0⟩, ⟨true, 8, 5, true⟩, rfl, rfl, rfl, rfl, rfl⟩,
   ⟨hingeState {}, ⟨.hostLink, 0, 0⟩, ⟨true, 16, 5, true⟩, rfl, rfl, rfl, rfl, by decide⟩,
   by
     intro n h
     simp only [List.mem_cons, List.not_mem_nil, or_false] at h
     rcases h with rfl | rfl
     · exact ⟨hingeState { en := true, up := true }, ⟨0, 0, 0, .message 0 0 1 0 0 (List.replicate 1 5)⟩, 1, 0, 0, 1, 0, ⟨0, 0, 1⟩, 0, List.replicate 1 5, rfl, rfl, rfl,
         by decide, rfl, rfl, by decide⟩
     · exact ⟨hingeState { en := true, up := true }, ⟨0, 0, 0, .message 0 0 1 0 0 (List.replicate 4 5)⟩, 1, 0, 0, 1, 0, ⟨0, 0, 1⟩, 0, List.replicate 4 5, rfl, rfl, rfl,
         by decide, rfl, rfl, by decide⟩,
   hinge_write, ⟨hingeState {}, rfl⟩, ⟨hingeState {} { attempts := 8, replays := 4095 }, ⟨.modulePort, 0, 0⟩, by decide⟩, ⟨hingeState {} { attempts := 7, replays := 4096 }, ⟨.modulePort, 0, 0⟩, by decide⟩,
   fun n _ => ⟨hingeState {} { up := false, tries := n }, ⟨.modulePort, 0, 0⟩, rfl, rfl, rfl⟩⟩

/-- A team whose launch command waits at the head of queue 16; its record is that at 0x8000. -/
def aRecord : BitVec 512 := 0x1000000000042
def newTeam : Team := { aTeam with st := .waiting, rcd := aRecord, seats := [] }
def placingTeam : Team := { newTeam with st := .placing, seats := aTeam.seats }
def lifeState (tm : Team) (k : Core → Core := vacant) (cl : Cluster → Cluster := fun c => { c with own := true }) : State :=
  let s := teamState (cmd 1 0x8000 0 0) [tm] k fun x => { x with waiting := some 7 }
  { s with cl := cl s.cl }

/-- A thread of the team that is switched out, its image in a block of the pool. -/
def outThread : OutThread := { uid := 3, team := 7, ctx := 0, x := 0, y := 0, ts := 0, slot := 0, block := 0x40000000, async := [] }

theorem wit_team_life :
    (∃ (s : State) (id : Nat) (tm : Team) (x0 y0 : Nat) (seats : List Seat), s.team id = some tm ∧ tm.st = .waiting ∧ tm.aborted = false ∧ s.heldBack tm = false ∧
      s.pick = some tm.queue ∧ s.rectangle tm = some ((x0, y0), seats)) ∧
    (∃ (s : State) (id : Nat) (tm : Team), s.team id = some tm ∧ tm.st = .waiting ∧ s.pick ≠ some tm.queue ∧ s.rectangle tm = none) ∧
    (∃ (s : State) (id : Nat) (tm : Team) (c : KCmd), s.team id = some tm ∧ tm.st = .placing ∧ tm.aborted = false ∧ tm.saved = [] ∧ s.mayStart tm = true ∧ s.headCmd tm.queue = some c ∧
      s.pick = some tm.queue) ∧
    (∃ (s : State) (id : Nat) (tm : Team), s.team id = some tm ∧ tm.st = .placing ∧ tm.aborted = false ∧ s.mayStart tm = false) ∧
    (∃ (s : State) (id : Nat) (tm : Team), s.team id = some tm ∧ tm.aborted = true) ∧
    (∃ (s : State) (id : Nat) (tm : Team), s.team id = some tm ∧ s.teamOver tm = true ∧ tm.aborted = false ∧ tm.evict = []) ∧
    (∃ (s : State) (id : Nat) (tm : Team), s.team id = some tm ∧ s.teamOver tm = false) ∧
    (∃ (s : State) (id : Nat) (tm : Team), s.team id = some tm ∧ tm.st = .waiting ∧ tm.since + 2 ^ 20 = s.clkOf 0) ∧
    (∃ (s : State) (id : Nat) (tm : Team) (k : BitVec 2) (o : OutThread) (w : Nat), s.team id = some tm ∧ s.outs.find? (·.uid = o.uid) = some o ∧ o.team = id ∧
      o.slot = slotOf k ∧ (slotOf k).val < 3 ∧ (s.core.th (slotOf k)).status = .empty ∧ s.core.fenced = false ∧ s.resumable o = true ∧
      s.mapsTo o s.cid = true ∧ s.reserved s.cid (slotOf k) = false ∧ (s.takeImage s.cid o.block).1 = some w ∧ imageOk w = true) ∧
    (∃ (s : State) (id : Nat) (tm : Team), s.team id = some tm ∧ s.outs.any (·.team = id) = false) ∧
    (∃ (s : State) (id : Nat) (tm : Team) (n : BitVec 17) (b : Nat), s.team id = some tm ∧ tm.st = .evicting ∧ tm.aborted = false ∧ n.toNat ∈ tm.lcns ∧
      s.evicted tm = true ∧ (∀ z ∈ tm.saved, z.lcn ≠ n.toNat) ∧ (∀ m ∈ tm.lcns, (∀ z ∈ tm.saved, z.lcn ≠ m) → (s.clAt (s.route tm.ctx m).2).window.any (·.st.active) = false) ∧ s.outs.any (·.team = id) = true ∧
      (s.allocBlock tm.ctx clusterBlock).map (·.1) = some b) := by
  have hp : (match (lifeState newTeam).rectangle newTeam with
      | some _ => true
      | none => false) = true := by decide +kernel
  refine ⟨?_, ⟨lifeState newTeam vacant id, 7, newTeam, rfl, rfl, by decide +kernel⟩,
    ⟨lifeState placingTeam, 7, placingTeam, _, rfl, rfl, rfl, rfl, by decide +kernel, rfl, by decide +kernel⟩,
    ⟨lifeState placingTeam vacant id, 7, placingTeam, rfl, rfl, rfl, by decide +kernel⟩,
    ⟨lifeState { aTeam with aborted := true }, 7, _, rfl, rfl⟩,
    ⟨lifeState { aTeam with seats := [] }, 7, _, rfl, by decide +kernel, rfl, rfl⟩, ⟨lifeState aTeam seated, 7, _, rfl, by decide +kernel⟩,
    ⟨{ lifeState newTeam with clk := Vector.replicate 16 0x100000 }, 7, _, rfl, rfl, by decide +kernel⟩,
    ⟨{ lifeState aTeam with outs := [outThread] }, 7, _, 0, outThread, 0, rfl, rfl, rfl, rfl, by decide, rfl, rfl, by decide +kernel⟩,
    ⟨lifeState aTeam, 7, _, rfl, rfl⟩,
    ⟨{ lifeState { aTeam with st := .evicting, rcd := aRecord } with outs := [outThread], pools := (lifeState aTeam).pools.set 0 { base := 0x40000000, len := 0x40000 } }, 7, _, 0, 0x40000000, rfl, rfl, rfl, by decide +kernel,
      by decide +kernel, (fun (z : SavedCluster) (h : z ∈ []) => by cases h), by decide +kernel⟩⟩
  rcases h : (lifeState newTeam).rectangle newTeam with _ | ⟨⟨x, y⟩, l⟩
  · simp [h] at hp
  · exact ⟨_, 7, newTeam, x, y, l, rfl, rfl, rfl, by decide +kernel, by decide +kernel, h⟩

/-! ## Chapter 17 -/

/-- A page table of one page at virtual address 0: a table of each level behind the other, then the leaf (P, W, X, U, A and D set). -/
def tables : List Host.Cell :=
  [(0x40000000, 1), (0x40000001, 0x10), (0x40000003, 0x40), (0x40001000, 1), (0x40001001, 0x20), (0x40001003, 0x40),
   (0x40002000, 1), (0x40002001, 0x30), (0x40002003, 0x40), (0x40003000, 0x3F), (0x40003001, 0x40), (0x40003003, 0x40)]

def missReq (addr : BitVec 64) : MissReq :=
  { kind := 1, slot := 0, eng := false, fetch := false, wr := false, user := true, ctx := 0, addr := addr, aux := 0, who := .thread 0 false, vol := 0 }

def missState (addr : BitVec 64) (presented : Bool) : State :=
  let s := withThread { addrs with status := .missWait, miss := .walk }
  { s with mem := tables, ctxs := s.ctxs.set 0 { valid := true, ptroot := 0x40000000 }
           core := { s.core with missQ := [missReq addr], presented := presented, dtlb := [], itlb := [] } }

def firmware : PageEntry := ⟨.firmware 0, 0, 5, [.dieTop 0]⟩
def pageState (fly : List PageMsg) (tree : List PageEntry) : State := { withThread addrs with pageFly := fly, pageTree := tree }
def request : PageMsg := { dest := .cluster 0 0, child := .core ⟨0, 0, 0⟩, ctx := 0, page := 5 }

theorem walked (f : Walked × State) (w : Walked) (h : f.1 = w) : f = (w, f.2) := by rw [← h]

/-- Slot 3's watchpoint 0 on the first word that a walk of address 0x1000 reads. -/
def watchState : State :=
  let s := missState 0x1000 true
  { s with core := { s.core with dbg := { wp := Vector.replicate 2 (BitVec.ofNat 64 (0x40000000 + 2 ^ 48 + 2 ^ 54)) } } }

theorem wit_watched_walk : watchState.core.missQ = [missReq 0x1000] ∧ Memory.wf watchState.mem = true ∧ watchState.core.presented = true ∧
    watchState.core.lets 3 = true ∧ (watchState.core.th 3).held = none ∧ (missReq 0x1000).kind = 1 ∧
    watchState.walkWatched {} true 0x1000 4 watchState.ctxs[0].ptroot = some (0, 0x40000000, false) ∧
    (watchState.core.dbg.wp[0]).getLsbD 50 = false := by decide +kernel

theorem wit_held_walk : ∃ s : State, s.core.missQ = [missReq 0x1000] ∧ Memory.wf s.mem = true ∧ s.core.presented = true ∧ s.core.lets 3 = false :=
  ⟨{ watchState with core := { watchState.core with dbg := { halted := true } } }, rfl, by decide, rfl, rfl⟩

/-- A trap handler runs in slot 3. -/
theorem wit_handled_walk : ∃ s : State, s.core.missQ = [missReq 0x1000] ∧ Memory.wf s.mem = true ∧ s.core.presented = true ∧ (s.core.th 3).held.isSome = true :=
  ⟨{ watchState with core := watchState.core.setTh 3 { watchState.core.th 3 with held := some ⟨[], 66, false, 0, {}, none, []⟩ } }, rfl, by decide, rfl, rfl⟩

theorem wit_page_service :
    (∃ (s : State) (r : MissReq) (rest : List MissReq), s.core.missQ = r :: rest ∧ Memory.wf s.mem = true ∧ s.core.presented = false ∧ r.kind = 1 ∧
      tlbFind (s.clAt (r.tlbCl s.cid)).tlb r.ctx r.addr.toNat { w := r.wr, x := r.fetch } r.user = none) ∧
    (∃ (s : State) (r : MissReq) (rest : List MissReq), s.core.missQ = r :: rest ∧ Memory.wf s.mem = true ∧ s.core.presented = true) ∧
    (∃ (s : State) (r : MissReq) (i : Fin 4) (f : Bool) (b : BitVec 8) (u : State), s.core.missQ = [r] ∧ Memory.wf s.mem = true ∧ s.core.presented = true ∧
      s.core.lets 3 = true ∧ (s.core.th 3).held = none ∧ s.core.dbg.wp = Vector.replicate 2 0 ∧ r.kind = 1 ∧ r.who = .thread i f ∧ i ≠ 3 ∧ (s.core.th i).status = .missWait ∧ (s.core.th i).miss = .walk ∧
      s.pageWalk r.ctx { w := r.wr, x := r.fetch } r.user r.addr.toNat = (.fault 6 b, u) ∧ u.core = s.core ∧ u.cid = s.cid) ∧
    (∃ (s : State) (r : MissReq) (i : Fin 4) (f : Bool) (e : TlbEntry) (u : State), s.core.missQ = [r] ∧ Memory.wf s.mem = true ∧ s.core.presented = true ∧
      s.core.lets 3 = true ∧ (s.core.th 3).held = none ∧ s.core.dbg.wp = Vector.replicate 2 0 ∧ r.kind = 1 ∧ r.who = .thread i f ∧ r.keep = true ∧ i ≠ 3 ∧ (s.core.th i).status = .missWait ∧ (s.core.th i).miss = .walk ∧
      s.pageWalk r.ctx { w := r.wr, x := r.fetch } r.user r.addr.toNat = (.ok e, u) ∧ u.core = s.core ∧ u.cid = s.cid ∧
      resultPage r.ctx r.addr.toNat (Walked.ok e).result = .ok e) ∧
    (∃ (s : State) (k : Nat) (f : PageMsg), s.pageFly[k]? = some f ∧ f.wake = false ∧ (∀ e ∈ s.pageTree, e.is f.dest f.ctx f.page = false) ∧
      f.dest.room (s.pageTree.countP fun e => e.node == f.dest) = true ∧ ∀ d, f.dest ≠ .firmware d) ∧
    (∃ (s : State) (k : Nat) (f : PageMsg), s.pageFly[k]? = some f ∧ f.wake = false ∧ ∃ e ∈ s.pageTree, e.is f.dest f.ctx f.page = true) ∧
    (∀ ok : Bool, ∃ (s : State) (k : Nat) (e : PageEntry) (d : Nat) (leaf : BitVec 64) (tables : List (BitVec 50)), s.pageTree[k]? = some e ∧ e.node = .firmware d ∧ leaf.getLsbD 0 = true ∧
      (s.makePresent (e.page * 4096) leaf 4 s.ctxs[e.ctx.toNat].ptroot tables).isSome = ok) ∧
    (∃ (s : State) (k : Nat) (f : PageMsg) (e : PageEntry), s.pageFly[k]? = some f ∧ f.wake = true ∧ (∀ c, f.dest ≠ .core c) ∧
      s.pageTree.find? (fun e => e.is f.dest f.ctx f.page) = some e) :=
  ⟨⟨missState 0x1000 false, _, _, rfl, by decide, rfl, rfl, rfl⟩, ⟨missState 0x1000 true, _, _, rfl, by decide, rfl⟩,
   ⟨missState 0x1000 true, _, 0, false, 1, _, rfl, by decide, rfl, rfl, rfl, rfl, rfl, rfl, by decide, rfl, rfl, walked ((missState 0x1000 true).pageWalk 0 {} true 0x1000) (.fault 6 1) (by decide +kernel), by decide +kernel⟩,
   ⟨missState 0x123 true, _, 0, false, ⟨0, 0, 0, 0x40004, true, true, true, true⟩, _, rfl, by decide, rfl, rfl, rfl, rfl, rfl, rfl, rfl, by decide, rfl, rfl, walked ((missState 0x123 true).pageWalk 0 {} true 0x123) (.ok ⟨0, 0, 0, 0x40004, true, true, true, true⟩) (by decide +kernel), by decide +kernel⟩,
   ⟨pageState [request] [], 0, request, rfl, rfl, (fun (e : PageEntry) (h : e ∈ []) => by cases h), (by decide), (fun _ h => by cases h)⟩,
   ⟨pageState [request] [⟨.cluster 0 0, 0, 5, []⟩], 0, request, rfl, rfl, by decide⟩, 
   fun ok => ⟨{ pageState [] [firmware] with retired := if ok then [] else [0x40003] }, 0, firmware, 0, 0x4000300F, [0x40000000, 0x40001000, 0x40002000], rfl, rfl, by decide, by cases ok <;> decide +kernel⟩,
   ⟨pageState [{ request with dest := .dieTop 0, child := .firmware 0, wake := true }] [⟨.dieTop 0, 0, 5, [.quadrant 0 0]⟩], 0, _, _, rfl, rfl, (fun _ h => by cases h), rfl⟩⟩

/-! ## Chapters 20 and 21 -/

/-- A request of the load mailbox: its fields (Table 20.4). -/
def loadReq (op obj len base trec : BitVec 384) : BitVec 384 := op + obj * 2 ^ 64 + len * 2 ^ 128 + base * 2 ^ 192 + trec * 2 ^ 256

/-- An object with one line of text, 288 bytes; the digest and the signature behind it are zero. -/
def objBytes : List Byte :=
  leBytes 4 0x424F5856 ++ leBytes 2 1 ++ leBytes 2 0 ++ leBytes 4 3 ++ leBytes 4 0 ++ leBytes 4 1 ++ leBytes 4 0 ++ leBytes 8 0x40 ++ leBytes 8 192 ++
    List.replicate 24 0 ++ (leBytes 4 1 ++ leBytes 4 0 ++ leBytes 8 0x80 ++ leBytes 8 64 ++ leBytes 8 0) ++ List.replicate 32 0 ++ fullLine ++ List.replicate 96 0

/-- A Tiruc object: one line of text, one virtual core; 304 bytes. -/
def tirucBytes : List Byte :=
  leBytes 4 0x424F5856 ++ leBytes 2 1 ++ leBytes 2 1 ++ leBytes 4 3 ++ leBytes 4 0 ++ leBytes 4 2 ++ leBytes 4 0 ++ leBytes 8 0x40 ++ leBytes 8 208 ++
    List.replicate 24 0 ++ (leBytes 4 1 ++ leBytes 4 0 ++ leBytes 8 0x80 ++ leBytes 8 64 ++ leBytes 8 0) ++ (leBytes 4 8 ++ leBytes 4 0 ++ leBytes 8 0xC0 ++ leBytes 8 16 ++ leBytes 8 0) ++
    fullLine ++ List.replicate 16 0 ++ List.replicate 96 0

/-- A record that raises fuse counter 63 to 255, 160 bytes. -/
def fuseBytes : List Byte := leBytes 4 0x56524B56 ++ [63, 0, 0, 0] ++ leBytes 4 255 ++ List.replicate 148 0

/-- A start has been made with a key in slot 0; the bytes of an object stand in memory. -/
def loaded (bs : List Byte) : State :=
  let s := netState addrs
  { s with mem := Memory.setBytes s.mem 0x40000000 bs, boot := { s.boot with keys := s.boot.keys.set 0 (some []) } }

/-- A request waits. -/
def waiting (s : State) (r : BitVec 384) : State := { s with boot := { s.boot with loads := [⟨r, s.boot.fuses⟩] } }

/-- SM3 and SM2 are free functions of Config (log 13): that they accept a block is a premise here, and the only one. -/
def Accepts (body : List Byte) : Prop := Config.sm3 body = List.replicate 32 0 ∧ Config.sm2Verify [] (List.replicate 32 0) (List.replicate 64 0) = true

def fuseReq : BitVec 384 := loadReq 3 0x40000000 0 0 0

theorem accepted (s : State) (body : List Byte) (h : Accepts body) (hk : s.boot.keys[0] = some []) :
    s.signed body (List.replicate 96 0) 0 = true := by
  obtain ⟨h1, h2⟩ := h
  have t : (List.replicate 96 (0 : Byte)).take 32 = List.replicate 32 0 := rfl
  have d : (List.replicate 96 (0 : Byte)).drop 32 = List.replicate 64 0 := rfl
  unfold State.signed
  rw [t, d, h1]
  exact (Bool.and_eq_true _ _).mpr ⟨by decide, by
    have : s.boot.keys[0 % 4] = some [] := hk
    rw [this]; exact h2⟩

/-- The request is served: its object is judged by the counters of the moment that it was taken. -/
def served1 (s : State) : State := { s with boot := { s.boot with loads := [], judged := s.boot.fuses } }

theorem read_phys (s : State) (a n : Nat) (bs : List Byte)
    (hr : physTarget a = true ∧ physTarget (a + n - 1) = true ∧ s.badRange a n = false ∧ Memory.bytes s.mem a n = bs) : s.readPhys a n = (some bs, s) := by
  unfold State.readPhys
  rw [hr.1, hr.2.1, hr.2.2.1, hr.2.2.2]
  rfl

theorem unread (s : State) (r : BitVec 384) (n a : Nat) (hn : bits r.toNat 128 40 = n ∧ bits r.toNat 64 50 = a)
    (hr : physTarget a = true ∧ physTarget (a + n - 1) = true ∧ s.badRange a n = false ∧ Memory.bytes s.mem a n = List.replicate n 0) (hp : parseObj (List.replicate n 0) = .error 0) :
    s.sourceObj r.toNat = (.error ⟨2, 0, 0⟩, s) := by
  simp only [State.sourceObj, hn.1, hn.2, read_phys _ _ _ _ hr, hp]

/-- The source of a request whose bytes are an object with a zero signature block under key 0. -/
theorem sourced (s : State) (r : BitVec 384) (bs : List Byte) (o : Obj) (n a : Nat) (hn : bits r.toNat 128 40 = n ∧ bits r.toNat 64 50 = a)
    (hr : physTarget a = true ∧ physTarget (a + n - 1) = true ∧ s.badRange a n = false ∧ Memory.bytes s.mem a n = bs)
    (hp : parseObj bs = .ok (o, 0)) (hd : bs.drop (n - 96) = List.replicate 96 0) (hk : s.boot.keys[0] = some []) (h : Accepts (bs.take (n - 96))) :
    s.sourceObj r.toNat = (.ok (o, bs), s) := by
  simp only [State.sourceObj, hn.1, hn.2, read_phys _ _ _ _ hr, hp, hd]
  rw [if_pos (accepted s _ h hk)]

def theObj : Obj := ⟨false, 3, 0, [⟨1, 0, fullLine⟩]⟩
def tirucObj : Obj := ⟨true, 3, 0, [⟨1, 0, fullLine⟩, ⟨8, 0, List.replicate 16 0⟩]⟩
def fused (s : State) : State := { s with boot := { s.boot with fuses := s.boot.fuses.set 0 4 } }

/-- A request for the object, on a module that has revoked it or not. -/
def objState (k : Fin 4) : State :=
  waiting (if k.val % 2 = 1 then fused (loaded objBytes) else loaded objBytes) (loadReq (if k.val / 2 = 0 then 1 else 2) 0x40000000 288 0x100000 0x40010000)

theorem the_object (k : Fin 4) (h : Accepts (objBytes.take 192)) :
    (served1 (objState k)).sourceObj (loadReq (if k.val / 2 = 0 then 1 else 2) 0x40000000 288 0x100000 0x40010000).toNat = (.ok (theObj, objBytes), served1 (objState k)) :=
  sourced _ _ _ _ 288 0x40000000 (by revert k; decide +kernel) (by revert k; decide +kernel) (by decide +kernel) (by decide +kernel) (by revert k; decide +kernel) h

/-- A translation in the cache. -/
def cached (twc : Nat) : State :=
  let s := loaded tirucBytes
  { s with tcache := [⟨translationKey tirucBytes twc, theObj, s.translationSign theObj.image⟩] }

def tirucReq (twc : BitVec 384) : BitVec 384 := loadReq 2 0x40000000 304 0x100000 0x40010000 + twc * 2 ^ 320

theorem tiruc_object (s : State) (r : BitVec 384) (h : Accepts (tirucBytes.take 208)) (hr : bits r.toNat 128 40 = 304 ∧ bits r.toNat 64 50 = 0x40000000)
    (hm : s.mem = (loaded tirucBytes).mem) (hb : s.badRange 0x40000000 304 = false) (hk : s.boot.keys[0] = some []) : s.sourceObj r.toNat = (.ok (tirucObj, tirucBytes), s) :=
  sourced _ _ _ _ 304 0x40000000 hr ⟨by decide +kernel, by decide +kernel, hb, by rw [hm]; decide +kernel⟩ (by decide +kernel) (by decide +kernel) hk h

theorem wit_security_bad_requests (op : Fin 4) (_ : 0 < op.val) : ∃ (s : State) (r : LoadReq) (rest : List LoadReq), s.boot.loads = r :: rest ∧ requestBad r.req.toNat = true ∧
    bits r.req.toNat 0 4 = op.val ∧ Memory.wf s.mem = true ∧ s.refuses [⟨0x1030, 8⟩] = none :=
  ⟨waiting (loaded []) (BitVec.ofNat 384 (op.val + 2 ^ 8)), ⟨BitVec.ofNat 384 (op.val + 2 ^ 8), (loaded []).boot.fuses⟩, [], rfl, by revert op; decide +kernel, by revert op; decide +kernel, (by decide : Memory.wf (loaded []).mem = true),
    (by decide : (loaded []).refuses [⟨0x1030, 8⟩] = none)⟩

theorem wit_security_objects (h : Accepts (objBytes.take 192)) (k : Fin 4) : ∃ (s s1 : State) (r : LoadReq) (rest : List LoadReq) (o : Obj) (bs : List Byte) (u : State),
    s.boot.loads = r :: rest ∧ s1 = { s with boot := { s.boot with loads := rest, judged := r.fuses } } ∧ requestBad r.req.toNat = false ∧ s1.sourceObj r.req.toNat = (.ok (o, bs), u) ∧
    bits r.req.toNat 0 4 = 1 + k.val / 2 ∧ u.revoked o = (k.val % 2 == 1) ∧ o.tiruc = false ∧ Memory.wf u.mem = true ∧ u.refuses [⟨0x1030, 8⟩] = none :=
  ⟨objState k, served1 (objState k), ⟨loadReq (if k.val / 2 = 0 then 1 else 2) 0x40000000 288 0x100000 0x40010000, (objState k).boot.fuses⟩, [], theObj, objBytes, served1 (objState k), rfl, rfl, by revert k; decide +kernel, the_object k h, by revert k; decide +kernel, by revert k; decide +kernel, rfl,
    by revert k; decide +kernel, by revert k; decide +kernel⟩

/-- A state with a request for a Tiruc object, as a clause of the statement has it. -/
def TirucAsked (s : State) (r : LoadReq) (P : State → List Byte → Obj → Nat → Prop) : Prop :=
  ∃ (s1 : State) (rest : List LoadReq) (o : Obj) (bs : List Byte) (u : State), s.boot.loads = r :: rest ∧ s1 = { s with boot := { s.boot with loads := rest, judged := r.fuses } } ∧ requestBad r.req.toNat = false ∧
    s1.sourceObj r.req.toNat = (.ok (o, bs), u) ∧ bits r.req.toNat 0 4 = 2 ∧ u.revoked o = false ∧ o.tiruc = true ∧ P u (translationKey bs (bits r.req.toNat 320 8)) o (bits r.req.toNat 320 8)

/-- A translation signed under the measurement of the moment passes. -/
theorem cached_ok (s u : State) (k : List Byte) (o : Obj) (h : u.boot.meas = s.boot.meas) (r : s.revoked o = false) :
    s.cachedOk ⟨k, o, u.translationSign o.image⟩ = true := by
  unfold State.cachedOk State.translationSign
  simp only [h, r, beq_self_eq_true, Bool.not_false, Bool.and_self]

theorem wit_security_cached (h : Accepts (tirucBytes.take 208)) :
    TirucAsked (waiting (cached 0) (tirucReq 0)) ⟨tirucReq 0, (cached 0).boot.fuses⟩ fun u key _ _ => ∃ x, u.tcache.find? (fun t => t.key == key && u.cachedOk t) = some x := by
  refine ⟨served1 (waiting (cached 0) (tirucReq 0)), [], tirucObj, tirucBytes, served1 (waiting (cached 0) (tirucReq 0)), rfl, rfl, by decide +kernel,
    tiruc_object _ _ h (by decide +kernel) (by decide +kernel) (by decide +kernel) (by decide +kernel), by decide +kernel, by decide +kernel, rfl,
    ⟨translationKey tirucBytes 0, theObj, (loaded tirucBytes).translationSign theObj.image⟩, ?_⟩
  have hb : bits (tirucReq 0).toNat 320 8 = 0 := by decide +kernel
  have hk := cached_ok (served1 (waiting (cached 0) (tirucReq 0))) (loaded tirucBytes) (translationKey tirucBytes 0) theObj rfl (by decide +kernel)
  show List.find? _ [_] = _
  simp only [hb, List.find?_cons, hk, beq_self_eq_true, Bool.and_self]

theorem wit_security_translated (h : Accepts (tirucBytes.take 208)) :
    TirucAsked (waiting (loaded tirucBytes) (tirucReq 0)) ⟨tirucReq 0, (loaded tirucBytes).boot.fuses⟩ fun u key o twc =>
      u.tcache.find? (fun t => t.key == key && u.cachedOk t) = none ∧ (translate o twc).isSome = true :=
  ⟨served1 (waiting (loaded tirucBytes) (tirucReq 0)), [], tirucObj, tirucBytes, served1 (waiting (loaded tirucBytes) (tirucReq 0)), rfl, rfl, by decide +kernel,
    tiruc_object _ _ h (by decide +kernel) (by decide +kernel) (by decide +kernel) (by decide +kernel), by decide +kernel, by decide +kernel, rfl, rfl, by decide +kernel⟩

theorem wit_security_untranslated (h : Accepts (tirucBytes.take 208)) :
    TirucAsked (waiting (loaded tirucBytes) (tirucReq 128)) ⟨tirucReq 128, (loaded tirucBytes).boot.fuses⟩ fun u key o twc =>
      u.tcache.find? (fun t => t.key == key && u.cachedOk t) = none ∧ translate o twc = none :=
  ⟨served1 (waiting (loaded tirucBytes) (tirucReq 128)), [], tirucObj, tirucBytes, served1 (waiting (loaded tirucBytes) (tirucReq 128)), rfl, rfl, by decide +kernel,
    tiruc_object _ _ h (by decide +kernel) (by decide +kernel) (by decide +kernel) (by decide +kernel), by decide +kernel, by decide +kernel, rfl, rfl, by decide +kernel⟩

/-- No object stands at OBJ. -/
def emptyReq (op : Fin 3) : BitVec 384 := loadReq (BitVec.ofNat 384 op.val) 0x40000000 288 0x100000 0x40010000

theorem wit_security_no_object (op : Fin 3) (_ : 0 < op.val) : ∃ (s s1 : State) (r : LoadReq) (rest : List LoadReq) (e : LoadEnd) (u : State), s.boot.loads = r :: rest ∧
    s1 = { s with boot := { s.boot with loads := rest, judged := r.fuses } } ∧ requestBad r.req.toNat = false ∧ s1.sourceObj r.req.toNat = (.error e, u) ∧ bits r.req.toNat 0 4 = op.val :=
  ⟨waiting (loaded []) (emptyReq op), served1 (waiting (loaded []) (emptyReq op)), ⟨emptyReq op, (loaded []).boot.fuses⟩, [], ⟨2, 0, 0⟩, served1 (waiting (loaded []) (emptyReq op)), rfl, rfl, by revert op; decide +kernel,
    unread _ _ 288 0x40000000 (by revert op; decide +kernel) (by revert op; decide +kernel) (by decide +kernel), by revert op; decide +kernel⟩

theorem wit_security_fuse (h : Accepts (fuseBytes.take 64)) : ∃ (s s1 : State) (r : LoadReq) (rest : List LoadReq) (bs : List Byte) (u : State), s.boot.loads = r :: rest ∧
    s1 = { s with boot := { s.boot with loads := rest, judged := r.fuses } } ∧ bits r.req.toNat 0 4 = 3 ∧ requestBad r.req.toNat = false ∧ s1.readPhys (bits r.req.toNat 64 50) 160 = (some bs, u) ∧
    field bs 0 4 = 0x56524B56 ∧ field bs 4 1 = 63 ∧ field bs 5 3 = 0 ∧ field bs 12 52 = 0 ∧ field bs 8 4 = 255 ∧ (u.boot.fuses[63]).toNat < field bs 8 4 ∧
    u.signed (bs.take 64) (bs.drop 64) 0 = true := by
  have hd : fuseBytes.drop 64 = List.replicate 96 0 := by decide +kernel
  have ha : bits fuseReq.toNat 64 50 = 0x40000000 := by decide +kernel
  refine ⟨waiting (loaded fuseBytes) fuseReq, served1 (waiting (loaded fuseBytes) fuseReq), ⟨fuseReq, (loaded fuseBytes).boot.fuses⟩, [], fuseBytes, served1 (waiting (loaded fuseBytes) fuseReq), rfl, rfl, by decide +kernel, by decide +kernel,
    (by rw [ha]; exact read_phys _ _ _ _ (by decide +kernel)), by decide +kernel, by decide +kernel, by decide +kernel, by decide +kernel, by decide +kernel, by decide +kernel, ?_⟩
  rw [hd]; exact accepted _ _ h (by decide +kernel)

theorem unrefused (s : State) (p : Part) (hw : s.badWords = []) (hb : s.badBlocks = []) (hd : s.deadDies = []) (hc : ∀ c, (s.clAt c).fenced = false) : s.refuses [p] = none := by
  simp [State.refuses, State.deadLoc, hw, hb, hd, hc]

theorem wit_attestation :
    (∃ (s : State) (r : BitVec 448) (rest : List (BitVec 448)), s.boot.reports = r :: rest ∧ Memory.wf s.mem = true ∧ s.refuses [⟨0x1050, 1⟩] = none ∧ s.boot.state = 3) ∧
    ((∀ b, (Config.sm3 b).length = 32) → (∀ b, (Config.sm2Sign b).length = 64) →
     ∃ (s : State) (r : BitVec 448) (rest : List (BitVec 448)), s.boot.reports = r :: rest ∧ Memory.wf s.mem = true ∧ s.refuses [⟨0x1050, 1⟩] = none ∧ s.boot.state ≠ 3 ∧
      (let v := r.toNat
       let out := bits v 64 50
       let body := s.reportBody (leBytes 32 (bits v 192 256))
       let all := body ++ Config.sm3 body ++ Config.sm2Sign (Config.sm3 body)
       (bits v 0 4 = 1 ∧ bits v 4 60 = 0 ∧ bits v 64 6 = 0 ∧ bits v 114 14 = 0 ∧ bits v 136 56 = 0 ∧ 2 ^ 30 = out ∧ physTarget out = true ∧ physTarget (out + 271) = true) ∧
       all.length = 272 ∧ ∀ a n, out ≤ a → a + n ≤ out + 272 → s.refuses [⟨a, n⟩] = none)) := by
  refine ⟨⟨{ w1 with boot := { w1.boot with reports := [0], state := 3 } }, 0, [], rfl, by decide, by decide, rfl⟩, fun h3 h2 => ?_⟩
  refine ⟨{ w1 with boot := { w1.boot with reports := [1 + 2 ^ 94], meas := List.replicate 32 0 } }, _, [], rfl, by decide, by decide, by decide, by decide +kernel, ?_, fun a n _ _ => ?_⟩
  · rw [List.length_append, List.length_append, h3, h2]; rfl
  · exact unrefused _ _ rfl rfl rfl fun c => by unfold State.clAt; split <;> rfl

/-- Core 2 of the first cluster is fenced; cluster 1 is fenced. -/
def repairState : State :=
  let s := netState addrs
  { s with others := [(⟨0, 0, 2⟩, { fenced := true })], otherCls := [(⟨0, 1⟩, { fenced := true })], clk := Vector.replicate 16 0x1000000 }

theorem wit_faults_and_repair :
    (∃ (s : State) (loc : Nat), s.badRange loc 1 = false) ∧ (∃ loc : Nat, isHbm loc = true ∧ loc = 192) ∧ (∃ loc : Nat, isHbm loc = true ∧ loc = 0x1FFF) ∧ (∃ loc : Nat, isHbm loc = true ∧ loc = 0x42000) ∧
    (∃ (s : State) (f n : BitVec 38), isHbm (f.toNat * 4096) = true ∧ isHbm (n.toNat * 4096) = true ∧ f.toNat ∉ s.retired ∧ s.retired ≠ [] ∧ f ≠ n ∧
      s.badRange (f.toNat * 4096) 4096 = true ∧
      (let span := ((List.finRange 16).flatMap fun c => s.mapsFrame c f.toNat).foldl (fun m l => Nat.max m l.2.1) 1
       f.toNat % span = n.toNat % span ∧ (∀ x ∈ s.retired, x / span ≠ n.toNat / span) ∧ s.rangeBusy (f.toNat / span * span * 4096) (f.toNat / span * span * 4096 + span * 4096) = false)) ∧
    (∃ (s : State) (f n : BitVec 38), f.toNat ∈ s.retired ∨ n.toNat ∈ s.retired) ∧
    (∃ (s : State) (d : BitVec 4) (l : BitVec 14) (k : BitVec 3), l = 8319 ∧ (s.coreAt ⟨d.toNat, l.toNat, k.toNat⟩).fenced = false ∧ l.toNat < 8320) ∧
    (∃ (s : State) (d : BitVec 4) (l : BitVec 14), l = 8319 ∧ s.deadCl ⟨d.toNat, l.toNat⟩ = false ∧ l.toNat < 8320) ∧
    (∃ (s : State) (d : BitVec 4), d.toNat ∉ s.deadDies) ∧
    (∃ (s : State) (d : BitVec 4) (l : BitVec 14) (k : BitVec 3) (x : CoreId), (s.coreAt ⟨d.toNat, l.toNat, k.toNat⟩).fenced = true ∧ s.standIn ⟨d.toNat, l.toNat, k.toNat⟩ = none ∧
      s.spareCore ⟨d.toNat, l.toNat, k.toNat⟩ = some x) ∧
    (∃ (s : State) (d : BitVec 4) (l k : BitVec 14), (s.clAt ⟨d.toNat, l.toNat⟩).fenced = true ∧ s.standInCluster ⟨d.toNat, l.toNat⟩ = none ∧ s.spareCluster ⟨d.toNat, l.toNat⟩ = some k.toNat) ∧
    (∀ hbm : Bool, ∃ (s : State) (d : BitVec 4) (n : BitVec 32), Memory.wf s.mem = true ∧ n ≠ 0 ∧
      (if hbm then (s.histOf d.toNat).hbmLogged else (s.histOf d.toNat).sramLogged) < s.clkOf d.toNat / 2 ^ 24) :=
  ⟨⟨w1, 0x3FFFFFFF, rfl⟩, ⟨192, by decide⟩, ⟨0x1FFF, by decide⟩, ⟨0x42000, by decide⟩, ⟨{ w1 with badBlocks := [0x80000FC0], retired := [0x7FFFE] }, 0x80000, 0x7FFFF, by decide +kernel⟩, ⟨{ w1 with retired := [0x80000] }, 0x80000, 0x7FFFF, by decide +kernel⟩, ⟨w1, 15, 8319, 7, rfl, by decide +kernel⟩, ⟨w1, 15, 8319, rfl, by decide +kernel⟩,
   ⟨w1, 15, by decide⟩, ⟨repairState, 0, 0, 2, ⟨0, 8192, 0⟩, by decide +kernel⟩, ⟨repairState, 0, 1, 8192, by decide +kernel⟩,
   fun hbm => ⟨repairState, 15, 1, by decide, by decide, by cases hbm <;> decide +kernel⟩⟩

/-- A start from two images of the object's bytes, with a key in slot 0 and its digest in the fuses. -/
def anInput : StartInput := ⟨true, [], true, true, false, [objBytes, objBytes], [], [[]], [2], [Config.sm3 []], []⟩

/-- A state in which a warm start accepts images of one digest. -/
def warmState (d : List Byte) : State := { w1 with boot := { w1.boot with digests := [d], wfail := 2 } }

theorem warm_digest (d : List Byte) : d ∈ (warmState d).boot.digests := List.mem_singleton_self d

theorem image_parses : parseObj objBytes = .ok (theObj, 0) := by decide +kernel

theorem wit_starts_and_power :
    (∃ (s : State) (d : BitVec 4), (s.histOf d.toNat).period < s.clkOf d.toNat / 4096) ∧ (∃ (s : State) (d : BitVec 4), s.clkOf d.toNat / 4096 ≤ (s.histOf d.toNat).period) ∧
    (∃ s : State, s.energyBudget s.cl = s.cl.meter) ∧ (∃ s : State, s.cl.meter + 1 = s.energyBudget s.cl) ∧
    (Accepts (objBytes.take 192) → ∃ (s : State) (inp : StartInput), Memory.wf s.mem = true ∧ inp.ends = true ∧ inp.images ≠ [] ∧ inp.hbmTrains = true ∧ inp.linksTrain = true ∧
      ∃ k, inp.keys[0]? = some k ∧ inp.keyDigests[0]? = some (Config.sm3 k) ∧ ∀ m ∈ inp.images, ∃ o key, parseObj m = .ok (o, key) ∧ o.tiruc = false ∧
        ((fuseMax s.boot.fuses inp.fuses)[o.fuse.toNat]).toNat ≤ o.svn ∧ ((fuseMax s.boot.fuses inp.fuses)[0]).toNat ≤ o.svn ∧
        (m.drop (m.length - 96)).take 32 = Config.sm3 (m.take (m.length - 96)) ∧
        Config.sm2Verify k (Config.sm3 (m.take (m.length - 96))) (m.drop (m.length - 64)) = true) ∧
    (∃ (s : State) (inp : StartInput), s.running = true ∧ s.boot.wfail.toNat < 3 ∧ inp.ends = true ∧ inp.images ≠ [] ∧ inp.linksTrain = true ∧
      ∀ m ∈ inp.images, Config.sm3 (m.take (m.length - 96)) ∈ s.boot.digests ∧ ∃ o key, parseObj m = .ok (o, key) ∧ o.tiruc = false ∧
        ((fuseMax s.boot.fuses inp.fuses)[o.fuse.toNat]).toNat ≤ o.svn ∧ ((fuseMax s.boot.fuses inp.fuses)[0]).toNat ≤ o.svn) ∧
    (∃ s : State, s.running = false) ∧ (∃ (s : State) (inp : StartInput), inp.ends = true ∧ inp.images = [] ∧ s.boot.cfail.toNat = 1) ∧
    (∃ s : State, s.boot.starting = true ∧ s.boot.warm = true ∧ s.boot.since + 2 ^ 34 ≤ s.clkOf 0 ∧ Memory.wf s.mem = true ∧ s.badBlocks.elem 0 = false) ∧
    (∃ s : State, s.power.window < s.clkOf 0 / 2 ^ 20) ∧
    (∃ (s : State) (p : PowerSense) (l : Nat), s.power.window < s.clkOf 0 / 2 ^ 20 ∧ p.milliwatts = 5600001 ∧ (∀ d < 16, p.tempTenths.getD d 0 < 900) ∧
      s.power.hot = Vector.replicate 16 false ∧ s.cl.limitSet = some l ∧ l * 5600000 / p.milliwatts < s.energyBudget { s.cl with limit := none }) :=
  ⟨⟨repairState, 15, by decide +kernel⟩, ⟨w1, 15, by decide +kernel⟩, ⟨{ w1 with cl := { w1.cl with meter := w1.energyBudget w1.cl } }, by decide +kernel⟩, ⟨{ w1 with cl := { w1.cl with meter := w1.energyBudget w1.cl - 1 } }, by decide +kernel⟩,
   fun h => ⟨w1, anInput, by decide, rfl, (fun e => by cases e), rfl, rfl, [], rfl, rfl, fun m hm => by
      have e : m = objBytes := by simpa [anInput] using hm
      subst e
      have l : objBytes.length = 288 := by decide +kernel
      rw [l]
      refine ⟨theObj, 0, image_parses, rfl, by decide, by decide, ?_, ?_⟩
      · rw [h.1]; decide +kernel
      · rw [h.1]; exact (by decide +kernel : objBytes.drop 224 = List.replicate 64 0) ▸ h.2⟩,
   ⟨warmState (Config.sm3 (objBytes.take (objBytes.length - 96))), anInput, rfl, by decide, rfl, (fun e => by cases e), rfl, fun m hm => by
      have e : m = objBytes := by simpa [anInput] using hm
      subst e
      generalize Config.sm3 (objBytes.take (objBytes.length - 96)) = d
      exact ⟨warm_digest d, theObj, 0, image_parses, rfl, (by decide +kernel : ((fuseMax w1.boot.fuses anInput.fuses)[theObj.fuse.toNat]).toNat ≤ theObj.svn),
        (by decide +kernel : ((fuseMax w1.boot.fuses anInput.fuses)[0]).toNat ≤ theObj.svn)⟩⟩,
   ⟨{ w1 with running := false }, rfl⟩, ⟨{ w1 with boot := { w1.boot with cfail := 1 } }, { anInput with images := [] }, rfl, rfl, rfl⟩,
   ⟨{ w1 with boot := { w1.boot with starting := true, warm := true }, clk := Vector.replicate 16 0x400000000 }, rfl, rfl, by decide +kernel⟩,
   ⟨repairState, by decide +kernel⟩,
   ⟨{ repairState with cl := { repairState.cl with limitSet := some 100 } }, ⟨5600001, List.replicate 16 899⟩, 100, by decide +kernel⟩⟩

def debugState (d : Debug) : State := { w1 with core := { w1.core with dbg := d }, clk := Vector.replicate 16 0x100000 }

theorem wit_debug_and_statistics :
    (∃ s : State, s.core.dbg.halted = false) ∧ (∃ s : State, s.core.dbg.halted = true) ∧
    (∃ (s : State) (i : Fin 4), s.core.dbg.stepping = some i ∧ s.core.dbg.issued = true ∧ (s.core.th i).fq = [] ∧ (s.core.th i).rep.act = false) ∧
    (∃ (s : State) (i : Fin 4), s.core.dbg.stepping = some i ∧ s.core.dbg.issued = false ∧ s.core.dbg.since + 2 ^ 16 = s.clkOf s.cid.die) ∧
    (∀ n ∈ [0x200, 0x21F], ∃ s : State, s.core.dbg.halted = true ∧ s.core.dbg.num = n ∧ 0x200 ≤ s.core.dbg.num ∧ s.core.dbg.num < 0x220) ∧
    (∀ n ∈ [0x240, 0x26F], ∃ s : State, s.core.dbg.halted = true ∧ s.core.dbg.num = n ∧ 0x240 ≤ s.core.dbg.num ∧ s.core.dbg.num < 0x270) ∧
    (∃ (s : State) (x : BitVec 4), (s.histOf x.toNat).sampled < s.clkOf x.toNat / 1024 ∧ (s.histOf x.toNat).mode = 0) ∧
    (∃ (s : State) (x : BitVec 4), (s.histOf x.toNat).dumped < s.clkOf x.toNat / 2 ^ 20 ∧ (s.histOf x.toNat).nbuf = 0) ∧
    (∃ (s : State) (x : BitVec 4), (s.histOf x.toNat).dumped < s.clkOf x.toNat / 2 ^ 20 ∧ (s.histOf x.toNat).nbuf ≠ 0 ∧ (s.histOf x.toNat).bufkb ≠ 0 ∧
      (s.histOf x.toNat).dump = none) ∧
    (∃ (s : State) (x : BitVec 4) (o : DumpOut), (s.histOf x.toNat).dumped < s.clkOf x.toNat / 2 ^ 20 ∧ (s.histOf x.toNat).dump = some o ∧ s.dumpRoom x.toNat o.loc = 0) := by
  refine ⟨⟨debugState {}, rfl⟩, ⟨debugState { halted := true }, rfl⟩, ⟨debugState { stepping := some 3, issued := true }, 3, rfl, rfl, rfl, rfl⟩,
    ⟨debugState { stepping := some 0, since := 0xF0000 }, 0, rfl, rfl, by decide +kernel⟩, fun n h => ⟨debugState { halted := true, dacc := BitVec.ofNat 13 n }, rfl, ?_⟩,
    fun n h => ⟨debugState { halted := true, dacc := BitVec.ofNat 13 n }, rfl, ?_⟩, ⟨debugState {}, 15, by decide +kernel⟩, ⟨debugState {}, 15, by decide +kernel⟩,
    ⟨{ debugState {} with hist := Vector.replicate 16 { nbuf := 63, bufkb := 1 } }, 0, by decide +kernel⟩,
    ⟨{ debugState {} with hist := Vector.replicate 16 { dump := some ⟨0x40000000, [1], 0, 0⟩ }, grid := [(⟨0, 1, 8320, 0⟩, { period := Vector.replicate 6 128 })] }, 0, ⟨0x40000000, [1], 0, 0⟩, by decide +kernel⟩⟩
  all_goals
    simp only [List.mem_cons, List.not_mem_nil, or_false] at h
    rcases h with rfl | rfl <;> decide +kernel

/-! ## Further witnesses, by chapter -/

/-- Targets without a head: the line below the address space, the first line of the windows, head 30 of a line of 30 heads. -/
theorem wit_bad_targets :
    (∃ (s : State) (off : BitVec 20), Ready s [] ∧ branchLine s.th.pc off < 0) ∧
    (∃ (s : State) (off : BitVec 20), Ready s [] ∧ (branchLine s.th.pc off) / 2 ^ 44 = 15 ∧ branchLine s.th.pc off < 2 ^ 48) ∧
    (∃ (s : State) (off : BitVec 20) (d : Reg) (b : BrB) (z : BrZ) (l : Line), d = 7 ∧ b = ⟨7, 7, off⟩ ∧ z = ⟨7, off⟩ ∧ Ready s [] ∧ Ready s [d] ∧ s.g d = 1 ∧
      Ready s [b.a, b.b] ∧ s.g b.a = s.g b.b ∧ Ready s [z.a] ∧ (s.g z.a).toInt > 0 ∧
      s.fetchLine (branchLine s.th.pc off).toNat = (.ok l, s) ∧ lineLegal l.bytes = true ∧ lineN l.bytes ≤ branchHead off) ∧
    (∃ (s : State) (off : BitVec 20) (d : Reg) (b : BrB), d = 8 ∧ b = ⟨7, 8, off⟩ ∧ Ready s [d] ∧ s.g d ≠ 1 ∧ branchLine s.th.pc off < 0 ∧
      Ready s [b.a, b.b] ∧ s.g b.a ≠ s.g b.b ∧ (s.g b.a).toInt < (s.g b.b).toInt) := by
  refine ⟨⟨w1, 0xFFFE0, readyNow rfl rfl (by decide), by decide⟩, ⟨withThread { runner with pc := 0xEFFFFFFFFFC2 }, 0x20, readyNow rfl rfl (by decide), by decide⟩,
    ⟨w1, 0x3E, 7, _, _, ⟨64, fullLine⟩, rfl, rfl, rfl, readyNow rfl rfl (by decide), readyNow rfl rfl (by decide), by decide, readyNow rfl rfl (by decide), rfl,
      readyNow rfl rfl (by decide), by decide, rfl, by decide⟩,
    ⟨w1, 0xFFFE0, 8, _, rfl, rfl, readyNow rfl rfl (by decide), by decide, by decide, readyNow rfl rfl (by decide), by decide⟩⟩

/-- v3 to v9: 1, -1, 2^-1074, infinity, -infinity, a signalling NaN, 0. -/
def fpThread (rm : BitVec 3 := 0) : Thread :=
  { ((((((addrs.setV 3 0x3FF0000000000000).setV 4 0xBFF0000000000000).setV 5 1).setV 6 0x7FF0000000000000).setV 7 0xFFF0000000000000).setV 8 0x7FF0000000000001).setV 9 0 with rm := rm }

def fpState : State := withThread fpThread

theorem fIdle_fp : FIdle fpState := by constructor <;> first | rfl | decide

/-- An inexact sum and an exact one that is zero, a product below the format, a fused product, a quotient; then the NaNs and infinities. -/
theorem wit_rounded_arithmetic :
    let s := fpState
    let I := fun r : Reg => fp64Int (s.th.vreg r.toNat)
    let fin := fun r : Reg => fp64Fin (s.th.vreg r.toNat)
    FIdle s ∧ FRegs [3, 4, 5, 6, 7, 8, 9] ∧ fin 3 ∧ fin 4 ∧ fin 5 ∧ fin 9 ∧ (∀ rnd : BitVec 3, rnd ≠ 7 → rnd ≠ 6 → s.roundMode rnd < 5) ∧
      InRange64 (I 3 + I 5) 1 ∧ I 3 + I 4 = 0 ∧ InRange64 (I 3 - I 5) 1 ∧ InRange64 (I 5 * I 5) (2 ^ 1074) ∧ InRange64 (I 3 * I 4 + I 5 * 2 ^ 1074) (2 ^ 1074) ∧
      I 3 ≠ 0 ∧ InRange64 (I 5 * 2 ^ 1074 * (I 3).sign) (I 3).natAbs ∧ InRange64 (I 9 * 2 ^ 1074 * (I 4).sign) (I 4).natAbs ∧
      fpNan 11 52 (s.th.vreg 8).toNat = true ∧ fpSig 11 52 (s.th.vreg 8).toNat = true ∧ fpInf 11 52 (s.th.vreg 6).toNat = true ∧ fpInf 11 52 (s.th.vreg 7).toNat = true ∧
      fpNeg 11 52 (s.th.vreg 6).toNat ≠ fpNeg 11 52 (s.th.vreg 7).toNat ∧ fpZero 11 52 (s.th.vreg 9).toNat = true ∧ fpNan 11 52 (s.th.vreg 6).toNat = false ∧
      fpZero 11 52 (s.th.vreg 6).toNat = false ∧ fpZero 11 52 (s.th.vreg 3).toNat = false ∧ fpNan 11 52 (s.th.vreg 3).toNat = false := by
  refine ⟨fIdle_fp, by unfold FRegs; decide, ?_⟩
  unfold fp64Fin InRange64
  decide +kernel

/-- A younger store of 0xAA at 0x107, over the buffered word. -/
def twice : Thread := { buffered with sb := buffered.sb ++ [{ word := lsLoc 0 0 0 0x100, mask := 0x80, data := 0xAA00000000000000, ea := 0xF00000000107 }] }

/-- Two bytes at 0x106: one of each store; one in a store and one not; the store's data is not there yet; a store of other bytes. -/
theorem wit_forwarding :
    let o : LdM := ⟨31, 5, 1, 0, 3⟩
    let loc := lsLoc 0 0 0 0x106
    let fit := fun s : State => o.d.toNat < 32 ∧ Ready s [o.d, o.base] ∧ Passes s (s.eaM o.base o.sz o.off) (2 ^ o.sz.toNat) 1 false [⟨loc, 2 ^ o.sz.toNat⟩] ∧ s.th.fstAway = false
    (∃ (s : State) (v : Word), fit s ∧ (∀ k < 2, SbGives s.th.sb (loc + k) (v.extractLsb' (8 * k) 8)) ∧
      (∀ e ∈ s.th.sb, (∃ k < 2, e.Covers (loc + k)) → e.have_ = true) ∧ (∀ b < 64, 8 * 2 ≤ b → v.getLsbD b = (!(o.zx == 1) && v.getLsbD (8 * 2 - 1)))) ∧
    (∃ (s : State) (e : SbEntry), fit s ∧ e ∈ s.th.sb ∧ (∃ k < 2, e.Covers (loc + k)) ∧ ∃ k < 2, ∀ f ∈ s.th.sb, ¬ f.Covers (loc + k)) ∧
    (∃ (s : State) (e : SbEntry), fit s ∧ e ∈ s.th.sb ∧ (∃ k < 2, e.Covers (loc + k)) ∧ e.have_ = false) ∧
    (∃ (s : State) (v : Word), fit s ∧ s.th.sb ≠ [] ∧ (∀ e ∈ s.th.sb, ∀ k < 2, ¬ e.Covers (loc + k)) ∧ s.badPart [⟨loc, 2⟩] = none ∧
      (∀ k < 2, v.extractLsb' (8 * k) 8 = Memory.byte s.mem (loc + k)) ∧ (∀ b < 64, 8 * 2 ≤ b → v.getLsbD b = (!(o.zx == 1) && v.getLsbD (8 * 2 - 1)))) := by
  refine ⟨⟨withThread twice, 0xFFFFFFFFFFFFAA07, ⟨by decide, readyNow rfl rfl (by decide), Passes.mk (by decide) (by decide) rfl rfl (by decide), rfl⟩, ?_, ?_, by decide⟩,
    ⟨withThread { twice with sb := twice.sb.drop 1 }, { word := lsLoc 0 0 0 0x100, mask := 0x80, data := 0xAA00000000000000, ea := 0xF00000000107 },
      ⟨by decide, readyNow rfl rfl (by decide), Passes.mk (by decide) (by decide) rfl rfl (by decide), rfl⟩, by decide, ⟨1, by decide, by unfold SbEntry.Covers; decide⟩,
      0, by decide, by unfold SbEntry.Covers; decide⟩,
    ⟨withThread { twice with sb := [{ word := lsLoc 0 0 0 0x100, mask := 0xFF, data := 0, ea := 0xF00000000100, have_ := false }] },
      { word := lsLoc 0 0 0 0x100, mask := 0xFF, data := 0, ea := 0xF00000000100, have_ := false },
      ⟨by decide, readyNow rfl rfl (by decide), Passes.mk (by decide) (by decide) rfl rfl (by decide), rfl⟩, by decide, ⟨0, by decide, by unfold SbEntry.Covers; decide⟩, rfl⟩,
    ⟨withThread { twice with sb := [{ word := lsLoc 0 0 0 0x100, mask := 0x3F, data := 0, ea := 0xF00000000100 }] }, 0,
      ⟨by decide, readyNow rfl rfl (by decide), Passes.mk (by decide) (by decide) rfl rfl (by decide), rfl⟩, by decide, by unfold SbEntry.Covers; decide, by decide, by decide, by decide⟩⟩
  · intro k hk
    obtain rfl | rfl : k = 0 ∨ k = 1 := by omega
    · exact ⟨[], _, [_], rfl, by unfold SbEntry.Covers; decide, by unfold SbEntry.Covers; decide, by decide⟩
    · exact ⟨[_], _, [], rfl, by unfold SbEntry.Covers; decide, by unfold SbEntry.Covers; decide, by decide⟩
  · unfold SbEntry.Covers; decide

/-- An access whose registers stand, with nothing buffered. -/
abbrev Clear (s : State) (regs : List Reg) : Prop := Ready s regs ∧ s.th.sb = [] ∧ s.th.fstWaits = false

/-- Route entry 1 of the context is absent. -/
def absentState : State :=
  let s := netState ((addrs.setG 9 0xF20000020000).setG 10 0xF30000000000)
  { s with mem := [(0x2000, 1), (0x2004, 1), (0x3000, 1), (0x3008, 2), (0x4000, 1)] }

/-- Slot 1 holds the first bank of the scratchpad. -/
def heldState : State :=
  let s := withThread (addrs.setG 9 0xF10000000000)
  { s with cl := { s.cl with holds := [⟨0, ⟨0, 0, 0⟩, 1, 0⟩] } }

theorem held_bank : heldState.bankHeld [⟨spLoc 0 0 0, 8⟩] (some (heldState.cid, heldState.cur)) = true := by
  have hb : bankOf 0 = 0 := by simp [bankOf]
  have h : ∀ w ∈ wordsOf (spLoc 0 0 0 % 2 ^ 17) 8, (0 == bankOf w) = true := fun w hw => by
    have : w = 0 := by revert w; decide
    rw [this, hb]; rfl
  unfold State.bankHeld
  refine List.any_eq_true.mpr ⟨_, List.mem_singleton_self _, (Bool.and_eq_true _ _).mpr ⟨by decide, List.any_eq_true.mpr ⟨⟨0, ⟨0, 0, 0⟩, 1, 0⟩, by decide, ?_⟩⟩⟩
  exact (Bool.and_eq_true _ _).mpr ⟨by decide, List.any_eq_true.mpr ⟨0, by decide, h 0 (by decide)⟩⟩

theorem wit_access_checks :
    (∃ (s : State) (o : LdaX), Clear s (o.d :: regsX o.base o.ix o.body) ∧ (s.eaX o.base o.ix o.body).toNat + 2 ^ o.sz.toNat = 2 ^ 48 + 1) ∧
    (∃ (s : State) (o : LdaX), Clear s (o.d :: regsX o.base o.ix o.body) ∧ (s.eaX o.base o.ix o.body).toNat + 2 ^ o.sz.toNat ≤ 2 ^ 48 ∧
      (s.eaX o.base o.ix o.body).toNat % 2 ^ o.sz.toNat ≠ 0) ∧
    (∃ (s : State) (o : FeX), Clear s (o.d :: regsX o.base o.ix o.body) ∧ (s.eaX o.base o.ix o.body).toNat % 8 = 0 ∧ spaceOf (s.eaX o.base o.ix o.body).toNat = .paged) ∧
    (∃ (s : State) (o : AtO), Clear s [o.d, o.base, o.src] ∧ (s.g o.base).toNat % 2 ^ o.sz.toNat = 0 ∧ spaceOf (s.g o.base).toNat = .cq) ∧
    (∃ (s : State) (o : CaspO), Clear s [o.d, o.d + 1, o.base, o.src, o.src + 1] ∧ (s.g o.base).toNat % 16 = 0 ∧ spaceOf (s.g o.base).toNat = .ls) ∧
    (∃ (s : State) (o : LdM), Clear s [o.d, o.base] ∧ spaceOf (s.eaM o.base o.sz o.off).toNat ≠ spaceOf ((s.eaM o.base o.sz o.off).toNat + 2 ^ o.sz.toNat - 1)) ∧
    (∃ (s : State) (o : LdM), Clear s [o.d, o.base] ∧ s.th.mode = true ∧ s.NoTarget (s.eaM o.base o.sz o.off).toNat) ∧
    (∃ (s : State) (o : LdM), Clear s [o.d, o.base] ∧ s.th.mode = false ∧ s.NoTarget (s.eaM o.base o.sz o.off).toNat) ∧
    (∃ (s : State) (o : LdM), let n := (s.eaM o.base o.sz o.off).toNat
      Clear s [o.d, o.base] ∧ ¬ s.NoTarget n ∧ spaceOf n = .peer ∧ spaceOf (n + 2 ^ o.sz.toNat - 1) = .peer ∧ bits n 34 6 = 0 ∧ (s.route s.th.ctx (bits n 17 17)).1 = 2) ∧
    (∃ (s : State) (o : StM) (c b : BitVec 8), let n := (s.eaM o.base o.sz o.off).toNat
      Clear s [o.d, o.base] ∧ spaceOf n = .paged ∧ s.xlate s.me { w := true } n = (.fault c b, s)) ∧
    (∃ (s : State) (o : LdM), let n := (s.eaM o.base o.sz o.off).toNat
      Clear s [o.d, o.base] ∧ spaceOf n = .paged ∧ (s.xlate s.me { w := false } n).1 = .miss) ∧
    (∃ (s : State) (o : StM), let n := (s.eaM o.base o.sz o.off).toNat
      Clear s [o.d, o.base] ∧ spaceOf n = .paged ∧ (s.xlate s.me { w := true } n).1 = .miss) ∧
    (∃ (s : State) (o : AtO) (ps : List Part), Clear s [o.d, o.base, o.src] ∧ s.find s.me { w := true } (s.g o.base).toNat (2 ^ o.sz.toNat) = (.parts ps, s) ∧
      ∃ p ∈ ps, isHost p.loc = true) ∧
    (∃ (s : State) (o : LdM) (ps : List Part), Clear s [o.d, o.base] ∧ s.find s.me {} (s.eaM o.base o.sz o.off).toNat (2 ^ o.sz.toNat) = (.parts ps, s) ∧
      s.core.dbg.wp = Vector.replicate 2 0 ∧ s.bankHeld ps (some (s.cid, s.cur)) = true) ∧
    (∃ (s : State) (o : LdM) (loc : Nat), Clear s [o.d, o.base] ∧ s.find s.me {} (s.eaM o.base o.sz o.off).toNat (2 ^ o.sz.toNat) = (.parts [⟨loc, 2 ^ o.sz.toNat⟩], s) ∧
      s.core.dbg.wp = Vector.replicate 2 0 ∧ s.bankHeld [⟨loc, 2 ^ o.sz.toNat⟩] (some (s.cid, s.cur)) = false ∧ s.near [⟨loc, 2 ^ o.sz.toNat⟩] = true ∧
      s.badRange loc (2 ^ o.sz.toNat) = true ∧ s.th.poisoned = false) := by
  have c : ∀ (s : State) (regs : List Reg), Ready s regs → s.th.sb = [] → s.th.fstWaits = false → Clear s regs := fun _ _ h i j => ⟨h, i, j⟩
  refine ⟨⟨withThread (runner.setG 9 0xFFFFFFFFFFF8), ⟨31, 9, 3, 0, 0, 0, 0, 1⟩, c _ _ (readyNow rfl rfl (by decide)) rfl rfl, by decide⟩,
    ⟨withThread (runner.setG 9 0xFFFFFFFFFFF8), ⟨31, 9, 2, 0, 0, 0, 0, 3⟩, c _ _ (readyNow rfl rfl (by decide)) rfl rfl, by decide⟩,
    ⟨w1, ⟨31, 6, 0, 0, 0, 0⟩, c _ _ (readyNow rfl rfl (by decide)) rfl rfl, by decide⟩,
    ⟨absentState, ⟨31, 10, 7, 3, 0, 0, 0, 0⟩, c _ _ (readyNow rfl rfl (by decide)) rfl rfl, by decide⟩,
    ⟨w1, ⟨30, 5, 8, 0, 0, 0, 0⟩, c _ _ (readyNow rfl rfl (by decide)) rfl rfl, by decide⟩,
    ⟨withThread (runner.setG 9 0xEFFFFFFFFFFC), ⟨31, 9, 3, 0, 0⟩, c _ _ (readyNow rfl rfl (by decide)) rfl rfl, by decide⟩,
    ⟨withThread { runner.setG 9 0xF00000003000 with mode := true }, ⟨31, 9, 3, 0, 0⟩, c _ _ (readyNow rfl rfl (by decide)) rfl rfl, rfl, .inr (.inr (.inr (.inl (by decide))))⟩,
    ⟨withThread (runner.setG 9 0xF00000002000), ⟨31, 9, 3, 0, 0⟩, c _ _ (readyNow rfl rfl (by decide)) rfl rfl, rfl, .inr (.inr (.inr (.inl (by decide))))⟩,
    ⟨absentState, ⟨31, 9, 3, 0, 0⟩, c _ _ (readyNow rfl rfl (by decide)) rfl rfl, by unfold State.NoTarget; decide +kernel, by decide +kernel⟩,
    ⟨withThread { addrs with got := [⟨false, 0, .fault 6 2 none⟩] }, ⟨7, 6, 3, 0⟩, 6, 2, c _ _ (readyNow rfl rfl (by decide)) rfl rfl, by decide, rfl⟩,
    ⟨withThread (runner.setG 9 0x1000), ⟨31, 9, 3, 0, 0⟩, c _ _ (readyNow rfl rfl (by decide)) rfl rfl, by decide, rfl⟩,
    ⟨withThread (runner.setG 9 0x1000), ⟨31, 9, 3, 0⟩, c _ _ (readyNow rfl rfl (by decide)) rfl rfl, by decide, rfl⟩,
    ⟨hostState, ⟨1, 6, 7, 3, 1, 0, 0, 0⟩, [⟨2 ^ 49 + 0x800, 8⟩], c _ _ (readyNow rfl rfl (by decide)) rfl rfl, rfl, by decide⟩,
    ⟨heldState, ⟨31, 9, 3, 0, 0⟩, [⟨spLoc 0 0 0, 8⟩], c _ _ (readyNow rfl rfl (by decide)) rfl rfl, rfl, rfl, held_bank⟩,
    ⟨{ w1 with badWords := [lsLoc 0 0 0 0x100] }, ⟨31, 5, 3, 0, 0⟩, lsLoc 0 0 0 0x100, c _ _ (readyNow rfl rfl (by decide)) rfl rfl, rfl, rfl, by decide⟩⟩

/-- `ldff` finds its word empty. -/
theorem wit_full_waits : ∃ (s : State) (ea : Word) (loc : Nat) (p : LdffM) (q : LdffX), p = ⟨31, 5, 0⟩ ∧ q = ⟨31, 5, 1, 0, 0, 0⟩ ∧
    (Memory.wf s.mem = true ∧ s.th.fstWaits = false ∧ s.Unlisted ∧ Plain loc ∧ s.th.poisoned = false) ∧ s.th.sb = [] ∧ s.feWait = [] ∧
    Passes s ea 8 8 true [⟨loc, 8⟩] ∧ Passes s ea 8 8 false [⟨loc, 8⟩] ∧ isFeAddr ea.toNat = true ∧ s.badRange loc 8 = false ∧ s.isFull loc = false ∧ s.remoteFull loc = false ∧
    Ready s [p.d, p.base] ∧ ea = s.eaM p.base 3 p.off ∧ Ready s (q.d :: regsX q.base q.ix q.body) ∧ ea = s.eaX q.base q.ix q.body :=
  ⟨w1, 0xF00000000100, lsLoc 0 0 0 0x100, _, _, rfl, rfl, by decide, rfl, rfl, Passes.mk (by decide) (by decide) rfl rfl (by decide), Passes.mk (by decide) (by decide) rfl rfl (by decide), by decide,
    by decide, by decide, by decide, readyNow rfl rfl (by decide), by decide, readyNow rfl rfl (by decide), by decide⟩

/-- Slot 2 waits for the word at 0x100 of the local store, which is full or empty. -/
def feState (kind : BitVec 3) (full : Bool) (more : List FeWaiter) : State :=
  let s := { w1 with full := if full then [lsLoc 0 0 0 0x100] else [] }
  { s with feWait := ⟨lsLoc 0 0 0 0x100, ⟨0, 0, 0⟩, 2, kind, 9, 77, 0x100, false⟩ :: more
           core := s.core.setTh 2 { addrs with status := .parked, park := .fullEmpty (lsLoc 0 0 0 0x100) } }

/-- A later `ldfe` of slot 1 on the word. -/
def later : FeWaiter := ⟨lsLoc 0 0 0 0x100, ⟨0, 0, 0⟩, 1, 0, 10, 0, 0x100, false⟩

theorem wit_full_empty_waiters :
    ∀ q ∈ [((0 : BitVec 3), false, [later]), (1, false, []), (0, true, [later]), (2, true, [])], ∃ (s : State) (ea : Word) (loc : Nat) (k : Fin 4) (w : FeWaiter) (rest : List FeWaiter)
      (o : FeX) (m : FesetM) (x : FesetX), o = ⟨31, 5, 1, 0, 0, 0⟩ ∧ m.base = 5 ∧ x.base = 5 ∧ m.val.toNat = (if q.1 = 0 then 1 else 0) ∧ x.val = m.val ∧ w.kind = q.1 ∧
      Memory.wf s.mem = true ∧ s.th.sb = [] ∧ s.th.fstWaits = false ∧ s.Unlisted ∧ Plain loc ∧ s.th.poisoned = false ∧ Passes s ea 8 8 true [⟨loc, 8⟩] ∧ isFeAddr ea.toNat = true ∧
      s.badRange loc 8 = false ∧ s.feWait = w :: rest ∧ (∀ x ∈ s.waitaQ, x.at_ = s.cid → x.slot ≠ k) ∧ w.word = loc ∧ w.at_ = s.cid ∧ w.slot = k ∧ k ≠ s.cur ∧ w.d.toNat < 32 ∧
      s.bankHeld [⟨loc, 8⟩] (some (s.cid, k)) = false ∧ Ready s (o.d :: regsX o.base o.ix o.body) ∧ ea = s.eaX o.base o.ix o.body ∧ s.isFull loc = q.2.1 ∧
      Ready s [m.base] ∧ ea = s.eaM m.base 3 m.off ∧ Ready s (regsX x.base x.ix x.body) ∧ ea = s.eaX x.base x.ix x.body ∧
      (w.kind = 0 → ∀ x ∈ rest, x.word = loc → x.kind = 0 ∨ x.kind = 1) ∧ (w.kind = 1 → ∀ x ∈ rest, x.word ≠ loc) ∧ (w.kind = 2 → ∀ x ∈ rest, x.word = loc → x.kind = 2) := by
  intro q hq
  simp only [List.mem_cons, List.not_mem_nil, or_false] at hq
  rcases hq with rfl | rfl | rfl | rfl
  · exact ⟨feState 0 false [later], 0xF00000000100, lsLoc 0 0 0 0x100, 2, _, _, _, ⟨1, 5, 0⟩, ⟨1, 5, 0, 0⟩, rfl, rfl, rfl, rfl, rfl, rfl, by decide, rfl, rfl, by decide, by decide, rfl,
      Passes.mk (by decide) (by decide) rfl rfl (by decide), by decide, by decide, rfl, by decide, rfl, rfl, rfl, by decide, by decide, by decide, readyNow rfl rfl (by decide), by decide, by decide,
      readyNow rfl rfl (by decide), by decide, readyNow rfl rfl (by decide), by decide, by decide, by decide, by decide⟩
  · exact ⟨feState 1 false [], 0xF00000000100, lsLoc 0 0 0 0x100, 2, _, _, _, ⟨0, 5, 0⟩, ⟨0, 5, 0, 0⟩, rfl, rfl, rfl, rfl, rfl, rfl, by decide, rfl, rfl, by decide, by decide, rfl,
      Passes.mk (by decide) (by decide) rfl rfl (by decide), by decide, by decide, rfl, by decide, rfl, rfl, rfl, by decide, by decide, by decide, readyNow rfl rfl (by decide), by decide, by decide,
      readyNow rfl rfl (by decide), by decide, readyNow rfl rfl (by decide), by decide, by decide, by decide, by decide⟩
  · exact ⟨feState 0 true [later], 0xF00000000100, lsLoc 0 0 0 0x100, 2, _, _, _, ⟨1, 5, 0⟩, ⟨1, 5, 0, 0⟩, rfl, rfl, rfl, rfl, rfl, rfl, by decide, rfl, rfl, by decide, by decide, rfl,
      Passes.mk (by decide) (by decide) rfl rfl (by decide), by decide, by decide, rfl, by decide, rfl, rfl, rfl, by decide, by decide, by decide, readyNow rfl rfl (by decide), by decide, by decide,
      readyNow rfl rfl (by decide), by decide, readyNow rfl rfl (by decide), by decide, by decide, by decide, by decide⟩
  · exact ⟨feState 2 true [], 0xF00000000100, lsLoc 0 0 0 0x100, 2, _, _, _, ⟨0, 5, 0⟩, ⟨0, 5, 0, 0⟩, rfl, rfl, rfl, rfl, rfl, rfl, by decide, rfl, rfl, by decide, by decide, rfl,
      Passes.mk (by decide) (by decide) rfl rfl (by decide), by decide, by decide, rfl, by decide, rfl, rfl, rfl, by decide, by decide, by decide, readyNow rfl rfl (by decide), by decide, by decide,
      readyNow rfl rfl (by decide), by decide, readyNow rfl rfl (by decide), by decide, by decide, by decide, by decide⟩

/-- Units that are started, and units with no record, for every configuration instruction that refuses them. -/
theorem wit_stream_refusals :
    (∃ s : State, (∀ u < 3, (s.th.unit u).cfg.go = true) ∧ Ready s [5, 6] ∧
      ∃ (b : SbindO) (d : SdimR) (w : SdimW) (x : SidxR) (y : SidxW) (r : SdirO) (c : ScoordO) (e : SetO),
        b.a = 5 ∧ d.a = 5 ∧ d.b = 6 ∧ x.a = 5 ∧ y.a = 6 ∧ c.a = 5 ∧ c.b = 6 ∧ b.u = 0 ∧ d.u = 1 ∧ w.u = 2 ∧ x.u = 0 ∧ y.u = 1 ∧ r.u = 2 ∧ c.u = 0 ∧ e = ⟨0, 1, 2, 0⟩) ∧
    (∃ s : State, (∀ u < 3, (s.th.unit u).cfg.kind = 0) ∧ Ready s [5, 6]) ∧
    (∃ (s : State) (o : SdimR), o = ⟨1, 5, 6, 2⟩ ∧ (s.th.unit o.u.toNat).cfg.kind = 2 ∧ Ready s [o.a, o.b]) ∧
    (∃ (s : State) (o : SetO), o = ⟨2, 0, 1, 1⟩ ∧ Ready s [] ∧ (s.th.unit 0).cfg.kind = 1 ∧ (s.th.unit 1).cfg.esz.toNat < 2) :=
  ⟨⟨withUnits { cfg := { affine with go := true } } { cfg := { affine with go := true } } { cfg := { affine with go := true } }, by decide, readyNow rfl rfl (by decide),
      ⟨0, 5, 1, 0, 3, 0⟩, ⟨1, 5, 6, 0⟩, ⟨2, 0, 0, 0⟩, ⟨0, 5, 0, 0⟩, ⟨1, 6, 0, 0, 0⟩, ⟨2, 0, 0⟩, ⟨0, 5, 6, 0, 0⟩, ⟨0, 1, 2, 0⟩, by decide⟩,
   ⟨w1, by decide, readyNow rfl rfl (by decide)⟩, ⟨withUnits {} { cfg := gatherRec } {}, _, rfl, rfl, readyNow rfl rfl (by decide)⟩,
   ⟨withUnits { cfg := affine } { cfg := { affine with esz := 1 } } {}, _, rfl, readyNow rfl rfl (by decide), rfl, by decide⟩⟩

/-- A coordinate pattern over slot 3's volume, and an intersection of units 0 and 1. -/
def coordRec : StreamRec := { kind := 6, dims := 2, aux := 3#128 <<< 64 }
def setRec : StreamRec := { kind := 4, esz := 3, aux := 4 }

def coordState (v : BitVec 256) (r : StreamRec := coordRec) : State := withThread { addrs with coord := addrs.coord.set 3 v, units := #v[{ cfg := r }, {}, {}] }

theorem wit_stream_starts :
    (∃ (s : State) (o : Units), o.m = 1#3 <<< 0 ∧ Ready s [] ∧ (s.th.unit 0).cfg.go = true) ∧
    (∃ (s : State) (o : Units), o.m = 1#3 <<< 0 ∧ Ready s [] ∧ (s.th.unit 0).cfg.go = false ∧ s.th.inHandler = true ∧ s.th.startFails 0 = 0 ∧ isOutput (s.th.unit 0).cfg = false) ∧
    (∃ (s : State) (o : Units), o.m = 1#3 <<< 0 ∧ Ready s [] ∧ (let r := (s.th.unit 0).cfg
      r.go = false ∧ s.th.inHandler = false ∧ r.leg = false ∧ r.kind = 6 ∧ volOn (s.th.vol r.cslot) = true)) ∧
    (∀ k : BitVec 3, k = 4 ∨ k = 5 → ∃ (s : State) (o : Units), o.m = 1#3 <<< 2 ∧ Ready s [] ∧ (let r := (s.th.unit 2).cfg
      r.go = false ∧ s.th.inHandler = false ∧ r.leg = false ∧ r.kind = k ∧ r.legA < 3 ∧ r.legB < 3 ∧ r.legA ≠ r.legB ∧ r.legA ≠ 2 ∧ r.legB ≠ 2 ∧
      (∀ l ∈ [r.legA, r.legB], (s.th.unit l).cfg.leg = true ∧ (s.th.unit l).cfg.kind = 1))) ∧
    (∀ r ∈ [({} : StreamRec), { affine with leg := true }, setRec, coordRec], ∃ (s : State) (o : Units), o.m = 1#3 <<< 0 ∧ Ready s [] ∧ (s.th.unit 0).cfg = r ∧ r.go = false ∧
      (r.kind = 0 ∨ r.leg = true ∨ (r.kind = 4 ∨ r.kind = 5) ∧ ((s.th.unit r.legA).cfg.leg = false ∨ (s.th.unit r.legB).cfg.leg = false) ∨
        r.kind = 6 ∧ volOn (s.th.vol r.cslot) = false)) ∧
    (∃ (s : State) (o : Units), o.m = 1#3 <<< 0 ∧ Ready s [] ∧ (let r := (s.th.unit 0).cfg
      r.go = false ∧ r.kind = 3 ∧ r.leg = false ∧ spaceOf r.addr.toNat ∈ [Space.paged, .cq, .none])) ∧
    (∃ (s : State) (o : Units), o.m = (1#3 <<< 0 ||| 1#3 <<< 2) ∧ Ready s [] ∧ (s.th.unit 0).cfg.go = false ∧ s.th.startFails 0 = 0 ∧ isOutput (s.th.unit 0).cfg = false ∧
      (s.th.unit 2).cfg.go = false ∧ (s.th.unit 2).cfg.kind = 0) ∧
    (∃ (s : State) (o : Units), o.m = 1#3 <<< 2 ∧ Ready s [] ∧ isOutput (s.th.unit 2).cfg = true ∧ s.th.rep.act = false ∧ s.th.fq = []) := by
  refine ⟨⟨withUnits { cfg := { affine with go := true } } {} {}, ⟨1⟩, rfl, readyNow rfl rfl (by decide), rfl⟩,
    ⟨withThread { addrs with lh := true, units := #v[{ cfg := affine }, {}, {}] }, ⟨1⟩, rfl, readyNow rfl rfl (by decide), by decide⟩,
    ⟨coordState aVolume, ⟨1⟩, rfl, readyNow rfl rfl (by decide), by decide⟩,
    fun k h => ⟨withUnits { cfg := { affine with leg := true } } { cfg := { affine with leg := true } } { cfg := { setRec with kind := k } }, ⟨4⟩, rfl, readyNow rfl rfl (fun _ h => by cases h), ?_⟩,
    fun r h => ⟨coordState 0 r, ⟨1⟩, rfl, readyNow rfl rfl (fun _ h => by cases h), rfl, by revert r; decide, ?_⟩,
    ⟨withUnits { cfg := { ringRec with addr := 0x800 } } {} {}, ⟨1⟩, rfl, readyNow rfl rfl (by decide), by decide⟩,
    ⟨withUnits { cfg := affine } {} {}, ⟨5⟩, rfl, readyNow rfl rfl (by decide), by decide⟩,
    ⟨withUnits { cfg := { affine with leg := true } } { cfg := { affine with leg := true } } { cfg := setRec }, ⟨4⟩, rfl, readyNow rfl rfl (by decide), by decide, rfl, rfl⟩⟩
  · rcases h with rfl | rfl <;> decide
  · simp only [List.mem_cons, List.not_mem_nil, or_false] at h
    rcases h with rfl | rfl | rfl | rfl <;> decide

/-- A fault recorded for the element that is next. -/
theorem wit_recorded_fault : ∃ (s : State) (u : BitVec 2) (f : ElemFault), u.toNat < 3 ∧ (let x := s.th.unit u.toNat
    s.reads u.toNat (fun _ => true) = true ∧ x.cfg.done = false ∧ x.fetched = [] ∧ x.consumed = 0 ∧ x.cfg.kind = 1 ∧ x.faulted = some (x.cfg.position, f)) :=
  ⟨withUnits { live affine with faulted := some (1, ⟨6, 1, 0x108, false⟩) } {} {}, 0, ⟨6, 1, 0x108, false⟩, by decide, by rfl, by decide⟩

/-- v3 to v9 as special operands: 1, -1, the least number, the infinities, a signalling NaN, 0; v10 is FP32's 1. -/
def sfuThread : Thread :=
  (((((((addrs.setV 3 0x3FF0000000000000).setV 4 0xBFF0000000000000).setV 6 0x7FF0000000000000).setV 7 0xFFF0000000000000).setV 8 0x7FF0000000000001).setV 9 0).setV 10 0x3F800000).setV 11 0xFF800000

theorem wit_special_values :
    let s := withThread sfuThread
    let lane := fun (pr : BitVec 2) (a b : Reg) => (fpLanes pr (s.th.vreg a.toNat) (s.th.vreg b.toNat)).headD (0, 0, 0, 0)
    FIdle s ∧ FRegs [3, 4, 6, 7, 8, 9, 10, 11] ∧ fpZero 11 52 (lane 0 9 9).2.2.1 = true ∧ fpInf 11 52 (lane 0 7 9).2.2.1 = true ∧ fpNeg 11 52 (lane 0 4 9).2.2.1 = true ∧
      fpNan 11 52 (lane 0 8 9).2.2.1 = true ∧ fpInf 11 52 (lane 0 3 6).2.2.2 = true ∧ fpZero 11 52 (lane 0 3 9).2.2.2 = true ∧
      (s.th.vreg 10).toNat % 2 ^ 32 = fpOne 8 23 ∧ fpInf 8 23 ((s.th.vreg 11).toNat % 2 ^ 32) = true ∧ fpNeg 8 23 ((s.th.vreg 11).toNat % 2 ^ 32) = true ∧
      fpZero 8 23 ((s.th.vreg 9).toNat % 2 ^ 32) = true :=
  ⟨by constructor <;> first | rfl | decide, by unfold FRegs; decide, by decide +kernel⟩

/-- A reciprocal of `v5` in `v4`, and the same in slot 1 behind it. -/
def rcpEntry (ring : BitVec 5) (st : FState) : FEntry := { ring := ring, raw := { op := 0xA0, d := 4, a := 5 }, x := 0, pc := 2, bound := 0, st := st }

theorem wit_special_order :
    (∃ (s : State) (older rest : List FEntry) (e : FEntry), splitIssued s.th.fq = (older, e :: rest) ∧ e.raw.special = true ∧ e.pops = [] ∧ e.pushes = none ∧ s.th.bad = [] ∧
      s.th.badEntry = false ∧ s.fReady s.cur = true ∧ s.fNext = some (s.cur - s.core.fPtr)) ∧
    (∃ (s : State) (i j : Fin 4) (x y : FEntry) (r q : FResult), i ≠ j ∧ s.core.sfuQ = [(i, x.ring), (j, y.ring)] ∧ (s.core.th i).fq = [x] ∧ (s.core.th j).fq = [y] ∧
      x.st = .sfuQueued r ∧ y.st = .sfuQueued q) :=
  ⟨⟨withThread { addrs with fq := [rcpEntry 0 .waiting], next := 1 }, [], [], _, rfl, by decide, by decide, by decide, rfl, rfl, by decide +kernel, by decide +kernel⟩,
   ⟨let s := withThread { addrs with fq := [rcpEntry 0 (.sfuQueued {})], next := 1 }
    { s with core := { s.core.setTh 1 { addrs with fq := [rcpEntry 3 (.sfuQueued { flags := 1 })], next := 4 } with sfuQ := [(0, 0), (1, 3)] } },
    0, 1, rcpEntry 0 (.sfuQueued {}), rcpEntry 3 (.sfuQueued { flags := 1 }), {}, { flags := 1 }, by decide, rfl, rfl, rfl, rfl, rfl⟩⟩

/-- `recv` into `g0` and the registers behind it, without a header. -/
theorem wit_recv_zero : ∃ (s : State) (d a : Reg) (cls : BitVec 2) (m : Msg) (rest : List Msg), d = 0 ∧ a = 0 ∧ d.toNat < 29 ∧ a.toNat < 32 ∧
    (a = 0 ∨ a.toNat < d.toNat ∨ d.toNat + 3 < a.toNat) ∧ Ready s [a, d, d + 1, d + 2, d + 3] ∧ s.ownClass cls = true ∧ inboxOf s.core cls = m :: rest :=
  ⟨netState addrs fun k => { k with inbox := #v[[aMsg 0], [], [], []] }, 0, 0, 0, aMsg 0, [], rfl, rfl, by decide, by decide, .inl rfl, readyNow rfl rfl (by decide), by decide, rfl⟩

/-- No transfer may have the address in `QHPC`: the first byte of a line, an odd one, one of a window. -/
theorem wit_bad_light_handler : ∀ q ∈ [(0x40 : BitVec 48), 0x43, 0xF00000000002], ∃ (u : State) (f : FEntry) (p : Nat) (x : QWord),
    u.th.status = .ready ∧ u.th.lh = false ∧ u.core.lets u.cur = true ∧ Enterable u ∧ u.th.fq = [f] ∧ u.controlPort f = some p ∧ (u.core.port u.cur p).head = some x ∧
    u.th.qhpc = q ∧ (u.th.qhpc.toNat % 64 = 0 ∨ u.th.qhpc.toNat % 2 = 1 ∨ spaceOf u.th.qhpc.toNat ≠ .paged) := by
  intro q h
  refine ⟨portState { addrs with fq := [westEntry], next := 1, qhpc := q }, westEntry, 3, ⟨9, true⟩, rfl, rfl, rfl, ⟨rfl, ?_, rfl⟩, rfl, rfl, rfl, rfl, ?_⟩
  · intro e he
    rw [List.mem_singleton.mp (he : e ∈ [westEntry])]; rfl
  · simp only [List.mem_cons, List.not_mem_nil, or_false] at h
    rcases h with rfl | rfl | rfl
    · exact .inl (by decide)
    · exact .inr (.inl (by decide))
    · exact .inr (.inr (by decide))

/-- `v7` holds -2^-1074 in the last member, and the others have contributed 1 and -0; and an AND. -/
def realState (key : Nat) : State :=
  groupState [mem 0 .idle (given 0 key 0x3FF0000000000000), mem 1, mem 2 .idle (given 0 key 0x8000000000000000)] (addrs.setV 7 0x8000000000000001)

theorem real_values : (∀ v ∈ [(0x3FF0000000000000 : Word), 0x8000000000000001, 0x8000000000000000], fp64Fin v) ∧
    InRange64 ([(0x3FF0000000000000 : Word), 0x8000000000000001, 0x8000000000000000].foldl (fun n v => n + fp64Int v) 0) 1 ∧
    (∀ v ∈ [(0x3FF0000000000000 : Word), 0x8000000000000001, 0x8000000000000000], fpNan 11 52 v.toNat = false) := by
  refine ⟨fun v hv => ?_, by unfold InRange64; decide +kernel, fun v hv => ?_⟩ <;> simp only [List.mem_cons, List.not_mem_nil, or_false] at hv <;>
    rcases hv with rfl | rfl | rfl <;> first | decide +kernel | (unfold fp64Fin; decide +kernel)

theorem wit_float_reductions : ∀ op < 5, ∃ (s : State) (d a : BitVec 6) (gm : BitVec 2) (g : Group) (i : Nat) (m : Member), d = 47 ∧ a = 7 ∧ d.toNat < 48 ∧ a.toNat < 48 ∧
    Ready s [] ∧ InGroup s gm g i m ∧ s.th.sb = [] ∧ FIdle s ∧ m.col = .idle ∧
    (let own : Contribution := { what := 0, key := op + 16, val := s.th.vreg a.toNat }
     (∀ j x, g.members[j]? = some x → j ≠ i → ∃ v, x.col = .contributed { own with val := v }) ∧
     (let vs := (g.members.set i { m with col := .contributed own }).filterMap fun x => x.contribution.map (·.val)
      (∀ v ∈ vs, fp64Fin v) ∧ InRange64 (vs.foldl (fun n v => n + fp64Int v) 0) 1 ∧ (∀ v ∈ vs, fpNan 11 52 v.toNat = false))) := by
  intro op hop
  refine ⟨realState (op + 16), 47, 7, 3, ⟨0, 0, [mem 0 .idle (given 0 (op + 16) 0x3FF0000000000000), mem 1, mem 2 .idle (given 0 (op + 16) 0x8000000000000000)], 0xFFFFFFFF⟩, 1, mem 1, rfl, rfl,
    by decide, by decide, readyNow rfl rfl (fun _ h => by cases h), ?_, rfl, ?_, rfl, fun j x hj hi => ?_, ?_⟩
  · obtain rfl | rfl | rfl | rfl | rfl : op = 0 ∨ op = 1 ∨ op = 2 ∨ op = 3 ∨ op = 4 := by omega
    all_goals exact ⟨rfl, rfl, by decide, rfl, rfl, rfl⟩
  · obtain rfl | rfl | rfl | rfl | rfl : op = 0 ∨ op = 1 ∨ op = 2 ∨ op = 3 ∨ op = 4 := by omega
    all_goals constructor <;> first | rfl | decide
  · match j, hj with
    | 0, hj => cases hj; exact ⟨_, rfl⟩
    | 1, _ => exact absurd rfl hi
    | 2, hj => cases hj; exact ⟨_, rfl⟩
  · have e : ((⟨0, 0, [mem 0 .idle (given 0 (op + 16) 0x3FF0000000000000), mem 1, mem 2 .idle (given 0 (op + 16) 0x8000000000000000)], 0xFFFFFFFF⟩ : Group).members.set 1
        { mem 1 with col := .contributed { what := 0, key := op + 16, val := (realState (op + 16)).th.vreg (7 : BitVec 6).toNat } }).filterMap
          (fun x => x.contribution.map (·.val)) = [0x3FF0000000000000, 0x8000000000000001, 0x8000000000000000] := rfl
    dsimp only
    rw [e]
    exact real_values

/-- The members do not agree: another OP, another instruction, another root; a root that is no member. -/
theorem wit_group_disagreement :
    (∀ c ∈ [(0, 1), (1, 0), (2, 0)], ∃ (s : State) (o : GredR) (g : Group) (i : Nat) (m : Member), o.file = 0 ∧ o.ty = 0 ∧ o.d.toNat < 32 ∧ Ready s [o.d, o.a] ∧ InGroup s o.gm g i m ∧
      s.th.sb = [] ∧ s.th.fstWaits = false ∧ m.col = .idle ∧ (∀ j x, g.members[j]? = some x → j ≠ i → ∃ c, x.col = .contributed c) ∧
      ∃ j x d, g.members[j]? = some x ∧ j ≠ i ∧ x.col = .contributed d ∧ (d.what, d.key) = c ∧ (d.what ≠ 0 ∨ d.key ≠ 8 * o.ty.toNat)) ∧
    (∃ (s : State) (o : GcastX) (g : Group) (i : Nat) (m : Member), o.file = 0 ∧ s.g o.c = 3 ∧ o.d.toNat < 32 ∧ Ready s [o.c, o.d, o.a] ∧ InGroup s o.gm g i m ∧
      s.th.sb = [] ∧ s.th.fstWaits = false ∧ m.col = .idle ∧ (∀ j x, g.members[j]? = some x → j ≠ i → ∃ c, x.col = .contributed c) ∧
      (let key := 32 * ((s.g o.c).toNat % 2 ^ 20)
       g.members.length ≤ key / 32 ∧ ∀ j x c, g.members[j]? = some x → j ≠ i → x.col = .contributed c → c.what = 1 ∧ c.key = key)) := by
  refine ⟨fun c hc => ⟨groupState [mem 0 .idle (given c.1 c.2 4), mem 1, mem 2 .idle (given 0 0 5)], ⟨31, 7, 3, 0, 0⟩, _, 1, mem 1, rfl, rfl, by decide,
      readyNow rfl rfl (fun r _ => Bool.and_false _), inGroup _ _ rfl, rfl, rfl, rfl, fun j x hj hi => ?_, 0, _, _, rfl, by decide, rfl, rfl, ?_⟩,
    ⟨groupState [mem 0 .idle (given 1 96 4), mem 1, mem 2 .idle (given 1 96 5)] (addrs.setG 9 3), ⟨31, 7, 9, 3, 0⟩, _, 1, mem 1, rfl, by decide, by decide, readyNow rfl rfl (by decide),
      ⟨rfl, rfl, by decide, rfl, rfl, rfl⟩, rfl, rfl, rfl, fun j x hj hi => ?_, by decide, fun j x c hj hi hc => ?_⟩⟩
  · match j, hj with
    | 0, hj => cases hj; exact ⟨_, rfl⟩
    | 1, _ => exact absurd rfl hi
    | 2, hj => cases hj; exact ⟨_, rfl⟩
  · simp only [List.mem_cons, List.not_mem_nil, or_false] at hc
    rcases hc with rfl | rfl | rfl
    · exact .inr (by decide)
    · exact .inl (by decide)
    · exact .inl (by decide)
  · match j, hj with
    | 0, hj => cases hj; exact ⟨_, rfl⟩
    | 1, _ => exact absurd rfl hi
    | 2, hj => cases hj; exact ⟨_, rfl⟩
  · match j, hj with
    | 0, hj => cases hj; cases hc; exact ⟨rfl, by decide⟩
    | 1, _ => exact absurd rfl hi
    | 2, hj => cases hj; cases hc; exact ⟨rfl, by decide⟩

def counted : Contribution := { what := 2, key := 0, val := 0, counts := [1], loc := (List.range 9).map fun k => ⟨spLoc 0 0 0x40 + 16 * k, 16⟩ }

/-- The record of `gsum` goes to 0x40 of the scratchpad, by the address that member 0 gave, or gives now. -/
theorem wit_group_sum : ∀ first : Bool, ∃ (s : State) (o : GsumO) (g : Group) (i : Nat) (m : Member) (loc : Nat) (ps : List Part) (f : Nat → Contribution), o = ⟨31, 9, 3⟩ ∧
    (i = 0 ↔ first = true) ∧ o.d.toNat < 32 ∧ Ready s [o.d, o.a] ∧ InGroup s o.gm g i m ∧ s.th.sb = [] ∧ s.th.fstWaits = false ∧ s.Unlisted ∧ m.col = .idle ∧
    g.members.length ≤ 2 ^ 20 ∧ Memory.wf s.mem = true ∧ (0 < i → (f 0).loc = ps) ∧ (i = 0 → Passes s (s.g o.a) 144 16 true ps) ∧
    (∀ j x, g.members[j]? = some x → j ≠ i → x.col = .contributed (f j)) ∧ (∀ j, (f j).what = 2 ∧ (f j).key = 0) ∧
    partLocs ps = (List.range 144).map (loc + ·) ∧ s.refuses ps = none ∧ (∀ k < 144, Plain (loc + k)) := by
  intro first
  cases first
  · refine ⟨groupState [mem 0 .idle (.contributed counted), mem 1, mem 2 .idle (.contributed counted)] (addrs.setG 9 0xF10000000040), _, ⟨0, 0, [mem 0 .idle (.contributed counted), mem 1, mem 2 .idle (.contributed counted)], 0xFFFFFFFF⟩, 1, mem 1,
      spLoc 0 0 0x40, counted.loc, fun _ => counted, rfl, by decide, by decide, readyNow rfl rfl (by decide), ⟨rfl, rfl, by decide, rfl, rfl, rfl⟩, rfl, rfl, (fun _ h => by cases h), rfl, by decide,
      by decide, fun _ => rfl, (fun h => by cases h), fun j x hj hi => ?_, fun _ => ⟨rfl, rfl⟩, by decide +kernel, by decide, by decide +kernel⟩
    match j, hj with
    | 0, hj => cases hj; rfl
    | 1, _ => exact absurd rfl hi
    | 2, hj => cases hj; rfl
  · refine ⟨(groupState [mem 0, mem 1 .idle (.contributed counted), mem 2 .idle (.contributed counted)] (addrs.setG 9 0xF10000000040)).modTh fun t => { t with gmem := t.gmem.set 3 0x300000100 }, _,
      ⟨0, 0, [mem 0, mem 1 .idle (.contributed counted), mem 2 .idle (.contributed counted)], 0xFFFFFFFF⟩, 0, mem 0, spLoc 0 0 0x40, counted.loc, fun _ => counted, rfl, by decide, by decide,
      readyNow rfl rfl (by decide), ⟨rfl, rfl, by decide, by decide, rfl, rfl⟩, rfl, rfl, (fun _ h => by cases h), rfl, by decide, by decide, (fun h => by cases h),
      fun _ => Passes.mk (by decide) (by decide) rfl rfl (by decide), fun j x hj hi => ?_, fun _ => ⟨rfl, rfl⟩, by decide +kernel, by decide, by decide +kernel⟩
    match j, hj with
    | 0, _ => exact absurd rfl hi
    | 1, hj => cases hj; rfl
    | 2, hj => cases hj; rfl

/-- A command whose record has been asked for. -/
theorem wit_asked : ∃ (s : State) (o : GG) (eng : BitVec 1) (ix : BitVec 3) (slot : Fin 4) (id : Nat) (j : Job) (n : BitVec 12), o = ⟨31, 9⟩ ∧ o.d.toNat < 32 ∧ Ready s [o.d, o.a] ∧
    s.ringAt ((s.g o.a).toNat % 16) = .command eng ix slot id ∧ s.anyJob id = some j ∧ j.asked = some n ∧ (s.g o.a).toNat / 16 % 8 = 7 := by
  let s := (ringState .running).modTh fun t => t.setG 9 127
  exact ⟨{ s with cl := { s.cl with window := s.cl.window.map fun j => { j with asked := some 3 } } }, _, 1, 7, 0, 4, _, 3, rfl, by decide, readyNow rfl rfl (by decide), by decide, rfl, rfl, by decide⟩

/-- A line with one head, of an opcode with a 4-byte tail. -/
def tailLine (op : Nat) : List Byte := leBytes 2 2048 ++ leBytes 2 (op * 256 + 128) ++ List.replicate 56 0 ++ leBytes 4 0xABCDE123

/-- Data of 16 bytes, a line of text at offset 0x1000, and one symbol, whose value is V. -/
def relocObj (op v : Nat) : Obj :=
  ⟨false, 3, 0, [⟨2, 0, leBytes 8 0x1234 ++ leBytes 8 0xFEDC000000000000⟩, ⟨1, 0x1000, tailLine op⟩, ⟨6, 0, leBytes 4 0 ++ leBytes 4 0xFFFF ++ leBytes 8 v ++ leBytes 8 0⟩]⟩

def relocOf (typ : Nat) : Reloc := if typ ≤ 3 then ⟨8, 0, typ, 0, 0, 0⟩ else ⟨60, 0, typ, 1, 0, 0⟩

/-- What the statement asks of an object and a record of it, for a base of 0x4000000: V, and L for the line of text. -/
abbrev Fits (o : Obj) (r : Reloc) (v : Nat) : Prop :=
  o.fieldOk r = true ∧ 24 * (r.sym + 1) ≤ (o.all 6).length ∧ field (o.all 6) (24 * r.sym + 4) 2 = 0xFFFF ∧ (field (o.all 6) (24 * r.sym + 8) 8 + r.addend) % 2 ^ 64 = v ∧
  (r.link = 1 → (0x4000000 + (o.sect r.link).voff + r.off) / 64 * 64 = 0x4001000)

/-- Type, opcode, V, and whether it fits: at the ends of the ranges. -/
theorem wit_relocation_values :
    (∀ c ∈ [(1, 0, 2 ^ 64 - 1), (2, 0, 2 ^ 48 - 1), (2, 0, 2 ^ 48), (3, 0, 2 ^ 31 - 1), (3, 0, 2 ^ 31), (3, 0, 2 ^ 64 - 2 ^ 31), (4, 0x20, 0x4001000 + 2 ^ 31 - 1), (4, 0x20, 0x4001000 + 2 ^ 31)],
      Fits (relocObj c.2.1 c.2.2) (relocOf c.1) c.2.2 ∧ (relocOf c.1).typ = c.1) ∧
    (∀ c ∈ [(5, 0x32), (6, 0x30)], ∀ d ∈ [(-16384 : Int), 0, 16383], let v := (0x4001002 + 64 * d).toNat
      Fits (relocObj c.2 v) (relocOf c.1) v ∧ (relocOf c.1).typ = c.1 ∧ ((v / 64 % 2 ^ 42 : Nat) : Int) - ((0x4001000 / 64 % 2 ^ 42 : Nat) : Int) = d ∧ v % 64 ≠ 0 ∧ v % 2 = 0) ∧
    (∀ c ∈ [(5, 0x32), (6, 0x30)], Fits (relocObj c.2 0x4000080) (relocOf c.1) 0x4000080 ∧ 0x4000080 % 64 = 0) := by decide +kernel

/-- The header of an object: its number of sections, and where its body ends. -/
def objHead (nsect body : Nat) : List Byte :=
  leBytes 4 0x424F5856 ++ leBytes 2 1 ++ leBytes 2 0 ++ leBytes 4 3 ++ leBytes 4 0 ++ leBytes 4 nsect ++ leBytes 4 0 ++ leBytes 8 0x40 ++ leBytes 8 body ++ List.replicate 24 0

def sectEntry (kind off size : Nat) : List Byte := leBytes 4 kind ++ leBytes 4 0 ++ leBytes 8 off ++ leBytes 8 size ++ leBytes 8 0

def aReloc (typ : Nat) : List Byte := leBytes 8 8 ++ leBytes 4 0 ++ leBytes 4 typ ++ leBytes 8 0
def aSymbol : List Byte := leBytes 4 0 ++ leBytes 4 0xFFFF ++ leBytes 8 (2 ^ 48) ++ leBytes 8 0

/-- An object with 16 bytes of data, a relocation record of a type in it, and the symbol that it names; 440 bytes. -/
def dataBytes (typ : Nat) : List Byte :=
  objHead 3 344 ++ sectEntry 2 0xC0 16 ++ sectEntry 5 0x100 24 ++ sectEntry 6 0x140 24 ++ List.replicate 32 0 ++ List.replicate 16 7 ++ List.replicate 48 0 ++ aReloc typ ++
    List.replicate 40 0 ++ aSymbol ++ List.replicate 96 0

def dataObj (typ : Nat) : Obj := ⟨false, 3, 0, [⟨2, 0, List.replicate 16 7⟩, ⟨5, 0, aReloc typ⟩, ⟨6, 0, aSymbol⟩]⟩

/-- An object that is a team record; 288 bytes. -/
def teamBytes : List Byte := objHead 1 192 ++ sectEntry 4 0x80 64 ++ List.replicate 32 0 ++ List.replicate 64 9 ++ List.replicate 96 0

def teamObj : Obj := ⟨false, 3, 0, [⟨4, 0, List.replicate 64 9⟩]⟩

/-- The object stands at 0x50000000; the page at address 0 of context 0 is at 0x40004000. -/
def placeState (bs : List Byte) : State :=
  let s := withThread addrs
  { s with mem := Memory.setBytes tables 0x50000000 bs, boot := { s.boot with keys := s.boot.keys.set 0 (some []) }
           ctxs := s.ctxs.set 0 { valid := true, ptroot := 0x40000000 } }

def placeReq (n : BitVec 384) : BitVec 384 := loadReq 1 0x50000000 n 0 0x60000000

theorem no_refusal (s : State) (hw : s.badWords = []) (hb : s.badBlocks = []) (hd : s.deadDies = []) (hc : s.otherCls = []) (hf : s.cl.fenced = false) :
    ∀ a n, s.refuses [⟨a, n⟩] = none := fun a n => unrefused s _ hw hb hd fun c => by
  unfold State.clAt; split
  · exact hf
  · rw [hc]; rfl

def leafEntry : TlbEntry := ⟨0, 0, 0, 0x40004, true, true, true, true⟩

theorem placed_source (good : Bool) (h : Accepts ((dataBytes (if good then 1 else 2)).take 344)) : let typ := if good then 1 else 2
    (served1 (waiting (placeState (dataBytes typ)) (placeReq 440))).sourceObj (placeReq 440).toNat =
      (.ok (dataObj typ, dataBytes typ), served1 (waiting (placeState (dataBytes typ)) (placeReq 440))) :=
  sourced _ _ _ _ 440 0x50000000 (by decide +kernel) (by clear h; revert good; decide +kernel) (by clear h; revert good; decide +kernel) (by clear h; revert good; decide +kernel) (by clear h; revert good; decide +kernel) h

/-- One level of a walk: the entry points to a table. -/
theorem walk_table {s : State} {ctx : BitVec 4} {a : PageUse} {user : Bool} {va lvl t : Nat} (ea e next : Nat) (hr : s.badRange ea 8 = false ∧ s.read ea 8 = e)
    (h : t + 8 * bits va (12 + 9 * lvl) 9 = ea ∧ bits e 0 1 ≠ 0 ∧ pteBad e (lvl + 1) va = false ∧ ¬(lvl = 0 ∨ bits e 6 1 = 1) ∧ bits e 12 38 * 4096 = next ∧ physTarget next = true) :
    s.walkFrom ctx a user va (lvl + 1) t = s.walkFrom ctx a user va lvl next := by
  obtain ⟨h0, h2, h3, h4, h5, h6⟩ := h
  rw [State.walkFrom]
  simp only [h0, hr.1, hr.2, h2, h3, h4, h5, h6, Bool.false_eq_true, if_false, Bool.not_true]

/-- The leaf, with A and D set already. -/
theorem walk_leaf {s : State} {ctx : BitVec 4} {user : Bool} {va t : Nat} (ea e : Nat) (x : TlbEntry) (hr : s.badRange ea 8 = false ∧ s.read ea 8 = e)
    (h : t + 8 * bits va 12 9 = ea ∧ bits e 0 1 ≠ 0 ∧ pteBad e 1 va = false ∧ ptePermits e { w := true } user = true ∧ physTarget (bits e 12 38 * 4096) = true ∧
      e ||| 0x30 = e ∧ translated ctx e 1 va = x) :
    s.walkFrom ctx { w := true } user va 1 t = (.ok x, s) := by
  obtain ⟨h1, h2, h3, h4, h5, h6, h7⟩ := h
  rw [State.walkFrom]
  simp only [Nat.mul_zero, Nat.add_zero, Nat.zero_add, h1, hr.1, hr.2, h2, h3, h4, h5, h6, h7, Bool.false_eq_true, if_false, Bool.not_true, true_or, if_true]

theorem table_walk (s : State) (ht : s.ctxs[0].ptroot = 0x40000000)
    (h : (∀ a ∈ [0x40000000, 0x40001000, 0x40002000, 0x40003000], s.badRange a 8 = false) ∧ s.read 0x40000000 8 = 0x40001001 ∧ s.read 0x40001000 8 = 0x40002001 ∧
      s.read 0x40002000 8 = 0x40003001 ∧ s.read 0x40003000 8 = 0x4000403F) :
    s.pageWalk 0 { w := true } false 0 = (.ok leafEntry, s) := by
  obtain ⟨hb, h1, h2, h3, h4⟩ := h
  have w : s.walkFrom 0 { w := true } false 0 4 0x40000000 = (.ok leafEntry, s) := by
    rw [walk_table _ _ 0x40001000 ⟨hb _ (by decide), h1⟩ (by decide +kernel), walk_table _ _ 0x40002000 ⟨hb _ (by decide), h2⟩ (by decide +kernel),
      walk_table _ _ 0x40003000 ⟨hb _ (by decide), h3⟩ (by decide +kernel)]
    exact walk_leaf _ _ _ ⟨hb _ (by decide), h4⟩ (by decide +kernel)
  unfold State.pageWalk
  show (match s.walkFrom 0 { w := true } false 0 4 s.ctxs[0].ptroot with
    | (.ok e, s) => (e.checked, s)
    | r => r) = _
  rw [ht, w]
  show (leafEntry.checked, s) = _
  rw [(by decide +kernel : leafEntry.checked = .ok leafEntry)]

theorem placed_walk (good : Bool) : let typ := if good then 1 else 2
    let u := served1 (waiting (placeState (dataBytes typ)) (placeReq 440))
    let w := u.devWrite 0 (leafEntry.pa 0) (List.replicate 16 7)
    u.pageWalk 0 { w := true } false 0 = (.ok leafEntry, u) ∧ w.pageWalk 0 { w := true } false 0 = (.ok leafEntry, w) :=
  ⟨table_walk _ rfl (by revert good; decide +kernel), table_walk _ (by cases good <;> decide +kernel) (by revert good; decide +kernel)⟩

/-- A placed section whose record is good, or bad. -/
theorem wit_object_placement (h : ∀ typ, Accepts ((dataBytes typ).take 344)) (good : Bool) :
    ∃ (s u : State) (r : LoadReq) (o p : Obj) (bs : List Byte) (bad : Option Nat) (x : Sect) (e : TlbEntry), s.boot.loads = [r] ∧ requestBad r.req.toNat = false ∧ bits r.req.toNat 0 4 = 1 ∧
      State.sourceObj { s with boot := { s.boot with loads := [], judged := r.fuses } } r.req.toNat = (.ok (o, bs), u) ∧ u.revoked o = false ∧ o.tiruc = false ∧
      u.ctxs[(BitVec.ofNat 4 (bits r.req.toNat 4 4)).toNat].valid = true ∧ Memory.wf u.mem = true ∧ (∀ a n, u.refuses [⟨a, n⟩] = none) ∧ Obj.relocAll 0 o.relocs 0 o = (p, bad) ∧
      (bad = none ↔ good = true) ∧ o.sects.filter (·.placed) = [x] ∧ 0 < x.bytes.length ∧ x.bytes.length ≤ 4096 ∧ bits r.req.toNat 192 48 = 0 ∧ x.voff = 0 ∧
      (let pa := e.pa 0
       let w := u.devWrite 0 pa x.bytes
       2 ^ 30 ≤ pa ∧ pa + 4096 ≤ 2 ^ 50 ∧ isHbm pa = true ∧ u.pageWalk 0 { w := true } false 0 = (.ok e, u) ∧ w.pageWalk 0 { w := true } false 0 = (.ok e, w)) ∧
      (∀ q ∈ o.relocs, q.typ ≠ 5 ∧ q.typ ≠ 6) ∧ p.all 4 = [] := by
  refine ⟨waiting (placeState (dataBytes (if good then 1 else 2))) (placeReq 440), served1 (waiting (placeState (dataBytes (if good then 1 else 2))) (placeReq 440)),
    ⟨placeReq 440, (placeState (dataBytes (if good then 1 else 2))).boot.fuses⟩, dataObj (if good then 1 else 2), (Obj.relocAll 0 (dataObj (if good then 1 else 2)).relocs 0 (dataObj (if good then 1 else 2))).1,
    dataBytes (if good then 1 else 2), (Obj.relocAll 0 (dataObj (if good then 1 else 2)).relocs 0 (dataObj (if good then 1 else 2))).2, ⟨2, 0, List.replicate 16 7⟩,
    leafEntry, rfl, (by decide +kernel : requestBad (placeReq 440).toNat = false), (by decide +kernel : bits (placeReq 440).toNat 0 4 = 1), placed_source good (h _), ?_, ?_, ?_, ?_,
    no_refusal _ rfl rfl rfl rfl rfl, rfl, ?_, ?_, by decide, by decide, (by decide +kernel : bits (placeReq 440).toNat 192 48 = 0), rfl,
    ⟨by decide +kernel, by decide +kernel, by decide +kernel, placed_walk good⟩, ?_, ?_⟩
  all_goals (clear h; revert good; decide +kernel)

/-- A team record. -/
theorem wit_team_record (h : Accepts (teamBytes.take 192)) :
    ∃ (s u : State) (r : LoadReq) (o : Obj) (bs : List Byte), s.boot.loads = [r] ∧ requestBad r.req.toNat = false ∧ bits r.req.toNat 0 4 = 1 ∧
      State.sourceObj { s with boot := { s.boot with loads := [], judged := r.fuses } } r.req.toNat = (.ok (o, bs), u) ∧ u.revoked o = false ∧ o.tiruc = false ∧
      u.ctxs[(BitVec.ofNat 4 (bits r.req.toNat 4 4)).toNat].valid = true ∧ Memory.wf u.mem = true ∧ (∀ a n, u.refuses [⟨a, n⟩] = none) ∧ Obj.relocAll 0 o.relocs 0 o = (o, none) ∧
      o.sects.filter (·.placed) = [] ∧ (∀ q ∈ o.relocs, q.typ ≠ 5 ∧ q.typ ≠ 6) ∧ (o.all 4).length = 64 ∧ 2 ^ 30 ≤ bits r.req.toNat 256 50 ∧ isHbm (bits r.req.toNat 256 50) = true :=
  ⟨waiting (placeState teamBytes) (placeReq 288), served1 (waiting (placeState teamBytes) (placeReq 288)), ⟨placeReq 288, (placeState teamBytes).boot.fuses⟩, teamObj, teamBytes, rfl, by decide +kernel, by decide +kernel,
    sourced _ _ _ _ 288 0x50000000 (by decide +kernel) (by decide +kernel) (by decide +kernel) (by decide +kernel) (by decide +kernel) h, by decide +kernel, rfl, by decide +kernel, by decide +kernel,
    no_refusal _ rfl rfl rfl rfl rfl, by decide +kernel, by decide +kernel, by decide +kernel, by decide +kernel, by decide +kernel, by decide +kernel⟩

/-! ## A step, encodings, memory -/

theorem wit_step_runs_decoded :
    ∃ (s u : State) (l : Line) (i : Instr), TakesTurn s u ∧ Issues u.onTurn l ∧ decodeHead l.bytes (u.onTurn.th.pc.toNat / 2 % 32 - 1) = .ok i :=
  ⟨{ w1 with agenda := [.turn ⟨0, 0, 0⟩ 5], core := w1.core.setTh 0 { addrs with line := some ⟨0, lineOf ⟨0x01, 1, 5, 7 + 2 ^ 6 * 6⟩⟩ } }, _,
    ⟨0, lineOf ⟨0x01, 1, 5, 7 + 2 ^ 6 * 6⟩⟩, .add ⟨5, 7, 6⟩, ⟨rfl, .inr ⟨_, _, _, rfl, rfl⟩⟩,
    by constructor <;> decide +kernel, by rfl⟩

theorem wit_encoding_round_trip : ∃ (i : Instr) (e : Enc), i.wf = true ∧ encode i = some e := ⟨.addiL2 ⟨31, 31, -1⟩, _, by decide, rfl⟩

theorem wit_memory_kept : ∃ s t : State, Memory.wf s.mem = true ∧ step s = .next t := ⟨{ w1 with running := true, agenda := [.event ⟨0, 0, 0⟩ 0 .debugStop] }, _, by decide, rfl⟩

/-! ## Words of the spec's examples: what the decoder reads from a head and a tail -/

def Reads2 (head tail : Nat) (i : Instr) : Prop := decodeWord (head / 256) (head / 64 % 4) (head % 64) tail = .ok i

/-- Tables 2.14 (chapter 02) and the example of `rep` in chapter 04; the branch and the load with an immediate by Table 2.5. -/
theorem test_words_integer_control : Reads2 0x1F47 0x0000 (.li ⟨7, 0⟩) ∧ Reads2 0x4045 0x02C6 (.ld ⟨5, 6, 3, 0, 1⟩) ∧ Reads2 0x0147 0x0147 (.add ⟨7, 7, 5⟩) ∧
    Reads2 0x1A46 0x0406 (.addi ⟨6, 6, 16⟩) ∧ Reads2 0x3588 0x00000001 (.decb ⟨8, 1⟩) ∧ Reads2 0x3900 0 .exit ∧ Reads2 0x3680 0x09003004 (.rep ⟨0, 4, 0, 3, 9⟩) :=
  by and_intros <;> rfl

/-- Table 5.8. -/
theorem test_words_memory : Reads2 0x4740 0x00C6 (.feset ⟨0, 6, 0⟩) ∧ Reads2 0x4C02 0 (.fence ⟨2, 0⟩) ∧ Reads2 0x4283 0x000004C6 (.ldfe ⟨3, 6, 2, 0, 0, 0⟩) ∧
    Reads2 0x4685 0x000004C6 (.stef ⟨5, 6, 2, 0, 0, 0⟩) ∧ Reads2 0x4183 0x00000AC4 (.lda ⟨3, 4, 3, 0, 5, 0, 0, 0⟩) ∧ Reads2 0x4043 0x0784 (.ld ⟨3, 4, 2, 1, 3⟩) ∧
    Reads2 0x5083 0x01017144 (.amoadd ⟨3, 4, 5, 3, 5, 0, 0, 1⟩) ∧ Reads2 0x5384 0x0000B188 (.casp ⟨4, 8, 6, 2, 0, 0, 0⟩) :=
  by and_intros <;> rfl

/-- Table 6.9. -/
theorem test_words_streams : Reads2 0x5880 0x00000644 (.sbind ⟨0, 4, 1, 0, 3, 0⟩) ∧ Reads2 0x59C0 0x0000080007000000 (.sdimL3 ⟨0, 0, 7, 8⟩) ∧
    Reads2 0x5881 0x00000745 (.sbind ⟨1, 5, 1, 1, 3, 0⟩) ∧ Reads2 0x5C03 0 (.sgo ⟨3⟩) ∧ Reads2 0x5D03 0 (.sstop ⟨3⟩) := ⟨rfl, rfl, rfl, rfl, rfl⟩

/-- Table 7.3 and the example of `pdot` in chapter 07. -/
theorem test_words_float : Reads2 0x7043 0x0144 (.fadd ⟨3, 4, 5, 0⟩) ∧ Reads2 0x738E 0x0200E040 (.fma ⟨14, 0, 1, 14, 0, 2, 0⟩) ∧ Reads2 0x7643 0x0004 (.fneg ⟨3, 4, 0⟩) ∧
    Reads2 0x7743 0x5144 (.flt ⟨3, 4, 5, 1⟩) ∧ Reads2 0x7843 0x0004 (.fclass ⟨3, 4, 0⟩) ∧ Reads2 0x7943 0xD004 (.fcvt ⟨3, 4, 1, 3⟩) ∧
    Reads2 0x7A83 0x20000004 (.fcvtiL2 ⟨3, 4, 0, 0, 0, 2⟩) ∧ Reads2 0x7B43 0x0004 (.icvtf ⟨3, 4, 0, 0⟩) ∧ Reads2 0x9047 0x0000 (.pmov ⟨7, 0⟩) ∧
    Reads2 0x7E43 0x3FF8 (.fli ⟨3, 0x3FF8⟩) ∧ Reads2 0x7F83 0x00006144 (.fsel ⟨3, 4, 5, 6, 0⟩) ∧ Reads2 0xA343 0x1144 (.fdiv ⟨3, 4, 5, 1⟩) :=
  by and_intros <;> rfl

theorem test_words_packed : Reads2 0x8243 0x2144 (.pmul ⟨3, 4, 5, 2⟩) ∧ Reads2 0x8743 0x1144 (.psum ⟨3, 4, 5, 1⟩) ∧ Reads2 0x8943 0x0044 (.pbcast ⟨3, 4, 1, 0⟩) ∧
    Reads2 0x8A88 0x15000204 (.ppackL2 ⟨8, 4, 8, 0, 1, 1, 1⟩) ∧ Reads2 0x8B83 0x25000008 (.punpackL2 ⟨3, 8, 0, 1, 1, 2⟩) ∧ Reads2 0x8E43 0x5144 (.plt ⟨3, 4, 5, 1⟩) ∧
    Reads2 0x8F43 0x2144 (.pxor ⟨3, 4, 5⟩) ∧ Reads2 0x9180 0x000002E4 (.fmt ⟨0x2E4⟩) ∧ Reads2 0x8689 0x01009144 (.pdot ⟨9, 4, 5, 9, 0, 1⟩) :=
  by and_intros <;> rfl

/-- Table 10.2. -/
theorem test_words_messages : Reads2 0xB088 0x05000145 (.send ⟨8, 5, 1, 1, 5, 0⟩) ∧ Reads2 0xB0C8 0x0000000001000000 (.sendn ⟨8, 0, 0, 1, 0, 0, 0⟩) ∧
    Reads2 0xB148 0x204C (.recv ⟨8, 12, 1, 2, 0⟩) ∧ Reads2 0xB243 0x0040 (.mstat ⟨3, 1⟩) ∧ Reads2 0xB371 0x0005 (.qend ⟨1, 5⟩) ∧ Reads2 0xB443 0x00C0 (.qctlSt ⟨3, 0, 3⟩) ∧
    Reads2 0xB6C6 0x00000000000C0247 (.get ⟨6, 7, 9, 3, 0⟩) ∧ Reads2 0xB8C6 0x0000000300C0A247 (.getx ⟨6, 7, 9, 10, 0, 3, 0, 3, 0⟩) ∧
    Reads2 0xBA43 0x0084 (.cwait ⟨3, 4, 2⟩) ∧ Reads2 0xBCC1 0x0000000000180144 (.mbind ⟨1, 4, 5, 2, 1, 0⟩) :=
  by and_intros <;> rfl

/-- Tables 10.2 and 11.14. -/
theorem test_words_groups : Reads2 0xC048 0x0005 (.gbar ⟨0, 5⟩) ∧ Reads2 0xC143 0x0144 (.gredSum ⟨3, 4, 1, 1, 0⟩) ∧ Reads2 0xC283 0x00005004 (.gcastL2 ⟨3, 4, 5, 0, 0⟩) ∧
    Reads2 0xC383 0x00000084 (.gsum ⟨3, 4, 2⟩) ∧ Reads2 0xC443 0x2144 (.semsig ⟨3, 4, 5, 2, 0⟩) ∧ Reads2 0xC583 0x13000144 (.semwaitL2 ⟨3, 4, 5, 3, 2⟩) ∧
    Reads2 0xC643 0x0004 (.semread ⟨3, 4⟩) ∧ Reads2 0xC743 0x0084 (.estatRes ⟨3, 4⟩) := by and_intros <;> rfl

/-- Table 13.6. -/
theorem test_words_volumes : Reads2 0xD041 0x00C4 (.vbind ⟨1, 4, 0⟩) ∧ Reads2 0xD045 0x0000 (.vbindOff ⟨1⟩) ∧ Reads2 0xD183 0x00000044 (.cld ⟨3, 4, 1, 0⟩) ∧
    Reads2 0xD286 0x00000045 (.cst ⟨6, 5, 1⟩) ∧ Reads2 0xD383 0x00000044 (.cprobe ⟨3, 4, 1⟩) ∧ Reads2 0xD48B 0x0800A045 (.camoswap ⟨11, 5, 10, 1, 0, 0⟩) ∧
    Reads2 0xD483 0x39005044 (.ccas ⟨3, 4, 5, 1, 1, 1⟩) ∧ Reads2 0xD545 0x0044 (.cinv ⟨5, 0, 4, 1⟩) ∧ Reads2 0xD565 0x0040 (.cinvAll ⟨5, 0, 1⟩) ∧
    Reads2 0xD643 0x0144 (.callocCut ⟨3, 4, 1⟩) ∧ Reads2 0xD643 0x0240 (.callocFree ⟨3, 1⟩) ∧ Reads2 0xD643 0x1344 (.callocNode ⟨3, 4, 1, 1⟩) ∧
    Reads2 0xD78B 0x00000045 (.cnbr ⟨11, 5, 1⟩) := by and_intros <;> rfl

/-- Tables 17.9 and 22.1; `csrc g0, RMODE, g10` of chapter 08; `csrr` of `EFD1` by Table 2.5. -/
theorem test_words_system : Reads2 0xE745 0x0304 (.tlbiPage ⟨5, 0, 4, 3⟩) ∧ Reads2 0xE745 0x0340 (.tlbiCtx ⟨5, 0, 3⟩) ∧ Reads2 0xE746 0x0080 (.tlbiAll ⟨6, 0⟩) ∧
    Reads2 0xE784 0x000053C4 (.tlbiRange ⟨4, 0, 4, 5, 3⟩) ∧ Reads2 0xC843 0x0080 (.evcRd ⟨3, 2⟩) ∧ Reads2 0xC843 0x0484 (.evcSet ⟨3, 4, 2⟩) ∧
    Reads2 0xC845 0x0880 (.evcRc ⟨5, 2⟩) ∧ Reads2 0xE045 (0x09 * 2 ^ 6) (.csrr ⟨5, 9⟩) ∧ Reads2 0xE340 0x004A (.csrc ⟨0, 10, 1⟩) :=
  by and_intros <;> rfl

/-- The line of Table 2.15. -/
def table215 : List Byte :=
  [0x42, 0x30, 0x47, 0x1F, 0x45, 0x40, 0x47, 0x01, 0x46, 0x1A, 0x88, 0x35, 0x00, 0x39, 0x00, 0x00] ++ List.replicate 36 0 ++
    [0x01, 0x00, 0x00, 0x00, 0x06, 0x04, 0x47, 0x01, 0xC6, 0x02, 0x00, 0x00]

theorem test_line_of_table_2_15 : table215.length = 64 ∧ lineLegal table215 = true ∧ lineN table215 = 6 ∧ lineTail table215 1 = 0x02C6 ∧ lineTail table215 3 = 0x0406 ∧
    lineTail table215 4 = 1 := by decide +kernel

theorem test_line_of_table_2_15_decodes : decodeHead table215 0 = .ok (.li ⟨7, 0⟩) ∧ decodeHead table215 4 = .ok (.decb ⟨8, 1⟩) ∧ decodeHead table215 5 = .ok .exit := ⟨rfl, rfl, rfl⟩

/-- N = 0, N = 31, more heads and tails than 64 bytes, and bit 0 or bit 8 of the line word set (R42). -/
theorem test_illegal_lines : lineLegal (List.replicate 64 0) = false ∧ lineLegal (leBytes 2 (31 * 2048) ++ List.replicate 62 0) = false ∧
    lineLegal (leBytes 2 (30 * 2048) ++ leBytes 2 0x1F87 ++ List.replicate 60 0) = false ∧ lineLegal (leBytes 2 (1 * 2048 + 1) ++ List.replicate 62 0) = false ∧
    lineLegal (leBytes 2 (1 * 2048 + 256) ++ List.replicate 62 0) = false := by decide +kernel

/-! ## WellFormed refuses: one ill-formed term for each check -/

theorem test_wf_registers :
    ([.add ⟨32, 1, 2⟩, .add ⟨1, 32, 2⟩, .add ⟨1, 2, 63⟩, .fadd ⟨52, 0, 0, 0⟩, .casp ⟨3, 8, 6, 2, 0, 0, 0⟩, .casp ⟨4, 8, 7, 2, 0, 0, 0⟩, .ldp ⟨5, 6, 0⟩, .ldL2 ⟨1, 2, 3, 0, 1, 32⟩,
      .recv ⟨29, 0, 0, 0, 0⟩, .recv ⟨8, 11, 0, 0, 0⟩, .gredSum ⟨32, 4, 0, 0, 0⟩, .gredSum ⟨48, 4, 0, 1, 0⟩] : List Instr).all (fun i => !i.wf) = true := by decide +kernel

theorem test_wf_fields :
    ([.ldL2 ⟨1, 2, 3, 0, 1, 512⟩, .lda ⟨3, 4, 3, 0, 0, 0, 0, 0⟩, .lda ⟨3, 4, 3, 0, 7, 0, 0, 0⟩, .lda ⟨3, 4, 3, 0, 5, 1, 0, 0⟩, .semsig ⟨3, 4, 5, 7, 0⟩, .semsig ⟨3, 4, 5, 2, 1⟩,
      .amoadd ⟨3, 4, 5, 1, 5, 0, 0, 0⟩, .amoadd ⟨3, 4, 5, 3, 0, 0, 1, 0⟩, .waita ⟨3, 4, 1, 0, 0, 0, 0, 0⟩, .bext ⟨1, 2, 32, 32⟩, .sbind ⟨3, 4, 1, 0, 3, 0⟩, .sbind ⟨0, 4, 0, 0, 3, 0⟩,
      .sbind ⟨0, 4, 3, 0, 2, 0⟩, .sbind ⟨0, 4, 3, 0, 3, 1⟩, .sbind ⟨0, 4, 2, 0, 3, 2⟩, .sdir ⟨0, 1, 1⟩, .sgo ⟨0⟩, .sisect ⟨0, 0, 1, 0⟩, .sisect ⟨0, 1, 1, 0⟩, .fadd ⟨1, 2, 3, 3⟩,
      .faddL2 ⟨1, 2, 3, 0, 0, 7⟩, .fexp2 ⟨1, 2, 0⟩, .fcvtL2 ⟨1, 2, 0, 0, 0, 7⟩, .mbind ⟨0, 1, 2, 3, 0, 0⟩, .mbind ⟨0, 1, 2, 0, 3, 0⟩, .callocNode ⟨1, 2, 0, 0⟩, .csrr ⟨1, 6⟩] :
      List Instr).all (fun i => !i.wf) = true := by decide +kernel

/-! ## Values of the spec's examples -/

/-- The example of `pdot` in chapter 07: 5.25; a zero scale of A; a NaN that it does not hide. -/
theorem test_pdot :
    let f := fun (b c : Nat) => computeF ⟨0, 0, 0⟩ { op := 0x86, d := 9, a := 4, b := 5, c := 9, m8 := 1 } 0xB8304038 b c 0x204
    (f 0x40483844 0x00007E803E800000).v = some 0x00007E8040A80000 ∧ (f 0x40483844 0x00007E803E800000).flags = 0 ∧
    (f 0x40483844 0x00007E003E800000).v = some 0x00007E003E800000 ∧ (f 0x4048387F 0x00007E003E800000).v = some 0x00007E007FC00000 ∧
    (f 0x4048387F 0x00007E003E800000).flags = 0 := by decide +kernel

/-- R94's example: −0.5 and −1.5 to UINT64 toward zero; the first sets NX alone, the second NV alone. -/
theorem test_to_unsigned :
    let f := fun (a : Nat) => computeF ⟨0, 0, 0⟩ { op := 0x7A, d := 3, a := 4, m8 := 0x24 } a 0 0 0
    (f 0xBFE0000000000000).g = some 0 ∧ (f 0xBFE0000000000000).flags = 1 ∧ (f 0xBFF8000000000000).g = some 0 ∧ (f 0xBFF8000000000000).flags = 16 := by decide +kernel

/-- The example of stochastic rounding in chapter 03: 0x3F806000 to BF16 with the drawn integers 0xB1234 and 0x10000. -/
theorem test_stochastic : (toCode (elemValue fp32 0x3F806000) false bf16 false 5 0xB1234).code = 0x3F81 ∧
    (toCode (elemValue fp32 0x3F806000) false bf16 false 5 0x10000).code = 0x3F80 ∧ (toCode (elemValue fp32 0x3F806000) false bf16 false 5 0x10000).flags = 1 ∧
    stochBits 0 0 0 = 0 := by decide +kernel

/-- The example of R93: two chunks that each add 2^−24 to 1.0 leave it; a single sum would not. -/
theorem test_matrix_chunks :
    let x := FNum.fin false 1 (-12)
    (dot 0x3F800000 [x] [x]).code = 0x3F800000 ∧ (dot 0x3F800000 [x, x] [x, x]).code = 0x3F800001 := by decide +kernel

/-- The descriptors of chapter 03: MXINT8 by a programmable format; E4M3 with stochastic rounding and SAT; FMT 10, and RND 7, are invalid (R80). -/
theorem test_descriptors : descValid 0x37120F = true ∧ descValid 0x2E4 = true ∧ descValid 0xA = false ∧ descValid 0x70 = false ∧
    elemValue (descFmt 0x37120F) 0x81 = FNum.fin true 127 (-6) := by decide +kernel

/-! ## Single steps -/

/-- A thread whose `g1` and `g2` hold two values, and what a register holds after a step. -/
def pair (x y : Word) : State := withThread ((runner.setG 1 x).setG 2 y)
def after (o : Out) (r : Reg) : Option Nat := match o with
  | .next t => some (t.g r).toNat
  | _ => none

/-- Table 4.1 by hand: a wrap, the two high products, a shift whose amount has bits above 63, a rotation. -/
theorem test_table_4_1 : after (exec (.add ⟨3, 1, 2⟩) (pair (-1) 2)) 3 = some 1 ∧ after (exec (.mulh ⟨3, 1, 2⟩) (pair (-1) 2)) 3 = some (2 ^ 64 - 1) ∧
    after (exec (.mulhz ⟨3, 1, 2⟩) (pair (-1) 2)) 3 = some 1 ∧ after (exec (.shl ⟨3, 1, 2⟩) (pair 3 65)) 3 = some 6 ∧
    after (exec (.sra ⟨3, 1, 2⟩) (pair (-8) 1)) 3 = some (2 ^ 64 - 4) ∧ after (exec (.rotl ⟨1, 1, 2⟩) (pair 0x8000000000000001 1)) 1 = some 3 ∧
    after (exec (.slt ⟨3, 1, 2⟩) (pair (-1) 1)) 3 = some 1 ∧ after (exec (.sltz ⟨3, 1, 2⟩) (pair (-1) 1)) 3 = some 0 := by decide +kernel

/-- Fields and immediates by hand: `bins` with its destination as a source, `clz` of 0, a sign extension, `slti` of −1, `li` of 16 bits. -/
theorem test_fields : after (exec (.bins ⟨1, 2, 4, 7⟩) (pair 0xFFFFFFFFFFFFFFFF 0x12)) 1 = some 0xFFFFFFFFFFFFF12F ∧ after (exec (.bext ⟨3, 1, 56, 7⟩) (pair (-1) 0)) 3 = some 255 ∧
    after (exec (.clz ⟨3, 1⟩) (pair 0 0)) 3 = some 64 ∧ after (exec (.sextW ⟨3, 1⟩) (pair 0x80000000 0)) 3 = some 0xFFFFFFFF80000000 ∧
    after (exec (.slti ⟨3, 1, 0⟩) (pair (-1) 0)) 3 = some 1 ∧ after (exec (.li ⟨3, 0x8000⟩) (pair 0 0)) 3 = some 0xFFFFFFFFFFFF8000 := by decide +kernel

/-- `jmp` to the second head of its own line: the PC is the line's address + 2 + 2 × 1 (R38); `decb` of 1 writes 0 and goes on. -/
theorem test_jumps : (match exec (.jmp ⟨1⟩) w0 with
    | .next t => t.th.pc.toNat
    | _ => 0) = 4 ∧ after (exec (.decb ⟨7, 0⟩) w1) 7 = some 0 := by decide +kernel

/-- `ld.wz` and `ld.w` of a word whose top bit is set, in the local store; a byte stored leaves its neighbours. -/
theorem test_loads : (let s := { w1 with mem := Memory.setBytes [] (lsLoc 0 0 0 0x100) [1, 0, 0, 0x80, 9] }
    after (exec (.ld ⟨3, 5, 2, 1, 0⟩) s) 3 = some 0x80000001 ∧ after (exec (.ld ⟨3, 5, 2, 0, 0⟩) s) 3 = some 0xFFFFFFFF80000001) := by decide +kernel

/-- Codes 0xF0 to 0xFF are reserved opcodes (R51). -/
theorem test_reserved_word : (match decodeWord 0xFF 0 0 0 with
    | .error e => e == .opcode
    | .ok _ => false) = true := rfl

end Sys2Proof.Tests
end

section
/-! PROOFS. The general registers and their codes (chapter 01): `g0` reads as zero and a write to it is discarded, and a row of the opcode
map refuses a register code of 32 or more. -/
namespace Sys2Proof.Machine

@[simp] theorem greg_zero (t : Thread) : t.greg 0 = 0 := by simp [Thread.greg]
@[simp] theorem setG_zero (t : Thread) (v : Word) : t.setG 0 v = t := by simp [Thread.setG]

/-- A row whose operands hold a bad register code is refused as such, whatever its reserved fields hold (Table 2.10). -/
theorem row_eq_register {α β : Type} {regs fields : α → Bool} {reserved : Bool} {o : α} {mk : α → β} (h : regs o = false) :
    row regs fields reserved o mk = .error .register := by simp [row, h]

/-- Three `g` codes placed in D and the tail are good exactly when each is below 32. -/
theorem regsOk_parse_GGG {d a b : Nat} (hd : d < 64) (ha : a < 64) (hb : b < 64) :
    GGG.regsOk (GGG.parse d (a + 2 ^ 6 * b)) = true ↔ d < 32 ∧ a < 32 ∧ b < 32 := by
  have hD : (fld d 0 6).toNat = d := by simp only [fld, bits, BitVec.toNat_ofNat]; omega
  have hA : (fld (a + 2 ^ 6 * b) 0 6).toNat = a := by simp only [fld, bits, BitVec.toNat_ofNat]; omega
  have hB : (fld (a + 2 ^ 6 * b) 6 6).toNat = b := by simp only [fld, bits, BitVec.toNat_ofNat]; omega
  simp only [GGG.regsOk, GGG.parse, gOk, hD, hA, hB, Bool.and_eq_true, decide_eq_true_eq, and_assoc]

/-- Opcode 0x01 with a tail of 16 bits is the row of `add` (Tables 2.7 and 2.8). -/
theorem decodeWord_add (d t : Nat) :
    decodeWord 0x01 1 d t = ((row GGG.regsOk GGG.fieldsOk (zero t 12 4) (GGG.parse d t) .add).map Parsed.lower).map Parsed.instr := rfl

/-- Settles O1: `g0` by the two lemmas about it, any other register by `greg_setG`, a bad code by the row of `add` (R25, Table 2.10). -/
theorem zeroRegister : Obligations.ZeroRegister := by
  refine ⟨fun s => greg_zero s.th, fun t d v => ⟨fun r => by rw [setG_zero], ?_⟩, ?_⟩
  · intro hd0 hd r hr
    have hiff : r = d ∧ r ≠ 0 ↔ r = d := and_iff_left_of_imp fun h => h ▸ hd0
    rw [greg_setG t d r v hd hr, if_congr hiff rfl rfl]
  · intro d a b hd ha hb hbad
    have hregs : GGG.regsOk (GGG.parse d (a + 2 ^ 6 * b)) = false := by
      rw [Bool.eq_false_iff, Ne, regsOk_parse_GGG hd ha hb]
      omega
    rw [decodeWord_add, row_eq_register hregs]
    rfl

end Sys2Proof.Machine
end

section
/-! PROOFS. Constants (chapter 04, R105): `li` in its three lengths, its encoding, and the values that a 32-bit immediate reaches. -/
namespace Sys2Proof.Machine

/-- A sign-extended immediate of 32 bits repeats its sign in the upper 33 bits. -/
theorem extractLsb'_signExtend_32 (k : BitVec 32) :
    (k.signExtend 64).extractLsb' 31 33 = if k.msb then BitVec.allOnes 33 else 0 := by
  refine BitVec.eq_of_getLsbD_eq fun i hi => ?_
  have hsign : (k.signExtend 64).getLsbD (31 + i) = k.msb := by
    rw [BitVec.getLsbD_signExtend, decide_eq_true (by omega : 31 + i < 64), Bool.true_and]
    split
    · rw [show i = 0 by omega, BitVec.msb_eq_getLsbD_last]
    · rfl
  rw [BitVec.getLsbD_extractLsb', decide_eq_true hi, Bool.true_and, hsign]
  cases k.msb
  · exact BitVec.getLsbD_zero.symm
  · exact (BitVec.getLsbD_allOnes.trans (decide_eq_true hi)).symm

/-- An instruction that only writes a value to `g`d completes with it. -/
theorem issue_result_completes {s : State} {d : Reg} {v w : Word} (hd : d.toNat < 32) (h : Ready s [d]) (hv : v = w) :
    CompletesG (s.issue [d] fun s => s.result d v) s d w := by
  rw [issue_ready h]
  exact result_completes hd hv

/-- A `g` code of D below 32 makes the operands of `li` well formed, in each length (R47). -/
theorem li_wf {d : Reg} (hd : d.toNat < 32) :
    (∀ k, (Instr.li ⟨d, k⟩).wf = true) ∧ (∀ k, (Instr.liL2 ⟨d, k⟩).wf = true) ∧ ∀ k, (Instr.liL3 ⟨d, k⟩).wf = true := by
  have hg : gOk d = true := decide_eq_true hd
  refine ⟨fun k => ?_, fun k => ?_, fun k => ?_⟩ <;> exact Bool.and_eq_true_iff.mpr ⟨hg, rfl⟩

/-- Settles O2: each length issues and writes its immediate (R105), opcode 0x1F is read back by the round trip of the encoder, and a
sign-extended 32-bit immediate has 33 equal upper bits. -/
theorem loadImmediate : Obligations.LoadImmediate := by
  refine ⟨fun s d hd h => ⟨fun k => ?_, fun k => ?_, fun k => ?_⟩, fun d hd => ?_, ?_⟩
  · exact issue_result_completes hd h rfl
  · exact issue_result_completes hd h rfl
  · exact issue_result_completes hd h (BitVec.signExtend_eq k)
  · obtain ⟨h1, h2, h3⟩ := li_wf hd
    exact ⟨fun k => Laws.RoundTrip.li _ (h1 k) _ rfl, fun k => Laws.RoundTrip.liL2 _ (h2 k) _ rfl,
      fun k => Laws.RoundTrip.liL3 _ (h3 k) _ rfl⟩
  · rintro v hzero hones k rfl
    rw [extractLsb'_signExtend_32] at hzero hones
    split at hzero
    · exact hones (if_pos ‹_›)
    · exact hzero rfl

end Sys2Proof.Machine
end

section
/-! PROOFS. Division (chapter 04, R100 and R112): the results of Table 4.2, and the divider from issue to DIVIDE_COMPLETE. -/
namespace Sys2Proof.Machine

/-! ## Table 4.2 -/

/-- Rounding toward zero wraps only for -2^63 / -1, where the quotient is -2^63 again. -/
theorem divS_eq (a b : Word) : divS a b = if b = 0 then BitVec.allOnes 64 else a.sdiv b := by
  have h : BitVec.ofInt 64 (a.toInt.tdiv b.toInt) = a.sdiv b :=
    BitVec.eq_of_toInt_eq (by rw [BitVec.toInt_ofInt, BitVec.toInt_sdiv])
  rw [divS, h]

theorem divU_eq (a b : Word) : divU a b = if b = 0 then BitVec.allOnes 64 else a / b := by
  rw [divU, BitVec.udiv_def]

theorem remS_eq (a b : Word) : remS a b = if b = 0 then a else a.srem b := by
  rw [remS, ← BitVec.toInt_srem, BitVec.ofInt_toInt]

theorem remU_eq (a b : Word) : remU a b = if b = 0 then a else a % b := by
  rw [remU, BitVec.umod_def]

/-! ## The divider -/

/-- The state after a division has issued: the divider holds it, and control has gone on (R112). -/
def State.divideStart (s : State) (d : Reg) (v : Word) : State :=
  (s.modCore fun c => { c with divider := some ⟨s.cur, d, v⟩ }).advance

theorem divide_free {s : State} {o : GGG} (f : Word → Word → Word) (h : Ready s [o.a, o.b, o.d]) (hfree : s.core.divider = none) :
    s.divide o f = .next (s.divideStart o.d (f (s.g o.a) (s.g o.b))) := by
  simp [State.divide, State.divideStart, issue_ready h, hfree]

theorem divide_busy {s : State} {o : GGG} (f : Word → Word → Word) (h : Ready s [o.a, o.b, o.d]) (hbusy : s.core.divider.isSome = true) :
    s.divide o f = .next s.stall := by
  simp [State.divide, issue_ready h, hbusy]

section
variable (s : State) (d : Reg) (v : Word)

@[simp] theorem divideStart_cur : (s.divideStart d v).cur = s.cur := rfl
@[simp] theorem divideStart_divider : (s.divideStart d v).core.divider = some ⟨s.cur, d, v⟩ := rfl
theorem divideStart_th : (s.divideStart d v).th = s.th.complete := State.modTh_th ..

/-- The destination of a division in flight is pending, unless it is `g0` (R112). -/
theorem divideStart_pendingG (hd : d ≠ 0) : (s.divideStart d v).pendingG d = true := by
  have hd' : d.toNat ≠ 0 := fun h => hd (BitVec.eq_of_toNat_eq h)
  simp [State.pendingG, hd']

end

/-- A core whose division finishes: the destination is written and the divider is free; stalled slots look again (R112). -/
def Core.divideEnd (c : Core) (x : Division) : Core :=
  ({ c with divider := none }.modTh x.slot fun t => t.setG x.d x.val).unstall

theorem execDivideComplete_some {s : State} {x : Division} (h : s.core.divider = some x) :
    execDivideComplete s = .next (s.modCore (·.divideEnd x)) := by
  simp only [execDivideComplete, h, Core.divideEnd]

@[simp] theorem divideEnd_divider (c : Core) (x : Division) : (c.divideEnd x).divider = none := rfl

/-- Slots that look again keep their registers. -/
theorem unstall_greg (c : Core) (i : Fin 4) (r : Reg) : (c.unstall.th i).greg r = (c.th i).greg r := by
  simp only [Core.unstall, Core.mapTh, Core.th, Vector.getElem_ofFn]
  split <;> rfl

/-- The slot that divided finds the result in its destination (R25, R112). -/
theorem divideEnd_greg (c : Core) (x : Division) (r : Reg) (hd : x.d.toNat < 32) (hr : r.toNat < 32) :
    ((c.divideEnd x).th x.slot).greg r = if r = x.d ∧ r ≠ 0 then x.val else (c.th x.slot).greg r := by
  rw [Core.divideEnd, unstall_greg, ← greg_setG _ x.d r x.val hd hr]
  simp [Core.modTh, Core.setTh, Core.th]

/-- What O6 says of a division by a slot: while the divider is free it issues, and DIVIDE_COMPLETE then writes v to D; while it is busy
the slot stalls (R100, R112). -/
def Divides (o : Out) (s : State) (d : Reg) (v : Word) : Prop :=
  (s.core.divider = none → ∃ t u, o = .next t ∧ t.th.pc = s.th.nextPc ∧ t.th.g = s.th.g ∧
    (d ≠ 0 → t.pendingG d = true) ∧ exec .divideComplete t = .next u ∧ SameBytes s u ∧
    (∀ r : Reg, r.toNat < 32 → u.g r = if r = d ∧ r ≠ 0 then v else s.g r) ∧ u.core.divider = none) ∧
  (s.core.divider.isSome → o = .next s.stall)

theorem divide_divides {s : State} {o : GGG} (f : Word → Word → Word) (hd : o.d.toNat < 32) (h : Ready s [o.a, o.b, o.d]) :
    Divides (s.divide o f) s o.d (f (s.g o.a) (s.g o.b)) := by
  refine ⟨fun hfree => ?_, divide_busy f h⟩
  have hth := divideStart_th s o.d (f (s.g o.a) (s.g o.b))
  refine ⟨_, _, divide_free f h hfree, by rw [hth]; rfl, by rw [hth]; rfl, divideStart_pendingG _ _ _,
    execDivideComplete_some (divideStart_divider ..), fun _ => rfl, fun r hr => ?_,
    divideEnd_divider ..⟩
  calc
    _ = if r = o.d ∧ r ≠ 0 then f (s.g o.a) (s.g o.b) else (s.divideStart o.d (f (s.g o.a) (s.g o.b))).th.greg r :=
      divideEnd_greg _ ⟨s.cur, o.d, _⟩ r hd hr
    _ = _ := by rw [hth]; rfl

/-- Settles O6: each of the four instructions is `State.divide` with its line of Table 4.2. -/
theorem division : Obligations.Division := by
  intro s o i v hd h hi
  show Divides (exec i s) s o.d v
  rcases hi with ⟨rfl, rfl⟩ | ⟨rfl, rfl⟩ | ⟨rfl, rfl⟩ | ⟨rfl, rfl⟩
  · rw [← divS_eq]; exact divide_divides divS hd h
  · rw [← divU_eq]; exact divide_divides divU hd h
  · rw [← remS_eq]; exact divide_divides remS hd h
  · rw [← remU_eq]; exact divide_divides remU hd h

end Sys2Proof.Machine
end

section
/-! PROOFS. Semaphores (chapter 11): the wait condition as arithmetic modulo 2^16 (R302), a signal that no slot waits for (R300, R323), and
the increment that brings a semaphore back to 0. -/
namespace Sys2Proof.Machine

/-! ## The wait condition -/

/-- The difference of two 16-bit words is their difference modulo 2^16, which R302 compares with 2^15. -/
theorem semMeets_iff (v t : BitVec 16) : semMeets v t = true ↔ (v.toNat + 2 ^ 16 - t.toNat) % 2 ^ 16 < 2 ^ 15 := by
  have hcomm : 2 ^ 16 - t.toNat + v.toNat = v.toNat + 2 ^ 16 - t.toNat := by have := t.isLt; omega
  rw [semMeets, decide_eq_true_iff, BitVec.toNat_sub, hcomm]

/-- A value and the increment that R302 gives for it add to 0. -/
theorem add_setWidth_eq_zero {v : BitVec 16} {x : Word} (h : x.toNat % 2 ^ 16 = (2 ^ 16 - v.toNat) % 2 ^ 16) : v + x.setWidth 16 = 0 := by
  have hv := v.isLt
  refine BitVec.eq_of_toNat_eq (show (v + x.setWidth 16).toNat = 0 from ?_)
  rw [BitVec.toNat_add, BitVec.toNat_setWidth, h]
  omega

/-! ## A signal without waiters -/

/-- Semaphore n advanced by an increment, before any waiter is tested (R300). -/
def State.semAdd (s : State) (n : Nat) (inc : BitVec 16) : State :=
  s.modCl fun c => { c with sems := c.sems.set (n % 256) (s.sem n + inc) (Nat.mod_lt _ (by decide)) }

section
variable (s : State) (n : Nat) (inc : BitVec 16)

@[simp] theorem semAdd_th : (s.semAdd n inc).th = s.th := rfl
@[simp] theorem semAdd_mem : (s.semAdd n inc).mem = s.mem := rfl
@[simp] theorem sem_semAdd : (s.semAdd n inc).sem n = s.sem n + inc := Vector.getElem_set_self ..

/-- While no slot waits, a signal is the addition alone (R300, R323). -/
theorem signal_of_semWait_nil (h : s.cl.semWait = []) : s.signal n inc = s.semAdd n inc := by
  show State.signalFuel s.cl.semWait.length (n % 256) (s.semAdd n inc) = _
  rw [h, List.length_nil, State.signalFuel]

end

/-- A `semsig` without a release, while no slot waits: the old value goes to D, and the semaphore advances (R323). -/
theorem exec_semsig_of_semWait_nil {s : State} {o : SemR} (h : Ready s [o.d, o.a, o.b]) (hsc : o.sc = 0) (hwait : s.cl.semWait = []) :
    let n := (s.g o.a).toNat % 256
    exec (.semsig o) s = .next ((s.result o.d ((s.sem n).setWidth 64)).semAdd n ((s.g o.b).setWidth 16)) := by
  have hn : bits (s.g o.a).toNat 0 8 = (s.g o.a).toNat % 256 := by rw [bits, Nat.pow_zero, Nat.div_one]; rfl
  rw [exec_semsig, execSemsig, State.semsigAt, issue_ready h, State.release_, if_pos hsc]
  dsimp only
  rw [hn, signal_of_semWait_nil (s.result _ _) _ _ hwait]

/-! ## Going on -/

/-- A thread that has gone on keeps every register other than `g`. -/
theorem Thread.WentOn.keepsRegs {t u : Thread} {pc : BitVec 48} (h : t.WentOn u pc) : t.KeepsRegs u := by
  rw [Thread.KeepsRegs, h]
  simp only [and_self]

/-- An instruction that completes with a result for `g`d goes on, whatever it then does beyond its thread and memory. -/
theorem goesOn_of_completes {s t u : State} {d : Reg} {v : Word} {P : State → Prop} (h : CompletesG (.next t) s d v)
    (hth : u.th = t.th) (hmem : u.mem = t.mem) (hP : P u) : GoesOn (.next u) s P := by
  obtain ⟨_, ht, ⟨_, hbytes⟩, hwent, _⟩ := h
  cases ht
  refine ⟨u, rfl, ?_, ?_, hth ▸ hwent.keepsRegs, fun a => hmem ▸ hbytes a, hP⟩
  · rw [hth, hwent]
  · rw [hth, hwent]

/-- Settles O31: the condition is a comparison of 16-bit words; with no slot waiting, `semsig` adds the increment, which makes the sum 0
modulo 2^16 (R302). -/
theorem semaphoreCondition : Obligations.SemaphoreCondition := by
  refine ⟨semMeets_iff, fun s o h hd hsc hwait hinc => ?_⟩
  rw [exec_semsig_of_semWait_nil h hsc hwait]
  refine goesOn_of_completes (result_completes hd rfl) (semAdd_th ..) (semAdd_mem ..) ?_
  exact (sem_semAdd ..).trans (add_setWidth_eq_zero hinc)

end Sys2Proof.Machine
end
